-- ==== Sys2Proof/Word.lean ====
section
/-!
DEFINITION. The words of the block: a byte, the 64-bit register and image word (R6, R85), the
wider records of the manual, and the identifiers that the manual gives a fixed width.
-/
namespace Sys2Proof

abbrev Byte := BitVec 8
/-- Every register and every plan-image word (R6, R85). -/
abbrev W64 := BitVec 64
/-- A coded error message, a steering header, a Locus (R288, R98, R24). -/
abbrev W128 := BitVec 128
/-- Host Unit ID (R25). -/
abbrev Huid := BitVec 16
/-- A job context, 4,096 per die. -/
abbrev Ctx := BitVec 12
/-- A byte sequence, lowest address first (R5). -/
abbrev Bytes := List Byte

end Sys2Proof
end

