-- ==== Sys2Proof/Syntax.lean ====
section
/-!
DEFINITION. The commands of the block: one constructor of `Instr` per row of the table, in the
table's order. An operand is what reaches the block from outside (a packet, a register word, a
pin) or what the physical world decides at that step and the manual leaves to it (whether a
known-answer test passes, which codeword bit an upset flipped): such an operand is marked
`physical` in the docstring of its type.
-/
namespace Sys2Proof

/-- One packet that a Mesh Attach port received (R509 to R512): the class of its flits, their number
from SOP to EOP, the 8-byte header and the bytes after it, prefix first. -/
structure Ingress where
  port   : BitVec 3
  cls    : BitVec 2
  flits  : Nat
  header : W64
  body   : Bytes
  deriving DecidableEq, Repr

/-- One Hitch packet (R351, R352): routing header; the 24-byte body of a short packet or the
extension of a long one; the payload of a long one. -/
structure HxPkt where
  header  : W64
  ext     : BitVec 192
  payload : Bytes
  deriving DecidableEq, Repr

/-- One codeword of a Hitch frame as the FEC decoder leaves it (R348): decoded with `n` corrected
symbols, or uncorrectable. Physical. -/
inductive Codeword where
  | good (corrected : Nat)
  | bad
  deriving DecidableEq, Repr

/-- A Hitch frame at the receiver (R347): its codewords, its control slot, the packets it completes
and the buffers its packets fill. -/
structure Frame where
  words   : List Codeword
  control : BitVec 256
  packets : List HxPkt
  /-- local arrival stamp of a sync frame, in units of 2^-5 ns (R372) -/
  arrived : Nat
  deriving DecidableEq, Repr

/-- What a training state of a Hitch port found (R343). Physical. -/
structure TrainInfo where
  /-- lanes locked at both ends, bit l for lane l -/
  lanes    : BitVec 2
  swap     : Bool
  polarity : BitVec 2
  peerDie  : BitVec 6
  peerPort : BitVec 2
  /-- FEC_TEST passed its 4,096 frames -/
  fecPass  : Bool
  deriving DecidableEq, Repr

/-- What one of two redundant compare paths answers: the value computed from its operands, another
outcome that a fault of the path produced, or nothing, because an uncorrectable error voided it.
Physical. -/
inductive PathSay where
  | exact
  | other (outcome : BitVec 3) (mask : BitVec 4)
  | void
  deriving DecidableEq, Repr

/-- What the ECC of an array finds at an access (R212, R213). Physical. -/
inductive EccSay where
  | clean
  | corrected (bit : BitVec 7)
  | uncorrectable
  /-- the error lies in the tag word, which an access reads first -/
  | tagCorrected (bit : BitVec 7)
  | tagUncorrectable
  deriving DecidableEq, Repr

/-- The identity that every access to a slot carries (R206) and the requester port that issues it. -/
structure Access where
  ctx     : Ctx
  epoch   : Bool
  step    : BitVec 32
  attempt : BitVec 2
  /-- crossbar requester: 0 to 15 CAP, 16 to 31 clusters, 32 to 39 PER pipes, 40 OB, 41 to 44 MEM engine -/
  port    : BitVec 6
  deriving DecidableEq, Repr

/-- One failing codeword of BIST, in the fields of `FR.FAIL` (R385, R402). Physical. -/
structure FailEntry where
  array    : BitVec 3
  inst     : BitVec 6
  bank     : BitVec 4
  row      : BitVec 10
  codeword : BitVec 7
  bit      : BitVec 7
  phase    : BitVec 4
  deriving DecidableEq, Repr

/-- How an erased memory read back (R220, R221): the words that did not read zero, by word address, and the value
read. Physical. -/
structure WipeSay where
  bad : List (BitVec 23 × W64)
  deriving DecidableEq, Repr

/-- What S1 finds (R417, R454). Physical. -/
structure SelfTest where
  lockstepOk : Bool
  keyStoreOk : Bool
  trngOk     : Bool
  deriving DecidableEq, Repr

/-- What the survey of S5 finds (R418). Physical. -/
structure Survey where
  /-- sectors that answered POWER_ON and FENCE_CORES -/
  sectorsOk : BitVec 64
  /-- routers (class ROUTER HUIDs) that did not answer TABLE_READ -/
  deadRouters : List Huid
  /-- links that are not at full width: HUID, trained lanes (0: down) -/
  links : List (Huid × Nat)
  /-- present cores the topology lacks, or named cores that do not answer -/
  mismatches : List Huid
  tackOk : Bool
  deriving DecidableEq, Repr

/-- How one pair of S6 ended (R419, R420). Physical. -/
inductive PairSay where
  | bothPass (a b : Huid)
  | oneFails (bad good : Huid)
  | unresolved (a b : Huid)
  | singlePass (a : Huid)
  | singleFails (a : Huid)
  deriving DecidableEq, Repr

/-- Result of a channel check, cross-check, scan block or flash block (R395, R398). Physical. -/
structure ScanSay where
  signatureOk : Bool
  blockCrcOk  : Bool
  deriving DecidableEq, Repr

/-- A TAP instruction by its name in the manual (R456). -/
inductive TapOp where
  | bypass
  | idcode
  | samplePreload
  /-- any other instruction; `array` names the Silorn array that it reaches, if one -/
  | other (array : Option (BitVec 2))
  deriving DecidableEq, Repr

/-- Who a writer waiting for ring room is (R297, R298). -/
inductive Writer where
  | eventPort
  | mesh (port : BitVec 3)
  | collector (unit : BitVec 5)
  | fcOwn
  | injected
  deriving DecidableEq, Repr

/-- What starts a dump (R493). -/
inductive DumpCause where
  | host (priv : BitVec 2) (w : W64)
  | fault
  | partHang
  deriving DecidableEq, Repr

/-- The commands: one constructor per row of spec/opcode_table.json, in its order. -/
inductive Instr where
  -- check plans, Ledger, CAP
  | planOpen (p : Ingress)
  | planData (p : Ingress)
  | planRetire (p : Ingress)
  | openTimeout
  | admission
  | digest (p : Ingress)
  | perim (p : Ingress)
  | capture (p : Ingress)
  | stepDone (p : Ingress)
  | fireHeldRelease (lane : BitVec 6)
  | resGraceExpiry (ctx : Ctx) (epoch : Bool) (step : BitVec 32)
  | release (ctx : Ctx)
  | stepTimeout (ctx : Ctx) (epoch : Bool) (step : BitVec 32)
  | planEpochFlip (ctx : Ctx)
  | clusterReconfig (ctx : Ctx) (cluster : BitVec 4)
  -- TWC
  | twcCompare (a b : PathSay)
  | xdigest (p : HxPkt)
  | twcKat (passA passB : Bool)
  -- PER
  | perimCompare (pipe : BitVec 3) (a b : PathSay) (katA katB : Bool)
  | perKatPeriod (pass : BitVec 8)
  -- SA
  | shadowTaskStart (lane : BitVec 6)
  | shadowTaskDone (lane : BitVec 6) (residueFails : Bool) (wrong : Option (BitVec 40 × BitVec 32)) (b : PathSay) (katPass : Bool)
  | partialPush (lane : BitVec 6)
  | inboundQueueCombine (cluster : BitVec 4)
  | remoteRead (lane : BitVec 6) (cluster : BitVec 4) (offset : BitVec 19) (lines : BitVec 8)
  | saKatPeriod (pass : W64)
  -- MEM
  | bankRead (slot : BitVec 15) (line : BitVec 5) (a : Access) (ecc : EccSay)
  | bankWrite (slot : BitVec 15) (line : BitVec 5) (mask : W64) (data : BitVec 512) (a : Access) (ecc : EccSay)
  | add64 (slot : BitVec 15) (word : BitVec 8) (v : W64) (a : Access) (ecc : EccSay)
  | lpfAdd (slot : BitVec 15) (offset8 : BitVec 8) (rec : Bytes) (a : Access) (ecc : EccSay)
  | alloc (slot : BitVec 15) (ctx : Ctx) (plan : BitVec 6) (epoch : Bool)
  | bind (slot : BitVec 15) (a : Access)
  | setFull (slot : BitVec 15) (a : Access)
  | clear (slot : BitVec 15)
  | scrubSet (slot : BitVec 15)
  | free (slot : BitVec 15)
  | rowmap (bank : BitVec 6) (row : BitVec 10)
  | fill (slot : BitVec 15) (count : BitVec 15) (pattern : W64)
  | copy (src : BitVec 15) (count : BitVec 15) (dst : BitVec 15) (toLane : Option (BitVec 6))
  | erase (ctx : Ctx) (r : WipeSay) (r2 : WipeSay)
  | laneWipe (lane : BitVec 6) (r : WipeSay) (r2 : WipeSay)
  | erasureComplete (ctx : Ctx)
  | shedDrain (shed : BitVec 2)
  | shedOff (shed : BitVec 2)
  | drainTimeout (shed : BitVec 2) (port : BitVec 6)
  | shedInitDone (shed : BitVec 2)
  -- VU
  | procedureStart (katPass : Bool)
  | settleReply (p : Ingress)
  | settleTimeout (core : Huid)
  | redispatchTimeout (ctx : Ctx) (step : BitVec 32) (task : BitVec 15)
  | replaySend (ctx : Ctx)
  | xsettle (p : HxPkt)
  | xverdict (p : HxPkt)
  | xverdictWaitTimeout (ctx : Ctx) (step : BitVec 32) (task : BitVec 15)
  | turnoutSelect (core : Huid)
  | suspectTest (core : Huid)
  -- YM
  | hlinkDown (link : Huid)
  | hlinkWidth (link : Huid) (trained full : BitVec 4)
  | hrouterFail (router : Huid)
  | routeMiss (router : Huid) (entry : BitVec 8)
  | installStart
  | fcpResponse (header data : W64)
  | countReadPoll
  | retireTimeout
  -- Intake and FC
  | eventPortMessage (k0 : Bool) (d0 : W64) (k1 : Bool) (d1 : W64)
  | event (p : Ingress)
  | ringPlaceRetry (w : Writer)
  | fcProcess
  | fcAck (priv : BitVec 2) (w : W64)
  | injectMessage (priv : BitVec 2) (w : W64)
  | injectLocal (priv : BitVec 2) (w : W64)
  | injectEcc (priv : BitVec 2) (w : W64)
  -- CT
  | ctTimeout (entry : BitVec 11)
  | scAck (sector : BitVec 6) (status : BitVec 2) (rdata : W64)
  | scWithdrawTimeout (sector : BitVec 6)
  | ctEntryFree
  | killCtx (priv : BitVec 2) (w : W64)
  | fenceCore (priv : BitVec 2) (w : W64)
  | unfenceCore (priv : BitVec 2) (w : W64)
  | resetSector (priv : BitVec 2) (w : W64)
  | scrubSector (priv : BitVec 2) (w : W64)
  | resetEngine (priv : BitVec 2) (w : W64)
  | resetPart (priv : BitVec 2) (w : W64)
  -- HX
  | trainingStateAdvance (port : BitVec 2) (t : TrainInfo)
  | trainingAttemptTimeout (port : BitVec 2)
  | rejoinPeriod (port : BitVec 2)
  | hxFrameReceive (port : BitVec 2) (f : Frame)
  | replayTimeout (port : BitVec 2)
  | hxPacketArrive (port : BitVec 2) (p : HxPkt)
  | e2eAck (p : HxPkt)
  | state (p : HxPkt)
  | tblReady (p : HxPkt)
  | epochFlip (p : HxPkt)
  | count (p : HxPkt)
  | retire (p : HxPkt)
  | barrierArrive (p : HxPkt)
  | barrierRelease (p : HxPkt)
  | barrierReleaseTime (barrier : BitVec 4)
  | barrTimeout (barrier : BitVec 4)
  | hostBarrierArrive (priv : BitVec 2) (w : W64)
  | faultFwd (p : HxPkt)
  | order (p : HxPkt)
  | bulk (p : HxPkt)
  | trace (p : HxPkt)
  | sec (p : HxPkt)
  | resendTimeout (die : BitVec 6) (space : Bool) (seq : BitVec 16)
  | ackDelay (die : BitVec 6) (space : Bool)
  | stateRefresh
  | stateStale (die : BitVec 6)
  | hostOkLapse
  | pollPeriod
  | hxRetireTimeout
  | congWindow (port : BitVec 2) (congested : Bool)
  -- FR
  | hostBist (priv : BitVec 2) (w : W64)
  | bistDone (fails : List FailEntry) (deadSpares : List FailEntry)
  | fuseProgram (priv : BitVec 2) (w : W64) (readBackOk : List Bool)
  | testSessionOpen (core : Huid) (channelOk : Bool) (bankOk : Bool)
  | hostTestSession (priv : BitVec 2) (w : W64)
  | testReply (p : Ingress)
  | testTimeout (channel : BitVec 4)
  | pkgOpen (priv : BitVec 2) (w : W64)
  | pkgData (priv : BitVec 2) (w : W64)
  | pkgClose (priv : BitVec 2) (w : W64)
  | pkgAbort (priv : BitVec 2) (w : W64)
  | pkgVerify (readBackOk : Bool)
  -- CFG, MS
  | rstNRelease (dieId : BitVec 6)
  | rstNAssert
  | stageS1 (t : SelfTest)
  | stageS2 (primary secondary : Bytes)
  | stageS3 (fails : List FailEntry) (deadSpares : List FailEntry) (void : Bool)
  | stageS4
  | stageS5 (v : Survey)
  | stageS6 (results : List PairSay) (void : Bool)
  | stageS7 (routersAnswered : Bool)
  | stageS8
  | stageS9
  | bitmap (p : Ingress)
  | commitAck (p : Ingress)
  | musterTimeout
  | sectorMuster (sector : BitVec 6)
  -- TS
  | domainPowerRequest (d : BitVec 5)
  | powerGood (d : BitVec 5)
  | domainTimeout (d : BitVec 5)
  | domainShutdown (d : BitVec 5)
  | slowRound
  | pmbRead (chan : BitVec 7) (raw : Option (BitVec 16))
  | pmbAlert (addr : BitVec 7) (status : BitVec 16)
  -- SEC
  | programRoot (priv : BitVec 2) (w : W64)
  | advance (priv : BitVec 2) (w : W64)
  | genIdentity (priv : BitVec 2) (w : W64)
  | installCert (priv : BitVec 2) (w : W64)
  | programWrapped (priv : BitVec 2) (w : W64)
  | setMinSeq (priv : BitVec 2) (w : W64)
  | unlockChallenge (priv : BitVec 2) (w : W64)
  | unlockResponse (priv : BitVec 2) (w : W64)
  | keyload (priv : BitVec 2) (w : W64)
  | tokenPresent (priv : BitVec 2) (w : W64)
  | tokenBindingLapse
  | sarGo (priv : BitVec 2) (w : W64)
  | sarBuildDone
  | sarData (priv : BitVec 2)
  | certData (priv : BitVec 2)
  | provOut (priv : BitVec 2)
  | dumpKey (priv : BitVec 2)
  | alarmPin (pin : BitVec 3) (level : Bool)
  | lockstep
  -- OB
  | snap (priv : BitVec 2) (w : W64)
  | snapPeriod
  | watchGo (priv : BitVec 2) (w : W64)
  | watchData (priv : BitVec 2)
  | dumpGo (c : DumpCause)
  | dumpSectionDone
  | dumpSectionTimeout
  -- ports
  | tackRsp (p : Ingress)
  | egressCredit (port : BitVec 3) (cls : BitVec 2) (ccnt : BitVec 4)
  | wrstNAssert
  | wrstNRelease
  | registerWrite (priv : BitVec 2) (addr : BitVec 22) (w : W64)
  | registerRead (priv : BitVec 2) (addr : BitVec 22) (snapRace : Bool)
  | suppliesFail (torn : Bool)
  | scanBlockDone (channel : BitVec 4) (r : ScanSay)
  | levelLeakedToZero (cls : BitVec 4) (die : BitVec 6) (locus : W128)
  | nonIngressKindPacket (p : Ingress)
  | tapInstruction (op : TapOp)
  deriving DecidableEq, Repr

end Sys2Proof
end

