-- ==== Sys2Proof/Decode.lean ====
section
/-!
DEFINITION. Command words. The table gives no bits for any of its rows: a command reaches the block as a
packet, a register access or a pin (R499 to R513), so no word spells one.
-/
namespace Sys2Proof

/-- The command that a word spells by the table's bits: none, since no row has bits. -/
def decodeTableWord (_nbits _w : Nat) : Option Instr := none

end Sys2Proof
end

