-- ==== Sys2Proof/Config.lean ====
section
/-!
DEFINITION. What an implementation fixes and the manual names without a value, and the cryptographic
functions that the manual takes by name from their standards: opaque, so that no proof can see a value
(log entries 4 and 5).
-/
namespace Sys2Proof.Config

/-- SHA-384 of a byte sequence (R95, R399, R463). -/
opaque sha384 : Bytes → BitVec 384
/-- HMAC-SHA-384 (R462). -/
opaque hmac384 : BitVec 384 → Bytes → BitVec 384
/-- Byte `i` of the AES-256-GCM key stream of a key and IV (R463, R476). -/
opaque gcmStream : BitVec 256 → Bytes → Nat → Byte
/-- The AES-256-GCM tag of additional data and ciphertext. -/
opaque gcmTag : BitVec 256 → Bytes → Bytes → Bytes → BitVec 128
/-- The P-384 public key of a private key, x then y. -/
opaque publicKey : BitVec 384 → BitVec 768
/-- An ECDSA P-384 signature over a digest: r, s; the last operand is the nonce draw. -/
opaque ecdsaSign : BitVec 384 → BitVec 384 → Nat → BitVec 384 × BitVec 384
opaque ecdsaVerify : BitVec 768 → BitVec 384 → BitVec 384 × BitVec 384 → Bool
/-- Draw number n of the true random number generator (R220, R460, R466). -/
opaque trng : Nat → BitVec 384
/-- Free value number n, for a value the manual leaves open and lets the block go on. -/
opaque free : Nat → W64
/-- PKCS #10 request for a key, signed with it (R466). -/
opaque certRequest : BitVec 384 → Nat → Bytes
/-- DER attestation certificate of R465: public key of d_A, d_I, inputs of cdi, BOOT_SEQ. -/
opaque attestCert : BitVec 768 → BitVec 384 → Bytes → BitVec 28 → Bytes
/-- Public key of the leaf of a certificate chain, when the chain parses (R466). -/
opaque leafKey : Bytes → Option (BitVec 768)
/-- Certificate number i (1 identity, 2 and 3 intermediates) of an identity's content (R465). -/
opaque chainCert : Bytes → Nat → Bytes
/-- Fleet ID of an identity's content (R424). -/
opaque fleetId : Bytes → BitVec 32
/-- Output bits of an element whose value the manual does not determine, or that the interval arithmetic does not
settle: a function of the descriptor, the operands and the element index (log entry 13). -/
opaque openElem : BitVec 512 → List Bytes → Nat → BitVec 32
/-- The ε of LAYER_NORM and RMS_NORM, which no field of a descriptor carries (R65; log entry 13). -/
opaque normEpsilon : BitVec 512 → Rat
/-- Content of a Pattern Package, when its format is right: PKG_SEQ, catalogue version, K_T, XTEST descriptors and scan
blocks (with bytes) by core model, reproduction records (R398, R400; log entry 21). -/
opaque packageContent : Bytes →
  Option (Nat × Nat × BitVec 128 × List (BitVec 16 × BitVec 512) × List (BitVec 16 × Nat) × List (BitVec 512))
/-- Signed bytes of a Pattern Package and its signature (R399). -/
opaque packageSigned : Bytes → Bytes × (BitVec 384 × BitVec 384)
/-- The eight XTEST descriptors in ROM, and the K_T and stochastic-rounding seed that go with tests of FR (R419). -/
opaque romDesc : Nat → BitVec 512
opaque romKt : BitVec 128
opaque testSeed : BitVec 128
/-- x to the power 0.8 (R446), and the rail numbers that the manual names without a field: the Silorn core supply where
no SILORN_P channel gives it, and the flash supply (log entry 22). -/
opaque pow08 : Rat → Rat
opaque coreRail : Nat
opaque flashRail : Nat
/-- Exponent that VOUT_MODE of a PMBus device gives (R443). -/
opaque voutMode : Nat → Int
/-- Busy fraction of a cluster's lanes over a slow round, in units of 2^-16, from a draw (R447). -/
opaque busy : Nat → Nat → BitVec 16
/-- ROM version of the management sequencers (R519). -/
opaque romVer : BitVec 16

end Sys2Proof.Config
end

