-- ==== Sys2Proof/Machine/State.lean ====
section
/-!
DEFINITION. The state of one Silorn block, as plain data: a structure per unit of R9, the
non-volatile stores, the ports, and the queue of waiting commands.

A table indexed by a number is a `Tab`: pairs of key and value in strictly rising key order. An
addressed array (Loft, Cluster Memory, operand buffers) is a `Tab` of bytes that lists no zero byte.
-/
namespace Sys2Proof.Machine

/-- A sparse table in rising key order. -/
abbrev Tab (α : Type) := List (Nat × α)
/-- An addressed array: bytes by address, canonical when rising and free of zero bytes. -/
abbrev Mem := List Host.Cell

/-- Reasons to stop. They are raised only by a bank or engine command that addresses hardware the
manual says does not exist. -/
inductive Fault where
  /-- raised by the Loft commands for a slot number of 24,576 and above, which R202 says no slot has; safe -/
  | noSuchSlot
  /-- raised by ROWMAP for a row that the bank does not have (R201: rows 0 to 767 are regular); safe -/
  | noSuchRow
  /-- raised by LPF_ADD at an offset from which 88 bytes do not lie in the slot, where R204 places no record; safe -/
  | outsideSlot
  deriving DecidableEq, Repr

/-- Reasons to reject a command. -/
inductive Refusal where
  /-- raised by `exec` for a command whose meaning is not written yet; safe -/
  | notModelled (mnemonic : String)
  deriving DecidableEq, Repr

/-! ### Check plans (R85 to R92) -/

structure LayerE where
  layer : Nat
  salt : Nat
  srSeed : W128
  srCtx : Nat
  opcode : Nat
  mode : Nat
  outFmt : Nat
  inA : Nat
  inB : Nat
  rmode : Nat
  doneCount : Nat
  perRate : Nat
  shadowRate : Nat
  tiles : Nat
  maxTerms : Nat
  elements : Nat
  inner : Nat
  tileInner0 : Nat
  tileInner1 : Nat
  deriving DecidableEq, Repr

/-- An input group of a task: first slot and number of slots. -/
structure GroupE where
  slot : Nat
  cnt : Nat
  deriving DecidableEq, Repr

structure TaskE where
  kind : Nat
  layerIdx : Nat
  engine : Nat
  desc : Nat
  pair : Nat
  pairCount : Nat
  succ : Nat
  inputs : List GroupE
  tile0 : Nat
  tileStep : Nat
  deriving DecidableEq, Repr

structure SlotE where
  base : Nat
  count : Nat
  acc : Nat
  expect : Nat
  deriving DecidableEq, Repr

structure PairE where
  huid : Huid
  die : Nat
  side : Nat
  deriving DecidableEq, Repr

structure EdgeE where
  srcCtx : Nat
  srcLayer : Nat
  dstLayer : Nat
  lag : Nat
  deriving DecidableEq, Repr

structure HeaderE where
  magic : Nat
  planFmt : Nat
  ctx : Nat
  switch : Nat
  imageWords : Nat
  layers : Nat
  tasks : Nat
  slotRanges : Nat
  pairs : Nat
  edges : Nat
  holdWindow : Nat
  quota : Nat
  keyId : Nat
  stepTimeout : Nat
  descs : Nat
  crc : Nat
  roster : Nat
  vareoId : Nat
  deriving DecidableEq, Repr

/-- Per-layer counts of the Screening Attestation Report (R470). -/
structure LayerCounts where
  sep : Nat
  weakSep : Bool
  sparsePer : Bool
  sparseShadow : Bool
  unchecked : Bool
  released : Nat
  nonpass : Nat
  excTiles : Nat
  replays : Nat
  failCore : Nat
  failChecker : Nat
  inputSuspect : Nat
  unresolved : Nat
  waived : Nat
  deriving DecidableEq, Repr

/-- An admitted plan: the decoded tables of its image, and what admission and the job add to them. -/
structure Plan where
  hdr : HeaderE
  /-- plan number (R94) -/
  num : Nat
  layers : List LayerE
  tasks : List TaskE
  ranges : List SlotE
  pairs : List PairE
  edges : List EdgeE
  roster : List Huid
  descs : List (BitVec 512)
  /-- Plan Store pages that hold the image (R94) -/
  pages : List Nat
  /-- SHA-384 measurement (R95) -/
  meas : BitVec 384
  epoch : Bool
  /-- per layer, for the attestation report -/
  counts : List LayerCounts
  /-- roster label and physical core that served it (R472) -/
  served : List (Huid × Huid)
  firstStep : Nat
  lastStep : Nat
  tAdmit : Nat
  deriving DecidableEq, Repr

/-- Plan being received (R94). -/
structure Staging where
  ctx : Nat
  words : Nat
  loader : Huid
  port : Nat
  pages : List Nat
  /-- offsets of the words that have arrived -/
  got : List Nat
  deriving DecidableEq, Repr

/-- How a switch or RETIRE in progress ends the plan (R114, R116). -/
structure Switch where
  discard : Bool
  /-- standby plan number; none for a RETIRE -/
  next : Option Nat
  /-- flipped, and waiting for these clusters to reconfigure (R115) -/
  flipped : Bool
  clusters : List Nat
  /-- who asked for a RETIRE: loader and port, and the plan number named -/
  asker : Option (Huid × Nat × Nat)
  deriving DecidableEq, Repr

structure CtxSt where
  plan : Option Nat
  epoch : Bool
  halted : Bool
  switch : Option Switch
  /-- window base of the current epoch: oldest unreleased step (R106) -/
  base : Nat
  /-- window is full since this Node Time (R112) -/
  fullSince : Option Nat
  deriving DecidableEq, Repr

/-- A contribution to an LPF_SUM group that is still arriving: its bytes so far, how many have arrived, and the length
that its token declared. -/
structure Partial where
  sender : Huid
  data : Bytes
  got : Nat
  length : Option Nat
  deriving DecidableEq, Repr

/-- Capture state of one slot group (R100, R126, R158). -/
structure Group where
  count : Nat
  bytes : Nat
  declared : Nat
  /-- DIGEST_SUM: sum of the element counts -/
  elems : Nat
  full : Bool
  /-- senders of the contributions that have ended -/
  senders : List Huid
  partials : List Partial
  /-- LPF_SUM: each contribution as it was combined, which a PERIM procedure compares (R241) -/
  shares : List (Huid × Bytes)
  deriving DecidableEq, Repr

/-- A task, of one step (R103). -/
structure Inst where
  ctx : Nat
  epoch : Bool
  step : Nat
  task : Nat
  groups : List Group
  fired : Bool
  passed : Bool
  checkerRounds : Nat
  /-- FINAL: the pushes combined: PART task, first element and number of records (R186) -/
  pushes : List (Nat × Nat × Nat)
  deriving DecidableEq, Repr

structure StepSt where
  ctx : Nat
  epoch : Bool
  step : Nat
  attempt : Nat
  doneCount : Nat
  doneBy : List Huid
  firstRec : Nat
  graceOver : Bool
  marked : Bool
  /-- core whose residue message or record marked the step -/
  markedBy : Huid
  timeouts : Nat
  inputReplays : Nat
  /-- core that marked an earlier attempt (R245) -/
  residueCore : Option Huid
  unresolved : Bool
  deriving DecidableEq, Repr

/-- A fire token (R104). -/
structure Token where
  ctx : Nat
  epoch : Bool
  attempt : Nat
  step : Nat
  task : Nat
  /-- reruns after a path disagreement or a lane residue failure -/
  reruns : Nat
  /-- sent again by `redispatch` of R241 -/
  redispatched : Bool
  deriving DecidableEq, Repr

structure Led where
  staging : Option Staging
  plans : Tab Plan
  /-- last retired plan of a context, for its report (R467) -/
  retired : Tab Plan
  ctxs : Tab CtxSt
  steps : List StepSt
  insts : List Inst
  /-- tokens held back because their lane queue was full (R181): lane and token -/
  held : List (Nat × Token)
  /-- records deferred because an XTEST still holds their slots (R139) -/
  deferred : List Ingress
  /-- EDGE_ORPHAN reports already made: waiting context, ended context -/
  orphans : List (Nat × Nat)
  admitReg : W64
  ctxSel : W64
  deriving DecidableEq, Repr

/-! ### Engines -/

structure Twc where
  /-- compare paths A and B in service (R242) -/
  pathA : Bool
  pathB : Bool
  queue : List Token
  /-- cross-die hold buffer, at most 256 (R134): source die and packet -/
  xhold : List (Nat × HxPkt)
  pathFault : Bool
  lastDiff : W64
  lastStep : W64
  lastElem : W64
  deriving DecidableEq, Repr

structure Per where
  inService : BitVec 8
  inKat : BitVec 8
  fenced : BitVec 8
  lastPass : BitVec 8
  runs : BitVec 32
  pathFault : Bool
  localising : Bool
  /-- fire order is total; each token carries its two pipes (R162) -/
  queue : List (Token × Nat × Nat)
  lastDiff : W64
  lastStep : W64
  lastLoc : W64
  deriving DecidableEq, Repr

/-- A PARTIAL_PUSH message (R185). -/
structure Push where
  ctx : Nat
  epoch : Bool
  attempt : Nat
  step : Nat
  /-- index of the successor task -/
  task : Nat
  part : Nat
  first : Nat
  recs : List Bytes
  last : Bool
  lane : Nat
  deriving DecidableEq, Repr

/-- A task in execution on a lane. -/
structure Run where
  tok : Token
  desc : BitVec 512
  /-- PART: messages still to push -/
  out : List Push
  deriving DecidableEq, Repr

structure Lane where
  inService : Bool
  fenced : Bool
  inKat : Bool
  lastPass : Bool
  queue : List Token
  run : Option Run
  /-- erasures (contexts) whose wipe this lane still owes (R219 step 5) -/
  wipes : List Nat
  deriving DecidableEq, Repr

structure Cluster where
  inq : List Push
  katRuns : BitVec 32
  pathFault : Bool
  /-- descriptor cache: plan number, descriptor index (R181, R209) -/
  cache : List (Nat × Nat)
  lastDiff : W64
  lastStep : W64
  lastElem : W64
  deriving DecidableEq, Repr

structure Sa where
  lanes : List Lane
  clusters : List Cluster
  /-- products formed, below the next unit of 2^20 (R199) -/
  prodRest : Nat
  deriving DecidableEq, Repr

/-! ### Memories -/

inductive ShedSt where
  | off | init | on | drain
  deriving DecidableEq, Repr

structure Shed where
  st : ShedSt
  inFlight : Nat
  pendingEnable : Bool
  deriving DecidableEq, Repr

inductive EngOp where
  | fill (slot count : Nat) (pattern : W64)
  | copy (src count dst : Nat) (lane : Option Nat)
  | erase (ctx : Nat) (ranges : List (Nat × Nat))
  | rowmap (bank row : Nat)
  deriving DecidableEq, Repr

/-- An erasure in progress (R218, R219). -/
structure Erasure where
  ctx : Nat
  plan : Nat
  ranges : List (Nat × Nat)
  pages : List Nat
  quota : Nat
  /-- ranges whose ERASE has not been verified yet -/
  rangesLeft : Bool
  lanesLeft : List Nat
  lanesDone : Nat
  remapped : Bool
  failed : Bool
  kill : Bool
  deriving DecidableEq, Repr

/-- A spare row in use: array 0 Loft, 1 Cluster Memory (R214, R386). -/
structure RowMap where
  array : Nat
  inst : Nat
  bank : Nat
  row : Nat
  spare : Nat
  /-- 0 BIST at S3, 1 field map-out, 2 host BIST, 3 fuse -/
  origin : Nat
  deriving DecidableEq, Repr

structure MemSt where
  loft : Mem
  cm : Mem
  opbuf : Mem
  /-- tag words of R205 by slot; an unlisted slot has tag 0 -/
  tags : Tab W64
  sheds : List Shed
  /-- engine queues, one per shed port, at most 8 each (R216) -/
  eng : List (List EngOp)
  erasures : List Erasure
  rowMaps : List RowMap
  /-- correctable errors of Loft rows: bank * 1024 + row to the Node Times -/
  ceLog : Tab (List Nat)
  withheld : List Nat
  /-- spare rows that failed BIST: array, instance, bank, spare (R386) -/
  deadSpares : List (Nat × Nat × Nat × Nat)
  /-- answer of the last bank access: 0 OK, 1 STALE, 2 refused, 3 error reply, 4 uncorrectable; and its line -/
  busStatus : Nat
  busData : Bytes
  eraseFault : Bool
  ueSeen : Bool
  spareOut : Bool
  eraseStatus : W64
  eccLast : W64
  fieldMaps : Nat
  lastMapInst : Nat
  lastMapRow : Nat
  tagSel : W64
  /-- ECC injection armed by FC.INJECT: array, target, bits (R312) -/
  armed : List (Nat × Nat × Nat)
  /-- codewords that an injection flipped, with the bits: array, place (Loft word, cluster, lane or slot), bits -/
  flips : List (Nat × Nat × Nat)
  /-- bytes erased, below the next unit of 2^20 (R229) -/
  eraseRest : Nat
  deriving DecidableEq, Repr

/-! ### Verdict Unit -/

inductive Phase where
  /-- waiting for a settling round of bisection on [lo, lo + width) (R240) -/
  | bisect (lo width : Nat)
  /-- third core's element hash (R241) -/
  | element (e : Nat)
  /-- third core's owner record -/
  | tileOwner
  /-- contribution of partner core number i -/
  | partnerShare (i : Nat)
  /-- writer of the first differing element of a Shadow task -/
  | writer (e : Nat)
  /-- waiting for the redispatched task to return -/
  | redispatch
  /-- waiting for the scrub of the memory channels, sectors left (R243) -/
  | scrub (sectors : List Nat)
  deriving DecidableEq, Repr

/-- One sub-range of a RANGE answer: sum, count, and the physical core that wrote it (R355, R513). -/
structure RangeEnt where
  sum : Nat
  count : Nat
  writer : Huid
  deriving DecidableEq, Repr

/-- A core's answer to RANGE, or the other die's for its whole side: 16 entries. -/
structure RangeAns where
  core : Huid
  side : Nat
  ents : List RangeEnt
  deriving DecidableEq, Repr

structure Dispute where
  ctx : Nat
  epoch : Bool
  attempt : Nat
  step : Nat
  task : Nat
  cause : Nat
  outcome : Nat
  /-- for RESIDUE: the core; for CHECKER: lane or pipe; else 0 -/
  party : Nat
  /-- first differing element, or column hint -/
  elem : Nat
  checkerRounds : Nat
  /-- XTEST: both outputs, whose slots the Ledger frees with the outcome (R139, R246) -/
  outs : List Bytes
  /-- SHADOW: hash of the lane's output at `elem` (R241) -/
  laneHash : Nat
  deriving DecidableEq, Repr

/-- A running decision procedure (R233, R241). -/
structure Proc where
  d : Dispute
  phase : Phase
  /-- label of the third core -/
  third : Huid
  /-- labels whose answers of this round are awaited -/
  asked : List Huid
  ranges : List RangeAns
  /-- some answer of this round is void -/
  voided : Bool
  /-- hashes and records gathered: owner, partner, third -/
  h0 : Option Nat
  h1 : Option Nat
  h3 : Option Nat
  /-- physical cores that wrote element `e` on either side -/
  w0 : Option Huid
  w1 : Option Huid
  e : Nat
  rec3 : Bytes
  reqId : Nat
  /-- the other die's answer of a cross-die round is awaited -/
  xwait : Bool
  deriving DecidableEq, Repr

inductive PadSt where
  | service | turnout | suspect | distil | confirmed
  deriving DecidableEq, Repr

structure Pad where
  st : PadSt
  /-- state the core came from, while in TURNOUT -/
  from_ : PadSt
  clean : Nat
  sdcLevel : Nat
  sdcLast : Nat
  /-- Node Times of its SDC events, newest first -/
  sdcTimes : List Nat
  sinceMs : Nat
  /-- fenced by a host FENCE_CORE order (R323, R334) -/
  hostFenced : Bool
  /-- unfinished firmware: must be mustered in its test session (R429) -/
  noFirmware : Bool
  timeoutsInRow : Nat
  deriving DecidableEq, Repr

structure Replay where
  ctx : Nat
  epoch : Bool
  first : Nat
  count : Nat
  cause : Nat
  /-- labels that already received the packet -/
  sentTo : List Huid
  deriving DecidableEq, Repr

structure Distil where
  phase : Nat
  /-- physical core under distillation, and label of the third core -/
  huid : Huid
  third : Huid
  d : Dispute
  layer : LayerE
  elem : Nat
  /-- terms of the element -/
  terms : Nat
  /-- range of the request under way -/
  lo : Nat
  width : Nat
  /-- current range of the bisection -/
  first : Nat
  size : Nat
  runs : Nat
  fails : Nat
  syndrome : BitVec 32
  align : Nat
  searchKey : W128
  candidate : Nat
  probes : Nat
  /-- the distillation buffer: stored bits and block scale of each term's A and B -/
  opsA : List (Nat × Nat)
  opsB : List (Nat × Nat)
  reqId : Nat
  /-- which half was probed last in BISECT -/
  second : Bool
  deriving DecidableEq, Repr

/-- An entry of the local pattern list (R263). -/
structure Pattern where
  body : BitVec 512
  sig : Bytes
  fromPackage : Bool
  deriving DecidableEq, Repr

/-- An XSETTLE request that this die answers for its own side (R252, R355). -/
structure XReq where
  die : Nat
  /-- the 32-byte header as a number -/
  header : Nat
  asked : List Huid
  ranges : List RangeAns
  reqId : Nat
  deriving DecidableEq, Repr

structure Vu where
  procs : List Proc
  xreqs : List XReq
  waiting : List Dispute
  paddock : Tab Pad
  replays : List Replay
  distil : Option Distil
  distilResult : Nat
  patterns : List Pattern
  exports : List Pattern
  /-- verdict journal: context, admission time of its plan, entry (R471) -/
  journal : List (Nat × Nat × W128)
  /-- cross-die disputes waiting for the leading die's XVERDICT -/
  xwaits : List Dispute
  /-- decided cross-die steps: context, step, verdict -/
  xdecided : List (Nat × Nat × Nat)
  reqSeq : Nat
  unresolvedSeen : Bool
  lastVerdict : W64
  lastStep : W64
  lastElem : W64
  padSel : W64
  deriving DecidableEq, Repr

/-! ### Yard Master -/

inductive LinkSt where
  | up | reduced | removed
  deriving DecidableEq, Repr

structure Link where
  full : Nat
  trained : Nat
  st : LinkSt
  deriving DecidableEq, Repr

inductive StandbySt where
  | retired | writing | flipping | draining
  deriving DecidableEq, Repr

structure FcpReq where
  op : Nat
  target : Huid
  version : Bool
  word : Nat
  data : W64
  deriving DecidableEq, Repr

structure Ym where
  /-- per sector, the physical core index of each label 0 to 63 (R270); unlisted: identity -/
  remap : Tab (List Nat)
  links : Tab Link
  deadRouters : List Huid
  unreachCores : List Huid
  live : Bool
  standby : StandbySt
  /-- a change of remap or routes is queued -/
  pending : Bool
  /-- the queued or running install removes a link or router: REPLAY of cause REROUTE follows -/
  reroute : Bool
  rerouteNow : Bool
  /-- contents of each version, entries by version * 65536 + router HUID -/
  tables : Tab (List Nat)
  /-- tables being installed -/
  next : Tab (List Nat)
  outstanding : List FcpReq
  /-- words not yet issued -/
  toSend : List FcpReq
  inj : Nat
  ej : Nat
  polled : List (Huid × Nat × Nat)
  polling : Bool
  baseline0 : BitVec 32
  baseline1 : BitVec 32
  lastInj : BitVec 32
  lastEj : BitVec 32
  /-- a forced retirement requires the version to be written invalid first (R282) -/
  invalidate : Bool
  installs : BitVec 32
  forced : Bool
  fcpFault : Bool
  unreach : List Huid
  /-- labels whose swap is queued or being installed: REPLAY to them waits (R250) -/
  pendingLabels : List Huid
  /-- labels whose swap the running install carries -/
  installLabels : List Huid
  /-- labels whose core is being fenced before its swap (R323) -/
  fencing : List Huid
  /-- table words written, below the next unit of 2^10 -/
  wordRest : Nat
  remapSel : W64
  linkSel : W64
  deriving DecidableEq, Repr

/-! ### Intake and Fault Collector -/

/-- A record of the Intake Ring (R295): header, coded messages, and, per message, the Locus that it
names (R303). -/
structure RingRec where
  header : W128
  msgs : List W128
  loci : List W128
  /-- continues the report of the record before it (R522) -/
  cont : Bool
  deriving DecidableEq, Repr

/-- A fault source (R303, R304). -/
structure Source where
  cls : Nat
  die : Nat
  key : W128
  /-- level in units of 2^-16 -/
  level : Nat
  last : Nat
  severe : Bool
  acked : Bool
  deriving DecidableEq, Repr

structure ClassSt where
  pending : Bool
  nmt : Bool
  cnt : BitVec 16
  level : Nat
  deriving DecidableEq, Repr

structure First where
  msg : W128
  overflow : Bool
  cls : Nat
  level : Nat
  escalated : Bool
  merge : Nat
  time : Nat
  deriving DecidableEq, Repr

structure Fc where
  ring : List RingRec
  wr : BitVec 13
  rd : BitVec 13
  /-- messages of the record at RD already processed -/
  msgIdx : Nat
  /-- local collectors by unit number 0 to 18: the records of the latched report that wait (R301, R522) -/
  collectors : Tab (List RingRec)
  eventWait : Option RingRec
  /-- EVENT packets in the attach buffers, per port (R298) -/
  meshWait : Tab (List RingRec)
  injectWait : Option RingRec
  ownWait : List RingRec
  /-- duplicate filter by HUID: SEQ, KIND, arrival (R294) -/
  seqs : Tab (Nat × Nat × Nat)
  sources : List Source
  classes : List ClassSt
  first : Option First
  ackStale : Bool
  processed : BitVec 32
  classSel : W64
  irqMask : W64
  inj0 : W64
  inj1 : W64
  deriving DecidableEq, Repr

/-! ### Command Tracker -/

/-- A Sector Control order (R320). -/
structure ScOrder where
  op : Nat
  mask : W64
  ctx : Nat
  ctxValid : Bool
  /-- what the order is for, and the master's word: 1 core fence, 2 sector reset, 3 kill, 4 verdict scrub, 5 wait
  chain, 6 host order (its CT.ORDER word), 7 survey, 8 muster, 9 deadlock, 10 Node Leader order. Orders that merge join their purposes (R333). -/
  purposes : List (Nat × W64)
  deriving DecidableEq, Repr

structure Cmd where
  cls : Nat
  target : Huid
  ctx : Nat
  ctxValid : Bool
  deriving DecidableEq, Repr

structure SectorSt where
  fenced : W64
  edge : Bool
  unreachable : Bool
  powered : Bool
  cur : Option ScOrder
  queue : List ScOrder
  /-- REQ was withdrawn and ABORTED is awaited (R505) -/
  withdrawn : Bool
  /-- port carries no further order until RST_N -/
  dead : Bool
  /-- step of the sector reset sequence R324 in progress, 0 none: 1 SECTOR_FENCE, 2 DRAIN, 3 RESET, 4 FENCE_CORES,
  5 sector Muster (R430), 6 SECTOR_UNFENCE -/
  rstStep : Nat
  /-- purposes of the reset sequence, as in an order -/
  rstFor : List (Nat × W64)
  throttle : Nat
  deriving DecidableEq, Repr

structure Kill where
  ctx : Nat
  /-- roster labels of the killed plan -/
  labels : List Huid
  /-- sectors whose CTX_FENCE or reset is awaited -/
  sectors : List Nat
  erasing : Bool
  /-- 0 alarm, 1 policy, 2 Node Leader, 3 host -/
  master : Nat
  word : W64
  deriving DecidableEq, Repr

/-- A WAIT_QUERY chain (R331). -/
structure Chain where
  ctx : Nat
  step : Nat
  cores : List (Huid × Nat)
  next : Huid
  deriving DecidableEq, Repr

inductive PartSt where
  | run | reset | held
  deriving DecidableEq, Repr

structure Ct where
  cmds : Tab Cmd
  nextEntry : Nat
  /-- issuers waiting for an entry (R318): sector, order and Node Time -/
  waiting : List (Nat × ScOrder × Nat)
  sectors : Tab SectorSt
  kills : List Kill
  chains : List Chain
  part : PartSt
  rstReq : Bool
  chipFail : Bool
  orderStatus : W64
  lastTimeout : W64
  timeouts : BitVec 32
  sectorSel : W64
  /-- engine resets in progress (R328), with the host order that each completes -/
  engineRst : List (Huid × Option W64)
  /-- host orders that the compute-part reset in progress completes -/
  partOrders : List W64
  deriving DecidableEq, Repr

/-! ### Hitch -/

inductive TrainSt where
  | off | detect | lock | config | fecTest | active | retrain | removed
  deriving DecidableEq, Repr

/-- A packet in the queue of an output port (R360): the input port whose buffer it still holds, whether
it enters the port's ring, and the Node Time and kind (1 credit, 2 bubble) of its wait. -/
structure QEnt where
  pkt : HxPkt
  src : Option Nat
  enter : Bool
  since : Nat
  why : Nat
  deriving DecidableEq, Repr

structure Port where
  st : TrainSt
  width : Nat
  swap : Bool
  polarity : BitVec 2
  peerDie : BitVec 6
  peerPort : BitVec 2
  retrains : Nat
  attempts : Nat
  /-- training is a RETRAIN -/
  retraining : Bool
  /-- place of its first attempt in the order of R344: 3 for a retrain at ×1, else 0 -/
  firstTry : Nat
  rxNext : BitVec 8
  nakOut : Bool
  /-- unacknowledged frames: FSEQ and packets, oldest first -/
  replay : List (Nat × List HxPkt)
  txNext : BitVec 8
  lastNak : Option (BitVec 8)
  acked : BitVec 8
  stalls : Nat
  /-- Node Times of the uncorrectable codewords of the last 1 ms, newest first (R346) -/
  uncorrTimes : List Nat
  /-- packet bytes sent, below the next unit of 2^20 -/
  txBytes : Nat
  credXY : Nat
  credYX : Nat
  congested : Bool
  queue : List QEnt
  /-- buffers freed since training, per class, as sent in the control slot -/
  freedXY : BitVec 3
  freedYX : BitVec 3
  seenXY : BitVec 3
  seenYX : BitVec 3
  tDep : Nat
  tArr : Nat
  /-- a sync frame has been stamped and its exchange is not evaluated yet -/
  syncDue : Bool
  deriving DecidableEq, Repr

/-- A die's STATE record in the node map (R367). -/
structure DieRec where
  version : BitVec 16
  boot : BitVec 16
  ports : BitVec 16
  hostOk : Bool
  stage : Nat
  inService : Bool
  current : Bool
  deriving DecidableEq, Repr

structure TxSt where
  next : BitVec 16
  /-- unacknowledged packets with the resends of each -/
  unacked : List (HxPkt × Nat)
  resync : Bool
  /-- packets that wait because 32 are unacknowledged (R364) -/
  waiting : List HxPkt
  deriving DecidableEq, Repr

structure RxSt where
  next : BitVec 16
  held : List HxPkt
  unackedArrivals : Nat
  deriving DecidableEq, Repr

inductive BarrSt where
  | idle | waiting | released | aborted
  deriving DecidableEq, Repr

structure Barrier where
  st : BarrSt
  gen : BitVec 8
  mask : W64
  tRel : Nat
  /-- coordinator: GEN and mask taken, dies arrived -/
  coordGen : BitVec 8
  coordMask : W64
  arrived : W64
  open_ : Bool
  deriving DecidableEq, Repr

inductive HxStandby where
  | retired | ready | draining
  deriving DecidableEq, Repr

structure Hx where
  ports : List Port
  map : Tab DieRec
  myVersion : BitVec 16
  myBoot : BitVec 16
  route0 : Tab (BitVec 16)
  route1 : Tab (BitVec 16)
  live : Bool
  standby : HxStandby
  /-- a map change waits for the standby version to be retired -/
  pendingMap : Bool
  inj0 : BitVec 32
  ej0 : BitVec 32
  inj1 : BitVec 32
  ej1 : BitVec 32
  base0 : BitVec 32
  base1 : BitVec 32
  /-- coordinator: TBL_READY hashes by die -/
  ready : Tab Nat
  /-- coordinator: COUNT replies of the poll pass by die: injected, ejected -/
  counts : Tab (Nat × Nat)
  /-- coordinator: difference read in the last poll pass -/
  lastDiff : BitVec 32
  installs : BitVec 32
  forced : Bool
  disconnected : Bool
  /-- HX domain unavailable (R441) -/
  down : Bool
  /-- ports whose replay buffer failed BIST, which become REMOVED at S4 (R388) -/
  badPorts : BitVec 4
  tx : Tab TxSt
  rx : Tab RxSt
  relay : List HxPkt
  /-- packets ejected in order and waiting for their consumer -/
  delivered : List HxPkt
  sprayed : Tab Nat
  barriers : List Barrier
  lastBarrier : Nat
  barrierOut : Nat
  hostOk : Bool
  /-- FAULT_FWD held for the host, at the Node Leader -/
  forwarded : List HxPkt
  /-- BULK received for its consumer -/
  bulkIn : List HxPkt
  /-- MSG of the next BULK message of this die (R352) -/
  bulkMsg : BitVec 16
  mapSel : W64
  barrierMask : W64
  /-- Node Time discipline (R372): last offset in 2^-5 ns, rate in ppb, exchanges within 2 ns -/
  offset : Int
  rate : Int
  goodSync : Nat
  locked : Bool
  parentDie : BitVec 6
  parentPort : BitVec 2
  stepped : Bool
  /-- runs at its last rate until it is LOCKED again (R372) -/
  timeHold : Bool
  /-- BULK and TRACE are throttled since this Node Time (R362) -/
  throttledSince : Option Nat
  deriving DecidableEq, Repr

/-! ### Farrier -/

/-- A test session (R395). -/
structure Session where
  channel : Nat
  core : Huid
  item : Nat
  index : Nat
  bank : Bool
  scanRan : Bool
  blocksLeft : Nat
  hostOrdered : Bool
  mustering : Bool
  deriving DecidableEq, Repr

/-- A pattern bank of flash (R398): the parts the manual names. -/
structure Bank where
  installed : Bool
  pkgSeq : Nat
  catVer : Nat
  kT : W128
  /-- XTEST descriptors, each with the core model that it belongs to -/
  descs : List (BitVec 16 × BitVec 512)
  repros : List (BitVec 512)
  /-- scan blocks: core model and bytes -/
  scanBlocks : List (BitVec 16 × Nat)
  raw : Bytes
  deriving DecidableEq, Repr

structure Fr where
  sessions : List Session
  /-- cores whose test was ordered and has not begun, and whether the host ordered it (R396) -/
  wanted : List (Huid × Bool)
  chanFenced : BitVec 16
  bankOk : Bool
  bankChecked : Bool
  bistStatus : Nat
  bistScope : Nat
  bistSoft : Bool
  failLog : List W64
  failOvf : Bool
  failRows : Nat
  failSel : W64
  testLast : W64
  pkgState : Nat
  pkgCode : Nat
  pkgBytes : Bytes
  pkgLen : Nat
  pkgReceived : Nat
  fuseStatus : Nat
  fuseDone : Nat
  /-- pattern bytes read, below the next unit of 2^20 -/
  flashRest : Nat
  deriving DecidableEq, Repr

/-! ### Configuration, start-up, Stud Book, Muster -/

structure SbRec where
  type : Nat
  bootSeq : BitVec 28
  timeMs : BitVec 32
  body : Bytes
  torn : Bool
  deriving DecidableEq, Repr

/-- One half of the Stud Book (R425). -/
structure SbHalf where
  gen : BitVec 16
  done : Bool
  recs : List SbRec
  deriving DecidableEq, Repr

structure PortT where
  nbr : Huid
  link : Nat
  home : Nat
  width : Nat
  deriving DecidableEq, Repr

structure SectorT where
  num : Nat
  spares : Nat
  channels : Nat
  routers : Nat
  model : Nat
  present : W64
  routerOf : List Nat
  chanRouter : List Nat
  ports : List (List PortT)
  deriving DecidableEq, Repr

structure ModelT where
  coreModel : BitVec 16
  scanOp : BitVec 8
  fwKeep : Bool
  ops : W64
  fmts : BitVec 32
  deriving DecidableEq, Repr

structure ChanT where
  addr : Nat
  command : Nat
  linear16 : Bool
  pec : Bool
  kind : Nat
  rail : Nat
  scale : Nat
  deriving DecidableEq, Repr

structure SupplyT where
  coreNom : Nat
  flashNom : Nat
  rcpRef : Nat
  fRef : Nat
  clkKhz : Nat
  devices : Nat
  /-- C_i in mJ/K and R_i in mK/W for nodes 0 to 64 -/
  nodes : List (Nat × Nat)
  chans : List ChanT
  rails : List W64
  deriving DecidableEq, Repr

structure Topo where
  nx : Nat
  ny : Nat
  present : W64
  nodeId : BitVec 16
  wpoLat : Nat
  maRouters : List Huid
  tackAgent : Huid
  tackPort : Nat
  carriers : List Nat
  sectors : List SectorT
  models : List ModelT
  loaders : List Huid
  supply : SupplyT
  deriving DecidableEq, Repr

structure StageRep where
  status : Nat
  loci : List W128
  overflow : Bool
  elapsedUs : Nat
  detail : Nat
  deriving DecidableEq, Repr

/-- A Muster in progress (R428). -/
structure Muster where
  st : Nat
  round : Nat
  scope : Bool
  sector : Nat
  targets : List Huid
  /-- targets whose bitmap is complete, targets still to answer, targets that acknowledged COMMIT -/
  complete : List Huid
  waiting : List Huid
  acked : List Huid
  /-- missing blocks per target of the last bitmap -/
  missing : Tab (List Nat)
  deriving DecidableEq, Repr

structure Cfg where
  stage : Nat
  lastStatus : Nat
  inService : Bool
  heldAt : Bool
  bootSeq : BitVec 28
  /-- Fleet ID of the latest complete IDENTITY of the Stud Book (R424) -/
  fleet : BitVec 32
  valid : Bool
  expertEn : Bool
  copy : Bool
  patch : Bool
  profile : Nat
  preset : Nat
  sections : Nat
  imageSeq : BitVec 32
  exportBits : W64
  meas : BitVec 384
  fw : Bytes
  fwBlocks : Nat
  patternArea : Option (Nat × Nat)
  sbBase : Nat
  sbSize : Nat
  tackBase : Nat
  tackSize : Nat
  topo : Topo
  reports : List StageRep
  /-- stages whose report has not been sent to a Node Leader (R408) -/
  reportsDue : List Nat
  stageSel : W64
  stageStart : Nat
  b0Tries : Nat
  muster : Muster
  musterQ : List Nat
  sbWriteFault : Bool
  /-- records deferred under R383, at most 64 -/
  deferred : List SbRec
  deriving DecidableEq, Repr

/-! ### Telemetry -/

inductive DomSt where
  | off | poweringUp | on | shuttingDown
  deriving DecidableEq, Repr

structure Chan where
  value : Int
  stale : Bool
  fails : Nat
  ever : Bool
  deriving DecidableEq, Repr

structure Node where
  /-- node temperature, exact, °C -/
  temp : Rat
  power : Rat
  level : Nat
  deriving DecidableEq, Repr

structure Ts where
  domains : List DomSt
  pending : BitVec 24
  failed : BitVec 24
  chans : List Chan
  nodes : List Node
  tCp : Rat
  pIn : Rat
  pSilorn : Rat
  windowNow : Bool
  windowPrev : Bool
  alert : Bool
  rounds : BitVec 18
  firstRound : Bool
  /-- THERM_LIMIT for a coolant that was never read has been reported (R446) -/
  coolWarned : Bool
  chanSel : W64
  nodeSel : W64
  deriving DecidableEq, Repr

/-! ### Security -/

structure KeySlot where
  key : BitVec 384
  token : BitVec 384
  deriving DecidableEq, Repr

structure Seed where
  programmed : Bool
  killed : Bool
  value : BitVec 384
  deriving DecidableEq, Repr

/-- One-time-programmable memory (R454, R461). -/
structure Otp where
  lc : Nat
  rootDone : Bool
  imageKey : BitVec 768
  patKey : BitVec 768
  dbgKey : BitVec 768
  minSeq : BitVec 32
  seeds : List Seed
  wrapped : Bytes
  /-- seed kills deferred by the windows of R449 -/
  killDue : Bool
  deriving DecidableEq, Repr

structure Sec where
  lc : Nat
  /-- programmed successor state, effective at the next cold start -/
  nextLc : Nat
  keys : Tab KeySlot
  dDerived : Bool
  unlocked : Bool
  policy : Nat
  applied : Bool
  provData : List W64
  provOut : List W64
  lcStatus : Nat
  klData : List W64
  klStatus : Nat
  tokData : List W64
  bound : Option Nat
  tokBlockUntil : Nat
  nonce : List W64
  sarState : Nat
  sarCtx : Nat
  sarWords : List W64
  certSel : W64
  certPos : Nat
  attestCert : Bytes
  /-- words of the wrapped dump key not yet read (R476) -/
  dumpKey : List W64
  challenge : Option (BitVec 384)
  unlockFails : Nat
  raised : BitVec 13
  almLevel : BitVec 8
  /-- first refusal of this slow round already reported (R459) -/
  deniedSeen : Bool
  deriving DecidableEq, Repr

/-! ### Observability -/

structure Watch where
  ctx : Nat
  /-- LAYER_IDX of `OB.WATCH_CTRL` as last written -/
  sel : Nat
  /-- layer that the last GO started to watch -/
  layer : Option Nat
  seen : Nat
  nan : Nat
  inf : Nat
  zero : Nat
  subn : Nat
  atMax : Nat
  minExp : Nat
  maxExp : Nat
  any : Bool
  pos : Nat
  deriving DecidableEq, Repr

/-- A record written to the Tack Room (R489): header fields and the sealed body. -/
structure TackRec where
  header : W128
  body : Bytes
  deriving DecidableEq, Repr

structure Ob where
  active : Tab Nat
  completed : Tab Nat
  ctxActive : Tab Nat
  ctxCompleted : Tab Nat
  snapSeq : BitVec 32
  sampleRace : Bool
  ringSel : W64
  /-- event rings, newest first, at most 64 entries each -/
  rings : List (List W128)
  traceCtrl : W64
  traceBuf : List W128
  traceDropped : Nat
  traceWindow : Nat
  traceBytes : Nat
  watch : List Watch
  rctr : List Nat
  /-- write offset within each Tack Room stream -/
  tackPos : List Nat
  tackOk : Bool
  tackStopped : Bool
  writeFault : Bool
  written : List TackRec
  /-- bytes written to the Tack Room, below the next unit of 2^20 -/
  tackBytes : Nat
  dumpState : Nat
  dumpSlot : Bool
  dumpUnread : BitVec 19
  dumpOff : BitVec 19
  dumpSeq : BitVec 23
  dumpNext : Nat
  deriving DecidableEq, Repr

/-! ### Ports -/

/-- One egress packet (R511, R512). -/
structure Egress where
  port : Nat
  kind : Nat
  sub : Nat
  dst : Huid
  pre : List W64
  payload : Bytes
  deriving DecidableEq, Repr

/-- Answer of the Host Register Port (R507). -/
structure HrpAns where
  status : BitVec 2
  rdata : W64
  deriving DecidableEq, Repr

structure Ports where
  rstLow : Bool
  wrstLow : Bool
  slnUp : Bool
  dieId : BitVec 6
  /-- egress credits in flits: port * 4 + class -/
  credits : Tab Nat
  waiting : List Egress
  /-- packets that have left, oldest first -/
  sent : List Egress
  /-- Hitch packets that have left: port (4: delivered locally by multicast) and packet -/
  hxSent : List (Nat × HxPkt)
  hrp : HrpAns
  /-- instruction that the TAP holds (R456) -/
  tap : TapOp
  deriving DecidableEq, Repr

/-- Expert registers (R518), as words. -/
structure Expert where
  ledTiming : W64
  twcConfig : W64
  perConfig : W64
  saConfig : W64
  memConfig : W64
  vuConfig : W64
  ymConfig : W64
  inConfig : W64
  fcReact : List W64
  ctTimeout : List W64
  hxConfig : W64
  hxLink : W64
  frConfig : W64
  cfgStart : W64
  tsConfig : W64
  secConfig : W64
  obConfig : W64
  deriving DecidableEq, Repr

/-- Flash and fuses: what survives every reset and a loss of supply (R436). -/
structure Nv where
  otp : Otp
  half0 : SbHalf
  half1 : SbHalf
  activeHalf : Bool
  bankA : Bank
  bankB : Bank
  selector : Bool
  fuses : List RowMap
  deriving DecidableEq, Repr

structure State where
  /-- commands that wait, first in first out -/
  pending : List Instr
  /-- Node Time in ns, with its 32-bit fraction (R371) -/
  now : W64
  nowFrac : BitVec 32
  /-- draws made from the free values of `Config` (the model's own counter, log entry 3) -/
  draws : Nat
  nv : Nv
  ports : Ports
  expert : Expert
  cfg : Cfg
  fc : Fc
  ct : Ct
  led : Led
  twc : Twc
  per : Per
  sa : Sa
  mem : MemSt
  vu : Vu
  ym : Ym
  hx : Hx
  fr : Fr
  ts : Ts
  sec : Sec
  ob : Ob
  deriving DecidableEq, Repr

/-! ### Reset -/

def Lane.reset : Lane :=
  { inService := true, fenced := false, inKat := false, lastPass := false, queue := [], run := none, wipes := [] }

def Cluster.reset : Cluster :=
  { inq := [], katRuns := 0, pathFault := false, cache := [], lastDiff := 0, lastStep := 0, lastElem := 0 }

def Pad.reset : Pad :=
  { st := .service, from_ := .service, clean := 0, sdcLevel := 0, sdcLast := 0, sdcTimes := [], sinceMs := 0,
    hostFenced := false, noFirmware := false, timeoutsInRow := 0 }

def SectorSt.reset : SectorSt :=
  { fenced := 0, edge := false, unreachable := false, powered := true, cur := none, queue := [],
    withdrawn := false, dead := false, rstStep := 0, rstFor := [], throttle := 0 }

def CtxSt.reset : CtxSt :=
  { plan := none, epoch := false, halted := false, switch := none, base := 0, fullSince := none }

def Port.reset : Port :=
  { st := .off, width := 0, swap := false, polarity := 0, peerDie := 0, peerPort := 0,
    retrains := 0, attempts := 0, retraining := false, firstTry := 0, rxNext := 0, nakOut := false, replay := [], txNext := 0,
    lastNak := none, acked := 255, stalls := 0, uncorrTimes := [], txBytes := 0, credXY := 3, credYX := 3, congested := false, queue := [],
    freedXY := 0, freedYX := 0, seenXY := 0, seenYX := 0, tDep := 0, tArr := 0, syncDue := false }

def TxSt.reset : TxSt := { next := 0, unacked := [], resync := false, waiting := [] }
def RxSt.reset : RxSt := { next := 0, held := [], unackedArrivals := 0 }

def Barrier.reset : Barrier :=
  { st := .idle, gen := 0, mask := 0, tRel := 0, coordGen := 0, coordMask := 0, arrived := 0, open_ := false }

def SupplyT.empty : SupplyT :=
  { coreNom := 0, flashNom := 0, rcpRef := 0, fRef := 0, clkKhz := 0, devices := 0, nodes := [], chans := [], rails := [] }

def Topo.empty : Topo :=
  { nx := 1, ny := 1, present := 1, nodeId := 0, wpoLat := 0, maRouters := [], tackAgent := 0, tackPort := 0,
    carriers := [], sectors := [], models := [], loaders := [], supply := SupplyT.empty }

def StageRep.reset : StageRep := { status := 0, loci := [], overflow := false, elapsedUs := 0, detail := 0 }

def Muster.reset : Muster :=
  { st := 0, round := 0, scope := false, sector := 0, targets := [], complete := [], waiting := [], acked := [], missing := [] }

def Bank.empty : Bank :=
  { installed := false, pkgSeq := 0, catVer := 0, kT := 0, descs := [], repros := [], scanBlocks := [], raw := [] }

def Chan.reset : Chan := { value := 0, stale := false, fails := 0, ever := false }
def Node.reset : Node := { temp := 0, power := 0, level := 0 }

/-- Field bits of `FC.REACT` from normal and severe reaction, ERR_N, N and W in minutes (R314). -/
def reactWord (normal severe errN n w : Nat) : W64 :=
  BitVec.ofNat 64 (normal * 2 ^ 40 + severe * 2 ^ 37 + errN * 2 ^ 36 + n * 2 ^ 28 + w * 2 ^ 12)

/-- Expert registers at reset: the values of their field maps, which are those of the STANDARD presets. -/
def Expert.reset : Expert :=
  { ledTiming := 0x0000_03E8_0A00_0000
    twcConfig := 1
    perConfig := 0x0102
    saConfig := 0x0A08
    memConfig := 0x0000_0001_0A04_1800
    vuConfig := 0x0018_233C_1832_8500
    ymConfig := 0x0A02_0000_0000_0000
    inConfig := 0x0_400A
    fcReact := [reactWord 0 1 0 64 60, reactWord 1 2 1 4 1440, reactWord 1 2 1 2 1440, reactWord 0 1 0 4 1440,
      reactWord 1 3 1 2 60, reactWord 0 1 0 8 60, reactWord 1 1 1 1 1, reactWord 2 2 1 1 1, reactWord 1 2 1 4 60,
      reactWord 0 1 0 1 1]
    ctTimeout := [20, 500, 2000, 1000000, 200, 20, 1000, 10, 50, 1000, 20, 100000]
    hxConfig := 0x1410_1405_1464_480A
    hxLink := 0x0A0A_0A10_0414_0A14
    frConfig := 0x1014_0000_0000_0000
    cfgStart := 0x040A_F000_0000_0000
    tsConfig := 0x0A14_5F64_6E80_0000
    secConfig := 0x5555_A902_8C00_0000
    obConfig := 0x0300_4000_0000_0000 }

/-- Flash, OTP and fuses of a part as it first comes up: BLANK, nothing programmed (log entry 2). -/
def Nv.blank : Nv :=
  { otp := { lc := 0, rootDone := false, imageKey := 0, patKey := 0, dbgKey := 0, minSeq := 0,
             seeds := List.replicate 4 { programmed := false, killed := false, value := 0 }, wrapped := [],
             killDue := false }
    half0 := { gen := 0, done := false, recs := [] }
    half1 := { gen := 0, done := false, recs := [] }
    activeHalf := false
    bankA := Bank.empty
    bankB := Bank.empty
    selector := false
    fuses := [] }

/-- The volatile state right after RST_N, over given flash, OTP and fuses. -/
def State.cold (nv : Nv) : State :=
  { pending := []
    now := 0
    nowFrac := 0
    draws := 0
    nv := nv
    ports := { rstLow := true, wrstLow := false, slnUp := false, dieId := 0, credits := [], waiting := [], sent := [],
               hxSent := [], hrp := { status := 0, rdata := 0 }, tap := .idcode }
    expert := Expert.reset
    cfg := { stage := 0, lastStatus := 0, inService := false, heldAt := false, bootSeq := 0, fleet := 0, valid := false,
             expertEn := false, copy := false, patch := false, profile := 0, preset := 0, sections := 0, imageSeq := 0,
             exportBits := 0, meas := 0, fw := [], fwBlocks := 0, patternArea := none, sbBase := 0, sbSize := 0,
             tackBase := 0, tackSize := 0, topo := Topo.empty, reports := List.replicate 10 StageRep.reset, reportsDue := [],
             stageSel := 0, stageStart := 0, b0Tries := 0, muster := Muster.reset, musterQ := [], sbWriteFault := false,
             deferred := [] }
    fc := { ring := [], wr := 0, rd := 0, msgIdx := 0, collectors := [], eventWait := none, meshWait := [],
            injectWait := none, ownWait := [], seqs := [], sources := [],
            classes := List.replicate 10 { pending := false, nmt := false, cnt := 0, level := 0 }, first := none,
            ackStale := false, processed := 0, classSel := 0, irqMask := 0, inj0 := 0, inj1 := 0 }
    ct := { cmds := [], nextEntry := 0, waiting := [], sectors := [], kills := [], chains := [], part := .run,
            rstReq := false, chipFail := false, orderStatus := 0, lastTimeout := 0, timeouts := 0, sectorSel := 0, engineRst := [], partOrders := [] }
    led := { staging := none, plans := [], retired := [], ctxs := [], steps := [], insts := [], held := [],
             deferred := [], orphans := [], admitReg := 0, ctxSel := 0 }
    twc := { pathA := true, pathB := true, queue := [], xhold := [], pathFault := false, lastDiff := 0,
             lastStep := 0, lastElem := 0 }
    per := { inService := 0xFF, inKat := 0, fenced := 0, lastPass := 0, runs := 0, pathFault := false,
             localising := false, queue := [], lastDiff := 0, lastStep := 0, lastLoc := 0 }
    sa := { lanes := List.replicate 64 Lane.reset, clusters := List.replicate 16 Cluster.reset, prodRest := 0 }
    mem := { loft := [], cm := [], opbuf := [], tags := [],
             sheds := List.replicate 4 { st := .off, inFlight := 0, pendingEnable := false },
             eng := List.replicate 4 [], erasures := [], rowMaps := [], ceLog := [], withheld := [], deadSpares := [], busStatus := 0,
             busData := [], eraseFault := false, ueSeen := false, spareOut := false, eraseStatus := 0, eccLast := 0,
             fieldMaps := 0, lastMapInst := 0, lastMapRow := 0, tagSel := 0, armed := [], flips := [], eraseRest := 0 }
    vu := { procs := [], xreqs := [], waiting := [], paddock := [], replays := [], distil := none, distilResult := 0, patterns := [],
            exports := [], journal := [], xwaits := [], xdecided := [], reqSeq := 0, unresolvedSeen := false,
            lastVerdict := 0, lastStep := 0, lastElem := 0, padSel := 0 }
    ym := { remap := [], links := [], deadRouters := [], unreachCores := [], live := false, standby := .retired,
            pending := false, reroute := false, rerouteNow := false, tables := [], next := [], outstanding := [],
            toSend := [], inj := 0, ej := 0, polled := [], polling := false, baseline0 := 0, baseline1 := 0,
            lastInj := 0, lastEj := 0, invalidate := false, installs := 0, forced := false, fcpFault := false,
            unreach := [], pendingLabels := [], installLabels := [], fencing := [], wordRest := 0, remapSel := 0, linkSel := 0 }
    hx := { ports := List.replicate 4 Port.reset, map := [], myVersion := 0, myBoot := 0, route0 := [], route1 := [],
            live := false, standby := .retired, pendingMap := false, inj0 := 0, ej0 := 0, inj1 := 0, ej1 := 0,
            base0 := 0, base1 := 0, ready := [], counts := [], lastDiff := 0, installs := 0, forced := false, disconnected := false,
            down := false, badPorts := 0, tx := [], rx := [], relay := [], delivered := [], sprayed := [],
            barriers := List.replicate 16 Barrier.reset, lastBarrier := 0, barrierOut := 0, hostOk := false,
            forwarded := [], bulkIn := [], bulkMsg := 0, mapSel := 0, barrierMask := 0, offset := 0, rate := 0, goodSync := 0,
            locked := false, parentDie := 0, parentPort := 0, stepped := false, timeHold := false,
            throttledSince := none }
    fr := { sessions := [], wanted := [], chanFenced := 0, bankOk := false, bankChecked := false, bistStatus := 0, bistScope := 0,
            bistSoft := false, failLog := [], failOvf := false, failRows := 0, failSel := 0, testLast := 0,
            pkgState := 0, pkgCode := 0, pkgBytes := [], pkgLen := 0, pkgReceived := 0, fuseStatus := 0, fuseDone := 0, flashRest := 0 }
    ts := { domains := List.replicate 24 .off, pending := 0, failed := 0, chans := [], nodes := List.replicate 65 Node.reset,
            tCp := 0, pIn := 0, pSilorn := 0, windowNow := false, windowPrev := false, alert := false, rounds := 0,
            firstRound := false, coolWarned := false, chanSel := 0, nodeSel := 0 }
    sec := { lc := 0, nextLc := 0, keys := [], dDerived := false, unlocked := false, policy := 0, applied := false,
             provData := [], provOut := [], lcStatus := 0, klData := [], klStatus := 0, tokData := [], bound := none,
             tokBlockUntil := 0, nonce := [], sarState := 0, sarCtx := 0,
             sarWords := [], certSel := 0, certPos := 0, attestCert := [], dumpKey := [], challenge := none,
             unlockFails := 0, raised := 0, almLevel := 0, deniedSeen := false }
    ob := { active := [], completed := [], ctxActive := [], ctxCompleted := [], snapSeq := 0, sampleRace := false,
            ringSel := 0, rings := List.replicate 19 [], traceCtrl := 0, traceBuf := [], traceDropped := 0,
            traceWindow := 0, traceBytes := 0, watch := [], rctr := List.replicate 6 0, tackPos := List.replicate 6 0,
            tackOk := false, tackStopped := false, writeFault := false, written := [], tackBytes := 0, dumpState := 0,
            dumpSlot := false, dumpUnread := 0, dumpOff := 0, dumpSeq := 0, dumpNext := 0 } }

/-- Right after reset: RST_N held low over a blank part. -/
def State.reset : State := State.cold Nv.blank

end Sys2Proof.Machine
end

