-- ==== Sys2Proof/Machine/Ops.lean ====
section
/-!
DEFINITION. The shared operations: bit fields and little-endian bytes (R5), sparse tables and arrays,
one modifier per unit of `State`, counters (R482), the Locus and the coded error message (R24, R288),
and the egress of a Mesh Attach port (R510, R511).
-/
namespace Sys2Proof.Machine

/-! ### Bit fields and bytes -/

/-- The field [hi:lo] of a word (R5). -/
def fld {n : Nat} (w : BitVec n) (hi lo : Nat) : Nat := w.toNat / 2 ^ lo % 2 ^ (hi + 1 - lo)

def bit {n : Nat} (w : BitVec n) (k : Nat) : Bool := w.getLsbD k

/-- A value placed at [hi:lo]; bits that do not fit are dropped. -/
def put (hi lo v : Nat) : Nat := v % 2 ^ (hi + 1 - lo) * 2 ^ lo

/-- A register word from its placed fields; every other bit reads zero (R7). -/
def word (fs : List Nat) : W64 := BitVec.ofNat 64 fs.sum

def word128 (fs : List Nat) : W128 := BitVec.ofNat 128 fs.sum

/-- The word with [hi:lo] replaced. -/
def setFld (w : W64) (hi lo v : Nat) : W64 :=
  BitVec.ofNat 64 (w.toNat - put hi lo (fld w hi lo) + put hi lo v)

/-- A RW register after a write: the bits of `mask` follow the write, the others stay (R7). -/
def maskedWrite (old new mask : W64) : W64 := (old &&& ~~~mask) ||| (new &&& mask)

/-- Little-endian value of bytes. -/
def leNat : Bytes → Nat
  | [] => 0
  | b :: r => b.toNat + 256 * leNat r

/-- The `n` low bytes of a value, lowest first. -/
def leBytes : Nat → Nat → Bytes
  | 0, _ => []
  | n + 1, v => BitVec.ofNat 8 v :: leBytes n (v / 256)

/-- The `n` low bytes of a value, highest first. -/
def beBytes (n v : Nat) : Bytes := (leBytes n v).reverse

/-- `n` bytes at an offset, absent bytes reading zero. -/
def slice (b : Bytes) (off n : Nat) : Bytes :=
  let p := (b.drop off).take n
  p ++ List.replicate (n - p.length) 0

/-- The little-endian field of `n` bytes at an offset. -/
def leAt (b : Bytes) (off n : Nat) : Nat := leNat ((b.drop off).take n)

def wordAt (b : Bytes) (i : Nat) : W64 := BitVec.ofNat 64 (leAt b (8 * i) 8)

/-- The field of `width` bits at bit `lo` of a little-endian byte sequence. -/
def bitsAt (b : Bytes) (lo width : Nat) : Nat :=
  leAt b (lo / 8) ((lo % 8 + width + 7) / 8) / 2 ^ (lo % 8) % 2 ^ width

def strBytes (t : String) : Bytes := t.toList.map fun c => BitVec.ofNat 8 c.toNat

/-- Zero padding to a multiple of `n`. -/
def padTo (n : Nat) (b : Bytes) : Bytes := b ++ List.replicate ((n - b.length % n) % n) 0

def satAdd (max a b : Nat) : Nat := min max (a + b)

/-- All elements of a list at which two functions to be compared give equal keys, kept once. -/
def dedup {α : Type} [BEq α] : List α → List α
  | [] => []
  | a :: r => if r.contains a then dedup r else a :: dedup r

def insertBy {α : Type} (key : α → Nat) (a : α) : List α → List α
  | [] => [a]
  | b :: r => if key a < key b then a :: b :: r else b :: insertBy key a r

/-- Stable sort by rising key. -/
def sortBy {α : Type} (key : α → Nat) : List α → List α
  | [] => []
  | a :: r => insertBy key a (sortBy key r)

/-- Numbers `lo` to `lo + n - 1`. -/
def range' (lo n : Nat) : List Nat := (List.range n).map (lo + ·)

/-- Positions of the bits that are set. -/
def bitsOf (n : Nat) (w : Nat) : List Nat := (List.range n).filter fun k => w.testBit k

/-- Mask with the given bits set. -/
def maskOf (l : List Nat) : W64 := l.foldl (fun m k => m ||| (1#64 <<< k)) 0

/-! ### Sparse tables and arrays -/

def Tab.get {α : Type} (t : Tab α) (k : Nat) : Option α :=
  match t with
  | [] => none
  | (i, a) :: r => if i = k then some a else Tab.get r k

def Tab.set {α : Type} (t : Tab α) (k : Nat) (a : α) : Tab α :=
  match t with
  | [] => [(k, a)]
  | (i, b) :: r => if k < i then (k, a) :: (i, b) :: r else if i = k then (k, a) :: r else (i, b) :: Tab.set r k a

def Tab.del {α : Type} (t : Tab α) (k : Nat) : Tab α :=
  match t with
  | [] => []
  | (i, b) :: r => if i = k then r else (i, b) :: Tab.del r k

def Tab.getD {α : Type} (t : Tab α) (k : Nat) (d : α) : α := (Tab.get t k).getD d

/-- Change the entry of a key, from a default where there is none. -/
def Tab.upd {α : Type} (t : Tab α) (k : Nat) (d : α) (f : α → α) : Tab α := Tab.set t k (f (Tab.getD t k d))

/-- Change the entry of a key that has one. -/
def Tab.mod {α : Type} (t : Tab α) (k : Nat) (f : α → α) : Tab α :=
  match Tab.get t k with
  | some a => Tab.set t k (f a)
  | none => t

def Tab.keys {α : Type} (t : Tab α) : List Nat := t.map (·.1)

/-- Byte of an array; an unlisted byte reads zero (log entry 6). -/
def Mem.get (m : Mem) (a : Nat) : Byte :=
  match m with
  | [] => 0
  | (i, b) :: r => if i = a then b else Mem.get r a

/-- Store a byte; a zero byte is not listed. -/
def Mem.set (m : Mem) (a : Nat) (v : Byte) : Mem := if v = 0 then Tab.del m a else Tab.set m a v

def Mem.read (m : Mem) (a n : Nat) : Bytes := (List.range n).map fun i => Mem.get m (a + i)

def Mem.write (m : Mem) (a : Nat) : Bytes → Mem
  | [] => m
  | b :: r => Mem.write (Mem.set m a b) (a + 1) r

/-- Zero the bytes of [a, a + n). -/
def Mem.zero (m : Mem) (a n : Nat) : Mem := m.filter fun c => c.1 < a || a + n ≤ c.1

/-- The canonical form: rising addresses, no zero byte. -/
def Mem.wf (m : Mem) : Bool := (m.map (·.1)).Pairwise (· < ·) && m.all (·.2 ≠ 0)

def Tab.wf {α : Type} (t : Tab α) : Bool := (t.map (·.1)).Pairwise (· < ·)

/-! ### One modifier per unit -/

@[inline] def State.mNv (f : Nv → Nv) (s : State) : State := { s with nv := f s.nv }
@[inline] def State.mPorts (f : Ports → Ports) (s : State) : State := { s with ports := f s.ports }
@[inline] def State.mExpert (f : Expert → Expert) (s : State) : State := { s with expert := f s.expert }
@[inline] def State.mCfg (f : Cfg → Cfg) (s : State) : State := { s with cfg := f s.cfg }
@[inline] def State.mFc (f : Fc → Fc) (s : State) : State := { s with fc := f s.fc }
@[inline] def State.mCt (f : Ct → Ct) (s : State) : State := { s with ct := f s.ct }
@[inline] def State.mLed (f : Led → Led) (s : State) : State := { s with led := f s.led }
@[inline] def State.mTwc (f : Twc → Twc) (s : State) : State := { s with twc := f s.twc }
@[inline] def State.mPer (f : Per → Per) (s : State) : State := { s with per := f s.per }
@[inline] def State.mSa (f : Sa → Sa) (s : State) : State := { s with sa := f s.sa }
@[inline] def State.mMem (f : MemSt → MemSt) (s : State) : State := { s with mem := f s.mem }
@[inline] def State.mVu (f : Vu → Vu) (s : State) : State := { s with vu := f s.vu }
@[inline] def State.mYm (f : Ym → Ym) (s : State) : State := { s with ym := f s.ym }
@[inline] def State.mHx (f : Hx → Hx) (s : State) : State := { s with hx := f s.hx }
@[inline] def State.mFr (f : Fr → Fr) (s : State) : State := { s with fr := f s.fr }
@[inline] def State.mTs (f : Ts → Ts) (s : State) : State := { s with ts := f s.ts }
@[inline] def State.mSec (f : Sec → Sec) (s : State) : State := { s with sec := f s.sec }
@[inline] def State.mOb (f : Ob → Ob) (s : State) : State := { s with ob := f s.ob }

/-- Draw from a source of free values: the number of the draw, and the state after it. -/
def State.draw (s : State) : Nat × State := (s.draws, { s with draws := s.draws + 1 })

/-! ### Units and counters -/

/-- Units in the order of the table of R9. -/
def uGLB := 0
def uCFG := 1
def uMS := 2
def uIN := 3
def uCAP := 4
def uLED := 5
def uTWC := 6
def uPER := 7
def uSA := 8
def uMEM := 9
def uVU := 10
def uYM := 11
def uFC := 12
def uCT := 13
def uHX := 14
def uFR := 15
def uTS := 16
def uSEC := 17
def uOB := 18

/-- Island of a unit (R11); for SA the island of its clusters 0 to 3. -/
def islandOf : Nat → Nat
  | 0 | 1 | 2 | 17 => 0
  | 3 | 12 | 13 => 1
  | 5 | 6 | 10 | 11 => 2
  | 18 => 3
  | 16 => 4
  | 14 => 5
  | 4 => 6
  | 9 => 7
  | 7 => 8
  | 8 => 9
  | _ => 13

/-- Add to a counter of a table of counters, modulo 2^64 (R482). -/
def addCtr (t : Tab Nat) (k n : Nat) : Tab Nat := Tab.upd t k 0 fun c => (c + n) % 2 ^ 64

/-- Add `n` to global counter `k` in its active bank (R482, R483). -/
def bump (k n : Nat) (s : State) : State := s.mOb fun o => { o with active := addCtr o.active k n }

/-- Add `n` to counter `j` of the per-context block of a plan number. -/
def bumpPlan (plan j n : Nat) (s : State) : State :=
  s.mOb fun o => { o with ctxActive := addCtr o.ctxActive (plan * 64 + j) n }

def ctxOf (s : State) (c : Nat) : CtxSt := Tab.getD s.led.ctxs c CtxSt.reset

/-- Add `n` to a global counter and to the context's own counter `j` of its plan. -/
def bumpCtx (k j ctx n : Nat) (s : State) : State :=
  match (ctxOf s ctx).plan with
  | some p => bumpPlan p j n (bump k n s)
  | none => bump k n s

/-! ### Locus and coded error message -/

def dieNat (s : State) : Nat := s.ports.dieId.toNat

def huidClass (h : Huid) : Nat := fld h 15 12
def huidSector (h : Huid) : Nat := fld h 11 6
def huidIndex (h : Huid) : Nat := fld h 5 0

def mkHuid (cls sector index : Nat) : Huid := BitVec.ofNat 16 (put 15 12 cls + put 11 6 sector + put 5 0 index)

def silornHuid (island inst : Nat) : Huid := mkHuid 15 island inst

/-- A Locus of this node; fields finer than the level are zero (R24). -/
def locus (s : State) (level die : Nat) (h : Huid) (ek ei eb : Nat) : W128 :=
  let t := s.cfg.topo
  let f (l v : Nat) : Nat := if level ≤ l then v else 0
  word128 [put 127 96 s.cfg.fleet.toNat, put 95 80 (f 6 t.nodeId.toNat), put 79 74 (f 5 (t.carriers.getD die 0)),
    put 73 68 (f 4 die), put 67 65 level, put 63 60 (f 3 (huidClass h)), put 59 54 (f 3 (huidSector h)),
    put 53 48 (f 2 (huidIndex h)), put 47 40 (f 1 ek), put 39 24 (f 1 ei), put 23 14 (f 1 eb)]

/-- Core-level Locus of a unit of this die. -/
def coreLocus (s : State) (h : Huid) : W128 := locus s 2 (dieNat s) h 0 0 0

/-- Element-level Locus of a unit of this die. -/
def elemLocus (s : State) (h : Huid) (ek ei eb : Nat) : W128 := locus s 1 (dieNat s) h ek ei eb

/-- A unit's own name: class SILORN, its island, an instance (R25). -/
def unitHuid (u inst : Nat) : Huid :=
  if u = uSA then silornHuid (9 + inst / 16) inst else silornHuid (islandOf u) inst

/-- A coded error message of this die (R288); reports carry no hint and no sequence number (log entry 7). -/
def message (s : State) (kind addr : Nat) (ctx : Option Nat) (h : Huid) : W128 :=
  word128 [put 127 80 addr, put 79 68 (ctx.getD 0), put 67 60 kind, put 56 51 (dieNat s), put 50 35 h.toNat,
    put 26 26 ctx.isSome.toNat]

def msgAddr (m : W128) : Nat := fld m 127 80
def msgCtx (m : W128) : Option Nat := if bit m 26 then some (fld m 79 68) else none
def msgKind (m : W128) : Nat := fld m 67 60
def msgHint (m : W128) : Nat := fld m 59 57
def msgDie (m : W128) : Nat := fld m 56 51
def msgHuid (m : W128) : Huid := BitVec.ofNat 16 (fld m 50 35)
def msgSeq (m : W128) : Nat := fld m 34 27

/-- Classes of R289. -/
def cCE := 0
def cUE := 1
def cSDC := 2
def cSUSPECT := 3
def cHANG := 4
def cLINK := 5
def cCFG := 6
def cSEC := 7
def cTHERM := 8
def cTEST := 9

/-- Class that the defining tables give a KIND (R291); none: a licensee KIND, which takes its hint.
A reserved KIND has class CFG (R293). VERDICT_FAIL has class TEST when its cause is XTEST (R269). -/
def kindClass (kind addr : Nat) : Option Nat :=
  if 0xC0 ≤ kind then none else some <|
  if [0x01, 0x03, 0x58, 0x90].contains kind then cCE
  else if [0x02, 0x04, 0x42, 0x44, 0x45, 0x4A, 0x4B, 0x4C, 0x51, 0x52, 0x53, 0x54, 0x59, 0x5A, 0x5B, 0x5E, 0x61,
      0x91, 0x92, 0x98, 0x99, 0xA9, 0xAA, 0xB4, 0xB5, 0xB6].contains kind then cUE
  else if kind = 0x60 then (if addr / 2 ^ 28 % 16 = 4 then cTEST else cSDC)
  else if [0x20, 0x21, 0x22, 0x23, 0x24, 0x35, 0x40, 0x43, 0x48, 0x49, 0x50, 0x62, 0x63].contains kind then cSUSPECT
  else if [0x05, 0x33, 0x5C, 0x65, 0x6E, 0x80, 0x81, 0x82, 0x83, 0x84, 0x8F, 0x95, 0xA8].contains kind then cHANG
  else if [0x68, 0x69, 0x6A, 0x6B, 0x6C, 0x6D, 0x88, 0x89, 0x8B, 0x8C, 0x8D, 0x8E, 0x94].contains kind then cLINK
  else if [0x36, 0x5D, 0x71, 0x96, 0x97, 0xB3].contains kind then cSEC
  else if 0xA0 ≤ kind ∧ kind ≤ 0xA7 then cSEC
  else if [0x06, 0x93, 0x9A, 0x9B, 0x9C, 0x9D].contains kind then cTHERM
  else if kind = 0x66 then cTEST
  else cCFG

/-- Hint of a licensee message as a class (R290, R291). -/
def hintClass : Nat → Nat
  | 1 => cCE
  | 3 => cSUSPECT
  | 4 => cHANG
  | 5 => cLINK
  | 6 => cTHERM
  | 7 => cTEST
  | _ => cUE

def msgClass (m : W128) : Nat := (kindClass (msgKind m) (msgAddr m)).getD (hintClass (msgHint m))

/-! ### Engines and the compute part (R328 to R330) -/

/-- Engine that a SILORN HUID names, by the unit that it belongs to and its number there. -/
def engineOf (h : Huid) : Option (Nat × Nat) :=
  if huidClass h ≠ 15 then none
  else match huidSector h with
    | 2 => some (uTWC, 0)
    | 7 => if huidIndex h < 64 then some (uMEM, huidIndex h / 16) else none
    | 8 => some (uPER, 0)
    | 9 | 10 | 11 | 12 => some (uSA, huidIndex h / 4)
    | 13 => some (uFR, 0)
    | _ => none

/-- The compute part is out of service (R329, R330). -/
def partDown (s : State) : Bool := s.ct.part ≠ .run || s.ports.wrstLow

/-- Engine `k` of a unit takes no new work: it is being reset, or the compute part is down. -/
def engineHeld (s : State) (u k : Nat) : Bool := partDown s || s.ct.engineRst.any fun e => engineOf e.1 = some (u, k)

/-! ### Egress of the Mesh Attach ports -/

def egressClass (kind : Nat) : Nat := if kind = 0x15 ∨ kind = 0x16 then 1 else 0

def Egress.bytes (e : Egress) : Nat := 8 * e.pre.length + e.payload.length

/-- Flits of a packet: header, prefix and payload in flits of 64 bytes (R511). -/
def flitsOf (bytes : Nat) : Nat := (8 + bytes + 63) / 64

/-- Header word of an egress packet (R511). -/
def Egress.header (e : Egress) : W64 :=
  word [put 63 58 e.kind, put 57 54 e.sub, put 53 38 (0xF000 + e.port), put 37 22 e.dst.toNat, put 15 0 e.bytes]

def creditKey (port cls : Nat) : Nat := port * 4 + cls

def sameQueue (a b : Egress) : Bool := a.port = b.port ∧ egressClass a.kind = egressClass b.kind

/-- A packet leaves when its class has credits for every flit and no packet of its port and class is
ahead of it; else it waits (R510). -/
def trySend (p : Ports) (e : Egress) : Option Ports :=
  let k := creditKey e.port (egressClass e.kind)
  let c := Tab.getD p.credits k 0
  let n := flitsOf e.bytes
  if p.slnUp ∧ n ≤ c ∧ ¬ p.waiting.any (sameQueue e) then
    some { p with credits := Tab.set p.credits k (c - n), sent := p.sent ++ [e] }
  else none

def Ports.send (p : Ports) (e : Egress) : Ports :=
  (trySend p e).getD { p with waiting := p.waiting ++ [e] }

/-- Offer every waiting packet again, in order. -/
def Ports.drain (p : Ports) : Ports :=
  p.waiting.foldl (fun q e => q.send e) { p with waiting := [] }

def send (port kind sub : Nat) (dst : Huid) (pre : List W64) (payload : Bytes) (s : State) : State :=
  s.mPorts fun p => p.send { port := port, kind := kind, sub := sub, dst := dst, pre := pre, payload := payload }

end Sys2Proof.Machine

namespace Sys2Proof
open Machine

/-! ### Ingress packets -/

def Ingress.kind (p : Ingress) : Nat := fld p.header 63 58
def Ingress.sub (p : Ingress) : Nat := fld p.header 57 54
def Ingress.src (p : Ingress) : Huid := BitVec.ofNat 16 (fld p.header 53 38)
def Ingress.dst (p : Ingress) : Nat := fld p.header 37 22
def Ingress.bytes (p : Ingress) : Nat := fld p.header 15 0

/-- Class of an ingress kind (R510); none: not an ingress kind. -/
def ingressClass : Nat → Option Nat
  | 0x01 | 0x02 | 0x03 | 0x04 => some 0
  | 0x05 => some 1
  | 0x06 => some 3
  | 0x07 | 0x08 | 0x09 | 0x17 => some 2
  | _ => none

/-- None of the cases in which R511 discards an ingress packet. -/
def Ingress.ok (p : Ingress) : Bool :=
  ingressClass p.kind = some p.cls.toNat ∧ p.dst = 0xF000 ∧ p.flits = flitsOf p.bytes ∧ p.bytes ≤ 4152 ∧
    p.body.length = p.bytes

/-- Prefix word `i` of a packet. -/
def Ingress.pre (p : Ingress) (i : Nat) : W64 := wordAt p.body i

end Sys2Proof
end

