-- ==== Sys2Proof/Machine/HitchNet.lean ====
section
/-!
DEFINITION. The Hitch network as a machine for packets: torus and node map (R339 to R341), routes (R356
to R359), flow control (R360 to R362), multicast (R363) and end-to-end delivery (R364 to R366). What the
table's Hitch commands do with it stands in `Hitch.lean`.
-/
namespace Sys2Proof

/-- A packet with a field of its routing header replaced. -/
def HxPkt.withFld (p : HxPkt) (hi lo v : Nat) : HxPkt := { p with header := Machine.setFld p.header hi lo v }

end Sys2Proof

namespace Sys2Proof.Machine

/-! ### CRC-32C (log entry 8) -/

def crcStep (c : BitVec 32) : BitVec 32 :=
  if bit c 0 then (c >>> 1) ^^^ 0x82F63B78#32 else c >>> 1

def crcByte (c : BitVec 32) (b : Byte) : BitVec 32 :=
  (List.range 8).foldl (fun x _ => crcStep x) (c ^^^ b.setWidth 32)

/-- CRC-32C over bytes. -/
def crc32c (b : Bytes) : BitVec 32 := ~~~ (b.foldl crcByte 0xFFFFFFFF#32)

/-! ### Packets -/

def hxLong (p : HxPkt) : Bool := bit p.header 63
def hxEpoch (p : HxPkt) : Bool := bit p.header 62
def hxOrder (p : HxPkt) : Bool := bit p.header 61
def hxMcast (p : HxPkt) : Bool := bit p.header 58
def hxSpace (p : HxPkt) : Bool := bit p.header 57
def hxRelay (p : HxPkt) : Bool := bit p.header 56
def hxDst (p : HxPkt) : Nat := fld p.header 55 50
def hxTgt (p : HxPkt) : Nat := fld p.header 49 44
def hxSrc (p : HxPkt) : Nat := fld p.header 43 38
def hxKind (p : HxPkt) : Nat := fld p.header 37 30
def hxSeq (p : HxPkt) : Nat := fld p.header 29 14
def hxResync (p : HxPkt) : Bool := bit p.header 13
def hxMask (p : HxPkt) : Nat := fld p.ext 191 128
def hxArg (p : HxPkt) : Nat := fld p.ext 39 0

/-- Slots of a frame that a packet fills (R347). -/
def slotsOf (p : HxPkt) : Nat := if hxLong p then 1 + (p.payload.length + 31) / 32 else 1

def hxBytes (p : HxPkt) : Nat := 32 + p.payload.length

/-- PCRC of a long packet matches its payload and LEN (R352). -/
def pcrcOk (p : HxPkt) : Bool :=
  !hxLong p || (fld p.ext 95 86 = p.payload.length && fld p.ext 127 96 = (crc32c p.payload).toNat)

/-- A short packet of a kind with its body. -/
def shortPkt (kind : Nat) (body : Nat) : HxPkt :=
  { header := word [put 37 30 kind], ext := BitVec.ofNat 192 body, payload := [] }

/-- A long packet of a kind with ARG and payload; the mask of a multicast is set when it is sent. -/
def longPkt (kind arg : Nat) (payload : Bytes) : HxPkt :=
  { header := word [put 63 63 1, put 37 30 kind]
    ext := BitVec.ofNat 192 (put 127 96 (crc32c payload).toNat + put 95 86 payload.length + put 39 0 arg)
    payload := payload }

def kE2EACK := 0x01
def kXDIGEST := 0x02
def kXSETTLE := 0x03
def kXVERDICT := 0x04
def kSTATE := 0x05
def kTBLREADY := 0x06
def kFLIP := 0x07
def kCOUNT := 0x08
def kRETIRE := 0x09
def kARRIVE := 0x0A
def kRELEASE := 0x0B
def kFAULTFWD := 0x0C
def kORDER := 0x0D
def kBULK := 0x0E
def kTRACE := 0x0F
def kSEC := 0x10

/-- Kinds whose options are chosen by spraying (R359). -/
def sprayedKind (k : Nat) : Bool := k = kXSETTLE || k = kBULK || k = kTRACE

def throttledKind (k : Nat) : Bool := k = kBULK || k = kTRACE

/-! ### Torus, map, links -/

def dieX (t : Topo) (d : Nat) : Nat := d % max t.nx 1
def dieY (t : Topo) (d : Nat) : Nat := d / max t.nx 1
def dieAt (t : Topo) (x y : Nat) : Nat := y * max t.nx 1 + x

/-- Neighbour of a die at a port (R340). -/
def neighbour (t : Topo) (d p : Nat) : Nat :=
  let nx := max t.nx 1
  let ny := max t.ny 1
  match p with
  | 0 => dieAt t ((dieX t d + 1) % nx) (dieY t d)
  | 1 => dieAt t ((dieX t d + nx - 1) % nx) (dieY t d)
  | 2 => dieAt t (dieX t d) ((dieY t d + 1) % ny)
  | _ => dieAt t (dieX t d) ((dieY t d + ny - 1) % ny)

/-- Port at the far end of a port (R340). -/
def farPort (p : Nat) : Nat := if p % 2 = 0 then p + 1 else p - 1

def presentDies (t : Topo) : List Nat := bitsOf 64 t.present.toNat

/-- A port with a neighbour (R340). -/
def portUsed (t : Topo) (d p : Nat) : Bool :=
  (if p < 2 then t.nx ≠ 1 else t.ny ≠ 1) && t.present.toNat.testBit (neighbour t d p)

def recPortState (r : DieRec) (p : Nat) : Nat := fld r.ports (4 * p + 3) (4 * p + 2)
def recPortWidth (r : DieRec) (p : Nat) : Nat := fld r.ports (4 * p + 1) (4 * p)

def portActive (h : Hx) (d p : Nat) : Bool :=
  match Tab.get h.map d with
  | some r => r.current && recPortState r p = 0
  | none => false

/-- A link is usable when both of its ends report it ACTIVE (R341). -/
def linkUsable (t : Topo) (h : Hx) (d p : Nat) : Bool :=
  portUsed t d p && portActive h d p && portActive h (neighbour t d p) (farPort p)

def linkWidth (h : Hx) (d p : Nat) : Nat := ((Tab.get h.map d).map fun r => recPortWidth r p).getD 0

/-- Dies reached from `seen` in at most `n` rounds over usable links. -/
def spread (t : Topo) (h : Hx) : Nat → List Nat → List Nat
  | 0, seen => seen
  | n + 1, seen =>
    spread t h n (seen ++ dedup ((seen.flatMap fun d =>
      ((List.range 4).filter (linkUsable t h d)).map (neighbour t d)).filter fun d => !seen.contains d))

/-- The live dies of the component of die `me`, in rising order (R341). -/
def component (t : Topo) (h : Hx) (me : Nat) : List Nat :=
  match Tab.get h.map me with
  | some r => if r.current then sortBy id (spread t h 64 [me]) else []
  | none => []

def liveDies (s : State) : List Nat := component s.cfg.topo s.hx (dieNat s)

/-- Coordinator: the live die with the lowest Die ID (R341). -/
def coordinator (s : State) : Nat := (liveDies s).headD 0

def isCoord (s : State) : Bool := (liveDies s).head? = some (dieNat s)

/-- Node Leader: the live die with the lowest Die ID whose record carries HOST_OK (R341). -/
def nodeLeader (s : State) : Option Nat :=
  (liveDies s).find? fun d => ((Tab.get s.hx.map d).map (·.hostOk)).getD false

def isLeader (s : State) : Bool := nodeLeader s = some (dieNat s)

/-! ### Unicast routes (R356 to R358) -/

/-- Dies and ports from `d` until column or row `goal` in one direction. -/
def ringPath (t : Topo) (p goal : Nat) : Nat → Nat → List (Nat × Nat)
  | 0, _ => []
  | n + 1, d =>
    if (if p < 2 then dieX t d else dieY t d) = goal then []
    else (d, p) :: ringPath t p goal n (neighbour t d p)

/-- Hops of direct option `i = ORDER * 4 + XDIR * 2 + YDIR` from S to T. -/
def directPath (t : Topo) (i src dst : Nat) : List (Nat × Nat) :=
  let px := i / 2 % 2
  let py := 2 + i % 2
  if i < 4 then
    ringPath t px (dieX t dst) 8 src ++ ringPath t py (dieY t dst) 8 (dieAt t (dieX t dst) (dieY t src))
  else
    ringPath t py (dieY t dst) 8 src ++ ringPath t px (dieX t dst) 8 (dieAt t (dieX t src) (dieY t dst))

/-- Cost of a path whose links and dies are all usable: 4 for a link at ×2, 8 at ×1; none when it is not usable. -/
def pathCost (t : Topo) (h : Hx) (live : List Nat) (path : List (Nat × Nat)) : Option Nat :=
  if path.all fun (d, p) => linkUsable t h d p && live.contains d && live.contains (neighbour t d p) then
    some ((path.map fun (d, p) => if linkWidth h d p = 2 then 4 else 8).sum)
  else none

/-- Direction 1 of an empty part is not listed (R358). -/
def optionListed (t : Topo) (i src dst : Nat) : Bool :=
  !((dieX t src = dieX t dst && i / 2 % 2 = 1) || (dieY t src = dieY t dst && i % 2 = 1))

/-- The usable direct options and the least cost among them. -/
def directOptions (t : Topo) (h : Hx) (live : List Nat) (src dst : Nat) : List Nat × Nat :=
  let c := (List.range 8).filterMap fun i =>
    if optionListed t i src dst then (pathCost t h live (directPath t i src dst)).map fun n => (i, n) else none
  let best := (c.map (·.2)).foldl min 1000000
  ((c.filter fun x => x.2 = best).map (·.1), best)

/-- One round of the search for waypoints: dies with a usable direct option to a die already reached.
An entry is a die, its cost to the target, and the next die. -/
def waypointRound (t : Topo) (h : Hx) (live : List Nat) (done last : List (Nat × Nat × Nat)) :
    List (Nat × Nat × Nat) :=
  live.filterMap fun a =>
    if done.any fun e => e.1 = a then none else
    let c := last.filterMap fun (b, cost, _) =>
      let (o, n) := directOptions t h live a b
      if o.isEmpty then none else some (n + cost, b)
    match sortBy (fun x => x.1 * 64 + x.2) c with
    | [] => none
    | (n, b) :: _ => some (a, n, b)

def waypoints (t : Topo) (h : Hx) (live : List Nat) :
    Nat → List (Nat × Nat × Nat) → List (Nat × Nat × Nat) → List (Nat × Nat × Nat)
  | 0, done, _ => done
  | n + 1, done, last =>
    let r := waypointRound t h live done last
    waypoints t h live n (done ++ r) r

/-- Route entry of die `src` for destination `dst` (R357, R358). -/
def routeEntry (t : Topo) (h : Hx) (live : List Nat) (src dst : Nat) : BitVec 16 :=
  if src = dst then 0x8000#16 else
  let (o, _) := directOptions t h live src dst
  if !o.isEmpty then BitVec.ofNat 16 (2 ^ 15 + (o.map fun i => 2 ^ i).sum)
  else
    match (waypoints t h live 64 [(dst, 0, dst)] [(dst, 0, dst)]).find? fun e => e.1 = src with
    | some (_, _, b) => if live.contains dst then BitVec.ofNat 16 (2 ^ 15 + 2 ^ 14 + put 13 8 b) else 0
    | none => 0

/-- The whole route table of a die from its node map. -/
def routeTable (t : Topo) (h : Hx) (me : Nat) : Tab (BitVec 16) :=
  let live := component t h me
  (List.range 64).map fun d => (d, routeEntry t h live me d)

def routeOf (h : Hx) (epoch : Bool) (d : Nat) : BitVec 16 :=
  Tab.getD (if epoch then h.route1 else h.route0) d 0

/-! ### Output ports -/

def countInj (epoch : Bool) (n : Nat) (h : Hx) : Hx :=
  if epoch then { h with inj1 := h.inj1 + BitVec.ofNat 32 n } else { h with inj0 := h.inj0 + BitVec.ofNat 32 n }

def countEj (epoch : Bool) (n : Nat) (h : Hx) : Hx :=
  if epoch then { h with ej1 := h.ej1 + BitVec.ofNat 32 n } else { h with ej0 := h.ej0 + BitVec.ofNat 32 n }

def hxPort (s : State) (p : Nat) : Port := s.hx.ports.getD p Port.reset

def State.mPort (p : Nat) (f : Port → Port) (s : State) : State :=
  s.mHx fun h => { h with ports := h.ports.modify p f }

/-- First output port of an option for a packet at die `me`. -/
def firstPort (t : Topo) (me : Nat) (p : HxPkt) : Nat :=
  let xd := if bit p.header 60 then 1 else 0
  let yd := if bit p.header 59 then 3 else 2
  if hxOrder p then (if dieY t me ≠ dieY t (hxTgt p) then yd else xd)
  else (if dieX t me ≠ dieX t (hxTgt p) then xd else yd)

/-- The reason an entry of an output queue waits now: 0 none, 1 no credit, 2 no second credit, 3 throttle
or a full replay buffer (R349, R360, R362). -/
def blocked (s : State) (p : Port) (share : Nat) (e : QEnt) : Nat :=
  let c := if hxOrder e.pkt then p.credYX else p.credXY
  if p.st ≠ .active ∨ 16 ≤ p.replay.length then 3
  else if c = 0 then 1
  else if e.enter ∧ c < 2 then 2
  else if e.src.isNone ∧ throttledKind (hxKind e.pkt) ∧ s.hx.throttledSince.isSome ∧ share < slotsOf e.pkt then 3
  else 0

def markWait (now w : Nat) (e : QEnt) : QEnt :=
  if e.why = 0 ∧ (w = 1 ∨ w = 2) then { e with why := w, since := now } else e

/-- Free the input buffer that a packet held. -/
def freeBuffer (e : QEnt) (s : State) : State :=
  match e.src with
  | none => s
  | some q => s.mPort q fun p =>
      if hxOrder e.pkt then { p with freedYX := p.freedYX + 1 } else { p with freedXY := p.freedXY + 1 }

/-- Send one packet of a port in a frame of its own: into the replay buffer, against a credit. -/
def sendFrame (n : Nat) (e : QEnt) (s : State) : State :=
  let now := s.now.toNat
  let b := (hxPort s n).txBytes + hxBytes e.pkt
  let s := s.mPort n fun p =>
    let p := if hxOrder e.pkt then { p with credYX := p.credYX - 1 } else { p with credXY := p.credXY - 1 }
    let sync := p.txNext.toNat % 64 = 0
    { p with replay := p.replay ++ [(p.txNext.toNat, [e.pkt])], txNext := p.txNext + 1, txBytes := b % 2 ^ 20,
             tDep := if sync then now * 32 else p.tDep }
  let s := s.mPorts fun q => { q with hxSent := q.hxSent ++ [(n, e.pkt)] }
  let s := bump (768 + n) 1 (bump (800 + n) (b / 2 ^ 20) s)
  let s := if e.why = 1 then bump (792 + n) (now - e.since) s
           else if e.why = 2 then bump (796 + n) (now - e.since) s else s
  freeBuffer e s

/-- Send what the credits of a port allow, oldest first; at most `fuel` packets, and at most `share` slots of
throttled kinds. -/
def pumpPort (n : Nat) : Nat → Nat → State → State
  | 0, _, s => s
  | fuel + 1, share, s =>
    let p := hxPort s n
    let now := s.now.toNat
    match p.queue.findIdx? fun e => blocked s p share e = 0 with
    | none => s.mPort n fun q => { q with queue := q.queue.map fun e => markWait now (blocked s p share e) e }
    | some i =>
      match p.queue[i]? with
      | none => s
      | some e =>
        let s := s.mPort n fun q => { q with queue := q.queue.eraseIdx i }
        let share := if throttledKind (hxKind e.pkt) ∧ e.src.isNone then share - slotsOf e.pkt else share
        pumpPort n fuel share (sendFrame n e s)

/-- INJ_SHARE of R362; 0 reads as 16. -/
def injShare (s : State) : Nat :=
  match fld s.expert.hxConfig 15 12 with
  | 0 => 16
  | n => n

def pumpAll (s : State) : State :=
  (List.range 4).foldl (fun s n => pumpPort n ((hxPort s n).queue.length) (injShare s) s) s

def enqueue (n : Nat) (src : Option Nat) (enter : Bool) (p : HxPkt) (s : State) : State :=
  s.mPort n fun q => { q with queue := q.queue ++ [{ pkt := p, src := src, enter := enter, since := 0, why := 0 }] }

/-- A packet that reaches its consumer waits for it in order. -/
def deliver (p : HxPkt) (s : State) : State := s.mHx fun h => { h with delivered := h.delivered ++ [p] }

/-! ### Injection -/

/-- Options of an entry as a list. -/
def optsOf (e : BitVec 16) : List Nat := (List.range 8).filter fun i => bit e i

/-- Weighted round-robin over the options: option i appears once per lane of its first link (R359). -/
def sprayOption (t : Topo) (h : Hx) (me tgt turn : Nat) (opts : List Nat) : Nat :=
  let l := opts.flatMap fun i =>
    match directPath t i me tgt with
    | (d, p) :: _ => List.replicate (max 1 (linkWidth h d p)) i
    | [] => [i]
  l.getD (turn % max 1 l.length) 0

/-- Route a packet by the table version of its EPOCH and put it into an output queue. An entry with VALID = 0
discards it, which counts as injected and ejected (R368). -/
def injectRouted (p : HxPkt) (s : State) : State :=
  let me := dieNat s
  let t := s.cfg.topo
  let ep := hxEpoch p
  let s := s.mHx (countInj ep 1)
  let e := routeOf s.hx ep (hxDst p)
  if !bit e 15 then s.mHx (countEj ep 1) else
  let tgt := if bit e 14 then fld e 13 8 else hxDst p
  let opts := optsOf (routeOf s.hx ep tgt)
  if opts.isEmpty then s.mHx (countEj ep 1) else
  let turn := Tab.getD s.hx.sprayed (hxDst p) 0
  let spray := hxLong p && sprayedKind (hxKind p)
  let i := if spray then sprayOption t s.hx me tgt turn opts else opts.headD 0
  let s := if spray then s.mHx fun h => { h with sprayed := Tab.set h.sprayed (hxDst p) (turn + 1) } else s
  let p := (((p.withFld 61 59 i).withFld 56 56 (bit e 14).toNat).withFld 49 44 tgt)
  let n := firstPort t me p
  pumpPort n (((hxPort s n).queue.length) + 1) (injShare s) (enqueue n none true p s)

/-- Inject a packet in the live version. -/
def injectLive (p : HxPkt) (s : State) : State := injectRouted (p.withFld 62 62 s.hx.live.toNat) s

def txKey (die : Nat) (space : Bool) : Nat := die * 2 + space.toNat

/-- Key of the multicast sequence of this source. -/
def mcastKey : Nat := 128

def txOf (s : State) (k : Nat) : TxSt := Tab.getD s.hx.tx k TxSt.reset

def State.mTx (k : Nat) (f : TxSt → TxSt) (s : State) : State :=
  s.mHx fun h => { h with tx := Tab.upd h.tx k TxSt.reset f }

/-- Send a unicast packet to a die under R364. A packet for this die itself goes to its consumer. -/
def hxSend (die : Nat) (p : HxPkt) (s : State) : State :=
  if s.hx.down then s else
  let p := (p.withFld 55 50 die).withFld 43 38 (dieNat s)
  if die = dieNat s then deliver p s else
  let k := txKey die false
  let x := txOf s k
  if 32 ≤ x.unacked.length ∨ ¬ x.waiting.isEmpty then s.mTx k fun x => { x with waiting := x.waiting ++ [p] } else
  let p := (p.withFld 29 14 x.next.toNat).withFld 13 13 x.resync.toNat
  let s := s.mTx k fun x => { x with next := x.next + 1, unacked := x.unacked ++ [(p, 0)], resync := false }
  injectLive p s

/-- Send packets that waited for room in the window of a destination. -/
def drainTx (die : Nat) : Nat → State → State
  | 0, s => s
  | n + 1, s =>
    let k := txKey die false
    let x := txOf s k
    match x.waiting with
    | [] => s
    | p :: r =>
      if 32 ≤ x.unacked.length then s else
      let p := (p.withFld 29 14 x.next.toNat).withFld 13 13 x.resync.toNat
      let s := s.mTx k fun x =>
        { x with next := x.next + 1, unacked := x.unacked ++ [(p, 0)], resync := false, waiting := r }
      drainTx die n (injectLive p s)

/-! ### Multicast (R363) -/

/-- Direction port of a member column or row. -/
def mcastXPort (t : Topo) (x0 x : Nat) : Nat :=
  let nx := max t.nx 1
  if (x + nx - x0) % nx ≤ nx / 2 then 0 else 1

def mcastYPort (t : Topo) (y0 y : Nat) : Nat :=
  let ny := max t.ny 1
  if (y + ny - y0) % ny ≤ ny / 2 then 2 else 3

def dieMask (l : List Nat) : Nat := (maskOf l).toNat

/-- Copies of a multicast at die `me`, which it reached by a packet moving out of port `dir`, or from the source:
output port and members. -/
def mcastCopies (t : Topo) (me : Nat) (dir : Option Nat) (members : List Nat) : List (Nat × List Nat) :=
  let others := members.filter fun d => d ≠ me
  let inY : Bool := match dir with
    | some p => decide (2 ≤ p)
    | none => false
  let col := others.filter fun d => dieX t d = dieX t me
  let far := others.filter fun d => dieX t d ≠ dieX t me
  let xs := match dir with
    | some p => if p < 2 then [(p, far)] else []
    | none => [(0, far.filter fun d => mcastXPort t (dieX t me) (dieX t d) = 0),
               (1, far.filter fun d => mcastXPort t (dieX t me) (dieX t d) = 1)]
  let ys := if inY then [(dir.getD 2, others)]
    else [(2, col.filter fun d => mcastYPort t (dieY t me) (dieY t d) = 2),
          (3, col.filter fun d => mcastYPort t (dieY t me) (dieY t d) = 3)]
  (xs ++ ys).filter fun c => !c.2.isEmpty

/-- The path of one member of a multicast. -/
def mcastPath (t : Topo) (src d : Nat) : List (Nat × Nat) :=
  directPath t ((mcastXPort t (dieX t src) (dieX t d)) * 2 + (mcastYPort t (dieY t src) (dieY t d) - 2)) src d

def withMask (p : HxPkt) (mask : Nat) : HxPkt :=
  { p with ext := BitVec.ofNat 192 (p.ext.toNat % 2 ^ 128 + put 191 128 mask) }

/-- Copies of a multicast into the output queues; k outputs count k - 1 further injections. -/
def mcastForward (src : Option Nat) (dir : Option Nat) (eject : Bool) (p : HxPkt) (s : State) : State :=
  let c := mcastCopies s.cfg.topo (dieNat s) dir (bitsOf 64 (hxMask p))
  let k := c.length + eject.toNat
  let s := s.mHx (countInj (hxEpoch p) (k - 1))
  let first := c.headD (4, [])
  pumpAll (c.foldl (fun s x => enqueue x.1 (if x.1 = first.1 then src else none) (dir ≠ some x.1)
    (withMask p (dieMask x.2)) s) s)

/-- One member's copy of a multicast. A STATE record for a die that the live version does not reach follows the tree of
R363, which consults no table: without it no map could form at the first start (log entry 19). -/
def injectCopy (p : HxPkt) (s : State) : State :=
  if hxKind p = kSTATE ∧ ¬ bit (routeOf s.hx s.hx.live (hxDst p)) 15 then
    let d := hxDst p
    let m := (((p.withFld 58 57 3).withFld 61 61 0).withFld 62 62 s.hx.live.toNat).withFld 55 50 0
    mcastForward none none false (withMask m (dieMask [d])) (s.mHx (countInj s.hx.live 1))
  else injectLive p s

/-- Members of a multicast that take a copy of their own over the network. -/
def mcastSendNow (members : List Nat) (p : HxPkt) (s : State) : State :=
  let me := dieNat s
  let t := s.cfg.topo
  let live := liveDies s
  let seq := (txOf s mcastKey).next
  let s := s.mTx mcastKey fun x => { x with next := x.next + 1 }
  let copy (s : State) (d : Nat) : HxPkt :=
    (((p.withFld 57 57 1).withFld 55 50 d).withFld 29 14 seq.toNat).withFld 13 13 (txOf s (txKey d true)).resync.toNat
  let far := members.filter (· ≠ me)
  let one (s : State) (d : Nat) : State :=
    s.mTx (txKey d true) fun x => { x with unacked := x.unacked ++ [(copy s d, 0)], resync := false }
  let resync := far.any fun d => (txOf s (txKey d true)).resync
  let s' := far.foldl one s
  if far.isEmpty then s'
  else if hxKind p = kSTATE then far.foldl (fun x d => injectCopy (copy s d) x) s'
  else if (far.all fun d => (pathCost t s.hx live (mcastPath t me d)).isSome) && !resync then
    let m := (((p.withFld 58 57 3).withFld 29 14 seq.toNat).withFld 61 61 0).withFld 62 62 s.hx.live.toNat
    mcastForward none none false (withMask m (dieMask far)) (s'.mHx (countInj s.hx.live 1))
  else far.foldl (fun x d => injectLive (copy s d) x) s'

/-- Send a multicast to members under R363 and R364; this die's own bit is handled locally. -/
def hxMulticast (members : List Nat) (p : HxPkt) (s : State) : State :=
  if s.hx.down then s else
  let p := withMask ((p.withFld 43 38 (dieNat s)).withFld 57 57 1) (dieMask members)
  let s := if members.contains (dieNat s) then deliver p s else s
  let full := members.any fun d => d ≠ dieNat s && 32 ≤ (txOf s (txKey d true)).unacked.length
  if full ∨ ¬ (txOf s mcastKey).waiting.isEmpty then s.mTx mcastKey fun x => { x with waiting := x.waiting ++ [p] }
  else mcastSendNow members p s

def drainMcast : Nat → State → State
  | 0, s => s
  | n + 1, s =>
    match (txOf s mcastKey).waiting with
    | [] => s
    | p :: r =>
      let members := bitsOf 64 (hxMask p)
      if members.any fun d => d ≠ dieNat s && 32 ≤ (txOf s (txKey d true)).unacked.length then s
      else drainMcast n (mcastSendNow members p (s.mTx mcastKey fun x => { x with waiting := r }))

/-! ### Reception (R365) -/

def rxOf (s : State) (k : Nat) : RxSt := Tab.getD s.hx.rx k RxSt.reset

def State.mRx (k : Nat) (f : RxSt → RxSt) (s : State) : State :=
  s.mHx fun h => { h with rx := Tab.upd h.rx k RxSt.reset f }

/-- Distance of a sequence number ahead of N, modulo 2^16. -/
def seqAhead (n : BitVec 16) (seq : Nat) : Nat := (seq + 2 ^ 16 - n.toNat) % 2 ^ 16

/-- Bitmap of N + 1 to N + 32: bit i for N + 1 + i. -/
def rxBitmap (x : RxSt) : Nat :=
  (dedup (x.held.map fun p => seqAhead x.next (hxSeq p))).foldl
    (fun m d => if 1 ≤ d ∧ d ≤ 32 then m + 2 ^ (d - 1) else m) 0

/-- Send the E2E_ACK of a source and space: N - 1, bitmap, SPACE (log entry 9 gives the body). -/
def sendAck (die : Nat) (space : Bool) (s : State) : State :=
  let k := txKey die space
  let x := rxOf s k
  let body := put 191 176 (x.next - 1).toNat + put 175 144 (rxBitmap x) + put 143 143 space.toNat
  let s := s.mRx k fun x => { x with unackedArrivals := 0 }
  injectLive (((shortPkt kE2EACK body).withFld 55 50 die).withFld 43 38 (dieNat s)) s

/-- Deliver the packets that are contiguous from N. -/
def deliverRun (k : Nat) : Nat → State → State
  | 0, s => s
  | n + 1, s =>
    let x := rxOf s k
    match x.held.find? fun p => hxSeq p = x.next.toNat with
    | none => s
    | some p =>
      deliverRun k n (deliver p (s.mRx k fun x =>
        { x with next := x.next + 1, held := x.held.filter fun q => hxSeq q ≠ hxSeq p }))

/-- Packets of the reorder store that use shared places: every held packet but a source's packet N. -/
def sharedHeld (s : State) : Nat :=
  (s.hx.rx.map fun e => (e.2.held.filter fun p => hxSeq p ≠ e.2.next.toNat).length).sum

/-- A packet with a sequence number reaches this die (R365, R366, R367). -/
def receiveE2E (p : HxPkt) (s : State) : State :=
  if !pcrcOk p then bump 806 1 s else
  let die := hxSrc p
  let k := txKey die (hxSpace p)
  let newBoot := hxKind p = kSTATE ∧
    ((Tab.get s.hx.map die).map fun r => decide (r.boot.toNat ≠ bitsAt p.payload 224 16)) = some true
  let s := if newBoot then (s.mRx (txKey die false) fun _ => RxSt.reset).mRx (txKey die true) fun _ => RxSt.reset else s
  let s := if hxResync p then s.mRx k fun x => { x with next := BitVec.ofNat 16 (hxSeq p), held := [] } else s
  let x := rxOf s k
  let d := seqAhead x.next (hxSeq p)
  if 2 ^ 15 ≤ d ∨ x.held.any (fun q => hxSeq q = hxSeq p) then sendAck die (hxSpace p) (bump 805 1 s)
  else if 32 ≤ d ∨ (d ≠ 0 ∧ 128 ≤ sharedHeld s) then bump 806 1 s
  else
    let s := s.mRx k fun x => { x with held := x.held ++ [p], unackedArrivals := x.unackedArrivals + 1 }
    let s := deliverRun k 33 s
    if 8 ≤ (rxOf s k).unackedArrivals then sendAck die (hxSpace p) s else s

/-- Packets of the relay buffer go out again when their port can take them (R359). -/
def pumpRelay : Nat → State → State
  | 0, s => s
  | n + 1, s =>
    match s.hx.relay with
    | [] => s
    | p :: r =>
      let e := routeOf s.hx (hxEpoch p) (hxDst p)
      let tgt := if bit e 14 then fld e 13 8 else hxDst p
      let q := p.withFld 49 44 tgt
      let opt := (optsOf (routeOf s.hx (hxEpoch p) tgt)).headD 0
      let port := hxPort s (firstPort s.cfg.topo (dieNat s) (q.withFld 61 59 opt))
      if bit e 15 ∧ (port.st ≠ .active ∨ 16 ≤ port.replay.length ∨ 4 ≤ port.queue.length) then s
      else pumpRelay n (injectRouted p (s.mHx fun h => { h with relay := r }))

/-- A packet reaches this die on a port: it continues, turns, is relayed or is ejected (R356, R359, R361, R363). -/
def packetArrive (port : Nat) (p : HxPkt) (s : State) : State :=
  let me := dieNat s
  let ep := hxEpoch p
  let freed (s : State) : State := freeBuffer { pkt := p, src := some port, enter := false, since := 0, why := 0 } s
  let k := hxKind p
  if k = 0 ∨ 0x11 ≤ k then freed (s.mHx (countEj ep 1))
  else if hxMcast p then
    let dir := farPort port
    let mine := (hxMask p).testBit me
    let c := mcastCopies s.cfg.topo me (some dir) (bitsOf 64 (hxMask p))
    let s := mcastForward (some port) (some dir) mine p s
    let s := if c.isEmpty then freed s else s
    if mine then receiveE2E (withMask p (2 ^ me)) (s.mHx (countEj ep 1)) else s
  else if hxTgt p ≠ me then
    let n := firstPort s.cfg.topo me p
    pumpAll (enqueue n (some port) (n ≠ farPort port) p s)
  else
    let s := freed (s.mHx (countEj ep 1))
    if hxRelay p then
      if 16 ≤ s.hx.relay.length then bump 807 1 s
      else pumpRelay 17 (s.mHx fun h => { h with relay := h.relay ++ [p] })
    else if k = kE2EACK then deliver p s
    else receiveE2E p s

end Sys2Proof.Machine
end

