-- ==== Sys2Proof/Machine/Observe.lean ====
section
/-!
DEFINITION. Records of what happens: AES-GCM framing over the key store (R460, R476), the Tack Room
(R488, R489), event rings (R486, R487) and trace (R490, R491).
-/
namespace Sys2Proof.Machine

/-! ### Sealing -/

/-- Content of a key slot; an empty slot is all zero. -/
def keySlot (s : State) (slot : Nat) : BitVec 384 := ((Tab.get s.sec.keys slot).map (·.key)).getD 0

def hasKey (s : State) (slot : Nat) : Bool := (Tab.get s.sec.keys slot).isSome

/-- AES-256-GCM: ciphertext of a plaintext. -/
def gcmCrypt (key : BitVec 256) (iv pt : Bytes) : Bytes :=
  pt.zipIdx.map fun (b, i) => b ^^^ Config.gcmStream key iv i

/-- Ciphertext and 16-byte tag. -/
def gcmSeal (key : BitVec 256) (iv aad pt : Bytes) : Bytes :=
  let ct := gcmCrypt key iv pt
  ct ++ leBytes 16 (Config.gcmTag key iv aad ct).toNat

/-- Plaintext of a ciphertext whose tag verifies. -/
def gcmOpen (key : BitVec 256) (iv aad ct tag : Bytes) : Option Bytes :=
  if leBytes 16 (Config.gcmTag key iv aad ct).toNat = tag then some (gcmCrypt key iv ct) else none

/-! ### The Tack Room -/

/-- First byte of a stream's region and its size (R488). -/
def streamRegion (s : State) (stream : Nat) : Nat × Nat :=
  match stream with
  | 1 => (0, 0x10_0000)
  | 0 => (0x10_0000, 0xF0_0000)
  | 2 => (0x100_0000, 0x40_0000)
  | 4 => (0x140_0000 + (if s.ob.dumpSlot then 0x80_0000 else 0), 0x80_0000)
  | _ => (0x240_0000, s.cfg.tackSize - 0x240_0000)

/-- OB may write: the region is verified, and no ERASE policy has stopped it (R474, R488). -/
def tackReady (s : State) : Bool := s.ob.tackOk && !s.ob.tackStopped && hasKey s 0xE2

def tackPacket (off : Nat) (body : Bytes) (s : State) : State :=
  send s.cfg.topo.tackPort 0x15 0 s.cfg.topo.tackAgent [word [put 47 0 (s.cfg.tackBase + off)]] body s

/-- Place bytes in a stream's region; no record crosses a page, and the tail of a page is zero (R488). -/
def tackPlace (stream : Nat) (body : Bytes) (s : State) : State :=
  let (base, size) := streamRegion s stream
  let idx := if stream = 5 then 3 else stream
  let pos := s.ob.tackPos.getD idx 0
  let pos := if size ≤ pos then 0 else pos
  let room := 4096 - pos % 4096
  let s := if room < body.length then tackPacket (base + pos) (List.replicate room 0) s else s
  let pos := if room < body.length then (if size ≤ pos + room then 0 else pos + room) else pos
  let total := s.ob.tackBytes + body.length
  let s := tackPacket (base + pos) body s
  let s := bump 1158 (total / 2 ^ 20) s
  s.mOb fun o => { o with tackPos := o.tackPos.set idx (pos + body.length), tackBytes := total % 2 ^ 20 }

/-- Seal a record of a type under K_DUMP (R476, R489). -/
def tackSeal (stream type : Nat) (body : Bytes) (s : State) : TackRec :=
  let rctr := s.ob.rctr.getD stream 0
  let h := word128 [put 127 120 0x54, put 119 112 type, put 111 96 body.length, put 95 68 s.cfg.bootSeq.toNat,
    put 67 64 stream, put 63 0 rctr]
  let aad := leBytes 16 h.toNat
  { header := h, body := gcmSeal ((keySlot s 0xE2).setWidth 256) (leBytes 12 (fld h 95 0)) aad (padTo 16 body) }

def TackRec.bytes (r : TackRec) : Bytes := leBytes 16 r.header.toNat ++ r.body

/-- Write a record to a stream, if OB may write. -/
def tackWrite (stream type : Nat) (body : Bytes) (s : State) : State :=
  if !tackReady s then s else
  let r := tackSeal stream type body s
  let s := s.mOb fun o => { o with rctr := o.rctr.set stream (o.rctr.getD stream 0 + 1), written := o.written ++ [r] }
  tackPlace stream r.bytes (bump 1107 1 s)

/-! ### Event rings and trace -/

def traceOn (s : State) : Bool := bit s.ob.traceCtrl 63

/-- Send a completed trace record: to the Node Leader, or to stream 3 here (R491). -/
def traceEmit (body : Bytes) (s : State) : State :=
  let leader := if bit s.expert.obConfig 44 then nodeLeader s else none
  let s := bump 1154 1 s
  match leader with
  | some d =>
    if d = dieNat s ∨ ¬ tackReady s then tackWrite 3 5 body s else
    let r := tackSeal 3 5 body s
    let s := s.mOb fun o => { o with rctr := o.rctr.set 3 (o.rctr.getD 3 0 + 1) }
    hxSend d (longPkt kTRACE 0 r.bytes) (bump 1107 1 s)
  | none => tackWrite 3 5 body s

/-- Bytes of trace egress of one 10 µs window (R490): TRACE_CAP percent of the Mesh Attach bound. -/
def traceCap (s : State) : Nat := fld s.expert.obConfig 63 56 * 100000

/-- Copy an entry into the trace; every sixteenth completes a record, and an entry beyond the cap is dropped. -/
def traceEntry (e : W128) (s : State) : State :=
  let win := s.now.toNat / 10000
  let used := if s.ob.traceWindow = win then s.ob.traceBytes else 0
  let full := s.ob.traceBuf.length = 15
  let body := leBytes 16 s.ob.traceDropped ++ (s.ob.traceBuf ++ [e]).flatMap fun x => leBytes 16 x.toNat
  let cost := if full then 48 + body.length else 0
  if traceCap s < used + cost then
    bump 1155 1 (s.mOb fun o => { o with traceDropped := o.traceDropped + 1, traceWindow := win, traceBytes := used })
  else if full then
    traceEmit body (s.mOb fun o => { o with traceBuf := [], traceDropped := 0, traceWindow := win,
                                            traceBytes := used + cost })
  else s.mOb fun o => { o with traceBuf := o.traceBuf ++ [e], traceWindow := win, traceBytes := used }

/-- A ring entry of R487. -/
def ringEntry (s : State) (event : Bool) (code cls : Nat) (ctx : Option Nat) (arg : Nat) : W128 :=
  word128 [put 127 64 s.now.toNat, put 63 63 event.toNat, put 62 55 code, put 54 51 cls, put 50 39 (ctx.getD 0),
    put 38 38 ctx.isSome.toNat, put 37 0 arg]

/-- Record an entry in a unit's ring, newest first, and trace it when it is selected (R486, R490). -/
def ringPush (u : Nat) (event : Bool) (code cls : Nat) (ctx : Option Nat) (arg : Nat) (s : State) : State :=
  let e := ringEntry s event code cls ctx arg
  let s := s.mOb fun o => { o with rings := o.rings.modify u fun r => (e :: r).take 64 }
  if traceOn s ∧ bit s.ob.traceCtrl (31 + u) ∧ (event ∨ bit s.ob.traceCtrl (21 + cls)) then traceEntry e s else s

/-- Ring event STATE: a state field of a basic register took a value (R487). -/
def stateEvent (u off v : Nat) (s : State) : State := ringPush u true 0x06 0 none (off * 2 ^ 16 + v % 2 ^ 16) s

/-- The event of a state field that may have changed. -/
def stateChanged (u off old new : Nat) (s : State) : State := if old = new then s else stateEvent u off new s

/-- A step event, which goes to the trace only (R487, R490). -/
def traceStep (code ctx arg : Nat) (s : State) : State :=
  if traceOn s ∧ bit s.ob.traceCtrl 62 ∧ fld s.ob.traceCtrl 61 50 = ctx then
    traceEntry (ringEntry s true code 0 (some ctx) arg) s
  else s

end Sys2Proof.Machine
end

