-- ==== Sys2Proof/Machine/Operands.lean ====
section
/-!
DEFINITION. Operand forms: the tables of a plan image (R85 to R92), the steering header (R98, R513) and the
lookups of plans, steps, task instances and slot groups that every check command uses.
-/
namespace Sys2Proof.Machine

/-- Bits [hi:lo] of a number. -/
def nf (v hi lo : Nat) : Nat := v / 2 ^ lo % 2 ^ (hi + 1 - lo)

/-! ### Plan image -/

def parseHeader (v : Nat) : HeaderE :=
  { magic := nf v 511 480, planFmt := nf v 479 464, ctx := nf v 463 452, switch := nf v 451 450,
    imageWords := nf v 447 430, layers := nf v 429 418, tasks := nf v 417 403, slotRanges := nf v 402 393,
    pairs := nf v 383 371, edges := nf v 370 359, holdWindow := nf v 358 352, quota := nf v 351 337,
    keyId := nf v 336 329, stepTimeout := nf v 319 298, descs := nf v 297 288, crc := nf v 287 256,
    roster := nf v 255 243, vareoId := nf v 191 128 }

def parseLayer (v : Nat) : LayerE :=
  { layer := nf v 511 480, salt := nf v 479 448, srSeed := BitVec.ofNat 128 (nf v 447 320), srCtx := nf v 319 308,
    opcode := nf v 307 302, mode := nf v 301 300, outFmt := nf v 299 295, inA := nf v 294 290, inB := nf v 289 285,
    rmode := nf v 284 283, doneCount := nf v 280 268, perRate := nf v 267 265, shadowRate := nf v 264 260,
    tiles := nf v 255 224, maxTerms := nf v 223 191, elements := nf v 190 151, inner := nf v 150 127,
    tileInner0 := nf v 126 103, tileInner1 := nf v 102 79 }

/-- Input group field of 21 bits: SLOT, CNT - 1. -/
def parseGroup (v : Nat) : GroupE := { slot := nf v 20 6, cnt := nf v 5 0 + 1 }

def parseTask (v : Nat) : TaskE :=
  { kind := nf v 255 252, layerIdx := nf v 251 240, engine := nf v 239 232, desc := nf v 231 222,
    pair := nf v 221 209, pairCount := nf v 43 32, succ := nf v 208 194,
    inputs := ([parseGroup (nf v 127 107), parseGroup (nf v 106 86), parseGroup (nf v 85 65),
      parseGroup (nf v 64 44)]).take (nf v 193 192 + 1),
    tile0 := nf v 191 160, tileStep := nf v 159 128 }

def parseSlot (v : Nat) : SlotE :=
  { base := nf v 63 49, count := nf v 48 34, acc := nf v 33 32, expect := nf v 31 19 }

def parsePair (v : Nat) : PairE := { huid := BitVec.ofNat 16 (nf v 63 48), die := nf v 47 42, side := nf v 41 41 }

def parseEdge (v : Nat) : EdgeE :=
  { srcCtx := nf v 63 52, srcLayer := nf v 51 40, dstLayer := nf v 39 28, lag := nf v 27 20 }

/-- Roster words: 4 logical HUIDs a word. -/
def rosterWords (n : Nat) : Nat := (n + 3) / 4

/-- Words of an image from its counts (R85). -/
def imageSize (h : HeaderE) : Nat :=
  8 + 8 * h.layers + 4 * h.tasks + h.slotRanges + h.pairs + h.edges + rosterWords h.roster + 8 * h.descs

/-- Entry `i` of a table that begins at a word, of `n` words an entry. -/
def entryAt (img : Bytes) (start n i : Nat) : Nat := leAt img (8 * (start + n * i)) (8 * n)

/-- The tables of an image. -/
def parsePlan (img : Bytes) : Plan :=
  let h := parseHeader (leAt img 0 64)
  let l0 := 8
  let t0 := l0 + 8 * h.layers
  let s0 := t0 + 4 * h.tasks
  let p0 := s0 + h.slotRanges
  let e0 := p0 + h.pairs
  let r0 := e0 + h.edges
  let d0 := r0 + rosterWords h.roster
  { hdr := h
    num := 0
    layers := (List.range h.layers).map fun i => parseLayer (entryAt img l0 8 i)
    tasks := (List.range h.tasks).map fun i => parseTask (entryAt img t0 4 i)
    ranges := (List.range h.slotRanges).map fun i => parseSlot (entryAt img s0 1 i)
    pairs := (List.range h.pairs).map fun i => parsePair (entryAt img p0 1 i)
    edges := (List.range h.edges).map fun i => parseEdge (entryAt img e0 1 i)
    roster := (List.range h.roster).map fun i => BitVec.ofNat 16 (leAt img (8 * r0 + 2 * i) 2)
    descs := (List.range h.descs).map fun i => BitVec.ofNat 512 (entryAt img d0 8 i)
    pages := []
    meas := 0
    epoch := false
    counts := []
    served := []
    firstStep := 0
    lastStep := 0
    tAdmit := 0 }

/-- Ring depth RING = ceil(HOLD_WINDOW / LAYERS) (R84). -/
def ringDepth (h : HeaderE) : Nat := (h.holdWindow + h.layers - 1) / max h.layers 1

def Plan.noLayer : LayerE :=
  { layer := 0, salt := 0, srSeed := 0, srCtx := 0, opcode := 0, mode := 0, outFmt := 0, inA := 0, inB := 0,
    rmode := 0, doneCount := 0, perRate := 7, shadowRate := 31, tiles := 1, maxTerms := 0, elements := 0, inner := 0,
    tileInner0 := 0, tileInner1 := 0 }

def Plan.noTask : TaskE :=
  { kind := 15, layerIdx := 0, engine := 0, desc := 0, pair := 0, pairCount := 0, succ := 0x7FFF, inputs := [],
    tile0 := 0, tileStep := 0 }

def planLayer (p : Plan) (i : Nat) : LayerE := p.layers.getD i Plan.noLayer
def planTask (p : Plan) (i : Nat) : TaskE := p.tasks.getD i Plan.noTask

/-- Layer index and round of a full step number (R82). -/
def layerOfStep (p : Plan) (step : Nat) : Nat := step % max p.hdr.layers 1
def roundOfStep (p : Plan) (step : Nat) : Nat := step / max p.hdr.layers 1

/-- First slot of input group `i` of a task in a round (R84). -/
def groupSlot (p : Plan) (t : TaskE) (i round : Nat) : Nat :=
  let g := t.inputs.getD i { slot := 0, cnt := 1 }
  g.slot + round % max (ringDepth p.hdr) 1 * g.cnt

def groupCnt (t : TaskE) (i : Nat) : Nat := (t.inputs.getD i { slot := 0, cnt := 1 }).cnt

/-- The slot range that holds a slot. -/
def rangeOf (p : Plan) (slot : Nat) : Option SlotE :=
  p.ranges.find? fun r => r.base ≤ slot && slot < r.base + r.count

/-- Capture rule and EXPECT of an input group. -/
def groupRule (p : Plan) (t : TaskE) (i : Nat) : Nat × Nat :=
  match rangeOf p (t.inputs.getD i { slot := 0, cnt := 1 }).slot with
  | some r => (r.acc, r.expect)
  | none => (3, 1)

/-- Tile sampled by a task in a round (R88). -/
def taskTile (p : Plan) (t : TaskE) (round : Nat) : Nat :=
  (t.tile0 + round * t.tileStep) % max (planLayer p t.layerIdx).tiles 1

def taskPairs (p : Plan) (t : TaskE) : List PairE := (p.pairs.drop t.pair).take t.pairCount

def ktTWIN := 0
def ktXDIE := 1
def ktPERIM := 2
def ktSHADOW := 3
def ktXTEST := 4

/-! ### Contexts and plans -/

/-- PSTATE of R118: NONE, ACTIVE, SWITCHING, HALTED. -/
def CtxSt.pstate (x : CtxSt) : Nat :=
  if x.plan.isNone then 0 else if x.halted then 3 else if x.switch.isSome then 2 else 1

def State.mCtx (c : Nat) (f : CtxSt → CtxSt) (s : State) : State :=
  let x := ctxOf s c
  stateChanged uLED 0x40018 x.pstate (f x).pstate (s.mLed fun l => { l with ctxs := Tab.set l.ctxs c (f x) })

def planAt (s : State) (n : Nat) : Option Plan := Tab.get s.led.plans n

/-- Number and plan in effect of a context. -/
def planOf (s : State) (c : Nat) : Option (Nat × Plan) :=
  match (ctxOf s c).plan with
  | some n => (planAt s n).map fun p => (n, p)
  | none => none

/-- Number and plan of the standby successor of a context. -/
def standbyOf (s : State) (c : Nat) : Option (Nat × Plan) :=
  match (ctxOf s c).switch with
  | some w => match w.next with
    | some n => (planAt s n).map fun p => (n, p)
    | none => none
  | none => none

/-- Plan of a live epoch of a context: the plan in effect, or its standby successor (R99). -/
def planOfEpoch (s : State) (c : Nat) (e : Bool) : Option (Nat × Plan) :=
  match planOf s c with
  | some (n, p) => if p.epoch = e then some (n, p) else
      match standbyOf s c with
      | some (m, q) => if q.epoch = e then some (m, q) else none
      | none => none
  | none => none

/-- Window base of a live epoch: the oldest unreleased step; a standby epoch starts at 0 (R106, R114). -/
def baseOf (s : State) (c : Nat) (e : Bool) : Nat :=
  if (ctxOf s c).epoch = e then (ctxOf s c).base else 0

/-- The full step number that a 32-bit STEP field names (R83); none: it lies before step 0. -/
def fullStep (base step : Nat) : Option Nat :=
  let lo := base + 2 ^ 32 - 2 ^ 31
  let n := lo + (step + 2 ^ 32 - lo % 2 ^ 32) % 2 ^ 32
  if n < 2 ^ 32 then none else some (n - 2 ^ 32)

/-- What happens with a step number that names a step, and with one that names none. -/
def withStep {α : Type} (o : Option Nat) (other : α) (f : Nat → α) : α :=
  match o with
  | none => other
  | some n => f n

/-- Step of the hold window whose low 16 bits are given (R83, R107). -/
def stepLow16 (base low : Nat) : Nat := base + (low + 2 ^ 16 - base % 2 ^ 16) % 2 ^ 16

/-! ### Steps and task instances -/

def StepSt.fresh (ctx : Nat) (e : Bool) (step : Nat) (now : Nat) : StepSt :=
  { ctx := ctx, epoch := e, step := step, attempt := 0, doneCount := 0, doneBy := [], firstRec := now,
    graceOver := false, marked := false, markedBy := 0xFFFF, timeouts := 0, inputReplays := 0,
    residueCore := none, unresolved := false }

def isStep (c : Nat) (e : Bool) (n : Nat) (x : StepSt) : Bool := x.ctx = c && x.epoch = e && x.step = n

def stepOf (s : State) (c : Nat) (e : Bool) (n : Nat) : Option StepSt := s.led.steps.find? (isStep c e n)

/-- Current attempt of a step; a step that has received nothing is at attempt 0. -/
def attemptOf (s : State) (c : Nat) (e : Bool) (n : Nat) : Nat := ((stepOf s c e n).map (·.attempt)).getD 0

/-- Change a step's state, making it where it has none. -/
def State.mStep (c : Nat) (e : Bool) (n : Nat) (f : StepSt → StepSt) (s : State) : State :=
  s.mLed fun l =>
    { l with steps := if l.steps.any (isStep c e n) then l.steps.map fun x => if isStep c e n x then f x else x
                      else l.steps ++ [f (StepSt.fresh c e n s.now.toNat)] }

def isInst (c : Nat) (e : Bool) (n t : Nat) (x : Inst) : Bool := x.ctx = c && x.epoch = e && x.step = n && x.task = t

def instOf (s : State) (c : Nat) (e : Bool) (n t : Nat) : Option Inst := s.led.insts.find? (isInst c e n t)

def Group.empty : Group := { count := 0, bytes := 0, declared := 0, elems := 0, full := false, senders := [], partials := [], shares := [] }

def Inst.fresh (c : Nat) (e : Bool) (n t groups : Nat) : Inst :=
  { ctx := c, epoch := e, step := n, task := t, groups := List.replicate groups Group.empty, fired := false,
    passed := false, checkerRounds := 0, pushes := [] }

/-- Change an existing task instance. -/
def State.mInst (c : Nat) (e : Bool) (n t : Nat) (f : Inst → Inst) (s : State) : State :=
  s.mLed fun l => { l with insts := l.insts.map fun x => if isInst c e n t x then f x else x }

/-- Slots that a task instance uses: first slot and number, per group. -/
def instSlots (p : Plan) (t : TaskE) (round : Nat) : List (Nat × Nat) :=
  (List.range t.inputs.length).map fun i => (groupSlot p t i round, groupCnt t i)

/-! ### Steering header -/

/-- Steering header and KIND_DATA of a record (R98, R513): the 16-byte prefix. -/
structure Steer where
  ctx : Nat
  epoch : Bool
  attempt : Nat
  task : Nat
  input : Nat
  step32 : Nat
  token : Bool
  length : Nat
  offset : Nat
  deriving DecidableEq, Repr

def steerOf (p : Ingress) : Steer :=
  let v := leAt p.body 0 16
  { ctx := nf v 127 116, epoch := nf v 115 115 = 1, attempt := nf v 114 113, task := nf v 112 98,
    input := nf v 97 96, step32 := nf v 95 64, token := nf v 63 63 = 1, length := nf v 62 32, offset := nf v 31 0 }

/-- Payload after a prefix of `n` bytes. -/
def payloadAfter (p : Ingress) (n : Nat) : Bytes := p.body.drop n

/-! ### Labels and physical cores (R270) -/

/-- Physical core that serves a label. -/
def physOf (s : State) (label : Huid) : Huid :=
  if huidClass label ≠ 0 then label else
  match Tab.get s.ym.remap (huidSector label) with
  | some l => mkHuid 0 (huidSector label) (l.getD (huidIndex label) (huidIndex label))
  | none => label

/-- Label that a physical core serves. -/
def labelOf (s : State) (phys : Huid) : Huid :=
  match Tab.get s.ym.remap (huidSector phys) with
  | some l => mkHuid 0 (huidSector phys) ((l.findIdx? (· = huidIndex phys)).getD (huidIndex phys))
  | none => phys

end Sys2Proof.Machine
end

