-- ==== Sys2Proof/Machine/Flags.lean ====
section
/-!
DEFINITION. The arithmetic of the Single Rounding Contract: formats (R33 to R37), MX scales (R39, R40),
the long accumulator and its state flags (R41 to R44), the Long Partial Format (R45 to R48), the one
rounding (R49 to R52), overflow (R72, R73), MX quantisation (R76 to R78), CG128 (R53, R54), element
hashes (R55 to R57) and residues (R60).
-/
namespace Sys2Proof.Machine

/-! ### CG128 -/

def rotl64 (x : W64) (n : Nat) : W64 := x.rotateLeft n

/-- One round of CG128 (R53). -/
def cgRound (k0 k1 : W64) (x : W64 × W64) (r : Nat × Nat × Nat) : W64 × W64 :=
  let (i, a, b) := r
  let rc := BitVec.ofNat 64 (0x9E37_79B9_7F4A_7C15 * (i + 1))
  let x0 := x.1 + x.2 + rc
  let x1 := rotl64 x.2 a ^^^ x0
  let x0 := rotl64 x0 b
  let x1 := x1 + x0
  if i % 2 = 1 then (x0 + k1, x1 + k0 + BitVec.ofNat 64 i) else (x0, x1)

/-- The counter generator CG128 (R53). -/
def cg128 (counter key : W128) : W128 :=
  let k0 := key.setWidth 64
  let k1 := (key >>> 64).setWidth 64
  let x := [(0, 13, 32), (1, 29, 17), (2, 47, 51), (3, 7, 24), (4, 41, 9), (5, 19, 37)].foldl (cgRound k0 k1)
    (counter.setWidth 64 ^^^ k0, (counter >>> 64).setWidth 64 ^^^ k1)
  BitVec.ofNat 128 ((x.2 + k1).toNat * 2 ^ 64 + (x.1 + k0).toNat)

/-- Counter of R54. -/
def cgCounter (domain ctx layer index : Nat) : W128 :=
  word128 [put 127 120 domain, put 119 108 ctx, put 95 64 layer, put 63 0 index]

/-- Hash of one element (R55). -/
def elemHash (salt index bits : Nat) (key : W128) : Nat :=
  (cg128 (word128 [put 127 96 salt, put 95 32 index, put 31 0 bits]) key).toNat % 2 ^ 64

/-- Random bits of SR of one element (R52). -/
def srBits (l : LayerE) (index : Nat) : Nat := (cg128 (cgCounter 1 l.srCtx l.layer index) l.srSeed).toNat % 2 ^ 16

/-! ### Formats -/

/-- Special patterns of a floating format (R34). -/
inductive Special where
  | ieee | e4m3 | none
  deriving DecidableEq, Repr

inductive Fmt where
  | float (e m bias : Nat) (sp : Special)
  | int (w : Nat)
  deriving DecidableEq, Repr

/-- Format of a code; none: reserved (R33, R34). -/
def fmtOf : Nat → Option Fmt
  | 0 => some (.float 8 23 127 .ieee)
  | 1 => some (.float 8 7 127 .ieee)
  | 2 => some (.float 5 10 15 .ieee)
  | 3 => some (.float 5 2 15 .ieee)
  | 4 => some (.float 4 3 7 .e4m3)
  | 5 => some (.float 3 2 3 .none)
  | 6 => some (.float 2 3 1 .none)
  | 7 => some (.float 2 1 1 .none)
  | 8 => some (.int 8)
  | 9 => some (.int 4)
  | 10 => some (.int 32)
  | _ => none

def fmtMx (field : Nat) : Bool := field.testBit 4
def fmtCode (field : Nat) : Nat := field % 16

/-- A format field that is not reserved (R33). -/
def fmtValid (field : Nat) : Bool :=
  (fmtOf (fmtCode field)).isSome && !(fmtMx field && [0, 1, 2, 10].contains (fmtCode field))

def fmtF (field : Nat) : Fmt := (fmtOf (fmtCode field)).getD (.int 32)

def Fmt.bits : Fmt → Nat
  | .float e m _ _ => 1 + e + m
  | .int w => w

def Fmt.isInt : Fmt → Bool
  | .int _ => true
  | .float .. => false

/-- Largest finite magnitude with a sign. -/
def Fmt.maxMag (f : Fmt) (neg : Bool) : Rat :=
  match f with
  | .float e m b .ieee => (2 - 1 / (2 : Rat) ^ m) * (2 : Rat) ^ ((2 ^ e - 2 - b : Nat) : Int)
  | .float _ _ _ .e4m3 => 448
  | .float e m b .none => (2 - 1 / (2 : Rat) ^ m) * (2 : Rat) ^ ((2 ^ e - 1 - b : Nat) : Int)
  | .int w => if neg then (2 : Rat) ^ (w - 1) else (2 : Rat) ^ (w - 1) - 1

/-- A value: not a number, an infinity, or a sign with an exact magnitude, so that zeros keep their sign. -/
inductive Val where
  | nan
  | inf (neg : Bool)
  | fin (neg : Bool) (mag : Rat)
  deriving DecidableEq, Repr

def Val.zero : Val := .fin false 0

/-- Value of a rational number; zero is +0. -/
def Val.ofRat (q : Rat) : Val := if q < 0 then .fin true (-q) else .fin false q

/-- Signed rational of a finite value. -/
def Val.rat : Val → Rat
  | .fin true m => -m
  | .fin false m => m
  | _ => 0

def Val.isNan : Val → Bool
  | .nan => true
  | _ => false

def Val.isFin : Val → Bool
  | .fin .. => true
  | _ => false

def Val.neg : Val → Val
  | .nan => .nan
  | .inf b => .inf !b
  | .fin b m => .fin (!b) m

def pow2 (e : Int) : Rat := (2 : Rat) ^ e

/-- Value of an element code (R34). -/
def decodeElem (f : Fmt) (bits : Nat) : Val :=
  match f with
  | .int w =>
    let v := bits % 2 ^ w
    if 2 ^ (w - 1) ≤ v then .fin true ((2 ^ w - v : Nat) : Rat) else .fin false (v : Rat)
  | .float e m b sp =>
    let t := bits % 2 ^ m
    let x := bits / 2 ^ m % 2 ^ e
    let neg := bits.testBit (e + m)
    let special := x = 2 ^ e - 1
    if sp = .ieee ∧ special then (if t = 0 then .inf neg else .nan)
    else if sp = .e4m3 ∧ special ∧ t = 7 then .nan
    else if x = 0 then .fin neg ((t : Rat) / 2 ^ m * pow2 (1 - (b : Int)))
    else .fin neg ((1 + (t : Rat) / 2 ^ m) * pow2 ((x : Int) - b))

/-- Value of an E8M0 scale byte; none: NaN (R40). -/
def scaleVal (x : Nat) : Option Rat := if x = 255 then none else some (pow2 ((x : Int) - 127))

/-- An element with its block scale (R40). -/
def scaleElem (x : Nat) (v : Val) : Val :=
  match scaleVal x, v with
  | none, _ => .nan
  | some q, .fin n m => .fin n (m * q)
  | some _, w => w

def canonicalNan : Fmt → Nat
  | .float e m _ .ieee => (2 ^ e - 1) * 2 ^ m + 2 ^ (m - 1)
  | .float _ _ _ .e4m3 => 0x7F
  | _ => 0

/-- Element bits with a NaN made canonical (R37). -/
def canonical (f : Fmt) (bits : Nat) : Nat := if (decodeElem f bits).isNan then canonicalNan f else bits

/-! ### Rounding -/

/-- floor(log2 v) of a positive rational. -/
def floorLog2 (v : Rat) : Int :=
  let e : Int := (v.num.natAbs.log2 : Int) - (v.den.log2 : Int)
  if pow2 e ≤ v then e else e - 1

def rmRNE := 0
def rmRTZ := 1
def rmSR := 2

/-- Round a magnitude to a multiple `k` of a quantum (R49 to R51); `odd` says that a tie keeps `a` only when
its significand is even, and `top` that `a` is the largest finite value, which counts as even. -/
def roundQ (mode r : Nat) (top : Rat) (quantum v : Rat) : Rat :=
  let k := (v / quantum).floor.toNat
  let a := (k : Rat) * quantum
  let f := (v - a) / quantum
  let up : Bool :=
    if f = 0 then false
    else if mode = rmRTZ then false
    else if mode = rmSR then decide (r < (f * 2 ^ 16).floor.toNat)
    else decide (1 / 2 < f) || (f = 1 / 2 && k % 2 = 1 && a ≠ top)
  if up then a + quantum else a

/-- Quantum of a format at a magnitude. -/
def quantumAt (f : Fmt) (v : Rat) : Rat :=
  match f with
  | .int _ => 1
  | .float _ m b _ => if v = 0 then pow2 (1 - (b : Int) - m) else pow2 (max (floorLog2 v) (1 - (b : Int)) - m)

/-- The rounded magnitude, as if the format had no upper limit. -/
def roundMag (f : Fmt) (mode r : Nat) (neg : Bool) (v : Rat) : Rat :=
  roundQ mode r (f.maxMag neg) (quantumAt f v) v

/-- Code of a magnitude that the format represents. -/
def encodeMag (f : Fmt) (neg : Bool) (v : Rat) : Nat :=
  match f with
  | .int w => let n := v.floor.toNat
    if neg then (2 ^ w - n) % 2 ^ w else n
  | .float e m b _ =>
    let s := neg.toNat * 2 ^ (e + m)
    if v = 0 then s
    else
      let x := floorLog2 v
      if x < 1 - (b : Int) then s + (v / pow2 (1 - (b : Int) - m)).floor.toNat
      else s + (x + b).toNat * 2 ^ m + ((v / pow2 x - 1) * 2 ^ m).floor.toNat

def maxCode (f : Fmt) (neg : Bool) : Nat := encodeMag f neg (f.maxMag neg)

/-- An infinite result or an overflow without saturation (R72). -/
def infCode (f : Fmt) (neg : Bool) : Nat :=
  match f with
  | .float e m _ .ieee => neg.toNat * 2 ^ (e + m) + (2 ^ e - 1) * 2 ^ m
  | .float _ _ _ .e4m3 => 0x7F
  | _ => maxCode f neg

/-- Write a result in an output format without MX (R72, R73). -/
def writeVal (f : Fmt) (mode r : Nat) (sat : Bool) (v : Val) : Nat :=
  match v with
  | .nan => canonicalNan f
  | .inf neg =>
    match f with
    | .float _ _ _ .e4m3 => if sat then maxCode f neg else 0x7F
    | _ => infCode f neg
  | .fin neg m =>
    let q := roundMag f mode r neg m
    if q ≤ f.maxMag neg then encodeMag f (neg && !(f.isInt && q = 0)) q
    else if sat ∨ mode = rmRTZ then maxCode f neg
    else infCode f neg

/-- Least exponent of the element format of an MX output (R77). -/
def emaxOf (f : Fmt) : Int := floorLog2 (f.maxMag false)

/-- Scale byte of an output block (R77). -/
def blockScale (f : Fmt) (vs : List Val) : Nat :=
  if vs.any fun v => !v.isFin then 0xFF else
  let amax := (vs.map fun v => |v.rat|).foldl max 0
  if amax = 0 then 0x7F else (min (max (floorLog2 amax - emaxOf f + 127) 0) 254).toNat

/-- Element code under a block scale (R78). -/
def mxElem (f : Fmt) (mode r x : Nat) (v : Val) : Nat :=
  match scaleVal x, v with
  | some q, .fin neg m =>
    let y := roundMag f mode r neg (m / q)
    if y ≤ f.maxMag neg then encodeMag f (neg && !(f.isInt && y = 0)) y else maxCode f neg
  | _, _ => 0

/-- BITS of an element of an MX output (R57). -/
def mxBits (x code : Nat) : Nat := x * 256 + code

/-! ### The long accumulator -/

/-- The exact sum `a * 2^-320` with its state bits and number of terms (R41, R44). -/
structure Acc where
  a : Int
  nan : Bool
  pinf : Bool
  ninf : Bool
  allNegZ : Bool
  terms : Nat
  deriving DecidableEq, Repr

def Acc.zero : Acc := { a := 0, nan := false, pinf := false, ninf := false, allNegZ := false, terms := 0 }

/-- Scaled integer of a finite term; every term is a multiple of 2^-298 (R42). -/
def accInt (q : Rat) : Int := (q * 2 ^ 320).floor

/-- Add one term (R44). -/
def Acc.add (c : Acc) (v : Val) : Acc :=
  let negz := match v with
    | .fin true m => decide (m = 0)
    | _ => false
  let z := negz && (c.terms = 0 || c.allNegZ)
  let c := { c with terms := c.terms + 1, allNegZ := z }
  match v with
  | .nan => { c with nan := true }
  | .inf true => { c with ninf := true }
  | .inf false => { c with pinf := true }
  | .fin _ _ => { c with a := c.a + accInt v.rat }

def Acc.sum (vs : List Val) : Acc := vs.foldl Acc.add Acc.zero

/-- Product of two elements as a term (R44). -/
def Val.mul : Val → Val → Val
  | .nan, _ | _, .nan => .nan
  | .inf a, .inf b => .inf (a != b)
  | .inf a, .fin b m | .fin b m, .inf a => if m = 0 then .nan else .inf (a != b)
  | .fin a m, .fin b n => .fin (a != b) (m * n)

/-- The finished sum before rounding (R38, R44). -/
def Acc.value (c : Acc) : Val :=
  if c.nan ∨ (c.pinf ∧ c.ninf) then .nan
  else if c.pinf then .inf false
  else if c.ninf then .inf true
  else if c.a = 0 then .fin (decide (0 < c.terms) && c.allNegZ) 0
  else .fin (decide (c.a < 0)) ((c.a.natAbs : Rat) / 2 ^ 320)

/-- Range of R41. -/
def accFits (a : Int) : Bool := -(2 ^ 639) ≤ a && a < 2 ^ 639

/-! ### Residues and the Long Partial Format -/

/-- Residue modulo 255 of an integer (R60). -/
def residue (x : Int) : Nat := (x % 255).toNat

/-- A received LPF record: its accumulator and the RES that it carries. -/
structure Lpf where
  acc : Acc
  res : Nat
  deriving DecidableEq, Repr

def lpfOcc (b : Bytes) : Nat := bitsAt b 54 10

/-- Bytes of an LPF record from its header (R45). -/
def lpfLen (b : Bytes) : Nat := 8 + 8 * (bitsOf 10 (lpfOcc b)).length

/-- Two's complement value of the limbs that a mask marks (R46). -/
def limbsValue (occ : Nat) (limbs : List Nat) : Int :=
  let ks := bitsOf 10 occ
  let v := ((ks.zip limbs).map fun (k, w) => w * 2 ^ (64 * k)).sum
  match ks.getLast? with
  | none => 0
  | some h => if (limbs.getLastD 0).testBit 63 then (v : Int) - 2 ^ (64 * h + 64) else v

/-- Read an LPF record (R45, R46). -/
def parseLpf (b : Bytes) : Lpf :=
  let occ := lpfOcc b
  let limbs := (List.range (bitsOf 10 occ).length).map fun i => leAt b (8 + 8 * i) 8
  { acc := { a := limbsValue occ limbs, nan := bitsAt b 53 1 = 1, pinf := bitsAt b 52 1 = 1,
             ninf := bitsAt b 51 1 = 1, allNegZ := bitsAt b 50 1 = 1, terms := bitsAt b 8 33 }
    res := bitsAt b 0 8 }

/-- RES matches the received value (R48). -/
def lpfOk (l : Lpf) : Bool := l.res = residue l.acc.a

/-- Combination of two records (R47). -/
def Acc.combine (x y : Acc) : Acc :=
  { a := x.a + y.a, nan := x.nan || y.nan, pinf := x.pinf || y.pinf, ninf := x.ninf || y.ninf,
    allNegZ := if x.terms = 0 then y.allNegZ else if y.terms = 0 then x.allNegZ else x.allNegZ && y.allNegZ,
    terms := x.terms + y.terms }

/-- Limbs that the restoring rules of R46 need. -/
def occOf (a : Int) : Nat :=
  let u := (a % 2 ^ 640).toNat
  let h := ((List.range 10).find? fun h => decide (-(2 ^ (64 * h + 63)) ≤ a) && decide (a < 2 ^ (64 * h + 63))).getD 9
  if a = 0 then 0
  else ((List.range 10).filter fun k => k = h || (k < h && u / 2 ^ (64 * k) % 2 ^ 64 ≠ 0)).foldl (fun m k => m + 2 ^ k) 0

/-- Write an LPF record; a value outside the range of R41 is sent as NaN (R46). -/
def lpfBytes (c : Acc) : Bytes :=
  let ok := accFits c.a
  let a := if ok then c.a else 0
  let occ := occOf a
  let u := (a % 2 ^ 640).toNat
  leBytes 8 (put 63 54 occ + put 53 53 (c.nan || !ok).toNat + put 52 52 c.pinf.toNat + put 51 51 c.ninf.toNat +
    put 50 50 c.allNegZ.toNat + put 40 8 c.terms + put 7 0 (residue a)) ++
  (bitsOf 10 occ).flatMap fun k => leBytes 8 (u / 2 ^ (64 * k))

end Sys2Proof.Machine
end

