-- ==== Sys2Proof/Machine/Functions.lean ====
section
/-!
DEFINITION. The fourteen contract functions (R67 to R70), by interval arithmetic on fixed-point integers:
each function answers a lower and an upper bound of the exact value, close enough to round alike.
-/
namespace Sys2Proof.Machine

/-- Fraction bits of the fixed-point arithmetic. -/
def fxBits : Nat := 1600

def fxOne : Int := 2 ^ fxBits

def fxMul (a b : Int) : Int := a * b / fxOne

/-- Error allowed to a fixed-point result, in units of its last place. -/
def fxErr : Int := 2 ^ 24

/-- Bounds of a real number. -/
structure Range where
  lo : Rat
  hi : Rat
  deriving DecidableEq, Repr

def Range.exact (q : Rat) : Range := { lo := q, hi := q }

/-- Bounds of a fixed-point result times a power of two. -/
def fxRange (v e : Int) : Range :=
  { lo := (v - fxErr : Int) * pow2 (e - fxBits), hi := (v + fxErr : Int) * pow2 (e - fxBits) }

def fxOf (q : Rat) : Int := (q * fxOne).floor

/-- Sum of `t_n` with `t_(n+1) = t_n * x / (n + 1)`. -/
def expSeries (x : Int) : Nat → Nat → Int → Int → Int
  | 0, _, _, acc => acc
  | fuel + 1, n, t, acc => expSeries x fuel (n + 1) (fxMul t x / (n + 1)) (acc + t)

/-- Sum of `z^(2n+1) / (2n+1)`, with the sign of the square given: `sq` is z² or -z². -/
def oddSeries (sq : Int) : Nat → Nat → Int → Int → Int
  | 0, _, _, acc => acc
  | fuel + 1, n, t, acc => oddSeries sq fuel (n + 1) (fxMul t sq) (acc + t / (2 * n + 1))

/-- 2 atanh z. -/
def atanh2 (z : Int) : Int := 2 * oddSeries (fxMul z z) (fxBits / 4 + 8) 0 z 0

def fxLn2 : Int := atanh2 (fxOne / 3)

/-- atan (1 / n) for n = 5 or 239. -/
def atanInv (n : Int) : Int := oddSeries (-(fxOne / (n * n))) (fxBits / 4 + 8) 0 (fxOne / n) 0

def fxPi : Int := 4 * (4 * atanInv 5 - atanInv 239)

/-- e^x of a fixed-point x of magnitude below 1. -/
def fxExp (x : Int) : Int := expSeries x 420 0 fxOne 0

/-- e^x for |x| at most 2^11. -/
def expRange (x : Rat) : Range :=
  let k := (x * (1000 / 693) + 1 / 2).floor
  fxRange (fxExp (fxOf x - k * fxLn2)) k

/-- Exponents beyond this magnitude leave every output format. -/
def farExp : Rat := 600

def hugeRange : Range := { lo := pow2 500, hi := pow2 600 }
def tinyRange : Range := { lo := pow2 (-600), hi := pow2 (-500) }

/-- e^x for every x. -/
def expR (x : Rat) : Range := if farExp < x then hugeRange else if x < -farExp then tinyRange else expRange x

/-- 2^x for every x. -/
def exp2R (x : Rat) : Range :=
  if farExp < x then hugeRange else if x < -farExp then tinyRange
  else
    let k := x.floor
    if (k : Rat) = x then Range.exact (pow2 k) else fxRange (fxExp (fxMul (fxOf (x - k)) fxLn2)) k

/-- Natural logarithm of a positive x, in fixed point. -/
def fxLn (x : Rat) : Int :=
  let e := floorLog2 x
  let m := x / pow2 e
  let (e, m) := if 3 / 2 ≤ m then (e + 1, m / 2) else (e, m)
  e * fxLn2 + atanh2 (fxOf ((m - 1) / (m + 1)))

def lnR (x : Rat) : Range := if x = 1 then Range.exact 0 else fxRange (fxLn x) 0

def log2R (x : Rat) : Range :=
  if pow2 (floorLog2 x) = x then Range.exact (floorLog2 x : Rat) else fxRange (fxLn x * fxOne / fxLn2) 0

/-- √x of a positive x; exact where it is rational. -/
def sqrtR (x : Rat) : Range :=
  let a := Nat.sqrt x.num.natAbs
  let b := Nat.sqrt x.den
  if a * a = x.num.natAbs ∧ b * b = x.den then Range.exact ((a : Rat) / b)
  else
    let n := Nat.sqrt (x * 4 ^ fxBits).floor.toNat
    { lo := (n : Rat) / 2 ^ fxBits, hi := ((n + 1 : Nat) : Rat) / 2 ^ fxBits }

/-- (u - 1) / (u + 1), increasing in u. -/
def tanhOf (u : Rat) : Rat := (u - 1) / (u + 1)

def nearOne : Range := { lo := 1 - pow2 (-500), hi := 1 - pow2 (-600) }

/-- tanh of a positive x. -/
def tanhR (x : Rat) : Range :=
  if farExp < x then nearOne else let u := expR (2 * x)
    { lo := tanhOf u.lo, hi := tanhOf u.hi }

def sigmoidR (x : Rat) : Range :=
  if farExp < x then nearOne else let u := expR x
    { lo := u.lo / (1 + u.lo), hi := u.hi / (1 + u.hi) }

/-- Sum of `t_n` with `t_(n+1) = t_n * 2 x^2 / (2n + 3)`. -/
def erfSeries (x2 : Int) : Nat → Nat → Int → Int → Int
  | 0, _, _, acc => acc
  | fuel + 1, n, t, acc => erfSeries x2 fuel (n + 1) (fxMul t x2 / (2 * n + 3)) (acc + t)

/-- erf of a positive x below 20. -/
def erfNear (x : Rat) : Range :=
  let sum := erfSeries (fxOf (2 * x * x)) 3600 0 (fxOf x) 0
  let e := expRange (-(x * x))
  let pi := sqrtR ((fxPi : Rat) / fxOne)
  let f (s e p : Rat) : Rat := 2 * s * e / p
  { lo := f ((sum - 2 ^ 40 : Int) / fxOne) e.lo (pi.hi + pow2 (-1500)),
    hi := f ((sum + 2 ^ 40 : Int) / fxOne) e.hi (pi.lo - pow2 (-1500)) }

/-- erf of a positive x. -/
def erfR (x : Rat) : Range := if 20 ≤ x then nearOne else erfNear x

/-- 1 + erf of x; far below zero it is smaller than any format shows. -/
def erf1R (x : Rat) : Range :=
  if x ≤ -20 then tinyRange
  else if x < 0 then let r := erfR (-x)
    { lo := 1 - r.hi, hi := 1 - r.lo }
  else let r := erfR x
    { lo := 1 + r.lo, hi := 1 + r.hi }

/-- Scale a range by a rational. -/
def Range.scale (q : Rat) (r : Range) : Range :=
  if q < 0 then { lo := q * r.hi, hi := q * r.lo } else { lo := q * r.lo, hi := q * r.hi }

/-- x Φ(x). √2 is taken below the arithmetic's own error. -/
def geluR (x : Rat) : Range :=
  let h := (sqrtR (1 / 2)).lo
  let r := if |x| < 40 then (let a := erf1R (x * h)
    ({ lo := a.lo - pow2 (-1400), hi := a.hi + pow2 (-1400) } : Range)) else erf1R x
  r.scale (x / 2)

def sinSeries (sq : Int) : Nat → Nat → Int → Int → Int
  | 0, _, _, acc => acc
  | fuel + 1, n, t, acc => sinSeries sq fuel (n + 2) (-(fxMul t sq) / (((n + 1) * (n + 2) : Nat) : Int)) (acc + t)

/-- sin (turn = 0) or cos (turn = 1) of x: x is reduced by π/2, then a series applies. -/
def sinCosR (turn : Int) (x : Rat) : Range :=
  let q := (x * fxOne * 2 / fxPi + 1 / 2).floor
  let r := ((x * fxOne) - (q : Rat) * fxPi / 2).floor
  let k := (q + turn) % 4
  let sq := fxMul r r
  let v := if k % 2 = 0 then sinSeries sq 260 1 r 0 else sinSeries sq 260 0 fxOne 0
  let v := if 2 ≤ k then -v else v
  -- the reduction error grows with the quotient
  let err := fxErr + 2 ^ 8 * q.natAbs
  { lo := ((v - err : Int) : Rat) / fxOne, hi := ((v + err : Int) : Rat) / fxOne }

/-- Two values that bound a result of FUNC; equal where the result is exact or special. -/
abbrev Bounds := Val × Val

def bothOf (v : Val) : Bounds := (v, v)

def boundsOf (r : Range) : Bounds := (Val.ofRat r.lo, Val.ofRat r.hi)

/-- Bounds of an odd function of a non-zero finite input. -/
def oddOf (f : Rat → Range) (neg : Bool) (m : Rat) : Bounds :=
  if neg then boundsOf ((f m).scale (-1)) else boundsOf (f m)

/-- FUNC at an infinity (R70). -/
def funcInf (code : Nat) (neg : Bool) : Val :=
  match code with
  | 0 | 1 => if neg then Val.zero else .inf false
  | 2 | 3 | 5 => if neg then .nan else .inf false
  | 4 => .fin neg 0
  | 6 => if neg then .nan else Val.zero
  | 7 | 9 => .fin neg 1
  | 8 => if neg then Val.zero else .fin false 1
  | 0xA | 0xB => if neg then .fin true 0 else .inf false
  | _ => .nan

/-- FUNC at a zero (R70). -/
def funcZero (code : Nat) (neg : Bool) : Val :=
  match code with
  | 0 | 1 | 0xD => .fin false 1
  | 2 | 3 => .inf true
  | 4 | 6 => .inf neg
  | 8 => .fin false (1 / 2)
  | _ => .fin neg 0

/-- FUNC at a finite non-zero input (R67, R68, R70). -/
def funcFin (code : Nat) (neg : Bool) (m : Rat) : Bounds :=
  let x := if neg then -m else m
  match code with
  | 0 => boundsOf (exp2R x)
  | 1 => boundsOf (expR x)
  | 2 => if neg then bothOf .nan else boundsOf (log2R m)
  | 3 => if neg then bothOf .nan else boundsOf (lnR m)
  | 4 => bothOf (.fin neg (1 / m))
  | 5 => if neg then bothOf .nan else boundsOf (sqrtR m)
  | 6 => if neg then bothOf .nan else boundsOf (sqrtR (1 / m))
  | 7 => oddOf tanhR neg m
  | 8 => boundsOf (sigmoidR x)
  | 9 => oddOf erfR neg m
  | 0xA => boundsOf (geluR x)
  | 0xB => boundsOf ((sigmoidR x).scale x)
  | 0xC => boundsOf (sinCosR 0 x)
  | _ => boundsOf (sinCosR 1 x)

/-- Bounds of a FUNC result; the exact value where the function gives one. -/
def funcBounds (code : Nat) (v : Val) : Bounds :=
  match v with
  | .nan => bothOf .nan
  | .inf neg => bothOf (funcInf code neg)
  | .fin neg m => if m = 0 then bothOf (funcZero code neg) else funcFin code neg m

end Sys2Proof.Machine
end

