-- ==== Sys2Proof/Machine/Descriptor.lean ====
section
/-!
DEFINITION. The operator descriptor (R175, R176), the operand groups of a tile (R178, R179) and the rules that a
descriptor must meet (R177).
-/
namespace Sys2Proof.Machine

structure Desc where
  opcode : Nat
  outFmt : Nat
  fmtA : Nat
  fmtB : Nat
  fmtC : Nat
  rmode : Nat
  sat : Bool
  attr : Nat
  role : Nat
  preds : Nat
  rank : Nat
  chips : Nat
  /-- tile and view extents, innermost first -/
  t : List Nat
  l : List Nat
  k : Nat
  groups : Nat
  kh : Nat
  kw : Nat
  sh : Nat
  sw : Nat
  dh : Nat
  dw : Nat
  pt : Nat
  pb : Nat
  pl : Nat
  pr : Nat
  aux : Nat
  outBytes : Nat
  deriving DecidableEq, Repr

def parseDesc (d : BitVec 512) : Desc :=
  let f := fld d
  { opcode := f 511 506, outFmt := f 505 501, fmtA := f 500 496, fmtB := f 495 491, fmtC := f 490 486,
    rmode := f 485 484, sat := bit d 483, attr := f 482 479, role := f 478 477, preds := f 476 474, rank := f 473 468,
    chips := f 467 461, t := [f 455 432, f 431 408, f 407 392, f 391 376],
    l := [f 375 352, f 351 328, f 327 312, f 311 296], k := f 295 264, groups := f 263 248, kh := f 247 244,
    kw := f 243 240, sh := f 239 236, sw := f 235 232, dh := f 231 228, dw := f 227 224, pt := f 223 220,
    pb := f 219 216, pl := f 215 212, pr := f 211 208, aux := f 207 192, outBytes := f 191 160 }

def roleFULL := 0
def rolePART := 1
def roleFINAL := 2

def descBytes (d : BitVec 512) : Bytes := leBytes 64 d.toNat

def descCrcOk (d : BitVec 512) : Bool :=
  fld d 31 0 = (crc32c (List.replicate 4 0 ++ (descBytes d).drop 4)).toNat

def ceilDiv (a b : Nat) : Nat := (a + b - 1) / max b 1

/-! ### Operator groups -/

def opGemm (op : Nat) : Bool := op ≤ 6
def opConv (op : Nat) : Bool := 3 ≤ op && op ≤ 6
def opPool (op : Nat) : Bool := op = 0x0D || op = 0x1D
def opSampling (op : Nat) : Bool := op = 0x23 || op = 0x25
/-- Operators over rows of K elements. -/
def opRows (op : Nat) : Bool := [0x07, 0x08, 0x0E, 0x0F, 0x10, 0x11, 0x1E, 0x1F].contains op || opSampling op
/-- Operators whose whole row lies in a tile (rule 6 of R177). -/
def opWholeRow (op : Nat) : Bool := [0x0E, 0x0F, 0x10, 0x11, 0x1E, 0x1F].contains op
def opCollective (op : Nat) : Bool := [0x0A, 0x0B, 0x21, 0x22].contains op
def opScatter (op : Nat) : Bool := op = 0x09 || op = 0x24
/-- Row operators whose output has one element for each row of K inputs. -/
def opPerRow (op : Nat) : Bool := op = 0x07 || op = 0x08 || op = 0x1E || opSampling op
def opClassV (op : Nat) : Bool := op = 0x24 || op = 0x25 || 0x38 ≤ op

/-- Operators of class R. -/
def opClassR (op : Nat) : Bool := 0x21 ≤ op && op ≤ 0x23
def opReserved (op : Nat) : Bool := 0x2C ≤ op && op ≤ 0x37

/-- Operators that have an operand B, by R179 (for the data-movement codes, none). -/
def opHasB (op : Nat) : Bool :=
  opGemm op || op = 0x10 || op = 0x11 || op = 0x0C || opScatter op || op = 0x12 ||
    [0x13, 0x14, 0x15, 0x16, 0x17, 0x18, 0x19, 0x20].contains op

/-- Operators whose B holds segment numbers. -/
def opIndexB (op : Nat) : Bool := op = 0x0C

/-- A product is formed of A, and of B (R35). -/
def opProdA (op : Nat) : Bool := opGemm op || [0x10, 0x11, 0x12, 0x15, 0x16].contains op
def opProdB (op : Nat) : Bool := opGemm op || [0x10, 0x11, 0x12, 0x15, 0x16].contains op

/-- Operand A that R35 bars from INT32: LAYER_NORM's x is no operand of a product. -/
def opBarA (op : Nat) : Bool := opProdA op && op ≠ 0x10

/-- The operator takes operand C in this descriptor. -/
def descHasC (d : Desc) : Bool :=
  if opGemm d.opcode then 2 ≤ d.opcode && d.attr % 2 = 1
  else [0x10, 0x16, 0x20, 0x12].contains d.opcode || opScatter d.opcode

/-- C holds target indices. -/
def opIndexC (op : Nat) : Bool := opScatter op

/-! ### Tiles (R176) -/

def lExt (d : Desc) (i : Nat) : Nat := d.l.getD i 1
def tExt (d : Desc) (i : Nat) : Nat := max (d.t.getD i 1) 1
def gridOf (d : Desc) (i : Nat) : Nat := ceilDiv (lExt d i) (tExt d i)
def gridTiles (d : Desc) : Nat := gridOf d 0 * gridOf d 1 * gridOf d 2 * gridOf d 3

/-- Grid coordinate of a tile along a dimension. -/
def tileCoord (d : Desc) (tile i : Nat) : Nat :=
  tile / ((List.range i).map (gridOf d)).prod % max (gridOf d i) 1

def tileOrigin (d : Desc) (tile i : Nat) : Nat := tileCoord d tile i * tExt d i

/-- Extent of a tile along a dimension; an edge tile holds only what lies inside the view. -/
def tileExt (d : Desc) (tile i : Nat) : Nat := min (tExt d i) (lExt d i - tileOrigin d tile i)

def tileElems (d : Desc) (tile : Nat) : Nat := ((List.range 4).map (tileExt d tile)).prod

/-- Coordinates along L0 to L3, in the view, of element `e` of a tile in row-major order. -/
def elemCoord (d : Desc) (tile e : Nat) : List Nat :=
  let x (i : Nat) : Nat := max (tileExt d tile i) 1
  [tileOrigin d tile 0 + e % x 0, tileOrigin d tile 1 + e / x 0 % x 1,
   tileOrigin d tile 2 + e / (x 0 * x 1) % x 2, tileOrigin d tile 3 + e / (x 0 * x 1 * x 2)]

/-- Element index of R58. -/
def elemIndex (d : Desc) (tile e : Nat) : Nat :=
  let c := elemCoord d tile e
  ((c.getD 3 0 * lExt d 2 + c.getD 2 0) * lExt d 1 + c.getD 1 0) * lExt d 0 + c.getD 0 0

/-- Tile and tile-local number of an element index. -/
def locateElem (d : Desc) (idx : Nat) : Nat × Nat :=
  let c : List Nat := [idx % max (lExt d 0) 1, idx / max (lExt d 0) 1 % max (lExt d 1) 1,
    idx / max (lExt d 0 * lExt d 1) 1 % max (lExt d 2) 1, idx / max (lExt d 0 * lExt d 1 * lExt d 2) 1]
  let g (i : Nat) : Nat := c.getD i 0 / tExt d i
  let tile := ((g 3 * gridOf d 2 + g 2) * gridOf d 1 + g 1) * gridOf d 0 + g 0
  let r (i : Nat) : Nat := c.getD i 0 % tExt d i
  (tile, ((r 3 * tileExt d tile 2 + r 2) * tileExt d tile 1 + r 1) * tileExt d tile 0 + r 0)

/-! ### Input boxes of convolutions and pooling (log entry 14) -/

/-- Smallest input extent that gives an output extent. -/
def inExtent (d : Desc) (vert : Bool) : Nat :=
  let (o, s, dil, kn, p) := if vert then (lExt d 2, d.sh, d.dh, d.kh, d.pt + d.pb)
                            else (lExt d 1, d.sw, d.dw, d.kw, d.pl + d.pr)
  if d.opcode = 6 then (o + p - (dil * (kn - 1) + 1)) / max s 1 + 1
  else (o - 1) * s + dil * (kn - 1) + 1 - p

/-- Input position that output `o` reads through kernel tap `i`; none: padding, or no input lands there. -/
def tapPos (d : Desc) (vert : Bool) (o i : Nat) : Option Nat :=
  let (s, dil, p) := if vert then (d.sh, d.dh, d.pt) else (d.sw, d.dw, d.pl)
  let n := inExtent d vert
  if d.opcode = 6 then
    -- o = x * s - p + i * dil
    let v := o + p
    if v < i * dil ∨ (v - i * dil) % max s 1 ≠ 0 then none
    else let x := (v - i * dil) / max s 1
      if x < n then some x else none
  else
    let v := o * s + i * dil
    if v < p then none else if v - p < n then some (v - p) else none

/-- Input positions that a run of outputs reads: the first, and how many the smallest interval holds. -/
def readSpan (d : Desc) (vert : Bool) (o n : Nat) : Nat × Nat :=
  let taps := if vert then d.kh else d.kw
  let ps := (range' o n).flatMap fun x => (List.range taps).filterMap fun i => tapPos d vert x i
  match ps with
  | [] => (0, 0)
  | p :: r => let lo := r.foldl min p
    (lo, r.foldl max p + 1 - lo)

def opTaps (d : Desc) : Nat := max (d.kh * d.kw) 1

/-- Input channels of one output channel; pooling reads its own channel. -/
def chanPer (d : Desc) : Nat := if opPool d.opcode then 1 else d.k / opTaps d

/-- First input channel that output channel `o` reads. -/
def chanBase (d : Desc) (o : Nat) : Nat :=
  if opPool d.opcode then o else o / max (lExt d 0 / max d.groups 1) 1 * chanPer d

/-- First input channel that a tile's output channels read, and how many. -/
def chanSpan (d : Desc) (tile : Nat) : Nat × Nat :=
  let o := tileOrigin d tile 0
  let n := tileExt d tile 0
  if n = 0 then (0, 0) else (chanBase d o, chanBase d (o + n - 1) + chanPer d - chanBase d o)

/-! ### Packed operands (R178) -/

/-- Value of packed element `i` of `n`; `blk` is the index of its scale block. -/
def packedElem (b : Bytes) (fmt n i blk : Nat) : Val :=
  let w := (fmtF fmt).bits
  let v := decodeElem (fmtF fmt) (bitsAt b (i * w) w)
  if fmtMx fmt then scaleElem (leAt b (((w * n + 7) / 8 + 7) / 8 * 8 + blk) 1) v else v

/-- Stored bits of packed element `i`, with its scale in [15:8] for MX (R57). -/
def packedBits (b : Bytes) (fmt n i blk : Nat) : Nat :=
  let w := (fmtF fmt).bits
  let v := bitsAt b (i * w) w
  if fmtMx fmt then mxBits (leAt b (((w * n + 7) / 8 + 7) / 8 * 8 + blk) 1) v else canonical (fmtF fmt) v

/-- Blocks of a row of `n` elements whose first has column `c0` of its tensor (R39). -/
def rowBlocks (c0 n : Nat) : Nat := if n = 0 then 0 else (c0 + n - 1) / 32 - c0 / 32 + 1

/-- Block of column `c` of row `r`. -/
def rowBlock (c0 n r c : Nat) : Nat := r * rowBlocks c0 n + ((c0 + c) / 32 - c0 / 32)

/-- Element `c` of row `r`. -/
def rowsElem (b : Bytes) (fmt r n c0 row col : Nat) : Val := packedElem b fmt (r * n) (row * n + col) (rowBlock c0 n row col)

/-- Rows and columns of the tile itself. -/
def tileRows (d : Desc) (tile : Nat) : Nat := tileExt d tile 1 * tileExt d tile 2 * tileExt d tile 3

/-- Rows of K elements that a tile of a row operator reads. -/
def inRows (d : Desc) (tile : Nat) : Nat := if opPerRow d.opcode then tileElems d tile else tileRows d tile

/-- Batches of a GEMM tile and rows of each. -/
def gemmBatch (d : Desc) (tile : Nat) : Nat := tileExt d tile 3
def gemmRows (d : Desc) (tile : Nat) : Nat := tileExt d tile 1 * tileExt d tile 2

/-- How an operand of a tile is packed: bytes before its elements, bits of an element, elements, and scale blocks when
its format has MX. -/
structure Shape where
  head : Nat
  bits : Nat
  n : Nat
  blocks : Option Nat
  deriving DecidableEq, Repr

def packedShape (fmt n blocks : Nat) : Shape :=
  { head := 0, bits := (fmtF fmt).bits, n := n, blocks := if fmtMx fmt then some blocks else none }

def rowsShape (fmt r n c0 : Nat) : Shape := packedShape fmt (r * n) (r * rowBlocks c0 n)

def Shape.bytes (x : Shape) : Nat :=
  let b := (x.bits * x.n + 7) / 8
  x.head + match x.blocks with
    | some k => (b + 7) / 8 * 8 + k
    | none => b

/-- Operands A, B and C of a tile (R179). -/
def shapeA (d : Desc) (tile : Nat) : Shape :=
  let c0 := tileOrigin d tile 0
  if opConv d.opcode ∨ opPool d.opcode then
    let y := (readSpan d true (tileOrigin d tile 2) (tileExt d tile 2)).2
    let x := (readSpan d false (tileOrigin d tile 1) (tileExt d tile 1)).2
    let (b, n) := chanSpan d tile
    rowsShape d.fmtA (tileExt d tile 3 * y * x) n b
  else if opGemm d.opcode then rowsShape d.fmtA (gemmBatch d tile * gemmRows d tile) d.k 0
  else if opRows d.opcode then rowsShape d.fmtA (inRows d tile) d.k 0
  else if d.opcode = 0x0C then rowsShape d.fmtA d.k (tileExt d tile 0) c0
  else if opCollective d.opcode then
    packedShape d.fmtA (tileElems d tile * d.k) (tileRows d tile * rowBlocks c0 (tileExt d tile 0) * d.k)
  else if d.opcode = 0x20 then { head := 0, bits := 8, n := tileElems d tile, blocks := none }
  else rowsShape d.fmtA (tileRows d tile) (tileExt d tile 0) c0

/-- `c` is the count of a SCATTER_ADD. -/
def shapeB (d : Desc) (tile c : Nat) : Shape :=
  let c0 := tileOrigin d tile 0
  if opConv d.opcode then packedShape d.fmtB (d.k * tileExt d tile 0) (ceilDiv d.k 32 * tileExt d tile 0)
  else if opGemm d.opcode then
    let n := d.k * tileExt d tile 0
    packedShape d.fmtB (gemmBatch d tile * n) (gemmBatch d tile * (ceilDiv d.k 32 * tileExt d tile 0))
  else if d.opcode = 0x10 ∨ d.opcode = 0x11 then rowsShape d.fmtB 1 d.k 0
  else if d.opcode = 0x0C then { head := 0, bits := 32, n := d.k, blocks := none }
  else if opScatter d.opcode then { rowsShape d.fmtB 1 c 0 with head := 8 }
  else if d.opcode = 0x12 then rowsShape d.fmtB 1 (tileExt d tile 0) c0
  else rowsShape d.fmtB (tileRows d tile) (tileExt d tile 0) c0

def shapeC (d : Desc) (tile c : Nat) : Shape :=
  let c0 := tileOrigin d tile 0
  if opGemm d.opcode ∨ d.opcode = 0x12 then rowsShape d.fmtC 1 (tileExt d tile 0) c0
  else if d.opcode = 0x10 then rowsShape d.fmtC 1 d.k 0
  else if opScatter d.opcode then { head := 0, bits := 32, n := c, blocks := none }
  else rowsShape d.fmtC (tileRows d tile) (tileExt d tile 0) c0

/-- Operands of a tile in the order of R179. -/
def operandShapes (d : Desc) (tile c : Nat) : List Shape :=
  [shapeA d tile] ++ (if opHasB d.opcode then [shapeB d tile c] else []) ++ (if descHasC d then [shapeC d tile c] else [])

/-- Expected bytes of the input groups of a SHADOW task, in order (R179, R180). -/
def groupSizes (d : Desc) (tile c : Nat) : List Nat :=
  if d.role = roleFINAL then [88 * tileElems d tile, d.outBytes]
  else
    (operandShapes d tile c).map Shape.bytes ++ (if d.role = rolePART then [] else [d.outBytes])

/-- Largest group bytes over the tiles that can be largest: the first three and the last of each dimension. -/
def sampleTiles (d : Desc) : List Nat :=
  let g (i : Nat) : List Nat := dedup ((List.range (min 3 (gridOf d i))) ++ [gridOf d i - 1])
  (g 3).flatMap fun a => (g 2).flatMap fun b => (g 1).flatMap fun c => (g 0).map fun e =>
    ((a * gridOf d 2 + b) * gridOf d 1 + c) * gridOf d 0 + e

def largestSizes (d : Desc) : List Nat :=
  (sampleTiles d).foldl (fun m t => (groupSizes d t 0).zipIdx.map fun (n, i) => max n (m.getD i 0)) []

/-! ### Formats of an operator (R33, R35, R69, R177 rule 4) -/

def fmtInt (f : Nat) : Bool := 8 ≤ fmtCode f

def isInt32 (f : Nat) : Bool := fmtCode f = 0xA

/-- Formats of a layer entry or descriptor are legal for its operator. -/
def fmtsOk (op out a b rmode : Nat) (hasB : Bool) : Bool :=
  fmtValid out && fmtValid a && (!hasB || fmtValid b) && rmode ≠ 3 &&
    !(opBarA op && isInt32 a) && !(hasB && opProdB op && isInt32 b) && !(op = 0x1C && (fmtInt out || fmtInt a))

/-! ### Rules of R177 for one descriptor -/

def attrOk (d : Desc) : Bool :=
  if d.opcode = 0x1C then d.attr ≤ 0xD
  else if (2 ≤ d.opcode && d.opcode ≤ 6) then d.attr ≤ 1 && (d.opcode ≠ 2 || d.role ≠ roleFULL || d.attr = 1)
  else if d.opcode = 0x1A || d.opcode = 0x0D then d.attr ≤ 1
  else d.attr = 0

/-- Rule 1: CRC, reserved fields and ranges. -/
def descRangesOk (raw : BitVec 512) (d : Desc) : Bool :=
  let kernel := opConv d.opcode || opPool d.opcode
  descCrcOk raw && fld raw 460 456 = 0 && fld raw 159 32 = 0 && d.role ≤ 2 &&
    (if d.role = roleFINAL then 1 ≤ d.preds else d.preds = 0) && 1 ≤ d.chips && d.chips ≤ 64 &&
    d.t.all (1 ≤ ·) && d.l.all (1 ≤ ·) && attrOk d && 1 ≤ d.groups && 1 ≤ d.kh && 1 ≤ d.kw && 1 ≤ d.sh && 1 ≤ d.sw &&
    1 ≤ d.dh && 1 ≤ d.dw &&
    (kernel || (d.groups = 1 && d.kh = 1 && d.kw = 1 && d.sh = 1 && d.sw = 1 && d.dh = 1 && d.dw = 1 && d.pt = 0 &&
      d.pb = 0 && d.pl = 0 && d.pr = 0)) &&
    (d.opcode = 0x1F || d.opcode = 0x0C || d.aux = 0) && (opHasB d.opcode || d.fmtB = 0) && ((descHasC d && d.role ≠ roleFINAL) || d.fmtC = 0) &&
    (!opCollective d.opcode || d.k = d.chips)

/-- Rule 3: agreement with the layer entry. -/
def descAgrees (d : Desc) (l : LayerE) : Bool :=
  d.opcode = l.opcode && d.outFmt = l.outFmt && d.fmtA = l.inA && d.fmtB = l.inB && d.rmode = l.rmode

/-- Rule 4. -/
def descFmtsOk (d : Desc) : Bool :=
  fmtsOk d.opcode d.outFmt d.fmtA d.fmtB d.rmode (opHasB d.opcode) && (!descHasC d || fmtValid d.fmtC) &&
    (!opIndexB d.opcode || d.fmtB = 0xA) && (!opIndexC d.opcode || d.fmtC = 0xA) &&
    !(d.opcode = 0x20 && d.fmtA ≠ 8) && !(d.opcode = 0x12 && isInt32 d.fmtB)

/-- A tile inner extent keeps MX output blocks whole (R76). -/
def mxWhole (ext inner : Nat) : Bool := ext % 32 = 0 || inner ≤ ext

/-- Rule 5. -/
def descFits (d : Desc) (l : LayerE) : Bool :=
  let bias := opGemm d.opcode && descHasC d
  let inner := fmtMx d.outFmt || d.opcode = 0x12 ||
    (!opGemm d.opcode && (fmtMx d.fmtA || (opHasB d.opcode && fmtMx d.fmtB))) || (descHasC d && fmtMx d.fmtC)
  gridTiles d = l.tiles && d.l.prod = l.elements && d.k + bias.toNat ≤ l.maxTerms &&
    (!fmtMx d.outFmt || mxWhole (tExt d 0) (lExt d 0)) && (!inner || lExt d 0 = l.inner)

/-- Rule 6. -/
def descWholeRow (d : Desc) : Bool := !opWholeRow d.opcode || tExt d 0 = lExt d 0

end Sys2Proof.Machine
end

