-- ==== Sys2Proof/Machine/Intake.lean ====
section
/-!
DEFINITION. Disputes that wait for the Verdict Unit (R232, R233), the marking of a step by a residue
message (R107, R300), the Intake Ring (R295 to R300) and the local collectors (R301, R522).
-/
namespace Sys2Proof.Machine

/-! ### Disputes -/

def dTWINDIGEST := 0
def dTWINCOVER := 1
def dPERIM := 2
def dSHADOW := 3
def dXTEST := 4
def dRESIDUE := 5
def dMEMUE := 6
def dTIMEOUT := 7
def dCHECKER := 8
def dNOCHECKER := 9
def dREROUTE := 10
def dPEER := 11

/-- Task index of a dispute about a whole step. -/
def noTask := 0x7FFF

def sameDispute (a b : Dispute) : Bool := a.ctx = b.ctx && a.epoch = b.epoch && a.step = b.step && a.task = b.task

/-- A dispute of a step waits or runs (R233). -/
def stepDisputed (s : State) (c : Nat) (e : Bool) (n : Nat) : Bool :=
  let hit (d : Dispute) : Bool := d.ctx = c && d.epoch = e && d.step = n
  (s.vu.waiting ++ s.vu.xwaits).any hit || s.vu.procs.any fun p => hit p.d

/-- Open a dispute: it joins one of the same task instance, else it waits in arrival order (R233). -/
def openDispute (d : Dispute) (s : State) : State :=
  if s.vu.waiting.any (sameDispute d) ∨ s.vu.procs.any (fun p => sameDispute d p.d) then s else
  (bumpCtx 512 49 d.ctx 1 s).mVu fun v => { v with waiting := v.waiting ++ [d] }

def Dispute.mk' (c : Nat) (e : Bool) (attempt step task cause : Nat) : Dispute :=
  { ctx := c, epoch := e, attempt := attempt, step := step, task := task, cause := cause, outcome := 0, party := 0,
    elem := 0, checkerRounds := 0, outs := [], laneHash := 0 }

/-- Mark an unreleased step of a live epoch (R107); it goes to the verdict procedure. -/
def markStep (c : Nat) (e : Bool) (n : Nat) (by_ : Huid) (s : State) : State :=
  match planOfEpoch s c e with
  | none => s
  | some (_, p) =>
    let b := baseOf s c e
    if n < b ∨ b + p.hdr.holdWindow ≤ n then s else
    let s := s.mStep c e n fun x => { x with marked := true, markedBy := if x.marked then x.markedBy else by_ }
    openDispute { Dispute.mk' c e (attemptOf s c e n) n noTask dRESIDUE with party := by_.toNat } s

/-- A coded error message of a residue kind marks a step in both live epochs (R107). -/
def residueMark (m : W128) (s : State) : State :=
  if 0x20 ≤ msgKind m ∧ msgKind m ≤ 0x24 then
    match msgCtx m with
    | none => s
    | some c =>
      let low := msgAddr m / 2 ^ 32 % 2 ^ 16
      let one (e : Bool) (s : State) : State := markStep c e (stepLow16 (baseOf s c e) low) (msgHuid m) s
      one true (one false s)
  else s

/-! ### Intake Ring -/

def rtEVENT := 1
def rtMESH := 2
def rtINTERNAL := 3
def rtPAD := 15

/-- Header of a ring record of `units` 16-byte units (R295). -/
def ringHeader (type units port count merge : Nat) (injected overflow : Bool) (time : Nat) : W128 :=
  word128 [put 127 124 type, put 123 120 (units - 1), put 119 119 injected.toNat, put 118 115 port, put 114 107 count,
    put 106 99 merge, put 98 98 overflow.toNat, put 63 0 time]

def RingRec.type (r : RingRec) : Nat := fld r.header 127 124
def RingRec.units (r : RingRec) : Nat := fld r.header 123 120 + 1
def RingRec.merge (r : RingRec) : Nat := fld r.header 106 99
def RingRec.time (r : RingRec) : Nat := fld r.header 63 0

/-- Units in use, free units, and the tail (R296). -/
def ringUsed (f : Fc) : Nat := (f.wr.toNat + 8192 - f.rd.toNat) % 8192
def ringFree (f : Fc) : Nat := 4096 - ringUsed f
def ringTail (f : Fc) : Nat := 4096 - f.wr.toNat % 4096

def padRec (units : Nat) : RingRec :=
  { header := ringHeader rtPAD units 0 0 0 false false 0, msgs := [], loci := [], cont := false }

/-- `place` of R297: none is WAIT, and nothing is written. -/
def ringPlace (r : RingRec) (rx : Nat) (f : Fc) : Option Fc :=
  let l := r.units
  if l ≤ ringTail f then
    if l + rx ≤ ringFree f then some { f with ring := f.ring ++ [r], wr := f.wr + BitVec.ofNat 13 l } else none
  else if ringTail f + l + rx ≤ ringFree f then
    some { f with ring := f.ring ++ [padRec (ringTail f)] ++ [r], wr := f.wr + BitVec.ofNat 13 (ringTail f + l) }
  else none

/-- Place a record; on success it is counted and its residue messages go to the Ledger (R300). -/
def placeRec (r : RingRec) (rx : Nat) (s : State) : Option State :=
  (ringPlace r rx s.fc).map fun f =>
    let pad := decide (ringTail s.fc < r.units)
    let s := { s with fc := f }
    let s := bump (639 + r.type) 1 (if pad then bump 643 1 s else s)
    r.msgs.foldl (fun s m => residueMark m s) s

/-- RESERVE of the Event port and MESH records (R297). -/
def ringReserve (s : State) : Nat := fld s.expert.inConfig 19 8

/-- Time a writer waited (R315). -/
def waited (r : RingRec) (s : State) : State := bump 644 (s.now.toNat - r.time) s

/-! ### Reports -/

/-- The INTERNAL records of one report: at most 15 messages each (R522). -/
def internalRecs (s : State) (cont : Bool) : Nat → List (W128 × W128) → List RingRec
  | 0, _ => []
  | n + 1, ms =>
    if ms.isEmpty then [] else
    let a := ms.take 15
    { header := ringHeader rtINTERNAL (a.length + 1) 0 a.length 0 false false s.now.toNat,
      msgs := a.map (·.1), loci := a.map (·.2), cont := cont } :: internalRecs s true n (ms.drop 15)

/-- Merge a later report into the latched one (R301). -/
def mergeInto (kind : Nat) (loc : W128) (r : RingRec) : RingRec :=
  let differs := decide (msgKind (r.msgs.headD 0) ≠ kind) || decide (r.loci.headD 0 ≠ loc)
  let ovf := bit r.header 98 || differs
  let n := fld r.header 114 107
  { r with header := ringHeader rtINTERNAL r.units 0 n (min 255 (r.merge + 1)) false ovf r.time }

/-- Place records in turn; what finds no room is held. -/
def placeRun (rx : Nat) : List RingRec → State → List RingRec × State
  | [], s => ([], s)
  | r :: rest, s =>
    match placeRec r rx s with
    | some s' => placeRun rx rest s'
    | none => (r :: rest, s)

def State.mCollector (u : Nat) (rs : List RingRec) (s : State) : State :=
  s.mFc fun f => { f with collectors := if rs.isEmpty then Tab.del f.collectors u else Tab.set f.collectors u rs }

/-- A unit raises one report: its messages with the Locus that each names, first to last (R301, R486, R522). -/
def raise (u : Nat) (ms : List (W128 × W128)) (s : State) : State :=
  match ms with
  | [] => s
  | (m, loc) :: _ =>
    let s := ringPush u false (msgKind m) (msgClass m) (msgCtx m) (msgAddr m) s
    if u = uIN ∨ u = uFC then
      let (rest, s) := placeRun 0 (s.fc.ownWait ++ internalRecs s false (ms.length + 1) ms) s
      s.mFc fun f => { f with ownWait := rest }
    else
      match Tab.get s.fc.collectors u with
      | some held => s.mCollector u (held.map (mergeInto (msgKind m) loc))
      | none =>
        let (rest, s) := placeRun 0 (internalRecs s false (ms.length + 1) ms) s
        s.mCollector u rest

/-- A report that names one unit of this die with its Locus. -/
def report (u kind addr : Nat) (ctx : Option Nat) (h : Huid) (loc : W128) (s : State) : State :=
  raise u [(message s kind addr ctx h, loc)] s

/-- A report that names the reporting unit itself. -/
def reportSelf (u inst kind addr : Nat) (ctx : Option Nat) (s : State) : State :=
  report u kind addr ctx (unitHuid u inst) (coreLocus s (unitHuid u inst)) s

/-- A report that names one physical core, router, channel, link or port. -/
def reportUnit (u kind addr : Nat) (ctx : Option Nat) (h : Huid) (s : State) : State :=
  report u kind addr ctx h (coreLocus s h) s

/-- A report that carries the Locus of several cores, given by label (R522). -/
def reportCores (u kind addr : Nat) (ctx : Option Nat) (labels : List Huid) (s : State) : State :=
  match sortBy BitVec.toNat (dedup labels) with
  | [] => reportSelf u 0 kind addr ctx s
  | l => raise u (l.map fun x => (message s kind addr ctx (physOf s x), coreLocus s (physOf s x))) s

/-! ### External messages -/

/-- KINDs that the manual defines. -/
def definedKind (k : Nat) : Bool :=
  [(0x01, 0x06), (0x20, 0x24), (0x30, 0x36), (0x40, 0x45), (0x48, 0x4C), (0x50, 0x54), (0x58, 0x5E), (0x60, 0x66),
   (0x68, 0x6E), (0x70, 0x71), (0x80, 0x85), (0x88, 0x9D), (0xA0, 0xAA), (0xB0, 0xB7)].any
    fun (a, b) => a ≤ k && k ≤ b

/-- KINDs that a host source may send of those (R293). -/
def hostKind (k : Nat) : Bool := [(0x01, 0x06), (0x20, 0x24), (0x68, 0x6B)].any fun (a, b) => a ≤ k && k ≤ b

/-- R293: own die, not class SILORN, and a KIND that a host source may send. -/
def acceptable (s : State) (m : W128) : Bool :=
  msgDie m = dieNat s && huidClass (msgHuid m) ≠ 15 && (hostKind (msgKind m) || !definedKind (msgKind m))

/-- A message was discarded under R293, R504 or R511: counted, and reported for instance `inst` of Intake. -/
def badMsg (inst : Nat) (s : State) : State :=
  reportSelf uIN inst 0x70 0 none (bump 645 1 s)

/-- Duplicate removal and gap count of one source (R294); none: a duplicate. -/
def filterSeq (m : W128) (s : State) : Option State :=
  let k := (msgHuid m).toNat
  let now := s.now.toNat
  let win := fld s.expert.inConfig 7 0 * 1000
  let keep (s : State) : State := s.mFc fun f => { f with seqs := Tab.set f.seqs k (msgSeq m, msgKind m, now) }
  match Tab.get s.fc.seqs k with
  | none => some (keep s)
  | some (q, kind, t) =>
    if q = msgSeq m ∧ kind = msgKind m ∧ win ≠ 0 ∧ now - t ≤ win then none
    else some (keep (if 1 < (msgSeq m + 256 - q) % 256 then bump 647 1 s else s))

/-- Validation of one message at arrival: whether it goes on to the ring, and the state after. -/
def validate (inst : Nat) (m : W128) (s : State) : Bool × State :=
  if !acceptable s m then (false, badMsg inst s) else
  match filterSeq m s with
  | none => (false, bump 646 1 s)
  | some s' => (true, s')

/-- Locus that a host message names: its unit on this die (R303). -/
def hostLocus (s : State) (m : W128) : W128 := coreLocus s (msgHuid m)

end Sys2Proof.Machine
end

