-- ==== Sys2Proof/Machine/Stud.lean ====
section
/-!
DEFINITION. The Stud Book (R423 to R425): appending a record, the windows and the deferral of R383 and
R449, and compaction. Bodies whose layout the manual does not give are laid out as log entry 12 says.
-/
namespace Sys2Proof.Machine

def sbIDENTITY := 0x01
def sbBOOT := 0x02
def sbDEFECT := 0x03
def sbREPAIR := 0x04
def sbFUSED := 0x05
def sbPADDOCK := 0x06
def sbREMAP := 0x07
def sbTEST := 0x08
def sbREPRO := 0x09
def sbEXPORT := 0x0A
def sbRETURN := 0x0B

/-- Fuse and flash writes may start: the windows held at the end of the last two slow rounds (R449). -/
def windowsHold (s : State) : Bool := s.ts.windowNow && s.ts.windowPrev

def activeHalf (s : State) : SbHalf := if s.nv.activeHalf then s.nv.half1 else s.nv.half0

/-- The records of the active half, oldest first, without torn ones (R425). -/
def sbRecords (s : State) : List SbRec := (activeHalf s).recs.filter fun r => !r.torn

/-- Bytes of a record: header, body, padding to 8 (R423). -/
def sbBytes (body : Bytes) : Nat := 16 + (body.length + 7) / 8 * 8

/-- Position after a list of records; after a torn record writing resumes at the next 4 KiB boundary (R425). -/
def sbEnd (recs : List SbRec) : Nat :=
  recs.foldl (fun pos r => let p := pos + sbBytes r.body
    if r.torn then (p + 4095) / 4096 * 4096 else p) 24

def halfSize (s : State) : Nat := s.cfg.sbSize / 2

/-- Parts of the latest complete identity (R423): a run of IDENTITY records with parts 1 to n. -/
def identityParts (recs : List SbRec) : List SbRec :=
  let ids := recs.filter fun r => r.type = sbIDENTITY
  let step (best : List SbRec × List SbRec) (r : SbRec) : List SbRec × List SbRec :=
    let part := leAt r.body 0 1
    let n := leAt r.body 1 1
    let cur := if part = 1 then [r] else if part = best.2.length + 1 then best.2 ++ [r] else []
    (if cur.length = n ∧ part = n then cur else best.1, cur)
  (ids.foldl step ([], [])).1

/-- Content of the latest complete identity. -/
def identityContent (recs : List SbRec) : Bytes := (identityParts recs).flatMap fun r => r.body.drop 2

/-- No later record of the list has the same type and key. -/
def latestBy (key : SbRec → Nat) : List SbRec → List SbRec
  | [] => []
  | r :: rest => if rest.any fun q => key q = key r then latestBy key rest else r :: latestBy key rest

/-- Key under which the latest record is kept: the core, or sector and label, or core and result. -/
def sbKey (r : SbRec) : Nat :=
  if r.type = sbPADDOCK then leAt r.body 0 2
  else if r.type = sbREMAP then leAt r.body 0 2
  else leAt r.body 0 3

def lastN {α : Type} (n : Nat) (l : List α) : List α := l.drop (l.length - n)

/-- Records that compaction keeps, in their order (R424). -/
def liveRecords (s : State) (recs : List SbRec) : List SbRec :=
  let ok := recs.filter fun r => !r.torn
  let of (t : Nat) : List SbRec := ok.filter fun r => r.type = t
  let keep := identityParts ok ++ lastN 16 (of sbBOOT) ++ of sbDEFECT ++ of sbREPAIR ++ of sbFUSED ++
    latestBy sbKey (of sbPADDOCK) ++ latestBy sbKey (of sbREMAP) ++ latestBy sbKey (of sbTEST) ++
    (of sbREPRO).filter (fun r => s.vu.patterns.any fun p => leBytes 64 p.body.toNat = r.body.take 64) ++
    (of sbEXPORT).filter (fun r => s.vu.exports.any fun p => leBytes 64 p.body.toNat = r.body.take 64) ++ of sbRETURN
  ok.filter fun r => keep.contains r

/-- Compact into the other half (R425). -/
def sbCompact (s : State) : State :=
  let h := activeHalf s
  let n : SbHalf := { gen := h.gen + 1, done := true, recs := liveRecords s h.recs }
  (bump 966 1 s).mNv fun v => if v.activeHalf then { v with half0 := n, activeHalf := false }
                           else { v with half1 := n, activeHalf := true }

/-- Append a record to the active half, compacting first when less than 64 KiB is free. A full half keeps the
record deferred. -/
def sbAppend (r : SbRec) (s : State) : State :=
  let s := if halfSize s < sbEnd (activeHalf s).recs + 65536 ∧ (liveRecords s (activeHalf s).recs).length <
    (activeHalf s).recs.length then sbCompact s else s
  if halfSize s < sbEnd (activeHalf s).recs + sbBytes r.body then
    s.mCfg fun c => { c with deferred := c.deferred ++ [r] }
  else
    bump 964 1 (s.mNv fun v =>
      if v.activeHalf then { v with half1 := { v.half1 with recs := v.half1.recs ++ [r] } }
      else { v with half0 := { v.half0 with recs := v.half0.recs ++ [r] } })

/-- Hold a record back: at most 64, and a full store drops its oldest test record (R383). -/
def sbDefer (r : SbRec) (s : State) : State :=
  let d := s.cfg.deferred
  if d.length < 64 then s.mCfg fun c => { c with deferred := d ++ [r] }
  else
    match d.findIdx? fun x => x.type = sbTEST with
    | some i => bump 910 1 (s.mCfg fun c => { c with deferred := d.eraseIdx i ++ [r] })
    | none =>
      if r.type = sbTEST then bump 910 1 s
      else s.mCfg fun c => { c with deferred := d ++ [r] }

/-- Write a record under the windows of R449. -/
def sbWrite (type : Nat) (body : Bytes) (s : State) : State :=
  let r : SbRec := { type := type, bootSeq := s.cfg.bootSeq, timeMs := BitVec.ofNat 32 (s.now.toNat / 10 ^ 6),
                     body := body, torn := false }
  if windowsHold s ∧ s.cfg.deferred.isEmpty then sbAppend r s else sbDefer r s

/-- Write what was deferred, when the windows hold again. -/
def sbFlush (s : State) : State :=
  if windowsHold s then s.cfg.deferred.foldl (fun s r => sbAppend r s) (s.mCfg fun c => { c with deferred := [] }) else s

def sbSoftRepair (array inst bank row spare origin : Nat) (s : State) : State :=
  sbWrite sbREPAIR (leBytes 8 (put 63 62 array + put 61 56 inst + put 55 52 bank + put 51 42 row + put 41 38 spare +
    put 37 36 origin)) s

def sbDefect (loc : W128) (kind source : Nat) (s : State) : State :=
  sbWrite sbDEFECT (leBytes 16 loc.toNat ++ leBytes 1 kind ++ leBytes 1 source) s

end Sys2Proof.Machine
end

