-- ==== Sys2Proof/Machine/Loft.lean ====
section
/-!
DEFINITION. The Loft (R201 to R208): addressing, tag words, the bank operations with their tag checks, ECC
(R212, R213) and row map-out (R214, R215). Cluster Memory and the operand buffers: addresses (R209, R211).
-/
namespace Sys2Proof.Machine

def loftSlots := 24576
def planStore := 22528

def slotAddr (slot : Nat) : Nat := slot * 2048
def shedOf (slot : Nat) : Nat := slot / 6144
/-- Bank port: shed * 16 + bank (R202, R212). -/
def bankOf (slot : Nat) : Nat := shedOf slot * 16 + slot % 16
def slotIndex (slot : Nat) : Nat := slot % 6144 / 16
/-- Row of a byte of a slot (R202). -/
def rowOf (slot byte : Nat) : Nat := 2 * slotIndex slot + byte / 1024

/-- Address of a byte of Cluster Memory, and of an operand buffer. -/
def cmAddr (cluster off : Nat) : Nat := cluster * 393216 + off
def laneShare (lane : Nat) : Nat := cmAddr (lane / 4) (lane % 4 * 65536)
def opbufAddr (lane buf : Nat) : Nat := lane * 32768 + buf * 16384

/-! ### Tags -/

def tagOf (s : State) (slot : Nat) : W64 := Tab.getD s.mem.tags slot 0

/-- Bits that an armed ECC injection flips, taken by the next write of its instance (R312): 1 is correctable,
2 is not. -/
def takeInjection (array target : Nat) (s : State) : Nat × State :=
  match s.mem.armed.find? fun x => x.1 = array && x.2.1 = target with
  | none => (0, s)
  | some x => (x.2.2, s.mMem fun m => { m with armed := m.armed.erase x })

/-- A write to an instance: an armed injection flips bits of the codeword at `place`. -/
def injectAt (array target place : Nat) (s : State) : State :=
  match takeInjection array target s with
  | (0, s) => s
  | (n, s) => s.mMem fun m => { m with flips := m.flips ++ [(array, place, n)] }

/-- Flipped codewords of an array within a range of places are sound again: rewritten or corrected. -/
def dropFlips (array lo n : Nat) (s : State) : State :=
  s.mMem fun m => { m with flips := m.flips.filter fun x => !(x.1 = array && lo ≤ x.2.1 && x.2.1 < lo + n) }

/-- Most bits flipped in a codeword of a range. -/
def flipsAt (s : State) (array lo n : Nat) : Nat :=
  ((s.mem.flips.filter fun x => x.1 = array && lo ≤ x.2.1 && x.2.1 < lo + n).map (·.2.2)).foldl max 0

/-- Every tag operation writes the whole tag word. -/
def setTag (slot : Nat) (w : W64) (s : State) : State :=
  injectAt 3 (bankOf slot) slot (dropFlips 3 slot 1 (s.mMem fun m =>
    { m with tags := if w = 0 then Tab.del m.tags slot else Tab.set m.tags slot w }))

def tagAlloc (w : W64) : Bool := bit w 63
def tagScrub (w : W64) : Bool := bit w 62
def tagBound (w : W64) : Bool := bit w 61
def tagFull (w : W64) : Bool := bit w 60

/-- Identity of an access: CTX, EPOCH, STEP, ATTEMPT (R206). -/
structure Ident where
  ctx : Nat
  epoch : Bool
  step : Nat
  attempt : Nat
  deriving DecidableEq, Repr

/-- BOUND, and the four carried fields equal the tag's (R206). -/
def tagMatch (w : W64) (i : Ident) : Bool :=
  tagBound w && fld w 56 45 = i.ctx && bit w 59 = i.epoch && fld w 31 0 = i.step % 2 ^ 32 && fld w 58 57 = i.attempt

def bankHuid (slot : Nat) : Huid := silornHuid 7 (bankOf slot)

/-- MEM_TAG names the bank (R206, R217). -/
def memTag (slot : Nat) (s : State) : State := reportUnit uMEM 0x5E 0 none (bankHuid slot) s

/-- ALLOC: accepted when ALLOC is clear. -/
def tagAllocOp (slot ctx plan : Nat) (epoch : Bool) (s : State) : State :=
  if s.mem.withheld.contains slot then s
  else if tagAlloc (tagOf s slot) then memTag slot s
  else setTag slot (word [put 63 63 1, put 59 59 epoch.toNat, put 56 45 ctx, put 44 39 plan]) s

/-- BIND: accepted when ALLOC is set and SCRUB and FULL are clear. -/
def tagBindOp (slot : Nat) (i : Ident) (s : State) : State :=
  let w := tagOf s slot
  if tagAlloc w && !tagScrub w && !tagFull w then
    setTag slot (word [put 63 63 1, put 61 61 1, put 59 59 i.epoch.toNat, put 58 57 i.attempt, put 56 45 (fld w 56 45),
      put 44 39 (fld w 44 39), put 31 0 i.step]) s
  else memTag slot s

/-- CLEAR: always; clears BOUND and FULL. -/
def tagClearOp (slot : Nat) (s : State) : State := setTag slot (setFld (tagOf s slot) 61 60 0) s

/-- SCRUB_SET: when ALLOC is set. -/
def tagScrubOp (slot : Nat) (s : State) : State :=
  let w := tagOf s slot
  if tagAlloc w then setTag slot (setFld w 62 62 1) s else s

/-- FREE: when SCRUB is set; clears the whole tag. -/
def tagFreeOp (slot : Nat) (s : State) : State := if tagScrub (tagOf s slot) then setTag slot 0 s else s

/-! ### Row map (R214, R215) -/

def mapsOfBank (s : State) (bank : Nat) : List RowMap := s.mem.rowMaps.filter fun m => m.array = 0 && m.inst = bank

/-- Physical row of a regular row of a Loft bank: its latest spare, or itself. -/
def physRow (s : State) (bank row : Nat) : Nat :=
  match (mapsOfBank s bank).reverse.find? fun m => m.row = row with
  | some m => 768 + m.spare
  | none => row

def freeSpare (s : State) (array inst bank count : Nat) : Option Nat :=
  (List.range count).find? fun k =>
    !s.mem.deadSpares.contains (array, inst, bank, k) &&
      !s.mem.rowMaps.any fun m => m.array = array && m.inst = inst && m.bank = bank && m.spare = k

/-- Flipped codewords of an array that no longer correct, within a range of places. -/
def lostAt (s : State) (array lo n : Nat) : List Nat :=
  (s.mem.flips.filter fun x => x.1 = array && lo ≤ x.2.1 && x.2.1 < lo + n && decide (2 ≤ x.2.2)).map (·.2.1)

/-- Map a row out: it is copied to the spare, and its words that are uncorrectable are written there as zero. -/
def mapRow (bank row : Nat) (s : State) : State :=
  match freeSpare s 0 bank 0 16 with
  | none => (reportUnit uMEM 0x5A 0 none (silornHuid 7 bank) s).mMem fun m => { m with spareOut := true }
  | some k =>
    let slot := bank / 16 * 6144 + row / 2 * 16 + bank % 16
    let first := slot * 256 + row % 2 * 128
    let lost := lostAt s 0 first 128
    let s := dropFlips 0 first 128 s
    let s := s.mMem fun m =>
      { m with rowMaps := m.rowMaps ++ [{ array := 0, inst := bank, bank := 0, row := row, spare := k, origin := 1 }],
               loft := lost.foldl (fun l w => Mem.zero l (8 * w) 8) m.loft,
               ceLog := Tab.del m.ceLog (bank * 1024 + row),
               fieldMaps := m.fieldMaps + 1, lastMapInst := bank, lastMapRow := row }
    sbSoftRepair 0 bank 0 row k 1 (bump 354 1 s)

/-- Queue an engine operation on a shed port, which holds at most 8 (R216). -/
def engQueue (shed : Nat) (op : EngOp) (s : State) : State :=
  s.mMem fun m => { m with eng := m.eng.modify shed fun q => if q.length < 8 then q ++ [op] else q }

/-! ### ECC (R212, R213) -/

/-- `MEM.ECC_LAST` after an error. -/
def eccLast (ue : Bool) (array inst bank row bit_ : Nat) (s : State) : State :=
  s.mMem fun m => { m with eccLast := word [put 63 63 ue.toNat, put 62 61 array, put 60 55 inst, put 54 51 bank,
    put 50 41 row, put 40 34 bit_, 1], ueSeen := m.ueSeen || ue }

def eccReport (kind : Nat) (h : Huid) (ek ei eb : Nat) (s : State) : State :=
  report uMEM kind 0 none h (elemLocus s h ek ei eb) s

/-- A correctable error in a Loft data row: corrected, written back, counted and reported; too many within
CE_WINDOW map the row out. -/
def loftCe (slot byte bit_ : Nat) (s : State) : State :=
  let b := bankOf slot
  let row := physRow s b (rowOf slot byte)
  let k := b * 1024 + rowOf slot byte
  let s := eccReport 0x58 (bankHuid slot) 1 row bit_ (eccLast false 0 b (slot % 16) row bit_ (bump 352 1 s))
  let win := fld s.expert.memConfig 15 8 * 3600 * 10 ^ 9
  let now := s.now.toNat
  let log := ((Tab.getD s.mem.ceLog k []).filter fun t => now - t < win) ++ [now]
  let s := s.mMem fun m => { m with ceLog := Tab.set m.ceLog k log }
  if fld s.expert.memConfig 23 16 ≤ log.length then engQueue (shedOf slot) (.rowmap b (rowOf slot byte)) s else s

def tagCe (slot bit_ : Nat) (s : State) : State :=
  eccReport 0x58 (bankHuid slot) 2 (slotIndex slot) bit_
    (eccLast false 3 (bankOf slot) (slot % 16) (slotIndex slot) bit_ (bump 352 1 s))

/-- A step marked by an uncorrectable memory error goes to the verdict procedure with cause MEM_UE (R213, R232). -/
def markMemUe (i : Ident) (s : State) : State :=
  match planOfEpoch s i.ctx i.epoch with
  | none => s
  | some (_, p) =>
    withStep (fullStep (baseOf s i.ctx i.epoch) i.step) s fun n =>
      if n < baseOf s i.ctx i.epoch ∨ baseOf s i.ctx i.epoch + p.hdr.holdWindow ≤ n then s else
      openDispute (Dispute.mk' i.ctx i.epoch (attemptOf s i.ctx i.epoch n) n noTask dMEMUE)
        (s.mStep i.ctx i.epoch n fun x => { x with marked := true })

/-- An uncorrectable error in a Loft data row on a checked access: reported, the step marked, the row mapped out. -/
def loftUe (slot byte : Nat) (i : Ident) (s : State) : State :=
  let b := bankOf slot
  let row := physRow s b (rowOf slot byte)
  let s := eccReport 0x59 (bankHuid slot) 1 row 0 (eccLast true 0 b (slot % 16) row 0 (bump 353 1 s))
  engQueue (shedOf slot) (.rowmap b (rowOf slot byte)) (markMemUe i s)

/-- A codeword is uncorrectable until it is written again. -/
def loseWord (array place : Nat) (s : State) : State :=
  if (lostAt s array place 1).isEmpty then s.mMem fun m => { m with flips := m.flips ++ [(array, place, 2)] } else s

def tagUe (slot : Nat) (s : State) : State :=
  eccReport 0x59 (bankHuid slot) 2 (slotIndex slot) 0
    (eccLast true 3 (bankOf slot) (slot % 16) (slotIndex slot) 0 (bump 353 1 s))

/-! ### Bank operations -/

def bsOK := 0
def bsSTALE := 1
def bsREFUSED := 2
def bsERROR := 3
def bsUE := 4
def bsSCRUB := 5
def bsFULL := 6

def shedState (s : State) (n : Nat) : ShedSt := ((s.mem.sheds[n]?).map (·.st)).getD .off

/-- A request to a shed in DRAIN or OFF gets an error reply (R224). -/
def shedDown (s : State) (slot : Nat) : Bool := shedState s (shedOf slot) = .off || shedState s (shedOf slot) = .drain

/-- HUID of a requester port of the crossbar (R203): CAP, a cluster, a PER pipe, OB, the MEM engine. -/
def requesterHuid (port : Nat) : Huid :=
  if port < 16 then silornHuid 6 port
  else if port < 32 then silornHuid (9 + (port - 16) / 4) ((port - 16) * 4)
  else if port < 40 then silornHuid 8 (port - 32)
  else if port = 40 then silornHuid 3 0
  else silornHuid 7 (port - 41)

def lateWrite (port : Nat) (s : State) : State := reportUnit uMEM 0x5B 0 none (requesterHuid port) (bump 357 1 s)

/-- Tag check of WRITE, ADD64 and LPF_ADD (R206): the status, and the state after what a refusal counts. A Plan
Store page is checked under ALLOC alone. -/
def writeCheck (slot : Nat) (i : Ident) (tagBad : Bool) (s : State) : Nat × State :=
  let w := tagOf s slot
  if planStore ≤ slot then (if tagAlloc w then (bsOK, s) else (bsREFUSED, memTag slot s))
  else if tagBad then (bsSTALE, bumpCtx 355 47 i.ctx 1 (tagUe slot s))
  else if tagScrub w then (bsSCRUB, bumpCtx 356 48 i.ctx 1 s)
  else if !tagMatch w i then (bsSTALE, bumpCtx 355 47 i.ctx 1 s)
  else if tagFull w then (bsFULL, s)
  else (bsOK, s)

/-- Tag check of READ. -/
def readCheck (slot : Nat) (i : Ident) (tagBad : Bool) (s : State) : Nat × State :=
  let w := tagOf s slot
  if planStore ≤ slot then (if tagAlloc w then (bsOK, s) else (bsREFUSED, memTag slot s))
  else if tagBad then (bsSTALE, tagUe slot s)
  else if !tagMatch w i then (bsSTALE, s)
  else if tagFull w then (bsOK, s)
  else (bsREFUSED, memTag slot s)

def busAnswer (status : Nat) (data : Bytes) (s : State) : State :=
  s.mMem fun m => { m with busStatus := status, busData := data }

/-- ECC of a tag word that an access reads. A bit that an injection flipped is found now; two stay until the tag is
written again. -/
def tagEcc (slot : Nat) (e : EccSay) (s : State) : Bool × State :=
  match e with
  | .tagCorrected b => (false, tagCe slot b.toNat s)
  | .tagUncorrectable => (true, loseWord 3 slot s)
  | _ =>
    match flipsAt s 3 slot 1 with
    | 0 => (false, s)
    | 1 => (false, tagCe slot 0 (dropFlips 3 slot 1 s))
    | _ => (true, s)

/-- SET_FULL: accepted on a match; a tag word that is uncorrectable matches nothing (R206, R213). -/
def tagFullOp (slot : Nat) (i : Ident) (s : State) : State :=
  let (bad, s) := tagEcc slot .clean s
  let w := tagOf s slot
  if bad then memTag slot (tagUe slot s)
  else if tagMatch w i then setTag slot (setFld w 60 60 1) s else memTag slot s

/-- ECC of the `n` bytes of a data row that a performed access reads: whether a word is lost, and the state after. Which
word of the access an uncorrectable error lies in is a free value. -/
def dataEcc (slot byte n : Nat) (i : Ident) (e : EccSay) (s : State) : Bool × State :=
  let at_ := slot * 256 + byte / 8
  match e with
  | .corrected b => (false, loftCe slot byte b.toNat s)
  | .uncorrectable =>
    let (k, s) := s.draw
    (true, loftUe slot byte i (loseWord 0 (at_ + (Config.free k).toNat % ((n + 7) / 8)) s))
  | _ =>
    match flipsAt s 0 at_ ((n + 7) / 8) with
    | 0 => (false, s)
    | 1 => (false, loftCe slot byte 0 (dropFlips 0 at_ ((n + 7) / 8) s))
    | _ => (true, loftUe slot byte i s)

def Mem.readSlot (s : State) (slot off n : Nat) : Bytes := Mem.read s.mem.loft (slotAddr slot + off) n

/-- Write bytes: the words that they cover are sound again, and an armed injection of the bank takes the first. -/
def loftWrite (a : Nat) (b : Bytes) (s : State) : State :=
  injectAt 0 (bankOf (a / 2048)) (a / 8) (dropFlips 0 ((a + 7) / 8) ((a + b.length) / 8 - (a + 7) / 8)
    (s.mMem fun m => { m with loft := Mem.write m.loft a b }))

def identOf (a : Access) : Ident := { ctx := a.ctx.toNat, epoch := a.epoch, step := a.step.toNat, attempt := a.attempt.toNat }

/-- READ of one 64-byte line (R204, R206, R213, R224, R226). -/
def bankRead (slot line : Nat) (a : Access) (e : EccSay) (s : State) : State :=
  if shedDown s slot then busAnswer bsERROR [] (lateWrite a.port.toNat s)
  else if a.port = 40 ∧ slot < planStore then busAnswer bsOK (List.replicate 64 0) (bump 358 1 s)
  else
    let i := identOf a
    let (bad, s) := tagEcc slot e s
    let (st, s) := readCheck slot i bad s
    if st ≠ bsOK then busAnswer st [] s
    else
      let (lost, s) := dataEcc slot (line * 64) 64 i e s
      if lost then busAnswer bsUE [] s else busAnswer bsOK (Mem.readSlot s slot (line * 64) 64) s

/-- A checked operation that stores: the status is answered and `f` acts when the access is accepted. -/
def bankStore (slot byte n : Nat) (partly : Bool) (a : Access) (e : EccSay) (f : State → State) (s : State) : State :=
  if shedDown s slot then busAnswer bsERROR [] (lateWrite a.port.toNat s)
  else
    let i := identOf a
    let (bad, s) := tagEcc slot e s
    let (st, s) := writeCheck slot i bad s
    if st ≠ bsOK then busAnswer st [] s
    else
      let (lost, s) := if partly then dataEcc slot byte n i e s else (false, s)
      if lost then busAnswer bsUE [] s else busAnswer bsOK [] (f s)

/-- The bytes of a line under a byte mask. -/
def maskBytes (mask : W64) (old new : Bytes) : Bytes :=
  (List.range 64).map fun i => if bit mask i then new.getD i 0 else old.getD i 0

/-- A word of the line is written in part (R204). -/
def partialMask (mask : W64) : Bool :=
  (List.range 8).any fun w => let b := fld mask (8 * w + 7) (8 * w)
    b ≠ 0 && b ≠ 255

def slotWord (s : State) (slot w : Nat) : Nat := leNat (Mem.readSlot s slot (8 * w) 8)

/-- The 88-byte record of LPF_ADD: every limb present (R204). -/
def lpf88 (c : Acc) : Bytes :=
  let u := (c.a % 2 ^ 640).toNat
  leBytes 8 (put 63 54 0x3FF + put 53 53 c.nan.toNat + put 52 52 c.pinf.toNat + put 51 51 c.ninf.toNat +
    put 50 50 c.allNegZ.toNat + put 40 8 c.terms + put 7 0 (residue c.a)) ++
  (List.range 10).flatMap fun k => leBytes 8 (u / 2 ^ (64 * k))

/-! ### Slot groups as the check units use them -/

/-- Bytes of a slot group from an offset. -/
def groupBytes (s : State) (slot off n : Nat) : Bytes := Mem.read s.mem.loft (slotAddr slot + off) n

/-- Every slot of a group answers a READ of this instance (R206). -/
def groupReadable (s : State) (slot cnt : Nat) (i : Ident) : Bool :=
  (range' slot cnt).all fun x => !shedDown s x && tagMatch (tagOf s x) i && tagFull (tagOf s x)

def eachSlot (f : Nat → State → State) (slots : List (Nat × Nat)) (s : State) : State :=
  slots.foldl (fun s g => (range' g.1 g.2).foldl (fun s x => f x s) s) s

end Sys2Proof.Machine
end

