-- ==== Sys2Proof/Machine/Memory.lean ====
section
/-!
DEFINITION. Meanings of the memory commands: bank operations (R204, R206), the MEM engine (R214 to R217),
erasure (R218 to R221) and shed power (R222 to R225).
-/
namespace Sys2Proof.Machine

/-! ### Power domains as MEM sees them (R437, R438) -/

def domainOf (s : State) (d : Nat) : DomSt := s.ts.domains.getD d .off

def setDomain (d : Nat) (st : DomSt) (s : State) : State := s.mTs fun t => { t with domains := t.domains.set d st }

def domainOn (s : State) (d : Nat) : Bool := domainOf s d = .on

def domainFailed (s : State) (d : Nat) : Bool := bit s.ts.failed d

/-- Step 1 of R438: a domain that is off and has not failed powers up; one that shuts down remembers the
request (R440). -/
def requestDomain (d : Nat) (s : State) : State :=
  match domainOf s d with
  | .off => if domainFailed s d then s else setDomain d .poweringUp s
  | .shuttingDown =>
    if bit s.ts.pending d then s else bump 1052 1 (s.mTs fun t => { t with pending := t.pending ||| (1#24 <<< d) })
  | _ => s

/-- Lanes of the clusters that are powered. -/
def poweredLanes (s : State) : List Nat := (List.range 64).filter fun l => domainOn s (l / 4)

/-- Encoding of R222. -/
def ShedSt.code : ShedSt → Nat
  | .off => 0
  | .init => 1
  | .on => 2
  | .drain => 3

def shedSt (s : State) (n : Nat) : ShedSt := ((s.mem.sheds[n]?).map (·.st)).getD .off

def setShed (n : Nat) (st : ShedSt) (s : State) : State :=
  stateChanged uMEM 0x80008 (shedSt s n).code st.code
    (s.mMem fun m => { m with sheds := m.sheds.modify n fun x => { x with st := st } })

/-! ### Bank operations -/

/-- Answer of a Loft command for a slot that exists (R202). -/
def onSlot (slot : Nat) (s : State) : Host.Outcome State Fault Refusal :=
  if slot < loftSlots then .next s else .fault .noSuchSlot

def execBankRead (slot : BitVec 15) (line : BitVec 5) (a : Access) (e : EccSay) (s : State) :
    Host.Outcome State Fault Refusal :=
  onSlot slot.toNat (bankRead slot.toNat line.toNat a e s)

/-- WRITE: one line under a byte mask (R204). -/
def bankWrite (slot line : Nat) (mask : W64) (data : BitVec 512) (a : Access) (e : EccSay) (s : State) : State :=
  let store (s : State) : State :=
    let old := Mem.readSlot s slot (line * 64) 64
    loftWrite (slotAddr slot + line * 64) (maskBytes mask old (leBytes 64 data.toNat)) s
  bankStore slot (line * 64) 64 (partialMask mask) a e store s

def execBankWrite (slot : BitVec 15) (line : BitVec 5) (mask : W64) (data : BitVec 512) (a : Access) (e : EccSay)
    (s : State) : Host.Outcome State Fault Refusal :=
  onSlot slot.toNat (bankWrite slot.toNat line.toNat mask data a e s)

/-- ADD64: adds to one word modulo 2^64 (R204). -/
def bankAdd64 (slot w : Nat) (v : W64) (a : Access) (e : EccSay) (s : State) : State :=
  bankStore slot (8 * w) 8 true a e
    (fun s => loftWrite (slotAddr slot + 8 * w) (leBytes 8 (slotWord s slot w + v.toNat)) s) s

def execAdd64 (slot : BitVec 15) (w : BitVec 8) (v : W64) (a : Access) (e : EccSay) (s : State) :
    Host.Outcome State Fault Refusal :=
  onSlot slot.toNat (bankAdd64 slot.toNat w.toNat v a e s)

/-- LPF_ADD: combines a record into the 88-byte record at an 8-byte-aligned offset (R47, R204). -/
def bankLpfAdd (slot off8 : Nat) (rec : Bytes) (a : Access) (e : EccSay) (s : State) : State :=
  bankStore slot (8 * off8) 88 true a e
    (fun s =>
      let old := parseLpf (Mem.readSlot s slot (8 * off8) 88)
      loftWrite (slotAddr slot + 8 * off8) (lpf88 (old.acc.combine (parseLpf rec).acc)) s) s

def execLpfAdd (slot : BitVec 15) (off8 : BitVec 8) (rec : Bytes) (a : Access) (e : EccSay) (s : State) :
    Host.Outcome State Fault Refusal :=
  if 1960 < 8 * off8.toNat then .fault .outsideSlot
  else onSlot slot.toNat (bankLpfAdd slot.toNat off8.toNat rec a e s)

def execAlloc (slot : BitVec 15) (ctx : Ctx) (plan : BitVec 6) (epoch : Bool) (s : State) :
    Host.Outcome State Fault Refusal :=
  onSlot slot.toNat (tagAllocOp slot.toNat ctx.toNat plan.toNat epoch s)

def execBind (slot : BitVec 15) (a : Access) (s : State) : Host.Outcome State Fault Refusal :=
  onSlot slot.toNat (tagBindOp slot.toNat (identOf a) s)

def execSetFull (slot : BitVec 15) (a : Access) (s : State) : Host.Outcome State Fault Refusal :=
  onSlot slot.toNat (tagFullOp slot.toNat (identOf a) s)

def execClear (slot : BitVec 15) (s : State) : Host.Outcome State Fault Refusal :=
  onSlot slot.toNat (tagClearOp slot.toNat s)

def execScrubSet (slot : BitVec 15) (s : State) : Host.Outcome State Fault Refusal :=
  onSlot slot.toNat (tagScrubOp slot.toNat s)

def execFree (slot : BitVec 15) (s : State) : Host.Outcome State Fault Refusal :=
  onSlot slot.toNat (tagFreeOp slot.toNat s)

/-! ### The MEM engine -/

/-- An engine operation leaves the queue of its shed port. -/
def engTake (op : EngOp) (s : State) : State :=
  s.mMem fun m => { m with eng := m.eng.map fun q => q.erase op }

/-- ROWMAP: map a row of a Loft bank out to a spare (R214). -/
def execRowmap (bank : BitVec 6) (row : BitVec 10) (s : State) : Host.Outcome State Fault Refusal :=
  if 768 ≤ row.toNat then .fault .noSuchRow
  else if engineHeld s uMEM (bank.toNat / 16) then .next s
  else .next (mapRow bank.toNat row.toNat (engTake (.rowmap bank.toNat row.toNat) s))

/-- FILL: one pattern to every word of a slot range, tags unchanged (R216). -/
def engFill (slot count : Nat) (pattern : W64) (s : State) : State :=
  let s := engTake (.fill slot count pattern) s
  (range' slot count).foldl (fun s x =>
    if shedDown s x then lateWrite (41 + shedOf x) s
    else loftWrite (slotAddr x) ((List.replicate 256 (leBytes 8 pattern.toNat)).flatten) s) s

def execFill (slot count : BitVec 15) (pattern : W64) (s : State) : Host.Outcome State Fault Refusal :=
  if slot.toNat + count.toNat ≤ loftSlots then .next (if engineHeld s uMEM (shedOf slot.toNat) then s else engFill slot.toNat count.toNat pattern s)
  else .fault .noSuchSlot

/-- Context to which every slot of a range is allocated. -/
def rangeCtx (s : State) (slot count : Nat) : Option Nat :=
  let c := fld (tagOf s slot) 56 45
  if (range' slot count).all fun x => tagAlloc (tagOf s x) && fld (tagOf s x) 56 45 = c then some c else none

def laneOf (s : State) (n : Nat) : Lane := s.sa.lanes.getD n Lane.reset

def State.mLane (n : Nat) (f : Lane → Lane) (s : State) : State :=
  s.mSa fun a => { a with lanes := a.lanes.modify n f }

def State.mCluster (n : Nat) (f : Cluster → Cluster) (s : State) : State :=
  s.mSa fun a => { a with clusters := a.clusters.modify n f }

def laneRuns (s : State) (lane ctx : Nat) : Bool :=
  match (laneOf s lane).run with
  | some r => r.tok.ctx = ctx
  | none => false

/-- COPY: a slot range to another of the same context, or to the share of a lane that runs a task of the context;
any other copy is refused (R217). -/
def engCopy (src count dst : Nat) (lane : Option Nat) (s : State) : State :=
  let s := engTake (.copy src count dst lane) s
  let data := Mem.read s.mem.loft (slotAddr src) (2048 * count)
  match rangeCtx s src count, lane with
  | some c, none =>
    if rangeCtx s dst count = some c then
      if (range' src count ++ range' dst count).any (shedDown s) then lateWrite (41 + shedOf src) s
      else loftWrite (slotAddr dst) data s
    else memTag src s
  | some c, some l =>
    if laneRuns s l c ∧ count ≤ 32 then
      if (range' src count).any (shedDown s) then lateWrite (41 + shedOf src) s
      else injectAt 1 (l / 4 * 4) (l / 4) (s.mMem fun m => { m with cm := Mem.write m.cm (laneShare l) data })
    else memTag src s
  | none, _ => memTag src s

def execCopy (src count dst : BitVec 15) (lane : Option (BitVec 6)) (s : State) : Host.Outcome State Fault Refusal :=
  if src.toNat + count.toNat ≤ loftSlots ∧ (lane.isSome ∨ dst.toNat + count.toNat ≤ loftSlots) then
    .next (if engineHeld s uMEM (shedOf src.toNat) then s
      else engCopy src.toNat count.toNat dst.toNat (lane.map BitVec.toNat) s)
  else .fault .noSuchSlot

/-! ### Erasure (R218 to R221) -/

/-- D - D0 of R220 over a region of words, from the words that did not read zero: each is its number in the
region and the value read. -/
def zeroDigest (key : W128) (bad : List (Nat × W64)) : Nat :=
  let h (w i half : Nat) : Nat := elemHash 0xE5A5_E5A5 (2 * w + i) half key
  ((bad.map fun (w, v) =>
    h w 0 (fld v 31 0) + h w 1 (fld v 63 32) + (2 ^ 65 - h w 0 0 - h w 1 0)).sum) % 2 ^ 64

/-- Words of a region that did not read zero, numbered from its first word. -/
def badIn (r : WipeSay) (first n : Nat) : List (Nat × W64) :=
  r.bad.filterMap fun (w, v) =>
    if first ≤ w.toNat ∧ w.toNat < first + n ∧ v ≠ 0 then some (w.toNat - first, v) else none

/-- Every slot range verifies. -/
def rangesPass (key : W128) (ranges : List (Nat × Nat)) (r : WipeSay) : Bool :=
  ranges.all fun g => zeroDigest key (badIn r (g.1 * 256) (g.2 * 256)) = 0

/-- Rows, as bank and row, in which a read-back word of the ranges was non-zero. -/
def badRows (ranges : List (Nat × Nat)) (r : WipeSay) : List (Nat × Nat) :=
  dedup (ranges.flatMap fun g => (badIn r (g.1 * 256) (g.2 * 256)).map fun (w, _) =>
    let slot := g.1 + w / 256
    (bankOf slot, rowOf slot (w % 256 * 8)))

def eraseSlots (ranges : List (Nat × Nat)) (s : State) : State :=
  s.mMem fun m => { m with loft := ranges.foldl (fun l g => Mem.zero l (slotAddr g.1) (2048 * g.2)) m.loft }

def slotTotal (ranges : List (Nat × Nat)) : Nat := (ranges.map (·.2)).sum

/-- Start the erasure of a plan (R219 steps 2 and 5): SCRUB on every slot of its ranges, and a wipe owed by every
powered lane. -/
def startErasure (ctx plan : Nat) (p : Plan) (kill : Bool) (s : State) : State :=
  let ranges := p.ranges.map fun r => (r.base, r.count)
  let lanes := poweredLanes s
  let s := eachSlot tagScrubOp ranges s
  let s := (dedup (ranges.map fun g => shedOf g.1)).foldl (fun s n => engQueue n (.erase ctx ranges) s) s
  let s := lanes.foldl (fun s l => s.mLane l fun x => { x with wipes := x.wipes ++ [ctx] }) s
  let s := s.mOb fun o => { o with watch := o.watch.filter fun w => w.ctx ≠ ctx }
  s.mMem fun m => { m with erasures := m.erasures ++
    [{ ctx := ctx, plan := plan, ranges := ranges, pages := p.pages, quota := p.hdr.quota, rangesLeft := true,
       lanesLeft := lanes, lanesDone := 0, remapped := false, failed := false, kill := kill }] }

def State.mErasure (ctx : Nat) (f : Erasure → Erasure) (s : State) : State :=
  s.mMem fun m => { m with erasures := m.erasures.map fun e => if e.ctx = ctx then f e else e }

/-- MEM_ERASE_FAIL (R221). -/
def eraseFailed (h : Huid) (s : State) : State :=
  (reportUnit uMEM 0x5D 0 none h s).mMem fun m => { m with eraseFault := true }

/-- ERASE: zero the ranges of a context's erasure and verify them; rows that fail are mapped out and the ranges
erased once more (R219 step 4, R221). -/
def eraseRanges (ctx : Nat) (r r2 : WipeSay) (s : State) : State :=
  match s.mem.erasures.find? fun e => e.ctx = ctx && e.rangesLeft with
  | none => s
  | some e =>
    let (n, s) := s.draw
    let key : W128 := (Config.trng n).setWidth 128
    let s := engTake (.erase ctx e.ranges) (eraseSlots e.ranges s)
    let total := s.mem.eraseRest + 2048 * slotTotal e.ranges
    let s := bump 360 (total / 2 ^ 20) (s.mMem fun m => { m with eraseRest := total % 2 ^ 20 })
    let done (f : Erasure → Erasure) (s : State) : State :=
      s.mMem fun m => { m with erasures := m.erasures.map fun x =>
        if x.ctx = ctx && x.plan = e.plan then f { x with rangesLeft := false } else x }
    if rangesPass key e.ranges r then done id s
    else
      let s := (badRows e.ranges r).foldl (fun s b => mapRow b.1 b.2 s) s
      if rangesPass key e.ranges r2 then done (fun x => { x with remapped := true }) s
      else
        let s := (badRows e.ranges r2).foldl (fun s b => mapRow b.1 b.2 s) s
        let s := eraseFailed (silornHuid 7 (((badRows e.ranges r2).headD (0, 0)).1)) s
        done (fun x => { x with failed := true }) s

def execErase (ctx : Ctx) (r r2 : WipeSay) (s : State) : Host.Outcome State Fault Refusal :=
  .next (if partDown s then s else eraseRanges ctx.toNat r r2 s)

/-- Zero a lane's operand buffers and its lane share. -/
def zeroLane (lane : Nat) (s : State) : State :=
  dropFlips 2 lane 1 <| s.mMem fun m => { m with opbuf := Mem.zero m.opbuf (opbufAddr lane 0) 32768, cm := Mem.zero m.cm (laneShare lane) 65536 }

/-- Zero everything of a cluster, as a power cycle leaves it. -/
def zeroCluster (c : Nat) (s : State) : State :=
  (dropFlips 1 c 1 (dropFlips 2 (4 * c) 4 (s.mMem fun m =>
    { m with opbuf := Mem.zero m.opbuf (opbufAddr (4 * c) 0) 131072
             cm := Mem.zero m.cm (cmAddr c 0) 393216 }))).mCluster c fun x => { x with inq := [], cache := [] }

/-- Another lane reads this lane's share on behalf of a task in execution (R188): a lane of the same cluster
whose task was fired for this lane. -/
def shareInUse (s : State) (lane : Nat) : Bool :=
  (List.range 64).any fun l => l ≠ lane && l / 4 = lane / 4 &&
    match (laneOf s l).run with
    | some r => match planOfEpoch s r.tok.ctx r.tok.epoch with
      | some (_, p) => (planTask p r.tok.task).engine = lane
      | none => false
    | none => false

/-- Zero and free Plan Store pages. -/
def freePages (pages : List Nat) (s : State) : State :=
  pages.foldl (fun s p => setTag (planStore + p) 0
    (s.mMem fun m => { m with loft := Mem.zero m.loft (slotAddr (planStore + p)) 2048 })) s

/-- Step 6 of R219 for one erasure whose verifications are over. -/
def finishErasure (e : Erasure) (s : State) : State :=
  let s := freePages e.pages (eachSlot tagFreeOp e.ranges s)
  let result := if e.failed then 3 else if e.remapped then 2 else 1
  let s := bump 359 1 (if e.failed then bump 361 1 s else s)
  s.mMem fun m => { m with
    erasures := m.erasures.erase e
    eraseStatus := word [put 63 52 e.ctx, put 51 46 e.plan, put 45 44 result, put 43 29 (slotTotal e.ranges),
      put 28 22 e.lanesDone, 1] }

def erasureReady (e : Erasure) : Bool := !e.rangesLeft && e.lanesLeft.isEmpty

/-! ### Shed power (R222 to R225) -/

def shedAllocated (s : State) (n : Nat) : Bool := s.mem.tags.any fun t => shedOf t.1 = n && tagAlloc t.2

def shedGating (s : State) : Bool := bit s.expert.memConfig 32

/-- R222: a shed of LS0 to LS2 that may power down. -/
def mayDrain (s : State) (n : Nat) : Bool :=
  n < 3 && shedGating s && !shedAllocated s n && (s.mem.eng.getD n []).isEmpty && shedState s n = .on

def shedDrain (n : Nat) (s : State) : State :=
  if mayDrain s n then
    setDomain (16 + n) .shuttingDown ((setShed n .drain s).mMem fun m =>
      { m with sheds := m.sheds.modify n fun x => { x with inFlight := 0 } })
  else s

def execShedDrain (shed : BitVec 2) (s : State) : Host.Outcome State Fault Refusal := .next (shedDrain shed.toNat s)

/-- A domain that is off while an enable is pending starts again at once (R440). -/
def domainOff (d : Nat) (s : State) : State :=
  let pend := bit s.ts.pending d
  let s := setDomain d .off (s.mTs fun t => { t with pending := t.pending &&& ~~~(1#24 <<< d) })
  if pend then setDomain d .poweringUp s else s

/-- Step 3 of R223: the in-flight count is zero, and the domain goes off with what its banks held. -/
def shedOff (n : Nat) (s : State) : State :=
  if shedState s n = .drain ∧ ((s.mem.sheds[n]?).map (·.inFlight)) = some 0 then
    let s := (setShed n .off s).mMem fun m =>
      { m with loft := Mem.zero m.loft (slotAddr (6144 * n)) (2048 * 6144),
               tags := m.tags.filter fun t => shedOf t.1 ≠ n,
               sheds := m.sheds.modify n fun x => { x with pendingEnable := false } }
    domainOff (16 + n) s
  else s

def execShedOff (shed : BitVec 2) (s : State) : Host.Outcome State Fault Refusal := .next (shedOff shed.toNat s)

/-- Step 3′ of R223: the shed returns to ON, and the requester of the oldest outstanding request is named. -/
def drainTimeout (n port : Nat) (s : State) : State :=
  if shedState s n = .drain then
    let s := (setShed n .on s).mMem fun m => { m with sheds := m.sheds.modify n fun x => { x with inFlight := 1 } }
    reportUnit uMEM 0x5C 0 none (requesterHuid port) (setDomain (16 + n) .on s)
  else s

def execDrainTimeout (shed : BitVec 2) (port : BitVec 6) (s : State) : Host.Outcome State Fault Refusal :=
  .next (drainTimeout shed.toNat port.toNat s)

/-- The zero fill of a shed in INIT ends (R225). -/
def shedInitDone (n : Nat) (s : State) : State :=
  if shedState s n = .init then setDomain (16 + n) .on (setShed n .on s) else s

def execShedInitDone (shed : BitVec 2) (s : State) : Host.Outcome State Fault Refusal :=
  .next (shedInitDone shed.toNat s)

end Sys2Proof.Machine
end

