-- ==== Sys2Proof/Machine/Mesh.lean ====
section
/-!
DEFINITION. The host mesh as the topology section draws it (R517): routers, links and their weights (R275, R276),
least-cost routes and table entries (R272, R273, R277), the Mesh Attach port nearest a unit, and reachability (R278).
-/
namespace Sys2Proof.Machine

def ucCORE := 0
def ucROUTER := 1
def ucMEMCH := 2
def ucLINK := 3
def ucHXPORT := 4
def ucSILORN := 15

def sectorT (s : State) (n : Nat) : Option SectorT := s.cfg.topo.sectors.find? fun t => t.num = n

/-- Physical core present in the topology. -/
def corePresent (s : State) (h : Huid) : Bool :=
  huidClass h = ucCORE &&
    match sectorT s (huidSector h) with
    | some t => bit t.present (huidIndex h)
    | none => false

/-- Labels of a sector, and its spare labels: the highest SPARES of them (R270). -/
def sectorLabels (t : SectorT) : List Nat := bitsOf 64 t.present.toNat
def spareLabels (t : SectorT) : List Nat := (sectorLabels t).drop ((sectorLabels t).length - t.spares)

def allRouters (s : State) : List Huid :=
  s.cfg.topo.sectors.flatMap fun t => (List.range t.routers).map fun r => mkHuid ucROUTER t.num r

def routerPorts (s : State) (r : Huid) : List PortT :=
  match sectorT s (huidSector r) with
  | some t => t.ports.getD (huidIndex r) []
  | none => []

def linkOf (p : PortT) : Huid := mkHuid ucLINK p.home p.link

def linkSt (s : State) (p : PortT) : Link :=
  Tab.getD s.ym.links (linkOf p).toNat { full := p.width, trained := p.width, st := .up }

/-- Weight of a link (R276). -/
def linkWeight (l : Link) : Nat :=
  match l.st with
  | .up => 4
  | .reduced => (4 * l.full + l.trained - 1) / max l.trained 1
  | .removed => 0

/-- The usable ports of a router: port number, neighbour, weight. -/
def usablePorts (s : State) (r : Huid) : List (Nat × Huid × Nat) :=
  if s.ym.deadRouters.contains r then [] else
  ((routerPorts s r).zipIdx.filter fun (p, _) =>
    p.nbr ≠ 0xFFFF && (linkSt s p).st ≠ .removed && !s.ym.deadRouters.contains p.nbr).map
      fun (p, q) => (q, p.nbr, linkWeight (linkSt s p))

/-- One round of relaxation of the cost table. -/
def relax (ports : Huid → List (Nat × Huid × Nat)) (rs : List Huid) (d : Tab Nat) : Tab Nat :=
  rs.foldl (fun d r =>
    let best := (ports r).foldl (fun (m : Option Nat) (_, n, w) =>
      match Tab.get d n.toNat with
      | some c => some (match m with
        | some b => min b (c + w)
        | none => c + w)
      | none => m) (Tab.get d r.toNat)
    match best with
    | some c => Tab.set d r.toNat c
    | none => d) d

/-- Relax until nothing changes, at most `fuel` times. -/
def settleCosts (ports : Huid → List (Nat × Huid × Nat)) (rs : List Huid) : Nat → Tab Nat → Tab Nat
  | 0, d => d
  | n + 1, d =>
    let e := relax ports rs d
    if e = d then d else settleCosts ports rs n e

/-- Least cost from each router of a set to a set of targets. -/
def costsTo (ports : Huid → List (Nat × Huid × Nat)) (rs targets : List Huid) : Tab Nat :=
  settleCosts ports rs rs.length ((targets.filter rs.contains).foldl (fun d t => Tab.set d t.toNat 0) [])

def entryINVALID : Nat := 0
def entryEJECT : Nat := 0x88

/-- Entry of a router towards the targets of a cost table: EJECT at a target, else the first port of a least-cost
path, ties to the lowest port (R273, R277). -/
def costEntry (ports : Huid → List (Nat × Huid × Nat)) (d : Tab Nat) (r : Huid) : Nat :=
  match Tab.get d r.toNat with
  | none => entryINVALID
  | some 0 => entryEJECT
  | some c =>
    match (ports r).find? fun (_, n, w) => (Tab.get d n.toNat).map (· + w) = some c with
    | some (q, _, _) => 0x80 + q
    | none => entryINVALID

/-- Routers in service. -/
def liveRouters (s : State) : List Huid := (allRouters s).filter fun r => !s.ym.deadRouters.contains r

/-- Ports within one sector. -/
def sectorPorts (s : State) (n : Nat) (r : Huid) : List (Nat × Huid × Nat) :=
  (usablePorts s r).filter fun (_, q, _) => huidSector q = n

def sectorRouters (s : State) (n : Nat) : List Huid := (liveRouters s).filter fun r => huidSector r = n

/-- Router of a physical core or memory channel. -/
def routerOfUnit (s : State) (h : Huid) : Option Huid :=
  match sectorT s (huidSector h) with
  | none => none
  | some t =>
    let r := if huidClass h = ucCORE then t.routerOf.getD (huidIndex h) 0xFF else t.chanRouter.getD (huidIndex h) 0xFF
    if r = 0xFF then none else some (mkHuid ucROUTER t.num r)

/-- Mesh Attach ports that carry a router, in port order. -/
def maPorts (s : State) : List (Nat × Huid) :=
  (s.cfg.topo.maRouters.zipIdx.filter fun (r, _) => r ≠ 0xFFFF).map fun (r, n) => (n, r)

/-- Cost of a router to each Mesh Attach port. -/
def maCosts (s : State) (r : Huid) : List (Nat × Nat) :=
  (maPorts s).filterMap fun (n, q) =>
    (Tab.get (costsTo (usablePorts s) (liveRouters s) [q]) r.toNat).map fun c => (n, c)

/-- The Mesh Attach port of least cost, ties to the lowest number. -/
def bestMa (s : State) (r : Huid) : Option Nat :=
  let cs := maCosts s r
  let best := cs.foldl (fun m x => min m x.2) (2 ^ 40)
  (cs.find? fun x => x.2 = best).map (·.1)

/-- Port nearest a physical core, over which Silorn sends to it; port 0 where no path exists (log entry 15). -/
def portNear (s : State) (h : Huid) : Nat :=
  match routerOfUnit s h with
  | some r => (bestMa s r).getD 0
  | none => 0

/-- Send an order to a label, on the port nearest the core that serves it. -/
def sendCore (kind sub : Nat) (label : Huid) (pre : List W64) (payload : Bytes) (s : State) : State :=
  send (portNear s (physOf s label)) kind sub label pre payload s

/-! ### Destination tables -/

/-- Entries of a router: sectors, labels and channels of its own sector, the nearest Mesh Attach port (R272, R277). -/
def routerTable (s : State) (r : Huid) : List Nat :=
  let sec := huidSector r
  let ports := usablePorts s
  let own := sectorPorts s sec
  let local_ := sectorRouters s sec
  let sectors := (List.range 64).map fun x =>
    if x = sec then 0 else costEntry ports (costsTo ports (liveRouters s) (sectorRouters s x)) r
  let unitEntry (h : Huid) : Nat :=
    match routerOfUnit s h with
    | some q => costEntry own (costsTo own local_ [q]) r
    | none => entryINVALID
  let labels := (List.range 64).map fun l =>
    if corePresent s (mkHuid ucCORE sec l) then unitEntry (physOf s (mkHuid ucCORE sec l)) else entryINVALID
  let chans := (List.range 8).map fun k =>
    match sectorT s sec with
    | some t => if k < t.channels then unitEntry (mkHuid ucMEMCH sec k) else entryINVALID
    | none => entryINVALID
  let ma := match bestMa s r with
    | some n => costEntry ports (costsTo ports (liveRouters s) [s.cfg.topo.maRouters.getD n 0]) r
    | none => entryINVALID
  sectors ++ labels ++ chans ++ [ma] ++ List.replicate 119 entryINVALID

/-- The 32 words of a table (R273). -/
def tableWords (es : List Nat) : List Nat :=
  (List.range 32).map fun k => ((List.range 8).map fun i => es.getD (8 * k + i) 0 * 2 ^ (8 * i)).sum

/-- Endpoints that no route reaches from the routers of their own sector, or whose router has failed, and those of a
sector that a failed chip reset left unreachable (R278, R327). -/
def unreachable (s : State) : List Huid :=
  s.cfg.topo.sectors.flatMap fun t =>
    let own := sectorPorts s t.num
    let rs := sectorRouters s t.num
    let lost := ((Tab.get s.ct.sectors t.num).map (·.unreachable)).getD false
    let bad (h : Huid) : Bool := lost ||
      match routerOfUnit s h with
      | some q => rs.isEmpty || rs.any fun r => (Tab.get (costsTo own rs [q]) r.toNat).isNone
      | none => false
    ((sectorLabels t).map (mkHuid ucCORE t.num)).filter bad ++
      ((List.range t.channels).map (mkHuid ucMEMCH t.num)).filter bad

end Sys2Proof.Machine
end

