-- ==== Sys2Proof/Machine/Orders.lean ====
section
/-!
DEFINITION. Issuing commands: Command Tracker entries (R317, R318), Sector Control orders and their queues (R320,
R322), merging and superseding (R333), host order completion, and WAIT_QUERY chains (R331).
-/
namespace Sys2Proof.Machine

def opFENCE := 1
def opUNFENCE := 2
def opSFENCE := 3
def opSUNFENCE := 4
def opDRAIN := 5
def opRESET := 6
def opSCRUB := 7
def opCTXFENCE := 8
def opWAIT := 9
def opPOFF := 10
def opPON := 11

/-- Command class of an order (R317). -/
def classOfOp : Nat → Nat
  | 1 | 3 => 0
  | 5 => 1
  | 6 => 2
  | 7 => 3
  | 8 => 4
  | 2 | 4 => 5
  | 10 | 11 => 6
  | _ => 10

def fpFENCE := 1
def fpRESET := 2
def fpKILL := 3
def fpSCRUB := 4
def fpWAIT := 5
def fpHOST := 6
def fpSURVEY := 7
def fpMUSTER := 8
def fpDEADLOCK := 9
/-- An order of the Node Leader. -/
def fpLEADER := 10

def sectorSt (s : State) (n : Nat) : SectorSt := Tab.getD s.ct.sectors n SectorSt.reset

def State.mSector (n : Nat) (f : SectorSt → SectorSt) (s : State) : State :=
  s.mCt fun c => { c with sectors := Tab.upd c.sectors n SectorSt.reset f }

/-! ### Entries -/

def freeEntry (s : State) : Option Nat := (List.range 2048).find? fun k => (Tab.get s.ct.cmds k).isNone

/-- Take an entry for a command, counted under its class. -/
def takeEntry (k : Nat) (c : Cmd) (s : State) : State :=
  bump (704 + c.cls) 1 (s.mCt fun t => { t with cmds := Tab.set t.cmds k c })

def dropEntry (k : Nat) (s : State) : State := s.mCt fun t => { t with cmds := Tab.del t.cmds k }

/-- Entry of a sector's order in execution. -/
def entryOf (s : State) (cls : Nat) (target : Huid) : Option Nat :=
  (s.ct.cmds.find? fun e => e.2.cls = cls && e.2.target = target).map (·.1)

/-- Target HUID of a sector order: the core that MASK names first, for core orders; else the sector. -/
def orderTarget (n : Nat) (o : ScOrder) : Huid :=
  if [opFENCE, opUNFENCE, opWAIT].contains o.op then mkHuid ucCORE n ((bitsOf 64 o.mask.toNat).headD 0)
  else mkHuid ucCORE n 0

def orderCmd (n : Nat) (o : ScOrder) : Cmd :=
  { cls := classOfOp o.op, target := orderTarget n o, ctx := o.ctx, ctxValid := o.ctxValid }

/-! ### Host orders -/

def stDONE := 1
def stSUPERSEDED := 2
def stREFUSED := 3
def stTIMEOUT := 4

/-- Completion of a host order (R335). -/
def hostDone (w : W64) (status : Nat) (s : State) : State :=
  s.mCt fun c => { c with orderStatus := word [put 63 56 (fld w 31 24), put 55 53 status, put 52 49 (fld w 63 60), 1] }

/-- A host order among an order's purposes ends with a status. -/
def endHost (o : ScOrder) (status : Nat) (s : State) : State :=
  (o.purposes.filter fun p => p.1 = fpHOST).foldl (fun s p => hostDone p.2 status s) s

/-! ### Sector queues -/

/-- Start the next order of a sector, when its port is free and an entry is. -/
def scStart (n : Nat) (s : State) : State :=
  let x := sectorSt s n
  if x.cur.isSome ∨ x.dead then s else
  match x.queue, freeEntry s with
  | o :: r, some k => takeEntry k (orderCmd n o) (s.mSector n fun y => { y with cur := some o, queue := r })
  | _, _ => s

/-- Orders that R333 merges. -/
def sameOrder (a b : ScOrder) : Bool :=
  a.op = b.op && a.mask = b.mask && a.ctxValid = b.ctxValid && (!a.ctxValid || a.ctx = b.ctx)

def joinPurposes (o : ScOrder) (a : ScOrder) : ScOrder :=
  if sameOrder o a then { a with purposes := a.purposes ++ o.purposes } else a

/-- A queued order loses to a new one on the same cores (R333): an unfence to a fence. -/
def losesTo (o a : ScOrder) : Bool := a.op = opUNFENCE && o.op = opFENCE && (a.mask &&& o.mask) ≠ 0

/-- Put an order in a sector's queue: it merges with an equal one, loses to a more conservative one in progress, and
ends queued orders that lose to it (R322, R333). -/
def scOrder (n : Nat) (o : ScOrder) (s : State) : State :=
  let x := sectorSt s n
  let all := x.cur.toList ++ x.queue
  if all.any (sameOrder o) then
    bump 730 1 (s.mSector n fun y => { y with cur := y.cur.map (joinPurposes o), queue := y.queue.map (joinPurposes o) })
  else if (o.op = opUNFENCE ∧ (all.any fun a => losesTo a o)) ∨
      (x.rstStep ≠ 0 ∧ (o.op = opUNFENCE ∨ o.op = opFENCE) ∧ ¬ (o.purposes.any fun p => p.1 = fpRESET ∨ p.1 = fpMUSTER)) then
    endHost o stSUPERSEDED (bump 729 1 s)
  else
    let lost := all.filter (losesTo o)
    let s := lost.foldl (fun s a => endHost a stSUPERSEDED (bump 729 1 s)) s
    let s := s.mSector n fun y =>
      { y with queue := y.queue.filter fun a => !losesTo o a,
               cur := y.cur.map fun a => if losesTo o a then { a with purposes := [] } else a }
    if (sectorSt s n).queue.length < 8 then scStart n (s.mSector n fun y => { y with queue := y.queue ++ [o] })
    else s.mCt fun c => { c with waiting := c.waiting ++ [(n, o, s.now.toNat)] }

def scMask (op : Nat) (mask : W64) (ctx : Option Nat) (purpose : Nat) (w : W64) : ScOrder :=
  { op := op, mask := mask, ctx := ctx.getD 0, ctxValid := ctx.isSome, purposes := [(purpose, w)] }

/-- Bit of a physical core in its sector's masks. -/
def coreBit (h : Huid) : W64 := 1#64 <<< huidIndex h

/-- Order a core's fence, or its unfence. -/
def fenceOrder (h : Huid) (purpose : Nat) (w : W64) (s : State) : State :=
  scOrder (huidSector h) (scMask opFENCE (coreBit h) none purpose w) s

def unfenceOrder (h : Huid) (purpose : Nat) (w : W64) (s : State) : State :=
  scOrder (huidSector h) (scMask opUNFENCE (coreBit h) none purpose w) s

/-- Sectors that hold a core of a list of labels, with the mask of those cores. -/
def sectorMasks (s : State) (labels : List Huid) : List (Nat × W64) :=
  let ps := labels.map (physOf s)
  (dedup (ps.map huidSector)).map fun n =>
    (n, ((ps.filter fun h => huidSector h = n).map coreBit).foldl (· ||| ·) 0)

/-- CTX_FENCE of a context's cores, one order per sector (R325, R332). A sector whose reset is in progress answers
with it. -/
def ctxFence (c : Nat) (labels : List Huid) (purpose : Nat) (s : State) : State :=
  (sectorMasks s labels).foldl (fun s (n, m) =>
    if (sectorSt s n).rstStep ≠ 0 then s else scOrder n (scMask opCTXFENCE m (some c) purpose 0) s) s

/-! ### WAIT_QUERY chains -/

/-- Ask a physical core what it waits for. -/
def waitQuery (h : Huid) (s : State) : State :=
  bump 734 1 (scOrder (huidSector h) (scMask opWAIT (coreBit h) none fpWAIT 0) s)

/-- Begin a chain at each core that a STEP_TIMEOUT report names. -/
def startChains (c step : Nat) (labels : List Huid) (s : State) : State :=
  (sortBy BitVec.toNat (dedup labels)).foldl (fun s l =>
    let h := physOf s l
    waitQuery h (s.mCt fun t => { t with chains := t.chains ++ [{ ctx := c, step := step, cores := [], next := h }] })) s

end Sys2Proof.Machine
end

