-- ==== Sys2Proof/Machine/YardOps.lean ====
section
/-!
DEFINITION. The Yard Master's shared operations: the swap of a label with a spare (R270, R271, R278), queued changes,
and the requests on the Fabric Control port (R279, R280, R508).
-/
namespace Sys2Proof.Machine

/-! ### Physical cores and their Paddock state -/

def padOf (s : State) (h : Huid) : Pad := Tab.getD s.vu.paddock h.toNat Pad.reset

def State.mPad (h : Huid) (f : Pad → Pad) (s : State) : State :=
  s.mVu fun v => { v with paddock := Tab.upd v.paddock h.toNat Pad.reset f }

/-- A core in SERVICE that no fence, host fence or lost route keeps out of work. -/
def coreServes (s : State) (h : Huid) : Bool :=
  (padOf s h).st = .service && !(padOf s h).hostFenced && !s.ym.unreachCores.contains h && corePresent s h

/-- The label is a spare label (R270). -/
def isSpareLabel (s : State) (label : Huid) : Bool :=
  match sectorT s (huidSector label) with
  | some t => (spareLabels t).contains (huidIndex label)
  | none => false

/-- Free spares of a sector: their spare labels, lowest first (R271). -/
def freeSpares (s : State) (n : Nat) : List Huid :=
  match sectorT s n with
  | some t => ((spareLabels t).map (mkHuid ucCORE n)).filter fun l => coreServes s (physOf s l)
  | none => []

/-! ### Swaps -/

/-- Labels 0 to 63 of a sector with the physical core that each names. -/
def remapRow (s : State) (n : Nat) : List Nat := (Tab.get s.ym.remap n).getD (List.range 64)

/-- Exchange the physical cores of two labels of one sector. -/
def swapLabels (a b : Huid) (s : State) : State :=
  let n := huidSector a
  let row := remapRow s n
  let pa := row.getD (huidIndex a) (huidIndex a)
  let pb := row.getD (huidIndex b) (huidIndex b)
  s.mYm fun y => { y with remap := Tab.set y.remap n ((row.set (huidIndex a) pb).set (huidIndex b) pa) }

/-- Stud Book REMAP record of a label (log entry 12). -/
def sbRemap (label phys : Huid) (s : State) : State := sbWrite sbREMAP (leBytes 2 label.toNat ++ leBytes 2 phys.toNat) s

/-- Contexts whose roster names a label. -/
def ctxsOfLabel (s : State) (l : Huid) : List Nat :=
  dedup ((s.led.plans.filter fun p => p.2.roster.contains l).map fun p => p.2.hdr.ctx)

/-! ### The destination tables -/

def tableKey (version : Bool) (r : Huid) : Nat := version.toNat * 65536 + r.toNat

def zeroTable : List Nat := List.replicate 32 0

/-- Content of a router's table of a version. -/
def tableOf (s : State) (version : Bool) (r : Huid) : List Nat := Tab.getD s.ym.tables (tableKey version r) zeroTable

/-- What a table will hold once the writes outstanding at its router have been carried out. -/
def expectedTable (s : State) (version : Bool) (r : Huid) : List Nat :=
  (s.ym.outstanding.filter fun q => q.op = 1 ∧ q.target = r ∧ q.version = version).foldl
    (fun t q => t.set q.word q.data.toNat) (tableOf s version r)

def writeReq (version : Bool) (r : Huid) (w v : Nat) : FcpReq :=
  { op := 1, target := r, version := version, word := w, data := BitVec.ofNat 64 v }

/-- TABLE_WRITEs that turn one table into another. -/
def diffWrites (version : Bool) (r : Huid) (old new : List Nat) : List FcpReq :=
  ((List.range 32).filter fun w => old.getD w 0 ≠ new.getD w 0).map fun w => writeReq version r w (new.getD w 0)

/-- Every route unit, with the tables that the next install gives it. -/
def newTables (s : State) : Tab (List Nat) :=
  (liveRouters s).foldl (fun t r => Tab.set t r.toNat (tableWords (routerTable s r))) []

/-! ### Requests -/

def clFCP := 7

/-- Issue the requests that may go: one outstanding per router, each in an entry of the Command Tracker. -/
def fcpPump : Nat → State → State
  | 0, s => s
  | n + 1, s =>
    match s.ym.toSend.find? fun q => !s.ym.outstanding.any fun o => o.target = q.target, freeEntry s with
    | some q, some k =>
      fcpPump n (takeEntry k { cls := clFCP, target := q.target, ctx := 0, ctxValid := false }
        (s.mYm fun y => { y with toSend := y.toSend.erase q, outstanding := y.outstanding ++ [q] }))
    | _, _ => s

def pumpFcp (s : State) : State := fcpPump (s.ym.toSend.length + 1) s

def broadcastTarget : Huid := 0xFFFF

/-- EPOCH_SET to every router, outstanding at each, in one entry (R279, R508). -/
def epochSet (s : State) : State :=
  let v := !s.ym.live
  let reqs := (liveRouters s).map fun r : Huid =>
    ({ op := 2, target := r, version := v, word := 0, data := 0 } : FcpReq)
  let s := s.mYm fun y => { y with standby := .flipping, outstanding := reqs }
  match freeEntry s with
  | some k => takeEntry k { cls := clFCP, target := broadcastTarget, ctx := 0, ctxValid := false } s
  | none => s

/-- Invalid words that are still to be written before the new ones: of every router after a forced retirement (R282),
else those that a restarted install has not sent. -/
def blankWrites (s : State) : List FcpReq :=
  if s.ym.invalidate then
    (liveRouters s).flatMap fun r => (List.range 32).map fun w => writeReq (!s.ym.live) r w 0
  else s.ym.toSend.filter fun q => q.data = 0

/-- The tables of step 1 of R280, and the writes that remain to reach them. -/
def computeInstall (s : State) : State :=
  let v := !s.ym.live
  let next := newTables s
  let blank := blankWrites s
  let base (r : Huid) : List Nat :=
    (blank.filter fun q => q.target = r).foldl (fun t q => t.set q.word 0) (expectedTable s v r)
  let writes := next.flatMap fun x => diffWrites v (BitVec.ofNat 16 x.1) (base (BitVec.ofNat 16 x.1)) x.2
  pumpFcp (s.mYm fun y => { y with
    next := next, toSend := blank ++ writes, pending := false, invalidate := false
    standby := .writing, rerouteNow := y.rerouteNow || y.reroute, reroute := false
    installLabels := dedup (y.installLabels ++ y.pendingLabels), pendingLabels := [] })

/-- A change of remap or routes: during steps 1 to 3 the install begins again with it, else it waits (R283). -/
def queueChange (s : State) : State :=
  let s := s.mYm fun y => { y with pending := true }
  if s.ym.standby = .writing then computeInstall s else s

/-- Swap a label with the free spare of the lowest spare label (R271); none: there is no free spare. -/
def remapLabel (l : Huid) (s : State) : Option State :=
  match freeSpares s (huidSector l) with
  | [] => none
  | sp :: _ =>
    let s := bump 576 1 (swapLabels l sp s)
    let s := sbRemap sp (physOf s sp) (sbRemap l (physOf s l) s)
    some (queueChange (s.mYm fun y => { y with pendingLabels := dedup (y.pendingLabels ++ [l]) }))

/-- Report of YM about a unit. -/
def ymReport (kind : Nat) (h : Huid) (s : State) : State := reportUnit uYM kind 0 none h s

end Sys2Proof.Machine
end

