-- ==== Sys2Proof/Machine/Admission.lean ====
section
/-!
DEFINITION. The rules of admission (R95 to R97, R122), one definition per code: each answers the entries that
break it, as table and index, in order.
-/
namespace Sys2Proof.Machine

/-- What the rules look at. -/
structure Adm where
  img : Bytes
  p : Plan
  /-- CTX and IMAGE_WORDS of the OPEN -/
  ctx : Nat
  words : Nat
  s : State
  deriving DecidableEq, Repr

/-- Tables of `LED.ADMIT`. -/
def tbHeader := 0
def tbLayer := 1
def tbTask := 2
def tbSlot := 3
def tbPair := 4
def tbEdge := 5
def tbRoster := 6
def tbDesc := 7

/-- Entries of a list that break a rule, with their table. -/
def breaks {α : Type} (table : Nat) (l : List α) (bad : α → Bool) : List (Nat × Nat) :=
  (l.zipIdx.filter fun x => bad x.1).map fun x => (table, x.2)

def headerIf (b : Bool) : List (Nat × Nat) := if b then [(tbHeader, 0)] else []

/-- Plans resident on the die, with their numbers (R97). -/
def residents (s : State) : List (Nat × Plan) := s.led.plans

/-- A plan number is free: no resident plan holds it and no erasure does. -/
def planFree (s : State) (n : Nat) : Bool := (planAt s n).isNone && !s.mem.erasures.any fun e => e.plan = n

/-- Another context's plan has a release edge from a context (R117). -/
def waitsOn (s : State) (c : Nat) : List Nat :=
  dedup (((residents s).filter fun x => x.2.hdr.ctx ≠ c && x.2.edges.any fun e => e.srcCtx = c).map fun x => x.2.hdr.ctx)

def crcField (img : Bytes) : Nat := leAt img 32 4

def badMagic (a : Adm) : List (Nat × Nat) :=
  headerIf (a.p.hdr.magic ≠ 0x56504C4E || a.p.hdr.planFmt ≠ 2 || a.p.hdr.ctx ≠ a.ctx)

def badCrc (a : Adm) : List (Nat × Nat) :=
  headerIf ((crc32c (a.img.take 32 ++ List.replicate 4 0 ++ a.img.drop 36)).toNat ≠ crcField a.img)

def badSize (a : Adm) : List (Nat × Nat) :=
  let h := a.p.hdr
  headerIf (h.imageWords ≠ imageSize h || h.imageWords ≠ a.words || 131072 < h.imageWords || h.layers = 0 || h.tasks = 0 ||
      16383 < h.tasks || h.slotRanges = 0 || h.roster = 0 || 4096 < h.roster || h.switch = 3) ++
    breaks tbLayer a.p.layers (fun l => l.tiles = 0 || l.doneCount = 0) ++
    breaks tbTask a.p.tasks (fun t => decide (h.layers ≤ t.layerIdx) || (t.succ ≠ 0x7FFF && decide (h.tasks ≤ t.succ)) ||
      ((t.kind = ktSHADOW || t.kind = ktXTEST) && decide (h.descs ≤ t.desc))) ++
    breaks tbSlot a.p.ranges (fun r => r.count = 0 || decide (22528 < r.count) || r.expect = 0 || r.acc = 3) ++
    breaks tbEdge a.p.edges (fun e => decide (h.layers ≤ e.dstLayer))

/-- A switch of the context, or a kill, is in progress. -/
def ctxMoving (s : State) (c : Nat) : Bool := (ctxOf s c).switch.isSome || s.ct.kills.any fun k => k.ctx = c

def ctxBusy (a : Adm) : List (Nat × Nat) :=
  let res := (ctxOf a.s a.ctx).plan.isSome
  headerIf (ctxMoving a.s a.ctx || (if a.p.hdr.switch = 0 then res else !res) ||
    (a.p.hdr.switch = 1 && !(waitsOn a.s a.ctx).isEmpty))

def badFormat (a : Adm) : List (Nat × Nat) :=
  breaks tbLayer a.p.layers fun l => !fmtsOk l.opcode l.outFmt l.inA l.inB l.rmode (opHasB l.opcode)

def taskDesc (p : Plan) (t : TaskE) : Desc := parseDesc (p.descs.getD t.desc 0)

def usesDesc (t : TaskE) : Bool := t.kind = ktSHADOW || t.kind = ktXTEST

def badOpcode (a : Adm) : List (Nat × Nat) :=
  breaks tbLayer a.p.layers (fun l => opReserved l.opcode || decide (2 ≤ l.mode)) ++
    breaks tbTask a.p.tasks (fun t => decide (5 ≤ t.kind)) ++
    ((a.p.tasks.filter fun t => usesDesc t && (taskDesc a.p t).opcode = 0x1C && decide (0xE ≤ (taskDesc a.p t).attr)).map
      fun t => (tbDesc, t.desc))

def badTerms (a : Adm) : List (Nat × Nat) := breaks tbLayer a.p.layers fun l => decide (2 ^ 32 < l.maxTerms)

def mxSplit (a : Adm) : List (Nat × Nat) :=
  breaks tbLayer a.p.layers fun l => fmtMx l.outFmt && !(mxWhole l.tileInner0 l.inner && mxWhole l.tileInner1 l.inner)

def isTwin (t : TaskE) : Bool := t.kind = ktTWIN || t.kind = ktXDIE

/-- Rates that R96 fixes, or bars, for a layer. -/
def ratesBad (l : LayerE) : Bool :=
  if opClassV l.opcode || l.mode = 0 then l.perRate ≠ 7 || l.shadowRate ≠ 31
  else (l.perRate = 7 && l.shadowRate = 31) || (l.perRate ≠ 7 && !opGemm l.opcode) ||
    (l.shadowRate ≠ 31 && decide (0x23 < l.opcode))

/-- A task kind that its layer's row of R96 excludes. -/
def kindBad (l : LayerE) (t : TaskE) : Bool :=
  if t.kind = ktXTEST then false
  else if opClassV l.opcode then true
  else if l.mode = 0 then !isTwin t
  else isTwin t || (t.kind = ktPERIM && l.perRate = 7) || (t.kind = ktSHADOW && l.shadowRate = 31)

def badMode (a : Adm) : List (Nat × Nat) :=
  breaks tbLayer a.p.layers ratesBad ++ breaks tbTask a.p.tasks fun t => kindBad (planLayer a.p t.layerIdx) t

def countTasks (p : Plan) (i : Nat) (f : TaskE → Bool) : Nat := (p.tasks.filter fun t => t.layerIdx = i && f t).length

def badRate (a : Adm) : List (Nat × Nat) :=
  (a.p.layers.zipIdx.filter fun (l, i) =>
    let n := countTasks a.p i
    !(l.shadowRate = 31 || (4 ≤ l.shadowRate && l.shadowRate ≤ 16)) ||
    (if opClassV l.opcode then false
     else if l.mode = 0 then n isTwin ≠ 1
     else (l.perRate ≠ 7 && n (fun t => t.kind = ktPERIM) ≠ ceilDiv l.tiles (2 ^ l.perRate)) ||
       (l.shadowRate ≠ 31 && n (fun t => t.kind = ktSHADOW && t.succ = 0x7FFF) ≠ ceilDiv l.tiles (2 ^ l.shadowRate)))).map
    fun x => (tbLayer, x.2)

def overlap (a b : Nat × Nat) : Bool := a.1 < b.1 + b.2 && b.1 < a.1 + a.2

/-- Slots held by a resident plan or by an erasure that has not freed them, and slots withheld from service. -/
def heldRanges (s : State) : List (Nat × Nat) :=
  ((residents s).flatMap fun x => x.2.ranges.map fun r => (r.base, r.count)) ++ (s.mem.erasures.flatMap fun e => e.ranges) ++
    s.mem.withheld.map fun x => (x, 1)

def slotRange (a : Adm) : List (Nat × Nat) :=
  let held := heldRanges a.s
  (a.p.ranges.zipIdx.filter fun (r, i) =>
    decide (planStore < r.base + r.count) || held.any (overlap (r.base, r.count)) ||
      (a.p.ranges.take i).any fun q => overlap (r.base, r.count) (q.base, q.count)).map fun x => (tbSlot, x.2)

/-- The run of slots that all instances of an input group take. -/
def groupRun (p : Plan) (g : GroupE) : Nat × Nat := (g.slot, ringDepth p.hdr * g.cnt)

def ruleAllowed (kind acc : Nat) : Bool :=
  if kind = ktTWIN ∨ kind = ktXDIE then acc = 1
  else if kind = ktPERIM then acc = 0 || acc = 2
  else acc = 0

def slotGroup (a : Adm) : List (Nat × Nat) :=
  let runs := a.p.tasks.zipIdx.flatMap fun (t, i) => t.inputs.map fun g => (i, groupRun a.p g)
  let clash (k : Nat) (r : Nat × Nat × Nat) : Bool := (runs.take k).any fun q => overlap q.2 r.2
  let bad := (runs.zipIdx.filter fun (r, k) => clash k r).map (·.1.1)
  (a.p.tasks.zipIdx.filter fun (t, i) =>
    (t.kind ≠ ktSHADOW && t.inputs.length ≠ 2) || bad.contains i ||
      t.inputs.any fun g => match rangeOf a.p g.slot with
        | none => true
        | some r => decide (r.base + r.count < g.slot + ringDepth a.p.hdr * g.cnt) || !ruleAllowed t.kind r.acc).map
    fun x => (tbTask, x.2)

/-- Quotas of resident plans, and of those whose erasure has not ended. -/
def quotaUsed (s : State) : Nat :=
  ((residents s).map fun x => x.2.hdr.quota).sum + (s.mem.erasures.map (·.quota)).sum

def ledgerQuota (a : Adm) : List (Nat × Nat) :=
  headerIf (decide (a.p.hdr.quota < a.p.hdr.tasks * ringDepth a.p.hdr) || decide (16384 < quotaUsed a.s + a.p.hdr.quota))

def pipesOf (t : TaskE) : Nat × Nat := (t.engine / 8 % 8, t.engine % 8)

def badEngine (a : Adm) : List (Nat × Nat) :=
  breaks tbTask a.p.tasks fun t =>
    if t.kind = ktSHADOW then decide (64 ≤ t.engine)
    else if t.kind = ktPERIM then decide (64 ≤ t.engine) || (pipesOf t).1 = (pipesOf t).2
    else t.engine ≠ 0

def sideOf (p : Plan) (t : TaskE) (k : Nat) : List PairE := (taskPairs p t).filter fun e => e.side = k

def pairBad (a : Adm) (t : TaskE) : Bool :=
  let s0 := sideOf a.p t 0
  let s1 := sideOf a.p t 1
  let own := dieNat a.s
  let dies := dedup (s1.map (·.die))
  decide (a.p.pairs.length < t.pair + t.pairCount) || s0.isEmpty || (t.kind ≠ ktSHADOW && s1.isEmpty) ||
    (s0.any fun x => s1.any fun y => x.huid = y.huid && x.die = y.die) ||
    (t.kind = ktXTEST && t.pairCount ≠ 2) ||
    (t.kind = ktXDIE && (dies.length ≠ 1 || dies.contains own ||
      !(dies.all fun d => bit a.s.cfg.topo.present d))) ||
    (taskPairs a.p t).any fun e => huidClass e.huid ≠ ucCORE ||
      (if t.kind = ktXDIE && e.side = 1 then false else e.die ≠ own || !a.p.roster.contains e.huid)

def badPair (a : Adm) : List (Nat × Nat) := breaks tbTask a.p.tasks (pairBad a)

/-- The label has a physical core: one in service, or one whose swap is still awaited (R421). -/
def labelServed (s : State) (h : Huid) : Bool := s.ym.fencing.contains h || coreServes s (physOf s h)

/-- A label that a roster may name: a present core's, not a spare label (R270), and served. -/
def rosterLabel (s : State) (h : Huid) : Bool :=
  corePresent s h && labelServed s h && match sectorT s (huidSector h) with
    | some t => !(spareLabels t).contains (huidIndex h)
    | none => false

def badRoster (a : Adm) : List (Nat × Nat) :=
  (a.p.roster.zipIdx.filter fun (h, i) => !rosterLabel a.s h || (a.p.roster.take i).contains h).map fun x => (tbRoster, x.2)

def modelOf (s : State) (h : Huid) : Option ModelT :=
  match sectorT s (huidSector h) with
  | some t => s.cfg.topo.models[t.model]?
  | none => none

/-- A model's declared subset holds a format (R517). -/
def modelFmt (m : ModelT) (f : Nat) : Bool := bit m.fmts (fmtCode f + (if fmtMx f then 16 else 0))

def subsetOk (m : ModelT) (l : LayerE) : Bool :=
  bit m.ops l.opcode && modelFmt m l.outFmt && modelFmt m l.inA && (!opHasB l.opcode || modelFmt m l.inB)

def badSubset (a : Adm) : List (Nat × Nat) :=
  breaks tbRoster a.p.roster fun h => match modelOf a.s h with
    | some m => !(a.p.layers.all (subsetOk m))
    | none => true

def edgeSrc (a : Adm) : List (Nat × Nat) :=
  breaks tbEdge a.p.edges fun e => e.srcCtx = a.ctx || match planOf a.s e.srcCtx with
    | some (_, q) => decide (q.hdr.layers ≤ e.srcLayer)
    | none => true

/-- Nodes that no edge enters take their edges away; a graph is acyclic when all edges go. -/
def peel : Nat → List (Nat × Nat) → List (Nat × Nat)
  | 0, es => es
  | n + 1, es => peel n (es.filter fun e => es.any fun f => f.2 = e.1)

def acyclic (es : List (Nat × Nat)) : Bool := (peel (es.length + 1) es).isEmpty

/-- The resident plans and the new one, numbered 64. -/
def unionPlans (a : Adm) : List (Nat × Plan) := residents a.s ++ [(64, a.p)]

/-- Edges of the release graph into a layer of plan `n` (R97). -/
def releaseEdges (ps : List (Nat × Plan)) : List (Nat × Nat) :=
  ps.flatMap fun (n, p) =>
    ((List.range (p.hdr.layers - 1)).map fun i => (n * 4096 + i, n * 4096 + i + 1)) ++
      (p.edges.filter fun e => e.lag = 0).flatMap fun e =>
        (ps.filter fun (_, q) => q.hdr.ctx = e.srcCtx && decide (e.srcLayer < q.hdr.layers)).map fun (m, _) =>
          (m * 4096 + e.srcLayer, n * 4096 + e.dstLayer)

def edgeCycle (a : Adm) : List (Nat × Nat) :=
  if acyclic (releaseEdges (unionPlans a)) then [] else [(tbEdge, 0)]

/-- The cluster send graph (R97). -/
def sendEdges (ps : List (Nat × Plan)) : List (Nat × Nat) :=
  dedup (ps.flatMap fun (_, p) => (p.tasks.filter fun t => t.kind = ktSHADOW && t.succ ≠ 0x7FFF).filterMap fun t =>
    let c := t.engine / 4
    let d := (planTask p t.succ).engine / 4
    if c = d then none else some (c, d))

def sendCycle (a : Adm) : List (Nat × Nat) := if acyclic (sendEdges (unionPlans a)) then [] else [(tbTask, 0)]

def badWindow (a : Adm) : List (Nat × Nat) :=
  let h := a.p.hdr
  headerIf (h.holdWindow = 0 || decide (64 < h.holdWindow) || h.stepTimeout = 0 || decide (4000000 < h.stepTimeout))

/-- PART tasks of a FINAL. -/
def partsOf (p : Plan) (i : Nat) : List TaskE := p.tasks.filter fun t => t.kind = ktSHADOW && t.succ = i

/-- Output elements of the largest tile. -/
def maxTile (d : Desc) : Nat := ((List.range 4).map fun i => min (tExt d i) (lExt d i)).prod

/-- Rule 7 of R177. -/
def roleOk (p : Plan) (i : Nat) (t : TaskE) (d : Desc) : Bool :=
  if t.kind = ktXTEST then d.role = roleFULL
  else if d.role = roleFULL then t.succ = 0x7FFF && (partsOf p i).isEmpty
  else if d.role = rolePART then
    let u := planTask p t.succ
    t.succ ≠ 0x7FFF && d.opcode ≤ 7 && t.tile0 = u.tile0 && t.tileStep = u.tileStep && u.kind = ktSHADOW &&
      (taskDesc p u).role = roleFINAL && maxTile d ≤ 1024
  else
    let parts := (partsOf p i).map (taskDesc p)
    let biased := (parts.filter fun q => q.attr % 2 = 1).length
    t.succ = 0x7FFF && parts.length = d.preds && (parts.all fun q => q.role = rolePART) && maxTile d ≤ 1024 &&
      (d.opcode ≠ 2 || d.attr % 2 = 1) && biased = d.attr % 2 &&
      (!(fmtMx d.fmtA || fmtMx d.fmtB) || (parts.filter fun q => q.k % 32 ≠ 0).length ≤ 1)

/-- Rule 8 of R177. -/
def groupsHold (t : TaskE) (d : Desc) : Bool :=
  if t.kind = ktXTEST then t.inputs.length = 2 && t.inputs.all fun g => decide (d.outBytes ≤ 2048 * g.cnt)
  else
    let need := largestSizes d
    t.inputs.length = need.length && (t.inputs.zip need).all fun (g, n) => decide (n ≤ 2048 * g.cnt)

def descOk (p : Plan) (i : Nat) (t : TaskE) : Bool :=
  let raw := p.descs.getD t.desc 0
  let d := parseDesc raw
  let l := planLayer p t.layerIdx
  descRangesOk raw d && d.opcode ≤ (if t.kind = ktSHADOW then 0x23 else 0x25) && descFmtsOk d &&
    (t.kind ≠ ktSHADOW || (descAgrees d l && descFits d l)) && descWholeRow d && roleOk p i t d && groupsHold t d

def badDesc (a : Adm) : List (Nat × Nat) :=
  (a.p.tasks.zipIdx.filter fun (t, i) => usesDesc t && !descOk a.p i t).map fun x => (tbDesc, x.1.desc)

/-- The plan needs K_X: it holds a PERIM or XTEST task. -/
def needsKx (p : Plan) : Bool := p.tasks.any fun t => t.kind = ktPERIM || t.kind = ktXTEST

def badKey (a : Adm) : List (Nat × Nat) :=
  headerIf (decide (0xDF < a.p.hdr.keyId) || !hasKey a.s a.p.hdr.keyId || (needsKx a.p && !hasKey a.s 0xFE))

def badSalt (a : Adm) : List (Nat × Nat) :=
  (a.p.layers.zipIdx.filter fun (l, i) => decide (0xE0000000 ≤ l.salt) ||
    (a.p.layers.take i).any fun q => q.layer = l.layer || q.salt = l.salt).map fun x => (tbLayer, x.2)

/-- The rules in the order of R95. -/
def admissionRules : List (Adm → List (Nat × Nat)) :=
  [badMagic, badCrc, badSize, ctxBusy, badFormat, badOpcode, badTerms, mxSplit, badMode, badRate, slotRange, slotGroup,
   ledgerQuota, badEngine, badPair, badRoster, badSubset, edgeSrc, edgeCycle, sendCycle, badWindow, badDesc, badKey,
   badSalt]

/-- Code, table and index of the first rule that fails; none: ADMITTED. -/
def firstFailure (a : Adm) : Nat → List (Adm → List (Nat × Nat)) → Option (Nat × Nat × Nat)
  | _, [] => none
  | n, r :: rest => match r a with
    | [] => firstFailure a (n + 1) rest
    | (t, i) :: _ => some (n, t, i)

def admissionResult (a : Adm) : Option (Nat × Nat × Nat) := firstFailure a 1 admissionRules

/-! ### Separation and sparseness (R122, R123, R166, R191) -/

/-- Separation of a task's sides: 0 CORE, 1 SECTOR, 2 DIE. -/
def separation (p : Plan) (t : TaskE) : Nat :=
  let s0 := sideOf p t 0
  let s1 := sideOf p t 1
  if !(s0.any fun x => s1.any fun y => x.die = y.die) then 2
  else if s0.any fun x => s1.any fun y => x.die = y.die && huidSector x.huid = huidSector y.huid then 0
  else 1

def layerCounts (s : State) (p : Plan) (i : Nat) (l : LayerE) : LayerCounts :=
  let ts := p.tasks.filter fun t => t.layerIdx = i
  let seps := (ts.filter fun t => isTwin t || t.kind = ktPERIM).map (separation p)
  { sep := seps.foldl min 3
    weakSep := ts.any fun t => isTwin t && separation p t < fld s.expert.twcConfig 1 0
    sparsePer := l.perRate ≠ 7 && fld s.expert.perConfig 2 0 < l.perRate
    sparseShadow := l.shadowRate ≠ 31 && fld s.expert.saConfig 4 0 < l.shadowRate
    unchecked := false, released := 0, nonpass := 0, excTiles := 0, replays := 0, failCore := 0, failChecker := 0,
    inputSuspect := 0, unresolved := 0, waived := 0 }

end Sys2Proof.Machine
end

