-- ==== Sys2Proof/Machine/Ledger.lean ====
section
/-!
DEFINITION. The Ledger: halting (R111), the hold window (R106, R112), fire tokens and their engines (R104, R162, R181,
R195), attempts (R109), and the end of a plan (R114 to R117).
-/
namespace Sys2Proof.Machine

/-! ### Halting -/

/-- A context enters HALTED; the fault is reported once, with the sender's HUID (R111). -/
def haltWith (c kind : Nat) (sender : Huid) (s : State) : State :=
  if (ctxOf s c).halted ∨ (ctxOf s c).plan.isNone then s else
  reportUnit uCAP kind 0 (some c) (if huidClass sender = ucCORE then physOf s sender else sender)
    (s.mCtx c fun x => { x with halted := true })

/-- A context enters HALTED without a report of its own. -/
def haltQuiet (c : Nat) (s : State) : State :=
  if (ctxOf s c).plan.isNone then s else s.mCtx c fun x => { x with halted := true }

/-! ### Window -/

/-- A record reached a step: the step exists from now on, and the window may be full (R112). -/
def noteStep (c : Nat) (e : Bool) (n : Nat) (s : State) : State :=
  let s := s.mStep c e n id
  match planOfEpoch s c e with
  | none => s
  | some (_, p) =>
    if (ctxOf s c).epoch = e ∧ n + 1 = (ctxOf s c).base + p.hdr.holdWindow ∧ (ctxOf s c).fullSince.isNone then
      bumpCtx 8 8 c 1 (s.mCtx c fun x => { x with fullSince := some s.now.toNat })
    else s

/-- The window is no longer full, or stays so after its base moved. -/
def windowMoved (c : Nat) (s : State) : State :=
  match (ctxOf s c).fullSince with
  | none => s
  | some t => bumpCtx 9 9 c (s.now.toNat - t) (s.mCtx c fun x => { x with fullSince := none })

/-! ### Lanes -/

/-- A lane that is not fenced, whatever its cluster's power. -/
def laneSound (s : State) (l : Nat) : Bool := (laneOf s l).inService && !(laneOf s l).fenced

/-- Lane in service: sound, and in a cluster that is on or powers up (R442). -/
def laneUp (s : State) (l : Nat) : Bool :=
  laneSound s l && (domainOf s (l / 4) = .on || domainOf s (l / 4) = .poweringUp)

/-- The lowest-numbered cluster that is off, is not failed and has a sound lane: TS powers it up when a task finds no
lane in service (R442). -/
def sleepingLane (s : State) (l role : Nat) : Option Nat :=
  ((if role = roleFULL then List.range 16 else [l / 4]).filter fun k =>
    domainOf s k ≠ .on && domainOf s k ≠ .poweringUp && !domainFailed s k).findSome? fun k =>
      (range' (4 * k) 4).find? (laneSound s)

/-- Silorn's own node is at LIMIT (R448). -/
def siliconHot (s : State) : Bool := 2 ≤ ((s.ts.nodes[64]?).map (·.level)).getD 0

/-- Lane that takes a token: at LIMIT only lanes L0 and L2 of a cluster do. -/
def coolLane (s : State) (l : Nat) : Nat :=
  if siliconHot s ∧ l % 2 = 1 ∧ laneUp s (l - 1) then l - 1 else l

/-- Lane on which a task named for lane `l` runs (R195); none: NO_LANE. -/
def laneFor (s : State) (l role : Nat) : Option Nat :=
  if laneUp s l then some l else
  let own := (range' (l / 4 * 4) 4).find? (laneUp s)
  match own with
  | some k => some k
  | none =>
    if role ≠ roleFULL then none else
    match ((range' 1 15).map fun k => (l / 4 + k) % 16 * 4 + l % 4).find? (laneUp s) with
    | some k => some k
    | none => (List.range 64).find? (laneUp s)

/-- Lane that takes a token named for lane `l`; a cluster that is off only under gating is powered up for it (R195,
R442). -/
def takeLane (l role : Nat) (s : State) : Option Nat × State :=
  match laneFor s l role with
  | some m => (some (coolLane s m), s)
  | none => match sleepingLane s l role with
    | some m => (some m, requestDomain (m / 4) s)
    | none => (none, s)

/-- Put a token into a lane's queue of 32, or hold it back (R181). -/
def laneEnqueue (lane : Nat) (t : Token) (s : State) : State :=
  if (laneOf s lane).queue.length < 32 ∧ ¬ (s.led.held.any fun h => h.1 = lane) then
    s.mLane lane fun x => { x with queue := x.queue ++ [t] }
  else s.mLed fun l => { l with held := l.held ++ [(lane, t)] }

/-- A FINAL that its chain makes ready goes to the head of the lane's queue (R181). -/
def laneEnqueueFirst (lane : Nat) (t : Token) (s : State) : State :=
  if (laneOf s lane).queue.length < 32 then s.mLane lane fun x => { x with queue := t :: x.queue }
  else s.mLed fun l => { l with held := (lane, t) :: l.held }

/-- Registers of a cluster's last outcome other than MATCH and DELIVERED (R197). -/
def ccLast (lane : Nat) (t : Token) (outcome tile : Nat) (checker : Bool) (s : State) : State :=
  s.mCluster (lane / 4) fun x => { x with
    lastDiff := word [put 63 52 t.ctx, put 51 51 t.epoch.toNat, put 50 49 t.attempt, put 48 46 outcome, put 45 31 t.task,
      put 30 29 (lane % 4), put 28 28 checker.toNat, 1]
    lastStep := word [put 63 32 tile, put 31 0 t.step] }

/-- A task has no engine in service: a dispute of cause NO_CHECKER (R164, R195, R232). -/
def noChecker (t : Token) (outcome : Nat) (s : State) : State :=
  openDispute { Dispute.mk' t.ctx t.epoch t.attempt t.step t.task dNOCHECKER with outcome := outcome } s

/-- A PART without a lane leaves its FINAL without one (R195). -/
def noLane (p : Plan) (t : Token) (s : State) : State :=
  let k := planTask p t.task
  let s := noChecker t 5 (ccLast k.engine t 5 (taskTile p k (roundOfStep p t.step)) false s)
  if k.succ = 0x7FFF then s else noChecker { t with task := k.succ } 5 s

/-! ### Fire tokens (R104) -/

def tokenOf (i : Inst) (attempt : Nat) : Token :=
  { ctx := i.ctx, epoch := i.epoch, attempt := attempt, step := i.step, task := i.task, reruns := 0, redispatched := false }

/-- Hand a token to the engine that its task names. -/
def dispatchToken (p : Plan) (t : Token) (s : State) : State :=
  let k := planTask p t.task
  if k.kind = ktPERIM then
    s.mPer fun x => { x with queue := x.queue ++ [(t, (pipesOf k).1, (pipesOf k).2)] }
  else if k.kind = ktSHADOW then
    match takeLane k.engine (taskDesc p k).role s with
    | (some l, s) =>
      let s := if l = k.engine then s else bumpCtx 200 42 t.ctx 1 s
      if (taskDesc p k).role = roleFINAL then laneEnqueueFirst l t s else laneEnqueue l t s
    | (none, s) => noLane p t s
  else s.mTwc fun x => { x with queue := x.queue ++ [t] }

/-- Tasks of an epoch may fire: it is the current one, and no cluster still reconfigures for it (R114). -/
def mayFire (s : State) (c : Nat) (e : Bool) : Bool :=
  (ctxOf s c).epoch = e && !(ctxOf s c).halted &&
    match (ctxOf s c).switch with
    | some w => !w.flipped
    | none => true

def instFull (i : Inst) : Bool := i.groups.all (·.full)

/-- Fire an instance whose groups are all full, once (R104). -/
def tryFire (c : Nat) (e : Bool) (n t : Nat) (s : State) : State :=
  match instOf s c e n t, planOfEpoch s c e with
  | some i, some (_, p) =>
    if i.fired ∨ ¬ instFull i ∨ ¬ mayFire s c e then s else
    let s := s.mInst c e n t fun x => { x with fired := true }
    dispatchToken p (tokenOf i (attemptOf s c e n)) (traceStep 2 c t (bumpCtx 0 0 c 1 s))
  | _, _ => s

/-- Fire every instance of a context that is full and has not fired (R114 step 7). -/
def fireAll (c : Nat) (s : State) : State :=
  (s.led.insts.filter fun i => i.ctx = c).foldl (fun s i => tryFire c i.epoch i.step i.task s) s

/-- A token is current: its epoch is live and its attempt is the step's (R104). 0 current, 1 stale epoch, 2 stale
attempt. -/
def tokenStale (s : State) (t : Token) : Nat :=
  match planOfEpoch s t.ctx t.epoch with
  | none => 1
  | some _ =>
    if (ctxOf s t.ctx).epoch ≠ t.epoch then 1
    else match instOf s t.ctx t.epoch t.step t.task with
      | none => 2
      | some _ => if attemptOf s t.ctx t.epoch t.step = t.attempt then 0 else 2

def countStale (t : Token) (k : Nat) (s : State) : State :=
  if k = 1 then bumpCtx 3 3 t.ctx 1 s else if k = 2 then bumpCtx 4 4 t.ctx 1 s else s

/-- A token that returned PASS. -/
def taskPassed (t : Token) (s : State) : State := s.mInst t.ctx t.epoch t.step t.task fun i => { i with passed := true }

/-! ### Slots of instances -/

def planTaskOf (s : State) (c : Nat) (e : Bool) (t : Nat) : Option (Plan × TaskE) :=
  (planOfEpoch s c e).map fun x => (x.2, planTask x.2 t)

/-- Slot ranges of an instance. -/
def slotsOfInst (s : State) (i : Inst) : List (Nat × Nat) :=
  match planTaskOf s i.ctx i.epoch i.task with
  | some (p, k) => instSlots p k (roundOfStep p i.step)
  | none => []

def instIdent (s : State) (i : Inst) : Ident :=
  { ctx := i.ctx, epoch := i.epoch, step := i.step, attempt := attemptOf s i.ctx i.epoch i.step }

/-- Free an instance and empty its slots. -/
def dropInst (i : Inst) (s : State) : State :=
  let s := eachSlot tagClearOp (slotsOfInst s i) s
  s.mLed fun l => { l with insts := l.insts.filter fun x => !isInst i.ctx i.epoch i.step i.task x }

def stepInsts (s : State) (c : Nat) (e : Bool) (n : Nat) : List Inst :=
  s.led.insts.filter fun i => i.ctx = c && i.epoch = e && i.step = n

def isXtest (s : State) (i : Inst) : Bool :=
  match planTaskOf s i.ctx i.epoch i.task with
  | some (_, k) => k.kind = ktXTEST
  | none => false

/-! ### Attempts (R109) -/

/-- Raise the attempt of a step and return its groups, its instances and its STEP_DONE count to their initial state. -/
def raiseAttempt (c : Nat) (e : Bool) (n : Nat) (s : State) : State :=
  let is := (stepInsts s c e n).filter fun i => !isXtest s i
  let s := is.foldl (fun s i => eachSlot tagClearOp (slotsOfInst s i) s) s
  let s := is.foldl (fun s i => s.mInst c e n i.task fun x =>
    { Inst.fresh c e n i.task x.groups.length with checkerRounds := x.checkerRounds }) s
  s.mStep c e n fun x => { x with
    attempt := x.attempt + 1, doneCount := 0, doneBy := [], graceOver := false, marked := false, firstRec := s.now.toNat
    residueCore := if x.marked ∧ x.markedBy ≠ 0xFFFF then some x.markedBy else x.residueCore }

/-! ### Plan counts of the attestation report -/

def State.mPlan (n : Nat) (f : Plan → Plan) (s : State) : State := s.mLed fun l => { l with plans := Tab.mod l.plans n f }

/-- Change the layer counts of a step's layer. -/
def mLayerCounts (c : Nat) (e : Bool) (step : Nat) (f : LayerCounts → LayerCounts) (s : State) : State :=
  match planOfEpoch s c e with
  | some (n, p) => s.mPlan n fun q => { q with counts := q.counts.modify (layerOfStep p step) f }
  | none => s

/-! ### Release edges and orphans (R91, R117) -/

/-- The source step of a release edge for a destination step, when the edge is present. -/
def edgeSource (p q : Plan) (e : EdgeE) (step : Nat) : Option Nat :=
  let r := roundOfStep p step
  if e.dstLayer ≠ layerOfStep p step ∨ r < e.lag then none else some ((r - e.lag) * q.hdr.layers + e.srcLayer)

/-- A release edge into a step is satisfied: its source step has been released. -/
def edgeReleased (s : State) (c : Nat) (p : Plan) (step : Nat) (e : EdgeE) : Bool :=
  if e.dstLayer ≠ layerOfStep p step ∨ roundOfStep p step < e.lag then true
  else if s.led.orphans.contains (c, e.srcCtx) then false
  else match planOf s e.srcCtx with
    | none => false
    | some (_, q) => match edgeSource p q e step with
      | none => true
      | some n => decide (n < (ctxOf s e.srcCtx).base)

/-- Contexts with a started step that waits on an unreleased step of `c`. -/
def waitingOn (s : State) (c : Nat) : List Nat :=
  (waitsOn s c).filter fun d =>
    match planOf s d with
    | none => false
    | some (_, p) => s.led.steps.any fun x => x.ctx = d && x.epoch = p.epoch &&
        (p.edges.any fun e => e.srcCtx = c && !edgeReleased s d p x.step e)

/-- EDGE_ORPHAN for every context that waits on a step of `c` (R117). -/
def reportOrphans (c : Nat) (s : State) : State :=
  (waitingOn s c).foldl (fun s d =>
    if s.led.orphans.contains (d, c) then s else
    reportSelf uLED 0 0x34 c (some d) (s.mLed fun l => { l with orphans := l.orphans ++ [(d, c)] })) s

/-! ### The end of a plan -/

/-- Clusters that a plan's SHADOW tasks name. -/
def planClusters (p : Plan) : List Nat :=
  dedup ((p.tasks.filter fun t => t.kind = ktSHADOW).map fun t => t.engine / 4)

/-- Drop what the Ledger, TWC and VU hold for an epoch of a context. -/
def dropEpoch (c : Nat) (e : Bool) (s : State) : State :=
  let mine (x : Nat) (f : Bool) : Bool := x = c && f = e
  let s := s.mLed fun l => { l with
    steps := l.steps.filter fun x => !mine x.ctx x.epoch
    insts := l.insts.filter fun x => !mine x.ctx x.epoch
    deferred := l.deferred.filter fun p => !mine (steerOf p).ctx (steerOf p).epoch }
  let s := s.mTwc fun t => { t with xhold := t.xhold.filter fun x =>
    !(fld x.2.ext 191 180 = c && bit x.2.ext 179 = e) }
  s.mVu fun v => { v with
    procs := v.procs.filter fun p => !mine p.d.ctx p.d.epoch
    waiting := v.waiting.filter fun d => !mine d.ctx d.epoch
    xwaits := v.xwaits.filter fun d => !mine d.ctx d.epoch
    replays := v.replays.filter fun r => !mine r.ctx r.epoch }

/-- The counter block of a plan number moves to another, or is cleared (R485). -/
def moveBlock (src : Nat) (dst : Option Nat) (s : State) : State :=
  let move (t : Tab Nat) : Tab Nat :=
    let mine := t.filter fun x => x.1 / 64 = src
    let rest := t.filter fun x => x.1 / 64 ≠ src
    match dst with
    | none => rest
    | some n => mine.foldl (fun r x => Tab.set r (n * 64 + x.1 % 64) x.2) (rest.filter fun x => x.1 / 64 ≠ n)
  s.mOb fun o => { o with ctxActive := move o.ctxActive, ctxCompleted := move o.ctxCompleted }

/-- Give up a plan: its number leaves the resident plans and its erasure starts (R218). -/
def giveUpPlan (c n : Nat) (p : Plan) (kill : Bool) (s : State) : State :=
  let s := dropEpoch c p.epoch s
  startErasure c n p kill (s.mLed fun l => { l with plans := Tab.del l.plans n,
                                                    orphans := l.orphans.filter fun o => o.1 ≠ c })

/-- Every started step of the old epoch has been released (R114 step 4). -/
def drained (s : State) (c : Nat) : Bool :=
  !s.led.steps.any fun x => x.ctx = c && x.epoch = (ctxOf s c).epoch

/-- A token binding to a context ends when its plan is replaced (R464, R478). -/
def unbind (c : Nat) (s : State) : State := if s.sec.bound = some c then s.mSec fun x => { x with bound := none } else s

/-- Steps 5 to 8 of R114 and the end of R116: the epoch flips, the clusters that either plan names begin to
reconfigure, the old plan's erasure starts. -/
def flipEpoch (c : Nat) (w : Switch) (s : State) : State :=
  match planOf s c with
  | none => s
  | some (n, p) =>
    let new := match w.next with
      | some m => (planAt s m).map fun q => (m, q)
      | none => none
    let cl := dedup (planClusters p ++ (new.map fun x => planClusters x.2).getD [])
    let s := moveBlock n (new.map (·.1)) (windowMoved c s)
    let s := giveUpPlan c n p false s
    let s := if new.isNone then s.mLed fun l => { l with retired := Tab.set l.retired c p } else unbind c s
    let s := s.mCtx c fun x => { x with
      plan := new.map (·.1), epoch := !x.epoch, halted := false, base := 0, fullSince := none,
      switch := if cl.isEmpty then none else some { w with next := none, flipped := true, clusters := cl } }
    fireAll c s

/-- Commands PLAN_EPOCH_FLIP. -/
def planEpochFlip (c : Nat) (s : State) : State :=
  match (ctxOf s c).switch with
  | some w => if w.flipped ∨ ¬ (w.discard ∨ drained s c) then s else flipEpoch c w s
  | none => s

def execPlanEpochFlip (ctx : Ctx) (s : State) : Host.Outcome State Fault Refusal :=
  .next (if partDown s then s else planEpochFlip ctx.toNat s)

/-- A token or push of a context's old epoch. -/
def oldToken (s : State) (c : Nat) (t : Token) : Bool := t.ctx = c && t.epoch ≠ (ctxOf s c).epoch

/-- A cluster's part of R115 and R196, when no lane of it still executes a task of the context's old epoch. -/
def clusterReconfig (c k : Nat) (s : State) : State :=
  match (ctxOf s c).switch with
  | none => s
  | some w =>
    let lanes := range' (k * 4) 4
    let busy := lanes.any fun l => match (laneOf s l).run with
      | some r => oldToken s c r.tok
      | none => false
    if ¬ w.flipped ∨ ¬ w.clusters.contains k ∨ busy then s else
    let old (t : Token) : Bool := oldToken s c t
    let n := (lanes.map fun l => ((laneOf s l).queue.filter old).length).sum +
      (s.led.held.filter fun h => lanes.contains h.1 && old h.2).length
    let pushes := ((s.sa.clusters.getD k Cluster.reset).inq.filter fun m => m.ctx = c && m.epoch ≠ (ctxOf s c).epoch).length
    let epoch := (ctxOf s c).epoch
    let s := bumpCtx 3 3 c (n + pushes) s
    let s := lanes.foldl (fun s l => s.mLane l fun x => { x with queue := x.queue.filter fun t => !old t }) s
    let s := s.mLed fun l => { l with held := l.held.filter fun h => !(lanes.contains h.1 && old h.2) }
    let descs := match planOf s c with
      | some (m, p) => dedup ((p.tasks.filter fun t => t.kind = ktSHADOW && t.engine / 4 = k).map fun t => (m, t.desc))
      | none => []
    let s := s.mCluster k fun x => { x with
      inq := x.inq.filter fun m => !(m.ctx = c && m.epoch ≠ epoch)
      cache := (descs ++ x.cache.filter fun e => (planAt s e.1).isSome && !descs.contains e).take 256 }
    let left := w.clusters.filter (· ≠ k)
    let s := s.mCtx c fun x => { x with switch := if left.isEmpty then none else some { w with clusters := left } }
    if left.isEmpty then fireAll c s else s

def execClusterReconfig (ctx : Ctx) (cluster : BitVec 4) (s : State) : Host.Outcome State Fault Refusal :=
  .next (clusterReconfig ctx.toNat cluster.toNat s)

/-- A DRAIN switch or RETIRE turns into DISCARD (R116). -/
def drainToDiscard (c : Nat) (s : State) : State :=
  match (ctxOf s c).switch with
  | some w => if w.flipped ∨ w.discard then s else reportOrphans c (s.mCtx c fun x => { x with switch := some { w with discard := true } })
  | none => s

/-! ### Plan Store pages and replies -/

def pageFree (s : State) (p : Nat) : Bool :=
  !tagAlloc (tagOf s (planStore + p)) && !s.mem.withheld.contains (planStore + p)

def freePageList (s : State) : List Nat := (List.range 2048).filter (pageFree s)

/-- PLAN REPLY: READY 0, BUSY 1 or ADMIT 2 (R512). -/
def planReply (port : Nat) (dst : Huid) (kind plan c code : Nat) (s : State) : State :=
  send port 0x06 3 dst [word [put 63 62 kind, put 25 20 plan, put 19 8 c, put 7 0 code]] [] s

def ledAdmit (code c plan table index : Nat) (s : State) : State :=
  s.mLed fun l => { l with admitReg := word [put 63 56 code, put 55 44 c, put 43 38 plan, put 37 35 table, put 34 20 index, 1] }

def acADMITTED := 0
def acCTX_BUSY := 4

/-- Abandon the staged plan and free its pages. -/
def dropStaging (s : State) : State :=
  match s.led.staging with
  | some t => freePages t.pages (s.mLed fun l => { l with staging := none })
  | none => s

/-- Kill every plan of a context, resident or staging (R218, R325). -/
def killPlans (c : Nat) (s : State) : State :=
  let s := if (s.led.staging.map fun t => decide (t.ctx = c)) = some true then dropStaging s else s
  let s := reportOrphans c s
  let s := match standbyOf s c with
    | some (n, p) => giveUpPlan c n p true s
    | none => s
  match planOf s c with
  | none => s.mCtx c fun x => { x with switch := none }
  | some (n, p) =>
    let s := giveUpPlan c n p true (moveBlock n none s)
    (s.mLed fun l => { l with retired := Tab.set l.retired c p }).mCtx c fun x =>
      { x with plan := none, epoch := !x.epoch, halted := false, switch := none, base := 0, fullSince := none }

end Sys2Proof.Machine
end

