-- ==== Sys2Proof/Machine/Plans.lean ====
section
/-!
DEFINITION. Loading, admitting and retiring plans: PLAN packets (R93, R94, R117), ADMISSION (R95), OPEN_TIMEOUT.
-/
namespace Sys2Proof.Machine

/-- An ingress packet of a kind and subkind acts by `f`; a packet that R511 bars is counted and reported, and one
that reaches a port while SLN_UP is low is lost. -/
def ingress (kind : Nat) (sub : Option Nat) (p : Ingress) (f : State → State) (s : State) : State :=
  if !s.ports.slnUp then s
  else if !p.ok then badMsg (1 + p.port.toNat) s
  else if p.kind = kind ∧ (sub = none ∨ sub = some p.sub) then f s else s

def isLoader (s : State) (h : Huid) : Bool := h ≠ 0xFFFF && s.cfg.topo.loaders.contains h

/-- A PLAN packet of a subkind: accepted from a job loader only (R93), and discarded while the compute part is
out of service. -/
def planPacket (sub : Nat) (p : Ingress) (f : State → State) (s : State) : State :=
  ingress 0x06 (some sub) p (fun s =>
    if !isLoader s p.src then reportUnit uLED 0x36 p.sub none (if huidClass p.src = ucCORE then physOf s p.src else p.src) s
    else if partDown s then bump 7 1 s else f s) s

/-! ### OPEN and DATA -/

/-- A LOCK policy or stronger is applied (R474). -/
def secLocked (s : State) : Bool := s.sec.applied && 1 ≤ s.sec.policy

/-- LED answers every OPEN with BUSY: until S9 has ended, while a sector Muster runs (R430), and under LOCK. -/
def openBarred (s : State) : Bool :=
  !s.cfg.inService || secLocked s || (s.cfg.muster.scope && 1 ≤ s.cfg.muster.st && s.cfg.muster.st ≤ 4)

def planOpen (p : Ingress) (s : State) : State :=
  let c := fld (p.pre 0) 11 0
  let words := fld (p.pre 0) 29 12
  let need := (words + 255) / 256
  let free := freePageList s
  if ¬ openBarred s ∧ need ≤ free.length ∧ (residents s).length < 64 ∧ s.led.staging.isNone then
    let pages := free.take need
    let s := pages.foldl (fun s g => tagAllocOp (planStore + g) c 0 false s) s
    planReply p.port.toNat p.src 0 0 c 0
      (s.mLed fun l => { l with staging := some { ctx := c, words := words, loader := p.src, port := p.port.toNat,
                                                  pages := pages, got := [] } })
  else planReply p.port.toNat p.src 1 0 c 0 s

def execPlanOpen (p : Ingress) (s : State) : Host.Outcome State Fault Refusal := .next (planPacket 0 p (planOpen p) s)

/-- Loft address of a word of the staged image. -/
def stagedAddr (t : Staging) (w : Nat) : Nat := slotAddr (planStore + t.pages.getD (w / 256) 0) + w % 256 * 8

/-- One word of a DATA packet: stored once, at its offset. -/
def planWord (off : Nat) (v : Bytes) (s : State) : State :=
  match s.led.staging with
  | none => bump 7 1 s
  | some t =>
    if t.words ≤ off ∨ t.got.contains off then bumpCtx 7 7 t.ctx 1 s
    else (loftWrite (stagedAddr t off) v s).mLed fun l => { l with staging := some { t with got := t.got ++ [off] } }

def planData (p : Ingress) (s : State) : State :=
  let off := fld (p.pre 0) 16 0
  let n := min (fld (p.pre 0) 22 17) ((payloadAfter p 8).length / 8)
  (List.range n).foldl (fun s i => planWord (off + i) (slice (payloadAfter p 8) (8 * i) 8) s) s

def execPlanData (p : Ingress) (s : State) : Host.Outcome State Fault Refusal := .next (planPacket 1 p (planData p) s)

def stagingComplete (t : Staging) : Bool := t.got.length = t.words

/-- OPEN_TIMEOUT: an image that is not complete is abandoned. -/
def openTimeout (s : State) : State :=
  match s.led.staging with
  | some t => if stagingComplete t then s else dropStaging s
  | none => s

def execOpenTimeout (s : State) : Host.Outcome State Fault Refusal := .next (openTimeout s)

/-! ### RETIRE (R117) -/

/-- Rank of a switch or retirement among orders on a context (R333). -/
def switchRank (discard : Bool) : Nat := if discard then 2 else 1

def retireAnswer (p : Ingress) (c plan code : Nat) (s : State) : State :=
  planReply p.port.toNat p.src 2 plan c code (ledAdmit code c plan 0 0 s)

/-- A RETIRE takes effect: the switch of R114 with no successor. -/
def startRetire (c : Nat) (discard : Bool) (p : Ingress) (plan : Nat) (s : State) : State :=
  let w : Switch := { discard := discard, next := none, flipped := false, clusters := [],
                      asker := some (p.src, p.port.toNat, plan) }
  let s := s.mCtx c fun x => { x with switch := some w }
  retireAnswer p c plan acADMITTED (if discard then reportOrphans c s else s)

def planRetire (p : Ingress) (s : State) : State :=
  let c := fld (p.pre 0) 11 0
  let discard := bit (p.pre 0) 12
  match planOf s c with
  | none => retireAnswer p c 0 acCTX_BUSY s
  | some (n, _) =>
    if s.ct.kills.any fun k => k.ctx = c then retireAnswer p c n acCTX_BUSY s
    else if !discard && !(waitsOn s c).isEmpty then retireAnswer p c n acCTX_BUSY s
    else match (ctxOf s c).switch with
      | none => startRetire c discard p n s
      | some w =>
        if w.next.isNone ∧ ¬ w.flipped ∧ w.discard = discard then retireAnswer p c n acADMITTED (bump 730 1 s)
        else if switchRank discard ≤ switchRank w.discard then retireAnswer p c n acCTX_BUSY s
        else
          let s := match standbyOf s c with
            | some (m, q) => giveUpPlan c m q false s
            | none => s
          startRetire c discard p n (bump 729 1 s)

def execPlanRetire (p : Ingress) (s : State) : Host.Outcome State Fault Refusal := .next (planPacket 2 p (planRetire p) s)

/-! ### ADMISSION -/

/-- Bytes of the staged image, read from its pages. -/
def stagedImage (s : State) (t : Staging) : Bytes :=
  (t.pages.flatMap fun g => Mem.read s.mem.loft (slotAddr (planStore + g)) 2048).take (8 * t.words)

/-- A KEY packet to a core (R136). -/
def sendKey (label : Huid) (id : Nat) (key : W128) (s : State) : State :=
  sendCore 0x14 0 label [word [put 7 0 id]] (leBytes 16 key.toNat) s

def rejectPlan (t : Staging) (code table index : Nat) (s : State) : State :=
  let s := bumpCtx 10 10 t.ctx 1 (dropStaging s)
  let s := ringPush uLED true 0x01 0 (some t.ctx) code (reportSelf uLED 0 0x30 0 (some t.ctx) s)
  planReply t.port t.loader 2 0 t.ctx code (ledAdmit code t.ctx 0 table index s)

/-- Power domains that a plan needs on (R222, R437): its sheds, PER and the clusters of its SHADOW tasks. -/
def planSheds (p : Plan) : List Nat :=
  dedup (p.ranges.flatMap fun r => dedup [shedOf r.base, shedOf (r.base + r.count - 1)])

def planDomains (p : Plan) : List Nat :=
  (planSheds p).map (16 + ·) ++ (if p.tasks.any fun t => t.kind = ktPERIM then [20] else []) ++ planClusters p

/-- Counters of admission: WEAK_SEP by task, SPARSE by layer. -/
def admitCounters (p : Plan) (c : Nat) (s : State) : State :=
  let weak := (p.tasks.filter fun t => isTwin t && separation p t < fld s.expert.twcConfig 1 0).length
  bumpCtx 68 15 c weak (bumpCtx 136 31 c (p.counts.filter (·.sparsePer)).length
    (bumpCtx 201 43 c (p.counts.filter (·.sparseShadow)).length s))

/-- Admit the staged plan under a number. -/
def admitPlan (t : Staging) (n : Nat) (p : Plan) (img : Bytes) (s : State) : State :=
  let c := t.ctx
  let new := p.hdr.switch = 0
  let epoch := if new then (ctxOf s c).epoch else !(ctxOf s c).epoch
  let p := { p with num := n, pages := t.pages, meas := Config.sha384 img, epoch := epoch, tAdmit := s.now.toNat,
                    counts := p.layers.zipIdx.map (fun (l, i) => layerCounts s p i l),
                    served := p.roster.map (fun l => (l, physOf s l)) }
  let s := s.mLed fun l => { l with staging := none, plans := Tab.set l.plans n p, retired := Tab.del l.retired c }
  let s := if new then unbind c s else s
  let s := eachSlot (fun x s => tagAllocOp x c n epoch s) (p.ranges.map fun r => (r.base, r.count)) s
  let s := if new then moveBlock n none s else s
  let s := s.mCtx c fun x =>
    if new then { x with plan := some n, base := 0, halted := false, fullSince := none, switch := none }
    else { x with switch := some { discard := p.hdr.switch = 2, next := some n, flipped := false, clusters := [],
                                   asker := none } }
  let s := admitCounters p c s
  let s := if p.hdr.switch = 2 then reportOrphans c s else s
  let s := p.roster.foldl (fun s l => sendKey l p.hdr.keyId ((keySlot s p.hdr.keyId).setWidth 128) s) s
  let s := if needsKx p then p.roster.foldl (fun s l => sendKey l 0xFE ((keySlot s 0xFE).setWidth 128) s) s else s
  let s := (planDomains p).foldl (fun s d => requestDomain d s) s
  let s := ringPush uLED true 0x01 0 (some c) (n * 256) s
  planReply t.port t.loader 2 n c acADMITTED (ledAdmit acADMITTED c n 0 0 s)

/-- ADMISSION of a complete image. A plan whose sheds are not on waits for their domains (R222). -/
def admission (s : State) : State :=
  match s.led.staging with
  | none => s
  | some t =>
    if ¬ stagingComplete t ∨ partDown s then s else
    let img := stagedImage s t
    let p := parsePlan img
    match admissionResult { img := img, p := p, ctx := t.ctx, words := t.words, s := s } with
    | some (code, table, index) => rejectPlan t code table index s
    | none =>
      if (planSheds p).any fun n => shedState s n ≠ .on then
        (planSheds p).foldl (fun s n => requestDomain (16 + n) s) s
      else match (List.range 64).find? (planFree s) with
        | some n => admitPlan t n p img s
        | none => s

def execAdmission (s : State) : Host.Outcome State Fault Refusal := .next (admission s)

end Sys2Proof.Machine
end

