-- ==== Sys2Proof/Machine/Capture.lean ====
section
/-!
DEFINITION. The Capture Unit: steering checks (R99), capture states (R100 to R102, R126, R158), and the four record
packets. XDIGEST is sent from here when a group becomes FULL (R133).
-/
namespace Sys2Proof.Machine

/-! ### Steering (R99) -/

/-- What CAP does with a record. -/
inductive SteerSay where
  | take (p : Plan) (step : Nat)
  | drop (counter : Nat)
  | halt (kind : Nat)
  deriving DecidableEq, Repr

def lkNO_PLAN := 2
def lkSTALE_EPOCH := 3
def lkSTALE_ATTEMPT := 4
def lkLATE := 5
def lkHALT := 6

def kindSTEER := 0x31
def kindHOLD := 0x32

/-- Checks of R99 in order, but for the sender, the task and the offset. -/
def steerWindow (s : State) (c : Nat) (e : Bool) (step32 attempt : Nat) : SteerSay :=
  if (ctxOf s c).plan.isNone then .drop lkNO_PLAN
  else if (ctxOf s c).halted then .drop lkHALT
  else match planOfEpoch s c e with
    | none => .drop lkSTALE_EPOCH
    | some (_, p) =>
      let b := baseOf s c e
      withStep (fullStep b step32) (.drop lkLATE) fun n =>
        if n < b then .drop lkLATE
        else if b + p.hdr.holdWindow ≤ n then .halt kindHOLD
        else if attempt < attemptOf s c e n then .drop lkSTALE_ATTEMPT
        else if attemptOf s c e n < attempt then .halt kindSTEER
        else .take p n

/-- A record of a kind may go to an input group of a task. -/
def kindFits (pkt : Nat) (p : Plan) (t : TaskE) (input : Nat) : Bool :=
  let rule := (groupRule p t input).1
  (pkt = 1 && rule = 1 && !(t.kind = ktXDIE && input = 1)) || (pkt = 2 && t.kind = ktPERIM) ||
    (pkt = 3 && rule = 0 && (t.kind = ktSHADOW || t.kind = ktXTEST) &&
      !(t.kind = ktSHADOW && input = 0 && (taskDesc p t).role = roleFINAL))

/-- The last check of R99 for a record of `n` payload bytes. -/
def steerFits (pkt : Nat) (p : Plan) (h : Steer) (step : Nat) (src : Huid) (n : Nat) : Bool :=
  let t := planTask p h.task
  p.roster.contains src && h.task < p.hdr.tasks && t.layerIdx = layerOfStep p step && h.input < t.inputs.length &&
    kindFits pkt p t h.input && (pkt = 1 || h.offset + n ≤ 2048 * groupCnt t h.input)

def steerRecord (pkt : Nat) (s : State) (h : Steer) (src : Huid) (n : Nat) : SteerSay :=
  match steerWindow s h.ctx h.epoch h.step32 h.attempt with
  | .take p step => if steerFits pkt p h step src n then .take p step else .halt kindSTEER
  | r => r

/-- Act on a record: by `f` when it passes every check. -/
def steer (r : SteerSay) (c : Nat) (src : Huid) (f : Plan → Nat → State → State) (s : State) : State :=
  match r with
  | .drop k => bumpCtx k k c 1 s
  | .halt k => haltWith c k src s
  | .take p n => f p n s

/-! ### Instances and slot writes -/

/-- Bind the slots of an instance to it (R206). -/
def bindSlots (c : Nat) (e : Bool) (n : Nat) (p : Plan) (t : TaskE) (s : State) : State :=
  let i : Ident := { ctx := c, epoch := e, step := n % 2 ^ 32, attempt := attemptOf s c e n }
  eachSlot (fun x s => tagBindOp x i s) (instSlots p t (roundOfStep p n)) s

/-- Create the task instance at its first record (R103). -/
def needInst (c : Nat) (e : Bool) (n task : Nat) (p : Plan) (s : State) : State :=
  let s := noteStep c e n s
  match instOf s c e n task with
  | some i =>
    -- after a replay the slots of an instance are bound again by its first record
    if i.groups.all fun g => decide (g.count = 0) && decide (g.bytes = 0) && g.partials.isEmpty && !g.full then
      bindSlots c e n p (planTask p task) s
    else s
  | none => bindSlots c e n p (planTask p task) (s.mLed fun l =>
      { l with insts := l.insts ++ [Inst.fresh c e n task (planTask p task).inputs.length] })

/-- An XTEST instance of an earlier step still holds the slot instance (R139). -/
def heldByXtest (s : State) (c : Nat) (e : Bool) (n task : Nat) (p : Plan) : Bool :=
  (planTask p task).kind = ktXTEST && s.led.insts.any fun i => i.ctx = c && i.epoch = e && i.task = task && i.step ≠ n &&
    roundOfStep p i.step % max (ringDepth p.hdr) 1 = roundOfStep p n % max (ringDepth p.hdr) 1

def groupOf (s : State) (c : Nat) (e : Bool) (n task input : Nat) : Group :=
  match instOf s c e n task with
  | some i => i.groups.getD input Group.empty
  | none => Group.empty

def State.mGroup (c : Nat) (e : Bool) (n task input : Nat) (f : Group → Group) (s : State) : State :=
  s.mInst c e n task fun i => { i with groups := i.groups.modify input f }

/-- Loft address of an offset within a group instance. -/
def groupAddr (p : Plan) (t : TaskE) (input n : Nat) : Nat := slotAddr (groupSlot p t input (roundOfStep p n))

/-- CAP writes to a slot: an access to a shed that is not up is a late write (R224). -/
def capWrite (slot off : Nat) (b : Bytes) (s : State) : State :=
  if shedDown s slot then lateWrite 0 s else
  loftWrite (slotAddr slot + off) b s

/-- SLOT_OVERRUN (R102). -/
def slotOverrun (c : Nat) (src : Huid) (s : State) : State := reportUnit uCAP 0x35 0 (some c) (physOf s src) s

/-! ### XDIGEST (R133) -/

/-- Body of an XDIGEST. -/
def xdigestBody (c : Nat) (e : Bool) (attempt task step bindchk elems digest : Nat) : Nat :=
  put 191 180 c + put 179 179 e.toNat + put 178 177 attempt + put 176 162 task + put 161 130 step + put 129 114 bindchk +
    put 113 74 elems + put 73 10 digest

/-- BINDCHK of a layer under the plan's digest key (R133). -/
def bindChk (s : State) (p : Plan) (l : LayerE) : Nat :=
  (cg128 (BitVec.ofNat 128 (l.salt * 2 ^ 96 + (2 ^ 96 - 1))) ((keySlot s p.hdr.keyId).setWidth 128)).toNat % 2 ^ 16

def xdieDie (p : Plan) (t : TaskE) : Nat := ((sideOf p t 1).map (·.die)).headD 0

def groupDigest (s : State) (p : Plan) (t : TaskE) (input n : Nat) : Nat :=
  leNat (Mem.read s.mem.loft (groupAddr p t input n) 8)

def sendXdigest (c : Nat) (e : Bool) (n task : Nat) (p : Plan) (s : State) : State :=
  let t := planTask p task
  let g := groupOf s c e n task 0
  let body := xdigestBody c e (attemptOf s c e n) task n (bindChk s p (planLayer p t.layerIdx)) g.elems
    (groupDigest s p t 0 n)
  hxSend (xdieDie p t) (shortPkt kXDIGEST body) (bumpCtx 69 16 c 1 s)

/-! ### A group fills -/

/-- A group becomes FULL: its tags are set, and the instance fires when it was the last (R100, R104). -/
def setGroupFull (c : Nat) (e : Bool) (n task input : Nat) (p : Plan) (s : State) : State :=
  let t := planTask p task
  let i : Ident := { ctx := c, epoch := e, step := n % 2 ^ 32, attempt := attemptOf s c e n }
  let s := eachSlot (fun x s => tagFullOp x i s) [(groupSlot p t input (roundOfStep p n), groupCnt t input)] s
  let s := s.mGroup c e n task input fun g => { g with full := true }
  let s := if t.kind = ktXDIE ∧ input = 0 then sendXdigest c e n task p s else s
  tryFire c e n task s

/-! ### DIGEST (R127, R128) -/

/-- One partial digest into a DIGEST_SUM group. -/
def addDigest (c : Nat) (e : Bool) (n task input : Nat) (p : Plan) (src : Huid) (value elems : Nat) (s : State) : State :=
  let t := planTask p task
  let g := groupOf s c e n task input
  let expect := (groupRule p t input).2
  if g.full ∨ expect ≤ g.count then slotOverrun c src s else
  let old := if g.count = 0 then 0 else groupDigest s p t input n
  let s := capWrite (groupSlot p t input (roundOfStep p n)) 0 (leBytes 8 (old + value)) s
  let s := s.mGroup c e n task input fun g => { g with count := g.count + 1, elems := g.elems + elems,
                                                       bytes := 8, senders := g.senders ++ [src] }
  if g.count + 1 = expect then setGroupFull c e n task input p s else s

def digestRecord (p : Ingress) (s : State) : State :=
  let h := steerOf p
  let body := leAt p.body 16 16
  steer (steerRecord 1 s h p.src 16) h.ctx p.src (fun pl n s =>
    if nf body 23 16 ≠ pl.hdr.keyId then haltWith h.ctx kindSTEER p.src s
    else addDigest h.ctx h.epoch n h.task h.input pl p.src (nf body 127 64) (nf body 63 24)
      (needInst h.ctx h.epoch n h.task pl s)) s

/-- A record packet reaches CAP; while the compute part is out of service it is discarded and counted (R329). -/
def recordPacket (kind : Nat) (p : Ingress) (f : State → State) (s : State) : State :=
  ingress kind none p (fun s => if partDown s then bump lkHALT 1 s else f s) s

def execDigest (p : Ingress) (s : State) : Host.Outcome State Fault Refusal := .next (recordPacket 1 p (digestRecord p) s)

/-! ### RAW groups -/

/-- Lengths of the whole LPF records at the start of some bytes, at most `n`. -/
def lpfRun : Nat → Bytes → List Bytes
  | 0, _ => []
  | n + 1, b =>
    if b.length < 8 ∨ b.length < lpfLen b then [] else b.take (lpfLen b) :: lpfRun n (b.drop (lpfLen b))

/-- NLPF of a PERIM record. -/
def perimNlpf (b : Bytes) : Nat := bitsAt b 84 3

/-- Every whole LPF record of a PERIM record passes R48. -/
def perimLpfOk (b : Bytes) : Bool := (lpfRun (perimNlpf b) (b.drop 16)).all fun r => lpfOk (parseLpf r)

/-- RES_LPF or RES_TERMS for a sender, and the step marked as by a residue message (R158). -/
def residueReport (kind c : Nat) (e : Bool) (n tile : Nat) (src : Huid) (s : State) : State :=
  markStep c e n (physOf s src) (reportUnit uCAP kind (n % 2 ^ 16 * 2 ^ 32 + tile) (some c) (physOf s src) s)

/-- A RAW group after a write or a token: FULL when both are complete; a PERIM record is checked first. -/
def rawSettle (c : Nat) (e : Bool) (n task input : Nat) (p : Plan) (src : Huid) (s : State) : State :=
  let t := planTask p task
  let g := groupOf s c e n task input
  if g.full ∨ g.count ≠ (groupRule p t input).2 ∨ g.bytes ≠ g.declared then s
  else
    let b := Mem.read s.mem.loft (groupAddr p t input n) g.bytes
    if t.kind = ktPERIM ∧ ¬ perimLpfOk b then
      residueReport 0x23 c e n (taskTile p t (roundOfStep p n)) src (s.mGroup c e n task input fun _ => Group.empty)
    else setGroupFull c e n task input p s

/-- Data and token of a RAW contribution (R101, R102). -/
def addRaw (c : Nat) (e : Bool) (n task input : Nat) (p : Plan) (src : Huid) (off : Nat) (data : Bytes)
    (token : Option Nat) (s : State) : State :=
  let t := planTask p task
  let g := groupOf s c e n task input
  let expect := (groupRule p t input).2
  let past := ¬ data.isEmpty ∧ g.count + token.isSome.toNat = expect ∧ g.declared + token.getD 0 < g.bytes + data.length
  if g.full ∨ (token.isSome ∧ expect ≤ g.count) ∨ past then slotOverrun c src s
  else
    let s := if data.isEmpty then s else capWrite (groupSlot p t input (roundOfStep p n)) off data s
    let s := s.mGroup c e n task input fun g => { g with
      bytes := g.bytes + data.length
      count := g.count + token.isSome.toNat
      declared := g.declared + token.getD 0
      senders := if token.isSome then g.senders ++ [src] else g.senders }
    rawSettle c e n task input p src s

/-! ### LPF_SUM groups (R158) -/

/-- A contribution's bytes: bytes placed at an offset. -/
def placeBytes (b : Bytes) (off : Nat) (d : Bytes) : Bytes :=
  let b := b ++ List.replicate (off + d.length - b.length) 0
  b.take off ++ d ++ b.drop (off + d.length)

/-- One 16-byte header and exactly NLPF whole LPF records. -/
def perimFormOk (b : Bytes) : Bool :=
  16 ≤ b.length && (lpfRun (perimNlpf b) (b.drop 16)).length = perimNlpf b &&
    ((lpfRun (perimNlpf b) (b.drop 16)).map List.length).sum + 16 = b.length

/-- Header of a PERIM record without EXC_CNT, and EXC_CNT. -/
def perimHeader (b : Bytes) : Nat := leAt b 0 16 - bitsAt b 19 25 * 2 ^ 19
def perimExc (b : Bytes) : Nat := bitsAt b 19 25

/-- A complete contribution is combined position by position. -/
def combineLpf (c : Nat) (e : Bool) (n task input : Nat) (p : Plan) (src : Huid) (b : Bytes) (s : State) : State :=
  let t := planTask p task
  let tile := taskTile p t (roundOfStep p n)
  let g := groupOf s c e n task input
  let old := Mem.read s.mem.loft (groupAddr p t input n) g.bytes
  if ¬ perimFormOk b ∨ ¬ perimLpfOk b then residueReport 0x23 c e n tile src s
  else if g.count ≠ 0 ∧ perimHeader old ≠ perimHeader b then haltWith c kindSTEER src s
  else
    let new := (lpfRun (perimNlpf b) (b.drop 16)).map fun r => (parseLpf r).acc
    let prev := (lpfRun (perimNlpf b) (old.drop 16)).map fun r => (parseLpf r).acc
    let accs := if g.count = 0 then new else (prev.zip new).map fun (x, y) => x.combine y
    if accs.any fun a => decide (2 ^ 32 < a.terms) then residueReport 0x24 c e n tile src s
    else
      let exc := perimExc b + (if g.count = 0 then 0 else perimExc old)
      let out := leBytes 16 (perimHeader b + put 43 19 exc) ++ accs.flatMap lpf88
      let s := capWrite (groupSlot p t input (roundOfStep p n)) 0 out s
      let s := s.mGroup c e n task input fun g => { g with count := g.count + 1, bytes := out.length,
                                                           senders := g.senders ++ [src]
                                                           shares := g.shares ++ [(src, b)] }
      if g.count + 1 = (groupRule p t input).2 then setGroupFull c e n task input p s else s

/-- Data and token of an LPF_SUM contribution; it is combined once all of its bytes have arrived (R513). -/
def addLpf (c : Nat) (e : Bool) (n task input : Nat) (p : Plan) (src : Huid) (off : Nat) (data : Bytes)
    (token : Option Nat) (s : State) : State :=
  let g := groupOf s c e n task input
  if g.full ∨ (groupRule p (planTask p task) input).2 ≤ g.count then slotOverrun c src s else
  let old := (g.partials.find? fun x => x.sender = src).getD { sender := src, data := [], got := 0, length := none }
  let x : Partial := { old with data := placeBytes old.data off data, got := old.got + data.length,
                                length := if token.isSome then token else old.length }
  let rest := g.partials.filter fun y => y.sender ≠ src
  if x.length = some x.got then
    combineLpf c e n task input p src (x.data.take x.got) (s.mGroup c e n task input fun g => { g with partials := rest })
  else s.mGroup c e n task input fun g => { g with partials := rest ++ [x] }

/-- A PERIM or CAPTURE record that steering accepted, or defers for an XTEST instance (R139). -/
def dataRecord (pkt : Nat) (p : Ingress) (s : State) : State :=
  let h := steerOf p
  let data := payloadAfter p 16
  let token := if h.token then some h.length else none
  steer (steerRecord pkt s h p.src data.length) h.ctx p.src (fun pl n s =>
    if heldByXtest s h.ctx h.epoch n h.task pl then
      bumpCtx 75 22 h.ctx 1 (s.mLed fun l => { l with deferred := l.deferred ++ [p] })
    else
      let s := needInst h.ctx h.epoch n h.task pl s
      if (groupRule pl (planTask pl h.task) h.input).1 = 2 then
        addLpf h.ctx h.epoch n h.task h.input pl p.src h.offset data token s
      else addRaw h.ctx h.epoch n h.task h.input pl p.src h.offset data token s) s

def execPerim (p : Ingress) (s : State) : Host.Outcome State Fault Refusal := .next (recordPacket 2 p (dataRecord 2 p) s)

def execCapture (p : Ingress) (s : State) : Host.Outcome State Fault Refusal := .next (recordPacket 3 p (dataRecord 3 p) s)

/-- Offer the deferred records again, after a slot instance was freed (R139). -/
def resumeDeferred (s : State) : State :=
  let again (s : State) (p : Ingress) : State :=
    let h := steerOf p
    match steerRecord p.kind s h p.src (payloadAfter p 16).length with
    | .take pl n =>
      if heldByXtest s h.ctx h.epoch n h.task pl then s.mLed fun l => { l with deferred := l.deferred ++ [p] }
      else dataRecord p.kind p s
    | _ => dataRecord p.kind p s
  s.led.deferred.foldl again (s.mLed fun l => { l with deferred := [] })

/-! ### STEP_DONE -/

def stepDone (p : Ingress) (s : State) : State :=
  let h := steerOf p
  let r := match steerWindow s h.ctx h.epoch h.step32 h.attempt with
    | .take pl n => if h.task = 0x7FFF ∧ pl.roster.contains p.src then SteerSay.take pl n else .halt kindSTEER
    | x => x
  steer r h.ctx p.src (fun _ n s =>
    (noteStep h.ctx h.epoch n s).mStep h.ctx h.epoch n fun x =>
      { x with doneCount := x.doneCount + 1, doneBy := x.doneBy ++ [p.src], graceOver := false }) s

def execStepDone (p : Ingress) (s : State) : Host.Outcome State Fault Refusal := .next (recordPacket 4 p (stepDone p) s)

end Sys2Proof.Machine
end

