-- ==== Sys2Proof/Machine/HitchMap.lean ====
section
/-!
DEFINITION. The node map (R341, R367), the computing of a table version (R369), the time tree (R372) and the arrivals
at a barrier (R373).
-/
namespace Sys2Proof.Machine

/-! ### This die's record -/

/-- State and width of a port in a STATE record (R367). A port that is not ACTIVE and does not retrain is reported
REMOVED. -/
def portNibble (s : State) (p : Nat) : Nat :=
  let x := hxPort s p
  if ¬ portUsed s.cfg.topo (dieNat s) p then 12
  else match x.st with
    | .active => x.width
    | .retrain => 4
    | _ => if x.retraining then 4 else 8

def portsField (s : State) : BitVec 16 := BitVec.ofNat 16 (((List.range 4).map fun p => portNibble s p * 16 ^ p).sum)

def ownRecord (s : State) : DieRec :=
  { version := s.hx.myVersion, boot := s.hx.myBoot, ports := portsField s, hostOk := s.hx.hostOk, stage := s.cfg.stage,
    inService := s.cfg.inService, current := true }

/-- Payload of a STATE packet. -/
def recordBytes (r : DieRec) : Bytes :=
  leBytes 32 (put 255 240 r.version.toNat + put 239 224 r.boot.toNat + put 223 208 r.ports.toNat + put 207 207 r.hostOk.toNat +
    put 206 203 r.stage + put 202 202 r.inService.toNat)

def parseRecord (b : Bytes) : DieRec :=
  let v := leAt b 0 32
  let f (hi lo : Nat) : Nat := v / 2 ^ lo % 2 ^ (hi + 1 - lo)
  { version := BitVec.ofNat 16 (f 255 240), boot := BitVec.ofNat 16 (f 239 224), ports := BitVec.ofNat 16 (f 223 208),
    hostOk := f 207 207 = 1, stage := f 206 203, inService := f 202 202 = 1, current := true }

/-! ### Computing a version -/

/-- What MAP_HASH covers, per die (R369). -/
def mapKey (h : Hx) : List (Nat × Bool × Bool) :=
  (List.range 64).map fun d =>
    match Tab.get h.map d with
    | some r => if r.current then (r.ports.toNat, r.hostOk, true) else (0, false, false)
    | none => (0, false, false)

/-- CRC-32C of the map; per die PORTS in two bytes and the two flags in one (log entry 9). -/
def mapHash (h : Hx) : Nat :=
  (crc32c ((mapKey h).flatMap fun (p, k, c) => leBytes 2 p ++ leBytes 1 (k.toNat + 2 * c.toNat))).toNat

/-- Steps 2 and 3 of R369: the standby version is computed and TBL_READY goes to the coordinator. Before the first
flip the live version is empty, and takes the same entries (log entry 19). -/
def computeStandby (s : State) : State :=
  let t := routeTable s.cfg.topo s.hx (dieNat s)
  let first := s.hx.installs = 0
  let s := s.mHx fun h => { h with
    route0 := if h.live ∨ first then t else h.route0
    route1 := if ¬ h.live ∨ first then t else h.route1
    standby := .ready
    pendingMap := false }
  hxSend (coordinator s) (shortPkt kTBLREADY (put 191 160 (mapHash s.hx))) s

/-! ### The time tree -/

/-- Hops of each die from the root over usable links, one round. -/
def hopRound (t : Topo) (h : Hx) (n : Nat) (d : Tab Nat) : Tab Nat :=
  d.foldl (fun acc x => if x.2 ≠ n then acc else
    ((List.range 4).filter (linkUsable t h x.1)).foldl (fun acc p =>
      let q := neighbour t x.1 p
      if (Tab.get acc q).isSome then acc else Tab.set acc q (n + 1)) acc) d

def hopsFrom (t : Topo) (h : Hx) (root : Nat) : Tab Nat := (List.range 64).foldl (fun d n => hopRound t h n d) [(root, 0)]

/-- Port to the parent of a die in the time tree (R372). -/
def parentPortOf (s : State) : Option Nat :=
  let t := s.cfg.topo
  let me := dieNat s
  let hops := hopsFrom t s.hx (coordinator s)
  if coordinator s = me then none else
  let c := ((List.range 4).filter (linkUsable t s.hx me)).filterMap fun p =>
    (Tab.get hops (neighbour t me p)).map fun n => (n * 4096 + neighbour t me p * 64 + p, p)
  ((sortBy (·.1) c).head?).map (·.2)

/-- HX_TIME: the die is out of time until it is LOCKED again (R372). -/
def timeLost (s : State) : State :=
  let s := if s.hx.locked then bump 814 1 s else s
  reportSelf uHX 0 0x8E 0 none (s.mHx fun h => { h with locked := false, goodSync := 0, timeHold := true })

/-- The tree after a change of the map. A die that lost the link to its parent reports it. -/
def timeTree (s : State) : State :=
  let old := s.hx.parentPort.toNat
  let had := s.hx.stepped && !linkUsable s.cfg.topo s.hx (dieNat s) old && portUsed s.cfg.topo (dieNat s) old &&
    s.hx.parentDie.toNat ≠ dieNat s
  let s := if had then timeLost s else s
  match parentPortOf s with
  | none => s.mHx fun h => { h with parentDie := s.ports.dieId, parentPort := 0 }
  | some p => s.mHx fun h => { h with parentDie := BitVec.ofNat 6 (neighbour s.cfg.topo (dieNat s) p),
                                      parentPort := BitVec.ofNat 2 p }

/-! ### Barriers -/

def barrierOf (s : State) (b : Nat) : Barrier := s.hx.barriers.getD b Barrier.reset

/-- Encoding of `HX.BARRIER_STATUS.STATE` (R376). -/
def BarrSt.code : BarrSt → Nat
  | .idle => 0
  | .waiting => 1
  | .released => 2
  | .aborted => 3

def State.mBarrier (b : Nat) (f : Barrier → Barrier) (s : State) : State :=
  let x := barrierOf s b
  stateChanged uHX 0xB0060 x.st.code (f x).st.code (s.mHx fun h => { h with barriers := h.barriers.modify b f })

/-- BARRIER_ARRIVE of a barrier that this die has arrived at. -/
def sendArrive (b : Nat) (s : State) : State :=
  let x := barrierOf s b
  hxSend (coordinator s) (shortPkt kARRIVE (put 191 188 b + put 187 180 x.gen.toNat + put 179 116 x.mask.toNat +
    put 115 110 (dieNat s))) s

/-- Arrive at a barrier with a mask (R373). -/
def barrierArrive (b : Nat) (mask : W64) (s : State) : State :=
  sendArrive b ((s.mBarrier b fun x => { x with st := .waiting, gen := x.gen + 1, mask := mask, tRel := 0 }).mHx fun h =>
    { h with lastBarrier := b })

/-! ### A change of the map -/

/-- The map changed since `old` of the given coordinator: a version is computed when the standby one is free or still
before its flip, the time tree follows, and a new coordinator is told of the arrivals (R369, R374, R375). -/
def mapChanged (old : List (Nat × Bool × Bool)) (coord : Nat) (s : State) : State :=
  if mapKey s.hx = old then s else
  let s := timeTree s
  let s := if s.hx.standby = .draining then s.mHx fun h => { h with pendingMap := true } else computeStandby s
  if coordinator s = coord then s else
  (List.range 16).foldl (fun s b => if (barrierOf s b).st = .waiting then sendArrive b s else s) s

/-- STATE to every other PRESENT die, with the start stage as it stands (R367). -/
def sendState (s : State) : State :=
  match Tab.get s.hx.map (dieNat s) with
  | none => s
  | some r =>
    let n := { ownRecord s with version := r.version }
    hxMulticast ((presentDies s.cfg.topo).filter (· ≠ dieNat s)) (longPkt kSTATE 0 (recordBytes n))
      (s.mHx fun h => { h with map := Tab.set h.map (dieNat s) n })

/-- This die's record follows its ports, HOST_OK and service; a change raises VERSION and is sent. Before S4 the die
has no record. -/
def stateChange (s : State) : State :=
  match Tab.get s.hx.map (dieNat s) with
  | none => s
  | some r =>
    let n := ownRecord s
    if n.ports = r.ports ∧ n.hostOk = r.hostOk ∧ n.inService = r.inService ∧ r.current then s else
    let old := mapKey s.hx
    let coord := coordinator s
    let v := s.hx.myVersion + 1
    let s := s.mHx fun h => { h with myVersion := v, map := Tab.set h.map (dieNat s) { n with version := v } }
    mapChanged old coord (sendState s)

end Sys2Proof.Machine
end

