-- ==== Sys2Proof/Machine/Hrp.lean ====
section
/-!
DEFINITION. The Host Register Port as every host order meets it: answers (R507), privilege (R457 to R459), and the
HOST_OK that a completed access gives (R341).
-/
namespace Sys2Proof.Machine

def lcFACTORY := 1
def lcPROVISIONED := 2
def lcDEPLOYED := 3
def lcRETURN := 4
def lcDECOMMISSIONED := 5

def hsOK := 0
def hsDENIED := 1
def hsUNMAPPED := 2

/-- FACTORY_TEST or RETURN. -/
def testState (s : State) : Bool := s.sec.lc = lcFACTORY || s.sec.lc = lcRETURN

/-- A VENDOR_DEBUG request is accepted (R457). -/
def debugAllowed (s : State) : Bool := testState s && s.sec.unlocked

/-- The request carries the rights of an OPERATOR. -/
def isOperator (s : State) (priv : BitVec 2) : Bool := priv = 1 || (priv = 2 && debugAllowed s)

/-- An access completes: the answer stands, and the die has HOST_OK. -/
def answer (status : Nat) (rdata : W64) (s : State) : State :=
  let s := s.mPorts fun p => { p with hrp := { status := BitVec.ofNat 2 status, rdata := rdata } }
  if s.hx.hostOk then s else stateChange (s.mHx fun h => { h with hostOk := true })

def secReport (kind : Nat) (s : State) : State := reportSelf uSEC 0 kind 0 none s

/-- An access refused for its privilege (R459). -/
def denied (priv : BitVec 2) (s : State) : State :=
  let tell := !s.sec.deniedSeen || (priv = 2 && s.sec.lc = lcDEPLOYED)
  let s := answer hsDENIED 0 (bump 1088 1 s)
  if tell then secReport 0xA1 (s.mSec fun x => { x with deniedSeen := true }) else s

/-- An access of the port: nothing is answered while RST_N is low. -/
def hrp (f : State → State) (s : State) : State := if s.ports.rstLow then s else f s

/-- A write at OPERATOR privilege. -/
def operatorWrite (priv : BitVec 2) (f : State → State) (s : State) : State :=
  hrp (fun s => if isOperator s priv then f (answer hsOK 0 s) else denied priv s) s

end Sys2Proof.Machine
end

