-- ==== Sys2Proof/Machine/Paddock.lean ====
section
/-!
DEFINITION. The Paddock (R253 to R255): SDC and TEST events in leaky buckets (R254, R304), the states of a physical
core, its fence and the swap of its label (R323), reinstatement, and NO_SPARE.
-/
namespace Sys2Proof.Machine

def nowMs (s : State) : Nat := s.now.toNat / 10 ^ 6

def hourNs : Nat := 3600 * 10 ^ 9
def minuteNs : Nat := 60 * 10 ^ 9

/-- Level of a bucket after an event: units of 2^-16, window in ns (R304; log entry 16). -/
def bucketLevel (level last now window : Nat) : Nat := level - (now - last) * 65536 / max window 1 + 65536

/-! ### Reasons of PADDOCK records (log entry 12) -/

def prSDC := 1
def prXTEST := 2
def prMUSTER := 3
def prTEST := 4
def prCONFIRMED := 5
def prNOTREPRO := 6
def prSTART := 7
def prPAIR := 8
def prRETURN := 9
def prCLEAN := 10

def PadSt.code : PadSt → Nat
  | .service => 0
  | .turnout => 1
  | .suspect => 2
  | .distil => 3
  | .confirmed => 4

def PadSt.ofCode : Nat → PadSt
  | 1 => .turnout
  | 2 => .suspect
  | 3 => .distil
  | 4 => .confirmed
  | _ => .service

def sbPaddock (h : Huid) (st : PadSt) (reason : Nat) (s : State) : State :=
  sbWrite sbPADDOCK (leBytes 2 h.toNat ++ leBytes 1 st.code ++ leBytes 1 reason) s

/-- A core takes a Paddock state; entries to SUSPECT, DISTIL and CONFIRMED and reinstatements are recorded (R255). -/
def setPad (h : Huid) (st : PadSt) (reason : Nat) (s : State) : State :=
  let old := (padOf s h).st
  let s := s.mPad h fun p => { p with st := st, sinceMs := nowMs s, clean := 0,
                                      from_ := if st = .turnout then old else p.from_ }
  let s := if old = st then s else stateEvent uVU 0x90028 st.code s
  if st = .turnout ∨ (st = .service ∧ old = .turnout) then s else sbPaddock h st reason s

/-! ### Fence and swap -/

/-- The core is fenced by FENCE_CORES. -/
def coreFenced (s : State) (h : Huid) : Bool := bit (sectorSt s (huidSector h)).fenced (huidIndex h)

/-- NO_SPARE: the contexts that name the label are halted (R255). -/
def noSpare (l h : Huid) (s : State) : State :=
  let s := reportUnit uVU 0x64 0 none h s
  (ctxsOfLabel s l).foldl (fun s c => haltQuiet c s) s

/-- The swap of the label that a core serves, once the core is fenced (R271, R323). -/
def remapFenced (h : Huid) (s : State) : State :=
  let l := labelOf s h
  let s := s.mYm fun y => { y with fencing := y.fencing.filter (· ≠ l) }
  if isSpareLabel s l then s else
  match remapLabel l s with
  | some s' => s'
  | none => noSpare l h s

/-- The sequence of R323 for a core: its label waits from now on for the swap. -/
def startFence (h : Huid) (s : State) : State :=
  let l := labelOf s h
  if coreFenced s h then remapFenced h s else
  let s := if isSpareLabel s l then s else s.mYm fun y => { y with fencing := dedup (y.fencing ++ [l]) }
  fenceOrder h fpFENCE 0 s

/-- Enter a fenced state; a core that came from SERVICE is fenced and its label swapped. -/
def enterFenced (h : Huid) (st : PadSt) (reason : Nat) (s : State) : State :=
  let was := (padOf s h).st
  let s := setPad h st reason s
  if was = .service then startFence h s else s

/-- A core returns to SERVICE as a free spare (R254, R271). -/
def reinstate (h : Huid) (reason : Nat) (s : State) : State := unfenceOrder h fpFENCE 0 (setPad h .service reason s)

/-! ### Events -/

def sdcLimit (s : State) : Nat := fld s.expert.vuConfig 47 44
def sdcWindow (s : State) : Nat := fld s.expert.vuConfig 55 48 * hourNs

/-- SDC events of a core within SDC_WINDOW. -/
def sdcCount (s : State) (h : Huid) : Nat :=
  ((padOf s h).sdcTimes.filter fun t => s.now.toNat - t < sdcWindow s).length

/-- One SDC event against a physical core (R254): CONFIRMED at the limit, else DISTIL or SUSPECT from SERVICE. The
answer says whether the core entered DISTIL. -/
def sdcEvent (h : Huid) (eligible : Bool) (s : State) : Bool × State :=
  let p := padOf s h
  let lv := bucketLevel p.sdcLevel p.sdcLast s.now.toNat (sdcWindow s)
  let s := s.mPad h fun p => { p with sdcLevel := lv, sdcLast := s.now.toNat, sdcTimes := s.now.toNat :: p.sdcTimes }
  if p.st = .confirmed then (false, s)
  else if (sdcLimit s - 1) * 65536 < lv then (false, enterFenced h .confirmed prSDC s)
  else if p.st = .service then
    (eligible, enterFenced h (if eligible then .distil else .suspect) prSDC s)
  else (false, s)

/-- A TEST event: a failed test, or an XTEST verdict (R246, R254). -/
def testEvent (h : Huid) (reason : Nat) (s : State) : State :=
  if (padOf s h).st = .confirmed then s else enterFenced h .confirmed reason s

/-- A failed turnout, SUSPECT or start-time test: recorded and reported (R254, R269, R420). -/
def testFailed (h : Huid) (source : Nat) (s : State) : State :=
  let s := sbDefect (coreLocus s h) 0x66 source (testEvent h prTEST s)
  reportUnit uVU 0x66 0 none h s

def cleanTests (s : State) : Nat := fld s.expert.vuConfig 43 40

/-- One clean test of a SUSPECT core (R254). -/
def cleanTest (h : Huid) (s : State) : State :=
  let n := (padOf s h).clean + 1
  if cleanTests s ≤ n then bump 525 1 (reinstate h prCLEAN s)
  else s.mPad h fun p => { p with clean := n }

end Sys2Proof.Machine
end

