-- ==== Sys2Proof/Machine/Operators.lean ====
section
/-!
DEFINITION. The operator catalogue as a Check Lane executes it (R63, R65, R80, R173): the exact value of each
output element of a tile from the captured operands, the single rounding, and the comparison with REF (R183).
-/
namespace Sys2Proof.Machine

/-- Captured operands of a tile, and what fixes its stochastic bits. -/
structure Task where
  raw : BitVec 512
  d : Desc
  layer : LayerE
  tile : Nat
  /-- input groups in the order of R179 -/
  ops : List Bytes
  deriving DecidableEq, Repr

def Task.a (x : Task) : Bytes := x.ops.getD 0 []
def Task.b (x : Task) : Bytes := x.ops.getD 1 []
/-- Operand C: the group after A and B. -/
def Task.c (x : Task) : Bytes := x.ops.getD (if opHasB x.d.opcode then 2 else 1) []

/-- Result of an element before rounding: bounds of the exact value; none: the manual leaves it open. -/
abbrev Exact := Option Bounds

def exactly (v : Val) : Exact := some (bothOf v)

/-! ### Operand elements -/

/-- Element of an operand that has the shape of the tile. -/
def Task.tileElem (x : Task) (b : Bytes) (fmt e : Nat) : Val :=
  let n := max (tileExt x.d x.tile 0) 1
  rowsElem b fmt (tileRows x.d x.tile) n (tileOrigin x.d x.tile 0) (e / n) (e % n)

/-- Element `k` of row `r` of an operand of rows of K. -/
def Task.rowElem (x : Task) (r k : Nat) : Val := rowsElem x.a x.d.fmtA (inRows x.d x.tile) x.d.k 0 r k

/-- Element of an operand that holds one element per column of the tile. -/
def Task.colElem (x : Task) (b : Bytes) (fmt col : Nat) : Val :=
  rowsElem b fmt 1 (tileExt x.d x.tile 0) (tileOrigin x.d x.tile 0) 0 col

/-- Weight of reduction index `k` and tile column `n`. -/
def Task.weight (x : Task) (batch k n : Nat) : Val :=
  let w := tileExt x.d x.tile 0
  let total := gemmBatch x.d x.tile * (x.d.k * w)
  let total := if opConv x.d.opcode then x.d.k * w else total
  packedElem x.b x.d.fmtB total (batch * (x.d.k * w) + k * w + n)
    (batch * (ceilDiv x.d.k 32 * w) + k / 32 * w + n)

/-- Element of the input box at an input position and channel. -/
def Task.boxElem (x : Task) (n y xx ch : Nat) : Val :=
  let d := x.d
  let ys := readSpan d true (tileOrigin d x.tile 2) (tileExt d x.tile 2)
  let xs := readSpan d false (tileOrigin d x.tile 1) (tileExt d x.tile 1)
  let cs := chanSpan d x.tile
  rowsElem x.a d.fmtA (tileExt d x.tile 3 * ys.2 * xs.2) cs.2 cs.1 ((n * ys.2 + (y - ys.1)) * xs.2 + (xx - xs.1)) (ch - cs.1)

/-! ### Sums -/

/-- Kernel taps of an output element: reduction index of the tap and input position, none where it is padding. -/
def Task.taps (x : Task) (coord : List Nat) : List (Nat × Option (Nat × Nat)) :=
  let d := x.d
  (List.range d.kh).flatMap fun i => (List.range d.kw).map fun j =>
    (i * d.kw + j, match tapPos d true (coord.getD 2 0) i, tapPos d false (coord.getD 1 0) j with
      | some y, some z => some (y, z)
      | _, _ => none)

/-- Terms of a convolution: products over taps and channels, taps outermost (log entry 14). A transposed
convolution has no term where no input lands. -/
def Task.convTerms (x : Task) (e : Nat) : List Val :=
  let d := x.d
  let c := elemCoord d x.tile e
  let col := c.getD 0 0 - tileOrigin d x.tile 0
  let n := c.getD 3 0 - tileOrigin d x.tile 3
  let per := chanPer d
  (x.taps c).flatMap fun (t, pos) =>
    match pos with
    | some (y, z) => (List.range per).map fun ch =>
        (x.boxElem n y z (chanBase d (c.getD 0 0) + ch)).mul (x.weight 0 (t * per + ch) col)
    | none => if d.opcode = 6 then [] else (List.range per).map fun ch => Val.zero.mul (x.weight 0 (t * per + ch) col)

def Task.gemmTerms (x : Task) (e : Nat) : List Val :=
  let d := x.d
  let n := max (tileExt d x.tile 0) 1
  let rows := gemmRows d x.tile
  let batch := e / n / max rows 1
  (List.range d.k).map fun k =>
    (rowsElem x.a d.fmtA (gemmBatch d x.tile * rows) d.k 0 (e / n) k).mul (x.weight batch k (e % n))

/-- Terms of an exact sum, without a bias. -/
def Task.terms (x : Task) (e : Nat) : List Val :=
  let d := x.d
  let n := max (tileExt d x.tile 0) 1
  if opConv d.opcode then x.convTerms e
  else if opGemm d.opcode then x.gemmTerms e
  else if d.opcode = 0x0E then (List.range (e % n + 1)).map fun k => x.rowElem (e / n) k
  else if d.opcode = 0x0C then
    let seg := tileOrigin d x.tile 1 + e / n
    ((List.range d.k).filter fun k => leAt x.b (4 * k) 4 = seg).map fun k =>
      rowsElem x.a d.fmtA d.k n (tileOrigin d x.tile 0) k (e % n)
  else if opCollective d.opcode then
    (List.range d.k).map fun r =>
      let c0 := tileOrigin d x.tile 0
      packedElem x.a d.fmtA (tileElems d x.tile * d.k) (e * d.k + r) (rowBlock c0 n (e / n) (e % n) * d.k + r)
  else if opScatter d.opcode then
    let cnt := leAt x.b 0 8
    let idx := elemIndex d x.tile e
    x.tileElem x.a d.fmtA e :: ((List.range cnt).filter fun i => leAt x.c (4 * i) 4 = idx).map fun i =>
      rowsElem (x.b.drop 8) d.fmtB 1 cnt 0 0 i
  else if opPool d.opcode then
    let c := elemCoord d x.tile e
    (x.taps c).map fun (_, pos) =>
      match pos with
      | some (y, z) => x.boxElem (c.getD 3 0 - tileOrigin d x.tile 3) y z (c.getD 0 0)
      | none => Val.zero
  else (List.range d.k).map fun k => x.rowElem e k

/-- Bias of an element. -/
def Task.bias (x : Task) (e : Nat) : List Val :=
  if opGemm x.d.opcode && descHasC x.d then [x.colElem x.c x.d.fmtC (e % max (tileExt x.d x.tile 0) 1)] else []

/-- The exact sum of an element: bias first, through the initial-load path (R173). -/
def Task.sum (x : Task) (e : Nat) : Acc := Acc.sum (x.bias e ++ x.terms e)

/-! ### Value rules (R80) -/

/-- Quotient of a value by a count. -/
def valDivN (v : Val) (n : Nat) : Val :=
  if n = 0 then .nan else
  match v with
  | .fin s m => .fin s (m / n)
  | w => w

def valDiv (x y : Val) : Val :=
  match x, y with
  | .nan, _ | _, .nan => .nan
  | .inf _, .inf _ => .nan
  | .inf a, .fin b _ => .inf (a != b)
  | .fin a _, .inf b => .fin (a != b) 0
  | .fin a m, .fin b n => if n = 0 then (if m = 0 then .nan else .inf (a != b)) else .fin (a != b) (m / n)

/-- Place of a value in rising order; a NaN ranks above +Inf. -/
def valLess (x y : Val) : Bool :=
  match x, y with
  | .nan, _ => false
  | _, .nan => true
  | .inf true, .inf true | .inf false, _ => false
  | .inf true, _ => true
  | .fin .., .inf b => !b
  | .fin .., .fin .. => x.rat < y.rat

def valMax (x y : Val) : Val :=
  if x.isNan || y.isNan then .nan
  else if valLess x y then y else if valLess y x then x
  else match x with
    | .fin true m => if m = 0 then y else x
    | _ => x

def valMin (x y : Val) : Val :=
  if x.isNan || y.isNan then .nan
  else if valLess x y then x else if valLess y x then y
  else match x with
    | .fin false m => if m = 0 then y else x
    | _ => x

def valAbs : Val → Val
  | .fin _ m => .fin false m
  | .inf _ => .inf false
  | .nan => .nan

def addVals (vs : List Val) : Val := (Acc.sum vs).value

/-- Round to FP32 under RNE (R65); none where the bounds round apart. -/
def rne32 (b : Bounds) : Option Val :=
  let f (v : Val) : Nat := writeVal (fmtF 0) rmRNE 0 false v
  if f b.1 = f b.2 then some (decodeElem (fmtF 0) (f b.1)) else none

def rneVal (v : Val) : Val := (rne32 (bothOf v)).getD .nan

/-! ### Composite operators (R65) -/

def optAll {α : Type} : List (Option α) → Option (List α)
  | [] => some []
  | none :: _ => none
  | some a :: r => (optAll r).map fun l => a :: l

/-- One row of SOFTMAX. -/
def softmaxRow (xs : List Val) : List Exact :=
  let m := match xs with
    | [] => Val.zero
    | x :: r => r.foldl valMax x
  let es := optAll (xs.map fun x => rne32 (funcBounds 1 (rneVal (addVals [x, m.neg]))))
  match es with
  | none => xs.map fun _ => none
  | some l => let s := addVals l
    l.map fun e => exactly (valDiv e s)

/-- 1/√v of a variance rounded to FP32. -/
def rsqrt32 (v : Val) : Option Val := rne32 (funcBounds 6 v)

def meanPlus (terms : List Val) (n : Nat) (eps : Rat) : Val :=
  rneVal (valDivN (addVals (terms ++ [(Val.ofRat (n * eps))])) n)

def layerNormRow (eps : Rat) (xs gs bs : List Val) : List Exact :=
  let n := xs.length
  let mu := rneVal (valDivN (addVals xs) n)
  let ds := xs.map fun x => rneVal (addVals [x, mu.neg])
  match rsqrt32 (meanPlus (ds.map fun d => d.mul d) n eps) with
  | none => xs.map fun _ => none
  | some q => (ds.zip (gs.zip bs)).map fun (d, g, b) => exactly (addVals [(rneVal (d.mul q)).mul g, b])

def rmsNormRow (eps : Rat) (xs gs : List Val) : List Exact :=
  match rsqrt32 (meanPlus (xs.map fun x => x.mul x) xs.length eps) with
  | none => xs.map fun _ => none
  | some q => (xs.zip gs).map fun (x, g) => exactly ((rneVal (x.mul q)).mul g)

/-! ### Ordered reductions -/

/-- One level of pairwise additions, each rounded to the output format. -/
def pairLevel (add : Val → Val → Val) : List Val → List Val
  | a :: b :: r => add a b :: pairLevel add r
  | l => l

def pairTree (add : Val → Val → Val) : Nat → List Val → Val
  | 0, l => l.headD Val.zero
  | n + 1, l => if l.length ≤ 1 then l.headD Val.zero else pairTree add n (pairLevel add l)

/-- The tree is fixed by the chip count; for a count that is no power of two the manual does not draw it (log
entry 13). -/
def Task.ordered (x : Task) (e : Nat) : Exact :=
  let l := x.terms e
  let f := fmtF x.d.outFmt
  let r := srBits x.layer (elemIndex x.d x.tile e)
  let add (a b : Val) : Val := decodeElem f (writeVal f x.d.rmode r x.d.sat (addVals [a, b]))
  if l.length = 2 ^ l.length.log2 then exactly (pairTree add 8 l) else none

/-! ### Elements -/

/-- Indices of a row in descending rank, ties by lowest index. -/
def ranked (xs : List Val) : List Nat :=
  (xs.zipIdx.foldl (fun acc p => acc.takeWhile (fun q => !valLess q.1 p.1) ++ p :: acc.dropWhile (fun q => !valLess q.1 p.1))
    ([] : List (Val × Nat))).map (·.2)

def Task.rowVals (x : Task) (r : Nat) : List Val := (List.range x.d.k).map (x.rowElem r)

/-- Rows of an operator that needs a whole row at a time. -/
def Task.rowResult (x : Task) (r : Nat) : List Exact :=
  let d := x.d
  let xs := x.rowVals r
  let g (b : Bytes) (fmt : Nat) : List Val := (List.range d.k).map fun k => rowsElem b fmt 1 d.k 0 0 k
  if d.opcode = 0x0F then softmaxRow xs
  else if d.opcode = 0x10 then layerNormRow (Config.normEpsilon x.raw) xs (g x.b d.fmtB) (g x.c d.fmtC)
  else if d.opcode = 0x11 then rmsNormRow (Config.normEpsilon x.raw) xs (g x.b d.fmtB)
  else (ranked xs).take d.aux |>.map fun i => exactly (xs.getD i .nan)

/-- n of AVG_POOL: padded positions count when ATTR[0] is set. -/
def Task.poolCount (x : Task) (e : Nat) : Nat :=
  let t := x.taps (elemCoord x.d x.tile e)
  if x.d.attr % 2 = 1 then t.length else (t.filter fun p => p.2.isSome).length

/-- The exact value of output element `e` of the tile (R63, R80). -/
def Task.value (x : Task) (e : Nat) : Exact :=
  let d := x.d
  let n := max (tileExt d x.tile 0) 1
  let a (_ : Unit) : Val := x.tileElem x.a d.fmtA e
  let b (_ : Unit) : Val := x.tileElem x.b d.fmtB e
  let c (_ : Unit) : Val := x.tileElem x.c d.fmtC e
  match d.opcode with
  | 0x08 => exactly (valDivN (x.sum e).value d.k)
  | 0x0D => exactly (valDivN (x.sum e).value (x.poolCount e))
  | 0x0F | 0x10 | 0x11 | 0x1F => ((x.rowResult (e / n)).getD (e % n) none)
  | 0x12 => exactly (addVals [(a ()).mul (x.colElem x.b d.fmtB (e % n)), x.colElem x.c d.fmtC (e % n)])
  | 0x13 => exactly (addVals [a (), b ()])
  | 0x14 => exactly (addVals [a (), (b ()).neg])
  | 0x15 => exactly (addVals [(a ()).mul (b ())])
  | 0x16 => exactly (addVals [(a ()).mul (b ()), c ()])
  | 0x17 => exactly (valDiv (a ()) (b ()))
  | 0x18 => exactly (valMax (a ()) (b ()))
  | 0x19 => exactly (valMin (a ()) (b ()))
  | 0x1A => exactly (if d.attr % 2 = 1 then (a ()).neg else valAbs (a ()))
  | 0x1B => exactly (a ())
  | 0x1C => some (funcBounds d.attr (a ()))
  | 0x1D => match x.terms e with
    | [] => none
    | t :: r => exactly (r.foldl valMax t)
  | 0x1E => exactly (Val.ofRat ((ranked (x.rowVals e)).headD 0 : Nat))
  | 0x20 => exactly (if leAt x.a e 1 ≠ 0 then b () else c ())
  | 0x21 | 0x22 => x.ordered e
  | 0x23 | 0x24 | 0x25 => none
  | _ => exactly (x.sum e).value

/-! ### Writing the output (R49, R72, R77, R78) -/

def Task.open_ (x : Task) (e : Nat) : Nat := (Config.openElem x.raw x.ops (elemIndex x.d x.tile e)).toNat

/-- BITS of an element of an output without MX. -/
def Task.plainBits (x : Task) (e : Nat) (v : Exact) : Nat :=
  let f := fmtF x.d.outFmt
  let r := srBits x.layer (elemIndex x.d x.tile e)
  match v with
  | none => x.open_ e
  | some b =>
    let lo := writeVal f x.d.rmode r x.d.sat b.1
    if lo = writeVal f x.d.rmode r x.d.sat b.2 then lo else x.open_ e

/-- BITS of the elements of one MX output block, given with their tile-local numbers. -/
def Task.blockBits (x : Task) (vs : List (Nat × Exact)) : List Nat :=
  let f := fmtF x.d.outFmt
  let all := optAll (vs.map (·.2))
  match all with
  | none => vs.map fun p => x.open_ p.1
  | some bs =>
    let s := blockScale f (bs.map (·.1))
    if s ≠ blockScale f (bs.map (·.2)) then vs.map fun p => x.open_ p.1
    else (vs.zip bs).map fun (p, b) =>
      let r := srBits x.layer (elemIndex x.d x.tile p.1)
      let lo := mxElem f x.d.rmode r s b.1
      if lo = mxElem f x.d.rmode r s b.2 then mxBits s lo else x.open_ p.1

/-- BITS of every element of the tile, from the values before rounding. -/
def Task.finish (x : Task) (vs : List Exact) : List Nat :=
  if fmtMx x.d.outFmt then
    let n := max (tileExt x.d x.tile 0) 1
    let blocks := (List.range (tileRows x.d x.tile)).flatMap fun r =>
      (List.range (ceilDiv n 32)).map fun k => (range' (r * n + 32 * k) (min 32 (n - 32 * k)))
    blocks.flatMap fun es => x.blockBits (es.map fun e => (e, vs.getD e none))
  else vs.zipIdx.map fun (v, e) => x.plainBits e v

/-- Output BITS of a FULL task. -/
def Task.full (x : Task) : List Nat := x.finish ((List.range (tileElems x.d x.tile)).map x.value)

/-- Output BITS of a FINAL task, from its partial group of 88-byte records (R186). -/
def Task.final (x : Task) : List Nat :=
  x.finish ((List.range (tileElems x.d x.tile)).map fun e => exactly (parseLpf (slice x.a (88 * e) 88)).acc.value)

/-- Partial sums of a PART task. -/
def Task.partials (x : Task) : List Acc := (List.range (tileElems x.d x.tile)).map x.sum

/-- BITS of element `e` in REF. -/
def Task.refBits (x : Task) (ref : Bytes) (e : Nat) : Nat :=
  let n := max (tileExt x.d x.tile 0) 1
  packedBits ref x.d.outFmt (tileElems x.d x.tile) e (rowBlock (tileOrigin x.d x.tile 0) n (e / n) (e % n))

/-- Differing elements and the index of the first (R183). -/
def Task.compare (x : Task) (out : List Nat) (ref : Bytes) : Nat × Nat :=
  let diff := (List.range (tileElems x.d x.tile)).filter fun e => out.getD e 0 ≠ x.refBits ref e
  (diff.length, match diff with
    | [] => 0
    | e :: _ => elemIndex x.d x.tile e)

/-- Products that a task forms. -/
def Task.products (x : Task) : Nat :=
  if opGemm x.d.opcode then tileElems x.d x.tile * x.d.k
  else if [0x10, 0x11, 0x12, 0x15, 0x16].contains x.d.opcode then tileElems x.d x.tile else 0

end Sys2Proof.Machine
end

