-- ==== Sys2Proof/Machine/Steps.lean ====
section
/-!
DEFINITION. The release gate (R18, R106 to R108) and STEP_TIMEOUT (R113).
-/
namespace Sys2Proof.Machine

/-- A token that a full lane queue held back enters it (R181). -/
def fireHeldRelease (lane : Nat) (s : State) : State :=
  match s.led.held.find? fun h => h.1 = lane with
  | none => s
  | some h =>
    if 32 ≤ (laneOf s lane).queue.length then s
    else (s.mLed fun l => { l with held := l.held.erase h }).mLane lane fun x => { x with queue := x.queue ++ [h.2] }

def execFireHeldRelease (lane : BitVec 6) (s : State) : Host.Outcome State Fault Refusal := .next (fireHeldRelease lane.toNat s)

/-- RES_GRACE has passed since a step's last STEP_DONE (R107). -/
def resGraceExpiry (c : Nat) (e : Bool) (step32 : Nat) (s : State) : State :=
  withStep (fullStep (baseOf s c e) step32) s fun n =>
    if (stepOf s c e n).isNone then s else s.mStep c e n fun x => { x with graceOver := true }

def execResGraceExpiry (ctx : Ctx) (epoch : Bool) (step : BitVec 32) (s : State) : Host.Outcome State Fault Refusal :=
  .next (resGraceExpiry ctx.toNat epoch step.toNat s)

/-- Every check task that the plan attaches to a step has returned PASS (R18, R108). -/
def tasksPassed (s : State) (c : Nat) (p : Plan) (n : Nat) : Bool :=
  p.tasks.zipIdx.all fun (t, i) =>
    t.kind = ktXTEST || t.layerIdx ≠ layerOfStep p n || ((instOf s c p.epoch n i).map (·.passed)).getD false

/-- A dispute that holds a step back: one of any task but an XTEST task (R108, R233). -/
def stepHeld (s : State) (c : Nat) (p : Plan) (n : Nat) : Bool :=
  let hit (d : Dispute) : Bool :=
    d.ctx = c && d.epoch = p.epoch && d.step = n && (planTask p d.task).kind ≠ ktXTEST
  (s.vu.waiting ++ s.vu.xwaits).any hit || s.vu.procs.any fun q => hit q.d

/-- The oldest unreleased step of a context may be released (R18, R106, R107, R111). -/
def mayRelease (s : State) (c : Nat) (p : Plan) (n : Nat) : Bool :=
  match stepOf s c p.epoch n with
  | none => false
  | some x =>
    !(ctxOf s c).halted && decide ((planLayer p (layerOfStep p n)).doneCount ≤ x.doneCount) && x.graceOver &&
      !x.marked && !stepHeld s c p n && tasksPassed s c p n && p.edges.all (edgeReleased s c p n)

/-- An XTEST instance of a released step: with a group not full it is freed and counted; fired, it stays until its
outcome (R139). -/
def abandonXtest (i : Inst) (s : State) : State :=
  if i.fired then s else bumpCtx 74 21 i.ctx 1 (dropInst i s)

/-- Held XDIGESTs of a step are discarded (R134). -/
def dropXhold (c : Nat) (e : Bool) (n : Nat) (s : State) : State :=
  s.mTwc fun t => { t with xhold := t.xhold.filter fun x =>
    !(fld x.2.ext 191 180 = c && bit x.2.ext 179 = e && fld x.2.ext 161 130 = n % 2 ^ 32) }

def releasePre (c : Nat) (e : Bool) (n : Nat) : W64 := word [put 11 0 c, put 12 12 e.toNat, put 63 32 n]

/-- Release a step: RELEASE to every roster core, and its slots and entries are cleared. -/
def doRelease (c : Nat) (p : Plan) (n : Nat) (s : State) : State :=
  let e := p.epoch
  let s := mLayerCounts c e n (fun k => { k with released := k.released + 1 }) s
  let s := bumpCtx 1 1 c 1 (traceStep 3 c n s)
  let s := (stepInsts s c e n).foldl (fun s i => if isXtest s i then abandonXtest i s else dropInst i s) s
  let s := dropXhold c e n s
  let s := s.mLed fun l => { l with steps := l.steps.filter fun x => !isStep c e n x }
  let s := windowMoved c (s.mCtx c fun x => { x with base := n + 1 })
  let s := match (ctxOf s c).plan with
    | some m => s.mPlan m fun q => { q with lastStep := n }
    | none => s
  let s := p.roster.foldl (fun s l => sendCore 0x10 0 l [releasePre c e n] [] s) s
  resumeDeferred s

def release (c : Nat) (s : State) : State :=
  match planOf s c with
  | none => s
  | some (_, p) =>
    let n := (ctxOf s c).base
    if mayRelease s c p n then doRelease c p n s else s

def execRelease (ctx : Ctx) (s : State) : Host.Outcome State Fault Refusal :=
  .next (if partDown s then s else release ctx.toNat s)

/-! ### STEP_TIMEOUT -/

/-- Side that owes an input of a task. -/
def sideOfInput (t : TaskE) (input : Nat) : Nat := if t.kind = ktSHADOW then 0 else input

/-- Cores of this die that owe a contribution to a group that is not full. -/
def owing (s : State) (c : Nat) (p : Plan) (n : Nat) : List Huid :=
  (p.tasks.zipIdx.filter fun x => x.1.layerIdx = layerOfStep p n && x.1.kind ≠ ktXTEST).flatMap fun (t, i) =>
    (List.range t.inputs.length).flatMap fun k =>
      let g := groupOf s c p.epoch n i k
      if g.full then [] else
        ((sideOf p t (sideOfInput t k)).filter fun e => e.die = dieNat s && !g.senders.contains e.huid).map (·.huid)

/-- Roster cores without a STEP_DONE, when too few arrived. -/
def notDone (p : Plan) (x : StepSt) (n : Nat) : List Huid :=
  if (planLayer p (layerOfStep p n)).doneCount ≤ x.doneCount then []
  else p.roster.filter fun l => !x.doneBy.contains l

def stepTimeout (c : Nat) (e : Bool) (step32 : Nat) (s : State) : State :=
  match planOfEpoch s c e with
  | none => s
  | some (_, p) =>
    withStep (fullStep (baseOf s c e) step32) s fun n =>
      match stepOf s c e n with
      | none => s
      | some x =>
        if stepHeld s c p n then s else
        let cores := dedup (owing s c p n ++ notDone p x n)
        let s := reportCores uLED 0x33 (n % 2 ^ 16 * 2 ^ 32) (some c) cores s
        let s := startChains c n cores s
        let s := s.mStep c e n fun y => { y with timeouts := y.timeouts + 1 }
        let s := dropXhold c e n s
        let s := openDispute (Dispute.mk' c e (attemptOf s c e n) n noTask dTIMEOUT) s
        if e = (ctxOf s c).epoch then drainToDiscard c s else s

def execStepTimeout (ctx : Ctx) (epoch : Bool) (step : BitVec 32) (s : State) : Host.Outcome State Fault Refusal :=
  .next (if partDown s then s else stepTimeout ctx.toNat epoch step.toNat s)

end Sys2Proof.Machine
end

