-- ==== Sys2Proof/Machine/Engines.lean ====
section
/-!
DEFINITION. What the checkers compute: the Twin comparison (R129, R137 to R140), the Perimeter comparison and its
localisation (R147, R159, R165), the tasks of Shadow lanes (R177 to R183), and the fencing of pipes, lanes and compare
paths (R164, R193, R195, R242).
-/
namespace Sys2Proof.Machine

/-! ### Instances of a token -/

def tokInst (s : State) (t : Token) : Option Inst := instOf s t.ctx t.epoch t.step t.task

/-- Plan and task of a token, when its epoch is live. -/
def tokTask (s : State) (t : Token) : Option (Plan × TaskE) := planTaskOf s t.ctx t.epoch t.task

def tokIdent (t : Token) : Ident := { ctx := t.ctx, epoch := t.epoch, step := t.step % 2 ^ 32, attempt := t.attempt }

/-- Bytes that an input group holds. -/
def groupData (s : State) (p : Plan) (t : Token) (input : Nat) : Bytes :=
  let k := planTask p t.task
  Mem.read s.mem.loft (groupAddr p k input t.step) (groupOf s t.ctx t.epoch t.step t.task input).bytes

def tokTile (p : Plan) (t : Token) : Nat := taskTile p (planTask p t.task) (roundOfStep p t.step)

def tokLayer (p : Plan) (t : Token) : LayerE := planLayer p (planTask p t.task).layerIdx

/-- Labels of the cores of a task on this die, of one side. -/
def sideLabels (s : State) (p : Plan) (t : Nat) (side : Nat) : List Huid :=
  ((sideOf p (planTask p t) side).filter fun e => e.die = dieNat s).map (·.huid)

/-- Labels of all cores of a task on this die. -/
def taskLabels (s : State) (p : Plan) (t : Nat) : List Huid :=
  ((taskPairs p (planTask p t)).filter fun e => e.die = dieNat s).map (·.huid)

/-- A task's data was lost to an uncorrectable error: reported, and the step marked (R213). -/
def voidTask (p : Plan) (t : Token) (s : State) : State :=
  loftUe (groupSlot p (planTask p t.task) 0 (roundOfStep p t.step)) 0 (tokIdent t) s

/-! ### TWC -/

def twMATCH := 0
def twDIGEST := 1
def twCOVER := 2
def twXTEST := 3
def twSHAPE := 4
def twPATH := 5

/-- Element index of the first differing byte of two outputs (R140). -/
def firstDiffElem (bits : Nat) (a b : Bytes) : Nat :=
  let n := max a.length b.length
  ((List.range n).find? fun i => a[i]? ≠ b[i]?).getD 0 * 8 / max bits 1

/-- Outcome that a compare path computes (R129). -/
def twinOutcome (s : State) (p : Plan) (t : Token) : Nat :=
  let k := planTask p t.task
  let g (i : Nat) : Group := groupOf s t.ctx t.epoch t.step t.task i
  if k.kind = ktXTEST then
    let n := (taskDesc p k).outBytes
    if (g 0).bytes ≠ n ∨ (g 1).bytes ≠ n then twSHAPE
    else if groupData s p t 0 = groupData s p t 1 then twMATCH else twXTEST
  else
    let n := (tokLayer p t).elements
    if (g 0).elems ≠ n ∨ (g 1).elems ≠ n then twCOVER
    else if groupDigest s p k 0 t.step = groupDigest s p k 1 t.step then twMATCH else twDIGEST

/-- Compare paths of TWC in service. -/
def twcPaths (s : State) : Nat := s.twc.pathA.toNat + s.twc.pathB.toNat

/-- Fence compare paths; the loss of the last is reported (R242). -/
def fencePaths (a b : Bool) (s : State) : State :=
  let was := twcPaths s
  let s := s.mTwc fun t => { t with pathA := t.pathA && !a, pathB := t.pathB && !b }
  if 0 < was ∧ twcPaths s = 0 then reportSelf uTWC 0 0x45 0 none s else s

/-- The known-answer test of TWC, with what each path answered: a path that fails is fenced and reported (R242). -/
def twcKat (passA passB : Bool) (s : State) : State :=
  let a := s.twc.pathA && !passA
  let b := s.twc.pathB && !passB
  if a ∨ b then fencePaths a b (reportSelf uTWC 0 0x44 0 none s) else s

/-! ### PER -/

def peMATCH := 0
def peEXCEEDED := 1
def peSTATE := 2
def peEXC := 3
def peSHAPE := 4
def peDISAGREE := 5
def peNOPIPES := 6

/-- A PERIM record as it is read (R157). -/
structure PerimRec where
  header : Nat
  accs : List Acc
  deriving DecidableEq, Repr

def PerimRec.tile (r : PerimRec) : Nat := nf r.header 127 96
def PerimRec.role (r : PerimRec) : Nat := nf r.header 95 94
def PerimRec.outFmt (r : PerimRec) : Nat := nf r.header 93 89
def PerimRec.rmode (r : PerimRec) : Nat := nf r.header 88 87
def PerimRec.nlpf (r : PerimRec) : Nat := nf r.header 86 84
def PerimRec.m (r : PerimRec) : Nat := nf r.header 83 60 + 1
def PerimRec.n (r : PerimRec) : Nat := nf r.header 59 44 + 1
def PerimRec.exc (r : PerimRec) : Nat := nf r.header 43 19
def PerimRec.acc (r : PerimRec) (i : Nat) : Acc := r.accs.getD i Acc.zero

/-- A group's bytes as one header and exactly NLPF whole LPF records. -/
def parsePerim (b : Bytes) : Option PerimRec :=
  if perimFormOk b then
    some { header := leAt b 0 16, accs := (lpfRun (perimNlpf b) (b.drop 16)).map fun r => (parseLpf r).acc }
  else none

/-- What a pipe answers: an outcome with FAILMASK, or a tile mismatch, which halts the context. -/
inductive PerimSay where
  | halt
  | out (outcome mask : Nat)
  deriving DecidableEq, Repr

/-- A limit of R146 is broken. -/
def perimLimit (l : LayerE) (r : PerimRec) : Bool :=
  65536 < r.n || 2 ^ 24 < r.m * r.n || 2 ^ 32 < r.m * r.n * l.maxTerms

def accState (a : Acc) : Bool := a.nan || a.pinf || a.ninf

/-- Difference of checksum `j`, in units of 2^-320. -/
def perimDelta (o p : PerimRec) (j : Nat) : Int := (o.acc j).a - (p.acc j).a

/-- g × U of checksum `j`: twice its tolerance. -/
def perimBound (o : PerimRec) (j : Nat) : Int := (if o.rmode = rmRNE then 1 else 2) * (o.acc (if j < 3 then 4 else 5)).a

/-- `perim_compare` of R159. -/
def perimCompare (o p : Option PerimRec) (l : LayerE) (tile : Nat) : PerimSay :=
  match o, p with
  | some o, some p =>
    if o.tile ≠ tile ∨ p.tile ≠ tile then .halt
    else if o.role ≠ 0 ∨ p.role ≠ 1 ∨ o.nlpf ≠ 6 ∨ p.nlpf ≠ 4 ∨ o.outFmt ≠ p.outFmt ∨ o.rmode ≠ p.rmode ∨ o.m ≠ p.m ∨
        o.n ≠ p.n ∨ o.outFmt ≠ l.outFmt ∨ o.rmode ≠ l.rmode ∨ perimLimit l o then .out peSHAPE 0
    else if 0 < o.exc then .out peEXC 0
    else if (o.accs ++ p.accs).any accState then .out peSTATE 0
    else if (o.acc 0).terms ≠ o.m * o.n then .out peSHAPE 0
    else
      let bad := (List.range 4).filter fun j => decide (perimBound o j < 2 * (perimDelta o p j).natAbs)
      if bad.isEmpty then .out peMATCH 0 else .out peEXCEEDED (maskOf bad).toNat
  | _, _ => .out peSHAPE 0

/-- ±1 weight at a position of vector σ (1) or τ (2) (R147). -/
def perimWeight (s : State) (p : Plan) (l : LayerE) (tile round vec pos : Nat) : Int :=
  let index := put 63 32 tile + put 31 24 round + put 23 22 vec + put 21 0 (pos / 128)
  let d := cg128 (cgCounter 3 p.hdr.ctx l.layer index) ((keySlot s 0xFE).setWidth 128)
  if bit d (pos % 128) then -1 else 1

def locNOTRUN := 0
def locCOLUMN := 1
def locMULTI := 2
def locCANCELLED := 3

/-- `localise` of R165: the result and the column. -/
def perimLocalise (s : State) (p : Plan) (l : LayerE) (tile round : Nat) (o q : PerimRec) : Nat × Nat :=
  let d (j : Nat) : Int := 2 * perimDelta o q j
  let b (j : Nat) : Int := perimBound o j
  let abs (x : Int) : Int := x.natAbs
  if abs (d 0) ≤ b 0 then (locCANCELLED, 0)
  else
    let k : Int := ((d 3 : Rat) / (d 0 : Rat) - 1 / 2).ceil
    let c := k - 1
    if c < 0 ∨ (o.n : Int) ≤ c then (locMULTI, 0) else
    let sg := perimWeight s p l tile round 1 c.toNat
    let ta := perimWeight s p l tile round 2 c.toNat
    if abs (d 3 - k * d 0) ≤ b 3 + k * b 0 ∧ abs (d 1 - sg * d 0) ≤ b 1 + b 0 ∧ abs (d 2 - ta * d 0) ≤ b 2 + b 0 then
      (locCOLUMN, c.toNat)
    else (locMULTI, 0)

def perimRecs (s : State) (p : Plan) (t : Token) : Option PerimRec × Option PerimRec :=
  (parsePerim (groupData s p t 0), parsePerim (groupData s p t 1))

/-- Pipes in service. -/
def pipesUp (s : State) : List Nat := (List.range 8).filter fun k => bit s.per.inService k

/-- A pipe that replaces a fenced one: the lowest in service that is not the task's other pipe (R164). -/
def pipeFor (s : State) (a other : Nat) : Nat :=
  if bit s.per.inService a then a else ((pipesUp s).find? (· ≠ other)).getD a

def repipe (s : State) (x : Token × Nat × Nat) : Token × Nat × Nat :=
  let a := pipeFor s x.2.1 x.2.2
  (x.1, a, pipeFor s x.2.2 a)

/-- Source of a DEFECT record of a Silorn checker (log entry 12). -/
def srcVERDICT := 2

/-- Fence a pipe until the next cold start; its tasks move to other pipes (R164). -/
def fencePipe (k : Nat) (s : State) : State :=
  if !bit s.per.inService k then s else
  let s := s.mPer fun x => { x with inService := x.inService &&& ~~~(1#8 <<< k), fenced := x.fenced ||| (1#8 <<< k) }
  let s := sbDefect (coreLocus s (unitHuid uPER k)) 0x4B srcVERDICT s
  let s := if (pipesUp s).length = 1 then reportSelf uPER 0 0x4C 0 none s else s
  s.mPer fun x => { x with queue := x.queue.map (repipe s) }

/-- A known-answer test of one pipe (R163, R164). -/
def pipeKat (k : Nat) (pass : Bool) (s : State) : State :=
  let s := s.mPer fun x => { x with
    runs := x.runs + 1
    lastPass := if pass then x.lastPass ||| (1#8 <<< k) else x.lastPass &&& ~~~(1#8 <<< k) }
  let s := bump 137 1 s
  if pass then s else fencePipe k (reportSelf uPER k 0x4B 0 none (bump 138 1 s))

/-! ### Shadow lanes -/

def saMATCH := 0
def saOUT := 1
def saSHAPE := 2
def saPATH := 3
def saRES := 4
def saNOLANE := 5
def saDELIVERED := 6

/-- The operand groups of a token with its descriptor, as a task. -/
def tokWork (s : State) (p : Plan) (t : Token) : Task :=
  let k := planTask p t.task
  let d := taskDesc p k
  let n := k.inputs.length - (if d.role = rolePART then 0 else 1)
  { raw := p.descs.getD k.desc 0, d := d, layer := tokLayer p t, tile := tokTile p t,
    ops := (List.range n).map fun i => groupData s p t i }

/-- Bytes of the reference group. -/
def tokRef (s : State) (p : Plan) (t : Token) : Bytes := groupData s p t ((planTask p t.task).inputs.length - 1)

/-- Output BITS of a lane for a FULL or FINAL task. -/
def laneOut (w : Task) : List Nat := if w.d.role = roleFINAL then w.final else w.full

/-- A target index of a SCATTER_ADD lies outside the tile (R180). -/
def scatterOut (w : Task) (n : Nat) : Bool :=
  let inTile (idx : Nat) : Bool :=
    idx < lExt w.d 0 * lExt w.d 1 * lExt w.d 2 * lExt w.d 3 && (locateElem w.d idx).1 = w.tile
  opScatter w.d.opcode && !(List.range n).all fun i => inTile (leAt w.c (4 * i) 4)

/-- A group's byte count differs from the descriptor's (R180). -/
def shapeWrong (s : State) (p : Plan) (t : Token) : Bool :=
  let k := planTask p t.task
  let w := tokWork s p t
  let count := if opScatter w.d.opcode then leAt w.b 0 8 else 0
  let sizes := groupSizes w.d w.tile count
  let skip (i : Nat) : Bool := w.d.role = roleFINAL && i = 0
  k.inputs.length ≠ sizes.length ||
    (sizes.zipIdx.any fun (n, i) => !skip i && (groupOf s t.ctx t.epoch t.step t.task i).bytes ≠ n) ||
    scatterOut w count

/-- Hash of an element of a layer under the plan's digest key (R55, R241). -/
def planHash (s : State) (p : Plan) (l : LayerE) (e bits : Nat) : Nat :=
  elemHash l.salt e bits ((keySlot s p.hdr.keyId).setWidth 128)

/-- Tile-local number of an element of a task's tile. -/
def localElem (w : Task) (e : Nat) : Nat := (locateElem w.d e).2

/-- Hash of an element of a lane's output, and of REF. -/
def laneHash (s : State) (p : Plan) (t : Token) (out : List Nat) (e : Nat) : Nat :=
  planHash s p (tokLayer p t) e (out.getD (localElem (tokWork s p t) e) 0)

def refHash (s : State) (p : Plan) (t : Token) (e : Nat) : Nat :=
  let w := tokWork s p t
  planHash s p (tokLayer p t) e (w.refBits (tokRef s p t) (localElem w e))

def laneHuid (l : Nat) : Huid := unitHuid uSA l

/-- Hand the tokens of a lane that no longer serves to their substitutes, the first one at the head (R195). -/
def rehome (l : Nat) (toks : List Token) (s : State) : State :=
  toks.foldl (fun s t =>
    match tokTask s t with
    | none => s
    | some (p, k) =>
      match takeLane l (taskDesc p k).role s with
      | (some m, s) => laneEnqueue m t (bumpCtx 200 42 t.ctx 1 s)
      | (none, s) => noLane p t s) s

/-- Fence a lane until the next cold start: the task in execution goes to the head of the substitute's queue, and the
queued tokens follow (R193, R195). -/
def fenceLane (l : Nat) (s : State) : State :=
  if !(laneOf s l).inService ∨ (laneOf s l).fenced then s else
  let run := (laneOf s l).run
  let toks := (laneOf s l).queue ++ (s.led.held.filter fun h => h.1 = l).map (·.2)
  let s := (s.mLane l fun x => { x with inService := false, fenced := true, run := none, queue := [] }).mLed fun x =>
    { x with held := x.held.filter fun h => h.1 ≠ l }
  let s := sbDefect (coreLocus s (laneHuid l)) 0x53 srcVERDICT s
  let s := if (List.range 64).any (laneSound s) then s else reportSelf uSA 0 0x54 0 none s
  let s := match run with
    | none => s
    | some r => match tokTask s r.tok with
      | none => s
      | some (p, k) => match takeLane l (taskDesc p k).role s with
        | (some m, s) => (bumpCtx 200 42 r.tok.ctx 1 s).mLane m fun x => { x with queue := r.tok :: x.queue }
        | (none, s) => noLane p r.tok s
  rehome l toks s

/-- A known-answer test of one lane (R192, R193). -/
def laneKat (l : Nat) (pass : Bool) (s : State) : State :=
  let s := (s.mCluster (l / 4) fun x => { x with katRuns := x.katRuns + 1 }).mLane l fun x => { x with lastPass := pass }
  let s := bump 203 1 s
  if pass then s else fenceLane l (report uSA 0x53 0 none (laneHuid l) (coreLocus s (laneHuid l)) (bump 204 1 s))

/-- Lane λ2 of another cluster, as if a lane's own cluster had none in service (R236). -/
def secondLane (s : State) (l role : Nat) : Option Nat :=
  if role ≠ roleFULL then none else
  match ((range' 1 15).map fun k => (l / 4 + k) % 16 * 4 + l % 4).find? (laneUp s) with
  | some k => some k
  | none => ((List.range 64).filter fun k => k / 4 ≠ l / 4).find? (laneUp s)

/-! ### Generated operands (R138) -/

/-- Draw of an operand element: INDEX of R138. -/
def xtestIndex (test operand elem : Nat) : Nat := put 63 40 test + put 39 38 operand + put 37 0 elem

/-- A packed operand of generated elements and, for MX, generated scales. -/
def drawOperand (ctx layer : Nat) (key : W128) (test operand count : Nat) (x : Shape) : Bytes :=
  let draw (o e : Nat) : Nat := (cg128 (cgCounter 2 ctx layer (xtestIndex test o e)) key).toNat
  let v := ((List.range x.n).map fun i => draw operand i % 2 ^ x.bits * 2 ^ (x.bits * i)).sum
  let elems := leBytes ((x.bits * x.n + 7) / 8) v
  leBytes x.head count ++ match x.blocks with
    | some k => padTo 8 elems ++ (List.range k).map fun i => BitVec.ofNat 8 (draw 3 (operand * 2 ^ 36 + i) % 256)
    | none => elems

/-- The whole output of a descriptor as one tile. -/
def wholeTile (d : Desc) : Desc := { d with t := d.l }

/-- A cross-check as a lane computes it: the descriptor over its whole output, on operands drawn from a key. The count
of a scatter is K (log entry 14). -/
def xtestWork (raw : BitVec 512) (layer : LayerE) (ctx layerNo : Nat) (key : W128) (test : Nat) : Task :=
  let d := wholeTile (parseDesc raw)
  { raw := raw, d := d, layer := layer, tile := 0,
    ops := (operandShapes d 0 d.k).zipIdx.map fun (x, i) => drawOperand ctx layerNo key test i d.k x }

/-- Test number of an XTEST task in a step. -/
def xtestNumber (p : Plan) (step : Nat) : Nat := roundOfStep p step % 2 ^ 24

/-- The lane's own run of an XTEST instance. -/
def xtestLane (s : State) (p : Plan) (t : TaskE) (step : Nat) : Task :=
  let l := planLayer p t.layerIdx
  xtestWork (p.descs.getD t.desc 0) l p.hdr.ctx l.layer ((keySlot s 0xFE).setWidth 128) (xtestNumber p step)

end Sys2Proof.Machine
end

