-- ==== Sys2Proof/Machine/Xdie.lean ====
section
/-!
DEFINITION. XDIGEST at the receiving die (R134): the binding checks, the cross-die hold buffer, and steering into IN1.
-/
namespace Sys2Proof.Machine

/-- A packet that reached its consumer leaves the packets that wait for one. -/
def consume (p : HxPkt) (s : State) : State := s.mHx fun h => { h with delivered := h.delivered.erase p }

/-- Fields of an XDIGEST body (R133). -/
structure XDig where
  die : Nat
  ctx : Nat
  epoch : Bool
  attempt : Nat
  task : Nat
  step32 : Nat
  bindchk : Nat
  elems : Nat
  digest : Nat
  deriving DecidableEq, Repr

def parseXdigest (p : HxPkt) : XDig :=
  { die := hxSrc p, ctx := fld p.ext 191 180, epoch := bit p.ext 179, attempt := fld p.ext 178 177,
    task := fld p.ext 176 162, step32 := fld p.ext 161 130, bindchk := fld p.ext 129 114, elems := fld p.ext 113 74,
    digest := fld p.ext 73 10 }

/-- XDIE_BIND with the side-1 die of the local task, and HALTED (R134). -/
def xdieBind (x : XDig) (own : Nat) (s : State) : State :=
  let addr := x.die + own * 2 ^ 6 + x.task * 2 ^ 12 + x.step32 % 2 ^ 16 * 2 ^ 32
  haltQuiet x.ctx (reportSelf uTWC 0 0x41 addr (some x.ctx) s)

/-- Hold an XDIGEST of a later attempt, or drop it when the buffer is full. -/
def xhold (p : HxPkt) (c : Nat) (s : State) : State :=
  if s.twc.xhold.length < 256 then s.mTwc fun t => { t with xhold := t.xhold ++ [(hxSrc p, p)] } else bumpCtx 71 18 c 1 s

/-- Checks 2 to 4 of R134, and IN1. -/
def xdigestTake (x : XDig) (p : Plan) (n : Nat) (s : State) : State :=
  let t := planTask p x.task
  if p.hdr.tasks ≤ x.task ∨ t.kind ≠ ktXDIE ∨ t.layerIdx ≠ layerOfStep p n then xdieBind x 0 s
  else if x.die ≠ xdieDie p t ∨ x.bindchk ≠ bindChk s p (planLayer p t.layerIdx) then xdieBind x (xdieDie p t) s
  else
    addDigest x.ctx x.epoch n x.task 1 p (unitHuid uTWC 0) x.digest x.elems
      (needInst x.ctx x.epoch n x.task p (bumpCtx 70 17 x.ctx 1 s))

/-- Check 1: those checks of R99 that lead to a discard; a step beyond the window is none of them. -/
def xdigestWindow (s : State) (x : XDig) : SteerSay :=
  match steerWindow s x.ctx x.epoch x.step32 x.attempt with
  | .halt k =>
    match planOfEpoch s x.ctx x.epoch with
    | none => .halt k
    | some (_, p) =>
      withStep (fullStep (baseOf s x.ctx x.epoch) x.step32) (.halt k) fun n =>
        if x.attempt < attemptOf s x.ctx x.epoch n then .drop lkSTALE_ATTEMPT else .take p n
  | r => r

def xdigestSteer (p : HxPkt) (s : State) : State :=
  let x := parseXdigest p
  match xdigestWindow s x with
  | .drop k => bumpCtx k k x.ctx 1 s
  | .halt _ => s
  | .take pl n => if attemptOf s x.ctx x.epoch n < x.attempt then xhold p x.ctx s else xdigestTake x pl n s

def execXdigest (p : HxPkt) (s : State) : Host.Outcome State Fault Refusal :=
  .next (consume p s |> fun s => if s.ct.part ≠ .run ∨ s.ports.wrstLow then s else xdigestSteer p s)

/-- Held XDIGESTs of a step that has reached their attempt are steered (R134). -/
def xholdSteer (c : Nat) (e : Bool) (n : Nat) (s : State) : State :=
  let hit (x : Nat × HxPkt) : Bool :=
    let d := parseXdigest x.2
    d.ctx = c && d.epoch = e && d.step32 = n % 2 ^ 32 && d.attempt ≤ attemptOf s c e n
  let go := s.twc.xhold.filter hit
  go.foldl (fun s x => xdigestSteer x.2 s) (s.mTwc fun t => { t with xhold := t.xhold.filter fun x => !hit x })

end Sys2Proof.Machine
end

