-- ==== Sys2Proof/Machine/Verdict.lean ====
section
/-!
DEFINITION. Verdicts: settling requests (R238, R513), replay orders (R249), how a procedure ends (R235, R243 to R248),
cross-die verdicts (R252, R354), and the orders that a procedure gives.
-/
namespace Sys2Proof.Machine

/-! ### Procedures -/

def vPASS := 0
def vOWNER := 1
def vPARTNER := 2
def vCHECKER := 3
def vINPUT := 4
def vUNRESOLVED := 5

def procOf (s : State) (d : Dispute) : Option Proc := s.vu.procs.find? fun p => sameDispute p.d d

def State.mProc (d : Dispute) (f : Proc → Proc) (s : State) : State :=
  s.mVu fun v => { v with procs := v.procs.map fun p => if sameDispute p.d d then f p else p }

def endProc (d : Dispute) (s : State) : State :=
  s.mVu fun v => { v with procs := v.procs.filter fun p => !sameDispute p.d d }

/-- Plan and task of a dispute. -/
def disputeTask (s : State) (d : Dispute) : Option (Plan × TaskE) := planTaskOf s d.ctx d.epoch d.task

def disputeTok (d : Dispute) : Token :=
  { ctx := d.ctx, epoch := d.epoch, attempt := d.attempt, step := d.step, task := d.task, reruns := 0,
    redispatched := true }

/-- Labels of the cores of a dispute's task on this die. -/
def disputeLabels (s : State) (d : Dispute) : List Huid :=
  match disputeTask s d with
  | some (p, _) => taskLabels s p d.task
  | none => []

/-- The die that shares a TWIN_XDIE dispute, if it is one. -/
def peerDie (s : State) (d : Dispute) : Option Nat :=
  match disputeTask s d with
  | some (p, t) => if t.kind = ktXDIE then some (xdieDie p t) else none
  | none => none

/-! ### Settling requests -/

/-- Header of an XSETTLE, and of SETTLE and SETTLE_REPLY (R355, R513). -/
def settleHeader (c : Nat) (e : Bool) (attempt task step reqId lo width : Nat) (reply : Bool) (status : Nat) : Nat :=
  put 255 244 c + put 243 243 e.toNat + put 242 241 attempt + put 240 226 task + put 225 194 step + put 193 178 reqId +
    put 177 138 lo + put 137 98 width + put 97 97 reply.toNat + put 96 94 status

def headerWords (h : Nat) : List W64 := (List.range 4).map fun i => BitVec.ofNat 64 (h / 2 ^ (64 * i))

def ssRANGE := 0
def ssELEMENT := 1
def ssTILEOWNER := 2
def ssPARTNER := 3
def ssFEED := 4
def ssPROBE := 5
def ssPROBESYN := 6
def ssDISCARD := 7

def disputeHeader (d : Dispute) (reqId lo width : Nat) : Nat :=
  settleHeader d.ctx d.epoch d.attempt d.task d.step reqId lo width false 0

/-- A fresh request number. -/
def nextReq (s : State) : Nat × State := (s.vu.reqSeq % 2 ^ 16, s.mVu fun v => { v with reqSeq := v.reqSeq + 1 })

/-- One SETTLE packet to a label. -/
def sendSettle (sub c header elem : Nat) (partner : Huid) (payload : Bytes) (l : Huid) (s : State) : State :=
  bumpCtx 519 56 c 1 (sendCore 0x12 sub l (headerWords header ++ [word [put 39 0 elem, put 55 40 partner.toNat]]) payload s)

/-- Begin a round: ask labels, and await them all. -/
def askRound (d : Dispute) (ph : Phase) (sub lo width : Nat) (partner : Huid) (labels : List Huid) (s : State) : State :=
  let (r, s) := nextReq s
  let s := s.mProc d fun p => { p with phase := ph, asked := labels, ranges := [], voided := false, reqId := r, xwait := false }
  labels.foldl (fun s l => sendSettle sub d.ctx (disputeHeader d r lo width) 0 partner [] l s) s

/-! ### The record of a verdict -/

/-- Layer index of a disputed step. -/
def disputeLayer (s : State) (d : Dispute) : Nat :=
  match planOfEpoch s d.ctx d.epoch with
  | some (_, p) => layerOfStep p d.step
  | none => 0

/-- `VU.LAST_*`, the journal, the counters and the plan's counts (R248, R266, R268, R470, R471). -/
def recordVerdict (d : Dispute) (v : Nat) (named : Option (Nat × Huid)) (e : Nat) (s : State) : State :=
  let huid := (named.map (·.2.toNat)).getD 0xFFFF
  let die := (named.map (·.1)).getD 0
  let entry := word128 [put 127 96 d.step, put 95 84 (disputeLayer s d), put 83 81 v, put 80 77 d.cause,
    put 76 75 d.attempt, put 74 69 die, put 68 53 huid, put 52 21 (nowMs s)]
  let t := ((planOfEpoch s d.ctx d.epoch).map fun x => x.2.tAdmit).getD 0
  let s := bumpCtx (512 + v) (49 + v) d.ctx 1 s
  let s := ringPush uVU true 0x05 0 (some d.ctx) (v * 16 + d.cause) s
  let s := mLayerCounts d.ctx d.epoch d.step (fun k => { k with
    nonpass := k.nonpass + 1
    failCore := if v = vOWNER ∨ v = vPARTNER then k.failCore + 1 else k.failCore
    failChecker := if v = vCHECKER then k.failChecker + 1 else k.failChecker
    inputSuspect := if v = vINPUT then k.inputSuspect + 1 else k.inputSuspect
    unresolved := if v = vUNRESOLVED then k.unresolved + 1 else k.unresolved }) s
  let s := s.mVu fun x => { x with
    journal := lastN 65536 (x.journal ++ [(d.ctx, t, entry)])
    unresolvedSeen := x.unresolvedSeen || decide (v = vUNRESOLVED)
    lastVerdict := word [put 63 52 d.ctx, put 51 51 d.epoch.toNat, put 50 49 d.attempt, put 48 46 v, put 45 42 d.cause,
      put 41 27 d.task, put 26 11 huid, 1]
    lastStep := word [put 63 32 d.step, put 5 0 die]
    lastElem := word [put 39 0 e] }
  tackWrite 2 3 (leBytes 16 entry.toNat) s

def verdictAddr (d : Dispute) : Nat := d.step % 2 ^ 16 * 2 ^ 32 + d.cause * 2 ^ 28 + d.task % 2 ^ 15

/-- The checker of a dispute, as a unit of this die (R269). -/
def checkerHuid (s : State) (d : Dispute) : Huid :=
  if d.cause = dMEMUE then unitHuid uMEM 0 else
  match disputeTask s d with
  | some (_, t) =>
    if t.kind = ktPERIM then unitHuid uPER (d.party / 8 % 8) else if t.kind = ktSHADOW then laneHuid d.party
    else unitHuid uTWC 0
  | none => unitHuid uTWC 0

/-- The report of a verdict (R269). A core of another die is named by that die's own report (R522). -/
def reportVerdict (d : Dispute) (v : Nat) (named : Option (Nat × Huid)) (s : State) : State :=
  let a := verdictAddr d
  if v = vOWNER ∨ v = vPARTNER then
    match named with
    | some (die, h) => if die = dieNat s then reportUnit uVU 0x60 a (some d.ctx) h s else s
    | none => s
  else if v = vCHECKER then reportUnit uVU 0x61 a (some d.ctx) (checkerHuid s d) s
  else reportCores uVU (if v = vINPUT then 0x62 else 0x63) a (some d.ctx) (disputeLabels s d) s

/-! ### Cross-die verdicts -/

def xverdictBody (d : Dispute) (v cause : Nat) (named : Option (Nat × Huid)) (e : Nat) : Nat :=
  put 191 180 d.ctx + put 179 179 d.epoch.toNat + put 178 177 d.attempt + put 176 162 d.task + put 161 130 d.step +
    put 129 127 v + put 126 123 cause + put 122 117 ((named.map (·.1)).getD 0) +
    put 116 101 ((named.map (·.2.toNat)).getD 0xFFFF) + put 100 61 e

/-- The leading die tells the other die its verdict (R252). -/
def tellPeer (d : Dispute) (v : Nat) (named : Option (Nat × Huid)) (e : Nat) (s : State) : State :=
  match peerDie s d with
  | none => s
  | some x =>
    if x < dieNat s then s else
    let s := s.mVu fun w => { w with xdecided := w.xdecided ++ [(d.ctx, d.step, v)] }
    hxSend x (shortPkt kXVERDICT (xverdictBody d v d.cause named e)) s

/-- A verdict ends a procedure: recorded, reported, told to the other die. -/
def conclude (d : Dispute) (v : Nat) (named : Option (Nat × Huid)) (e : Nat) (s : State) : State :=
  endProc d (tellPeer d v named e (reportVerdict d v named (recordVerdict d v named e s)))

/-! ### UNRESOLVED (R247) -/

/-- The disputed task is a cross-check, whose verdicts halt nothing and replay nothing (R246). -/
def isXtestDispute (s : State) (d : Dispute) : Bool :=
  match disputeTask s d with
  | some (_, t) => t.kind = ktXTEST
  | none => false

def haltUnresolved (d : Dispute) (s : State) : State :=
  let s := s.mStep d.ctx d.epoch d.step fun x => { x with unresolved := true }
  haltQuiet d.ctx (drainToDiscard d.ctx s)

def unresolved (d : Dispute) (s : State) : State :=
  let x := isXtestDispute s d
  let live := (planOfEpoch s d.ctx d.epoch).isSome
  let s := conclude d vUNRESOLVED none 0 s
  if x ∨ ¬ live then s else haltUnresolved d s

/-! ### Replay (R109, R249) -/

/-- A step by context, epoch and number. -/
abbrev StepKey := Nat × Bool × Nat

def stepKeys (s : State) : List StepKey := s.led.steps.map fun x => (x.ctx, x.epoch, x.step)

/-- Steps that one round of the closure of R249 adds to a set. -/
def replayReach (s : State) (set : List StepKey) : List StepKey :=
  let viaEdge (k : StepKey) : Bool :=
    match planOfEpoch s k.1 k.2.1 with
    | none => false
    | some (_, p) => p.edges.any fun e => e.lag = 0 && e.dstLayer = layerOfStep p k.2.2 &&
        match planOf s e.srcCtx with
        | none => false
        | some (_, q) => match edgeSource p q e k.2.2 with
          | none => false
          | some n => set.contains (e.srcCtx, q.epoch, n)
  (stepKeys s).filter fun k =>
    !set.contains k && (viaEdge k || set.any fun x => x.1 = k.1 && x.2.1 = k.2.1 && x.2.2 < k.2.2)

def replayClose (s : State) : Nat → List StepKey → List StepKey
  | 0, set => set
  | n + 1, set => match replayReach s set with
    | [] => set
    | more => replayClose s n (set ++ more)

/-- The replay set of a started step (R249). -/
def replaySet (s : State) (k : StepKey) : List StepKey :=
  if (stepKeys s).contains k then replayClose s (s.led.steps.length + 1) [k] else []

/-- A step stands in a replay order that has not been sent. -/
def replayPending (s : State) (k : StepKey) : Bool :=
  s.vu.replays.any fun r => r.ctx = k.1 && r.epoch = k.2.1 && r.first ≤ k.2.2 && k.2.2 < r.first + r.count

/-- Replay one step (R109). -/
def replayStep (k : StepKey) (s : State) : State :=
  let s := raiseAttempt k.1 k.2.1 k.2.2 s
  let s := bumpCtx 518 55 k.1 1 (mLayerCounts k.1 k.2.1 k.2.2 (fun c => { c with replays := c.replays + 1 }) s)
  xholdSteer k.1 k.2.1 k.2.2 s

/-- Runs of consecutive numbers of a rising list, at most 64 long: first and length. -/
def runsOf : List Nat → List (Nat × Nat)
  | [] => []
  | n :: r => match runsOf r with
    | (m, k) :: rest => if n + 1 = m ∧ k < 64 then (n, k + 1) :: rest else (n, 1) :: (m, k) :: rest
    | [] => [(n, 1)]

/-- REPLAY orders for the steps of one context and epoch. -/
def replayOrders (cause : Nat) (c : Nat) (e : Bool) (ns : List Nat) : List Replay :=
  (runsOf (sortBy id ns)).map fun (n, k) => { ctx := c, epoch := e, first := n, count := k, cause := cause, sentTo := [] }

/-- Order replay of a step and its closure. The order is dropped when the step was already replayed beyond the disputed
attempt (R265); steps of a pending order are not replayed again; a step at attempt 3 is UNRESOLVED (R109). -/
def orderReplay (d : Dispute) (cause : Nat) (s : State) : State :=
  let k : StepKey := (d.ctx, d.epoch, d.step)
  if attemptOf s d.ctx d.epoch d.step ≠ d.attempt then s else
  let set := (replaySet s k).filter fun x => !replayPending s x
  let spent := set.filter fun x => 3 ≤ attemptOf s x.1 x.2.1 x.2.2
  let go := set.filter fun x => attemptOf s x.1 x.2.1 x.2.2 < 3
  let s := go.foldl (fun s x => replayStep x s) s
  let groups := dedup (go.map fun x => (x.1, x.2.1))
  let orders := groups.flatMap fun (c, e) =>
    replayOrders cause c e ((go.filter fun x => x.1 = c ∧ x.2.1 = e).map (·.2.2))
  let s := s.mVu fun v => { v with replays := v.replays ++ orders }
  spent.foldl (fun s x => unresolved (Dispute.mk' x.1 x.2.1 3 x.2.2 noTask d.cause) s) s

/-! ### INPUT_SUSPECT (R243) -/

/-- Word that names a dispute in the purpose of its scrub orders. -/
def disputeWord (d : Dispute) : W64 := word [put 63 52 d.ctx, put 51 51 d.epoch.toNat, put 46 32 d.task, put 31 0 d.step]

/-- After the scrub: the verdict, and the replay with the dispute's cause. -/
def inputReplay (d : Dispute) (s : State) : State :=
  let s := s.mStep d.ctx d.epoch d.step fun x => { x with inputReplays := x.inputReplays + 1 }
  orderReplay d d.cause (conclude d vINPUT none 0 s)

def inputSuspect (d : Dispute) (s : State) : State :=
  if 0 < ((stepOf s d.ctx d.epoch d.step).map (·.inputReplays)).getD 0 then unresolved d s else
  match planOfEpoch s d.ctx d.epoch with
  | none => endProc d s
  | some (_, p) =>
    let ns := dedup (p.roster.map fun l => huidSector (physOf s l))
    if ns.isEmpty then inputReplay d s else
    ns.foldl (fun s n => scOrder n (scMask opSCRUB 0 (some d.ctx) fpSCRUB (disputeWord d)) s)
      (s.mProc d fun p => { p with phase := .scrub ns, asked := [] })

/-- A sector answered a scrub, or its scrub timed out (R326). -/
def scrubDone (w : W64) (n : Nat) (ok : Bool) (s : State) : State :=
  let hit (p : Proc) : Bool := disputeWord p.d = w && match p.phase with
    | .scrub ns => ns.contains n
    | _ => false
  match s.vu.procs.find? hit with
  | none => s
  | some p =>
    if ¬ ok then unresolved p.d s else
    let left := match p.phase with
      | .scrub ns => ns.filter (· ≠ n)
      | _ => []
    if left.isEmpty then inputReplay p.d s else s.mProc p.d fun q => { q with phase := .scrub left }

/-! ### The checker (R244, R241) -/

def noCheckerCase (d : Dispute) (s : State) : State :=
  if bit s.expert.vuConfig 63 then
    let s := mLayerCounts d.ctx d.epoch d.step (fun k => { k with unchecked := true, waived := k.waived + 1 }) s
    endProc d (taskPassed (disputeTok d) (bumpCtx 521 58 d.ctx 1 s))
  else unresolved d s

/-- Await the outcome of the token at another checker instance. -/
def awaitRedispatch (d : Dispute) (s : State) : State := s.mProc d fun p => { p with phase := .redispatch, asked := [] }

/-- Send the existing token to another checker instance; with none, R244 decides. -/
def redispatch (d : Dispute) (t : TaskE) (p : Plan) (s : State) : State :=
  let k := disputeTok d
  if t.kind = ktPERIM then
    match pipesUp s with
    | a :: b :: _ => awaitRedispatch d (s.mPer fun x => { x with queue := x.queue ++ [(k, a, b)] })
    | _ => noCheckerCase d s
  else if t.kind = ktSHADOW then
    match laneFor s d.party (taskDesc p t).role with
    | some l => awaitRedispatch d (laneEnqueue l k s)
    | none => noCheckerCase d s
  else if twcPaths s = 0 then noCheckerCase d s
  else awaitRedispatch d (s.mTwc fun x => { x with queue := x.queue ++ [k] })

/-- Fence the checker of a dispute: a compare path of TWC, the task's pipes, or the lane (R164, R193, R242). With both
paths of TWC in service the manual does not say which one goes: a free value decides. -/
def fenceChecker (d : Dispute) (t : TaskE) (s : State) : State :=
  if t.kind = ktPERIM then fencePipe (d.party % 8) (fencePipe (d.party / 8 % 8) s)
  else if t.kind = ktSHADOW then fenceLane d.party s
  else if twcPaths s = 2 then
    let (n, s) := s.draw
    let a := bit (Config.free n) 0
    fencePaths a (!a) s
  else fencePaths true true s

def checkerFault (d : Dispute) (s : State) : State :=
  match disputeTask s d with
  | none => endProc d s
  | some (p, t) =>
    let s := fenceChecker d t s
    let r := d.checkerRounds + 1
    let s := s.mInst d.ctx d.epoch d.step d.task fun i => { i with checkerRounds := r }
    if 2 < r then unresolved d s else redispatch d t p s

/-- A redispatched token returned: its procedure ends FAIL_CHECKER. -/
def redispatchReturned (t : Token) (s : State) : State :=
  if !t.redispatched then s else
  match s.vu.procs.find? fun p => p.d.ctx = t.ctx && p.d.epoch = t.epoch && p.d.step = t.step && p.d.task = t.task &&
      p.phase = .redispatch with
  | some p => conclude p.d vCHECKER none 0 s
  | none => s

/-! ### A core fails (R248) -/

/-- The layer's element sums are fit for distillation, and none runs (R258). -/
def eligible (s : State) (d : Dispute) (e : Option Nat) : Bool :=
  match disputeTask s d with
  | none => false
  | some (p, t) =>
    let l := planLayer p t.layerIdx
    e.isSome && decide (l.opcode ≤ 0x23) && !opClassR l.opcode && decide (l.maxTerms ≤ 4096) &&
      decide (l.maxTerms * ((fmtF l.inA).bits + (fmtF l.inB).bits) ≤ 8 * 32768) && s.vu.distil.isNone

/-- Sectors, by physical core, of a list of labels. -/
def labelSectors (s : State) (ls : List Huid) : List Nat := dedup (ls.map fun l => huidSector (physOf s l))

/-- The third core of a procedure, as a label (R237). -/
def thirdCore (s : State) (p : Plan) (d : Dispute) : Option Huid :=
  let task := disputeLabels s d
  let used := labelSectors s task
  let sectors := sortBy id (s.cfg.topo.sectors.map (·.num))
  let away := sectors.filter fun n => !used.contains n
  match away.flatMap (freeSpares s) with
  | l :: _ => some l
  | [] =>
    match (sortBy BitVec.toNat p.roster).find? fun l => !used.contains (huidSector (physOf s l)) && coreServes s (physOf s l) with
    | some l => some l
    | none => (sectors.flatMap (freeSpares s)).find? fun l => !task.contains l

/-- Terms of a FEED reply that fits 4,096 bytes. -/
def feedTerms (l : LayerE) : Nat := 8 * 4096 / max ((fmtF l.inA).bits + (fmtF l.inB).bits) 1

/-- Ask for the next terms of the element under distillation (R259 step 1). -/
def askFeed (d : Dispute) (third : Huid) (e lo terms : Nat) (l : LayerE) (s : State) : State :=
  let (r, s) := nextReq s
  let w := min (feedTerms l) (terms - lo)
  let s := s.mVu fun v => { v with distil := v.distil.map fun x => { x with reqId := r, lo := lo, width := w } }
  sendSettle ssFEED d.ctx (disputeHeader d r lo w) e 0 [] third s

/-- Begin the distillation of a core that entered DISTIL. -/
def startDistil (d : Dispute) (h third : Huid) (e : Nat) (s : State) : State :=
  match disputeTask s d with
  | none => s
  | some (p, t) =>
    let l := planLayer p t.layerIdx
    let s := bumpCtx 522 59 d.ctx 1 (stateEvent uVU 0x90030 1 s)
    let s := s.mVu fun v => { v with distil := some {
      phase := 1, huid := h, third := third, d := d, layer := l, elem := e, terms := l.maxTerms, lo := 0, width := 0,
      first := 0, size := l.maxTerms, runs := 0, fails := 0, syndrome := 0, align := 0, searchKey := 0, candidate := 0,
      probes := 0, opsA := [], opsB := [], second := false, reqId := 0 } }
    askFeed d third e 0 l.maxTerms l s

/-- `fail` of R241 and R248: side 0 is the owner; `e` is the wrong element where the procedure found one. -/
def failCore (d : Dispute) (side : Nat) (h : Huid) (e : Option Nat) (third : Huid) (s : State) : State :=
  let v := if side = 0 then vOWNER else vPARTNER
  let die := if side = 1 then (peerDie s d).getD (dieNat s) else dieNat s
  if isXtestDispute s d then testEvent h prXTEST (conclude d v (some (die, h)) 0 s)
  else
    let ok := eligible s d e
    let s1 := conclude d v (some (die, h)) (e.getD 0) s
    let s2 := if die = dieNat s then
        let (distil, s2) := sdcEvent h ok (sbDefect (coreLocus s1 h) 0x60 srcVERDICT s1)
        if distil then startDistil d h third (e.getD 0) s2 else s2
      else s1
    orderReplay d d.cause s2

end Sys2Proof.Machine
end

