-- ==== Sys2Proof/Machine/Distil.lean ====
section
/-!
DEFINITION. Distillation and synthetic reproduction (R257 to R263): the buffer of fed terms, probes, the bisection of
the term range, the character of a failure, the search, and the record.
-/
namespace Sys2Proof.Machine

/-! ### Terms -/

/-- Stored bits and block scale of the terms of one operand in a FEED reply that begins at term `lo`. -/
def unpackTerms (fmt lo n : Nat) (b : Bytes) : List (Nat × Nat) :=
  let w := (fmtF fmt).bits
  let tail := ((w * n + 7) / 8 + 7) / 8 * 8
  (List.range n).map fun i =>
    (bitsAt b (i * w) w, if fmtMx fmt then leAt b (tail + rowBlock lo n 0 i) 1 else 0)

/-- The terms of one operand packed as a FEED reply packs them. -/
def packTerms (fmt lo : Nat) (ts : List (Nat × Nat)) : Bytes :=
  let w := (fmtF fmt).bits
  let elems := leBytes ((w * ts.length + 7) / 8) ((ts.zipIdx.map fun (t, i) => t.1 % 2 ^ w * 2 ^ (w * i)).sum)
  if fmtMx fmt then
    padTo 8 elems ++ (List.range (rowBlocks lo ts.length)).map fun k =>
      BitVec.ofNat 8 ((((ts.zipIdx.find? fun (_, i) => rowBlock lo ts.length 0 i = k).map (·.1.2)).getD 0))
  else elems

/-- Bytes of the A terms of a FEED reply. -/
def termBytes (fmt lo n : Nat) : Nat := (rowsShape fmt 1 n lo).bytes

def termVal (fmt : Nat) (t : Nat × Nat) : Val :=
  let v := decodeElem (fmtF fmt) t.1
  if fmtMx fmt then scaleElem t.2 v else v

/-- Terms of the layer's operator are products. -/
def layerProducts (l : LayerE) : Bool := opGemm l.opcode

def productsOf (l : LayerE) (a b : List (Nat × Nat)) : List Val :=
  if layerProducts l then (a.zip b).map fun (x, y) => (termVal l.inA x).mul (termVal l.inB y)
  else a.map (termVal l.inA)

/-- The lane evaluates this element: a plain exact sum into an output without MX (log entry 17). -/
def probeKnown (l : LayerE) : Bool :=
  !fmtMx l.outFmt && (opGemm l.opcode || [0x07, 0x09, 0x0A, 0x0B, 0x0C, 0x0E].contains l.opcode)

/-- Output bits of a lane for terms; what the manual or the layer entry does not determine is a free value. -/
def laneProbe (l : LayerE) (e : Nat) (a b : List (Nat × Nat)) (s : State) : Nat × State :=
  let f := fmtF l.outFmt
  let r := srBits l e
  let v := (Acc.sum (productsOf l a b)).value
  let x := writeVal f l.rmode r false v
  if probeKnown l ∧ x = writeVal f l.rmode r true v then (x, s)
  else
    let (n, s) := s.draw
    ((Config.free n).toNat % 2 ^ 32, s)

def finiteRat : Val → Option Rat
  | .fin _ m => if m = 0 then none else some m
  | _ => none

/-- ALIGN of R260 from the products of a range and the exact element; none where it has no value. -/
def alignOf (products : List Val) (elem : Val) : Option Nat :=
  let top := (products.filterMap finiteRat).foldl max 0
  match finiteRat elem with
  | some q => if top = 0 then none else some (min (max (floorLog2 top - floorLog2 q + 32) 0) 63).toNat
  | none => none

/-! ### Requests -/

def State.mDistil (f : Distil → Distil) (s : State) : State := s.mVu fun v => { v with distil := v.distil.map f }

def range_ {α : Type} (l : List α) (lo n : Nat) : List α := (l.drop lo).take n

/-- PROBE over a term range. -/
def sendProbe (x : Distil) (lo w : Nat) (s : State) : State :=
  let (r, s) := nextReq s
  let l := x.layer
  let payload := packTerms l.inA lo (range_ x.opsA lo w) ++
    if layerProducts l then packTerms l.inB lo (range_ x.opsB lo w) else []
  let s := s.mDistil fun y => { y with lo := lo, width := w, reqId := r }
  sendSettle ssPROBE x.d.ctx (disputeHeader x.d r lo w) x.elem 0 payload (labelOf s x.huid) s

/-- Candidate operands of term `j` (R261). -/
def candidateTerm (key : W128) (n j o fmt : Nat) : Nat × Nat :=
  let v := (cg128 (cgCounter 4 0 0 (n * 64 + j * 8 + o)) key).toNat
  (v % 2 ^ (fmtF fmt).bits, 127)

def candidateOps (x : Distil) (n : Nat) : List (Nat × Nat) × List (Nat × Nat) :=
  ((List.range x.size).map fun j => candidateTerm x.searchKey n j 0 x.layer.inA,
   (List.range x.size).map fun j => candidateTerm x.searchKey n j 1 x.layer.inB)

def candidateAligned (x : Distil) (n : Nat) : Bool :=
  let (a, b) := candidateOps x n
  let ps := productsOf x.layer a b
  alignOf ps (Acc.sum ps).value = some x.align

/-- The first candidate from `n` on, of at most `fuel`, whose ALIGN is the failure's. -/
def nextCandidate (x : Distil) : Nat → Nat → Option Nat
  | 0, _ => none
  | fuel + 1, n => if candidateAligned x n then some n else nextCandidate x fuel (n + 1)

/-! ### The end -/

def resNONE := 0
def resREPRODUCED := 1
def resNOT := 2
def resABANDONED := 3

/-- Step 7 of R259: the buffer is erased, the core is told to DISCARD, and the result stands. -/
def endDistil (result : Nat) (s : State) : State :=
  match s.vu.distil with
  | none => s
  | some x =>
    let (r, s) := nextReq s
    let s := sendSettle ssDISCARD x.d.ctx (disputeHeader x.d r 0 0) x.elem 0 [] (labelOf s x.huid) s
    stateEvent uVU 0x90030 0 (s.mVu fun v => { v with distil := none, distilResult := result })

/-- A distillation is abandoned: a core not yet CONFIRMED becomes SUSPECT (R254, R265). -/
def abandonDistil (result : Nat) (s : State) : State :=
  match s.vu.distil with
  | none => s
  | some x =>
    endDistil result (if (padOf s x.huid).st = .distil then setPad x.huid .suspect prNOTREPRO s else s)

/-! ### The record -/

def recordBody (s : State) (x : Distil) (cand : Nat) : BitVec 512 :=
  let l := x.layer
  BitVec.ofNat 512 (put 511 480 0x53594E52 + put 479 474 l.opcode + put 473 469 l.inA + put 468 464 l.inB +
    put 463 459 l.outFmt + put 458 457 l.rmode + put 456 454 (x.size - 1) + put 453 448 x.align +
    put 447 416 x.syndrome.toNat + put 415 288 x.searchKey.toNat + put 287 264 cand +
    put 263 248 (((modelOf s x.huid).map (·.coreModel.toNat)).getD 0) + put 247 120 (coreLocus s x.huid).toNat +
    put 119 92 s.cfg.bootSeq.toNat)

/-- r then s, each 48 bytes big-endian. -/
def sigBytes (x : BitVec 384 × BitVec 384) : Bytes := beBytes 48 x.1.toNat ++ beBytes 48 x.2.toNat

/-- Sign bytes with a key of the key store. -/
def signWith (slot : Nat) (b : Bytes) (s : State) : Bytes × State :=
  let (n, s) := s.draw
  (sigBytes (Config.ecdsaSign (keySlot s slot) (Config.sha384 b) n), s)

/-- The local pattern list after an addition: at 1,024 records the oldest that came from no package goes (R263). -/
def addPattern (q : Pattern) (ps : List Pattern) : List Pattern :=
  if ps.length < 1024 then ps ++ [q]
  else match ps.findIdx? fun p => !p.fromPackage with
    | some i => ps.eraseIdx i ++ [q]
    | none => ps

def patternBytes (q : Pattern) : Bytes :=
  leBytes 64 q.body.toNat ++ (if q.fromPackage then [] else q.sig) ++ leBytes 1 q.fromPackage.toNat

/-- Make, list and export a reproduction record (R263). -/
def makeRecord (x : Distil) (cand : Nat) (s : State) : State :=
  let body := recordBody s x cand
  let (sig, s) := signWith 0xE1 (leBytes 64 body.toNat) s
  let q : Pattern := { body := body, sig := sig, fromPackage := false }
  let listed := addPattern q s.vu.patterns
  let s := s.mVu fun v => { v with patterns := listed }
  let s := if listed.contains q then sbWrite sbREPRO (patternBytes q) s else s
  let s := bumpCtx 523 60 x.d.ctx 1 s
  if bit s.cfg.exportBits x.layer.opcode then
    sbWrite sbEXPORT (patternBytes q) (s.mVu fun v => { v with exports := v.exports ++ [q] })
  else s

/-! ### Steps of R259 -/

/-- PROBE_SYN of the next aligned candidate, or the end of the search (R261). -/
def searchOn (x : Distil) (n : Nat) (s : State) : State :=
  if 2 ^ fld s.expert.vuConfig 10 6 ≤ x.probes then endDistil resNOT s else
  match nextCandidate x (2 ^ 24 - n) n with
  | none => endDistil resNOT s
  | some c =>
    let (r, s) := nextReq s
    let s := s.mDistil fun y => { y with candidate := c, lo := 0, width := y.size, reqId := r }
    sendSettle ssPROBESYN x.d.ctx (disputeHeader x.d r 0 x.size) x.elem 0
      (leBytes 16 x.searchKey.toNat ++ leBytes 8 c) (labelOf s x.huid) s

/-- Steps 5 and 6: the character of the failure, and the search. -/
def beginSearch (x : Distil) (s : State) : State :=
  if 8 < x.size then endDistil resNOT s else
  let l := x.layer
  let part := productsOf l (range_ x.opsA x.first x.size) (range_ x.opsB x.first x.size)
  let whole := (Acc.sum (productsOf l x.opsA x.opsB)).value
  let (n, s) := s.draw
  let al := (alignOf part whole).getD ((Config.free n).toNat % 64)
  let (k, s) := s.draw
  let y := { x with phase := 4, align := al, searchKey := (Config.trng k).setWidth 128, candidate := 0, probes := 0 }
  let s := stateEvent uVU 0x90030 4 (s.mVu fun v => { v with distil := some y })
  searchOn y 0 s

/-- Step 4: probe the first half of the current range, or go on when one term is left. -/
def bisectOn (x : Distil) (s : State) : State :=
  if x.size ≤ 1 then beginSearch x s else sendProbe x x.first (x.size / 2) (s.mDistil fun y => { y with second := false })

/-- An answer to a probe: the core's output bits. -/
def probeReply (x : Distil) (core : Nat) (s : State) : State :=
  let l := x.layer
  if x.phase = 2 then
    let (lane, s) := laneProbe l x.elem x.opsA x.opsB s
    let bad := core ≠ lane
    let y := { x with
      runs := x.runs + 1
      fails := if bad then x.fails + 1 else x.fails
      syndrome := if bad then BitVec.ofNat 32 (core ^^^ lane) else x.syndrome }
    let s := s.mVu fun v => { v with distil := some y }
    if y.runs < fld s.expert.vuConfig 15 11 then sendProbe y 0 y.terms s
    else if y.fails = 0 then endDistil resNOT (setPad y.huid .suspect prNOTREPRO s)
    else
      let z := { y with phase := 3, first := 0, size := y.terms }
      let s := stateEvent uVU 0x90030 3 (setPad y.huid .confirmed prCONFIRMED (s.mVu fun v => { v with distil := some z }))
      bisectOn z s
  else if x.phase = 3 then
    let (lane, s) := laneProbe l x.elem (range_ x.opsA x.lo x.width) (range_ x.opsB x.lo x.width) s
    if core ≠ lane then
      let y := { x with first := x.lo, size := x.width, syndrome := BitVec.ofNat 32 (core ^^^ lane) }
      bisectOn y (s.mVu fun v => { v with distil := some y })
    else if x.second then beginSearch x s
    else
      let y := { x with second := true }
      sendProbe y (x.first + x.size / 2) (x.size - x.size / 2) (s.mVu fun v => { v with distil := some y })
  else if x.phase = 4 then
    let (a, b) := candidateOps x x.candidate
    let (lane, s) := laneProbe l x.elem a b s
    if core ≠ lane ∧ BitVec.ofNat 32 (core ^^^ lane) = x.syndrome then
      endDistil resREPRODUCED (makeRecord x x.candidate s)
    else
      let y := { x with probes := x.probes + 1 }
      searchOn y (x.candidate + 1) (s.mVu fun v => { v with distil := some y })
  else s

/-- Terms fed by the third core. -/
def feedReply (x : Distil) (b : Bytes) (s : State) : State :=
  let l := x.layer
  let na := termBytes l.inA x.lo x.width
  let y := { x with
    opsA := x.opsA ++ unpackTerms l.inA x.lo x.width (b.take na)
    opsB := if layerProducts l then x.opsB ++ unpackTerms l.inB x.lo x.width (b.drop na) else [] }
  let s := s.mVu fun v => { v with distil := some y }
  let next := x.lo + x.width
  if next < x.terms then askFeed x.d x.third x.elem next x.terms l s
  else
    let z := { y with phase := 2 }
    sendProbe z 0 z.terms (stateEvent uVU 0x90030 2 (s.mVu fun v => { v with distil := some z }))

/-- A SETTLE_REPLY of the running distillation. -/
def distilReply (x : Distil) (b : Bytes) (s : State) : State :=
  if x.phase = 1 then feedReply x b s else probeReply x (leAt b 0 8) s

end Sys2Proof.Machine
end

