-- ==== Sys2Proof/Machine/Procedure.lean ====
section
/-!
DEFINITION. The decision procedures of the Verdict Unit (R233 to R246): how one starts, its settling rounds, its vote,
and the orders and messages that follow from it (R250, R252, R256).
-/
namespace Sys2Proof.Machine

/-! ### Rounds of bisection (R240) -/

/-- Width of the sub-ranges of a round. -/
def subWidth (w : Nat) : Nat := (w + 15) / 16

/-- Elements of sub-range `i`. -/
def subCount (w i : Nat) : Nat := min (subWidth w) (w - i * subWidth w)

/-- Labels of this die that a round asks: the cores of both sides, or the owner cores and the third core. -/
def roundLabels (s : State) (p : Plan) (d : Dispute) (third : Huid) : List Huid :=
  if (planTask p d.task).kind = ktPERIM then sideLabels s p d.task 0 ++ [third]
  else sideLabels s p d.task 0 ++ sideLabels s p d.task 1

def sideOfLabel (s : State) (d : Dispute) (l : Huid) : Nat :=
  match disputeTask s d with
  | some (p, _) => if (sideLabels s p d.task 0).contains l then 0 else 1
  | none => 0

/-- XSETTLE request for the range of a round, to the other die of a TWIN_XDIE dispute. -/
def sendXsettle (d : Dispute) (lo w : Nat) (s : State) : State :=
  match peerDie s d, procOf s d with
  | some x, some p =>
    hxSend x (longPkt kXSETTLE 0 (leBytes 32 (disputeHeader d p.reqId lo w))) (s.mProc d fun q => { q with xwait := true })
  | _, _ => s

def bisectRound (d : Dispute) (lo w : Nat) (s : State) : State :=
  match disputeTask s d, procOf s d with
  | some (p, _), some pr =>
    sendXsettle d lo w (askRound d (.bisect lo w) ssRANGE lo w 0 (roundLabels s p d pr.third) s)
  | _, _ => endProc d s

/-- Sum and count of a side in sub-range `i`. -/
def sideEnt (pr : Proc) (side i : Nat) : Nat × Nat :=
  let es := (pr.ranges.filter fun r => r.side = side).filterMap fun r => r.ents[i]?
  ((es.map (·.sum)).sum % 2 ^ 64, (es.map (·.count)).sum)

/-- The one physical core that reports count 1 for a side; none when no core or several do. -/
def sideWriter (pr : Proc) (side i : Nat) : Option Huid :=
  match ((pr.ranges.filter fun r => r.side = side).filterMap fun r => r.ents[i]?).filter fun e => e.count = 1 with
  | [e] => if e.writer = 0xFFFF then none else some e.writer
  | _ => none

def firstDiff (pr : Proc) : Option Nat := (List.range 16).find? fun i => sideEnt pr 0 i ≠ sideEnt pr 1 i

/-- The third core, or UNRESOLVED when none exists (R237). -/
def withThird (d : Dispute) (f : Huid → State → State) (s : State) : State :=
  match disputeTask s d with
  | none => endProc d s
  | some (p, _) => match thirdCore s p d with
    | some l => f l (s.mProc d fun q => { q with third := l })
    | none => unresolved d s

def askThird (d : Dispute) (ph : Phase) (sub lo : Nat) (partner l : Huid) (s : State) : State :=
  askRound d ph sub lo 0 partner [l] s

/-- Element e is known. -/
def elementFound (pr : Proc) (e i : Nat) (s : State) : State :=
  let d := pr.d
  let w0 := sideWriter pr 0 i
  match disputeTask s d with
  | none => endProc d s
  | some (_, t) =>
    if t.kind = ktPERIM then
      match w0 with
      | some w => failCore d 0 w (some e) pr.third s
      | none => inputSuspect d s
    else
      withThird d (fun l s => askThird d (.element e) ssELEMENT e 0 l s) (s.mProc d fun q =>
        { q with e := e, h0 := some (sideEnt pr 0 i).1, h1 := some (sideEnt pr 1 i).1, w0 := w0, w1 := sideWriter pr 1 i })

/-! ### TWIN_COVER -/

/-- A side has a sub-range whose count is not its width. -/
def coverBad (pr : Proc) (w side : Nat) : Option Nat :=
  (List.range 16).find? fun i => (sideEnt pr side i).2 ≠ subCount w i

/-- Cores that may be named for the wrong count of an element: those that counted it more than once, else all that
counted it. -/
def coverWriters (pr : Proc) (side i : Nat) : List Huid :=
  let es := ((pr.ranges.filter fun r => r.side = side).filterMap fun r => r.ents[i]?).filter fun e => e.writer ≠ 0xFFFF
  match es.filter fun e => 1 < e.count with
  | [] => (es.filter fun e => 0 < e.count).map (·.writer)
  | l => l.map (·.writer)

/-- Name a core of a coverage fault; of several the manual does not say which, and a free value decides. -/
def coverName (pr : Proc) (side e i : Nat) (s : State) : State :=
  match coverWriters pr side i with
  | [] => inputSuspect pr.d s
  | [h] => failCore pr.d side h (some e) pr.third s
  | l =>
    let (n, s) := s.draw
    failCore pr.d side (l.getD ((Config.free n).toNat % l.length) 0) (some e) pr.third s

def coverRound (pr : Proc) (lo w : Nat) (s : State) : State :=
  match coverBad pr w 0, coverBad pr w 1 with
  | some _, some _ => unresolved pr.d s
  | none, none => inputSuspect pr.d s
  | a, b =>
    let side := if a.isSome then 0 else 1
    let i := (a.orElse fun _ => b).getD 0
    if subWidth w = 1 then
      withThird pr.d (fun l s => coverName { pr with third := l } side (lo + i) i s) s
    else bisectRound pr.d (lo + i * subWidth w) (subCount w i) s

def roundDone (pr : Proc) (lo w : Nat) (s : State) : State :=
  if pr.voided then inputSuspect pr.d s
  else if pr.d.cause = dTWINCOVER then coverRound pr lo w s
  else match firstDiff pr with
    | none => inputSuspect pr.d s
    | some i =>
      if subWidth w = 1 then elementFound pr (lo + i) i s else bisectRound pr.d (lo + i * subWidth w) (subCount w i) s

/-! ### The vote -/

def failNamed (pr : Proc) (side : Nat) (w : Option Huid) (s : State) : State :=
  match w with
  | some h => failCore pr.d side h (some pr.e) pr.third s
  | none => inputSuspect pr.d s

/-- `vote` of R241, and the last step of SHADOW. -/
def elementVote (pr : Proc) (s : State) : State :=
  if pr.d.cause = dSHADOW then
    if pr.h3.isSome ∧ pr.h3 = pr.h1 then failNamed pr 0 pr.w0 s else inputSuspect pr.d s
  else if pr.h3.isNone then inputSuspect pr.d s
  else if pr.h3 = pr.h1 ∧ pr.h1 ≠ pr.h0 then failNamed pr 0 pr.w0 s
  else if pr.h3 = pr.h0 ∧ pr.h0 ≠ pr.h1 then failNamed pr 1 pr.w1 s
  else inputSuspect pr.d s

/-! ### PERIM -/

def tokOfDispute (d : Dispute) : Token := disputeTok d

/-- The next partner core whose contribution is compared, by number. -/
def askShare (pr : Proc) (i : Nat) (s : State) : State :=
  match disputeTask s pr.d with
  | none => endProc pr.d s
  | some (p, t) =>
    match (sideLabels s p pr.d.task 1)[i]? with
    | none => inputSuspect pr.d s
    | some l => askThird pr.d (.partnerShare i) ssPARTNER (taskTile p t (roundOfStep p pr.d.step)) l pr.third s

/-- `faulty_partner` of R241. -/
def faultyPartner (pr : Proc) (s : State) : State :=
  match disputeTask s pr.d with
  | none => endProc pr.d s
  | some (p, _) => match sideLabels s p pr.d.task 1 with
    | [l] => failCore pr.d 1 (physOf s l) none pr.third s
    | _ => askShare pr 0 s

/-- The third core's owner record has arrived, or its vote is void. -/
def ownerRecord (pr : Proc) (s : State) : State :=
  let d := pr.d
  match disputeTask s d with
  | none => endProc d s
  | some (p, _) =>
    let k := disputeTok d
    let (own, par) := perimRecs s p k
    let t := parsePerim pr.rec3
    if pr.voided ∨ t.isNone then inputSuspect d s else
    let l := tokLayer p k
    let match2 := perimCompare t par l (tokTile p k) = .out peMATCH 0
    if t = own then (if match2 then checkerFault d s else faultyPartner pr s)
    else if match2 then bisectRound d 0 l.elements s
    else inputSuspect d s

/-- A partner's contribution as the third core computes it, beside the one that was captured. -/
def shareCompared (pr : Proc) (i : Nat) (s : State) : State :=
  let d := pr.d
  match disputeTask s d with
  | none => endProc d s
  | some (p, _) =>
    let l := (sideLabels s p d.task 1).getD i 0
    let sent := ((groupOf s d.ctx d.epoch d.step d.task 1).shares.find? fun x => x.1 = l).map (·.2)
    let differs := match sent with
      | some b => !pr.voided && decide (parsePerim b ≠ parsePerim pr.rec3)
      | none => false
    if differs then failCore d 1 (physOf s l) none pr.third s else askShare pr (i + 1) s

/-! ### SHADOW -/

/-- The writer of e has answered: its hash beside REF's, then the second lane. -/
def writerKnown (pr : Proc) (e : Nat) (s : State) : State :=
  let d := pr.d
  match disputeTask s d with
  | none => endProc d s
  | some (p, t) =>
    if pr.voided ∨ (sideEnt pr 0 0).2 = 0 ∨ (sideEnt pr 0 0).1 ≠ refHash s p (disputeTok d) e then inputSuspect d s else
    match secondLane s d.party (taskDesc p t).role with
    | none => noCheckerCase d s
    | some m =>
      awaitRedispatch d (laneEnqueue m (disputeTok d)
        (s.mProc d fun q => { q with e := e, w0 := sideWriter pr 0 0, h1 := some d.laneHash }))

/-! ### A round is complete -/

def advance (pr : Proc) (s : State) : State :=
  match pr.phase with
  | .bisect lo w => roundDone pr lo w s
  | .element _ => elementVote pr s
  | .tileOwner => ownerRecord pr s
  | .partnerShare i => shareCompared pr i s
  | .writer e => writerKnown pr e s
  | .redispatch => s
  | .scrub _ => s

/-- Go on when every answer of the round has come. -/
def settleOn (d : Dispute) (s : State) : State :=
  match procOf s d with
  | some pr => if pr.asked.isEmpty ∧ ¬ pr.xwait then advance pr s else s
  | none => s

/-! ### Replies -/

/-- The 16 entries of a RANGE answer; `w` replaces each WRITER where it is given. -/
def rangeEnts (b : Bytes) (w : Option Huid) : List RangeEnt :=
  (List.range 16).map fun i =>
    let v := leAt b (16 * i) 16
    { sum := nf v 127 64, count := nf v 63 24,
      writer := if nf v 63 24 = 0 then 0xFFFF else w.getD (BitVec.ofNat 16 (nf v 23 8)) }

/-- One answer, taken into its procedure. -/
def takeReply (pr : Proc) (l : Huid) (void : Bool) (b : Bytes) (s : State) : State :=
  let side := sideOfLabel s pr.d l
  let who := physOf s l
  settleOn pr.d (s.mProc pr.d fun q =>
    let q := { q with asked := q.asked.erase l }
    if void then { q with voided := true } else
    match q.phase with
    | .bisect _ _ | .writer _ => { q with ranges := q.ranges ++ [{ core := l, side := side, ents := rangeEnts b (some who) }] }
    | .element _ => { q with h3 := some (leAt b 0 8) }
    | _ => { q with rec3 := b })

/-! ### XSETTLE at the other die -/

/-- A reply of this die's side: 16 entries, or none where the status says so (R355). -/
def xsettleReply (die header status : Nat) (ents : List RangeEnt) (s : State) : State :=
  let h := header + put 97 97 1 + put 96 94 status
  hxSend die (longPkt kXSETTLE 0 (leBytes 32 h ++ (List.range 16).flatMap fun i =>
    match ents[i]? with
    | some e => leBytes 16 (put 127 64 e.sum + put 63 24 e.count + put 23 8 e.writer.toNat)
    | none => leBytes 16 0)) s

/-- The sum of the answers of this side's cores. -/
def sumEnts (rs : List RangeAns) : List RangeEnt :=
  (List.range 16).map fun i =>
    let es := rs.filterMap fun r => r.ents[i]?
    { sum := (es.map (·.sum)).sum % 2 ^ 64, count := (es.map (·.count)).sum,
      writer := match es.filter fun e => 0 < e.count with
        | [e] => e.writer
        | _ => 0xFFFF }

def takeXreply (x : XReq) (l : Huid) (void : Bool) (b : Bytes) (s : State) : State :=
  let drop (s : State) : State := s.mVu fun v => { v with xreqs := v.xreqs.filter fun y => y.reqId ≠ x.reqId }
  if void then xsettleReply x.die x.header 1 [] (drop s) else
  let y : XReq := { x with
    asked := x.asked.erase l
    ranges := x.ranges ++ [{ core := l, side := 0, ents := rangeEnts b (some (physOf s l)) }] }
  if y.asked.isEmpty then xsettleReply y.die y.header 0 (sumEnts y.ranges) (drop s)
  else s.mVu fun v => { v with xreqs := v.xreqs.map fun z => if z.reqId = x.reqId then y else z }

/-- Label that the running distillation awaits. -/
def distilLabel (s : State) (x : Distil) : Huid := if x.phase = 1 then x.third else labelOf s x.huid

/-- An answer, or none in time, of a label to a request: it goes to whatever awaits it. -/
def settleAnswer (reqId : Nat) (l : Huid) (void : Bool) (b : Bytes) (s : State) : State :=
  match s.vu.procs.find? fun q => q.reqId = reqId && q.asked.contains l with
  | some q => takeReply q l void b s
  | none => match s.vu.xreqs.find? fun x => x.reqId = reqId && x.asked.contains l with
    | some x => takeXreply x l void b s
    | none => match s.vu.distil with
      | some x =>
        if x.reqId = reqId ∧ distilLabel s x = l then
          (if void then abandonDistil resNOT s else distilReply x b s)
        else s
      | none => s

def settleReply (p : Ingress) (s : State) : State :=
  let h := leAt p.body 0 32
  if nf h 97 97 = 1 then settleAnswer (nf h 193 178) p.src (nf h 96 94 ≠ 0) (payloadAfter p 40) s else s

def execSettleReply (p : Ingress) (s : State) : Host.Outcome State Fault Refusal :=
  .next (ingress 0x07 none p (fun s => if partDown s then s else settleReply p s) s)

/-- The oldest request that a label has not answered: its number and context. -/
def openRequest (s : State) (l : Huid) : Option (Nat × Nat) :=
  match s.vu.procs.find? fun q => q.asked.contains l with
  | some q => some (q.reqId, q.d.ctx)
  | none => match s.vu.xreqs.find? fun x => x.asked.contains l with
    | some x => some (x.reqId, nf x.header 255 244)
    | none => match s.vu.distil with
      | some x => if distilLabel s x = l then some (x.reqId, x.d.ctx) else none
      | none => none

/-- A core did not answer in time (R239); the command names its label. -/
def settleTimeout (l : Huid) (s : State) : State :=
  match openRequest s l with
  | none => s
  | some (r, c) => settleAnswer r l true [] (reportUnit uVU 0x65 0 (some c) (physOf s l) (bumpCtx 520 57 c 1 s))

def execSettleTimeout (core : Huid) (s : State) : Host.Outcome State Fault Refusal := .next (settleTimeout core s)

/-- A core that the host fences votes no more (R265). -/
def voidVote (l : Huid) (s : State) : State :=
  match openRequest s l with
  | some (r, _) => settleAnswer r l true [] s
  | none => s

/-! ### The start of a procedure -/

/-- RESIDUE (R245). -/
def residueCase (d : Dispute) (s : State) : State :=
  let h : Huid := BitVec.ofNat 16 d.party
  if ((stepOf s d.ctx d.epoch d.step).bind (·.residueCore)) = some h then failCore d 0 h none 0 s
  else endProc d (orderReplay d dRESIDUE s)

/-- STEP_TIMEOUT (R245). -/
def timeoutCase (d : Dispute) (s : State) : State :=
  if 2 ≤ ((stepOf s d.ctx d.epoch d.step).map (·.timeouts)).getD 0 then unresolved d s
  else endProc d (orderReplay d dTIMEOUT s)

/-- A whole output equals a lane's. -/
def sameOutput (w : Task) (out : List Nat) (b : Bytes) : Bool :=
  b.length = w.d.outBytes && (w.compare out b).1 = 0

/-- XTEST (R246): the lane recomputes the test, and outvotes one side. -/
def xtestCase (d : Dispute) (p : Plan) (t : TaskE) (s : State) : State :=
  let n := (taskDesc p t).outBytes
  let a := d.outs.getD 0 []
  let b := d.outs.getD 1 []
  let core (side : Nat) : Huid := physOf s ((sideLabels s p d.task side).headD 0)
  if d.outcome = twSHAPE then
    if a.length ≠ n ∧ b.length ≠ n then unresolved d s
    else if a.length ≠ n then failCore d 0 (core 0) none 0 s
    else failCore d 1 (core 1) none 0 s
  else if (List.range 64).any (laneUp s) then
    let w := xtestLane s p t d.step
    let out := w.full
    if sameOutput w out b then failCore d 0 (core 0) none 0 s
    else if sameOutput w out a then failCore d 1 (core 1) none 0 s
    else unresolved d s
  else noCheckerCase d s

/-- The known-answer test of a dispute's checker (R163, R192, R242). -/
def checkerKat (d : Dispute) (t : TaskE) (pass : Bool) (s : State) : State :=
  if t.kind = ktPERIM then pipeKat (d.party % 8) pass (pipeKat (d.party / 8 % 8) pass s)
  else if t.kind = ktSHADOW then laneKat d.party pass s
  else if pass then s
  else reportSelf uTWC 0 0x44 0 none s

/-- Evidence for a dispute whose checker passed its test. -/
def gather (d : Dispute) (p : Plan) (t : TaskE) (s : State) : State :=
  if t.kind = ktPERIM then
    withThird d (fun l s => askThird d .tileOwner ssTILEOWNER (taskTile p t (roundOfStep p d.step)) 0 l s) s
  else if t.kind = ktSHADOW then
    if d.outcome = saSHAPE then inputSuspect d s
    else askRound d (.writer d.elem) ssRANGE d.elem 1 0 (sideLabels s p d.task 0) s
  else bisectRound d 0 (planLayer p t.layerIdx).elements s

/-- `decide` of R241, up to the first answer that it waits for. -/
def decideCase (d : Dispute) (katPass : Bool) (s : State) : State :=
  if d.cause = dMEMUE then orderReplay d dMEMUE (conclude d vCHECKER none 0 s)
  else if d.cause = dRESIDUE then residueCase d s
  else if d.cause = dTIMEOUT then timeoutCase d s
  else match disputeTask s d with
    | none => endProc d s
    | some (p, t) =>
      if d.cause = dNOCHECKER then noCheckerCase d s
      else if d.cause = dCHECKER then checkerFault d s
      else if d.cause = dXTEST then xtestCase d p t s
      else
        let s := checkerKat d t katPass s
        if katPass then gather d p t s else checkerFault d s

/-- A STEP_TIMEOUT dispute waits for the chains of its step (R245, R331). -/
def disputeReady (s : State) (d : Dispute) : Bool :=
  d.cause ≠ dTIMEOUT || !s.ct.chains.any fun c => c.ctx = d.ctx && c.step = d.step

/-- The other die leads this dispute (R252). Causes that this die's own checker raised are decided here. -/
def followsPeer (s : State) (d : Dispute) : Bool :=
  (d.cause = dTWINDIGEST || d.cause = dTWINCOVER) && match peerDie s d with
    | some x => decide (x < dieNat s)
    | none => false

def newProc (d : Dispute) : Proc :=
  { d := d, phase := .redispatch, third := 0, asked := [], ranges := [], voided := false, h0 := none, h1 := none,
    h3 := none, w0 := none, w1 := none, e := 0, rec3 := [], reqId := 2 ^ 16, xwait := false }

/-- Start the oldest waiting dispute that is ready, when fewer than 64 procedures run. -/
def procedureStart (katPass : Bool) (s : State) : State :=
  if 64 ≤ s.vu.procs.length ∨ partDown s then s else
  match s.vu.waiting.find? (disputeReady s) with
  | none => s
  | some d =>
    let s := s.mVu fun v => { v with waiting := v.waiting.erase d }
    if followsPeer s d then s.mVu fun v => { v with xwaits := v.xwaits ++ [d] }
    else decideCase d katPass (s.mVu fun v => { v with procs := v.procs ++ [newProc d] })

def execProcedureStart (katPass : Bool) (s : State) : Host.Outcome State Fault Refusal := .next (procedureStart katPass s)

/-! ### Redispatch -/

/-- The second lane's answer for a Shadow dispute: outcome and hash of its output at e. The answer says whether
the outcome stands as the task's. -/
def lane2Returned (pr : Proc) (flagged : Bool) (h2 : Nat) (s : State) : Bool × State :=
  let d := pr.d
  if flagged then (true, conclude d vCHECKER none 0 s)
  else if pr.h1 ≠ some h2 then (true, conclude d vCHECKER none 0 (fenceLane d.party s))
  else (false, withThird d (fun l s => askThird d (.element pr.e) ssELEMENT pr.e 0 l s) s)

def redispatchTimeout (c step32 task : Nat) (s : State) : State :=
  match s.vu.procs.find? fun p => p.d.ctx = c && p.d.step % 2 ^ 32 = step32 && p.d.task = task && p.phase = .redispatch with
  | some p => unresolved p.d s
  | none => s

def execRedispatchTimeout (ctx : Ctx) (step : BitVec 32) (task : BitVec 15) (s : State) : Host.Outcome State Fault Refusal :=
  .next (redispatchTimeout ctx.toNat step.toNat task.toNat s)

/-! ### REPLAY (R250) -/

/-- REPLAY to a label waits: its core is being fenced, or the swap is not live. -/
def labelWaits (s : State) (l : Huid) : Bool :=
  s.ym.fencing.contains l || s.ym.pendingLabels.contains l || s.ym.installLabels.contains l

def replayPre (r : Replay) : W64 :=
  word [put 11 0 r.ctx, put 12 12 r.epoch.toNat, put 18 13 (r.count - 1), put 22 19 r.cause, put 63 32 r.first]

/-- An order has a roster core that may have it now, or lost its plan. -/
def replayReady (s : State) (r : Replay) : Bool :=
  match planOfEpoch s r.ctx r.epoch with
  | none => true
  | some (_, p) => p.roster.any fun l => !r.sentTo.contains l && !labelWaits s l

/-- Send the oldest order of a context that some core may have: to every such core of the roster. -/
def replaySend (c : Nat) (s : State) : State :=
  match s.vu.replays.find? fun r => r.ctx = c && replayReady s r with
  | none => s
  | some r =>
    match planOfEpoch s c r.epoch with
    | none => s.mVu fun v => { v with replays := v.replays.erase r }
    | some (_, p) =>
      let due := p.roster.filter fun l => !r.sentTo.contains l
      let now := due.filter fun l => !labelWaits s l
      let s := if r.sentTo.isEmpty ∧ ¬ now.isEmpty then traceStep 4 c (r.first * 64 + r.count) s else s
      let s := now.foldl (fun s l => sendCore 0x11 0 l [replayPre r] [] s) s
      let next := { r with sentTo := r.sentTo ++ now }
      s.mVu fun v => { v with replays :=
        if now.length = due.length then v.replays.erase r else v.replays.map fun x => if x = r then next else x }

def execReplaySend (ctx : Ctx) (s : State) : Host.Outcome State Fault Refusal :=
  .next (if partDown s then s else replaySend ctx.toNat s)

/-! ### XSETTLE (R355) -/

/-- A request: RANGE to every core of this die's side, or NO_TASK. -/
def xsettleAsk (die header : Nat) (s : State) : State :=
  let c := nf header 255 244
  let e := nf header 243 243 = 1
  let task := nf header 240 226
  match planOfEpoch s c e with
  | none => xsettleReply die header 2 [] s
  | some (_, p) =>
    withStep (fullStep (baseOf s c e) (nf header 225 194)) (xsettleReply die header 2 [] s) fun n =>
      if (instOf s c e n task).isNone ∨ attemptOf s c e n ≠ nf header 242 241 then xsettleReply die header 2 [] s else
      let (r, s) := nextReq s
      let ls := sideLabels s p task 0
      let lo := nf header 177 138
      let w := nf header 137 98
      let own := settleHeader c e (nf header 242 241) task n r lo w false 0
      let s := s.mVu fun v => { v with
        xreqs := v.xreqs ++ [{ die := die, header := header, asked := ls, ranges := [], reqId := r }] }
      ls.foldl (fun s l => sendSettle ssRANGE c own 0 0 [] l s) s

/-- A reply to this die's own request. -/
def xsettleAnswer (die header : Nat) (b : Bytes) (s : State) : State :=
  match s.vu.procs.find? fun q => q.xwait && q.reqId = nf header 193 178 && peerDie s q.d = some die with
  | none => s
  | some q =>
    settleOn q.d (s.mProc q.d fun x =>
      if nf header 96 94 ≠ 0 then { x with xwait := false, voided := true }
      else { x with xwait := false, ranges := x.ranges ++ [{ core := 0xFFFF, side := 1, ents := rangeEnts b none }] })

def xsettle (p : HxPkt) (s : State) : State :=
  let h := leAt p.payload 0 32
  if nf h 97 97 = 0 then xsettleAsk (hxSrc p) h s else xsettleAnswer (hxSrc p) h (p.payload.drop 32) s

def execXsettle (p : HxPkt) (s : State) : Host.Outcome State Fault Refusal :=
  .next (consume p s |> fun s => if partDown s then s else xsettle p s)

/-! ### XVERDICT (R252) -/

/-- The disputed step as this die knows it. -/
def xverdictDispute (p : HxPkt) (s : State) : Dispute :=
  let b := p.ext
  let c := fld b 191 180
  let e := bit b 179
  let n := (fullStep (baseOf s c e) (fld b 161 130)).getD (fld b 161 130)
  Dispute.mk' c e (fld b 178 177) n (fld b 176 162) dPEER

/-- Paddock rules for a named core of this die. -/
def ownCoreNamed (d : Dispute) (h : Huid) (e : Nat) (s : State) : State :=
  let third := match disputeTask s d with
    | some (p, _) => thirdCore s p d
    | none => none
  let s := sbDefect (coreLocus s h) 0x60 srcVERDICT s
  let (go, s) := sdcEvent h (eligible s d (some e) && third.isSome) s
  if go then startDistil d h (third.getD 0) e s else s

/-- A verdict from the leading die. FAIL_CHECKER replays nothing: this die's own token is compared again, as the leading
die's is. -/
def verdictFromLeader (p : HxPkt) (d : Dispute) (s : State) : State :=
  let v := fld p.ext 129 127
  let h : Huid := BitVec.ofNat 16 (fld p.ext 116 101)
  let die := fld p.ext 122 117
  let e := fld p.ext 100 61
  let named := if h = 0xFFFF then none else some (die, h)
  let mine := (v = vOWNER ∨ v = vPARTNER) ∧ die = dieNat s ∧ h ≠ 0xFFFF
  let done := ((stepOf s d.ctx d.epoch d.step).map (·.unresolved)).getD false
  let waited := s.vu.xwaits.any (sameDispute d)
  if v = vPASS ∨ (planOfEpoch s d.ctx d.epoch).isNone then s else
  let s := s.mVu fun w => { w with xwaits := w.xwaits.filter fun x => !sameDispute d x }
  if v = vCHECKER then
    match disputeTask s d with
    | some (p, t) => if waited ∧ ¬ done then redispatch d t p (recordVerdict d v named e s) else s
    | none => s
  else if done then (if mine then ownCoreNamed d h e s else s)
  else if v = vUNRESOLVED then unresolved d s
  else
    let s := reportVerdict d v named (recordVerdict d v named e s)
    let s := if mine then ownCoreNamed d h e s else s
    orderReplay d dPEER s

/-- UNRESOLVED from the die that waited in vain. -/
def verdictFromPeer (d : Dispute) (s : State) : State :=
  let hit := s.vu.procs.any fun q => sameDispute q.d d
  let wait := s.vu.waiting.any (sameDispute d)
  if hit ∨ wait ∨ s.vu.xdecided.any fun x => x.1 = d.ctx ∧ x.2.1 = d.step then
    unresolved d (s.mVu fun w => { w with waiting := w.waiting.filter fun x => !sameDispute d x })
  else s

def xverdict (p : HxPkt) (s : State) : State :=
  let d := xverdictDispute p s
  if hxSrc p < dieNat s then verdictFromLeader p d s
  else if fld p.ext 129 127 = vUNRESOLVED then verdictFromPeer d s else s

def execXverdict (p : HxPkt) (s : State) : Host.Outcome State Fault Refusal :=
  .next (consume p s |> fun s => if partDown s then s else xverdict p s)

/-- No XVERDICT came within the bound of R234. -/
def xverdictWaitTimeout (c step32 task : Nat) (s : State) : State :=
  match s.vu.xwaits.find? fun d => d.ctx = c && d.step % 2 ^ 32 = step32 && d.task = task with
  | none => s
  | some d =>
    let peer := peerDie s d
    let s := unresolved d (s.mVu fun v => { v with xwaits := v.xwaits.erase d })
    match peer with
    | some x => hxSend x (shortPkt kXVERDICT (xverdictBody d vUNRESOLVED dPEER none 0)) s
    | none => s

def execXverdictWaitTimeout (ctx : Ctx) (step : BitVec 32) (task : BitVec 15) (s : State) :
    Host.Outcome State Fault Refusal := .next (xverdictWaitTimeout ctx.toNat step.toNat task.toNat s)

/-! ### Turnout and SUSPECT tests (R254, R256) -/

/-- A label is a party to a running procedure. -/
def isParty (s : State) (l : Huid) : Bool :=
  s.vu.procs.any fun q => (disputeLabels s q.d).contains l || q.third = l || q.asked.contains l

/-- Another core of the sector is in turnout. -/
def sectorInTurnout (s : State) (n : Nat) : Bool :=
  s.vu.paddock.any fun x => huidSector (BitVec.ofNat 16 x.1) = n && x.2.st = .turnout

def wantTest (h : Huid) (host : Bool) (s : State) : State :=
  s.mFr fun f => { f with wanted := (f.wanted.filter fun x => x.1 ≠ h) ++ [(h, host)] }

def turnoutSelect (h : Huid) (s : State) : State :=
  if coreServes s h ∧ ¬ sectorInTurnout s (huidSector h) ∧ ¬ (freeSpares s (huidSector h)).isEmpty ∧
      ¬ isParty s (labelOf s h) ∧ s.cfg.inService ∧ ¬ partDown s then
    wantTest h false (enterFenced h .turnout 0 s)
  else s

def execTurnoutSelect (core : Huid) (s : State) : Host.Outcome State Fault Refusal := .next (turnoutSelect core s)

def suspectTest (h : Huid) (s : State) : State :=
  if (padOf s h).st = .suspect ∧ ¬ partDown s then wantTest h false s else s

def execSuspectTest (core : Huid) (s : State) : Host.Outcome State Fault Refusal := .next (suspectTest core s)

end Sys2Proof.Machine
end

