-- ==== Sys2Proof/Machine/Testing.lean ====
section
/-!
DEFINITION. Test sessions as the Farrier ends them, and what VU makes of the result (R254, R396, R397).
-/
namespace Sys2Proof.Machine

def trPASS := 0
def trFAIL := 1
def trVOID := 2

/-- Reason codes of DEFECT sources: S6, turnout, verdict (log entry 12). -/
def srcTURNOUT := 1

/-- A session of a physical core. -/
def sessionOf (s : State) (h : Huid) : Option Session := s.fr.sessions.find? fun x => x.core = h

/-- One TEST packet to the core of a session, addressed by its label (R395, R515). -/
def sendTest (sub : Nat) (h : Huid) (test desc : Nat) (payload : Bytes) (s : State) : State :=
  sendCore 0x13 sub (labelOf s h) [word [put 23 0 test, put 39 24 desc]] payload s

/-- Body of a TEST record (log entry 12): core, result, item, catalogue version, PKG_SEQ, scan ran, time in ms. -/
def testRecord (s : State) (x : Session) (result : Nat) : Bytes :=
  let b := if s.nv.selector then s.nv.bankB else s.nv.bankA
  leBytes 2 x.core.toNat ++ leBytes 1 result ++ leBytes 1 (x.item - 1) ++ leBytes 4 b.catVer ++ leBytes 4 b.pkgSeq ++
    leBytes 1 x.scanRan.toNat ++ leBytes 8 (nowMs s)

/-- VU applies a PASS (R254). -/
def testPassed (h : Huid) (s : State) : State :=
  match (padOf s h).st with
  | .turnout => bump 524 1 (reinstate h prCLEAN s)
  | .suspect => cleanTest h s
  | _ => s

/-- VU applies a FAIL. -/
def testBad (h : Huid) (s : State) : State :=
  match (padOf s h).st with
  | .turnout => bump 524 1 (testFailed h srcTURNOUT s)
  | .suspect => testFailed h srcTURNOUT s
  | _ => reportUnit uVU 0x66 0 none h s

/-- VU applies a VOID: a core in turnout is tested again. -/
def testVoid (h : Huid) (s : State) : State :=
  if (padOf s h).st = .turnout then wantTest h false s else s

/-- A session ends with a result; a FAIL stands at the session's item and index (R396, R397, R402). -/
def endSession (x : Session) (result : Nat) (s : State) : State :=
  let item := if result = trFAIL then x.item - 1 else 0
  let s := sendTest 3 x.core 0 0 [] s
  let s := bump (901 + result) 1 (s.mFr fun f => { f with
    sessions := f.sessions.filter fun y => y.channel ≠ x.channel
    testLast := word [put 63 48 x.core.toNat, put 47 46 result, put 45 44 item,
      put 43 24 (if result = trFAIL then x.index else 0), put 23 23 x.scanRan.toNat, 1] })
  let s := if result = trVOID then s else
    sbWrite sbTEST (testRecord s x result) (s.mPad x.core fun p => { p with timeoutsInRow := 0 })
  if result = trPASS then testPassed x.core s else if result = trFAIL then testBad x.core s else testVoid x.core s

/-- End the session of a core VOID, if it has one. -/
def voidSession (h : Huid) (s : State) : State :=
  match sessionOf s h with
  | some x => endSession x trVOID s
  | none => s

def voidSessionsWhere (f : Huid → Bool) (s : State) : State :=
  (s.fr.sessions.filter fun x => f x.core).foldl (fun s x => voidSession x.core s) s

end Sys2Proof.Machine
end

