-- ==== Sys2Proof/Machine/MusterOps.lean ====
section
/-!
DEFINITION. Muster (R426 to R430): its packets, the fence lift that begins it, and the sending of blocks.
-/
namespace Sys2Proof.Machine

def muIDLE := 0
def muSEND := 1
def muQUERY := 2
def muREPAIR := 3
def muCOMMIT := 4
def muDONE := 5

def State.mMuster (f : Muster → Muster) (s : State) : State :=
  stateChanged uMS 0x10030 s.cfg.muster.st (f s.cfg.muster).st (s.mCfg fun c => { c with muster := f c.muster })

/-- A Muster runs. -/
def musterBusy (s : State) : Bool := muSEND ≤ s.cfg.muster.st && s.cfg.muster.st ≤ muCOMMIT

/-- A sector Muster runs, so that every OPEN is answered BUSY (R430). -/
def sectorMusterBusy (s : State) : Bool := musterBusy s && s.cfg.muster.scope

def fwBlock (s : State) (b : Nat) : Bytes := slice s.cfg.fw (4096 * b) 4096

/-- DATA of one block to a core (R514). -/
def sendBlock (h : Huid) (b : Nat) (s : State) : State :=
  let d := fwBlock s b
  sendCore 0x09 0 (labelOf s h) [word [put 15 0 b, put 47 16 (crc32c d).toNat], 0] d s

def sendMuster (sub : Nat) (w : W64) (h : Huid) (s : State) : State := sendCore 0x09 sub (labelOf s h) [w, 0] [] s

def queryAll (hs : List Huid) (s : State) : State := hs.foldl (fun s h => sendMuster 1 0 h s) s

/-- Steps 2 and 3: every block to every target, block by block, and QUERY. -/
def musterSend (s : State) : State :=
  let m := s.cfg.muster
  let blocks := List.range s.cfg.fwBlocks
  let s := blocks.foldl (fun s b => m.targets.foldl (fun s h => sendBlock h b s) s) s
  let s := bump 960 (m.targets.length * s.cfg.fwBlocks) s
  queryAll m.targets (s.mMuster fun m => { m with st := muQUERY, waiting := m.targets })

/-- An UNFENCE_CORES that a Muster waits for is outstanding in some sector. -/
def musterOrdersLeft (s : State) : Bool :=
  s.ct.sectors.any fun x => (x.2.cur.toList ++ x.2.queue).any fun o => o.purposes.any fun p => p.1 = fpMUSTER

/-- Begin a Muster (step 1); with no target there is nothing to unfence. -/
def startMuster (scope : Bool) (sector : Nat) (targets : List Huid) (s : State) : State :=
  let s := s.mMuster fun _ =>
    { st := muSEND, round := 0, scope := scope, sector := sector, targets := targets, complete := [], waiting := [],
      acked := [], missing := [] }
  let s := if scope then bump 963 1 s else s
  (dedup (targets.map huidSector)).foldl (fun s n =>
    let mask := ((targets.filter fun h => huidSector h = n).map coreBit).foldl (· ||| ·) 0
    scOrder n (scMask opUNFENCE mask none fpMUSTER 0) s) s

/-- An UNFENCE_CORES of the Muster has ended: with the last one, the blocks go out. -/
def musterUnfenced (s : State) : State :=
  if s.cfg.muster.st = muSEND ∧ ¬ musterOrdersLeft s then musterSend s else s

/-- A sector reset drops the sector's targets from the running Muster of S8 (R431). -/
def dropTargets (n : Nat) (s : State) : State :=
  if ¬ musterBusy s ∨ s.cfg.muster.scope then s else
  let keep (l : List Huid) : List Huid := l.filter fun h => huidSector h ≠ n
  s.mMuster fun m => { m with
    targets := keep m.targets, complete := keep m.complete, waiting := keep m.waiting, acked := keep m.acked }

/-- Cores of a sector that its Muster serves (R430): in SERVICE, of a model that does not keep its firmware. -/
def sectorMusterCores (s : State) (n : Nat) : List Huid :=
  match sectorT s n, s.cfg.topo.models[((sectorT s n).map (·.model)).getD 0]? with
  | some t, some m =>
    if m.fwKeep then [] else ((sectorLabels t).map (mkHuid ucCORE n)).filter fun h => coreServes s h
  | _, _ => []

/-- Order the Muster of a sector; Musters run one after the other (R431). -/
def orderSectorMuster (n : Nat) (s : State) : State :=
  if musterBusy s then s.mCfg fun c => { c with musterQ := c.musterQ ++ [n] }
  else startMuster true n (sectorMusterCores s n) s

end Sys2Proof.Machine
end

