-- ==== Sys2Proof/Machine/Snapshot.lean ====
section
/-!
DEFINITION. SNAP (R483), the start of a dump (R493), and the Locus record of a fault (R302, R489).
-/
namespace Sys2Proof.Machine

/-- Every active bank becomes the completed one; the new active bank reads zero. -/
def snapNow (s : State) : State :=
  let s := s.mOb fun o => { o with
    completed := o.active
    ctxCompleted := o.ctxActive
    active := []
    ctxActive := []
    snapSeq := o.snapSeq + 1 }
  ringPush uOB true 0x07 0 none s.ob.snapSeq.toNat (bump 1152 1 s)

def dsNONE := 0
def dsRUNNING := 1
def dsDONE := 2
def dsABORTED := 3

/-- Change the dump's state. -/
def State.mDump (f : Ob → Ob) (s : State) : State :=
  stateChanged uOB 0xF0050 s.ob.dumpState (f s.ob).dumpState (s.mOb f)

/-- The OB domain is on. -/
def obOn (s : State) : Bool := domainOf s 23 = .on

/-- Start a dump; a trigger while one runs is counted and starts nothing. Without its domain OB dumps nothing (R441). -/
def dumpStart (s : State) : State :=
  if ¬ obOn s then s else
  if s.ob.dumpState = dsRUNNING then bump 1157 1 s else
  bump 1156 1 (snapNow (s.mDump fun o => { o with
    dumpState := dsRUNNING
    dumpSlot := !o.dumpSlot
    dumpUnread := 0
    dumpOff := 0
    dumpSeq := o.dumpSeq + 1
    dumpNext := 0
    tackPos := o.tackPos.set 4 0 }))

/-- A running dump is aborted (R494). -/
def dumpAbort (s : State) : State :=
  if s.ob.dumpState ≠ dsRUNNING then s else reportSelf uOB 0 0xA9 0 none (s.mDump fun o => { o with dumpState := dsABORTED })

/-- Locus record of a fault whose final reaction is IRQ or higher. -/
def locusRecord (m loc : W128) (cls level : Nat) (time : Nat) (s : State) : State :=
  let body := leBytes 16 m.toNat ++ leBytes 16 loc.toNat ++ leBytes 8 time ++ leBytes 8 (cls * 16 + level)
  if tackReady s then bump 1153 1 (tackWrite 0 1 body s) else s

end Sys2Proof.Machine
end

