-- ==== Sys2Proof/Machine/Yard.lean ====
section
/-!
DEFINITION. Commands of the Yard Master: link and router events (R275, R276, R278), the install of a table version
(R280), responses of the Fabric Control port (R279, R508), and retirement (R281, R282).
-/
namespace Sys2Proof.Machine

/-! ### Reachability (R278) -/

/-- Routers in service from which no Mesh Attach port can be reached. -/
def stranded (s : State) : List Huid := (liveRouters s).filter fun r => (bestMa s r).isNone

/-- A core that lost its routes gives its label to a spare; with none, NO_SPARE. -/
def coreLost (h : Huid) (s : State) : State :=
  let l := labelOf s h
  if isSpareLabel s l then s else
  match remapLabel l s with
  | some s' => s'
  | none => noSpare l h s

/-- What the mesh no longer reaches: cores give up their labels, other units are reported. -/
def reachUpdate (s : State) : State :=
  let bad := unreachable s ++ stranded s
  let new := bad.filter fun h => !s.ym.unreach.contains h
  let s := s.mYm fun y => { y with unreach := bad, unreachCores := bad.filter fun h => huidClass h = ucCORE }
  new.foldl (fun s h => if huidClass h = ucCORE then coreLost h s else ymReport 0x6C h (bump 581 1 s)) s

/-- The mesh changed: an install with new tables is due, and begins again while one is being written (R283). -/
def meshChanged (removal : Bool) (s : State) : State :=
  let s := s.mYm fun y => { y with pending := true, reroute := y.reroute || removal }
  if s.ym.standby = .writing then computeInstall (reachUpdate s) else s

/-! ### Links and routers -/

/-- Every port that a link joins. -/
def linkPorts (s : State) (h : Huid) : List PortT :=
  (allRouters s).flatMap fun r => (routerPorts s r).filter fun p => p.nbr ≠ 0xFFFF && linkOf p = h

/-- Encoding of `YM.LINK.STATE` (R284). -/
def LinkSt.code : LinkSt → Nat
  | .up => 0
  | .reduced => 1
  | .removed => 2

def State.mLink (h : Huid) (f : Link → Link) (s : State) : State :=
  match linkPorts s h with
  | [] => s
  | p :: _ =>
    let x := linkSt s p
    stateChanged uYM 0xA0020 x.st.code (f x).st.code (s.mYm fun y => { y with links := Tab.set y.links h.toNat (f x) })

def linkDown (h : Huid) (s : State) : State := s.mLink h fun l => { l with st := .removed, trained := 0 }

def hlinkDown (h : Huid) (s : State) : State := meshChanged true (linkDown h (bump 579 1 s))

/-- The link trained at `t` of `f` lanes: full width restores it. -/
def hlinkWidth (h : Huid) (t f : Nat) (s : State) : State :=
  let s := bump 579 1 s
  if t = 0 then meshChanged true (linkDown h s)
  else meshChanged false (s.mLink h fun _ => { full := f, trained := t, st := if f ≤ t then .up else .reduced })

/-- Links of a router. -/
def routerLinks (s : State) (r : Huid) : List Huid :=
  ((routerPorts s r).filter fun p => p.nbr ≠ 0xFFFF).map linkOf

/-- Leave the requests of a router, and the entry that times them. -/
def dropRequests (r : Huid) (s : State) : State :=
  let s := match entryOf s clFCP r with
    | some k => dropEntry k s
    | none => s
  s.mYm fun y => { y with
    outstanding := y.outstanding.filter fun q => q.target ≠ r
    toSend := y.toSend.filter fun q => q.target ≠ r
    polled := y.polled.filter fun x => x.1 ≠ r }

/-- A router has failed: its links are REMOVED, and no request to it is awaited (R276). -/
def routerFailed (r : Huid) (s : State) : State :=
  if s.ym.deadRouters.contains r then s else
  let s := (routerLinks s r).foldl (fun s h => linkDown h s) s
  meshChanged true (dropRequests r (s.mYm fun y => { y with deadRouters := y.deadRouters ++ [r] }))

/-! ### A version goes live -/

/-- Sectors with a router whose table differs between the versions. -/
def changedSectors (s : State) : List Nat :=
  dedup (((liveRouters s).filter fun r => tableOf s false r ≠ tableOf s true r).map huidSector)

/-- Replay of a context from its first started step, after a reroute (R251). -/
def rerouteCtx (c : Nat) (p : Plan) (s : State) : State :=
  match sortBy id ((s.led.steps.filter fun x => x.ctx = c && x.epoch = p.epoch).map (·.step)) with
  | [] => s
  | n :: _ => orderReplay (Dispute.mk' c p.epoch (attemptOf s c p.epoch n) n noTask dREROUTE) dREROUTE s

def rerouteReplay (sectors : List Nat) (s : State) : State :=
  if partDown s then s else
  s.led.plans.foldl (fun s x =>
    if x.2.roster.any fun l => sectors.contains (huidSector l) then rerouteCtx x.2.hdr.ctx x.2 s else s) s

/-- Every router answered EPOCH_SET: step 5 of R280. -/
def installLive (s : State) : State :=
  let sectors := changedSectors s
  let go := s.ym.rerouteNow
  let s := match entryOf s clFCP broadcastTarget with
    | some k => dropEntry k s
    | none => s
  let b := if s.ym.live then s.ym.baseline1 else s.ym.baseline0
  let s := bump 577 1 (s.mYm fun y => { y with
    live := !y.live, standby := .draining, installs := y.installs + 1, installLabels := [], rerouteNow := false,
    polled := [], polling := false, lastInj := b, lastEj := b })
  if go then rerouteReplay sectors s else s

/-- Go on with an install when nothing is outstanding. -/
def ymAdvance (s : State) : State :=
  if ¬ s.ym.outstanding.isEmpty ∨ ¬ s.ym.toSend.isEmpty then s else
  match s.ym.standby with
  | .writing =>
    if (freeEntry s).isNone then s else
    let s := epochSet s
    if s.ym.outstanding.isEmpty then installLive s else s
  | .flipping => installLive s
  | _ => s

/-! ### Retirement (R281, R282) -/

/-- Baseline of the draining epoch. -/
def drainBase (s : State) : BitVec 32 := if s.ym.live then s.ym.baseline0 else s.ym.baseline1

/-- Every router has answered the poll: the sums, and retirement when they balance. -/
def pollDone (s : State) : State :=
  if ¬ s.ym.polling ∨ ¬ s.ym.outstanding.isEmpty ∨ ¬ s.ym.toSend.isEmpty ∨ s.ym.standby ≠ .draining then s else
  let inj := BitVec.ofNat 32 (s.ym.polled.map (·.2.1)).sum
  let ej := BitVec.ofNat 32 (s.ym.polled.map (·.2.2)).sum
  let b := drainBase s
  s.mYm fun y => { y with polling := false, lastInj := inj, lastEj := ej + b,
                          standby := if inj - ej = b then .retired else y.standby }

/-- COUNT_READ of the old epoch at every router. -/
def countReadPoll (s : State) : State :=
  if s.ym.standby ≠ .draining ∨ s.ym.polling ∨ ¬ s.ym.outstanding.isEmpty then s else
  let reqs := (liveRouters s).map fun r : Huid =>
    ({ op := 3, target := r, version := !s.ym.live, word := 0, data := 0 } : FcpReq)
  pollDone (pumpFcp (s.mYm fun y => { y with polling := true, polled := [], toSend := reqs }))

/-- The old epoch is given up. -/
def retireTimeout (s : State) : State :=
  if s.ym.standby ≠ .draining then s else
  let b := s.ym.lastInj - (s.ym.lastEj - drainBase s)
  let s := s.mYm fun y =>
    if y.live then { y with baseline0 := b } else { y with baseline1 := b }
  reportSelf uYM 0 0x6D 0 none (bump 582 1 (s.mYm fun y => { y with
    standby := .retired, invalidate := true, forced := true, polling := false,
    toSend := y.toSend.filter fun q => q.op ≠ 3 }))

/-! ### Responses (R508) -/

/-- A table word was written. -/
def wordWritten (q : FcpReq) (s : State) : State :=
  let n := s.ym.wordRest + 1
  let t := (tableOf s q.version q.target).set q.word q.data.toNat
  bump 578 (n / 2 ^ 10) (s.mYm fun y => { y with tables := Tab.set y.tables (tableKey q.version q.target) t,
                                                 wordRest := n % 2 ^ 10 })

/-- FCP_ERROR of a router (R279). -/
def fcpError (r : Huid) (s : State) : State := ymReport 0x6E r (s.mYm fun y => { y with fcpFault := true })

/-- The request is answered: its entry is free, unless a broadcast still awaits others. -/
def answered (q : FcpReq) (s : State) : State :=
  let s := s.mYm fun y => { y with outstanding := y.outstanding.erase q }
  if q.op = 2 then s else
  match entryOf s clFCP q.target with
  | some k => dropEntry k s
  | none => s

def fcpResponse (header data : W64) (s : State) : State :=
  let op := fld header 63 60
  let r : Huid := BitVec.ofNat 16 (fld header 59 44)
  match s.ym.outstanding.find? fun q => q.op = op && q.target = r with
  | none => fcpError r s
  | some q =>
    if fld header 43 40 ≠ 0 then ymAdvance (pumpFcp (routerFailed r (fcpError r s)))
    else
      let s := answered q s
      let s := if op = 1 then wordWritten q s
        else if op = 3 ∧ s.ym.polling then
          s.mYm fun y => { y with polled := y.polled ++ [(r, fld data 63 32, fld data 31 0)] }
        else s
      pollDone (ymAdvance (pumpFcp s))

/-- A request, or a broadcast, was not answered in time (R279, R319). -/
def fcpTimeout (target : Huid) (s : State) : State :=
  let rs := if target = broadcastTarget then dedup ((s.ym.outstanding.filter fun q => q.op = 2).map (·.target)) else [target]
  pollDone (ymAdvance (pumpFcp (rs.foldl (fun s r => routerFailed r (fcpError r (bump 583 1 s))) s)))

/-- Changes are queued and the standby version is free (R280). -/
def installStart (s : State) : State :=
  if s.ym.standby ≠ .retired ∨ ¬ s.ym.pending then s else ymAdvance (computeInstall (reachUpdate s))

/-! ### Commands -/

def execHlinkDown (link : Huid) (s : State) : Host.Outcome State Fault Refusal := .next (hlinkDown link s)

def execHlinkWidth (link : Huid) (trained full : BitVec 4) (s : State) : Host.Outcome State Fault Refusal :=
  .next (hlinkWidth link trained.toNat full.toNat s)

def execHrouterFail (router : Huid) (s : State) : Host.Outcome State Fault Refusal :=
  .next (pollDone (ymAdvance (pumpFcp (routerFailed router (bump 579 1 s)))))

def routeMiss (s : State) : State := bump 580 1 s

def execRouteMiss (_router : Huid) (_entry : BitVec 8) (s : State) : Host.Outcome State Fault Refusal := .next (routeMiss s)

def execInstallStart (s : State) : Host.Outcome State Fault Refusal := .next (installStart s)

def execFcpResponse (header data : W64) (s : State) : Host.Outcome State Fault Refusal := .next (fcpResponse header data s)

def execCountReadPoll (s : State) : Host.Outcome State Fault Refusal := .next (countReadPoll s)

def execRetireTimeout (s : State) : Host.Outcome State Fault Refusal := .next (retireTimeout s)

end Sys2Proof.Machine
end

