-- ==== Sys2Proof/Machine/Tracker.lean ====
section
/-!
DEFINITION. The Command Tracker (R317 to R334): sector resets, kills, deadlocks, engine and part resets, timeouts, the
answers of the Sector Control ports, and the host's orders.
-/
namespace Sys2Proof.Machine

/-! ### Chip reset request (R327, R505) -/

def clCHIP := 11
def clPART := 9
def clENGINE := 8

/-- Take an entry when one is free. -/
def tryEntry (cls : Nat) (target : Huid) (s : State) : State :=
  match freeEntry s with
  | some k => takeEntry k { cls := cls, target := target, ctx := 0, ctxValid := false } s
  | none => s

/-- Assert CHIP_RST_REQ for a target and time the answer of the board. -/
def chipReset (target : Huid) (s : State) : State :=
  if s.ct.rstReq then s else tryEntry clCHIP target (s.mCt fun c => { c with rstReq := true })

def sectorHuid (n : Nat) : Huid := mkHuid ucCORE n 0

/-- A RESET hangs, or a withdrawal is not answered (R327, R505). -/
def resetHang (n : Nat) (s : State) : State :=
  reportUnit uCT 0x81 0 none (sectorHuid n) (chipReset (sectorHuid n) s)

/-! ### The reset of a sector (R324) -/

/-- Fault states and host fences keep these cores of a sector fenced through its reset. -/
def fencedCores (s : State) (n : Nat) : W64 :=
  match sectorT s n with
  | none => 0
  | some t => maskOf ((sectorLabels t).filter fun i =>
      let h := mkHuid ucCORE n i
      (padOf s h).st ≠ .service || (padOf s h).hostFenced)

/-- An order of the sequence goes ahead of the orders that wait. -/
def seqOrder (n op : Nat) (mask : W64) (s : State) : State :=
  scStart n (s.mSector n fun x => { x with queue := scMask op mask none fpRESET 0 :: x.queue })

/-- Cores that a decision procedure has as parties, as physical cores. -/
def procSectors (s : State) (p : Proc) : List Nat := labelSectors s (disputeLabels s p.d ++ p.asked ++ [p.third])

/-- Contexts with a roster core in a sector. -/
def sectorCtxs (s : State) (n : Nat) : List Nat :=
  dedup ((s.led.plans.filter fun x => (labelSectors s x.2.roster).contains n).map fun x => x.2.hdr.ctx)

/-- Orders of a sector's queue that a sector reset outranks: fences, and CTX_FENCEs, which end with it (R325, R333). -/
def outranked (o : ScOrder) : Bool :=
  (o.op = opFENCE || o.op = opUNFENCE || o.op = opCTXFENCE) && !o.purposes.any fun p => p.1 = fpMUSTER

/-- A fence or unfence of cores that is in progress: it ends SUPERSEDED, and what the sector has done stays done. -/
def coreOrder (o : ScOrder) : Bool := (o.op = opFENCE || o.op = opUNFENCE) && !o.purposes.any fun p => p.1 = fpMUSTER

def endOutranked (o : ScOrder) (s : State) : State :=
  if o.op = opCTXFENCE then s else endHost o stSUPERSEDED (bump 729 1 s)

/-- Begin, or join, the reset of a sector. -/
def sectorReset (n : Nat) (purposes : List (Nat × W64)) (s : State) : State :=
  if (sectorSt s n).rstStep ≠ 0 then
    bump 730 1 (s.mSector n fun x => { x with rstFor := x.rstFor ++ purposes })
  else
    let lost := (sectorSt s n).queue.filter outranked ++ (sectorSt s n).cur.toList.filter coreOrder
    let s := lost.foldl (fun s o => endOutranked o s) (bump 731 1 s)
    let ctxs := sectorCtxs s n
    let s := ctxs.foldl (fun s c => haltQuiet c s) s
    let s := s.mVu fun v => { v with procs := v.procs.filter fun p => !(procSectors s p).contains n }
    let s := dropTargets n (voidSessionsWhere (fun h => huidSector h = n) s)
    seqOrder n opSFENCE 0 (s.mSector n fun x => { x with
      queue := x.queue.filter fun o => !outranked o
      cur := x.cur.map fun o => if coreOrder o then { o with purposes := [] } else o
      rstStep := 1
      rstFor := purposes })

/-! ### Kills (R325) -/

def maHOST := 3
def maLEADER := 2
def maPOLICY := 1
def maALARM := 0

/-- Kills whose last sector has answered are complete. -/
def killCheck (s : State) : State :=
  let ended (k : Kill) : Bool := !k.erasing && k.sectors.isEmpty
  let s := (s.ct.kills.filter fun k => ended k && k.master = maHOST).foldl (fun s k => hostDone k.word stDONE s) s
  s.mCt fun c => { c with kills := c.kills.filter fun k => !ended k }

def killSectorDone (f : Kill → Bool) (n : Nat) (s : State) : State :=
  killCheck (s.mCt fun c => { c with kills := c.kills.map fun k => if f k then { k with sectors := k.sectors.erase n } else k })

/-- Step 7 of R219 for a context whose erasures are over. -/
def killErased (c : Nat) (s : State) : State :=
  if s.mem.erasures.any fun e => e.ctx = c && e.kill then s else
  match s.ct.kills.find? fun k => k.ctx = c && k.erasing with
  | none => s
  | some k =>
    let ns := (sectorMasks s k.labels).map (·.1)
    let s := s.mCt fun t => { t with kills := t.kills.map fun x =>
      if x.ctx = c ∧ x.erasing then { x with erasing := false, sectors := ns } else x }
    killCheck (ctxFence c k.labels fpKILL s)

/-- Labels of every plan of a context. -/
def ctxLabels (s : State) (c : Nat) : List Huid :=
  dedup (((planOf s c).map fun x => x.2.roster).getD [] ++ ((standbyOf s c).map fun x => x.2.roster).getD [])

/-- Kill a context: every plan of it is erased, then its cores' scratchpads. It outranks a switch or retirement in
progress, and merges with a kill that runs. -/
def kill (c master : Nat) (w : W64) (s : State) : State :=
  match s.ct.kills.find? fun k => k.ctx = c with
  | some k => bump 730 1 (s.mCt fun t => { t with kills := t.kills ++ [{ k with master := master, word := w }] })
  | none =>
    let labels := ctxLabels s c
    let k : Kill := { ctx := c, labels := labels, sectors := [], erasing := true, master := master, word := w }
    let s := if (ctxOf s c).switch.isSome then bump 729 1 s else s
    let s := match s.vu.distil with
      | some x => if x.d.ctx = c then abandonDistil resABANDONED s else s
      | none => s
    killErased c ((killPlans c s).mCt fun t => { t with kills := t.kills ++ [k] })

/-- ERASURE_COMPLETE (R219 steps 6 and 7). -/
def erasureComplete (c : Nat) (s : State) : State :=
  match s.mem.erasures.find? fun e => e.ctx = c && erasureReady e with
  | none => s
  | some e => killErased c (finishErasure e s)

def execErasureComplete (ctx : Ctx) (s : State) : Host.Outcome State Fault Refusal := .next (erasureComplete ctx.toNat s)

/-! ### Host fences (R323, R334) -/

/-- Target of a CT.ORDER word. -/
def orderHuid (w : W64) : Huid := BitVec.ofNat 16 (fld w 59 44)

/-- What the purposes of an order that was carried out ask for. -/
def orderDone (p : Nat × W64) (s : State) : State :=
  let op := fld p.2 63 60
  let h := orderHuid p.2
  let s := if op = 2 then (if s.ym.fencing.contains (labelOf s h) then remapFenced h s else s)
    else if op = 3 then s.mPad h fun x => { x with hostFenced := false }
    else s
  if p.1 = fpHOST then hostDone p.2 stDONE s else s

def orderDones (o : ScOrder) (s : State) : State :=
  (o.purposes.filter fun p => p.1 = fpHOST || p.1 = fpLEADER).foldl (fun s p => orderDone p s) s

/-! ### The end of a sector reset -/

/-- The sector is in service again: kills that wait for it end there, the labels of its fenced cores are swapped, and
the orders that asked for the reset are done. -/
def resetEnd (n : Nat) (s : State) : State :=
  let x := sectorSt s n
  let s := s.mSector n fun x => { x with rstStep := 0, rstFor := [] }
  let s := killSectorDone (fun _ => true) n s
  let s := (s.ym.fencing.filter fun l => huidSector l = n).foldl (fun s l =>
    if coreFenced s (physOf s l) then remapFenced (physOf s l) s else fenceOrder (physOf s l) fpFENCE 0 s) s
  scStart n (x.rstFor.foldl (fun s p => orderDone p s) s)

/-- The step after the one that has ended (R324, R430). -/
def seqNext (n : Nat) (s : State) : State :=
  let go (k op : Nat) (mask : W64) (s : State) : State := seqOrder n op mask (s.mSector n fun x => { x with rstStep := k })
  let unfence (s : State) : State := go 6 opSUNFENCE 0 s
  let muster (s : State) : State :=
    if (s.cfg.inService ∨ 8 ≤ s.cfg.stage) ∧ ¬ (sectorMusterCores s n).isEmpty then
      s.mSector n fun x => { x with rstStep := 5 }
    else unfence s
  match (sectorSt s n).rstStep with
  | 1 => go 2 opDRAIN 0 s
  | 2 => go 3 opRESET 0 s
  | 3 => if fencedCores s n = 0 then muster s else go 4 opFENCE (fencedCores s n) s
  | 4 => muster s
  | 5 => unfence s
  | 6 => resetEnd n s
  | _ => s

/-! ### WAIT_QUERY answers (R331, R332) -/

/-- A cycle: every context in it is halted and its queues emptied. Its timeouts are not handled under R245. -/
def deadlock (cycle : List (Huid × Nat)) (s : State) : State :=
  let loci (s : State) (c : Nat) : List (W128 × W128) :=
    cycle.map fun x => (message s 0x84 0 (some c) x.1, coreLocus s x.1)
  let ctxs := (dedup (cycle.map (·.2))).filter fun c => !(ctxOf s c).halted
  if ctxs.isEmpty then s else
  let s := s.mVu fun v => { v with waiting := v.waiting.filter fun d => !(d.cause = dTIMEOUT && ctxs.contains d.ctx) }
  ctxs.foldl (fun s c => ctxFence c (ctxLabels s c) fpDEADLOCK (haltQuiet c (raise uCT (loci s c) s))) (bump 735 1 s)

/-- One chain takes the answer of the core that it asked. -/
def chainStep (h : Huid) (r : W64) (c : Chain) (s : State) : State :=
  let wait := fld r 63 61
  let peer := physOf s (BitVec.ofNat 16 (fld r 60 45))
  let cores := c.cores ++ [(h, fld r 44 33)]
  let rest := s.ct.chains.erase c
  let drop (s : State) : State := s.mCt fun t => { t with chains := rest }
  if wait ≠ 1 ∧ wait ≠ 2 then drop s
  else match cores.findIdx? fun x => x.1 = peer with
    | some i => deadlock (cores.drop i) (drop s)
    | none =>
      if 64 ≤ cores.length ∨ ¬ corePresent s peer then drop s
      else waitQuery peer (s.mCt fun t => { t with chains := rest ++ [{ c with cores := cores, next := peer }] })

def chainsAt (s : State) (h : Huid) : List Chain := s.ct.chains.filter fun c => c.next = h

def waitAnswered (h : Huid) (r : W64) (s : State) : State := (chainsAt s h).foldl (fun s c => chainStep h r c s) s

def waitLost (h : Huid) (s : State) : State := s.mCt fun t => { t with chains := t.chains.filter fun c => c.next ≠ h }

/-! ### Engines and the compute part (R328 to R330) -/

/-- A lane's task in execution is voided and queued again. -/
def requeueRun (l : Nat) (s : State) : State :=
  s.mLane l fun x => match x.run with
    | some r => { x with run := none, queue := r.tok :: x.queue }
    | none => x

/-- Begin the reset of an engine: step 3 of R328 at once; the rest ends when time passes (log entry 10). -/
def engineReset (h : Huid) (w : Option W64) (s : State) : State :=
  match engineOf h with
  | none => s
  | some (u, k) =>
    let busy := s.ct.engineRst.any fun e => engineOf e.1 = some (u, k)
    let s := s.mCt fun c => { c with engineRst := c.engineRst ++ [(h, w)] }
    if busy then bump 730 1 s
    else
      let s := if u = uSA then (range' (4 * k) 4).foldl (fun s l => requeueRun l s) s else s
      tryEntry clENGINE h (bump 732 1 s)

/-- Units of the compute part. -/
def partUnits : List Nat := [uCAP, uLED, uTWC, uPER, uSA, uMEM, uFR]

/-- HUID under which the reset of the compute part is timed (log entry 20). -/
def partHuid : Huid := unitHuid uLED 0

/-- Reports that the local collectors of the compute part hold are lost, the merged ones with them (R301). -/
def clearCollectors (s : State) : State :=
  partUnits.foldl (fun s u => match Tab.get s.fc.collectors u with
    | some rs => bump 679 (1 + ((rs.head?.map (·.merge)).getD 0)) (s.mFc fun f => { f with collectors := Tab.del f.collectors u })
    | none => s) s

/-- Steps 1 and 2 of R329. The reset ends when time passes, once WRST_N is high. -/
def partReset (words : List W64) (s : State) : State :=
  match s.ct.part with
  | .held => words.foldl (fun s w => hostDone w stTIMEOUT s) s
  | .reset => bump 730 1 (s.mCt fun c => { c with partOrders := c.partOrders ++ words })
  | .run =>
    let hosts := s.ct.engineRst.filterMap (·.2)
    let s := hosts.foldl (fun s w => hostDone w stSUPERSEDED (bump 729 1 s)) s
    let s := s.led.plans.foldl (fun s x => haltQuiet x.2.hdr.ctx s) (bump 733 1 s)
    let s := voidSessionsWhere (fun _ => true) (abandonDistil resABANDONED (clearCollectors s))
    let s := s.mVu fun v => { v with procs := [], xreqs := [], waiting := [], xwaits := [], replays := [] }
    tryEntry clPART partHuid (s.mCt fun c => { c with part := .reset, engineRst := [], partOrders := words })

/-- PART_RST expired (R330, R493). -/
def partHang (s : State) : State :=
  let s := s.ct.partOrders.foldl (fun s w => hostDone w stTIMEOUT s) s
  dumpStart (reportUnit uCT 0x83 0 none partHuid (s.mCt fun c => { c with part := .held, partOrders := [] }))

/-! ### An order of a sector fails -/

/-- The remedy for a sector order that timed out or was refused. -/
def orderFailed (n : Nat) (o : ScOrder) (s : State) : State :=
  let carry := o.purposes.filter fun p => p.1 = fpHOST || p.1 = fpLEADER
  let has (k : Nat) : Bool := o.purposes.any fun p => p.1 = k
  if o.op = opFENCE then
    if has fpRESET then
      let held := (sectorSt s n).rstFor
      sectorReset n held (s.mSector n fun x => { x with rstStep := 0 })
    else sectorReset n carry s
  else if o.op = opSFENCE ∨ o.op = opDRAIN then seqNext n s
  else if o.op = opRESET then resetHang n (s.mSector n fun x => { x with dead := true })
  else if o.op = opSCRUB then
    let s := (o.purposes.filter fun p => p.1 = fpSCRUB).foldl (fun s p => scrubDone p.2 n false s) s
    endHost o stTIMEOUT s
  else if o.op = opCTXFENCE then sectorReset n [] s
  else if o.op = opUNFENCE then
    let s := endHost o stTIMEOUT s
    if has fpMUSTER then musterUnfenced s else s
  else if o.op = opSUNFENCE then resetEnd n s
  else if o.op = opWAIT then waitLost (orderTarget n o) s
  else s

/-- What a sector order that was carried out asks for next. -/
def purposesDone (n : Nat) (o : ScOrder) (r : W64) (s : State) : State :=
  let has (k : Nat) : Bool := o.purposes.any fun p => p.1 = k
  let s := if has fpFENCE ∧ o.op = opFENCE then
      (bitsOf 64 o.mask.toNat).foldl (fun s i =>
        let h := mkHuid ucCORE n i
        if s.ym.fencing.contains (labelOf s h) then remapFenced h s else s) s
    else s
  let s := orderDones o s
  let s := if has fpKILL then killSectorDone (fun k => k.ctx = o.ctx) n s else s
  let s := (o.purposes.filter fun p => p.1 = fpSCRUB).foldl (fun s p => scrubDone p.2 n true s) s
  let s := if has fpWAIT then waitAnswered (orderTarget n o) r s else s
  let s := if has fpMUSTER then musterUnfenced s else s
  if has fpRESET then seqNext n s else s

/-- The sector is as the order leaves it (R321). -/
def sectorEffect (o : ScOrder) (present : W64) (x : SectorSt) : SectorSt :=
  if o.op = opFENCE then { x with fenced := x.fenced ||| o.mask }
  else if o.op = opUNFENCE then { x with fenced := x.fenced &&& ~~~o.mask }
  else if o.op = opSFENCE then { x with edge := true }
  else if o.op = opSUNFENCE then { x with edge := false }
  else if o.op = opRESET then { x with fenced := 0 }
  else if o.op = opPOFF then { x with powered := false }
  else if o.op = opPON then { x with powered := true, fenced := present }
  else x

/-- Free the entry of a sector's order. -/
def dropOrderEntry (n : Nat) (o : ScOrder) (s : State) : State :=
  match entryOf s (classOfOp o.op) (orderTarget n o) with
  | some k => dropEntry k s
  | none => s

/-- The port is free for the next order. -/
def portFree (n : Nat) (s : State) : State := s.mSector n fun x => { x with cur := none, withdrawn := false }

/-- The report and the counts of a timeout (R319). -/
def timedOut (c : Cmd) (s : State) : State :=
  let ctx := if c.ctxValid then some c.ctx else none
  let s := bump (716 + c.cls) 1 (s.mCt fun t => { t with
    timeouts := t.timeouts + 1
    lastTimeout := word [put 63 60 c.cls, put 59 44 c.target.toNat, put 43 32 (ctx.getD 0), put 31 31 c.ctxValid.toNat, 1] })
  reportUnit uCT 0x80 0 ctx c.target s

/-- SC_ACK (R505). -/
def scAck (n status : Nat) (r : W64) (s : State) : State :=
  let x := sectorSt s n
  match x.cur with
  | none => s
  | some o =>
    if x.withdrawn then (if status = 3 then s else scStart n (portFree n s))
    else if status = 0 then
      let present := ((sectorT s n).map (·.present)).getD 0
      let s := (portFree n (dropOrderEntry n o s)).mSector n (sectorEffect o present)
      scStart n (purposesDone n o r s)
    else if status = 1 then
      match entryOf s (classOfOp o.op) (orderTarget n o) with
      | none => s
      | some k =>
        let c := (Tab.get s.ct.cmds k).getD (orderCmd n o)
        scStart n (orderFailed n o (timedOut c (dropEntry k (portFree n s))))
    else s

def execScAck (sector : BitVec 6) (status : BitVec 2) (rdata : W64) (s : State) : Host.Outcome State Fault Refusal :=
  .next (scAck sector.toNat status.toNat rdata s)

/-! ### Timeouts -/

/-- CHIP_RST expired: the board did not answer (R327). -/
def chipFailed (target : Huid) (s : State) : State :=
  let s := reportUnit uCT 0x82 0 none target (s.mCt fun c => { c with chipFail := true })
  if huidClass target ≠ ucCORE then s
  else reachUpdate (s.mSector (huidSector target) fun x => { x with unreachable := true })

/-- A sector's order is withdrawn and its remedy applied (R319, R505). -/
def sectorTimeout (n : Nat) (s : State) : State :=
  match (sectorSt s n).cur with
  | none => s
  | some o =>
    orderFailed n o (s.mSector n fun x => { x with cur := some { o with purposes := [] }, withdrawn := true })

/-- CT_TIMEOUT. -/
def ctTimeout (k : Nat) (s : State) : State :=
  match Tab.get s.ct.cmds k with
  | none => s
  | some c =>
    let s := timedOut c (dropEntry k s)
    match c.cls with
    | 7 => fcpTimeout c.target s
    | 8 =>
      let hosts := (s.ct.engineRst.filter fun e => engineOf e.1 = engineOf c.target).filterMap (·.2)
      let s := hosts.foldl (fun s w => hostDone w stTIMEOUT s) s
      partReset [] (s.mCt fun t => { t with engineRst := t.engineRst.filter fun e => engineOf e.1 ≠ engineOf c.target })
    | 9 => partHang s
    | 11 => chipFailed c.target s
    | _ => sectorTimeout (huidSector c.target) s

def execCtTimeout (entry : BitVec 11) (s : State) : Host.Outcome State Fault Refusal := .next (ctTimeout entry.toNat s)

/-- No ABORTED after a withdrawal. -/
def scWithdrawTimeout (n : Nat) (s : State) : State :=
  if (sectorSt s n).withdrawn ∧ ¬ (sectorSt s n).dead then resetHang n (s.mSector n fun x => { x with dead := true }) else s

def execScWithdrawTimeout (sector : BitVec 6) (s : State) : Host.Outcome State Fault Refusal :=
  .next (scWithdrawTimeout sector.toNat s)

/-- An entry is free again: the issuers that wait go on (R318). -/
def ctEntryFree (s : State) : State :=
  if (freeEntry s).isNone then s else
  let s := match s.ct.waiting with
    | [] => s
    | (n, o, t) :: r =>
      if 8 ≤ (sectorSt s n).queue.length then s else
      let s := bump 728 (s.now.toNat - t) (s.mCt fun c => { c with waiting := r })
      s.mSector n fun x => { x with queue := x.queue ++ [o] }
  ymAdvance (pumpFcp ((List.range 64).foldl (fun s n => scStart n s) s))

def execCtEntryFree (s : State) : Host.Outcome State Fault Refusal := .next (ctEntryFree s)

/-! ### Orders of R334 -/

/-- End a host's order; a Node Leader's order has no status here. -/
def orderEnds (who : Nat) (w : W64) (status : Nat) (s : State) : State := if who = fpHOST then hostDone w status s else s

/-- KILL_CTX. -/
def killOrder (who : Nat) (w : W64) (s : State) : State :=
  kill (fld w 43 32) (if who = fpHOST then maHOST else maLEADER) w s

/-- An order on a core during the reset of its sector loses to it. -/
def outrankedOrder (who : Nat) (w : W64) (s : State) : State := orderEnds who w stSUPERSEDED (bump 729 1 s)

/-- FENCE_CORE: a core that settles is void, and one under test ends its session. -/
def fenceCoreOrder (who : Nat) (w : W64) (s : State) : State :=
  let h := orderHuid w
  if ¬ corePresent s h then orderEnds who w stREFUSED s
  else if (sectorSt s (huidSector h)).rstStep ≠ 0 then outrankedOrder who w s
  else
    let l := labelOf s h
    let s := voidSession h (voidVote l (s.mPad h fun p => { p with hostFenced := true }))
    if coreFenced s h then orderDone (who, w) s
    else
      let s := if isSpareLabel s l then s else s.mYm fun y => { y with fencing := dedup (y.fencing ++ [l]) }
      fenceOrder h who w s

/-- UNFENCE_CORE: refused for a core that its Paddock state keeps fenced (R254). -/
def unfenceCoreOrder (who : Nat) (w : W64) (s : State) : State :=
  let h := orderHuid w
  let st := (padOf s h).st
  if ¬ corePresent s h ∨ ¬ (padOf s h).hostFenced ∨ st = .suspect ∨ st = .distil ∨ st = .confirmed then
    orderEnds who w stREFUSED s
  else if (sectorSt s (huidSector h)).rstStep ≠ 0 then outrankedOrder who w s
  else if st = .turnout then orderDone (who, w) s
  else unfenceOrder h who w s

/-- RESET_SECTOR. -/
def resetSectorOrder (who : Nat) (w : W64) (s : State) : State :=
  let n := huidSector (orderHuid w)
  if (sectorT s n).isNone then orderEnds who w stREFUSED s else sectorReset n [(who, w)] s

/-- SCRUB_SECTOR. -/
def scrubSectorOrder (who : Nat) (w : W64) (s : State) : State :=
  let n := huidSector (orderHuid w)
  if (sectorT s n).isNone then orderEnds who w stREFUSED s else scOrder n (scMask opSCRUB 0 none who w) s

/-- RESET_ENGINE. -/
def resetEngineOrder (who : Nat) (w : W64) (s : State) : State :=
  if (engineOf (orderHuid w)).isNone then orderEnds who w stREFUSED s
  else if s.ct.part ≠ .run then outrankedOrder who w s
  else engineReset (orderHuid w) (if who = fpHOST then some w else none) s

/-- RESET_PART. -/
def resetPartOrder (who : Nat) (w : W64) (s : State) : State := partReset (if who = fpHOST then [w] else []) s

/-- A CT.ORDER word of a master. A reserved OP is refused with CT_ORDER_REFUSED. -/
def ctOrder (who : Nat) (w : W64) (s : State) : State :=
  match fld w 63 60 with
  | 1 => killOrder who w s
  | 2 => fenceCoreOrder who w s
  | 3 => unfenceCoreOrder who w s
  | 4 => resetSectorOrder who w s
  | 5 => scrubSectorOrder who w s
  | 6 => resetEngineOrder who w s
  | 7 => resetPartOrder who w s
  | _ => reportSelf uCT 0 0x85 0 none s

/-- A host write of CT.ORDER: refused without OPERATOR rights, and until S9 has ended (R334, R406). -/
def ctOrderWrite (priv : BitVec 2) (w : W64) (f : State → State) (s : State) : State :=
  hrp (fun s =>
    if ¬ isOperator s priv then reportSelf uCT 0 0x85 0 none (denied priv s)
    else
      let s := answer hsOK 0 s
      if ¬ s.cfg.inService ∧ 1 ≤ fld w 63 60 ∧ fld w 63 60 ≤ 7 then hostDone w stREFUSED s else f s) s

/-- A row of the command table for one OP of CT.ORDER: a word with another OP is not this command. -/
def orderRow (op : Nat) (priv : BitVec 2) (w : W64) (f : Nat → W64 → State → State) (s : State) : State :=
  if fld w 63 60 = op then ctOrderWrite priv w (f fpHOST w) s else s

def execKillCtx (priv : BitVec 2) (w : W64) (s : State) : Host.Outcome State Fault Refusal :=
  .next (orderRow 1 priv w killOrder s)

def execFenceCore (priv : BitVec 2) (w : W64) (s : State) : Host.Outcome State Fault Refusal :=
  .next (orderRow 2 priv w fenceCoreOrder s)

def execUnfenceCore (priv : BitVec 2) (w : W64) (s : State) : Host.Outcome State Fault Refusal :=
  .next (orderRow 3 priv w unfenceCoreOrder s)

def execResetSector (priv : BitVec 2) (w : W64) (s : State) : Host.Outcome State Fault Refusal :=
  .next (orderRow 4 priv w resetSectorOrder s)

def execScrubSector (priv : BitVec 2) (w : W64) (s : State) : Host.Outcome State Fault Refusal :=
  .next (orderRow 5 priv w scrubSectorOrder s)

def execResetEngine (priv : BitVec 2) (w : W64) (s : State) : Host.Outcome State Fault Refusal :=
  .next (orderRow 6 priv w resetEngineOrder s)

def execResetPart (priv : BitVec 2) (w : W64) (s : State) : Host.Outcome State Fault Refusal :=
  .next (orderRow 7 priv w resetPartOrder s)

end Sys2Proof.Machine
end

