-- ==== Sys2Proof/Machine/Faults.lean ====
section
/-!
DEFINITION. Intake and FC (R293 to R312): arrival and placing of messages, processing at RD, sources and buckets,
reactions, acknowledgement, fault injection, and the pins.
-/
namespace Sys2Proof.Machine

/-! ### Arrival -/

def extRec (type port : Nat) (injected : Bool) (ms : List W128) (s : State) : RingRec :=
  { header := ringHeader type (ms.length + 1) port ms.length 0 injected false s.now.toNat
    msgs := ms
    loci := ms.map (hostLocus s)
    cont := false }

/-- A message of two transfers on the Event port (R504); while one waits for room, none is taken. -/
def eventPortMessage (k0 : Bool) (d0 : W64) (k1 : Bool) (d1 : W64) (s : State) : State :=
  if ¬ s.ports.slnUp ∨ s.fc.eventWait.isSome then s
  else if k0 ∨ ¬ k1 then badMsg 0 s
  else
    let m : W128 := d1 ++ d0
    let v := validate 0 m s
    let s := v.2
    if ¬ v.1 then s else
    let r := extRec rtEVENT 0 false [m] s
    (placeRec r (ringReserve s) s).getD (s.mFc fun f => { f with eventWait := some r })

def execEventPortMessage (k0 : Bool) (d0 : W64) (k1 : Bool) (d1 : W64) (s : State) : Host.Outcome State Fault Refusal :=
  .next (eventPortMessage k0 d0 k1 d1 s)

/-- Validate messages in turn; those that pass. -/
def validateAll (inst : Nat) : List W128 → State → List W128 × State
  | [], s => ([], s)
  | m :: r, s =>
    let (ok, s) := validate inst m s
    let (ms, s) := validateAll inst r s
    (if ok then m :: ms else ms, s)

/-- An EVENT packet: its valid messages form one MESH record, which may wait in the port's buffer (R298). -/
def eventPacket (p : Ingress) (s : State) : State :=
  let port := p.port.toNat
  let n := p.body.length / 16
  if p.body.length % 16 ≠ 0 ∨ n = 0 ∨ 15 < n then badMsg (1 + port) s
  else
    let (ms, s) := validateAll (1 + port) ((List.range n).map fun i => BitVec.ofNat 128 (leAt p.body (16 * i) 16)) s
    if ms.isEmpty then s
    else
      let r := extRec rtMESH port false ms s
      let wait := Tab.getD s.fc.meshWait port []
      let hold (s : State) : State := s.mFc fun f => { f with meshWait := Tab.set f.meshWait port (wait ++ [r]) }
      if wait.isEmpty then (placeRec r (ringReserve s) s).getD (hold s) else hold s

def execEvent (p : Ingress) (s : State) : Host.Outcome State Fault Refusal := .next (ingress 0x05 none p (eventPacket p) s)

/-- Place records that waited, and count the wait of each one placed. -/
def retryRun (rx : Nat) : List RingRec → State → List RingRec × State
  | [], s => ([], s)
  | r :: rest, s => match placeRec r rx s with
    | some s' => retryRun rx rest (waited r s')
    | none => (r :: rest, s)

/-- A writer that waits tries again (R297). -/
def ringPlaceRetry (w : Writer) (s : State) : State :=
  match w with
  | .eventPort =>
    let (l, s) := retryRun (ringReserve s) s.fc.eventWait.toList s
    s.mFc fun f => { f with eventWait := l.head? }
  | .injected =>
    let (l, s) := retryRun (ringReserve s) s.fc.injectWait.toList s
    s.mFc fun f => { f with injectWait := l.head? }
  | .mesh p =>
    let (l, s) := retryRun (ringReserve s) (Tab.getD s.fc.meshWait p.toNat []) s
    s.mFc fun f => { f with meshWait := if l.isEmpty then Tab.del f.meshWait p.toNat else Tab.set f.meshWait p.toNat l }
  | .collector u =>
    let (l, s) := retryRun 0 (Tab.getD s.fc.collectors u.toNat []) s
    s.mCollector u.toNat l
  | .fcOwn =>
    let (l, s) := retryRun 0 s.fc.ownWait s
    s.mFc fun f => { f with ownWait := l }

def execRingPlaceRetry (w : Writer) (s : State) : Host.Outcome State Fault Refusal := .next (ringPlaceRetry w s)

/-! ### Classes and their settings (R306, R314) -/

def reactOf (s : State) (c : Nat) : W64 := s.expert.fcReact.getD c 0
def rxNormal (s : State) (c : Nat) : Nat := fld (reactOf s c) 42 40
def rxSevere (s : State) (c : Nat) : Nat := fld (reactOf s c) 39 37
def rxErrN (s : State) (c : Nat) : Bool := bit (reactOf s c) 36
def rxLimit (s : State) (c : Nat) : Nat := fld (reactOf s c) 35 28
def rxWindow (s : State) (c : Nat) : Nat := fld (reactOf s c) 27 12 * minuteNs

def classSt (s : State) (c : Nat) : ClassSt := s.fc.classes.getD c { pending := false, nmt := false, cnt := 0, level := 0 }

def State.mClass (c : Nat) (f : ClassSt → ClassSt) (s : State) : State :=
  s.mFc fun x => { x with classes := x.classes.modify c f }

/-! ### Sources (R303, R304) -/

/-- Level of a source at a time, after its leak; a class with N = 1 does not leak. -/
def leaked (s : State) (x : Source) (now : Nat) : Nat :=
  if rxLimit s x.cls = 1 then x.level else x.level - (now - x.last) * 65536 / max (rxWindow s x.cls) 1

/-- A source after an event. -/
def sourceEvent (s : State) (now : Nat) (x : Source) : Source :=
  let l := leaked s x now
  let sev := x.severe && !(x.acked && l = 0)
  let l := l + 65536
  { x with level := l, last := now, severe := sev || decide ((rxLimit s x.cls - 1) * 65536 < l), acked := false }

/-- Room for one more source: the entry with the lowest level that is not severe is evicted; none when all are severe. -/
def evictSource (s : State) : Option State :=
  if s.fc.sources.length < 1024 then some s else
  let lows := s.fc.sources.filter fun x => !x.severe
  match sortBy (·.level) lows with
  | [] => none
  | x :: _ => some (bump 678 1 (s.mFc fun f => { f with sources := f.sources.erase x }))

/-- Count an event against its class and source; the answer says whether the source is severe. -/
def countSource (c die : Nat) (key : W128) (now : Nat) (s : State) : Bool × State :=
  match s.fc.sources.findIdx? fun x => x.cls = c && x.key = key with
  | some i =>
    match s.fc.sources[i]? with
    | none => (false, s)
    | some x =>
      let y := sourceEvent s now x
      let s := if y.severe ∧ ¬ x.severe then bump (668 + c) 1 s else s
      (y.severe, s.mFc fun f => { f with sources := f.sources.set i y })
  | none =>
    let x : Source := { cls := c, die := die, key := key, level := 0, last := now, severe := false, acked := false }
    let y := sourceEvent s now x
    match evictSource s with
    | none => (true, bump (668 + c) 1 s)
    | some s => (y.severe, (if y.severe then bump (668 + c) 1 s else s).mFc fun f => { f with sources := f.sources ++ [y] })

/-! ### Reactions (R305 to R308) -/

/-- CT resets the block that contains a source (R305). -/
def blockReset (h : Huid) (s : State) : State :=
  match huidClass h with
  | 0 | 1 | 2 | 3 => sectorReset (huidSector h) [] s
  | 15 => partReset [] s
  | _ => s

/-- The latch of R307. -/
def latchFirst (m : W128) (c level : Nat) (esc : Bool) (r : RingRec) (s : State) : State :=
  s.mFc fun f => { f with first := match f.first with
    | some x => some { x with overflow := true }
    | none => some { msg := m, overflow := false, cls := c, level := level, escalated := esc, merge := r.merge, time := r.time } }

/-- The Node Leader holds the fault for its host (R353). -/
def forwardFault (m : W128) (time : Nat) (s : State) : State :=
  match nodeLeader s with
  | some d => if d = dieNat s then s else hxSend d (shortPkt kFAULTFWD (put 127 0 m.toNat + put 191 128 time)) s
  | none => s

/-- Effects of a fault whose final reaction is IRQ or higher. -/
def react (m loc : W128) (c level : Nat) (esc : Bool) (r : RingRec) (s : State) : State :=
  let s := s.mClass c fun x => { pending := true, nmt := x.nmt || decide (2 ≤ level), cnt := x.cnt + 1, level := level }
  let s := latchFirst m c level esc r s
  let s := forwardFault m r.time (locusRecord m loc c level r.time s)
  let s := if fld s.expert.obConfig 47 45 ≤ level ∧ 1 ≤ fld s.expert.obConfig 47 45 then dumpStart s else s
  let s := if 3 ≤ level then blockReset (msgHuid m) s else s
  if 4 ≤ level then chipReset (msgHuid m) s else s

/-- Steps 2 to 6 of R302 for one message of a record; only the first message of a report has a reaction. -/
def processMsg (m loc : W128) (first : Bool) (r : RingRec) (s : State) : State :=
  let c := msgClass m
  let s := bump (648 + c) 1 (s.mFc fun f => { f with processed := f.processed + 1 })
  let (severe, s) := countSource c (msgDie m) loc r.time s
  if !first then s else
  let base := min 4 (if severe then rxSevere s c else rxNormal s c)
  let esc := (classSt s c).pending
  let level := if esc then min 4 (base + 1) else base
  let s := if esc then bump (658 + c) 1 s else s
  if level = 0 then s else react m loc c level esc r s

/-- Link and router kinds act in the Yard Master (R275). -/
def yardMsg (m : W128) (s : State) : State :=
  match msgKind m with
  | 0x68 => hlinkDown (msgHuid m) s
  | 0x69 => hlinkWidth (msgHuid m) (msgAddr m % 16) (msgAddr m / 16 % 16) s
  | 0x6A => pollDone (ymAdvance (pumpFcp (routerFailed (msgHuid m) (bump 579 1 s))))
  | 0x6B => routeMiss s
  | _ => s

/-- Advance RD past the record at the head of the ring. -/
def dropRecord (r : RingRec) (s : State) : State :=
  s.mFc fun f => { f with ring := f.ring.drop 1, rd := f.rd + BitVec.ofNat 13 r.units, msgIdx := 0 }

/-- FC_PROCESS: the next message at RD. -/
def fcProcess (s : State) : State :=
  match s.fc.ring with
  | [] => s
  | r :: _ =>
    match r.msgs[s.fc.msgIdx]? with
    | none => dropRecord r s
    | some m =>
      let i := s.fc.msgIdx
      let loc := r.loci.getD i 0
      let internal := decide (r.type = rtINTERNAL)
      let s := if i + 1 < r.msgs.length then s.mFc fun f => { f with msgIdx := i + 1 } else dropRecord r s
      let s := processMsg m loc (!internal || (i = 0 && !r.cont)) r s
      if internal then s else yardMsg m s

def execFcProcess (s : State) : Host.Outcome State Fault Refusal := .next (fcProcess s)

/-! ### Acknowledgement (R309, R304) -/

/-- A source after its class was acknowledged. -/
def ackSource (s : State) (c now : Nat) (x : Source) : Source :=
  if x.cls ≠ c then x
  else if rxLimit s c = 1 then { x with level := 0, severe := false, acked := false }
  else if x.severe ∧ leaked s x now = 0 then { x with severe := false, acked := false }
  else { x with acked := x.severe }

def fcAck (w : W64) (s : State) : State :=
  let c := fld w 63 60
  if 10 ≤ c then s
  else if (classSt s c).cnt.toNat ≠ fld w 59 44 then bump (680 + c) 1 (s.mFc fun f => { f with ackStale := true })
  else
    let s := s.mClass c fun x => { x with pending := false, nmt := false }
    s.mFc fun f => { f with
      first := match f.first with
        | some x => if x.cls = c then none else some x
        | none => none
      sources := f.sources.map (ackSource s c s.now.toNat) }

def execFcAck (priv : BitVec 2) (w : W64) (s : State) : Host.Outcome State Fault Refusal :=
  .next (operatorWrite priv (fcAck w) s)

/-- The level of a source has leaked to zero: acknowledged, it is severe no longer (R304). -/
def levelLeaked (c die : Nat) (key : W128) (s : State) : State :=
  let now := s.now.toNat
  s.mFc fun f => { f with sources := f.sources.map fun x =>
    if x.cls = c ∧ x.die = die ∧ x.key = key ∧ leaked s x now = 0 ∧ rxLimit s c ≠ 1 then
      (if x.acked then { x with level := 0, severe := false, acked := false, last := now }
       else { x with level := 0, last := now })
    else x }

def execLevelLeakedToZero (cls : BitVec 4) (die : BitVec 6) (loc : W128) (s : State) : Host.Outcome State Fault Refusal :=
  .next (levelLeaked cls.toNat die.toNat loc s)

/-! ### Pins (R310) -/

def pinErrN (s : State) : Bool :=
  ((List.range 10).any fun c => (classSt s c).pending && rxErrN s c) || s.ct.chipFail || s.ct.part = .held

def pinIrq (s : State) : Bool := (List.range 10).any fun c => (classSt s c).pending && !bit s.fc.irqMask c
def pinNmt (s : State) : Bool := (List.range 10).any fun c => (classSt s c).pending && (classSt s c).nmt

/-! ### Fault injection (R312) -/

/-- FC.INJECT: refused and reported outside FACTORY_TEST. -/
def injectWrite (priv : BitVec 2) (f : State → State) (s : State) : State :=
  hrp (fun s =>
    if ¬ isOperator s priv then denied priv s
    else if s.sec.lc ≠ lcFACTORY then reportSelf uFC 0 0x71 0 none (denied priv s)
    else f (answer hsOK 0 s)) s

def injGo (w : W64) (mode : Nat) : Bool := bit w 61 && fld w 63 62 = mode

def injectMessage (s : State) : State :=
  if s.fc.injectWait.isSome then s else
  let m : W128 := s.fc.inj1 ++ s.fc.inj0
  let v := validate 0 m s
  let s := v.2
  if ¬ v.1 then s else
  let r := extRec rtEVENT 0 true [m] s
  (placeRec r (ringReserve s) s).getD (s.mFc fun f => { f with injectWait := some r })

def injectLocal (w : W64) (s : State) : State :=
  let u := fld w 55 48
  if 19 ≤ u ∨ u = uIN ∨ u = uFC then s else reportSelf u 0 (fld w 47 40) 0 none s

/-- Instances of an array under R212: Loft banks, clusters by their number times 4, lanes. -/
def injectTarget (array target : Nat) : Bool :=
  match array with
  | 0 | 3 => decide (target < 64)
  | 1 => decide (target < 64) && target % 4 = 0
  | _ => decide (target < 64)

def injectEcc (w : W64) (s : State) : State :=
  let bits := fld w 39 38
  let array := fld w 37 36
  let target := fld w 55 48
  if bits = 0 ∨ bits = 3 ∨ !injectTarget array target then s
  else s.mMem fun m => { m with armed := m.armed ++ [(array, target, bits)] }

/-- A write of FC.INJECT under R312. -/
def injectGo (w : W64) (s : State) : State :=
  if injGo w 1 then injectMessage s else if injGo w 2 then injectLocal w s else if injGo w 3 then injectEcc w s else s

/-- A row of the command table for one MODE of FC.INJECT. -/
def injectRow (mode : Nat) (priv : BitVec 2) (w : W64) (f : State → State) (s : State) : State :=
  if fld w 63 62 = mode then injectWrite priv (fun s => if bit w 61 then f s else s) s else s

def execInjectMessage (priv : BitVec 2) (w : W64) (s : State) : Host.Outcome State Fault Refusal :=
  .next (injectRow 1 priv w injectMessage s)

def execInjectLocal (priv : BitVec 2) (w : W64) (s : State) : Host.Outcome State Fault Refusal :=
  .next (injectRow 2 priv w (injectLocal w) s)

def execInjectEcc (priv : BitVec 2) (w : W64) (s : State) : Host.Outcome State Fault Refusal :=
  .next (injectRow 3 priv w (injectEcc w) s)

end Sys2Proof.Machine
end

