-- ==== Sys2Proof/Machine/Stages.lean ====
section
/-!
DEFINITION. The ends of the start-up stages: Stage Reports and where they are kept (R406 to R408), the hold at a FATAL
stage (R407), and the entry into service (R422).
-/
namespace Sys2Proof.Machine

def rsPASS := 0
def rsDEGRADED := 1
def rsFATAL := 2
def rsDISCONNECTED := 3

/-! ### Stage Reports -/

def stageRep (s : State) (n : Nat) : StageRep := s.cfg.reports.getD n StageRep.reset

/-- The word of `CFG.STAGE_REPORT` (R432). -/
def stageWord (s : State) (n : Nat) : W64 :=
  let r := stageRep s n
  word [put 63 60 n, put 59 58 r.status, put 57 49 (min 256 r.loci.length), put 48 48 r.overflow.toNat,
    put 47 24 (min (2 ^ 24 - 1) r.elapsedUs), put 23 0 r.detail]

def lociBytes (l : List W128) : Bytes := l.flatMap fun x => leBytes 16 x.toNat

/-- A list cut into runs of `n`; at least one run. -/
def chunks {α : Type} (n : Nat) : Nat → List α → List (List α)
  | 0, _ => []
  | k + 1, l => if l.length ≤ n then [l] else l.take n :: chunks n k (l.drop n)

/-- Records of a report for the Tack Room: no record crosses a page, so a long list takes several records, each with
the header (log entry 12). -/
def tackStage (n : Nat) (s : State) : State :=
  (chunks 253 20 ((stageRep s n).loci.take 4096)).foldl (fun s l =>
    tackWrite 1 2 (leBytes 8 (stageWord s n).toNat ++ lociBytes l) s) s

/-- A BULK message of some bytes to a die, cut into packets of at most 512 (R352). ARG 1 is a Stage Report, ARG 2 a
Pattern Package (log entry 9). -/
def sendBulk (die arg : Nat) (b : Bytes) (s : State) : State :=
  let ps := chunks 512 (b.length / 512 + 1) b
  let one (s : State) (x : List Byte × Nat) : State :=
    let p := longPkt kBULK arg x.1
    let h := put 79 64 s.hx.bulkMsg.toNat + put 63 52 x.2 + put 51 40 (ps.length - 1)
    hxSend die { p with ext := p.ext ||| BitVec.ofNat 192 h } s
  (ps.zipIdx.foldl one s).mHx fun h => { h with bulkMsg := h.bulkMsg + 1 }

/-- Send the reports that wait for a Node Leader. The leader itself keeps them. -/
def sendReports (s : State) : State :=
  match nodeLeader s with
  | none => s
  | some d =>
    let due := s.cfg.reportsDue
    let s := s.mCfg fun c => { c with reportsDue := [] }
    if d = dieNat s then s else
    due.foldl (fun s n => sendBulk d 1 (leBytes 8 (stageWord s n).toNat ++ lociBytes (stageRep s n).loci) s) s

/-- The report of a stage, in the three places of R408. Reports of S0 to S4 reach the Tack Room when S5 has verified
it. -/
def stageReport (n status : Nat) (loci : List W128) (detail : Nat) (s : State) : State :=
  let us := (s.now.toNat - s.cfg.stageStart) / 1000
  let r : StageRep := { status := status, loci := loci.take 4096, overflow := decide (256 < loci.length), elapsedUs := us,
                        detail := detail }
  let s := s.mCfg fun c => { c with
    reports := c.reports.set n r
    lastStatus := status
    reportsDue := c.reportsDue ++ [n]
    stageStart := s.now.toNat }
  let s := if n = 5 then (List.range 6).foldl (fun s k => tackStage k s) s
           else if 5 < n then tackStage n s else s
  sendReports s

/-- A stage ends and the next one is the stage that runs. -/
def stagePass (n status : Nat) (loci : List W128) (detail : Nat) (s : State) : State :=
  (stageReport n status loci detail s).mCfg fun c => { c with stage := n + 1 }

/-- A live die of the map is in service already: this die joins without barrier 0 (R422). -/
def joining (s : State) : Bool :=
  (liveDies s).any fun d => d ≠ dieNat s && ((Tab.get s.hx.map d).map (·.inService)).getD false

/-- Arrive at barrier 0 with the live dies of the map (R373, R422). -/
def arriveBarrier0 (s : State) : State :=
  barrierArrive 0 (maskOf (liveDies s)) (s.mCfg fun c => { c with b0Tries := c.b0Tries + 1 })

/-- A stage ends FATAL: reported, and held there until RST_N (R407). From S5 on the die still arrives at barrier 0. -/
def stageFatal (n : Nat) (loci : List W128) (detail : Nat) (s : State) : State :=
  let s := (stageReport n rsFATAL loci detail s).mCfg fun c => { c with heldAt := true }
  let s := reportSelf uCFG 0 0xB4 0 none s
  if 5 ≤ n ∧ ¬ joining s then arriveBarrier0 s else s

/-- PASS when nothing is lost. -/
def lossStatus (lost : Bool) : Nat := if lost then rsDEGRADED else rsPASS

/-- The stage that a command of the start sequence belongs to runs, and the die is not held. -/
def runsStage (s : State) (n : Nat) : Bool := !s.ports.rstLow && s.cfg.stage = n && !s.cfg.heldAt && !s.cfg.inService

/-! ### Service -/

/-- Body of a BOOT record: Image measurement, life-cycle state and the ten stage statuses, two bits each (log entry
12). BOOT_SEQ stands in the header. -/
def bootBody (s : State) : Bytes :=
  leBytes 48 s.cfg.meas.toNat ++ leBytes 1 s.sec.lc ++
    leBytes 3 (((List.range 10).map fun n => (stageRep s n).status * 4 ^ n).sum)

/-- The die enters service (R422): the BOOT record's stage summary, IN_SERVICE, and STATE to every die. -/
def enterService (status tries : Nat) (s : State) : State :=
  let s := stageReport 9 status [] tries s
  let s := s.mCfg fun c => { c with inService := true }
  stateChange (sbWrite sbBOOT (bootBody s) s)

/-- BARRIER0_TRIES; 0 reads as 1. -/
def barrier0Tries (s : State) : Nat := max 1 (fld s.expert.cfgStart 45 44)

/-- Barrier 0 has been released to this die. A die held at S5 or later only arrives (R407). -/
def barrier0Released (s : State) : State :=
  if runsStage s 9 then enterService rsPASS s.cfg.b0Tries s else s

/-- Barrier 0 has been aborted: the die arrives again, or enters service on its own. -/
def barrier0Aborted (s : State) : State :=
  if s.cfg.b0Tries < barrier0Tries s then arriveBarrier0 s
  else if runsStage s 9 then enterService rsDEGRADED s.cfg.b0Tries s else s

end Sys2Proof.Machine
end

