-- ==== Sys2Proof/Machine/Training.lean ====
section
/-!
DEFINITION. Hitch ports and links: training (R343, R344, R346), frames and go-back-N (R347 to R349), the discipline of
Node Time (R372) and congestion (R362).
-/
namespace Sys2Proof.Machine

/-! ### Reports of HX -/

/-- A report that names a Hitch port. -/
def portReport (kind p : Nat) (s : State) : State := reportUnit uHX kind 0 none (mkHuid ucHXPORT 0 p) s

/-- A report that names dies. -/
def diesReport (kind : Nat) (dies : List Nat) (s : State) : State :=
  raise uHX (dies.map fun d => (message s kind 0 none (unitHuid uHX 0), locus s 4 d 0 0 0 0)) s

/-! ### Training -/

def hxConf (s : State) (hi lo : Nat) : Nat := fld s.expert.hxConfig hi lo
def linkConf (s : State) (hi lo : Nat) : Nat := fld s.expert.hxLink hi lo

/-- Attempts a training may still use, in the order of R344: 0 to 2 at ×2, 3 to 5 on lane 0, 6 to 8 on lane 1. -/
def attemptNo (x : Port) : Nat := x.firstTry + (x.attempts - 1)

/-- Lanes that an attempt uses of those locked at both ends. -/
def attemptLanes (x : Port) (lanes : BitVec 2) : BitVec 2 :=
  if attemptNo x < 3 then lanes else if attemptNo x < 6 then lanes &&& 1 else lanes &&& 2

def lanesWidth (l : BitVec 2) : Nat := (bit l 0).toNat + (bit l 1).toNat

/-- Packets of a port that becomes REMOVED: discarded from its replay buffer and queue, each counted as ejected in its
own epoch (R346, R368); input buffers they held are free. -/
def dropPort (p : Nat) (s : State) : State :=
  let x := hxPort s p
  let s := (x.replay.flatMap (·.2)).foldl (fun s k => s.mHx (countEj (hxEpoch k) 1)) s
  let s := x.queue.foldl (fun s e => freeBuffer e (s.mHx (countEj (hxEpoch e.pkt) 1))) s
  s.mPort p fun x => { x with replay := [], queue := [] }

/-- Encoding of R343. -/
def TrainSt.code : TrainSt → Nat
  | .off => 0
  | .detect => 1
  | .lock => 2
  | .config => 3
  | .fecTest => 4
  | .active => 5
  | .retrain => 6
  | .removed => 7

/-- Change a port in its training. -/
def State.mTrain (p : Nat) (f : Port → Port) (s : State) : State :=
  let x := hxPort s p
  stateChanged uHX (0xB0008 + 8 * p) x.st.code (f x).st.code (s.mPort p f)

/-- A port becomes REMOVED and reports HX_PORT_DOWN (R344). -/
def removePort (p : Nat) (s : State) : State :=
  let s := (dropPort p s).mTrain p fun x => { x with st := .removed, width := 0, retraining := false, congested := false }
  stateChange (portReport 0x88 p s)

/-- Start a training: first attempt, from DETECT. -/
def startTraining (p : Nat) (s : State) : State :=
  s.mTrain p fun x => { x with st := .detect, attempts := 1, firstTry := 0, retraining := false, width := 0 }

/-- An ACTIVE port enters RETRAIN (R346). -/
def retrainPort (p : Nat) (s : State) : State :=
  let s := s.mTrain p fun x => { x with
    st := .retrain
    retraining := true
    attempts := 1
    firstTry := if x.width = 1 then 3 else 0
    retrains := min 255 (x.retrains + 1)
    uncorrTimes := []
    stalls := 0
    nakOut := false }
  stateChange (bump (788 + p) 1 s)

/-- Send every unacknowledged frame again. -/
def resendFrames (p : Nat) (s : State) : State :=
  let x := hxPort s p
  if x.replay.isEmpty then s else
  let s := s.mPorts fun q => { q with hxSent := q.hxSent ++ (x.replay.flatMap (·.2)).map fun k => (p, k) }
  bump (768 + p) x.replay.length (bump (784 + p) 1 s)

/-- A replay without a new acknowledgement; the last of RETRY_LIMIT makes the port retrain. -/
def replayPort (p : Nat) (s : State) : State :=
  if (hxPort s p).replay.isEmpty then s else
  let s := (resendFrames p s).mTrain p fun x => { x with stalls := x.stalls + 1 }
  if hxConf s 11 8 ≤ (hxPort s p).stalls then retrainPort p s else s

/-- A link that trained afresh starts with empty counts; a retrained one keeps them. -/
def freshLink (x : Port) : Port :=
  { x with rxNext := 0, nakOut := false, replay := [], txNext := 0, lastNak := none, acked := 255, stalls := 0,
           uncorrTimes := [], credXY := 3, credYX := 3, congested := false, freedXY := 0, freedYX := 0, seenXY := 0,
           seenYX := 0, tDep := 0, tArr := 0, syncDue := false }

/-- A port becomes ACTIVE. -/
def portActivated (p : Nat) (s : State) : State :=
  let again := (hxPort s p).retraining
  let s := s.mTrain p fun x =>
    let x := if again then x else freshLink x
    { x with st := .active, retraining := false, lastNak := none }
  let s := if again then resendFrames p s else s
  let s := if (hxPort s p).width = 1 then portReport 0x89 p s else s
  pumpAll (stateChange s)

/-- TRAINING_STATE_ADVANCE. A state that did not find what it needs is not completed. -/
def trainingAdvance (p : Nat) (t : TrainInfo) (s : State) : State :=
  let x := hxPort s p
  let me := dieNat s
  let lanes := attemptLanes x t.lanes
  if s.hx.down then s else
  match x.st with
  | .off => if portUsed s.cfg.topo me p ∧ 4 ≤ s.cfg.stage then startTraining p s else s
  | .detect => s.mTrain p fun x => { x with st := .lock }
  | .retrain => s.mTrain p fun x => { x with st := .lock }
  | .lock =>
    if lanes = 0 then s
    else s.mTrain p fun x => { x with st := .config, swap := t.swap, polarity := t.polarity }
  | .config =>
    if lanes = 0 then s
    else
      let s := s.mTrain p fun x => { x with peerDie := t.peerDie, peerPort := t.peerPort }
      if t.peerDie.toNat ≠ neighbour s.cfg.topo me p ∨ t.peerPort.toNat ≠ farPort p then
        removePort p (portReport 0x8A p s)
      else s.mTrain p fun x => { x with st := .fecTest, width := lanesWidth lanes }
  | .fecTest => if t.fecPass then portActivated p s else s
  | .active => s
  | .removed => s

def execTrainingStateAdvance (port : BitVec 2) (t : TrainInfo) (s : State) : Host.Outcome State Fault Refusal :=
  .next (trainingAdvance port.toNat t s)

/-- A training attempt fails; after the last of R344 the port is REMOVED. -/
def attemptTimeout (p : Nat) (s : State) : State :=
  let x := hxPort s p
  if x.st = .off ∨ x.st = .active ∨ x.st = .removed ∨ s.hx.down then s
  else if 8 ≤ attemptNo x then removePort p s
  else s.mTrain p fun x => { x with attempts := x.attempts + 1, st := if x.retraining then .lock else .detect }

def execTrainingAttemptTimeout (port : BitVec 2) (s : State) : Host.Outcome State Fault Refusal :=
  .next (attemptTimeout port.toNat s)

/-- REJOIN_PERIOD. -/
def rejoin (p : Nat) (s : State) : State :=
  if (hxPort s p).st = .removed ∧ portUsed s.cfg.topo (dieNat s) p ∧ ¬ s.hx.down then startTraining p s else s

def execRejoinPeriod (port : BitVec 2) (s : State) : Host.Outcome State Fault Refusal := .next (rejoin port.toNat s)

/-! ### The discipline of Node Time (R372) -/

/-- The root of Node Time. -/
def timeRoot (s : State) : Bool := (parentPortOf s).isNone

/-- Rate in ppb that removes an offset of 2^-5 ns units with a time constant of 1 ms, within ±500 ppm. -/
def slewRate (theta : Int) : Int := max (-500000) (min 500000 (-(theta * 1000) / 32))

/-- One exchange with the parent. -/
def syncExchange (theta : Int) (s : State) : State :=
  let near := decide (theta.natAbs ≤ 64)
  let good := if near then min 16 (s.hx.goodSync + 1) else 0
  let lock := decide (16 ≤ good)
  let s := if s.hx.locked ∧ ¬ near then bump 814 1 s else s
  let hold := s.hx.timeHold && !lock
  let s := s.mHx fun h => { h with
    offset := theta
    goodSync := good
    locked := lock
    timeHold := hold
    rate := if hold then h.rate else slewRate theta }
  if linkConf s 23 16 * 32 < theta.natAbs ∧ s.hx.stepped ∧ ¬ hold then timeLost s else s

/-- A control slot's stamps: a sync frame is stamped at arrival; the next frame's T_DEP and T_ARR complete the
exchange on the parent's link. -/
def syncStamps (p : Nat) (f : Frame) (s : State) : State :=
  if bit f.control 232 then s.mPort p fun x => { x with tArr := f.arrived, syncDue := true }
  else if ¬ (hxPort s p).syncDue then s
  else
    let x := hxPort s p
    let s := s.mPort p fun x => { x with syncDue := false }
    if parentPortOf s ≠ some p then s else
    let t1 : Int := fld f.control 231 163
    let t4 : Int := fld f.control 162 94
    syncExchange (((x.tArr - t1) - (t4 - x.tDep)) / 2) s

/-! ### Congestion (R362) -/

/-- The throttle follows the congested ports, and its time is counted. -/
def throttleUpdate (s : State) : State :=
  let c := s.hx.ports.any (·.congested)
  match s.hx.throttledSince with
  | none => if c then s.mHx fun h => { h with throttledSince := some s.now.toNat } else s
  | some t => if c then s else bump 809 (s.now.toNat - t) (s.mHx fun h => { h with throttledSince := none })

/-- Credits of either class are below 2. -/
def creditsLow (x : Port) : Bool := x.credXY < 2 || x.credYX < 2

def congWindow (p : Nat) (congested : Bool) (s : State) : State :=
  if congested ≠ creditsLow (hxPort s p) then s
  else pumpAll (throttleUpdate (s.mPort p fun x => { x with congested := congested }))

def execCongWindow (port : BitVec 2) (congested : Bool) (s : State) : Host.Outcome State Fault Refusal :=
  .next (congWindow port.toNat congested s)

/-! ### Frames -/

/-- Uncorrectable codewords of a frame; the last of UNCORR_LIMIT within 1 ms makes the port retrain (R346). -/
def uncorrectable (p n : Nat) (s : State) : State :=
  if n = 0 then s else
  let now := s.now.toNat
  let s := (bump (780 + p) n s).mPort p fun x => { x with
    uncorrTimes := List.replicate n now ++ x.uncorrTimes.filter fun t => now - t < 10 ^ 6 }
  if linkConf s 39 32 ≤ (hxPort s p).uncorrTimes.length ∧ (hxPort s p).st = .active then retrainPort p s else s

/-- ACK of a control slot: acknowledged frames leave the replay buffer. -/
def takeAck (p ack : Nat) (s : State) : State :=
  match (hxPort s p).replay.findIdx? fun r => r.1 = ack with
  | none => s
  | some i => s.mPort p fun x =>
      { x with replay := x.replay.drop (i + 1), acked := BitVec.ofNat 8 ack, stalls := 0, lastNak := none }

/-- NAK: the first that carries a given ACK starts a replay. -/
def takeNak (p : Nat) (nak : Bool) (ack : Nat) (s : State) : State :=
  let a := BitVec.ofNat 8 ack
  if ¬ nak ∨ (hxPort s p).lastNak = some a then s
  else replayPort p (s.mPort p fun x => { x with lastNak := some a })

/-- Cumulative credits of a control slot. -/
def takeCredits (p xy yx : Nat) (s : State) : State :=
  let s := s.mPort p fun x =>
    let x : Port := { x with
      credXY := x.credXY + (xy + 8 - x.seenXY.toNat) % 8
      credYX := x.credYX + (yx + 8 - x.seenYX.toNat) % 8
      seenXY := BitVec.ofNat 3 xy
      seenYX := BitVec.ofNat 3 yx }
    { x with congested := x.congested && creditsLow x }
  throttleUpdate s

/-- Corrected symbols and bad codewords of a frame. -/
def correctedSum (f : Frame) : Nat := (f.words.map fun w => match w with
  | .good n => n
  | .bad => 0).sum

def badWords (f : Frame) : Nat := f.words.countP fun w => w = .bad

/-- HX_FRAME_RECEIVE: accepted only when every codeword decodes and FSEQ is the one expected (R349). The packets that
an accepted frame completes arrive in slot order. -/
def frameReceive (p : Nat) (f : Frame) (s : State) : State :=
  if (hxPort s p).st ≠ .active ∨ s.hx.down then s else
  let bad := badWords f
  let s := bump (776 + p) (correctedSum f) s
  if bad ≠ 0 ∨ fld f.control 255 248 ≠ (hxPort s p).rxNext.toNat then
    uncorrectable p bad (s.mPort p fun x => { x with nakOut := true })
  else
    let s := (bump (772 + p) 1 s).mPort p fun x => { x with rxNext := x.rxNext + 1, nakOut := false }
    let ack := fld f.control 247 240
    let s := takeCredits p (fld f.control 238 236) (fld f.control 235 233) (takeAck p ack s)
    let s := takeNak p (bit f.control 239) ack (syncStamps p f s)
    pumpAll (f.packets.foldl (fun s k => packetArrive p k s) s)

def execHxFrameReceive (port : BitVec 2) (f : Frame) (s : State) : Host.Outcome State Fault Refusal :=
  .next (frameReceive port.toNat f s)

/-- REPLAY_TIMEOUT. -/
def replayTimeout (p : Nat) (s : State) : State :=
  if (hxPort s p).st = .active ∧ ¬ s.hx.down then replayPort p s else s

def execReplayTimeout (port : BitVec 2) (s : State) : Host.Outcome State Fault Refusal := .next (replayTimeout port.toNat s)

/-- HX_PACKET_ARRIVE: one packet whose frame the port accepted. -/
def hxPacketArrive (p : Nat) (k : HxPkt) (s : State) : State :=
  if (hxPort s p).st = .active ∧ ¬ s.hx.down then pumpAll (packetArrive p k s) else s

def execHxPacketArrive (port : BitVec 2) (p : HxPkt) (s : State) : Host.Outcome State Fault Refusal :=
  .next (hxPacketArrive port.toNat p s)

end Sys2Proof.Machine
end

