-- ==== Sys2Proof/Machine/Hitch.lean ====
section
/-!
DEFINITION. What the dies tell each other over Hitch: acknowledgements (R364 to R366), state records and table versions
(R367 to R370), barriers (R373, R374), and the packets of Node Leader and host (R353).
-/
namespace Sys2Proof.Machine

/-- Field [hi:lo] of the body of a short packet. -/
def hxBody (p : HxPkt) (hi lo : Nat) : Nat := fld p.ext hi lo

/-- A packet that reached its consumer: while the HX domain is out, none does. -/
def consumer (kind : Nat) (p : HxPkt) (f : State → State) (s : State) : State :=
  if hxKind p ≠ kind ∨ s.hx.down then s else f (consume p s)

/-! ### End-to-end delivery -/

/-- A sequence number that an E2E_ACK with last number `last` and bitmap acknowledges. -/
def ackedSeq (last bitmap seq : Nat) : Bool :=
  let d := (seq + 2 ^ 16 - (last + 1) % 2 ^ 16) % 2 ^ 16
  2 ^ 15 ≤ d || (1 ≤ d && d ≤ 32 && bitmap.testBit (d - 1))

/-- Waiting packets for a die, and multicasts, go out as the windows allow. -/
def drainAll (die : Nat) (s : State) : State :=
  let s := drainTx die ((txOf s (txKey die false)).waiting.length + 1) s
  drainMcast ((txOf s mcastKey).waiting.length + 1) s

def e2eAck (p : HxPkt) (s : State) : State :=
  let die := hxSrc p
  let last := hxBody p 191 176
  let map := hxBody p 175 144
  let s := s.mTx (txKey die (hxBody p 143 143 = 1)) fun x =>
    { x with unacked := x.unacked.filter fun u => !ackedSeq last map (hxSeq u.1) }
  drainAll die s

def execE2eAck (p : HxPkt) (s : State) : Host.Outcome State Fault Refusal := .next (consumer kE2EACK p (e2eAck p) s)

/-- RESEND_TIMEOUT: the packet is sent again, or its destination given up (R366). -/
def resendTimeout (die : Nat) (space : Bool) (seq : Nat) (s : State) : State :=
  let k := txKey die space
  match (txOf s k).unacked.find? fun u => hxSeq u.1 = seq with
  | none => s
  | some (p, n) =>
    if hxConf s 55 48 ≤ n then
      let lose (x : TxSt) : TxSt := { x with unacked := [], resync := true }
      let s := ((s.mTx (txKey die false) lose).mTx (txKey die true) lose)
      drainAll die (diesReport 0x8B [die] (bump 808 1 s))
    else
      let s := s.mTx k fun x => { x with unacked := x.unacked.map fun u => if hxSeq u.1 = seq then (u.1, u.2 + 1) else u }
      injectCopy p (bump 804 1 s)

def execResendTimeout (die : BitVec 6) (space : Bool) (seq : BitVec 16) (s : State) : Host.Outcome State Fault Refusal :=
  .next (if s.hx.down then s else resendTimeout die.toNat space seq.toNat s)

def ackDelay (die : Nat) (space : Bool) (s : State) : State :=
  if (rxOf s (txKey die space)).unackedArrivals = 0 ∨ s.hx.down then s else sendAck die space s

def execAckDelay (die : BitVec 6) (space : Bool) (s : State) : Host.Outcome State Fault Refusal :=
  .next (ackDelay die.toNat space s)

/-! ### State records -/

/-- A sender that sees a new BOOT for a destination starts its sequences again (R367); the multicast sequence, which
other members share, resynchronises. -/
def peerRestarted (die : Nat) (s : State) : State :=
  let s := s.mTx (txKey die false) fun x => { x with next := 0, unacked := [], resync := false }
  drainAll die (s.mTx (txKey die true) fun x => { x with unacked := [], resync := true })

/-- STATE: a record with a higher VERSION or a new BOOT is taken; one with the VERSION held is current again. -/
def stateRecord (p : HxPkt) (s : State) : State :=
  let die := hxSrc p
  let n := parseRecord p.payload
  let held := Tab.get s.hx.map die
  let boot := match held with
    | some r => decide (r.boot ≠ n.boot)
    | none => true
  let newer := boot || match held with
    | some r => decide (r.version.toNat ≤ n.version.toNat)
    | none => true
  if die = dieNat s ∨ ¬ newer ∨ (Tab.get s.hx.map (dieNat s)).isNone then s else
  let s := if boot then peerRestarted die s else s
  let old := mapKey s.hx
  let coord := coordinator s
  sendReports (mapChanged old coord (s.mHx fun h => { h with map := Tab.set h.map die n }))

def execState (p : HxPkt) (s : State) : Host.Outcome State Fault Refusal := .next (consumer kSTATE p (stateRecord p) s)

def execStateRefresh (s : State) : Host.Outcome State Fault Refusal := .next (sendState s)

/-- A record that was not refreshed is not current. -/
def stateStale (die : Nat) (s : State) : State :=
  if die = dieNat s then s else
  let old := mapKey s.hx
  let coord := coordinator s
  sendReports (mapChanged old coord (s.mHx fun h => { h with map := Tab.mod h.map die fun r => { r with current := false } }))

def execStateStale (die : BitVec 6) (s : State) : Host.Outcome State Fault Refusal := .next (stateStale die.toNat s)

/-- HOST_OK lapses after 1 s without a host access. -/
def hostOkLapse (s : State) : State := stateChange (s.mHx fun h => { h with hostOk := false })

def execHostOkLapse (s : State) : Host.Outcome State Fault Refusal := .next (hostOkLapse s)

/-! ### Table versions -/

def baseOfEpoch (h : Hx) (e : Bool) : BitVec 32 := if e then h.base1 else h.base0

/-- TBL_READY at the coordinator: with one MAP_HASH from every live die, it flips (R369 step 4). -/
def tblReady (p : HxPkt) (s : State) : State :=
  if ¬ isCoord s then s else
  let s := s.mHx fun h => { h with ready := Tab.set h.ready (hxSrc p) (hxBody p 191 160) }
  let live := liveDies s
  if (live.all fun d => Tab.get s.hx.ready d = some (hxBody p 191 160)) ∧ s.hx.standby = .ready then
    hxMulticast live (longPkt kFLIP (!s.hx.live).toNat (leBytes 4 s.hx.base0.toNat ++ leBytes 4 s.hx.base1.toNat))
      (s.mHx fun h => { h with ready := [] })
  else s

def execTblReady (p : HxPkt) (s : State) : Host.Outcome State Fault Refusal := .next (consumer kTBLREADY p (tblReady p) s)

/-- EPOCH_FLIP (step 5). -/
def epochFlip (p : HxPkt) (s : State) : State :=
  let v := decide (hxArg p % 2 = 1)
  bump 810 1 (s.mHx fun h => { h with
    live := v
    standby := .draining
    base0 := BitVec.ofNat 32 (leAt p.payload 0 4)
    base1 := BitVec.ofNat 32 (leAt p.payload 4 4)
    installs := h.installs + 1
    counts := [] })

def execEpochFlip (p : HxPkt) (s : State) : Host.Outcome State Fault Refusal := .next (consumer kFLIP p (epochFlip p) s)

/-- POLL_PERIOD: the coordinator asks every live die for its counts of the old epoch (step 6). -/
def pollPeriod (s : State) : State :=
  if ¬ isCoord s ∨ s.hx.standby ≠ .draining ∨ s.hx.down then s else
  let e := !s.hx.live
  (liveDies s).foldl (fun s d => hxSend d (shortPkt kCOUNT (put 190 190 e.toNat)) s) (s.mHx fun h => { h with counts := [] })

def execPollPeriod (s : State) : Host.Outcome State Fault Refusal := .next (pollPeriod s)

/-- RETIRE of the old epoch (step 7). -/
def sendRetire (s : State) : State := hxMulticast (liveDies s) (longPkt kRETIRE (!s.hx.live).toNat []) s

/-- Σ injected − Σ ejected of a poll pass, modulo 2^32. -/
def countDiff (l : Tab (Nat × Nat)) : BitVec 32 :=
  BitVec.ofNat 32 (l.map (·.2.1)).sum - BitVec.ofNat 32 (l.map (·.2.2)).sum

/-- A COUNT reply at the coordinator: when a pass is whole, its difference decides (R370). -/
def countReply (p : HxPkt) (s : State) : State :=
  let e := decide (hxBody p 190 190 = 1)
  if ¬ isCoord s ∨ s.hx.standby ≠ .draining ∨ e = s.hx.live then s else
  let s := s.mHx fun h => { h with counts := Tab.set h.counts (hxSrc p) (hxBody p 189 158, hxBody p 157 126) }
  if ¬ (liveDies s).all fun d => (Tab.get s.hx.counts d).isSome then s else
  let diff := countDiff (s.hx.counts.filter fun x => (liveDies s).contains x.1)
  let s := s.mHx fun h => { h with lastDiff := diff, counts := [] }
  if diff = baseOfEpoch s.hx e then sendRetire s else s

/-- A COUNT query: the reply holds this die's counts of the epoch. -/
def countQuery (p : HxPkt) (s : State) : State :=
  let e := decide (hxBody p 190 190 = 1)
  let inj := if e then s.hx.inj1 else s.hx.inj0
  let ej := if e then s.hx.ej1 else s.hx.ej0
  hxSend (hxSrc p) (shortPkt kCOUNT (put 191 191 1 + put 190 190 e.toNat + put 189 158 inj.toNat + put 157 126 ej.toNat)) s

def execCount (p : HxPkt) (s : State) : Host.Outcome State Fault Refusal :=
  .next (consumer kCOUNT p (if hxBody p 191 191 = 1 then countReply p else countQuery p) s)

/-- RETIRE: the old version is free; a change of the map that waited is computed (R375). -/
def retireVersion (p : HxPkt) (s : State) : State :=
  if decide (hxArg p % 2 = 1) = s.hx.live ∨ s.hx.standby ≠ .draining then s else
  let s := s.mHx fun h => { h with standby := .retired }
  if s.hx.pendingMap then computeStandby s else s

def execRetire (p : HxPkt) (s : State) : Host.Outcome State Fault Refusal := .next (consumer kRETIRE p (retireVersion p) s)

/-- RETIRE_TIMEOUT: forced retirement (R370). -/
def hxRetireTimeout (s : State) : State :=
  if ¬ isCoord s ∨ s.hx.standby ≠ .draining ∨ s.hx.down then s else
  let d := s.hx.lastDiff
  let s := s.mHx fun h => { h with
    base0 := if h.live then d else h.base0
    base1 := if h.live then h.base1 else d
    forced := true }
  sendRetire (reportSelf uHX 0 0x8D 0 none s)

def execHxRetireTimeout (s : State) : Host.Outcome State Fault Refusal := .next (hxRetireTimeout s)

/-! ### Barriers -/

/-- BARRIER_RELEASE to members, with STATUS. -/
def sendRelease (b : Nat) (gen : BitVec 8) (aborted : Bool) (tRel : Nat) (members : List Nat) (s : State) : State :=
  hxMulticast members (longPkt kRELEASE (put 39 36 b + put 35 28 gen.toNat + put 27 27 aborted.toNat) (leBytes 8 tRel)) s

/-- GEN `a` is older than `b`. -/
def olderGen (a b : BitVec 8) : Bool := a ≠ b && decide (128 ≤ (a - b).toNat)

/-- An arrival that the coordinator ignores and counts. -/
def ignored (s : State) : State := bump 813 1 s

/-- BARRIER_ARRIVE at the coordinator (R374). -/
def coordArrive (b : Nat) (gen : BitVec 8) (mask : W64) (die : Nat) (s : State) : State :=
  let x := barrierOf s b
  let fresh := if x.open_ then !olderGen gen x.coordGen && gen ≠ x.coordGen
               else x.coordMask = 0 || (gen ≠ x.coordGen && !olderGen gen x.coordGen)
  if ¬ fresh ∧ (¬ x.open_ ∨ gen ≠ x.coordGen ∨ mask ≠ x.coordMask) then ignored s else
  let seen := (if fresh then 0 else x.arrived) ||| (1#64 <<< die)
  let whole := decide (mask &&& ~~~seen = 0)
  let s := s.mBarrier b fun y => { y with coordGen := gen, coordMask := mask, arrived := seen, open_ := !whole }
  if whole then sendRelease b gen false (s.now.toNat + hxConf s 31 24 * 100) (bitsOf 64 mask.toNat) s else s

def barrierArrived (p : HxPkt) (s : State) : State :=
  if ¬ isCoord s then s
  else coordArrive (hxBody p 191 188) (BitVec.ofNat 8 (hxBody p 187 180)) (BitVec.ofNat 64 (hxBody p 179 116))
    (hxBody p 115 110) s

def execBarrierArrive (p : HxPkt) (s : State) : Host.Outcome State Fault Refusal :=
  .next (consumer kARRIVE p (barrierArrived p) s)

/-- The member is released: BARRIER_OUT is high for 64 ns. -/
def memberReleased (b : Nat) (s : State) : State :=
  let s := bump 811 1 ((s.mBarrier b fun x => { x with st := .released }).mHx fun h =>
    { h with barrierOut := s.now.toNat + 64 })
  if b = 0 then barrier0Released s else s

/-- BARRIER_RELEASE at a member that waits for this GEN. -/
def barrierReleased (p : HxPkt) (s : State) : State :=
  let b := fld p.ext 39 36
  let t := leAt p.payload 0 8
  let x := barrierOf s b
  if x.st ≠ .waiting ∨ x.gen.toNat ≠ fld p.ext 35 28 then s
  else if bit p.ext 27 then
    let s := s.mBarrier b fun x => { x with st := .aborted }
    if b = 0 then barrier0Aborted s else s
  else
    let s := s.mBarrier b fun x => { x with tRel := t }
    if t < s.now.toNat then memberReleased b (bump 812 1 s) else s

def execBarrierRelease (p : HxPkt) (s : State) : Host.Outcome State Fault Refusal :=
  .next (consumer kRELEASE p (barrierReleased p) s)

/-- Node Time reaches T_rel. -/
def releaseTime (b : Nat) (s : State) : State :=
  let x := barrierOf s b
  if x.st = .waiting ∧ x.tRel ≠ 0 ∧ x.tRel ≤ s.now.toNat then memberReleased b s else s

def execBarrierReleaseTime (barrier : BitVec 4) (s : State) : Host.Outcome State Fault Refusal :=
  .next (releaseTime barrier.toNat s)

/-- BARR_TIMEOUT at the coordinator: ABORTED to those that arrived, and a report that names those missing. -/
def barrTimeout (b : Nat) (s : State) : State :=
  let x := barrierOf s b
  if ¬ x.open_ ∨ ¬ isCoord s ∨ s.hx.down then s else
  let s := s.mBarrier b fun x => { x with open_ := false }
  let s := diesReport 0x8F (bitsOf 64 (x.coordMask &&& ~~~x.arrived).toNat) s
  sendRelease b x.coordGen true 0 (bitsOf 64 x.arrived.toNat) s

def execBarrTimeout (barrier : BitVec 4) (s : State) : Host.Outcome State Fault Refusal := .next (barrTimeout barrier.toNat s)

/-- A write of `HX.BARRIER` (R373); refused until S9 has ended (R406). -/
def hostBarrier (priv : BitVec 2) (w : W64) (s : State) : State :=
  if ¬ isOperator s priv then bump 813 1 (denied priv s)
  else
    let s := answer hsOK 0 s
    if fld w 63 60 = 0 ∨ ¬ s.cfg.inService then bump 813 1 s
    else if bit w 59 then barrierArrive (fld w 63 60) s.hx.barrierMask s else s

def execHostBarrierArrive (priv : BitVec 2) (w : W64) (s : State) : Host.Outcome State Fault Refusal :=
  .next (hrp (hostBarrier priv w) s)

/-! ### Node Leader and telemetry -/

/-- FAULT_FWD is held for the host. -/
def faultFwd (p : HxPkt) (s : State) : State := s.mHx fun h => { h with forwarded := h.forwarded ++ [p] }

def execFaultFwd (p : HxPkt) (s : State) : Host.Outcome State Fault Refusal := .next (consumer kFAULTFWD p (faultFwd p) s)

/-- ORDER of the Node Leader; until S9 has ended it is refused. -/
def leaderOrder (p : HxPkt) (s : State) : State :=
  if nodeLeader s = some (hxSrc p) ∧ s.cfg.inService then ctOrder fpLEADER (BitVec.ofNat 64 (hxBody p 63 0)) s else s

def execOrder (p : HxPkt) (s : State) : Host.Outcome State Fault Refusal := .next (consumer kORDER p (leaderOrder p) s)

/-- TRACE at the Node Leader: stored unchanged in stream 5 (R491). -/
def traceIn (p : HxPkt) (s : State) : State :=
  if isLeader s ∧ tackReady s then tackPlace 5 p.payload s else s

def execTrace (p : HxPkt) (s : State) : Host.Outcome State Fault Refusal := .next (consumer kTRACE p (traceIn p) s)

end Sys2Proof.Machine
end

