-- ==== Sys2Proof/Machine/Clock.lean ====
section
/-!
DEFINITION. Node Time (R371): what one period of CK_REF adds to it.
-/
namespace Sys2Proof.Machine

/-- Nominal period of CK_REF, 10 ns, in units of 2^-32 ns. -/
def refPeriod : Nat := 10 * 2 ^ 32

/-- Increment of one CK_REF cycle at a rate in ppb, in units of 2^-32 ns. -/
def increment (rate : Int) : Nat := ((refPeriod : Int) * (10 ^ 9 + rate) / 10 ^ 9).toNat

/-- Node Time in units of 2^-32 ns. -/
def timeFrac (s : State) : Nat := s.now.toNat * 2 ^ 32 + s.nowFrac.toNat

/-- One CK_REF cycle. While RST_N is low no cycle counts. -/
def tick (s : State) : State :=
  if s.ports.rstLow then s else
  let t := timeFrac s + increment s.hx.rate
  { s with now := BitVec.ofNat 64 (t / 2 ^ 32), nowFrac := BitVec.ofNat 32 t }

end Sys2Proof.Machine
end

