-- ==== Sys2Proof/Machine/Twin.lean ====
section
/-!
DEFINITION. Commands of TWC: the comparison of a fire token on two paths (R129 to R131, R139, R140, R242) and the
known-answer test.
-/
namespace Sys2Proof.Machine

/-- Outcome of one path; none: an uncorrectable error voided it. -/
def pathOutcome (exact : Nat) : PathSay → Option Nat
  | .exact => some exact
  | .other o _ => some o.toNat
  | .void => none

/-- `TWC.LAST_*` after an outcome other than MATCH. -/
def twLast (t : Token) (outcome elem : Nat) (s : State) : State :=
  s.mTwc fun x => { x with
    lastDiff := word [put 63 52 t.ctx, put 51 51 t.epoch.toNat, put 50 49 t.attempt, put 48 46 outcome, put 45 31 t.task, 1]
    lastStep := word [put 31 0 t.step]
    lastElem := if outcome = twXTEST then word [put 37 0 elem] else x.lastElem }

def tokRounds (s : State) (t : Token) : Nat := ((tokInst s t).map (·.checkerRounds)).getD 0

/-- A dispute of a token, with the rounds of checker faults that it has behind it. -/
def tokDispute (s : State) (t : Token) (cause outcome party elem : Nat) : Dispute :=
  { Dispute.mk' t.ctx t.epoch t.attempt t.step t.task cause with
    outcome := outcome, party := party, elem := elem, checkerRounds := tokRounds s t }

/-- The Ledger frees an XTEST instance with its outcome, and the records that waited for its slots go on (R139). -/
def freeXtest (t : Token) (s : State) : State :=
  match tokInst s t with
  | some i => resumeDeferred (dropInst i s)
  | none => s

/-- The outcome of a cross-check. -/
def xtestOutcome (p : Plan) (t : Token) (outcome : Nat) (s : State) : State :=
  let a := groupData s p t 0
  let b := groupData s p t 1
  let s := if outcome = twMATCH then s else bumpCtx 73 20 t.ctx 1 s
  let e := firstDiffElem (fmtF (taskDesc p (planTask p t.task)).outFmt).bits a b
  let s := if outcome = twMATCH then s else twLast t outcome e s
  let s := if outcome = twXTEST then reportCores uTWC 0x43 0 (some t.ctx) (taskLabels s p t.task) s else s
  let d := { tokDispute s t dXTEST outcome 0 e with outs := [a, b] }
  let s := if outcome = twMATCH then s else openDispute d s
  freeXtest t s

/-- The outcome of a twin comparison. -/
def twinDone (p : Plan) (t : Token) (outcome : Nat) (s : State) : State :=
  if outcome = twMATCH then taskPassed t s
  else
    let s := bumpCtx (if outcome = twCOVER then 66 else 65) (if outcome = twCOVER then 13 else 12) t.ctx 1 (twLast t outcome 0 s)
    let addr := t.step % 2 ^ 16 * 2 ^ 32 + outcome * 2 ^ 29 + t.task % 2 ^ 15
    let s := reportCores uTWC 0x40 addr (some t.ctx) (taskLabels s p t.task) s
    openDispute (tokDispute s t (if outcome = twCOVER then dTWINCOVER else dTWINDIGEST) outcome 0 0) s

/-- The two paths disagree: once more at the head of the queue, then a suspect checker (R130). -/
def twinDisagree (t : Token) (s : State) : State :=
  let s := bumpCtx 67 14 t.ctx 1 (s.mTwc fun x => { x with pathFault := true })
  let s := reportSelf uTWC 0 0x42 0 none s
  if t.reruns = 0 then (twLast t twPATH 0 s).mTwc fun x => { x with queue := { t with reruns := 1 } :: x.queue }
  else openDispute (tokDispute s t dCHECKER twDIGEST 0 0) (bumpCtx 65 12 t.ctx 1 (twLast t twDIGEST 0 s))

/-- The token at the head of the queue, with what its two computations answered. With one path left both run on it. -/
def twcCompare (a b : PathSay) (s : State) : State :=
  match s.twc.queue with
  | [] => s
  | t :: rest =>
    let s := s.mTwc fun x => { x with queue := rest }
    match tokTask s t with
    | none => countStale t 1 s
    | some (p, k) =>
      if tokenStale s t ≠ 0 then countStale t (tokenStale s t) s
      else if twcPaths s = 0 then noChecker t twPATH s
      else
        let xtest := k.kind = ktXTEST
        let s := if xtest then bumpCtx 72 19 t.ctx 1 s else bumpCtx 64 11 t.ctx 1 s
        let o := twinOutcome s p t
        match pathOutcome o a, pathOutcome o b with
        | some x, some y =>
          if x ≠ y then twinDisagree t s
          else
            let s := redispatchReturned t s
            if xtest then xtestOutcome p t x s else twinDone p t x s
        | _, _ => voidTask p t s

def execTwcCompare (a b : PathSay) (s : State) : Host.Outcome State Fault Refusal :=
  .next (if engineHeld s uTWC 0 then s else twcCompare a b s)

def execTwcKat (passA passB : Bool) (s : State) : Host.Outcome State Fault Refusal :=
  .next (if engineHeld s uTWC 0 then s else twcKat passA passB s)

end Sys2Proof.Machine
end

