-- ==== Sys2Proof/Machine/Perim.lean ====
section
/-!
DEFINITION. Commands of PER: a PERIM task on two pipes (R156, R159 to R162, R164, R165) and the periodic known-answer
test (R163).
-/
namespace Sys2Proof.Machine

/-- What a pipe answered; none: an uncorrectable error voided it. -/
def pipeSay (exact : PerimSay) : PathSay → Option PerimSay
  | .exact => some exact
  | .other o m => some (.out o.toNat m.toNat)
  | .void => none

/-- `PER.LAST_*` after an outcome other than MATCH. -/
def peLast (p : Plan) (t : Token) (outcome mask loc column : Nat) (checker : Bool) (s : State) : State :=
  s.mPer fun x => { x with
    lastDiff := word [put 63 52 t.ctx, put 51 51 t.epoch.toNat, put 50 49 t.attempt, put 48 46 outcome, put 45 31 t.task,
      put 30 27 mask, put 26 25 loc, put 24 24 checker.toNat, 1]
    lastStep := word [put 63 32 (tokTile p t), put 31 0 t.step]
    lastLoc := if loc = locCOLUMN then word [put 15 0 column] else 0 }

/-- Counter of an outcome. -/
def peCount (outcome : Nat) (t : Token) (s : State) : State :=
  if outcome = peSHAPE then bumpCtx 133 28 t.ctx 1 s
  else if outcome < 4 then bumpCtx (129 + outcome) (24 + outcome) t.ctx 1 s
  else s

def perimAddr (p : Plan) (t : Token) : Nat := t.step % 2 ^ 16 * 2 ^ 32 + tokTile p t

/-- A mismatch goes to the verdict procedure with the pipes that found it. -/
def perimDispute (t : Token) (p1 p2 outcome column : Nat) (s : State) : State :=
  openDispute (tokDispute s t dPERIM outcome (p1 * 8 + p2) column) s

/-- An outcome on which both pipes agree. -/
def perimDone (p : Plan) (t : Token) (p1 p2 outcome mask : Nat) (s : State) : State :=
  let s := peCount outcome t s
  let labels := taskLabels s p t.task
  if outcome = peMATCH then taskPassed t s
  else if outcome = peEXC then
    let s := peLast p t outcome 0 locNOTRUN 0 false s
    if bit s.expert.perConfig 4 then
      perimDispute t p1 p2 outcome 0 (reportCores uPER 0x49 0 (some t.ctx) labels s)
    else taskPassed t (mLayerCounts t.ctx t.epoch t.step (fun k => { k with excTiles := k.excTiles + 1 }) s)
  else
    let (loc, col) := match decide (outcome = peEXCEEDED), perimRecs s p t with
      | true, (some o, some q) => perimLocalise s p (tokLayer p t) (tokTile p t) (roundOfStep p t.step) o q
      | _, _ => (locNOTRUN, 0)
    let s := if loc = locCOLUMN then bumpCtx 135 30 t.ctx 1 s else s
    let s := peLast p t outcome mask loc col false s
    perimDispute t p1 p2 outcome col (reportCores uPER 0x48 (perimAddr p t) (some t.ctx) labels s)

/-- The pipes disagree (R161): both are tested, and the task runs again, or the checker is suspect. -/
def perimDisagree (p : Plan) (t : Token) (p1 p2 : Nat) (katA katB : Bool) (s : State) : State :=
  let s := bumpCtx 134 29 t.ctx 1 (s.mPer fun x => { x with pathFault := true })
  let s := reportSelf uPER 0 0x4A 0 none s
  let s := pipeKat p2 katB (pipeKat p1 katA s)
  if t.reruns = 0 then
    (peLast p t peDISAGREE 0 locNOTRUN 0 false s).mPer fun x =>
      { x with queue := ({ t with reruns := 1 }, p1, p2) :: x.queue }
  else
    openDispute (tokDispute s t dCHECKER peEXCEEDED (p1 * 8 + p2) 0)
      (peCount peEXCEEDED t (peLast p t peEXCEEDED 0 locNOTRUN 0 true s))

/-- The records name another tile: the context is halted, with the sender of the wrong record (R159). -/
def perimHalt (p : Plan) (t : Token) (s : State) : State :=
  let (o, _) := perimRecs s p t
  let wrong := match o with
    | some r => if r.tile = tokTile p t then 1 else 0
    | none => 1
  let who := ((groupOf s t.ctx t.epoch t.step t.task wrong).senders.headD (unitHuid uPER 0))
  haltWith t.ctx kindSTEER who s

def perimRun (p : Plan) (t : Token) (p1 p2 : Nat) (a b : PathSay) (katA katB : Bool) (s : State) : State :=
  let s := bumpCtx 128 23 t.ctx 1 s
  let (o, q) := perimRecs s p t
  let x := perimCompare o q (tokLayer p t) (tokTile p t)
  match pipeSay x a, pipeSay x b with
  | some u, some v =>
    if u ≠ v then perimDisagree p t p1 p2 katA katB s
    else
      let s := redispatchReturned t s
      match u with
      | .halt => perimHalt p t s
      | .out outcome mask => perimDone p t p1 p2 outcome mask s
  | _, _ => perimDisagree p t p1 p2 katA katB (voidTask p t s)

/-- The oldest token of a pipe's queue, when it is also the oldest of its other pipe's (R162). -/
def pipeHead (q : List (Token × Nat × Nat)) (pipe : Nat) : Option (Token × Nat × Nat) :=
  let first (k : Nat) : Option (Token × Nat × Nat) := q.find? fun x => x.2.1 = k || x.2.2 = k
  match first pipe with
  | none => none
  | some x => if first x.2.1 = some x ∧ first x.2.2 = some x then some x else none

def perimCommand (pipe : Nat) (a b : PathSay) (katA katB : Bool) (s : State) : State :=
  let s := s.mPer fun x => { x with queue := x.queue.map (repipe s) }
  let down := (pipesUp s).length < 2
  match if down then s.per.queue.head? else pipeHead s.per.queue pipe with
  | none => s
  | some (t, p1, p2) =>
    let s := s.mPer fun x => { x with queue := x.queue.erase (t, p1, p2) }
    match tokTask s t with
    | none => countStale t 1 s
    | some (p, _) =>
      if tokenStale s t ≠ 0 then countStale t (tokenStale s t) s
      else if down then noChecker t peNOPIPES (peLast p t peNOPIPES 0 locNOTRUN 0 false s)
      else perimRun p t p1 p2 a b katA katB s

def execPerimCompare (pipe : BitVec 3) (a b : PathSay) (katA katB : Bool) (s : State) : Host.Outcome State Fault Refusal :=
  .next (if engineHeld s uPER 0 then s else perimCommand pipe.toNat a b katA katB s)

/-- KAT_PERIOD passes: every pipe in service is tested; 0 disables the test. -/
def perKatPeriod (pass : BitVec 8) (s : State) : State :=
  if fld s.expert.perConfig 15 8 = 0 ∨ domainOf s 20 ≠ .on then s else
  (pipesUp s).foldl (fun s k => pipeKat k (bit pass k) s) s

def execPerKatPeriod (pass : BitVec 8) (s : State) : Host.Outcome State Fault Refusal :=
  .next (if engineHeld s uPER 0 then s else perKatPeriod pass s)

end Sys2Proof.Machine
end

