-- ==== Sys2Proof/Machine/Shadow.lean ====
section
/-!
DEFINITION. Commands of SA: a task on a lane (R180 to R184, R194), chained tasks and the inbound queues (R185 to R188),
remote reads, and the periodic known-answer test (R192). How operands lie in the two operand buffers and in a lane's
share of Cluster Memory is log entry 18.
-/
namespace Sys2Proof.Machine

def clusterOf (s : State) (k : Nat) : Cluster := s.sa.clusters.getD k Cluster.reset

/-! ### The start of a task -/

/-- The descriptor enters the cluster's cache (R181). -/
def cacheDesc (k plan desc : Nat) (s : State) : State :=
  s.mCluster k fun x => { x with cache := ((plan, desc) :: x.cache.filter fun e => e ≠ (plan, desc)).take 256 }

/-- Blocks of an operand, alternately into the two operand buffers. -/
def streamBlocks (lane : Nat) : Nat → Nat → Bytes → State → State
  | 0, _, _, s => s
  | n + 1, buf, b, s =>
    if b.isEmpty then s else
    streamBlocks lane n (1 - buf) (b.drop 16384) (s.mMem fun m => { m with opbuf := Mem.write m.opbuf (opbufAddr lane buf) (b.take 16384) })

/-- Operand A streams through the operand buffers; operand B, which the tile reuses, is staged in the lane's share. -/
def stageOperands (lane : Nat) (w : Task) (s : State) : State :=
  let s := injectAt 2 lane lane (dropFlips 2 lane 1 (streamBlocks lane (w.a.length / 16384 + 1) 0 w.a s))
  if opHasB w.d.opcode then
    injectAt 1 (lane / 4 * 4) (lane / 4) (s.mMem fun m => { m with cm := Mem.write m.cm (laneShare lane) (w.b.take 65536) })
  else s

/-- Largest number of LPF records that fit a PARTIAL_PUSH of 2 KiB, each as R46 compacts it. -/
def pushTake : Nat → List Bytes → Nat
  | _, [] => 0
  | room, r :: rest => if r.length ≤ room then 1 + pushTake (room - r.length) rest else 0

/-- The PARTIAL_PUSH messages of a PART, in rising element order (R185). -/
def pushList (t : Token) (succ lane : Nat) : Nat → Nat → List Bytes → List Push
  | 0, _, _ => []
  | n + 1, first, rs =>
    let k := max 1 (pushTake 2048 rs)
    if rs.isEmpty then [] else
    { ctx := t.ctx, epoch := t.epoch, attempt := t.attempt, step := t.step, task := succ, part := t.task, first := first,
      recs := rs.take k, last := decide (rs.length ≤ k), lane := lane } :: pushList t succ lane n (first + k) (rs.drop k)

def partPushes (s : State) (p : Plan) (t : Token) (lane : Nat) : List Push :=
  let rs := (tokWork s p t).partials.map lpfBytes
  pushList t (planTask p t.task).succ lane rs.length 0 rs

/-- `SA.CC_LAST_ELEM` after an OUT_DIFF. -/
def ccElem (lane count first : Nat) (s : State) : State :=
  s.mCluster (lane / 4) fun x => { x with lastElem := word [put 63 40 count, put 39 0 first] }

/-- SHADOW_DIFF names the owner cores of the tile (R184). -/
def shadowDiff (p : Plan) (t : Token) (s : State) : State :=
  reportCores uSA 0x50 (t.step % 2 ^ 16 * 2 ^ 32 + tokTile p t) (some t.ctx) (sideLabels s p t.task 0) s

def laneIdle (lane : Nat) (s : State) : State := s.mLane lane fun x => { x with run := none }

/-- The outcome SHAPE_DIFF. -/
def shadowShape (p : Plan) (t : Token) (lane : Nat) (s : State) : State :=
  let s := ccLast lane t saSHAPE (tokTile p t) false (bumpCtx 195 37 t.ctx 1 s)
  openDispute (tokDispute s t dSHADOW saSHAPE lane 0) (shadowDiff p t (redispatchReturned t s))

/-- The SHADOW procedure that awaits this token on its second lane. -/
def secondRun (s : State) (t : Token) : Option Proc :=
  if !t.redispatched then none else
  s.vu.procs.find? fun q => q.d.ctx = t.ctx && q.d.epoch = t.epoch && q.d.step = t.step && q.d.task = t.task &&
    q.phase = .redispatch && q.h1.isSome

/-- A lane takes its next token; the message at the head of its cluster's inbound queue goes first (R187). -/
def shadowTaskStart (lane : Nat) (s : State) : State :=
  let x := laneOf s lane
  if !laneUp s lane ∨ x.run.isSome ∨ ¬ (clusterOf s (lane / 4)).inq.isEmpty ∨ domainOf s (lane / 4) ≠ .on then s else
  match x.queue with
  | [] => s
  | t :: rest =>
    let s := s.mLane lane fun y => { y with queue := rest }
    match planOfEpoch s t.ctx t.epoch with
    | none => countStale t 1 s
    | some (n, p) =>
      if tokenStale s t ≠ 0 then countStale t (tokenStale s t) s else
      let k := planTask p t.task
      let s := cacheDesc (lane / 4) n k.desc s
      if shapeWrong s p t then shadowShape p t lane s
      else
        let d := taskDesc p k
        let near := (planTask p k.succ).engine / 4 = lane / 4
        let out := if d.role = rolePART ∧ ¬ near then partPushes s p t lane else []
        (stageOperands lane (tokWork s p t) s).mLane lane fun y =>
          { y with run := some { tok := t, desc := p.descs.getD k.desc 0, out := out } }

def execShadowTaskStart (lane : BitVec 6) (s : State) : Host.Outcome State Fault Refusal :=
  .next (if engineHeld s uSA (lane.toNat / 4) then s else shadowTaskStart lane.toNat s)

/-! ### Partial sums (R186) -/

/-- Elements of a chain that a PART has already pushed. -/
def pushed (i : Inst) (part e : Nat) : Bool := i.pushes.any fun x => x.1 = part && x.2.1 ≤ e && e < x.2.1 + x.2.2

/-- Every PART of a FINAL has pushed every element of the tile. -/
def chainWhole (p : Plan) (task n : Nat) (i : Inst) : Bool :=
  let parts := (List.range p.tasks.length).filter fun k => (planTask p k).kind = ktSHADOW && (planTask p k).succ = task
  (List.range n).all fun e => parts.all fun k => pushed i k e

/-- One record into element `e` of the partial group: written, or combined with what is there. -/
def partialRecord (p : Plan) (t : Token) (part e : Nat) (r : Bytes) (s : State) : State :=
  match tokInst s t with
  | none => s
  | some i =>
    if pushed i part e then s else
    let a := groupAddr p (planTask p t.task) 0 t.step + 88 * e
    let new := (parseLpf r).acc
    let acc := if i.pushes.any fun x => x.2.1 ≤ e ∧ e < x.2.1 + x.2.2 then
        (parseLpf (Mem.read s.mem.loft a 88)).acc.combine new
      else new
    (loftWrite a (lpf88 acc) s).mInst t.ctx t.epoch t.step t.task fun x => { x with pushes := x.pushes ++ [(part, e, 1)] }

/-- A FINAL whose push failed its residue check has the outcome LANE_RES. -/
def pushFailed (p : Plan) (m : Push) (t : Token) (s : State) : State :=
  let s := ccLast m.lane t saRES (tokTile p t) false (bumpCtx 197 39 m.ctx 1 s)
  report uSA 0x23 (m.step % 2 ^ 16 * 2 ^ 32 + tokTile p t) (some m.ctx) (laneHuid m.lane) (coreLocus s (laneHuid m.lane)) s

/-- Combine a message into its FINAL's partial group; a stale one is discarded and counted. -/
def combinePush (m : Push) (s : State) : State :=
  let t : Token := { ctx := m.ctx, epoch := m.epoch, attempt := m.attempt, step := m.step, task := m.task, reruns := 0,
                     redispatched := false }
  match planOfEpoch s m.ctx m.epoch with
  | none => countStale t 1 s
  | some (_, p) =>
    if (ctxOf s m.ctx).epoch ≠ m.epoch then countStale t 1 s
    else if attemptOf s m.ctx m.epoch m.step ≠ m.attempt ∨ m.step < baseOf s m.ctx m.epoch then countStale t 2 s
    else if ¬ m.recs.all (fun r => lpfOk (parseLpf r)) then pushFailed p m t s
    else
      let s := bumpCtx 198 40 m.ctx 1 (needInst m.ctx m.epoch m.step m.task p s)
      let s := m.recs.zipIdx.foldl (fun s (r, i) => partialRecord p t m.part (m.first + i) r s) s
      let n := tileElems (taskDesc p (planTask p m.task)) (tokTile p t)
      match tokInst s t with
      | none => s
      | some i =>
        if ¬ chainWhole p m.task n i ∨ (i.groups.getD 0 Group.empty).full then s
        else
          setGroupFull m.ctx m.epoch m.step m.task 0 p (s.mGroup m.ctx m.epoch m.step m.task 0 fun g =>
            { g with bytes := 88 * n })

/-! ### The end of a task -/

/-- Products formed, counted in units of 2^20. -/
def countProducts (t : Token) (n : Nat) (s : State) : State :=
  let total := s.sa.prodRest + n
  bumpCtx 202 44 t.ctx (total / 2 ^ 20) (s.mSa fun x => { x with prodRest := total % 2 ^ 20 })

/-- A path disagreement or a lane residue failure (R194): the lane is tested, and the task runs again; the second
time the lane is fenced. -/
def laneSuspect (p : Plan) (t : Token) (lane outcome : Nat) (katPass : Bool) (s : State) : State :=
  let kind := if outcome = saRES then 0x52 else 0x51
  let s := bumpCtx (if outcome = saRES then 197 else 196) (if outcome = saRES then 39 else 38) t.ctx 1 s
  let s := report uSA kind 0 none (laneHuid lane) (coreLocus s (laneHuid lane)) s
  let s := if outcome = saPATH then s.mCluster (lane / 4) fun x => { x with pathFault := true } else s
  let again : Token := { t with reruns := t.reruns + 1 }
  let keep (s : State) : State := s.mLane lane fun x => { x with run := x.run.map fun r => { r with tok := again } }
  let requeue (s : State) : State := s.mLane lane fun x => { x with queue := again :: x.queue, run := none }
  if t.reruns = 0 then
    let s := laneKat lane katPass (keep (ccLast lane t outcome (tokTile p t) false s))
    if laneUp s lane then requeue s else s
  else if outcome = saRES then fenceLane lane (laneKat lane katPass (keep (ccLast lane t outcome (tokTile p t) false s)))
  else
    let s := fenceLane lane (laneKat lane katPass (laneIdle lane s))
    let s := ccLast lane t saOUT (tokTile p t) true (bumpCtx 194 36 t.ctx 1 s)
    match secondRun s t with
    | some q => (openDispute (tokDispute s t dCHECKER saOUT lane 0)) (lane2Returned q true 0 s).2
    | none => openDispute (tokDispute s t dCHECKER saOUT lane 0) (redispatchReturned t s)

/-- MATCH or OUT_DIFF of a FULL or FINAL task. -/
def shadowOutcome (p : Plan) (t : Token) (lane count first : Nat) (out : List Nat) (s : State) : State :=
  if count = 0 then taskPassed t (bumpCtx 193 35 t.ctx 1 s)
  else
    let s := ccElem lane count first (ccLast lane t saOUT (tokTile p t) false (bumpCtx 194 36 t.ctx 1 s))
    let d := { tokDispute s t dSHADOW saOUT lane first with laneHash := laneHash s p t out first }
    openDispute d (shadowDiff p t s)

/-- The output that the lane formed: what the task computes, but for a wrong element. -/
def laneOutput (w : Task) (wrong : Option (BitVec 40 × BitVec 32)) : List Nat :=
  match wrong with
  | none => laneOut w
  | some (e, v) => (laneOut w).set (localElem w e.toNat) v.toNat

/-- Exponent field of a floating element; an integer has none. -/
def expField (f : Fmt) (bits : Nat) : Nat :=
  match f with
  | .float e m _ _ => bits / 2 ^ m % 2 ^ e
  | .int _ => 0

/-- One element into a Watch block (R492). -/
def watchElem (f : Fmt) (bits : Nat) (x : Watch) : Watch :=
  let v := decodeElem f bits
  let x := { x with seen := x.seen + 1 }
  match v with
  | .nan => { x with nan := x.nan + 1 }
  | .inf _ => { x with inf := x.inf + 1 }
  | .fin neg m =>
    if m = 0 then { x with zero := x.zero + 1 } else
    let e := expField f bits
    { x with
      subn := if ¬ f.isInt ∧ e = 0 then x.subn + 1 else x.subn
      atMax := if decide (m = f.maxMag neg) then x.atMax + 1 else x.atMax
      minExp := if x.any then min x.minExp e else e
      maxExp := if x.any then max x.maxExp e else e
      any := true }

/-- Path B counts the REF elements of a task of a watched layer (R492). -/
def watchTask (p : Plan) (t : Token) (s : State) : State :=
  let watched (x : Watch) : Bool := x.ctx = t.ctx && x.layer = some (layerOfStep p t.step)
  if ¬ s.ob.watch.any watched then s else
  let w := tokWork s p t
  let ref := tokRef s p t
  let els := (List.range (tileElems w.d w.tile)).map (w.refBits ref)
  let f := fmtF w.d.outFmt
  s.mOb fun o => { o with watch := o.watch.map fun x =>
    (if watched x then els.foldl (fun y b => watchElem f (b % 2 ^ f.bits) y) x else x) }

/-- The comparison on two paths. -/
def shadowCompare (p : Plan) (t : Token) (lane : Nat) (wrong : Option (BitVec 40 × BitVec 32)) (b : PathSay)
    (katPass : Bool) (s : State) : State :=
  let w := tokWork s p t
  let out := laneOutput w wrong
  let (count, first) := w.compare out (tokRef s p t)
  let s := bumpCtx 192 34 t.ctx 1 (countProducts t w.products (watchTask p t s))
  match b with
  | .void => voidTask p t (laneIdle lane s)
  | .other _ _ => laneSuspect p t lane saPATH katPass s
  | .exact =>
    let s := laneIdle lane s
    match secondRun s t with
    | none => shadowOutcome p t lane count first out (redispatchReturned t s)
    | some q =>
      let (stands, s) := lane2Returned q false (laneHash s p t out q.e) s
      if stands then shadowOutcome p t lane count first out s else s

/-- A PART delivers: into its own cluster's group at once, else when its last message is taken. -/
def partDone (p : Plan) (t : Token) (lane : Nat) (r : Run) (s : State) : State :=
  if ¬ r.out.isEmpty then s else
  let k := planTask p t.task
  let near := (planTask p k.succ).engine / 4 = lane / 4
  let s := countProducts t (tokWork s p t).products s
  let s := if near then (partPushes s p t lane).foldl (fun s m => combinePush m s) s else s
  taskPassed t (laneIdle lane s)

/-- ECC of an operand buffer or of Cluster Memory, where an injection flipped bits (R212, R213): the row is a free value, since
the place of a word in a bank is not given. The answer says that a word was lost. -/
def laneEcc (array place inst ek : Nat) (lane : Nat) (s : State) : Bool × State :=
  match flipsAt s array place 1 with
  | 0 => (false, s)
  | n =>
    let (k, s) := (dropFlips array place 1 s).draw
    let row := (Config.free k).toNat % 48
    let bank := if array = 1 then (Config.free k).toNat / 64 % 16 else 0
    let ue : Bool := 2 ≤ n
    let s := eccLast ue array inst bank row 0 (bump (if ue then 353 else 352) 1 s)
    let s := eccReport (if ue then 0x59 else 0x58) (laneHuid lane) ek (bank * 64 + row) 0 s
    (ue, if ue ∧ array = 1 then sbSoftRepair 1 inst bank row 0 1 s else s)

/-- What a lane finds in its buffers and in Cluster Memory during a task: whether an operand buffer, and whether Cluster
Memory, lost a word. -/
def taskEcc (lane : Nat) (s : State) : Bool × Bool × State :=
  let (ob, s) := laneEcc 2 lane lane 4 lane s
  let (cm, s) := laneEcc 1 (lane / 4) (lane / 4 * 4) 3 (lane / 4 * 4) s
  (ob, cm, s)

def shadowTaskDone (lane : Nat) (residueFails : Bool) (wrong : Option (BitVec 40 × BitVec 32)) (b : PathSay)
    (katPass : Bool) (s : State) : State :=
  match (laneOf s lane).run with
  | none => s
  | some r =>
    let t := r.tok
    let (ob, cm, s) := taskEcc lane s
    if cm then (range' (lane / 4 * 4) 4).foldl (fun s l => fenceLane l s) s else
    match tokTask s t with
    | none => bumpCtx 199 41 t.ctx 1 (laneIdle lane s)
    | some (p, k) =>
      if tokenStale s t ≠ 0 then bumpCtx 199 41 t.ctx 1 (laneIdle lane s)
      else if residueFails ∨ ob then laneSuspect p t lane saRES katPass s
      else if (taskDesc p k).role = rolePART then partDone p t lane r s
      else shadowCompare p t lane wrong b katPass s

def execShadowTaskDone (lane : BitVec 6) (residueFails : Bool) (wrong : Option (BitVec 40 × BitVec 32)) (b : PathSay)
    (katPass : Bool) (s : State) : Host.Outcome State Fault Refusal :=
  .next (if partDown s then s else shadowTaskDone lane.toNat residueFails wrong b katPass s)

/-! ### Inbound queues -/

/-- Cluster of a push's successor. -/
def pushTarget (s : State) (m : Push) : Option Nat :=
  (planTaskOf s m.ctx m.epoch m.task).map fun x => x.2.engine / 4

/-- A lane's next message enters the target's queue, which keeps one entry of its 16 for replies. -/
def partialPush (lane : Nat) (s : State) : State :=
  match (laneOf s lane).run with
  | none => s
  | some r => match r.out with
    | [] => s
    | m :: rest => match pushTarget s m with
      | none => s
      | some k =>
        if 15 ≤ (clusterOf s k).inq.length then s
        else (s.mCluster k fun x => { x with inq := x.inq ++ [m] }).mLane lane fun x =>
          { x with run := some { r with out := rest } }

def execPartialPush (lane : BitVec 6) (s : State) : Host.Outcome State Fault Refusal :=
  .next (if partDown s then s else partialPush lane.toNat s)

/-- A free lane of the cluster combines the message at the head of its queue. -/
def inboundCombine (k : Nat) (s : State) : State :=
  if ¬ (range' (4 * k) 4).any (fun l => laneUp s l && (laneOf s l).run.isNone) then s else
  match (clusterOf s k).inq with
  | [] => s
  | m :: rest => combinePush m (s.mCluster k fun x => { x with inq := rest })

def execInboundQueueCombine (cluster : BitVec 4) (s : State) : Host.Outcome State Fault Refusal :=
  .next (if engineHeld s uSA cluster.toNat then s else inboundCombine cluster.toNat s)

/-- A lane reads another cluster's Cluster Memory (R188, R210). -/
def remoteRead (lane k off lines : Nat) (s : State) : State :=
  if lane / 4 = k ∨ 393216 < off + 64 * lines then s
  else busAnswer bsOK (Mem.read s.mem.cm (cmAddr k off) (64 * lines)) (bump (336 + k) 1 s)

def execRemoteRead (lane : BitVec 6) (cluster : BitVec 4) (offset : BitVec 19) (lines : BitVec 8) (s : State) :
    Host.Outcome State Fault Refusal :=
  .next (if partDown s then s else remoteRead lane.toNat cluster.toNat offset.toNat lines.toNat s)

/-- KAT_PERIOD passes: every lane in service whose cluster is powered is tested; 0 disables the test. -/
def saKatPeriod (pass : W64) (s : State) : State :=
  if fld s.expert.saConfig 15 8 = 0 then s else
  ((List.range 64).filter fun l => laneUp s l && domainOf s (l / 4) = .on).foldl (fun s l => laneKat l (bit pass l) s) s

def execSaKatPeriod (pass : W64) (s : State) : Host.Outcome State Fault Refusal :=
  .next (if partDown s then s else saKatPeriod pass s)

/-! ### The wipe of a lane (R219, R221) -/

/-- A cluster is switched off and on: what it held is zero, and its tasks start again. -/
def powerCycle (c : Nat) (s : State) : State :=
  (range' (4 * c) 4).foldl (fun s l => s.mLane l fun x => match x.run with
    | some r => { x with run := none, queue := r.tok :: x.queue }
    | none => x) (zeroCluster c s)

/-- LANE_WIPE: at its task boundary a lane wipes and verifies what it owes (R219 step 5); a region that fails
power-cycles its cluster once (R221). -/
def laneWipe (lane : Nat) (r r2 : WipeSay) (s : State) : State :=
  let l := laneOf s lane
  if l.run.isSome ∨ l.wipes.isEmpty ∨ shareInUse s lane then s else
  let (n, s) := s.draw
  let key : W128 := (Config.trng n).setWidth 128
  let pass (r : WipeSay) : Bool := zeroDigest key (badIn r 0 12288) = 0
  let s := zeroLane lane s
  let mark (f : Erasure → Erasure) (s : State) : State :=
    s.mMem fun m => { m with erasures := m.erasures.map fun e =>
      if e.lanesLeft.contains lane then f { e with lanesLeft := e.lanesLeft.erase lane, lanesDone := e.lanesDone + 1 } else e }
  let s := s.mLane lane fun x => { x with wipes := [] }
  if pass r then mark id s
  else
    let s := powerCycle (lane / 4) s
    if pass r2 then mark (fun e => { e with remapped := true }) s
    else
      let s := (range' (lane / 4 * 4) 4).foldl (fun s l => fenceLane l s) s
      mark (fun e => { e with failed := true }) (eraseFailed (unitHuid uSA lane) s)

def execLaneWipe (lane : BitVec 6) (r r2 : WipeSay) (s : State) : Host.Outcome State Fault Refusal :=
  .next (laneWipe lane.toNat r r2 s)

end Sys2Proof.Machine
end

