-- ==== Sys2Proof/Machine/Tick.lean ====
section
/-!
DEFINITION. What the passing of time ends when no command waits (log entry 10): the engine resets of R328 and the
compute-part reset of R329. Whether a known-answer test of a reset passes is a free value.
-/
namespace Sys2Proof.Machine

/-! ### Known-answer tests of a reset -/

/-- Test the given lanes; bit l of a free value says whether lane l passes. -/
def resetLanes (ls : List Nat) (s : State) : State :=
  let (n, s) := s.draw
  (ls.filter (laneUp s)).foldl (fun s l => laneKat l (bit (Config.free n) l) s) s

def resetPipes (s : State) : State :=
  let (n, s) := s.draw
  (pipesUp s).foldl (fun s k => pipeKat k (bit (Config.free n) k) s) s

def resetPaths (s : State) : State :=
  let (n, s) := s.draw
  twcKat (bit (Config.free n) 0) (bit (Config.free n) 1) s

/-! ### Engines -/

/-- Steps 4 to 6 of R328 for an engine: its unit and number. -/
def engineEffect (e : Nat × Nat) (s : State) : State :=
  if e.1 = uSA then resetLanes (range' (4 * e.2) 4) (zeroCluster e.2 s)
  else if e.1 = uPER then resetPipes s
  else if e.1 = uTWC then resetPaths s
  else if e.1 = uFR then voidSessionsWhere (fun _ => true) s
  else s

/-- The order that asked for an engine reset is done. -/
def engineDone (e : Huid × Option W64) (s : State) : State :=
  let s := match entryOf s clENGINE e.1 with
    | some k => dropEntry k s
    | none => s
  match e.2 with
  | some w => hostDone w stDONE s
  | none => s

def enginesDone (s : State) : State :=
  let es := s.ct.engineRst
  let s := s.mCt fun c => { c with engineRst := [] }
  let s := (dedup (es.filterMap fun e => engineOf e.1)).foldl (fun s e => engineEffect e s) s
  es.foldl (fun s e => engineDone e s) s

/-! ### The compute part -/

/-- Every memory of the part reads zero; what BIST and ECC have mapped out stays mapped. -/
def clearMem (z m : MemSt) : MemSt :=
  { z with
    sheds := m.sheds.map fun x => { x with inFlight := 0 }
    rowMaps := m.rowMaps
    withheld := m.withheld
    deadSpares := m.deadSpares
    fieldMaps := m.fieldMaps
    lastMapInst := m.lastMapInst
    lastMapRow := m.lastMapRow
    spareOut := m.spareOut }

/-- Lanes keep their fences. -/
def clearLane (l : Lane) : Lane := { Lane.reset with inService := l.inService, fenced := l.fenced }

/-- Steps 3 and 5 of R329: arrays, engines and plans as after a cold start, but for what lasts until one. -/
def clearPart (s : State) : State :=
  let z := State.cold s.nv
  { s with
    led := z.led
    twc := { z.twc with pathA := s.twc.pathA, pathB := s.twc.pathB }
    per := { z.per with inService := s.per.inService, fenced := s.per.fenced }
    sa := { s.sa with lanes := s.sa.lanes.map clearLane, clusters := List.replicate 16 Cluster.reset }
    mem := clearMem z.mem s.mem
    fr := { z.fr with wanted := s.fr.wanted, chanFenced := s.fr.chanFenced, bankOk := s.fr.bankOk, bankChecked := s.fr.bankChecked }
    ob := { s.ob with watch := [] } }

/-- The end of R329: kills that waited for erasures go on, and ports accept PLAN packets again. -/
def partResetDone (s : State) : State :=
  let s := match entryOf s clPART partHuid with
    | some k => dropEntry k s
    | none => s
  let words := s.ct.partOrders
  let s := (clearPart s).mCt fun c => { c with part := .run, partOrders := [] }
  let s := resetPaths (resetPipes (resetLanes (List.range 64) s))
  let s := (dedup (s.ct.kills.map (·.ctx))).foldl (fun s c => killErased c s) s
  words.foldl (fun s w => hostDone w stDONE s) s

/-- One period of CK_REF with nothing commanded. -/
def idle (s : State) : State :=
  let s := tick s
  if s.ports.rstLow ∨ s.ports.wrstLow then s
  else match s.ct.part with
    | .reset => partResetDone s
    | .run => if s.ct.engineRst.isEmpty then s else enginesDone s
    | .held => s

end Sys2Proof.Machine
end

