-- ==== Sys2Proof/Machine/Repair.lean ====
section
/-!
DEFINITION. BIST, row repair and fuses (R382, R384 to R392): the fail log, the row maps, and what a row without a spare
withholds or fences.
-/
namespace Sys2Proof.Machine

def frRefused (s : State) : State := reportSelf uFR 0 0x97 0 none s

/-! ### Test conditions (R382) -/

/-- Rail of the Silorn core supply: that of its power channel, where one is declared (log entry 22). -/
def coreRail (s : State) : Nat := ((s.cfg.topo.supply.chans.find? fun c => c.kind = 7).map (·.rail)).getD Config.coreRail

/-- Reading of a channel of a kind and rail: its value in units of 2^-10, and whether it is STALE. -/
def railReading (s : State) (kind rail : Nat) : Option (Int × Bool) :=
  ((s.cfg.topo.supply.chans.zip s.ts.chans).find? fun x => x.1.kind = kind && x.1.rail = rail).map fun x =>
    (x.2.value, x.2.stale)

/-- A reading in volts within `pct` percent of a nominal in mV. -/
def within (pct : Nat) (mv : Nat) (v : Int) : Bool :=
  decide (((v * 1000 - (mv : Int) * 1024).natAbs) * 100 ≤ pct * mv * 1024)

def siliconTemp (s : State) : Rat := ((s.ts.nodes[64]?).map (·.temp)).getD 0

/-- The conditions of R382 at the end of the last slow round; before the first one nothing contradicts them. -/
def testConditions (s : State) : Bool :=
  !s.ts.firstRound || (decide (0 ≤ siliconTemp s) && decide (siliconTemp s ≤ 95) &&
    match railReading s 2 (coreRail s) with
    | some (v, _) => within 3 s.cfg.topo.supply.coreNom v
    | none => false)

/-- A condition fails during a test: FR_WINDOW. -/
def frWindow (s : State) : State := reportSelf uFR 0 0x93 0 none s

/-! ### Fail log (R385) -/

def failWord (e : FailEntry) : W64 :=
  word [put 63 61 e.array.toNat, put 60 55 e.inst.toNat, put 54 51 e.bank.toNat, put 50 41 e.row.toNat,
    put 40 34 e.codeword.toNat, put 33 27 e.bit.toNat, put 26 23 e.phase.toNat]

/-- A failing row: array, instance, bank, row. -/
def failKey (e : FailEntry) : Nat × Nat × Nat × Nat := (e.array.toNat, e.inst.toNat, e.bank.toNat, e.row.toNat)

def failRows (fails : List FailEntry) : List (Nat × Nat × Nat × Nat) := dedup (fails.map failKey)

/-! ### Row maps (R386) -/

def spareCount (array : Nat) : Nat := if array = 0 then 16 else if array = 1 then 4 else 0

/-- First spare row number of a bank. -/
def regularRows (array : Nat) : Nat := if array = 0 then 768 else 48

def spareUsable (s : State) (m : RowMap) : Bool :=
  m.spare < spareCount m.array && !s.mem.deadSpares.contains (m.array, m.inst, m.bank, m.spare) &&
    !s.mem.rowMaps.any fun x => x.array = m.array && x.inst = m.inst && x.bank = m.bank && x.spare = m.spare

def rowMapped (s : State) (m : RowMap) : Bool :=
  s.mem.rowMaps.any fun x => x.array = m.array && x.inst = m.inst && x.bank = m.bank && x.row = m.row

def addRowMap (m : RowMap) (s : State) : State := s.mMem fun x => { x with rowMaps := x.rowMaps ++ [m] }

/-- Map a row to the lowest usable spare of its bank, and record the repair. The answer says whether one was left. -/
def repairRow (m : RowMap) (s : State) : Bool × State :=
  if rowMapped s m then (true, s) else
  match freeSpare s m.array m.inst m.bank (spareCount m.array) with
  | none => (false, s)
  | some k =>
    let s := addRowMap { m with spare := k } s
    (true, sbSoftRepair m.array m.inst m.bank m.row k m.origin (bump 898 1 s))

/-- A repair made before: it keeps its spare, or moves to another when that fails or is taken. -/
def keepRow (m : RowMap) (s : State) : State :=
  if rowMapped s m then s else if spareUsable s m then addRowMap m s else (repairRow m s).2

/-- Soft repair of a Stud Book record (R387). -/
def softRepairOf (r : SbRec) : RowMap :=
  let w := wordAt r.body 0
  { array := fld w 63 62, inst := fld w 61 56, bank := fld w 55 52, row := fld w 51 42, spare := fld w 41 38,
    origin := fld w 37 36 }

def softRepairs (s : State) : List RowMap :=
  let fused := (sbRecords s).filter fun r => r.type = sbFUSED
  ((sbRecords s).filter fun r => r.type = sbREPAIR && !fused.any fun f => f.body = r.body).map softRepairOf

/-- Fuse repairs first, then the soft repairs of the Stud Book. -/
def buildRowMaps (s : State) : State :=
  let s := s.mMem fun m => { m with rowMaps := s.nv.fuses }
  (softRepairs s).foldl (fun s m => keepRow m s) s

/-! ### Rows without a spare (R388) -/

/-- Locus of a row under R212. -/
def rowLocus (s : State) (k : Nat × Nat × Nat × Nat) : Huid × W128 :=
  let (array, inst, bank, row) := k
  let h := if array = 0 ∨ array = 3 then silornHuid 7 inst else if array ≤ 2 then unitHuid uSA inst
           else unitHuid uFR inst
  let (ek, ei) := match array with
    | 0 => (1, row)
    | 3 => (2, row)
    | 1 => (3, bank * 64 + row)
    | 2 => (4, bank * 64 + row)
    | _ => (0, 0)
  (h, elemLocus s h ek ei 0)

/-- Slot of a Loft row, or of a tag word by its slot index. -/
def slotOfRow (inst j : Nat) : Nat := inst / 16 * 6144 + j * 16 + inst % 16

def withhold (slot : Nat) (s : State) : State := s.mMem fun m => { m with withheld := dedup (m.withheld ++ [slot]) }

def unrepairable (k : Nat × Nat × Nat × Nat) (s : State) : State :=
  let (array, inst, _, row) := k
  let (h, loc) := rowLocus s k
  let s := report uFR 0x91 0 none h loc s
  match array with
  | 0 => withhold (slotOfRow inst (row / 2)) s
  | 3 => withhold (slotOfRow inst row) s
  | 1 => (range' (inst / 4 * 4) 4).foldl (fun s l => fenceLane l s) s
  | 2 => fenceLane inst s
  | 5 => s.mHx fun h => { h with badPorts := h.badPorts ||| (1#4 <<< inst) }
  | _ => s

/-- Repair the failing rows of a BIST; the answer lists those left without a spare. -/
def repairAll (origin : Nat) (rows : List (Nat × Nat × Nat × Nat)) (s : State) :
    List (Nat × Nat × Nat × Nat) × State :=
  rows.foldl (fun (acc : List (Nat × Nat × Nat × Nat) × State) k =>
    let (array, inst, bank, row) := k
    let m : RowMap := { array := array, inst := inst, bank := bank, row := row, spare := 0, origin := origin }
    match if array ≤ 1 then repairRow m acc.2 else (false, acc.2) with
    | (true, s) => (acc.1, report uFR 0x90 0 none (rowLocus s k).1 (rowLocus s k).2 s)
    | (false, s) => (acc.1 ++ [k], unrepairable k s)) ([], s)

/-- Fail log, dead spares and counts of a BIST. -/
def bistLog (fails deadSpares : List FailEntry) (s : State) : State :=
  let rows := failRows fails
  let dead := deadSpares.map fun e =>
    (e.array.toNat, e.inst.toNat, e.bank.toNat, e.row.toNat - regularRows e.array.toNat)
  let s := s.mFr fun f => { f with
    failLog := (fails.map failWord).take 256
    failOvf := decide (256 < fails.length)
    failRows := rows.length }
  bump 896 1 (bump 897 rows.length (s.mMem fun m => { m with deadSpares := dedup (m.deadSpares ++ dead) }))

/-- Arrays of a BIST scope. -/
def inScope (scope array : Nat) : Bool :=
  match scope with
  | 0 => true
  | 1 => array = 0 || array = 3
  | 2 => array = 1
  | _ => array = 2

/-- Every array of a scope holds zero. -/
def zeroArrays (scope : Nat) (s : State) : State :=
  s.mMem fun m => { m with
    loft := if inScope scope 0 then [] else m.loft
    tags := if inScope scope 3 then [] else m.tags
    cm := if inScope scope 1 then [] else m.cm
    opbuf := if inScope scope 2 then [] else m.opbuf }

def planPagesLeft (s : State) : Nat := 2048 - (s.mem.withheld.filter fun x => planStore ≤ x).length

/-! ### BIST started from the host (R392) -/

/-- FACTORY_TEST at OPERATOR or VENDOR_DEBUG; RETURN at OPERATOR (R380). -/
def factoryAccess (s : State) (priv : BitVec 2) : Bool :=
  s.sec.lc = lcFACTORY || (s.sec.lc = lcRETURN && priv = 1)

/-- A write of a test order: refused without the rights of an OPERATOR, and reported where R380 does not allow it. -/
def testOrder (allowed : Bool) (priv : BitVec 2) (f : State → State) (s : State) : State :=
  operatorWrite priv (fun s => if allowed then f s else frRefused s) s

def bsNONE := 0
def bsRUNNING := 1
def bsPASS := 2
def bsREPAIRED := 3
def bsUNREPAIRABLE := 4
def bsVOID := 5
def bsBUSY := 6
def bsFATAL := 7

def hostBist (w : W64) (s : State) : State :=
  let scope := fld w 62 60
  let repair := fld w 59 58
  if ¬ bit w 63 ∨ 4 ≤ scope ∨ 2 ≤ repair ∨ s.fr.bistStatus = bsRUNNING ∨ domainFailed s 21 then s
  else if ¬ s.led.plans.isEmpty ∨ s.led.staging.isSome then s.mFr fun f => { f with bistStatus := bsBUSY }
  else
    let s := zeroArrays scope (requestDomain 21 s)
    s.mFr fun f => { f with bistStatus := bsRUNNING, bistScope := scope, bistSoft := decide (repair = 1) }

def execHostBist (priv : BitVec 2) (w : W64) (s : State) : Host.Outcome State Fault Refusal :=
  .next (testOrder (factoryAccess s priv) priv (hostBist w) s)

/-- BIST_DONE of a host BIST. With REPAIR = NONE it only reports. -/
def bistDone (fails deadSpares : List FailEntry) (s : State) : State :=
  if s.fr.bistStatus ≠ bsRUNNING then s
  else if ¬ testConditions s then frWindow (s.mFr fun f => { f with bistStatus := bsVOID })
  else
    let fails := fails.filter fun e => inScope s.fr.bistScope e.array.toNat
    let rows := failRows fails
    let s := zeroArrays s.fr.bistScope (bistLog fails deadSpares s)
    let (left, s) := if s.fr.bistSoft then repairAll 2 rows s else (rows, s)
    let status := if rows.isEmpty then bsPASS else if left.any fun k => k.1 = 4 then bsFATAL
                  else if left.isEmpty then bsREPAIRED else bsUNREPAIRABLE
    s.mFr fun f => { f with bistStatus := status }

def execBistDone (fails deadSpares : List FailEntry) (s : State) : Host.Outcome State Fault Refusal :=
  .next (bistDone fails deadSpares s)

/-! ### Fuses (R391) -/

/-- Program one soft repair; a failed read-back leaves its record unmarked. -/
def fuseOne (m : RowMap) (ok : Bool) (s : State) : State :=
  if ¬ ok ∨ 2048 ≤ s.nv.fuses.length then s else
  let s := s.mNv fun v => { v with fuses := v.fuses ++ [{ m with origin := 3 }] }
  let s := s.mMem fun x => { x with rowMaps := x.rowMaps.map fun y => if y = m then { m with origin := 3 } else y }
  sbWrite sbFUSED (leBytes 8 (put 63 62 m.array + put 61 56 m.inst + put 55 52 m.bank + put 51 42 m.row +
    put 41 38 m.spare + put 37 36 m.origin)) (bump 899 1 s)

def fuseProgram (w : W64) (readBackOk : List Bool) (s : State) : State :=
  if ¬ bit w 63 then s
  else if ¬ windowsHold s then s.mFr fun f => { f with fuseStatus := 3, fuseDone := 0 }
  else
    let ms := (s.mem.rowMaps.filter fun m => m.origin ≠ 3).zipIdx
    let before := s.nv.fuses.length
    let s := ms.foldl (fun s x => fuseOne x.1 (readBackOk.getD x.2 true) s) s
    let done := s.nv.fuses.length - before
    s.mFr fun f => { f with fuseStatus := if done = ms.length then 2 else 4, fuseDone := done }

def execFuseProgram (priv : BitVec 2) (w : W64) (readBackOk : List Bool) (s : State) : Host.Outcome State Fault Refusal :=
  .next (testOrder (s.sec.lc = lcFACTORY) priv (fuseProgram w readBackOk) s)

end Sys2Proof.Machine
end

