-- ==== Sys2Proof/Machine/Farrier.lean ====
section
/-!
DEFINITION. Test sessions of host cores (R393 to R397) and Pattern Packages (R398 to R400).
-/
namespace Sys2Proof.Machine

/-! ### Pattern banks -/

def bankNo (s : State) (b : Bool) : Bank := if b then s.nv.bankB else s.nv.bankA

/-- A bank whose content a session may use. -/
def bankUsable (s : State) (b : Bool) : Bool := (bankNo s b).installed && s.fr.bankOk

/-- Key of the cross-checks: K_T of the bank, or that of the ROM set. -/
def testKey (s : State) (b : Bool) : W128 := if bankUsable s b then (bankNo s b).kT else Config.romKt

def coreModelOf (s : State) (h : Huid) : BitVec 16 := ((modelOf s h).map (·.coreModel)).getD 0

/-- XTEST descriptors of a core's model; without a verified bank, the eight of the ROM. -/
def testDescs (s : State) (b : Bool) (h : Huid) : List (BitVec 512) :=
  if bankUsable s b then ((bankNo s b).descs.filter fun x => x.1 = coreModelOf s h).map (·.2)
  else (List.range 8).map Config.romDesc

/-- Bytes of the scan blocks of a core's model. -/
def scanSet (s : State) (b : Bool) (h : Huid) : List Nat :=
  ((bankNo s b).scanBlocks.filter fun x => x.1 = coreModelOf s h).map (·.2)

/-- The layer entry of a test of FR: only its salt and its rounding seed count. -/
def testLayer (n : Nat) : LayerE :=
  { layer := 0x80000000 + n, salt := 0xE5A5E5A4, srSeed := Config.testSeed, srCtx := 0, opcode := 0, mode := 0, outFmt := 0,
    inA := 0, inB := 0, rmode := 0, doneCount := 0, perRate := 0, shadowRate := 0, tiles := 0, maxTerms := 0, elements := 0,
    inner := 0, tileInner0 := 0, tileInner1 := 0 }

/-- A cross-check as a Shadow lane computes it, and its digest (R55, R395). -/
def testWork (raw : BitVec 512) (n : Nat) (key : W128) (test : Nat) : Task :=
  xtestWork raw (testLayer n) 0 (0x80000000 + n) key test

def testDigest (raw : BitVec 512) (n : Nat) (key : W128) (test : Nat) : Nat :=
  let w := testWork raw n key test
  (w.full.zipIdx.map fun x => elemHash 0xE5A5E5A4 (elemIndex w.d 0 x.2) x.1 key).sum % 2 ^ 64

/-- The layer that a reproduction record describes, its operands (R261, R263) and the lane's output bits. -/
def reproLayer (q : Pattern) : LayerE :=
  { testLayer 0 with opcode := fld q.body 479 474, inA := fld q.body 473 469, inB := fld q.body 468 464,
                     outFmt := fld q.body 463 459, rmode := fld q.body 458 457 }

def reproOut (q : Pattern) (s : State) : Nat × State :=
  let l := reproLayer q
  let key := BitVec.ofNat 128 (fld q.body 415 288)
  let n := fld q.body 287 264
  let ops (o fmt : Nat) : List (Nat × Nat) :=
    (List.range (fld q.body 456 454 + 1)).map fun j => candidateTerm key n j o fmt
  laneProbe l 0 (ops 0 l.inA) (ops 1 l.inB) s

/-! ### Sessions -/

/-- Channel of a sector (R393). -/
def channelOf (h : Huid) : Nat := huidSector h % 16

def channelSession (s : State) (c : Nat) : Option Session := s.fr.sessions.find? fun x => x.channel = c

def State.mSession (c : Nat) (f : Session → Session) (s : State) : State :=
  s.mFr fun x => { x with sessions := x.sessions.map fun y => if y.channel = c then f y else y }

/-- A test that VU or the host ordered may run in this life-cycle state (R380). -/
def sessionAllowed (s : State) (host : Bool) : Bool :=
  if host then testState s else s.sec.lc = lcPROVISIONED || s.sec.lc = lcDEPLOYED

/-- The order for a test still stands: the core is where VU put it, or is fenced by its host. -/
def orderStands (s : State) (h : Huid) (host : Bool) : Bool :=
  let p := padOf s h
  if host then p.hostFenced else p.st = .turnout || p.st = .suspect

/-- Begin the test program: TEST OPEN, and K_T in a KEY packet. -/
def openTest (x : Session) (s : State) : State :=
  sendKey (labelOf s x.core) 0xFF (testKey s x.bank) (sendTest 0 x.core 0 0 [] s)

/-- Deliver the whole firmware to a core that lacks it, within its session (R429). -/
def sessionMuster (h : Huid) (s : State) : State :=
  let s := (List.range s.cfg.fwBlocks).foldl (fun s b => sendBlock h b s) s
  sendMuster 1 0 h (bump 960 s.cfg.fwBlocks s)

/-- The active bank is verified once per cold start, before the first session (R398). -/
def verifyBank (ok : Bool) (s : State) : State :=
  if s.fr.bankChecked then s else
  let b := bankNo s s.nv.selector
  let good := b.installed && ok
  let s := s.mFr fun f => { f with bankChecked := true, bankOk := good }
  if b.installed ∧ ¬ ok then reportSelf uFR 0 0x96 0 none s else s

/-- TEST_SESSION_OPEN: a session begins on a wanted core whose fence has been answered, on its free channel. -/
def sessionOpen (h : Huid) (channelOk bankOk : Bool) (s : State) : State :=
  match s.fr.wanted.find? fun w => w.1 = h with
  | none => s
  | some (_, host) =>
    let c := channelOf h
    if ¬ orderStands s h host ∨ ¬ sessionAllowed s host then
      s.mFr fun f => { f with wanted := f.wanted.filter fun w => w.1 ≠ h }
    else if ¬ coreFenced s h ∨ (channelSession s c).isSome ∨ bit s.fr.chanFenced c ∨ domainFailed s 21 then s
    else if ¬ testConditions s then frWindow s
    else
      let s := verifyBank bankOk (requestDomain 21 s)
      let x : Session := { channel := c, core := h, item := 1, index := 0, bank := s.nv.selector, scanRan := false,
                           blocksLeft := 0, hostOrdered := host, mustering := (padOf s h).noFirmware }
      let s := bump 900 1 (s.mFr fun f => { f with
        wanted := f.wanted.filter fun w => w.1 ≠ h
        sessions := f.sessions ++ [x] })
      if ¬ channelOk then
        let s := s.mFr fun f => { f with chanFenced := f.chanFenced ||| (1#16 <<< c) }
        endSession x trVOID (reportSelf uFR c 0x94 0 none s)
      else if x.mustering then sessionMuster h s else openTest x s

def execTestSessionOpen (core : Huid) (channelOk bankOk : Bool) (s : State) : Host.Outcome State Fault Refusal :=
  .next (if engineHeld s uFR 0 then s else sessionOpen core channelOk bankOk s)

/-- FR.TEST_CTRL (R396). -/
def hostTest (w : W64) (s : State) : State :=
  let h : Huid := BitVec.ofNat 16 (fld w 62 47)
  if bit w 63 ∧ corePresent s h ∧ (padOf s h).hostFenced ∧ (sessionOf s h).isNone ∧ ¬ partDown s then wantTest h true s
  else s

def execHostTestSession (priv : BitVec 2) (w : W64) (s : State) : Host.Outcome State Fault Refusal :=
  .next (testOrder (factoryAccess s priv) priv (hostTest w) s)

/-! ### The test program (R395) -/

def xtTests (s : State) : Nat := max 1 (fld s.expert.frConfig 63 56)

/-- Item 4 from record `i` on: the next reproduction, or the end of the session. -/
def reproItem (x : Session) (i : Nat) (s : State) : State :=
  match s.vu.patterns[i]? with
  | none => endSession { x with item := 4 } trPASS s
  | some q =>
    let s := s.mSession x.channel fun y => { y with item := 4, index := i }
    sendTest 2 x.core i 0 (leBytes 64 q.body.toNat) (bump 906 1 s)

/-- Item 3: the scan set, where it runs. -/
def scanItem (x : Session) (s : State) : State :=
  let n := (presentDies s.cfg.topo).length
  let blocks := (scanSet s x.bank x.core).length
  if n < 16 ∨ ¬ bankUsable s x.bank ∨ s.cfg.patternArea.isNone ∨ blocks = 0 then reproItem x 0 s
  else s.mSession x.channel fun y => { y with item := 3, index := 0, blocksLeft := blocks, scanRan := true }

/-- Item 2: descriptor d, test number t. -/
def xtestItem (x : Session) (d t : Nat) (s : State) : State :=
  match (testDescs s x.bank x.core)[d]? with
  | none => scanItem x s
  | some raw =>
    let s := s.mSession x.channel fun y => { y with item := 2, index := d * 256 + t }
    sendTest 1 x.core t d (leBytes 64 raw.toNat) (bump 904 1 s)

/-- The reply to the running item. -/
def sessionReply (x : Session) (sub status : Nat) (body : Bytes) (s : State) : State :=
  let lane := (List.range 64).any (laneUp s)
  if x.mustering then s
  else if x.item = 1 then
    if sub ≠ 0 then s else if status ≠ 0 then endSession x trVOID s else xtestItem x 0 0 s
  else if x.item = 2 then
    let d := x.index / 256
    let t := x.index % 256
    if sub ≠ 1 then s
    else if ¬ lane then endSession x trVOID s
    else if status ≠ 0 ∨ leAt body 0 8 ≠ testDigest ((testDescs s x.bank x.core).getD d 0) d (testKey s x.bank) t then
      endSession x trFAIL s
    else if t + 1 < xtTests s then xtestItem x d (t + 1) s else xtestItem x (d + 1) 0 s
  else if x.item = 4 then
    if sub ≠ 2 then s
    else if ¬ lane then endSession x trVOID s
    else match s.vu.patterns[x.index]? with
      | none => endSession x trPASS s
      | some q =>
        let (out, s) := reproOut q s
        if status ≠ 0 ∨ leAt body 0 4 ≠ out then endSession x trFAIL s else reproItem x (x.index + 1) s
  else s

def testReply (p : Ingress) (s : State) : State :=
  match sessionOf s (physOf s p.src) with
  | none => s
  | some x => sessionReply x p.sub (fld (p.pre 0) 41 40) (payloadAfter p 8) s

def execTestReply (p : Ingress) (s : State) : Host.Outcome State Fault Refusal := .next (ingress 0x08 none p (testReply p) s)

/-- A scan block has been applied to the session of a channel. -/
def scanBlockDone (c : Nat) (r : ScanSay) (s : State) : State :=
  match channelSession s c with
  | none => s
  | some x =>
    if x.item ≠ 3 then s else
    let bytes := (scanSet s x.bank x.core).getD x.index 0 + s.fr.flashRest
    let s := bump 905 1 (bump 907 (bytes / 2 ^ 20) (s.mFr fun f => { f with flashRest := bytes % 2 ^ 20 }))
    if ¬ r.blockCrcOk then endSession x trVOID (reportSelf uFR c 0x96 0 none s)
    else if ¬ r.signatureOk then endSession x trFAIL s
    else if x.blocksLeft ≤ 1 then reproItem x 0 s
    else s.mSession c fun y => { y with blocksLeft := y.blocksLeft - 1, index := y.index + 1 }

def execScanBlockDone (channel : BitVec 4) (r : ScanSay) (s : State) : Host.Outcome State Fault Refusal :=
  .next (if engineHeld s uFR 0 then s else scanBlockDone channel.toNat r s)

/-- TEST_TIMEOUT: VOID and reported; the second in a row of a core, or the timeout of its Muster, is a failed test. -/
def testTimeout (c : Nat) (s : State) : State :=
  match channelSession s c with
  | none => s
  | some x =>
    let n := (padOf s x.core).timeoutsInRow + 1
    let s := reportUnit uFR 0x95 0 none x.core s
    if x.mustering then endSession x trFAIL s
    else
      let s := (endSession x trVOID s).mPad x.core fun p => { p with timeoutsInRow := n % 2 }
      if n < 2 then s
      else testBad x.core (s.mFr fun f => { f with wanted := f.wanted.filter fun w => w.1 ≠ x.core })

def execTestTimeout (channel : BitVec 4) (s : State) : Host.Outcome State Fault Refusal :=
  .next (testTimeout channel.toNat s)

/-! ### Pattern Packages -/

def pkIDLE := 0
def pkRECEIVING := 1
def pkWAIT := 2
def pkVERIFYING := 3
def pkDONE := 4

/-- Package loading is for the OPERATOR, and needs a pattern area (R380, R412). -/
def pkgAllowed (s : State) (priv : BitVec 2) : Bool :=
  priv = 1 && s.cfg.patternArea.isSome && !secLocked s && 1 ≤ s.sec.lc && s.sec.lc ≤ lcRETURN

/-- Change the package load. -/
def State.mPkg (f : Fr → Fr) (s : State) : State :=
  stateChanged uFR 0xC0048 s.fr.pkgState (f s.fr).pkgState (s.mFr f)

def pkgBusy (s : State) : Bool := s.fr.pkgState = pkRECEIVING || s.fr.pkgState = pkWAIT || s.fr.pkgState = pkVERIFYING

/-- Room of one bank: half of the pattern area after the selector word. -/
def bankRoom (s : State) : Nat := ((s.cfg.patternArea.map (·.2)).getD 0 - 8) / 2

def pkgReject (code : Nat) (s : State) : State :=
  let s := bump 909 1 (s.mPkg fun f => { f with pkgState := pkDONE, pkgCode := code })
  if code = 3 then s else reportSelf uFR 0 0x96 0 none s

/-- Start a load, when none is in progress and no session uses the inactive bank. -/
def pkgStart (len : Nat) (s : State) : State :=
  if pkgBusy s ∨ (s.fr.sessions.any fun x => x.bank ≠ s.nv.selector) ∨ domainFailed s 21 ∨ engineHeld s uFR 0 then s
  else
    let s := (requestDomain 21 s).mPkg fun f =>
      { f with pkgState := pkRECEIVING, pkgCode := 0, pkgBytes := [], pkgLen := len, pkgReceived := 0 }
    if bankRoom s < len then pkgReject 4 s else s

def setBank (b : Bool) (x : Bank) (s : State) : State :=
  s.mNv fun v => if b then { v with bankB := x } else { v with bankA := x }

/-- Whole pages received are in the inactive bank. -/
def pkgProgram (s : State) : State :=
  let n := s.fr.pkgReceived
  let pages := if n < s.fr.pkgLen then n / 4096 * 4096 else n
  if pages = 0 then s else setBank (!s.nv.selector) { Bank.empty with raw := s.fr.pkgBytes.take pages } s

/-- The next 8 bytes. Outside the windows of R449 a write that fills a page is not taken (R399 step 3). -/
def pkgWord (w : W64) (s : State) : State :=
  if s.fr.pkgState ≠ pkRECEIVING ∧ s.fr.pkgState ≠ pkWAIT then s else
  let left := s.fr.pkgLen - s.fr.pkgReceived
  let n := min 8 left
  let fills := (s.fr.pkgReceived + n) % 4096 = 0 || left ≤ 8
  if n = 0 then s
  else if fills ∧ ¬ windowsHold s then s.mPkg fun f => { f with pkgState := pkWAIT }
  else pkgProgram (s.mPkg fun f => { f with
    pkgState := pkRECEIVING
    pkgBytes := f.pkgBytes ++ leBytes n w.toNat
    pkgReceived := f.pkgReceived + n })

def pkgClose (s : State) : State :=
  if s.fr.pkgState = pkRECEIVING ∨ s.fr.pkgState = pkWAIT then s.mPkg fun f => { f with pkgState := pkVERIFYING } else s

def pkgAbort (s : State) : State := if pkgBusy s then s.mPkg fun f => { f with pkgState := pkIDLE } else s

/-- A row of the command table for one OP of `FR.PKG_CTRL`. -/
def pkgRow (op : Nat) (priv : BitVec 2) (w : W64) (f : State → State) (s : State) : State :=
  if fld w 63 62 = op then testOrder (pkgAllowed s priv) priv f s else s

def execPkgOpen (priv : BitVec 2) (w : W64) (s : State) : Host.Outcome State Fault Refusal :=
  .next (pkgRow 1 priv w (pkgStart (fld w 31 0)) s)

def execPkgData (priv : BitVec 2) (w : W64) (s : State) : Host.Outcome State Fault Refusal :=
  .next (testOrder (pkgAllowed s priv) priv (pkgWord w) s)

def execPkgClose (priv : BitVec 2) (w : W64) (s : State) : Host.Outcome State Fault Refusal :=
  .next (pkgRow 2 priv w pkgClose s)

def execPkgAbort (priv : BitVec 2) (w : W64) (s : State) : Host.Outcome State Fault Refusal :=
  .next (pkgRow 3 priv w pkgAbort s)

/-- Reproduction records of a package join the local pattern list (R264). -/
def addPackagePattern (body : BitVec 512) (s : State) : State :=
  let q : Pattern := { body := body, sig := [], fromPackage := true }
  let l := addPattern q s.vu.patterns
  let s := s.mVu fun v => { v with patterns := l }
  if l.contains q then sbWrite sbREPRO (patternBytes q) s else s

/-- The package becomes the active bank; the Node Leader passes it on (R399 steps 6 and 7). -/
def pkgInstall (b : Bank) (repros : List (BitVec 512)) (s : State) : State :=
  let raw := s.fr.pkgBytes
  let s := (setBank (!s.nv.selector) b s).mNv fun v => { v with selector := !v.selector }
  let s := bump 908 1 (s.mPkg fun f => { f with pkgState := pkDONE, pkgCode := 0, bankOk := true, bankChecked := true })
  let s := repros.foldl (fun s r => addPackagePattern r s) s
  if isLeader s then ((liveDies s).filter (· ≠ dieNat s)).foldl (fun s d => sendBulk d 2 raw s) s else s

/-- PKG_VERIFY (R400). -/
def pkgVerify (readBackOk : Bool) (s : State) : State :=
  if s.fr.pkgState ≠ pkVERIFYING then s else
  let raw := s.fr.pkgBytes
  let (signed, sig) := Config.packageSigned raw
  let active := bankNo s s.nv.selector
  if ¬ readBackOk then pkgReject 5 s
  else if ¬ Config.ecdsaVerify s.nv.otp.patKey (Config.sha384 signed) sig then pkgReject 1 s
  else if s.fr.pkgReceived ≠ s.fr.pkgLen then pkgReject 2 s
  else match Config.packageContent raw with
    | none => pkgReject 2 s
    | some (seq, cat, kT, descs, blocks, repros) =>
      if active.installed ∧ seq ≤ active.pkgSeq then pkgReject 3 s
      else pkgInstall { installed := true, pkgSeq := seq, catVer := cat, kT := kT, descs := descs, repros := repros,
                        scanBlocks := blocks, raw := raw } repros s

def execPkgVerify (readBackOk : Bool) (s : State) : Host.Outcome State Fault Refusal := .next (pkgVerify readBackOk s)

/-! ### BULK (R353) -/

/-- Packets of one BULK message, by source, ARG and MSG. -/
def bulkParts (s : State) (p : HxPkt) : List HxPkt :=
  sortBy (fun q => fld q.ext 63 52)
    (s.hx.bulkIn.filter fun q => hxSrc q = hxSrc p && hxArg q = hxArg p && fld q.ext 79 64 = fld p.ext 79 64)

/-- A BULK packet waits for its message; a whole Pattern Package is programmed and verified here (R399 step 7). -/
def bulkPacket (p : HxPkt) (s : State) : State :=
  let s := s.mHx fun h => { h with bulkIn := h.bulkIn ++ [p] }
  let parts := bulkParts s p
  if hxArg p ≠ 2 ∨ parts.length ≠ fld p.ext 51 40 + 1 then s else
  let raw := parts.flatMap (·.payload)
  let s := s.mHx fun h => { h with bulkIn := h.bulkIn.filter fun q => !parts.contains q }
  if ¬ pkgAllowed s 1 ∨ pkgBusy s ∨ nodeLeader s ≠ some (hxSrc p) then s else
  let s := pkgStart raw.length s
  if s.fr.pkgState ≠ pkRECEIVING then s else
  let s := s.mFr fun f => { f with pkgBytes := raw, pkgReceived := raw.length }
  if windowsHold s then (pkgProgram s).mPkg fun f => { f with pkgState := pkVERIFYING }
  else s.mPkg fun f => { f with pkgState := pkWAIT }

/-- When the windows hold again, a package that waited goes on. -/
def pkgResume (s : State) : State :=
  if s.fr.pkgState ≠ pkWAIT ∨ ¬ windowsHold s then s
  else if s.fr.pkgReceived = s.fr.pkgLen then (pkgProgram s).mPkg fun f => { f with pkgState := pkVERIFYING }
  else s.mPkg fun f => { f with pkgState := pkRECEIVING }

def execBulk (p : HxPkt) (s : State) : Host.Outcome State Fault Refusal := .next (consumer kBULK p (bulkPacket p) s)

end Sys2Proof.Machine
end

