-- ==== Sys2Proof/Machine/ExpertMap.lean ====
section
/-!
DEFINITION. The expert registers by address (R518): where each lies, its fields with the range that the manual states, and
reading and writing one.
-/
namespace Sys2Proof.Machine

/-- A field: its bits, and least and greatest value. -/
structure XField where
  hi : Nat
  lo : Nat
  least : Nat
  most : Nat
  deriving DecidableEq, Repr

/-- A field that takes every value. -/
def xAny (hi lo : Nat) : XField := { hi := hi, lo := lo, least := 0, most := 2 ^ (hi + 1 - lo) - 1 }

/-- A field whose value 0 is not allowed. -/
def xPos (hi lo : Nat) : XField := { hi := hi, lo := lo, least := 1, most := 2 ^ (hi + 1 - lo) - 1 }

def xRange (hi lo least most : Nat) : XField := { hi := hi, lo := lo, least := least, most := most }

/-- Fields of `FC.REACT` (R314) and of the eight-byte registers of HX (R377). -/
def reactFields : List XField := [xRange 42 40 0 4, xRange 39 37 0 4, xAny 36 36, xPos 35 28, xPos 27 12]

def hxFields : List XField :=
  [xPos 63 56, xPos 55 48, xPos 47 40, xPos 39 32, xPos 31 24, xPos 23 16, xAny 15 12, xPos 11 8, xPos 7 0]

def hxLinkFields : List XField :=
  [xPos 63 56, xPos 55 48, xPos 47 40, xPos 39 32, xPos 31 24, xRange 23 16 4 255, xPos 15 8, xPos 7 0]

/-- Fields of the expert register at an address; none: no register. -/
def expertFields (a : Nat) : Option (List XField) :=
  match a with
  | 0x210000 => some [xPos 63 56, xPos 55 48, xAny 47 46, xAny 45 44]
  | 0x220050 => some [xRange 19 8 0 1024, xAny 7 0]
  | 0x240000 => some [xRange 47 32 250 50000, xPos 31 24]
  | 0x250000 => some [xRange 1 0 0 2]
  | 0x260000 => some [xAny 15 8, xAny 4 4, xRange 2 0 0 6]
  | 0x270000 => some [xAny 15 8, xRange 4 0 4 16]
  | 0x280000 => some [xAny 32 32, xPos 31 24, xPos 23 16, xPos 15 8]
  | 0x290000 => some [xAny 63 63, xPos 55 48, xPos 47 44, xRange 43 40 1 3, xPos 39 32, xPos 31 24, xPos 23 16, xPos 15 11,
      xRange 10 6 8 24]
  | 0x2A0000 => some [xPos 63 56, xPos 55 48]
  | 0x2B0000 => some hxFields
  | 0x2B0008 => some hxLinkFields
  | 0x2C0000 => some [xPos 63 56, xPos 55 48]
  | 0x2D0000 => some [xPos 63 56, xPos 55 48, xRange 47 40 40 150, xRange 39 32 40 150, xRange 31 24 40 150, xAny 23 23]
  | 0x2E0000 => some [xAny 63 38, xPos 37 30, xPos 29 26]
  | 0x2F0000 => some [xRange 63 56 1 10, xAny 55 48, xRange 47 45 1 4, xAny 44 44]
  | _ =>
    if 0x220000 ≤ a ∧ a < 0x220050 ∧ a % 8 = 0 then some reactFields
    else if 0x230000 ≤ a ∧ a < 0x230060 ∧ a % 8 = 0 then some [xRange 21 0 1 4000000]
    else none

/-- Content of the expert register at an address. -/
def expertGet (e : Expert) (a : Nat) : W64 :=
  match a with
  | 0x210000 => e.cfgStart
  | 0x220050 => e.inConfig
  | 0x240000 => e.ledTiming
  | 0x250000 => e.twcConfig
  | 0x260000 => e.perConfig
  | 0x270000 => e.saConfig
  | 0x280000 => e.memConfig
  | 0x290000 => e.vuConfig
  | 0x2A0000 => e.ymConfig
  | 0x2B0000 => e.hxConfig
  | 0x2B0008 => e.hxLink
  | 0x2C0000 => e.frConfig
  | 0x2D0000 => e.tsConfig
  | 0x2E0000 => e.secConfig
  | 0x2F0000 => e.obConfig
  | _ => if a < 0x230000 then e.fcReact.getD ((a - 0x220000) / 8) 0 else e.ctTimeout.getD ((a - 0x230000) / 8) 0

def expertSet (e : Expert) (a : Nat) (w : W64) : Expert :=
  match a with
  | 0x210000 => { e with cfgStart := w }
  | 0x220050 => { e with inConfig := w }
  | 0x240000 => { e with ledTiming := w }
  | 0x250000 => { e with twcConfig := w }
  | 0x260000 => { e with perConfig := w }
  | 0x270000 => { e with saConfig := w }
  | 0x280000 => { e with memConfig := w }
  | 0x290000 => { e with vuConfig := w }
  | 0x2A0000 => { e with ymConfig := w }
  | 0x2B0000 => { e with hxConfig := w }
  | 0x2B0008 => { e with hxLink := w }
  | 0x2C0000 => { e with frConfig := w }
  | 0x2D0000 => { e with tsConfig := w }
  | 0x2E0000 => { e with secConfig := w }
  | 0x2F0000 => { e with obConfig := w }
  | _ =>
    if a < 0x230000 then { e with fcReact := e.fcReact.set ((a - 0x220000) / 8) w }
    else { e with ctTimeout := e.ctTimeout.set ((a - 0x230000) / 8) w }

/-- The value of a field lies in its range. -/
def XField.holds (x : XField) (w : W64) : Bool := decide (x.least ≤ fld w x.hi x.lo) && decide (fld w x.hi x.lo ≤ x.most)

/-- Write the fields whose values are in range; others keep their value, and reserved bits stay 0 (R8). -/
def expertMerge (fs : List XField) (old w : W64) : W64 :=
  fs.foldl (fun acc x => if x.holds w then setFld acc x.hi x.lo (fld w x.hi x.lo) else acc) old

/-- Write an expert register. -/
def expertWrite (a : Nat) (w : W64) (s : State) : State :=
  match expertFields a with
  | some fs => { s with expert := expertSet s.expert a (expertMerge fs (expertGet s.expert a) w) }
  | none => s

end Sys2Proof.Machine
end

