-- ==== Sys2Proof/Machine/Power.lean ====
section
/-!
DEFINITION. Power domains (R437 to R442), the slow round and the thermal model (R443 to R448), and the windows for fuse
and flash writes (R449).
-/
namespace Sys2Proof.Machine

/-! ### Domains -/

def clusterGating (s : State) : Bool := bit s.expert.tsConfig 23

/-- A resident plan names the domain. -/
def planWants (s : State) (d : Nat) : Bool := s.led.plans.any fun x => (planDomains x.2).contains d

/-- Stage that runs, from S3 through S6. -/
def screening (s : State) : Bool := 3 ≤ s.cfg.stage && s.cfg.stage ≤ 6 && !s.cfg.inService

/-- Condition of R437 under which a domain must stay on. -/
def domainNeeded (s : State) (d : Nat) : Bool :=
  if d < 16 then screening s || (s.cfg.inService && (!clusterGating s || planWants s d))
  else if d = 19 then 3 ≤ s.cfg.stage
  else if d < 19 then screening s || !shedGating s || shedAllocated s (d - 16)
  else if d = 20 then 3 ≤ s.cfg.stage && (planWants s d || screening s)
  else if d = 21 then s.cfg.stage = 3 || s.cfg.stage = 6 || !s.fr.sessions.isEmpty || s.fr.bistStatus = bsRUNNING || pkgBusy s
  else if d = 22 then 4 ≤ s.cfg.stage && (List.range 4).any (portUsed s.cfg.topo (dieNat s))
  else !s.ports.rstLow && s.sec.lc ≠ 0 && s.sec.lc ≠ lcDECOMMISSIONED

/-- Work that may still call for a domain in service: known-answer tests, settling recomputes, plans to come. -/
def domainMay (s : State) (d : Nat) : Bool := domainNeeded s d || (s.cfg.inService && d ≤ 21)

/-- DOMAIN_POWER_REQUEST. -/
def domainPowerRequest (d : Nat) (s : State) : State :=
  if d < 24 ∧ domainMay s d ∧ ¬ s.ports.rstLow then requestDomain d s else s

def execDomainPowerRequest (d : BitVec 5) (s : State) : Host.Outcome State Fault Refusal :=
  .next (domainPowerRequest d.toNat s)

/-- Steps 3 to 5 of R438. Whether a known-answer test passes is a free value. -/
def powerGood (d : Nat) (s : State) : State :=
  if domainOf s d ≠ .poweringUp then s else
  let s := bump (1028 + d) 1 s
  if d < 16 then resetLanes (range' (4 * d) 4) (setDomain d .on (zeroCluster d s))
  else if d < 20 then
    let n := d - 16
    setShed n .init (s.mMem fun m =>
      { m with loft := Mem.zero m.loft (slotAddr (6144 * n)) (2048 * 6144), tags := m.tags.filter fun t => shedOf t.1 ≠ n })
  else if d = 20 then resetPipes (setDomain d .on s)
  else setDomain d .on s

def execPowerGood (d : BitVec 5) (s : State) : Host.Outcome State Fault Refusal := .next (powerGood d.toNat s)

/-- Locus that names a domain's island. -/
def domainHuid (d : Nat) : Huid :=
  if d < 16 then unitHuid uSA (4 * d)
  else if d < 20 then silornHuid 7 (16 * (d - 16))
  else unitHuid (if d = 20 then uPER else if d = 21 then uFR else if d = 22 then uHX else uOB) 0

/-- DOMAIN_TIMEOUT: the domain is failed until the next cold start (R441). -/
def domainTimeout (d : Nat) (s : State) : State :=
  if domainOf s d ≠ .poweringUp then s else
  let s := setDomain d .off (s.mTs fun t => { t with failed := t.failed ||| (1#24 <<< d) })
  let s := reportUnit uTS 0x98 0 none (domainHuid d) s
  if d < 16 then (range' (4 * d) 4).foldl (fun s l => fenceLane l s) s
  else if d < 19 then (range' (6144 * (d - 16)) 6144).foldl (fun s x => withhold x s) (setShed (d - 16) .off s)
  else if d = 19 then setShed 3 .off s
  else if d = 20 then (List.range 8).foldl (fun s k => fencePipe k s) s
  else if d = 22 then
    (((List.range 4).filter (portUsed s.cfg.topo (dieNat s))).foldl (fun s p => removePort p s) s).mHx fun h =>
      { h with down := true }
  else s

def execDomainTimeout (d : BitVec 5) (s : State) : Host.Outcome State Fault Refusal := .next (domainTimeout d.toNat s)

/-- A cluster has no task and no token left. -/
def clusterIdle (s : State) (k : Nat) : Bool :=
  (clusterOf s k).inq.isEmpty && (range' (4 * k) 4).all fun l => (laneOf s l).run.isNone && (laneOf s l).queue.isEmpty

/-- DOMAIN_SHUTDOWN: the owner has drained a domain whose condition no longer holds. -/
def domainShutdown (d : Nat) (s : State) : State :=
  if 24 ≤ d ∨ s.ports.rstLow then s
  else if 16 ≤ d ∧ d < 19 then shedOff (d - 16) s
  else if domainOf s d = .shuttingDown then domainOff d s
  else if domainOf s d ≠ .on ∨ domainNeeded s d then s
  else if d < 16 then (if clusterIdle s d then domainOff d (zeroCluster d s) else s)
  else if d = 20 then (if s.per.queue.isEmpty then domainOff d s else s)
  else domainOff d s

def execDomainShutdown (d : BitVec 5) (s : State) : Host.Outcome State Fault Refusal := .next (domainShutdown d.toNat s)

/-! ### Channels (R443 to R445) -/

/-- A signed number in `n` bits. -/
def signedBits (n v : Nat) : Int := if v % 2 ^ n < 2 ^ (n - 1) then (v % 2 ^ n : Int) else (v % 2 ^ n : Int) - 2 ^ n

def pow2Rat (e : Int) : Rat := if 0 ≤ e then (2 ^ e.toNat : Rat) else 1 / (2 ^ (-e).toNat : Rat)

/-- The value of a reading in the unit of its kind. -/
def channelValue (c : ChanT) (raw : BitVec 16) : Rat :=
  let v : Rat := if c.linear16 then (raw.toNat : Rat) * pow2Rat (Config.voutMode c.addr)
    else (signedBits 11 raw.toNat : Rat) * pow2Rat (signedBits 5 (raw.toNat / 2 ^ 11))
  if c.kind = 5 then v * (c.scale : Rat) / 1000000 else v

def chanT (s : State) (n : Nat) : Option ChanT := s.cfg.topo.supply.chans[n]?

def State.mChan (n : Nat) (f : Chan → Chan) (s : State) : State := s.mTs fun t => { t with chans := t.chans.modify n f }

/-- PMB_READ. -/
def pmbRead (n : Nat) (raw : Option (BitVec 16)) (s : State) : State :=
  match chanT s n with
  | none => s
  | some c =>
    if 8 ≤ c.kind then s else
    match raw with
    | none =>
      let f := ((s.ts.chans[n]?).map (·.fails)).getD 0 + 1
      let s := bump 1026 1 (s.mChan n fun x => { x with stale := true, fails := f })
      if f = 3 then reportSelf uTS 0 0x99 c.addr none s else s
    | some r =>
      let v := channelValue c r
      let s := s.mChan n fun x => { x with value := (v * 1024).floor, stale := false, fails := 0, ever := true }
      if c.kind = 0 ∧ (v < 60 ∨ 80 < v) then reportSelf uTS 0 0x9B 0 none s else s

def execPmbRead (chan : BitVec 7) (raw : Option (BitVec 16)) (s : State) : Host.Outcome State Fault Refusal :=
  .next (pmbRead chan.toNat raw s)

/-- PMB_ALERT: the status word of the device that answered. -/
def pmbAlert (status : BitVec 16) (s : State) : State :=
  if ¬ s.cfg.valid then s else
  reportSelf uTS 0 0x9A status.toNat none (bump 1027 1 (s.mTs fun t => { t with alert := true }))

def execPmbAlert (_addr : BitVec 7) (status : BitVec 16) (s : State) : Host.Outcome State Fault Refusal :=
  .next (pmbAlert status s)

/-! ### The thermal model -/

/-- Channels of a kind with their last values. -/
def chansOf (s : State) (kind : Nat) : List (ChanT × Chan) :=
  (s.cfg.topo.supply.chans.zip s.ts.chans).filter fun x => x.1.kind = kind

def chanRat (c : Chan) : Rat := (c.value : Rat) / 1024

/-- First reading of a kind that was ever made. -/
def readingOf (s : State) (kind : Nat) : Option Rat :=
  ((chansOf s kind).find? fun x => x.2.ever).map fun x => chanRat x.2

def refFlow (s : State) : Rat := (s.cfg.topo.supply.fRef : Rat) / 100

/-- Coolant temperature and flow; values never read are 45 °C and half of F_REF, reported once (R446). -/
def coolant (s : State) : Rat × Rat × State :=
  let missing := (readingOf s 4).isNone || (readingOf s 5).isNone
  let s := if missing ∧ ¬ s.ts.coolWarned then
      reportSelf uTS 0 0x9C 0 none (s.mTs fun t => { t with coolWarned := true })
    else s
  let low := refFlow s / 20
  let f := (readingOf s 5).getD (refFlow s / 2)
  let s := if f < low then reportSelf uTS 0 0x9C 0 none s else s
  ((readingOf s 4).getD 45, max f low, s)

/-- Module input power: PIN, or the sum of the rails (R445). -/
def inputPower (s : State) : Rat :=
  let pin := chansOf s 1
  ((if pin.isEmpty then chansOf s 3 else pin).map fun x => chanRat x.2).sum

/-- Rail numbers of the RAIL_P channels in the order of their first channel; rail j has sector mask j. -/
def railNumbers (s : State) : List Nat :=
  (s.cfg.topo.supply.chans.filter fun c => c.kind = 3).foldl (fun l c => if l.contains c.rail then l else l ++ [c.rail]) []

/-- Cores of a sector that are neither fenced nor powered off. -/
def liveCores (s : State) (n : Nat) : Nat :=
  match sectorT s n with
  | none => 0
  | some t => if (sectorSt s n).powered then (bitsOf 64 (t.present &&& ~~~(sectorSt s n).fenced).toNat).length else 0

/-- Power of a sector node (R447). -/
def sectorPower (s : State) (n : Nat) : Rat :=
  ((railNumbers s).zipIdx.map fun (r, j) =>
    let mask := s.cfg.topo.supply.rails.getD j 0
    if ¬ bit mask n then 0 else
    let p := (((chansOf s 3).filter fun x => x.1.rail = r).map fun x => chanRat x.2).sum
    let total := ((bitsOf 64 mask.toNat).map (liveCores s)).sum
    if total = 0 then 0 else p * (liveCores s n : Rat) / (total : Rat)).sum

/-- Silorn's own power: its rail, or the estimate of R447. -/
def siliconPower (s : State) : Rat × State :=
  match chansOf s 7 with
  | x :: _ => (chanRat x.2, s)
  | [] =>
    let (n, s) := s.draw
    let on (d : Nat) : Bool := domainOn s d
    let cl := ((List.range 16).map fun k => if on k then (1 / 4 : Rat) + (3 / 2) * ((Config.busy n k).toNat : Rat) / 65536 else 0).sum
    let rest (d : Nat) (p : Rat) : Rat := if on d then p else 0
    let sheds := ((range' 16 4).map fun d => rest d (1 / 2)).sum
    (4 + cl + sheds + rest 20 1 + rest 22 (3 / 5) + rest 21 (1 / 5) + rest 23 (1 / 5), s)

/-- Advance a node by equal sub-steps. -/
def subSteps (dt c r p tcp : Rat) : Nat → Rat → Rat
  | 0, t => t
  | n + 1, t => subSteps dt c r p tcp n (t + dt / c * (p - (t - tcp) / r))

/-- Temperature of a node after a period, from its heat capacity in mJ/K and resistance in mK/W. -/
def advanceNode (dt : Rat) (cr : Nat × Nat) (p tcp t : Rat) : Rat :=
  if cr.1 = 0 ∨ cr.2 = 0 then t else
  let c : Rat := (cr.1 : Rat) / 1000
  let r : Rat := (cr.2 : Rat) / 1000
  let n := (4 * dt / (r * c)).ceil.toNat
  subSteps (dt / (n : Rat)) c r p tcp n t

/-- Threshold of a throttle level. -/
def threshold (s : State) (k : Nat) : Rat :=
  match k with
  | 1 => (fld s.expert.tsConfig 47 40 : Rat)
  | 2 => (fld s.expert.tsConfig 39 32 : Rat)
  | _ => (fld s.expert.tsConfig 31 24 : Rat)

/-- Highest level of 1 to 3 that meets a condition, or 0. -/
def highest (f : Nat → Bool) : Nat := if f 3 then 3 else if f 2 then 2 else if f 1 then 1 else 0

/-- Level of a node: it falls only 5 °C below its threshold (R448). -/
def levelOf (s : State) (old : Nat) (t : Rat) : Nat :=
  max (highest fun k => decide (threshold s k ≤ t)) (highest fun k => decide (k ≤ old) && decide (threshold s k - 5 < t))

def nodeHuid (n : Nat) : Huid := if n < 64 then sectorHuid n else unitHuid uTS 0

/-- A node takes a level: the hint of its sector, and the reports of LIMIT and CRIT. -/
def setLevel (n lv : Nat) (s : State) : State :=
  let old := ((s.ts.nodes[n]?).map (·.level)).getD 0
  if lv = old then s else
  let s := s.mTs fun t => { t with nodes := t.nodes.modify n fun x => { x with level := lv } }
  let s := if n < 64 ∧ (sectorT s n).isSome then bump 1053 1 (s.mSector n fun x => { x with throttle := lv }) else s
  if lv < old then s
  else
    let s := if 2 ≤ lv ∧ old < 2 then reportUnit uTS 0x9C 0 none (nodeHuid n) s else s
    if 3 ≤ lv then reportUnit uTS 0x9D 0 none (nodeHuid n) s else s

/-- At LIMIT of Silorn's node the queued tokens of L1 and L3 pass to L0 and L2, in order. -/
def coolQueues (s : State) : State :=
  if ¬ siliconHot s then s else
  ((List.range 64).filter fun l => l % 2 = 1 ∧ laneUp s (l - 1)).foldl (fun s l =>
    let toks := (laneOf s l).queue
    toks.foldl (fun s t => laneEnqueue (l - 1) t s) (s.mLane l fun x => { x with queue := [] })) s

/-- One node of a round. -/
def nodeRound (dt tin tcp ps : Rat) (first : Bool) (n : Nat) (s : State) : State :=
  let x := s.ts.nodes.getD n Node.reset
  let p := if n < 64 then sectorPower s n else ps
  let start := if first then tin else x.temp
  let t := advanceNode dt (s.cfg.topo.supply.nodes.getD n (0, 0)) p tcp start
  let die := (((chansOf s 6).filter fun c => c.1.rail = n && c.2.ever).map fun c => chanRat c.2).foldl max t
  let s := s.mTs fun y => { y with nodes := y.nodes.modify n fun z => { z with temp := die, power := p } }
  setLevel n (levelOf s x.level die) s

/-! ### Windows -/

/-- Every quantity of R449 is inside its window at the end of a round. -/
def flashWindow (s : State) : Bool :=
  let t := siliconTemp s
  let ok (pct mv rail : Nat) : Bool := match railReading s 2 rail with
    | some (v, stale) => !stale && within pct mv v
    | none => false
  let vin := match chansOf s 0 with
    | x :: _ => !x.2.stale && decide (66 * 1024 ≤ x.2.value) && decide (x.2.value ≤ 78 * 1024)
    | [] => false
  let flash := s.cfg.topo.supply.flashNom = 0 || (railReading s 2 Config.flashRail).isNone ||
    ok 5 s.cfg.topo.supply.flashNom Config.flashRail
  decide (10 ≤ t) && decide (t ≤ 85) && ok 2 s.cfg.topo.supply.coreNom (coreRail s) && vin && flash

/-- The live seed is killed (R461). -/
def killSeed (s : State) : State :=
  s.mNv fun v => { v with otp := { v.otp with
    killDue := false
    seeds := match v.otp.seeds.findIdx? fun x => x.programmed && !x.killed with
      | some i => v.otp.seeds.modify i fun x => { x with killed := true, value := BitVec.allOnes 384 }
      | none => v.otp.seeds } }

/-- SLOW_ROUND. -/
def slowRound (s : State) : State :=
  if ¬ s.cfg.valid ∨ s.ports.rstLow then s else
  let (tin, f, s) := coolant s
  let ptot := inputPower s
  let tcp := tin + ptot * (s.cfg.topo.supply.rcpRef : Rat) / 100000 * Config.pow08 (refFlow s / f)
  let (ps, s) := siliconPower s
  let dt : Rat := (fld s.expert.tsConfig 63 56 : Rat) / 1000
  let s := (List.range 65).foldl (fun s n => nodeRound dt tin tcp ps (!s.ts.firstRound) n s) s
  let s := s.mTs fun t => { t with tCp := tcp, pIn := ptot, pSilorn := ps, rounds := t.rounds + 1, firstRound := true,
                                   windowPrev := t.windowNow }
  let w := flashWindow s
  let s := bump 1024 1 ((s.mTs fun t => { t with windowNow := w }).mSec fun x => { x with deniedSeen := false })
  let s := coolQueues s
  let s := if testConditions s ∨ s.fr.sessions.isEmpty then s else voidSessionsWhere (fun _ => true) (frWindow s)
  let s := pkgResume (sbFlush s)
  if windowsHold s ∧ s.nv.otp.killDue then killSeed s else s

def execSlowRound (s : State) : Host.Outcome State Fault Refusal := .next (slowRound s)

end Sys2Proof.Machine
end

