-- ==== Sys2Proof/Machine/Security.lean ====
section
/-!
DEFINITION. The security unit: key derivation (R462), key loading and tokens (R463, R464), certificates (R465), the
provisioning and unlock orders (R455, R466), the Screening Attestation Report (R467 to R472), alarms and their policies
(R473 to R475), and the wrapped dump key (R476).
-/
namespace Sys2Proof.Machine

/-! ### Keys -/

/-- GLB.VERSION (R519). -/
def glbVersion : Nat := 0x0002_0400

/-- Order of the P-384 group. -/
def p384Order : Nat :=
  0xFFFFFFFFFFFFFFFFFFFFFFFFFFFFFFFFFFFFFFFFFFFFFFFFC7634D81F4372DDF581A0DB248B0A77AECEC196ACCC52973

/-- `derive_key` of R462. -/
def deriveKey (k : BitVec 384) (label : String) : BitVec 384 :=
  let h (i : Nat) : Nat := (Config.hmac384 k (strBytes label ++ leBytes 1 i)).toNat
  BitVec.ofNat 384 ((h 1 * 2 ^ 384 + h 2) % (p384Order - 1) + 1)

def liveSeedOf (o : Otp) : Option (BitVec 384) := (o.seeds.find? fun x => x.programmed && !x.killed).map (·.value)

/-- The live identity seed field (R461). -/
def liveSeed (s : State) : Option (BitVec 384) := liveSeedOf s.nv.otp

/-- k_w of R462. -/
def wrapKey (uds : BitVec 384) : BitVec 256 := (Config.hmac384 uds (strBytes "SILORN-WRAP")).setWidth 256

/-- Inputs of cdi (R462). -/
def cdiInput (s : State) : Bytes :=
  leBytes 2 Config.romVer.toNat ++ leBytes 48 s.cfg.meas.toNat ++ leBytes 1 s.sec.lc ++ leBytes 4 glbVersion

def storeKey (slot : Nat) (k : KeySlot) (s : State) : State := s.mSec fun x => { x with keys := Tab.set x.keys slot k }

def plainKey (slot : Nat) (key : BitVec 384) (s : State) : State := storeKey slot { key := key, token := 0 } s

def dropKey (slot : Nat) (s : State) : State := s.mSec fun x => { x with keys := Tab.del x.keys slot }

/-- d_I of the live seed field. -/
def deriveIdentity (s : State) : State :=
  match liveSeed s with
  | some uds => plainKey 0xE0 (deriveKey uds "SILORN-IDENTITY") s
  | none => s

/-- K_L and K_OP, unwrapped from OTP: IV, ciphertext, tag (R461). -/
def unwrapKeys (s : State) : State :=
  match liveSeed s with
  | none => s
  | some uds =>
    let w := s.nv.otp.wrapped
    match gcmOpen (wrapKey uds) (w.take 12) [] ((w.drop 12).take 64) (w.drop 76) with
    | some pt =>
      if w.isEmpty then s else
      plainKey 0xE4 (BitVec.ofNat 384 (leAt pt 32 32)) (plainKey 0xE3 (BitVec.ofNat 384 (leAt pt 0 32)) s)
    | none => s

/-- The keys of S1 (R460, R462). -/
def deriveS1 (s : State) : State :=
  let (n, s) := s.draw
  unwrapKeys (deriveIdentity (plainKey 0xE2 ((Config.trng n).setWidth 256 |>.setWidth 384) s))

/-- d_A and its certificate, at S2 (R462, R465). -/
def deriveS2 (s : State) : State :=
  match liveSeed s with
  | none => s
  | some uds =>
    let d := deriveKey (Config.hmac384 uds (cdiInput s)) "SILORN-ATTEST"
    (plainKey 0xE1 d s).mSec fun x => { x with
      dDerived := true
      attestCert := Config.attestCert (Config.publicKey d) (keySlot s 0xE0) (cdiInput s) s.cfg.bootSeq }

/-- The identity public key as bytes, x then y, each big-endian. -/
def identityKey (s : State) : Bytes := beBytes 96 (Config.publicKey (keySlot s 0xE0)).toNat

def digestBytes (h : BitVec 384) : Bytes := leBytes 48 h.toNat

/-- An ECDSA signature, r then s, each big-endian (R410). -/
def signBytes (rs : BitVec 384 × BitVec 384) : Bytes := beBytes 48 rs.1.toNat ++ beBytes 48 rs.2.toNat

def beNat (b : Bytes) : Nat := leNat b.reverse

def readSign (b : Bytes) : BitVec 384 × BitVec 384 :=
  (BitVec.ofNat 384 (beNat (b.take 48)), BitVec.ofNat 384 (beNat ((b.drop 48).take 48)))

def readKey (b : Bytes) : BitVec 768 := BitVec.ofNat 768 (beNat b)

def wordBytes (l : List W64) : Bytes := l.flatMap fun w => leBytes 8 w.toNat

/-- Bytes as words, the last one padded with zero. -/
def bytesWords (b : Bytes) : List W64 := (List.range ((b.length + 7) / 8)).map fun i => wordAt b i

/-! ### Policies and alarms (R473 to R475) -/

/-- Contexts that hold a plan, resident or arriving. -/
def liveCtxs (s : State) : List Nat :=
  dedup (s.led.plans.map (fun x => x.2.hdr.ctx) ++ (s.led.staging.map (·.ctx)).toList)

/-- Change the report of R467. -/
def State.mSar (f : Sec → Sec) (s : State) : State :=
  stateChanged uSEC 0xE0040 s.sec.sarState (f s.sec).sarState (s.mSec f)

/-- A report that is built or not yet read in full is abandoned (R478). -/
def abortReport (s : State) : State :=
  if s.sec.sarState = 1 ∨ (s.sec.sarState = 2 ∧ ¬ s.sec.sarWords.isEmpty) then
    s.mSar fun x => { x with sarState := 3, sarWords := [] }
  else s

/-- The effects of LOCK. -/
def lockEffects (s : State) : State :=
  let s := abortReport (abandonDistil resABANDONED s)
  (liveCtxs s).foldl (fun s c => kill c maALARM 0 s) s

/-- Slots that ERASE zeroises (R460). -/
def zeroiseSlots : List Nat := range' 0 0xE0 ++ [0xE1, 0xE2, 0xE5, 0xFE]

/-- SEC reads back every zeroised slot; what it reads is a free value (log entry 23). A slot that does not read zero
holds the compute part in reset as under R330. -/
def zeroiseCheck (s : State) : State :=
  let (n, s) := s.draw
  if bit (Config.free n) 0 then
    (partReset [] (secReport 0xA6 s)).mCt fun c => { c with part := .held, partOrders := [] }
  else s

/-- The effects of ERASE: a binding to a key that is gone does not hold. -/
def eraseEffects (s : State) : State :=
  ((zeroiseSlots.foldl (fun s k => dropKey k s) s).mSec fun x => { x with dDerived := false, bound := none }).mOb fun o =>
    { o with tackStopped := true }

/-- The further effects of ERASE_ALL; OTP waits for the windows of R449. -/
def eraseAllEffects (s : State) : State :=
  let s := [0xE0, 0xE3, 0xE4].foldl (fun s k => dropKey k s) s
  if windowsHold s then killSeed s else s.mNv fun v => { v with otp := { v.otp with killDue := (liveSeedOf v.otp).isSome } }

/-- Apply a policy; each includes those above it. -/
def applyPolicy (p : Nat) (s : State) : State :=
  let s := s.mSec fun x => { x with policy := max x.policy p, applied := true }
  let s := if 1 ≤ p then lockEffects s else s
  let s := if 2 ≤ p then eraseEffects (dumpAbort s) else s
  let s := if 3 ≤ p then eraseAllEffects s else s
  if 2 ≤ p then zeroiseCheck s else s

def policyOf (s : State) (src : Nat) : Nat := fld s.expert.secConfig (63 - 2 * src) (62 - 2 * src)

/-- Raise an alarm source. The other dies hear of it unless one of them is its origin. -/
def raiseAlarm (src : Nat) (s : State) : State :=
  let p := policyOf s src
  let s := s.mSec fun x => { x with raised := x.raised ||| (1#13 <<< src) }
  let s := applyPolicy p (reportSelf uSEC 0 0xA0 src none (bump (1093 + src) 1 s))
  if 1 ≤ p ∧ src ≠ 12 then
    hxMulticast ((liveDies s).filter (· ≠ dieNat s))
      (longPkt kSEC (put 39 34 (dieNat s) + put 33 30 src + put 29 28 p) []) s
  else s

/-- ALARM_PIN: the level of a pin, once ALM_FILTER has passed. -/
def alarmPin (pin : Nat) (level : Bool) (s : State) : State :=
  if s.ports.rstLow then s else
  let was := bit s.sec.almLevel pin
  let m : BitVec 8 := 1#8 <<< pin
  let s := s.mSec fun x => { x with almLevel := if level then x.almLevel ||| m else x.almLevel &&& ~~~m }
  if level ∧ ¬ was then raiseAlarm pin s else s

def execAlarmPin (pin : BitVec 3) (level : Bool) (s : State) : Host.Outcome State Fault Refusal :=
  .next (alarmPin pin.toNat level s)

def lockstep (s : State) : State := if s.ports.rstLow then s else raiseAlarm 8 s

def execLockstep (s : State) : Host.Outcome State Fault Refusal := .next (lockstep s)

/-- A SEC packet of another die (R475). -/
def secArrived (s : State) : State := raiseAlarm 12 (secReport 0xA7 s)

def execSec (p : HxPkt) (s : State) : Host.Outcome State Fault Refusal := .next (consumer kSEC p secArrived s)

/-! ### Orders of SEC.LC_CTRL (R466) -/

def lsIDLE := 0
def lsRUNNING := 1
def lsDONE := 2
def lsREFUSED := 3
def lsWINDOW := 4
def lsBAD := 5
def lsVERIFY := 6
def lsLOCKED := 7

/-- The life-cycle state has been read (S1). -/
def lcKnown (s : State) : Bool := 2 ≤ s.cfg.stage || s.cfg.heldAt

/-- Whether OTP may be programmed now. Without an Image there is no slow round, and whether the conditions of R449 hold
is a free value (log entry 24). -/
def otpWindow (s : State) : Bool × State :=
  if s.cfg.valid then (windowsHold s, s) else
  let (n, s) := s.draw
  (bit (Config.free n) 0, s)

def State.mOtp (f : Otp → Otp) (s : State) : State := s.mNv fun v => { v with otp := f v.otp }

/-- End an order: its data is used up. -/
def endOrder (status : Nat) (s : State) : State :=
  let s := s.mSec fun x => { x with lcStatus := status, provData := [] }
  if lsREFUSED ≤ status ∧ status ≤ lsVERIFY then secReport 0xA4 s else s

/-- An order whose conditions hold, and which programs OTP. -/
def otpOrder (f : State → State) (s : State) : State :=
  let (ok, s) := otpWindow s
  if ok then endOrder lsDONE (f s) else endOrder lsWINDOW s

/-- One order row: the word must carry the row's OP, and GO starts it. -/
def lcRow (op : Nat) (priv : BitVec 2) (w : W64) (f : State → State) (s : State) : State :=
  if fld w 63 60 ≠ op then s else
  operatorWrite priv (fun s => if ¬ bit w 59 then s else if ¬ lcKnown s then endOrder lsREFUSED s else f s) s

/-- PROGRAM_ROOT: three public keys and the minimum IMAGE_SEQ. -/
def programRoot (s : State) : State :=
  let d := wordBytes s.sec.provData
  if s.sec.lc ≠ 0 ∨ s.nv.otp.rootDone then endOrder lsREFUSED s
  else if d.length ≠ 296 then endOrder lsBAD s
  else otpOrder (State.mOtp fun o => { o with
    rootDone := true
    imageKey := readKey (d.take 96)
    patKey := readKey ((d.drop 96).take 96)
    dbgKey := readKey ((d.drop 192).take 96)
    minSeq := BitVec.ofNat 32 (leAt d 288 4) }) s

def execProgramRoot (priv : BitVec 2) (w : W64) (s : State) : Host.Outcome State Fault Refusal :=
  .next (lcRow 1 priv w programRoot s)

/-- An identity certificate is installed, or its record waits for the windows. -/
def certInstalled (s : State) : Bool := !(identityContent (sbRecords s ++ s.cfg.deferred)).isEmpty

/-- The transitions of R455, forward of the state that OTP holds. -/
def mayAdvance (s : State) (target : Nat) : Bool :=
  decide (s.nv.otp.lc < target) &&
  match s.sec.lc, target with
  | 0, 1 => s.nv.otp.rootDone
  | 1, 2 => certInstalled s && !s.nv.otp.wrapped.isEmpty
  | 2, 3 => s.cfg.valid
  | 3, 4 => true
  | lc, 5 => 1 ≤ lc && lc ≤ 4
  | _, _ => false

/-- ADVANCE. -/
def advanceLc (target : Nat) (s : State) : State :=
  if secLocked s ∧ target ≠ lcDECOMMISSIONED then endOrder lsLOCKED s
  else if ¬ mayAdvance s target then endOrder lsREFUSED s
  else otpOrder (fun s =>
    let s := (s.mOtp fun o => { o with lc := target }).mSec fun x => { x with nextLc := target }
    if target = lcRETURN then applyPolicy 2 s else if target = lcDECOMMISSIONED then applyPolicy 3 s else s) s

def execAdvance (priv : BitVec 2) (w : W64) (s : State) : Host.Outcome State Fault Refusal :=
  .next (lcRow 2 priv w (advanceLc (fld w 58 56)) s)

/-- GEN_IDENTITY. -/
def genIdentity (s : State) : State :=
  let lc := s.sec.lc
  let ok := lc = lcFACTORY || (lcPROVISIONED ≤ lc && lc ≤ lcRETURN && (liveSeed s).isNone)
  match s.nv.otp.seeds.findIdx? fun x => !x.programmed with
  | some i =>
    if ¬ ok then endOrder lsREFUSED s else
    otpOrder (fun s =>
      let (n, s) := s.draw
      let v := Config.trng n
      let s := s.mOtp fun o => { o with seeds := o.seeds.set i { programmed := true, killed := false, value := v } }
      let s := deriveIdentity s
      let (m, s) := s.draw
      s.mSec fun x => { x with provOut := bytesWords (Config.certRequest (keySlot s 0xE0) m) }) s
  | none => endOrder lsREFUSED s

def execGenIdentity (priv : BitVec 2) (w : W64) (s : State) : Host.Outcome State Fault Refusal :=
  .next (lcRow 3 priv w genIdentity s)

/-- The parts of an IDENTITY record (R423). -/
def identityBodies (chain : Bytes) : List Bytes :=
  let ps := chunks 4093 (chain.length / 4093 + 1) chain
  ps.zipIdx.map fun (b, i) => leBytes 1 (i + 1) ++ leBytes 1 ps.length ++ b

/-- INSTALL_CERT. -/
def installCert (s : State) : State :=
  let d := wordBytes s.sec.provData
  if ¬ hasKey s 0xE0 ∨ s.sec.lc = lcDECOMMISSIONED then endOrder lsREFUSED s
  else if d.isEmpty ∨ 8192 < d.length then endOrder lsBAD s
  else match Config.leafKey d with
    | none => endOrder lsBAD s
    | some k =>
      if k ≠ Config.publicKey (keySlot s 0xE0) then endOrder lsVERIFY s
      else endOrder lsDONE ((identityBodies d).foldl (fun s b => sbWrite sbIDENTITY b s) s)

def execInstallCert (priv : BitVec 2) (w : W64) (s : State) : Host.Outcome State Fault Refusal :=
  .next (lcRow 4 priv w installCert s)

/-- PROGRAM_WRAPPED: K_L and K_OP. -/
def programWrapped (s : State) : State :=
  let d := wordBytes s.sec.provData
  match liveSeed s with
  | none => endOrder lsREFUSED s
  | some uds =>
    if s.sec.lc ≠ lcFACTORY ∨ ¬ s.nv.otp.wrapped.isEmpty then endOrder lsREFUSED s
    else if d.length ≠ 64 then endOrder lsBAD s
    else otpOrder (fun s =>
      let (n, s) := s.draw
      let iv := leBytes 12 (Config.trng n).toNat
      s.mOtp fun o => { o with wrapped := iv ++ gcmSeal (wrapKey uds) iv [] d }) s

def execProgramWrapped (priv : BitVec 2) (w : W64) (s : State) : Host.Outcome State Fault Refusal :=
  .next (lcRow 5 priv w programWrapped s)

/-- SET_MIN_SEQ. -/
def setMinSeq (s : State) : State :=
  let v := ((s.sec.provData.headD 0).setWidth 32)
  if s.sec.lc ≠ lcPROVISIONED ∧ s.sec.lc ≠ lcDEPLOYED then endOrder lsREFUSED s
  else if s.sec.provData.length ≠ 1 ∨ v < s.nv.otp.minSeq ∨ s.cfg.imageSeq < v then endOrder lsBAD s
  else otpOrder (State.mOtp fun o => { o with minSeq := v }) s

def execSetMinSeq (priv : BitVec 2) (w : W64) (s : State) : Host.Outcome State Fault Refusal :=
  .next (lcRow 6 priv w setMinSeq s)

/-- UNLOCK_CHALLENGE. -/
def unlockChallenge (s : State) : State :=
  if secLocked s then endOrder lsLOCKED s
  else if ¬ testState s then endOrder lsREFUSED s
  else
    let (n, s) := s.draw
    endOrder lsDONE (s.mSec fun x => { x with
      challenge := some (Config.trng n)
      provOut := bytesWords (digestBytes (Config.trng n)) })

def execUnlockChallenge (priv : BitVec 2) (w : W64) (s : State) : Host.Outcome State Fault Refusal :=
  .next (lcRow 7 priv w unlockChallenge s)

/-- A failed response: reported, counted, and an alarm at UNLOCK_LIMIT. -/
def unlockFailed (s : State) : State :=
  let limit := fld s.expert.secConfig 29 26
  let old := s.sec.unlockFails
  let s := secReport 0xA5 (bump 1106 1 (s.mSec fun x => { x with unlockFails := min 15 (old + 1) }))
  if old < limit ∧ limit ≤ old + 1 then raiseAlarm 11 s else s

/-- UNLOCK_RESPONSE. -/
def unlockResponse (s : State) : State :=
  let d := wordBytes s.sec.provData
  if secLocked s then endOrder lsLOCKED s
  else if ¬ testState s then endOrder lsREFUSED s
  else match s.sec.challenge with
    | none => unlockFailed (endOrder lsREFUSED s)
    | some c =>
      let s := s.mSec fun x => { x with challenge := none }
      let h := Config.sha384 (digestBytes c ++ identityKey s)
      if d.length = 96 ∧ Config.ecdsaVerify s.nv.otp.dbgKey h (readSign d) then
        endOrder lsDONE (s.mSec fun x => { x with unlocked := true })
      else unlockFailed (endOrder lsVERIFY s)

def execUnlockResponse (priv : BitVec 2) (w : W64) (s : State) : Host.Outcome State Fault Refusal :=
  .next (lcRow 8 priv w unlockResponse s)

/-- A read that takes the next word of a list. -/
def readNext (l : List W64) (f : List W64 → State → State) (s : State) : State := answer hsOK (l.headD 0) (f l.tail s)

def provOut (priv : BitVec 2) (s : State) : State :=
  hrp (fun s => if isOperator s priv then
    readNext s.sec.provOut (fun t s => s.mSec fun x => { x with provOut := t }) s else denied priv s) s

def execProvOut (priv : BitVec 2) (s : State) : Host.Outcome State Fault Refusal := .next (provOut priv s)

/-! ### Key loading (R463, R135) -/

def klOK := 1
def klBAD_TAG := 2
def klBUSY := 3
def klBAD_SLOT := 4
def klLOCKED := 5

/-- A resident plan names the slot. -/
def slotBusy (s : State) (slot : Nat) : Bool :=
  s.led.plans.any fun x => x.2.hdr.keyId = slot || (slot = 0xFE && needsKx x.2)

/-- Key and token of a blob that opens on this die. -/
def openBlob (s : State) (slot : Nat) (b : Bytes) : Option (BitVec 384 × Bytes) :=
  let aad := leBytes 1 slot ++ leBytes 1 (dieNat s) ++ (digestBytes (Config.sha384 (identityKey s))).take 6
  (gcmOpen ((keySlot s 0xE3).setWidth 256) (b.take 12) aad ((b.drop 12).take 32) ((b.drop 44).take 16)).map fun pt =>
    (BitVec.ofNat 384 (leAt pt 0 16), (pt.drop 16).take 16)

/-- End a key load. -/
def klEnd (status : Nat) (s : State) : State :=
  let s := s.mSec fun x => { x with klStatus := status, klData := [] }
  if status = klOK then bump 1089 1 s
  else if status = klBAD_TAG then secReport 0xA2 (bump 1090 1 s)
  else bump 1090 1 s

/-- A key load. Without K_L none is accepted (R462). -/
def keyload (slot : Nat) (s : State) : State :=
  if secLocked s ∨ ¬ hasKey s 0xE3 then klEnd klLOCKED s
  else if 0xDF < slot ∧ slot ≠ 0xFE then klEnd klBAD_SLOT s
  else if slotBusy s slot then klEnd klBUSY s
  else match openBlob s slot (padTo 64 (wordBytes s.sec.klData)) with
    | none => klEnd klBAD_TAG s
    | some (key, token) =>
      if slot = 0xFE ∧ leNat token ≠ 0 then klEnd klBAD_TAG s
      else klEnd klOK (storeKey slot { key := key, token := Config.sha384 token } s)

def execKeyload (priv : BitVec 2) (w : W64) (s : State) : Host.Outcome State Fault Refusal :=
  .next (operatorWrite priv (fun s => if bit w 55 then keyload (fld w 63 56) s else s) s)

/-! ### Tokens (R464) -/

/-- A write that a TENANT may make. -/
def tenantWrite (priv : BitVec 2) (f : State → State) (s : State) : State :=
  hrp (fun s => if priv = 0 ∨ isOperator s priv then f (answer hsOK 0 s) else denied priv s) s

/-- Present the token written to a context. -/
def tokenPresent (c : Nat) (s : State) : State :=
  let token := padTo 16 (wordBytes s.sec.tokData)
  let s := s.mSec fun x => { x with tokData := [], bound := none }
  if s.now.toNat < s.sec.tokBlockUntil then s else
  let ok : Bool := match planOf s c with
    | some (_, p) =>
      match Tab.get s.sec.keys p.hdr.keyId with
      | some k => decide (k.token = Config.sha384 token)
      | none => false
    | none => false
  if ok then s.mSec fun x => { x with bound := some c }
  else secReport 0xA3 (bump 1091 1 (s.mSec fun x => { x with tokBlockUntil := s.now.toNat + 10000000 }))

def execTokenPresent (priv : BitVec 2) (w : W64) (s : State) : Host.Outcome State Fault Refusal :=
  .next (tenantWrite priv (fun s => if bit w 51 then tokenPresent (fld w 63 52) s else s) s)

def execTokenBindingLapse (s : State) : Host.Outcome State Fault Refusal :=
  .next (s.mSec fun x => { x with bound := none })

/-! ### The Screening Attestation Report (R467 to R472) -/

def srIDLE := 0
def srBUILDING := 1
def srREADY := 2
def srABORTED := 3
def srREFUSED := 4

/-- The plan that a report covers. -/
def reportPlan (s : State) (c : Nat) : Option Plan :=
  match planOf s c with
  | some (_, p) => some p
  | none => Tab.get s.led.retired c

/-- The rights to a report on a context. -/
def mayReport (s : State) (priv : BitVec 2) (c : Nat) : Bool := isOperator s priv || (priv = 0 && s.sec.bound = some c)

def sarGo (c : Nat) (s : State) : State :=
  if secLocked s ∨ ¬ s.sec.dDerived ∨ (reportPlan s c).isNone then
    s.mSar fun x => { x with sarState := srREFUSED, sarWords := [] }
  else s.mSar fun x => { x with sarState := srBUILDING, sarCtx := c, sarWords := [] }

def execSarGo (priv : BitVec 2) (w : W64) (s : State) : Host.Outcome State Fault Refusal :=
  .next (hrp (fun s =>
    if mayReport s priv (fld w 63 52) then
      let s := answer hsOK 0 s
      if bit w 51 then sarGo (fld w 63 52) s else s
    else denied priv s) s)

/-- Journal entries of a plan that are still held. -/
def heldVerdicts (s : State) (c : Nat) (p : Plan) : List W128 :=
  (s.vu.journal.filter fun j => j.1 = c && j.2.1 = p.tAdmit).map (·.2.2)

/-- Class of an operator code (R63): P, R or V. -/
def opClass (op : Nat) : Nat := if opClassV op then 2 else if opClassR op then 1 else 0

/-- Layer entry of R470. -/
def sarLayer (i : Nat) (l : LayerE) (k : LayerCounts) : Bytes :=
  let flags := put 7 7 k.weakSep.toNat + put 6 6 k.sparsePer.toNat + put 5 5 k.sparseShadow.toNat +
    put 4 4 k.unchecked.toNat + put 3 3 (opClassV l.opcode).toNat + put 2 2 (decide (0 < k.excTiles)).toNat
  leBytes 32 (put 255 244 i + put 243 238 l.opcode + put 237 236 (opClass l.opcode) + put 235 234 l.mode +
    put 233 232 k.sep + put 231 229 l.perRate + put 228 224 l.shadowRate + put 223 216 flags + put 215 184 k.released +
    put 183 160 k.nonpass + put 159 136 k.excTiles + put 135 112 k.replays + put 111 96 k.failCore +
    put 95 80 k.failChecker + put 79 64 k.inputSuspect + put 63 48 k.unresolved + put 47 32 k.waived)

/-- The latest PASS record of a core (R397). -/
def latestPass (s : State) (h : Huid) : Option Bytes :=
  (((sbRecords s ++ s.cfg.deferred).filter fun r =>
    r.type = sbTEST && leAt r.body 0 2 = h.toNat && leAt r.body 2 1 = trPASS).getLast?).map (·.body)

/-- Core entry of R472. -/
def sarCore (s : State) (x : Huid × Huid) : Bytes :=
  let head := put 127 112 x.1.toNat + put 111 96 x.2.toNat + put 95 93 (padOf s x.2).st.code
  leBytes 16 (match latestPass s x.2 with
    | some b => head + put 92 92 (leAt b 12 1) + put 79 64 (leAt b 4 4) + put 63 32 (leAt b 8 4) + put 31 0 (leAt b 13 8)
    | none => head + put 91 91 1)

/-- Header of R469. -/
def sarHeader (s : State) (c : Nat) (p : Plan) (cores verdicts : Nat) (ovf : Bool) : Bytes :=
  leBytes 64 (put 511 480 0x53415252 + put 479 464 1 + put 463 458 (dieNat s) + put 457 446 c + put 445 440 p.num +
    put 439 439 p.epoch.toNat + put 438 436 s.sec.lc + put 435 434 s.cfg.profile + put 431 404 s.cfg.bootSeq.toNat +
    put 403 340 p.hdr.vareoId + put 339 308 p.firstStep + put 307 276 p.lastStep + put 275 264 p.layers.length +
    put 263 251 cores + put 250 243 p.hdr.keyId + put 238 175 p.tAdmit + put 174 111 s.now.toNat +
    put 110 95 Config.romVer.toNat + put 94 79 verdicts + put 78 78 ovf.toNat + put 63 32 glbVersion)

/-- Parts 1 to 7 of a report. -/
def sarBody (s : State) (c : Nat) (p : Plan) : Bytes :=
  let vs := heldVerdicts s c p
  let cores := sortBy (fun x : Huid × Huid => x.1.toNat * 65536 + x.2.toNat) (dedup p.served)
  let ovf := decide (vs.length < (p.counts.map (·.nonpass)).sum)
  sarHeader s c p cores.length vs.length ovf ++ wordBytes (s.sec.nonce ++ List.replicate (2 - s.sec.nonce.length) 0) ++
    digestBytes p.meas ++ digestBytes s.cfg.meas ++
    ((p.layers.zip p.counts).zipIdx.flatMap fun (x, i) => sarLayer i x.1 x.2) ++
    cores.flatMap (sarCore s) ++ vs.flatMap fun v => leBytes 16 v.toNat

/-- SAR_BUILD_DONE: the report is signed with d_A. -/
def sarBuildDone (s : State) : State :=
  if s.sec.sarState ≠ srBUILDING then s else
  match reportPlan s s.sec.sarCtx with
  | none => s.mSar fun x => { x with sarState := srREFUSED }
  | some p =>
    let b := sarBody s s.sec.sarCtx p
    let (n, s) := s.draw
    let sig := signBytes (Config.ecdsaSign (keySlot s 0xE1) (Config.sha384 b) n)
    bump 1092 1 (s.mSar fun x => { x with sarState := srREADY, sarWords := bytesWords (b ++ sig) })

def execSarBuildDone (s : State) : Host.Outcome State Fault Refusal := .next (sarBuildDone s)

def sarData (priv : BitVec 2) (s : State) : State :=
  hrp (fun s => if mayReport s priv s.sec.sarCtx then
    readNext s.sec.sarWords (fun t s => s.mSec fun x => { x with sarWords := t }) s else denied priv s) s

def execSarData (priv : BitVec 2) (s : State) : Host.Outcome State Fault Refusal := .next (sarData priv s)

/-! ### Certificates and the dump key -/

/-- The certificate that `SEC.CERT_SEL` selects (R465). -/
def selectedCert (s : State) : Bytes :=
  let i := fld s.sec.certSel 1 0
  if i = 0 then s.sec.attestCert else
  let c := identityContent (sbRecords s)
  if c.isEmpty then [] else Config.chainCert c i

/-- 16-bit length, then the DER bytes. -/
def certWords (s : State) : List W64 :=
  let c := selectedCert s
  bytesWords (leBytes 2 c.length ++ c)

def certData (priv : BitVec 2) (s : State) : State :=
  hrp (fun s => if priv = 0 ∨ isOperator s priv then
    answer hsOK ((certWords s).getD s.sec.certPos 0) (s.mSec fun x => { x with certPos := x.certPos + 1 })
    else denied priv s) s

def execCertData (priv : BitVec 2) (s : State) : Host.Outcome State Fault Refusal := .next (certData priv s)

/-- K_DUMP wrapped under K_OP: IV, ciphertext, tag and 4 zero bytes, as in a key-load blob; nothing without K_OP. -/
def wrapDumpKey (s : State) : List W64 × State :=
  if ¬ hasKey s 0xE4 ∨ ¬ hasKey s 0xE2 then (List.replicate 8 0, s) else
  let (n, s) := s.draw
  let iv := leBytes 12 (Config.trng n).toNat
  let aad := leBytes 1 (dieNat s) ++ leBytes 4 s.cfg.bootSeq.toNat
  (bytesWords (padTo 64 (iv ++ gcmSeal ((keySlot s 0xE4).setWidth 256) iv aad (leBytes 32 (keySlot s 0xE2).toNat))), s)

/-- A read of `SEC.DUMP_KEY`; each eight reads return one wrapping. -/
def dumpKey (priv : BitVec 2) (s : State) : State :=
  hrp (fun s => if ¬ isOperator s priv then denied priv s else
    let (l, s) := if s.sec.dumpKey.isEmpty then wrapDumpKey s else (s.sec.dumpKey, s)
    readNext l (fun t s => s.mSec fun x => { x with dumpKey := t }) s) s

def execDumpKey (priv : BitVec 2) (s : State) : Host.Outcome State Fault Refusal := .next (dumpKey priv s)

end Sys2Proof.Machine
end

