-- ==== Sys2Proof/Machine/Image.lean ====
section
/-!
DEFINITION. The Configuration Image (R410 to R416): its header and directory, the checks of a copy, the presets of POLICY,
and the records of the TOPOLOGY section (R517).
-/
namespace Sys2Proof.Machine

/-- A directory entry (R412). -/
structure Section where
  type : Nat
  sver : Nat
  offset : Nat
  length : Nat
  crc : Nat
  deriving DecidableEq, Repr

/-- A header, as a number of 512 bits (R411). -/
def imgHeader (b : Bytes) : Nat := leAt b 0 64
def imgSeq (b : Bytes) : Nat := nf (imgHeader b) 463 432
def imgLength (b : Bytes) : Nat := nf (imgHeader b) 431 400
def imgSections (b : Bytes) : Nat := nf (imgHeader b) 399 392
def imgExpertEn (b : Bytes) : Bool := nf (imgHeader b) 391 391 = 1

def sectionAt (b : Bytes) (i : Nat) : Section :=
  let v := leAt b (64 + 16 * i) 16
  { type := nf v 127 120, sver := nf v 119 112, offset := nf v 111 80, length := nf v 79 48, crc := nf v 47 16 }

def directory (b : Bytes) : List Section := (List.range (imgSections b)).map (sectionAt b)

def sectionBody (b : Bytes) (x : Section) : Bytes := (b.drop x.offset).take x.length

def findSection (b : Bytes) (t : Nat) : Option Bytes := ((directory b).find? fun x => x.type = t).map (sectionBody b)

def stPOLICY := 1
def stEXPERT := 2
def stTOPOLOGY := 3
def stPATTERN := 4
def stPATCH := 5
def stFW := 6
def stSTUD := 7
def stTACK := 8

/-! ### TOPOLOGY -/

/-- A record: type and words. -/
structure TRec where
  type : Nat
  words : List W64
  deriving DecidableEq, Repr

/-- The records of the section; none where a record does not end inside it. -/
def topoRecords : Nat → Bytes → Option (List TRec)
  | 0, _ => none
  | fuel + 1, b =>
    if b.isEmpty then some [] else
    let h := wordAt b 0
    let n := fld h 31 0
    if b.length < 8 * (n + 1) then none else
    let r : TRec := { type := fld h 63 56, words := (List.range n).map fun i => wordAt b (i + 1) }
    (topoRecords fuel (b.drop (8 * (n + 1)))).map (r :: ·)

def TRec.w (r : TRec) (i : Nat) : W64 := r.words.getD i 0

/-- Half-word q of a run of words that begins at word `i`. -/
def TRec.half (r : TRec) (i q : Nat) : Nat := fld (r.w (i + q / 4)) (16 * (q % 4) + 15) (16 * (q % 4))

def portEntry (v : Nat) : PortT :=
  { nbr := BitVec.ofNat 16 (nf v 31 16), link := nf v 15 10, home := nf v 9 4, width := nf v 3 0 }

def sectorRec (r : TRec) : SectorT :=
  let h := r.w 0
  let routers := fld h 49 43
  { num := fld h 63 58, spares := fld h 57 54, channels := fld h 53 50, routers := routers, model := fld h 42 39
    present := r.w 1
    routerOf := (List.range 64).map fun l => fld (r.w (2 + l / 8)) (8 * (l % 8) + 7) (8 * (l % 8))
    chanRouter := (List.range 8).map fun k => fld (r.w 10) (8 * k + 7) (8 * k)
    ports := (List.range routers).map fun k => (List.range 8).map fun q =>
      portEntry (fld (r.w (11 + 4 * k + q / 2)) (32 * (q % 2) + 31) (32 * (q % 2))) }

def modelRec (r : TRec) : ModelT :=
  let h := r.w 0
  { coreModel := BitVec.ofNat 16 (fld h 63 48), scanOp := BitVec.ofNat 8 (fld h 47 40), fwKeep := bit h 39
    ops := r.w 1
    fmts := (r.w 2).setWidth 32 }

def chanRec (w : W64) : ChanT :=
  { addr := fld w 63 57, command := fld w 56 49, linear16 := bit w 48, pec := bit w 47, kind := fld w 46 43,
    rail := fld w 42 35, scale := fld w 34 0 }

def supplyRec (r : TRec) : SupplyT :=
  let h := r.w 0
  let n := fld (r.w 1) 39 32
  { coreNom := fld h 63 48, flashNom := fld h 47 32, rcpRef := fld h 31 16, fRef := fld h 15 0
    clkKhz := fld (r.w 1) 63 48
    devices := fld (r.w 1) 47 40
    nodes := (List.range 65).map fun i => (fld (r.w (2 + i)) 63 40, fld (r.w (2 + i)) 39 16)
    chans := (List.range n).map fun i => chanRec (r.w (67 + i))
    rails := r.words.drop (67 + n) }

def topoOf (rs : List TRec) : Topo :=
  let one (t : Nat) : TRec := (rs.find? fun r => r.type = t).getD { type := t, words := [] }
  let node := one 1
  let h := node.w 0
  { nx := fld h 63 61 + 1, ny := fld h 60 58 + 1, present := node.w 1, nodeId := BitVec.ofNat 16 (fld h 57 42)
    wpoLat := fld h 41 38
    maRouters := (List.range 8).map fun n => BitVec.ofNat 16 (node.half 2 n)
    tackAgent := BitVec.ofNat 16 (fld (node.w 4) 15 0)
    tackPort := fld (node.w 4) 18 16
    carriers := (List.range 64).map fun d => fld (node.w (5 + d / 10)) (6 * (d % 10) + 5) (6 * (d % 10))
    sectors := (rs.filter fun r => r.type = 2).map sectorRec
    models := (rs.filter fun r => r.type = 3).map modelRec
    loaders := ((List.range 16).map fun q => BitVec.ofNat 16 ((one 4).half 0 q)).filter (· ≠ 0xFFFF)
    supply := supplyRec (one 5) }

/-- A TOPOLOGY section that the manual allows: the right records, and every sector's model named. -/
def topoOk (b : Bytes) : Bool :=
  match topoRecords (b.length / 8 + 1) b with
  | none => false
  | some rs =>
    let count (t : Nat) : Nat := (rs.filter fun r => r.type = t).length
    (rs.all fun r => 1 ≤ r.type && r.type ≤ 5) && count 1 = 1 && count 4 = 1 && count 5 = 1 &&
      (topoOf rs).sectors.all fun x => decide (x.model < count 3)

def topoOfBytes (b : Bytes) : Topo := topoOf ((topoRecords (b.length / 8 + 1) b).getD [])

/-! ### The checks of a copy -/

/-- Base and size, in the first two words of a section (log entry 25). -/
def regionOf (b : Bytes) : Nat × Nat := ((wordAt b 0).toNat, (wordAt b 1).toNat)

/-- Base and size are multiples of a unit, and the size lies in its bounds. -/
def regionOk (u least most : Nat) (b : Bytes) : Bool :=
  let (base, size) := regionOf b
  b.length = 16 && base % u = 0 && size % u = 0 && decide (least ≤ size) && decide (size ≤ most)

def sectionContentOk (x : Section) (b : Bytes) : Bool :=
  if x.type = stTOPOLOGY then topoOk b
  else if x.type = stFW then b.length % 4096 = 0 && decide (1 ≤ b.length / 4096) && decide (b.length / 4096 ≤ 1536)
  else if x.type = stSTUD then regionOk 0x10000 0x100000 0x4000000 b
  else if x.type = stTACK then regionOk 0x100000 0x10000000 0x100000000 b
  else true

def sectionOk (b : Bytes) (x : Section) : Bool :=
  1 ≤ x.type && x.type ≤ 8 && x.sver = 1 && x.offset % 8 = 0 && decide (x.offset + x.length ≤ imgLength b) &&
    (crc32c (sectionBody b x)).toNat = x.crc && sectionContentOk x (sectionBody b x)

/-- A copy is valid (R410 to R412). -/
def imageValid (key : BitVec 768) (minSeq : Nat) (b : Bytes) : Bool :=
  let h := imgHeader b
  let n := imgLength b
  let ts := (directory b).map (·.type)
  nf h 511 480 = 0x534C4349 && nf h 479 464 = 2 && decide (n ≤ 0x800000) && decide (n ≤ b.length) &&
    decide (64 + 16 * imgSections b + 96 ≤ n) &&
    Config.ecdsaVerify key (Config.sha384 (b.take (n - 96))) (readSign ((b.drop (n - 96)).take 96)) &&
    decide (minSeq ≤ imgSeq b) && decide (5 ≤ imgSections b) && decide (imgSections b ≤ 16) &&
    (directory b).all (sectionOk b) && ([stPOLICY, stTOPOLOGY, stFW, stSTUD, stTACK].all ts.contains) &&
    decide (dedup ts = ts) && (imgExpertEn b || !ts.contains stEXPERT)

/-! ### Presets (R413) -/

def setReact (c hi lo v : Nat) (e : Expert) : Expert :=
  { e with fcReact := e.fcReact.modify c fun w => setFld w hi lo v }

/-- The reaction presets of R306: QUIET lowers the normal reaction IRQ to LOG, but for SEC; FIRM raises the severe
reaction of UE and SDC to BLOCK_RESET. -/
def reactionPreset (p : Nat) (e : Expert) : Expert :=
  if p = 0 then
    (List.range 10).foldl (fun e c =>
      if c ≠ cSEC ∧ fld (e.fcReact.getD c 0) 42 40 = 1 then setReact c 42 40 0 e else e) e
  else if p = 2 then setReact cUE 39 37 3 (setReact cSDC 39 37 3 e)
  else e

/-- The screening profiles: MIN_SEP (R123), EXC_POLICY (R156), MIN_RATE of PER and SA (R166, R191), NO_CHECKER (R244). -/
def screenPreset (p : Nat) (e : Expert) : Expert :=
  let pick (lean std strict : Nat) : Nat := if p = 0 then lean else if p = 2 then strict else std
  { e with
    twcConfig := setFld e.twcConfig 1 0 (pick 0 1 2)
    perConfig := setFld (setFld e.perConfig 4 4 (pick 0 0 1)) 2 0 (pick 6 2 0)
    saConfig := setFld e.saConfig 4 0 (pick 16 8 4)
    vuConfig := setFld e.vuConfig 63 63 (pick 1 0 0) }

/-- One EXPERT entry: its value is allowed (R414). -/
def expertEntryOk (a : Nat) (w : W64) : Bool :=
  decide (0x200000 ≤ a) && decide (a ≤ 0x3FFFFF) && match expertFields a with
    | some fs => fs.all fun x => x.holds w
    | none => false

/-- Apply the EXPERT entries in order; the answer counts those skipped. -/
def applyExpert (b : Bytes) (s : State) : Nat × State :=
  (List.range (b.length / 16)).foldl (fun (acc : Nat × State) i =>
    let a := (wordAt b (2 * i)).toNat
    let w := wordAt b (2 * i + 1)
    if expertEntryOk a w then (acc.1, expertWrite a w acc.2) else (acc.1 + 1, acc.2)) (0, s)

end Sys2Proof.Machine
end

