-- ==== Sys2Proof/Machine/Start.lean ====
section
/-!
DEFINITION. The start sequence: RST_N (R501, R502) and the stages S0 to S7 and S9 (R406, R417 to R422). What a stage finds
outside the block is the operand of its command.
-/
namespace Sys2Proof.Machine

/-! ### RST_N and S0 -/

/-- RST_N is asserted: everything but flash, OTP, fuses and the pins returns to reset. The queue of commands and the counter of
free values are the model's own. A deferred seed kill is lost with the state that held it. -/
def rstNAssert (s : State) : State :=
  let z := State.cold { s.nv with otp := { s.nv.otp with killDue := false } }
  { z with
    pending := s.pending
    draws := s.draws
    ports := { z.ports with wrstLow := s.ports.wrstLow, tap := s.ports.tap } }

def execRstNAssert (s : State) : Host.Outcome State Fault Refusal := .next (rstNAssert s)

/-- RST_N is released: S0 samples the Die ID, Node Time starts at 0, and SLN_UP rises at its end. -/
def rstNRelease (dieId : BitVec 6) (s : State) : State :=
  if ¬ s.ports.rstLow then s else
  let s := s.mPorts fun p => { p with rstLow := false, slnUp := true, dieId := dieId }
  let on := 1 ≤ s.nv.otp.lc && s.nv.otp.lc ≤ lcRETURN
  stagePass 0 rsPASS [] dieId.toNat (if on then setDomain 23 .on s else s)

def execRstNRelease (dieId : BitVec 6) (s : State) : Host.Outcome State Fault Refusal := .next (rstNRelease dieId s)

/-! ### S1 (R417) -/

/-- Life-cycle states that R454 encodes. -/
def lcValid (s : State) : Bool := s.nv.otp.lc ≤ lcDECOMMISSIONED

/-- Number of the first failing test: 1 lockstep, 2 key store, 3 TRNG, 4 life cycle; 0: none fails. -/
def s1Failing (t : SelfTest) (s : State) : Nat :=
  if ¬ t.lockstepOk then 1 else if ¬ t.keyStoreOk then 2 else if ¬ t.trngOk then 3 else if ¬ lcValid s then 4 else 0

def s1Reports (t : SelfTest) (s : State) : State :=
  let s := if t.lockstepOk && t.keyStoreOk && t.trngOk then s else reportSelf uMS 0 0xB3 0 none s
  let s := if t.lockstepOk then s else raiseAlarm 8 s
  let s := if t.keyStoreOk then s else raiseAlarm 9 s
  if lcValid s then s else raiseAlarm 10 s

/-- BOOT_SEQ of this cold start (R424). -/
def nextBoot (s : State) : BitVec 28 :=
  match ((sbRecords s).filter fun r => r.type = sbBOOT).getLast? with
  | some r => r.bootSeq + 1
  | none => 1

/-- The records of the Stud Book with those that wait for a window (R383). -/
def sbAll (s : State) : List SbRec := sbRecords s ++ s.cfg.deferred

/-- Latest record of each core, or of each label. -/
def latestOf (type : Nat) (s : State) : List SbRec := latestBy sbKey ((sbAll s).filter fun r => r.type = type)

def latestPads (s : State) : List SbRec := latestOf sbPADDOCK s

def padCore (r : SbRec) : Huid := BitVec.ofNat 16 (leAt r.body 0 2)

/-- The state that a PADDOCK record brings back, with DISTIL applied as SUSPECT (R255). -/
def padState (r : SbRec) : PadSt := if leAt r.body 2 1 = 3 then .suspect else PadSt.ofCode (leAt r.body 2 1)

/-- The last test record of a core, or nothing. -/
def lastTest (s : State) (h : Huid) : Bytes :=
  ((((sbRecords s).filter fun r => r.type = sbTEST && leAt r.body 0 2 = h.toNat).getLast?).map (·.body)).getD []

/-- R381, at the first start in RETURN: the RETURN record, and every Paddock state cleared. -/
def returnEntry (s : State) : State :=
  if s.sec.lc ≠ lcRETURN ∨ (sbAll s).any (fun r => r.type = sbRETURN) then s else
  let bad := (latestPads s).filter fun r => padState r ≠ .service
  let body := bad.flatMap fun r => r.body.take 3 ++ padTo 21 (lastTest s (padCore r))
  let s := sbWrite sbRETURN (body.take 4095) s
  bad.foldl (fun s r => sbPaddock (padCore r) .service prRETURN s) s

/-- STAGE_S1. In BLANK and DECOMMISSIONED the die goes no further (R409). -/
def stageS1 (t : SelfTest) (s : State) : State :=
  if ¬ runsStage s 1 then s else
  let n := s1Failing t s
  let s := s1Reports t (s.mSec fun x => { x with lc := s.nv.otp.lc, nextLc := s.nv.otp.lc })
  if n ≠ 0 then stageFatal 1 [] n s else
  let s := deriveS1 s
  if s.sec.lc = 0 ∨ s.sec.lc = lcDECOMMISSIONED then
    (stageReport 1 rsPASS [] 0 s).mCfg fun c => { c with heldAt := true }
  else stagePass 1 rsPASS [] 0 s

def execStageS1 (t : SelfTest) (s : State) : Host.Outcome State Fault Refusal := .next (stageS1 t s)

/-! ### S2 (R410 to R416) -/

def cfgExpert (n : Nat) (s : State) : State := (List.range n).foldl (fun s _ => reportSelf uCFG 0 0xB2 0 none s) s

/-- Local pattern or export list entry of a record (R424). -/
def patternOf (r : SbRec) : Pattern :=
  let pkg := r.body.getLast? = some 1
  { body := BitVec.ofNat 512 (leAt r.body 0 64), sig := if pkg then [] else (r.body.drop 64).take 96, fromPackage := pkg }

/-- What S2 reads from the Stud Book: the identity's Fleet ID, the pattern and export lists, the torn records; and the
BOOT record that it appends. -/
def readStud (s : State) : State :=
  let rs := sbRecords s
  let torn := ((activeHalf s).recs.filter (·.torn)).length
  let id := identityContent rs
  let pats := ((rs.filter fun r => r.type = sbREPRO).map patternOf).foldl (fun l q => addPattern q l) []
  let s := s.mCfg fun c => { c with bootSeq := nextBoot s, fleet := if id.isEmpty then 0 else Config.fleetId id }
  let s := s.mVu fun v => { v with patterns := pats, exports := (rs.filter fun r => r.type = sbEXPORT).map patternOf }
  returnEntry (sbWrite sbBOOT (bootBody s) (bump 965 torn s))

/-- The sections of a valid copy become the configuration. -/
def loadSections (img : Bytes) (copy : Bool) (s : State) : State :=
  let body (t : Nat) : Bytes := (findSection img t).getD []
  let topo := topoOfBytes (body stTOPOLOGY)
  let prof := fld (wordAt (body stPOLICY) 0) 63 62
  let react := fld (wordAt (body stPOLICY) 0) 61 60
  let s := s.mCfg fun c => { c with
    valid := true
    expertEn := imgExpertEn img
    copy := copy
    profile := if prof = 3 then 1 else prof
    preset := if react = 3 then 1 else react
    sections := imgSections img
    imageSeq := BitVec.ofNat 32 (imgSeq img)
    exportBits := wordAt (body stPOLICY) 1
    meas := Config.sha384 (img.take (imgLength img))
    fw := body stFW
    fwBlocks := (body stFW).length / 4096
    patternArea := (findSection img stPATTERN).map regionOf
    sbBase := (regionOf (body stSTUD)).1
    sbSize := (regionOf (body stSTUD)).2
    tackBase := (regionOf (body stTACK)).1
    tackSize := (regionOf (body stTACK)).2
    topo := topo }
  let s := s.mTs fun t => { t with chans := List.replicate topo.supply.chans.length Chan.reset }
  { s with expert := reactionPreset s.cfg.preset (screenPreset s.cfg.profile s.expert) }

/-- POLICY values and channel kinds of a valid copy that are reserved. -/
def reservedUses (img : Bytes) (s : State) : Nat :=
  let w := wordAt ((findSection img stPOLICY).getD []) 0
  (decide (fld w 63 62 = 3)).toNat + (decide (fld w 61 60 = 3)).toNat +
    (s.cfg.topo.supply.chans.filter fun c => 8 ≤ c.kind).length

/-- The EXPERT section and the patch (R414, R416); the answer says whether something was skipped. -/
def applySections (img : Bytes) (s : State) : Bool × State :=
  let (skipped, s) := applyExpert ((findSection img stEXPERT).getD []) s
  match findSection img stPATCH with
  | none => (decide (0 < skipped), cfgExpert skipped s)
  | some b =>
    let fits : Bool := fld (wordAt b 0) 15 0 = Config.romVer.toNat
    let s := cfgExpert (skipped + (!fits).toNat) s
    (decide (0 < skipped) || !fits, s.mCfg fun c => { c with patch := fits })

/-- Domains of S3: clusters, sheds, PER and FR. -/
def s3Domains (s : State) : State := (List.range 22).foldl (fun s d => requestDomain d s) s

/-- S2 with the copy that is valid. -/
def stageS2With (img : Bytes) (copy : Bool) (s : State) : State :=
  let s := loadSections img copy s
  let s := cfgExpert (reservedUses img s) s
  let (lost, s) := applySections img s
  if ¬ bit s.cfg.topo.present s.ports.dieId.toNat then stageFatal 2 [] copy.toNat s
  else s3Domains (stagePass 2 (lossStatus lost) [] copy.toNat (deriveS2 (readStud s)))

/-- STAGE_S2: the primary copy, then the secondary. -/
def stageS2 (primary secondary : Bytes) (s : State) : State :=
  if ¬ runsStage s 2 then s else
  let ok (b : Bytes) : Bool := imageValid s.nv.otp.imageKey s.nv.otp.minSeq.toNat b
  let bad (s : State) : State := reportSelf uCFG 0 0xB0 0 none s
  if ok primary then stageS2With primary false s
  else if ok secondary then stageS2With secondary true (bad s)
  else stageFatal 2 [] 0 (reportSelf uCFG 0 0xB1 0 none (bad (bad s)))

def execStageS2 (primary secondary : Bytes) (s : State) : Host.Outcome State Fault Refusal :=
  .next (stageS2 primary secondary s)

/-! ### S3 (R384 to R390) -/

/-- A domain of S3 has not settled yet. -/
def s3Waits (s : State) : Bool := (List.range 22).any fun d => domainOf s d = .poweringUp

/-- What BIST and repair cannot survive (R390, R441). -/
def s3Fatal (left : List (Nat × Nat × Nat × Nat)) (s : State) : Bool :=
  (left.any fun k => k.1 = 4) || !(List.range 64).any (laneUp s) || decide (planPagesLeft s < 64) || domainFailed s 19 ||
    domainFailed s 21

def s3Fail (loci : List W128) (rows : Nat) (s : State) : State :=
  stageFatal 3 loci rows (reportSelf uFR 0 0x92 0 none s)

/-- STAGE_S3. `void`: BIST could not run in ten attempts. -/
def stageS3 (fails deadSpares : List FailEntry) (void : Bool) (s : State) : State :=
  if ¬ runsStage s 3 ∨ s3Waits s then s
  else if void then s3Fail [] 0 (frWindow s)
  else
    let rows := failRows fails
    let s := buildRowMaps (bistLog fails deadSpares s)
    let (left, s) := repairAll 0 rows s
    let s := zeroArrays 0 s
    let loci := left.map fun k => (rowLocus s k).2
    if s3Fatal left s then s3Fail loci rows.length s else stagePass 3 (lossStatus (!left.isEmpty)) loci rows.length s

def execStageS3 (fails deadSpares : List FailEntry) (void : Bool) (s : State) : Host.Outcome State Fault Refusal :=
  .next (stageS3 fails deadSpares void s)

/-! ### S4 (R345) -/

def usedPorts (s : State) : List Nat := (List.range 4).filter (portUsed s.cfg.topo (dieNat s))

/-- The record of this die enters its map, and its used ports begin to train; a port whose replay buffer failed BIST is
REMOVED at once (R388). BOOT is drawn from the TRNG (R367). -/
def hitchStart (s : State) : State :=
  let (k, s) := s.draw
  let s := s.mHx fun h => { h with myBoot := (Config.trng k).setWidth 16 }
  let s := s.mHx fun h => { h with map := Tab.set h.map (dieNat s) (ownRecord s) }
  let s := if (usedPorts s).isEmpty then s else requestDomain 22 s
  (usedPorts s).foldl (fun s p => if bit s.hx.badPorts p then removePort p s else startTraining p s) s

/-- Every used port is ACTIVE or REMOVED. -/
def portsSettled (s : State) : Bool := (usedPorts s).all fun p => (hxPort s p).st = .active || (hxPort s p).st = .removed

/-- A component is at least as good as another: more live dies, or as many and the lower lowest Die ID. -/
def largerOrSame (a b : List Nat) : Bool :=
  decide (b.length < a.length) || (decide (a.length = b.length) && decide (a.headD 64 ≤ b.headD 64))

/-- This die belongs to the largest component of usable links. -/
def inLargest (s : State) : Bool :=
  (presentDies s.cfg.topo).all fun d => largerOrSame (liveDies s) (component s.cfg.topo s.hx d)

/-- The one step of Node Time to agree with the parent (R371). -/
def stepTime (s : State) : State :=
  if s.hx.stepped ∨ (parentPortOf s).isNone then s else
  let t : Int := (s.now.toNat : Int) - s.hx.offset / 32
  { s with now := BitVec.ofNat 64 t.toNat }.mHx fun h => { h with stepped := true }

/-- Ports that S4 reports: at ×1 or REMOVED. -/
def weakPorts (s : State) : List Nat := (usedPorts s).filter fun p => (hxPort s p).st = .removed || (hxPort s p).width = 1

/-- Loci of S4: the weak ports, and at the coordinator every PRESENT die that is not live. -/
def s4Loci (s : State) : List W128 :=
  let dead := if isCoord s then (presentDies s.cfg.topo).filter fun d => !(liveDies s).contains d else []
  (weakPorts s).map (fun p => coreLocus s (mkHuid ucHXPORT 0 p)) ++ dead.map fun d => locus s 4 d 0 0 0 0

/-- S4 when every used port has settled. -/
def s4End (s : State) : State :=
  if s.hx.disconnected then s else
  let n := (weakPorts s).length
  if inLargest s then stagePass 4 (lossStatus (decide (0 < n))) (s4Loci s) n (stepTime s)
  else
    let s := reportSelf uHX 0 0x8C 0 none (s.mHx fun h => { h with disconnected := true })
    let s := stageReport 4 rsDISCONNECTED (s4Loci s) n s
    ((usedPorts s).filter fun p => (hxPort s p).st = .removed).foldl (fun s p => startTraining p s) s

/-- STAGE_S4. -/
def stageS4 (s : State) : State :=
  if ¬ runsStage s 4 then s else
  let s := if (Tab.get s.hx.map (dieNat s)).isNone then hitchStart s else s
  if portsSettled s then s4End s else s

def execStageS4 (s : State) : Host.Outcome State Fault Refusal := .next (stageS4 s)

/-! ### S5 (R418) -/

/-- What POWER_ON and FENCE_CORES of a sector answered; no answer is a timeout of R319. -/
def surveySector (ok : Bool) (t : SectorT) (s : State) : State :=
  let s := bump 704 1 (bump 710 1 (s.mSector t.num fun x =>
    { x with powered := ok, unreachable := !ok, fenced := t.present }))
  if ok then s else timedOut { cls := classOfOp opPON, target := mkHuid ucCORE t.num 0, ctx := 0, ctxValid := false } s

def surveySectors (v : Survey) (s : State) : State :=
  s.cfg.topo.sectors.foldl (fun s t => surveySector (bit v.sectorsOk t.num) t s) s

/-- TABLE_READ of every router; one that did not answer has failed (R276, R279). -/
def surveyRouters (v : Survey) (s : State) : State :=
  let rs := allRouters s
  (rs.filter v.deadRouters.contains).foldl (fun s r =>
    fcpTimeout r (timedOut { cls := clFCP, target := r, ctx := 0, ctxValid := false } s)) (bump 711 rs.length s)

/-- The links that are not at full width (R275). -/
def surveyLinks (v : Survey) (s : State) : State :=
  v.links.foldl (fun s (h, n) =>
    match linkPorts s h with
    | [] => s
    | p :: _ => if n = 0 then hlinkDown h s else hlinkWidth h n p.width s) s

/-- The PADDOCK and REMAP records of the Stud Book. -/
def applyStud (s : State) : State :=
  let s := (latestOf sbPADDOCK s).foldl (fun s r =>
    s.mPad (padCore r) fun p => { p with
      st := padState r
      sinceMs := nowMs s
      noFirmware := decide (leAt r.body 3 1 = prMUSTER && padState r = .suspect) }) s
  (latestOf sbREMAP s).foldl (fun s r =>
    let l : Huid := BitVec.ofNat 16 (leAt r.body 0 2)
    let row := (remapRow s (huidSector l)).set (huidIndex l) (huidIndex (BitVec.ofNat 16 (leAt r.body 2 2)))
    s.mYm fun y => { y with remap := Tab.set y.remap (huidSector l) row }) s

/-- Sectors that did not answer. -/
def lostSectors (v : Survey) (s : State) : List Nat :=
  (s.cfg.topo.sectors.map (·.num)).filter fun n => !bit v.sectorsOk n

/-- STAGE_S5. The answers of the survey arrive with the command (log entry 59). -/
def stageS5 (v : Survey) (s : State) : State :=
  if ¬ runsStage s 5 then s else
  let s := applyStud (surveyLinks v (surveyRouters v (surveySectors v s)))
  let s := v.mismatches.foldl (fun s h => reportUnit uCFG 0xB7 0 none h s) s
  let lost := lostSectors v s
  let s := s.mYm fun y => { y with unreachCores := (unreachable s).filter fun h => huidClass h = ucCORE }
  let s := s.mOb fun o => { o with tackOk := v.tackOk }
  let loci := lost.map (fun n => coreLocus s (mkHuid ucCORE n 0)) ++ v.deadRouters.map (coreLocus s)
  if lost.length = s.cfg.topo.sectors.length ∨ ¬ v.tackOk then stageFatal 5 loci lost.length s
  else stagePass 5 (lossStatus (!loci.isEmpty || !v.links.isEmpty || !v.mismatches.isEmpty)) loci lost.length s

def execStageS5 (v : Survey) (s : State) : Host.Outcome State Fault Refusal := .next (stageS5 v s)

/-! ### S6 (R419, R420) -/

/-- Physical cores of the topology, in order of HUID. -/
def allCores (s : State) : List Huid :=
  sortBy BitVec.toNat (s.cfg.topo.sectors.flatMap fun t => (sectorLabels t).map (mkHuid ucCORE t.num))

/-- Cores that S6 tests: in SERVICE or SUSPECT, and reachable. -/
def s6Cores (s : State) : List Huid :=
  (allCores s).filter fun h =>
    ((padOf s h).st = .service || (padOf s h).st = .suspect) && !s.ym.unreachCores.contains h

/-- Cores of one model. -/
def modelCores (s : State) (m : Nat) : List Huid :=
  (s6Cores s).filter fun h => ((sectorT s (huidSector h)).map (·.model)) = some m

/-- The pairs of a list: the j-th of the first half with the j-th of the second. -/
def halves (hs : List Huid) : List (Huid × Huid) :=
  let n := hs.length / 2
  (hs.take n).zip ((hs.drop n).take n)

def s6Pairs (s : State) : List (Huid × Huid) := (List.range s.cfg.topo.models.length).flatMap fun m => halves (modelCores s m)

/-- A result that R419 allows: of a pair, or of one core. -/
def sayFits (pairs : List (Huid × Huid)) (cores : List Huid) : PairSay → Bool
  | .bothPass a b | .unresolved a b => pairs.contains (a, b)
  | .oneFails a b => pairs.contains (a, b) || pairs.contains (b, a)
  | .singlePass a | .singleFails a => cores.contains a

/-- What a result says of a core: 0 it passes, 1 unresolved, 2 it fails. -/
def sayOf (h : Huid) : PairSay → Option Nat
  | .bothPass a b => if h = a ∨ h = b then some 0 else none
  | .unresolved a b => if h = a ∨ h = b then some 1 else none
  | .oneFails a b => if h = a then some 2 else if h = b then some 0 else none
  | .singlePass a => if h = a then some 0 else none
  | .singleFails a => if h = a then some 2 else none

/-- The worst that the results say of a core. -/
def s6Result (results : List PairSay) (h : Huid) : Option Nat := (results.filterMap (sayOf h)).max?

/-- The end of a core's TURNOUT of S6 (R420). -/
def s6Core (h : Huid) (r : Nat) (s : State) : State :=
  let st := (padOf s h).st
  if r = 2 then
    let s := sbDefect (coreLocus s h) 0x66 0 (setPad h .confirmed prTEST s)
    bump 968 1 (reportUnit uVU 0x66 0 none h s)
  else if r = 1 then (if st = .suspect then s else setPad h .suspect prPAIR s)
  else if st = .suspect then
    let n := (padOf s h).clean + 1
    if cleanTests s ≤ n then bump 525 1 (setPad h .service prCLEAN s) else s.mPad h fun p => { p with clean := n }
  else s

/-- Cross-checks of a core: START_TESTS test numbers of each descriptor of its model. -/
def s6Tests (s : State) (h : Huid) : Nat :=
  max 1 (fld s.expert.cfgStart 63 56) * (testDescs s s.nv.selector h).length

/-- STAGE_S6. A compute-part reset makes the tests VOID, and they run again (R431). -/
def stageS6 (results : List PairSay) (void : Bool) (s : State) : State :=
  if ¬ runsStage s 6 ∨ void then s else
  let cores := s6Cores s
  if ¬ results.all (sayFits (s6Pairs s) cores) ∨ cores.any (fun h => (s6Result results h).isNone) then s else
  let r (h : Huid) : Nat := (s6Result results h).getD 0
  let s := bump 904 ((cores.map (s6Tests s)).sum) (bump 906 (cores.length * s.vu.patterns.length) (bump 967 cores.length s))
  let s := cores.foldl (fun s h => s6Core h (r h) s) s
  let failed := cores.filter fun h => r h = 2
  let open_ := cores.filter fun h => r h = 1
  let loci := (failed ++ open_).map (coreLocus s)
  if cores.all fun h => r h = 2 then stageFatal 6 loci failed.length s
  else stagePass 6 (lossStatus (!loci.isEmpty)) loci failed.length s

def execStageS6 (results : List PairSay) (void : Bool) (s : State) : Host.Outcome State Fault Refusal :=
  .next (stageS6 results void s)

/-! ### S7 (R421) -/

/-- Swap the labels of the fenced cores that still serve one. -/
def remapAll (s : State) : State :=
  (allCores s).foldl (fun s h =>
    let l := labelOf s h
    if (padOf s h).st = .service ∨ isSpareLabel s l then s else (remapLabel l s).getD s) s

/-- Labels that no core serves. -/
def bareLabels (s : State) : List Huid := (allCores s).filter fun l => !isSpareLabel s l && !coreServes s (physOf s l)

/-- Every word of both versions in every router, and version 0 live (R421). -/
def firstTables (s : State) : State :=
  let t := newTables s
  let rs := liveRouters s
  let all := rs.foldl (fun acc r =>
    let x := Tab.getD t r.toNat zeroTable
    Tab.set (Tab.set acc (tableKey false r) x) (tableKey true r) x) []
  let words := 64 * rs.length + s.ym.wordRest
  let s := bump 578 (words / 2 ^ 10) (bump 711 (64 * rs.length + 1) s)
  s.mYm fun y => { y with
    tables := all, next := t, live := false, standby := .retired, pending := false, reroute := false,
    rerouteNow := false, toSend := [], outstanding := [], baseline0 := 0, baseline1 := 0, pendingLabels := [],
    installLabels := [], wordRest := words % 2 ^ 10 }

/-- STAGE_S7. -/
def stageS7 (routersAnswered : Bool) (s : State) : State :=
  if ¬ runsStage s 7 then s else
  let s := firstTables (remapAll (reachUpdate s))
  let bare := bareLabels s
  let loci := bare.map fun l => coreLocus s (physOf s l)
  if ¬ routersAnswered ∨ (liveRouters s).isEmpty then stageFatal 7 loci bare.length s
  else stagePass 7 (lossStatus (!loci.isEmpty)) loci bare.length s

def execStageS7 (routersAnswered : Bool) (s : State) : Host.Outcome State Fault Refusal := .next (stageS7 routersAnswered s)

/-! ### S8 and S9 -/

/-- STAGE_S8: the Muster to every core in SERVICE begins; the stage ends with it. -/
def stageS8 (s : State) : State :=
  if ¬ runsStage s 8 ∨ musterBusy s then s else
  match (allCores s).filter (coreServes s) with
  | [] => stageFatal 8 [] 0 s
  | hs => startMuster false 0 hs s

def execStageS8 (s : State) : Host.Outcome State Fault Refusal := .next (stageS8 s)

/-- STAGE_S9. -/
def stageS9 (s : State) : State :=
  if ¬ runsStage s 9 then s
  else if joining s then enterService rsPASS 0 s
  else if s.cfg.b0Tries = 0 then arriveBarrier0 s
  else s

def execStageS9 (s : State) : Host.Outcome State Fault Refusal := .next (stageS9 s)

end Sys2Proof.Machine
end

