-- ==== Sys2Proof/Machine/MusterRun.lean ====
section
/-!
DEFINITION. The commands of Muster (R426 to R431): bitmaps, repair rounds, COMMIT, and the end of a Muster; and the delivery
of the firmware within a test session (R429).
-/
namespace Sys2Proof.Machine

def musterRounds (s : State) : Nat := fld s.expert.cfgStart 47 46

/-- Blocks that a bitmap lacks. -/
def lacking (s : State) (map : Bytes) : List Nat :=
  (List.range s.cfg.fwBlocks).filter fun b => leAt map (b / 8) 1 / 2 ^ (b % 8) % 2 = 0

def allBlocks (s : State) : List Nat := List.range s.cfg.fwBlocks

/-- COMMIT to a core (R514). -/
def sendCommit (h : Huid) (s : State) : State :=
  sendMuster 3 (word [put 15 0 s.cfg.fwBlocks, put 63 32 s.cfg.imageSeq.toNat]) h s

/-- DATA of missing blocks, then QUERY. -/
def resend (h : Huid) (blocks : List Nat) (s : State) : State :=
  bump 961 blocks.length (bump 960 blocks.length (blocks.foldl (fun s b => sendBlock h b s) s))

/-! ### The end of a Muster -/

/-- An incomplete core: ABORT, fence and SUSPECT, without its firmware (R429). -/
def incompleteCore (h : Huid) (s : State) : State :=
  let s := (sendMuster 5 0 h s).mPad h fun p => { p with noFirmware := true }
  enterFenced h .suspect prMUSTER s

def incompleteReport (hs : List Huid) (s : State) : State :=
  raise uMS ((sortBy BitVec.toNat hs).map fun h => (message s 0xB5 0 none h, coreLocus s h)) s

/-- The first of the sector Musters that wait; a sector without a target goes on at once. -/
def nextOf : List Nat → State → State
  | [], s => s.mCfg fun c => { c with musterQ := [] }
  | n :: rest, s =>
    match sectorMusterCores s n with
    | [] => nextOf rest (seqNext n s)
    | hs => startMuster true n hs (s.mCfg fun c => { c with musterQ := rest })

def nextMuster (s : State) : State := nextOf s.cfg.musterQ s

/-- S8 ends with its Muster. -/
def stage8End (done left : List Huid) (s : State) : State :=
  if ¬ runsStage s 8 then s
  else
    let loci := left.map (coreLocus s)
    if done.isEmpty then stageFatal 8 loci left.length s else stagePass 8 (lossStatus (!left.isEmpty)) loci left.length s

/-- Step 6 of R428. -/
def musterEnd (s : State) : State :=
  let m := s.cfg.muster
  let left := m.targets.filter fun h => !m.acked.contains h
  let s := s.mMuster fun m => { m with st := muDONE, waiting := [] }
  let s := bump 962 left.length (incompleteReport left s)
  let s := left.foldl (fun s h => incompleteCore h s) s
  let s := if m.scope then seqNext m.sector s else stage8End m.acked left s
  nextMuster s

/-- Steps 4 and 5: another repair round, or COMMIT to every core that is complete. -/
def musterNext (s : State) : State :=
  let m := s.cfg.muster
  let short := m.targets.filter fun h => !m.complete.contains h
  if ¬ short.isEmpty ∧ m.round < musterRounds s then
    let s := short.foldl (fun s h => resend h (Tab.getD m.missing h.toNat (allBlocks s)) s) s
    queryAll short (s.mMuster fun m => { m with st := muREPAIR, round := m.round + 1, waiting := short })
  else
    let s := s.mMuster fun m => { m with st := muCOMMIT, waiting := m.complete }
    if m.complete.isEmpty then musterEnd s else m.complete.foldl (fun s h => sendCommit h s) s

/-- Every core has answered. -/
def musterAnswered (s : State) : State :=
  if ¬ s.cfg.muster.waiting.isEmpty then s
  else if s.cfg.muster.st = muCOMMIT then musterEnd s
  else if s.cfg.muster.st = muQUERY ∨ s.cfg.muster.st = muREPAIR then musterNext s
  else s

/-- A bitmap of a target of the Muster. One that answers COMMIT says that the firmware does not run (R427). -/
def musterBitmap (h : Huid) (map : Bytes) (s : State) : State :=
  if ¬ s.cfg.muster.waiting.contains h then s else
  let miss := lacking s map
  musterAnswered (s.mMuster fun m => { m with
    waiting := m.waiting.erase h
    complete := if miss.isEmpty ∧ m.st ≠ muCOMMIT then dedup (m.complete ++ [h]) else m.complete
    missing := Tab.set m.missing h.toNat miss })

/-- A bitmap within a test session: COMMIT, a repair round, or a failed test. -/
def sessionBitmap (x : Session) (map : Bytes) (s : State) : State :=
  let miss := lacking s map
  if miss.isEmpty then sendCommit x.core s
  else if x.index < musterRounds s then
    sendMuster 1 0 x.core ((resend x.core miss s).mSession x.channel fun y => { y with index := y.index + 1 })
  else endSession x trFAIL (sendMuster 5 0 x.core s)

/-- The session of a core whose firmware is being delivered. -/
def mustering (s : State) (h : Huid) : Option Session :=
  match sessionOf s h with
  | some x => if x.mustering then some x else none
  | none => none

/-- BITMAP. -/
def bitmapPacket (p : Ingress) (s : State) : State :=
  let h := physOf s p.src
  let map := payloadAfter p 16
  match mustering s h with
  | some x => sessionBitmap x map s
  | none => musterBitmap h map s

def execBitmap (p : Ingress) (s : State) : Host.Outcome State Fault Refusal :=
  .next (ingress 0x09 (some 2) p (bitmapPacket p) s)

/-- The firmware runs in a session's core: the test begins. -/
def sessionCommitted (x : Session) (s : State) : State :=
  let s := (s.mPad x.core fun p => { p with noFirmware := false }).mSession x.channel fun y =>
    { y with mustering := false, index := 0 }
  openTest { x with mustering := false, index := 0 } s

/-- A target of the Muster runs its firmware. -/
def musterCommitted (h : Huid) (s : State) : State :=
  if s.cfg.muster.st = muCOMMIT ∧ s.cfg.muster.waiting.contains h then
    musterAnswered ((s.mPad h fun p => { p with noFirmware := false }).mMuster fun m =>
      { m with waiting := m.waiting.erase h, acked := m.acked ++ [h] })
  else s

/-- COMMIT_ACK, for the current image. -/
def commitPacket (p : Ingress) (s : State) : State :=
  let h := physOf s p.src
  if fld (p.pre 0) 63 32 ≠ s.cfg.imageSeq.toNat then s else
  match mustering s h with
  | some x => sessionCommitted x s
  | none => musterCommitted h s

def execCommitAck (p : Ingress) (s : State) : Host.Outcome State Fault Refusal :=
  .next (ingress 0x09 (some 4) p (commitPacket p) s)

/-- MUSTER_TIMEOUT: a QUERY without an answer is an empty bitmap, a COMMIT without one an incomplete core. -/
def musterTimeout (s : State) : State :=
  let m := s.cfg.muster
  if m.st = muCOMMIT then musterEnd s
  else if m.st = muQUERY ∨ m.st = muREPAIR then
    musterNext (s.mMuster fun m => { m with
      waiting := []
      missing := m.waiting.foldl (fun t h => Tab.set t h.toNat (allBlocks s)) m.missing })
  else s

def execMusterTimeout (s : State) : Host.Outcome State Fault Refusal := .next (musterTimeout s)

/-- SECTOR_MUSTER: the sequence of R324 is past its RESET and asks for the Muster of its sector (R430). -/
def sectorMuster (n : Nat) (s : State) : State :=
  if (sectorSt s n).rstStep ≠ 5 ∨ (musterBusy s ∧ s.cfg.muster.scope ∧ s.cfg.muster.sector = n) ∨ s.cfg.musterQ.contains n then s
  else if (sectorMusterCores s n).isEmpty then seqNext n s
  else orderSectorMuster n s

def execSectorMuster (sector : BitVec 6) (s : State) : Host.Outcome State Fault Refusal :=
  .next (sectorMuster sector.toNat s)

end Sys2Proof.Machine
end

