-- ==== Sys2Proof/Machine/Watching.lean ====
section
/-!
DEFINITION. The host's orders to OB: SNAP (R483), Watch statistics (R492) and the start of a dump (R493). While the OB domain
is off or has failed these do nothing (R441).
-/
namespace Sys2Proof.Machine

/-! ### SNAP -/

/-- A write of `OB.CTR_CTRL`. -/
def snapWrite (w : W64) (s : State) : State := if bit w 63 ∧ obOn s then snapNow s else s

def execSnap (priv : BitVec 2) (w : W64) (s : State) : Host.Outcome State Fault Refusal :=
  .next (operatorWrite priv (snapWrite w) s)

/-- The end of a SNAP_PERIOD; 0 disables it. -/
def snapPeriod (s : State) : State := if fld s.expert.obConfig 55 48 ≠ 0 ∧ obOn s then snapNow s else s

def execSnapPeriod (s : State) : Host.Outcome State Fault Refusal := .next (snapPeriod s)

/-! ### Watch statistics -/

/-- An empty Watch block. -/
def Watch.empty (c sel : Nat) (layer : Option Nat) : Watch :=
  { ctx := c, sel := sel, layer := layer, seen := 0, nan := 0, inf := 0, zero := 0, subn := 0, atMax := 0, minExp := 0,
    maxExp := 0, any := false, pos := 0 }

def watchOf (s : State) (c : Nat) : Option Watch := s.ob.watch.find? fun x => x.ctx = c

/-- A write of `OB.WATCH_CTRL` for a context: the layer index, and with GO a block of zeros. -/
def watchWrite (c : Nat) (w : W64) (s : State) : State :=
  if ¬ obOn s then s else
  let l := fld w 62 51
  let x := if bit w 63 then Watch.empty c l (some l) else
    match watchOf s c with
    | some x => { x with sel := l }
    | none => Watch.empty c l none
  s.mOb fun o => { o with watch := (o.watch.filter fun y => y.ctx ≠ c) ++ [x] }

/-- A tenant's access to its own context's Watch block. -/
def tenantWatch (priv : BitVec 2) (f : Nat → State → State) (s : State) : State :=
  hrp (fun s =>
    match s.sec.bound with
    | some c => if priv = 0 then f c s else denied priv s
    | none => denied priv s) s

def watchGo (priv : BitVec 2) (w : W64) (s : State) : State :=
  tenantWatch priv (fun c s => watchWrite c w (answer hsOK 0 s)) s

def execWatchGo (priv : BitVec 2) (w : W64) (s : State) : Host.Outcome State Fault Refusal := .next (watchGo priv w s)

/-- The four words of a Watch block. -/
def watchWord (x : Watch) (k : Nat) : W64 :=
  match k with
  | 0 => BitVec.ofNat 64 x.seen
  | 1 => word [put 63 32 x.nan, put 31 0 x.inf]
  | 2 => word [put 63 32 x.zero, put 31 0 x.subn]
  | _ => word [put 63 32 x.atMax, put 31 16 x.minExp, put 15 0 x.maxExp]

/-- A read of `OB.WATCH_DATA`: the next of the four words, in turn. -/
def watchNext (c : Nat) (s : State) : State :=
  match watchOf s c with
  | some x =>
    if ¬ obOn s then answer hsOK 0 s else
    answer hsOK (watchWord x x.pos) (s.mOb fun o => { o with watch := o.watch.map fun y =>
      (if y.ctx = c then { y with pos := (y.pos + 1) % 4 } else y) })
  | none => answer hsOK 0 s

def watchData (priv : BitVec 2) (s : State) : State := tenantWatch priv watchNext s

def execWatchData (priv : BitVec 2) (s : State) : Host.Outcome State Fault Refusal := .next (watchData priv s)

/-! ### The start of a dump -/

def dumpWrite (w : W64) (s : State) : State := if bit w 63 then dumpStart s else s

/-- Some pending class stands at a reaction of DUMP_LEVEL or more. -/
def faultDumps (s : State) : Bool :=
  s.fc.classes.any fun c => c.pending && decide (fld s.expert.obConfig 47 45 ≤ c.level)

/-- DUMP_GO: by the host, for a fault, or for a hang of the compute part. -/
def dumpGo (c : DumpCause) (s : State) : State :=
  match c with
  | .host priv w => operatorWrite priv (dumpWrite w) s
  | .fault => if faultDumps s then dumpStart s else s
  | .partHang => if s.ct.part = .held then dumpStart s else s

def execDumpGo (c : DumpCause) (s : State) : Host.Outcome State Fault Refusal := .next (dumpGo c s)

end Sys2Proof.Machine
end

