-- ==== Sys2Proof/Machine/Registers.lean ====
section
/-!
DEFINITION. The value of every basic register that reads without an effect of its own (R118, R141, R168, R197, R227, R266, R284,
R313, R335, R376, R402, R432, R451, R479, R496, R519), and the counter window (R482). A register that takes words or orders
reads zero here; those that hand out successive words have their own commands.
-/
namespace Sys2Proof.Machine

/-- A field that saturates at its width. -/
def sat (hi lo v : Nat) : Nat := put hi lo (min v (2 ^ (hi + 1 - lo) - 1))

/-- A signed field, saturating. -/
def satInt (hi lo : Nat) (v : Int) : Nat :=
  let m : Int := 2 ^ (hi - lo)
  put hi lo ((max (-m) (min (m - 1) v)) % (2 * m)).toNat

/-- A value in units of 1/`n`, rounded down. -/
def units (n : Nat) (v : Rat) : Int := (v * n).floor

/-- Encoding of `CT.STATUS.PART` (R335). -/
def PartSt.code : PartSt → Nat
  | .run => 0
  | .reset => 1
  | .held => 2

/-! ### GLB, CFG, MS -/

def readGlb (s : State) (a : Nat) : Option W64 :=
  match a with
  | 0x00000 => some (BitVec.ofNat 64 glbVersion)
  | 0x00008 => some (word [put 63 48 s.cfg.topo.nodeId.toNat, put 47 42 (s.cfg.topo.carriers.getD (dieNat s) 0),
      put 41 36 (dieNat s), put 35 20 Config.romVer.toNat])
  | 0x00010 => some (word [put 63 63 (pinErrN s).toNat, put 62 62 (pinIrq s).toNat, put 61 61 (pinNmt s).toNat,
      put 60 60 s.ct.rstReq.toNat, put 59 56 s.cfg.stage, put 55 55 s.cfg.inService.toNat, put 54 52 s.sec.lc,
      put 51 50 s.ct.part.code])
  | _ => none

/-- Report and Locus that `CFG.STAGE_SEL` selects. -/
def selStage (s : State) : Nat := fld s.cfg.stageSel 11 8

def selLocus (s : State) : W128 := ((stageRep s (selStage s)).loci.take 256).getD (fld s.cfg.stageSel 7 0) 0

/-- Free space of the active half, in KiB. -/
def freeKib (s : State) : Nat := (halfSize s - sbEnd (activeHalf s).recs) / 1024

def readCfg (s : State) (a : Nat) : Option W64 :=
  let c := s.cfg
  match a with
  | 0x10000 => some (word [put 63 60 c.stage, put 59 58 c.lastStatus, put 57 57 c.inService.toNat, put 56 56 c.heldAt.toNat,
      put 31 4 c.bootSeq.toNat])
  | 0x10008 => some (word [put 63 63 c.valid.toNat, put 62 62 c.expertEn.toNat, put 61 61 c.copy.toNat, put 60 60 c.patch.toNat,
      put 59 58 c.profile, put 57 56 c.preset, put 55 48 c.sections, put 31 0 c.imageSeq.toNat])
  | 0x10010 => some c.stageSel
  | 0x10018 => some (stageWord s (selStage s))
  | 0x10020 => some (BitVec.ofNat 64 (selLocus s).toNat)
  | 0x10028 => some (BitVec.ofNat 64 ((selLocus s).toNat / 2 ^ 64))
  | 0x10030 =>
    let m := c.muster
    some (word [put 63 61 m.st, put 60 59 m.round, put 58 58 m.scope.toNat, put 57 52 m.sector, put 51 39 m.targets.length,
      put 38 26 (m.targets.filter fun h => !m.complete.contains h).length, put 25 15 c.fwBlocks])
  | 0x10038 => some (word [put 63 63 s.nv.activeHalf.toNat, put 62 47 (activeHalf s).gen.toNat, put 46 40 c.deferred.length,
      sat 39 8 (freeKib s), put 0 0 c.sbWriteFault.toNat])
  | _ => none

/-! ### FC, IN -/

def firstMsg (s : State) : W128 := (s.fc.first.map (·.msg)).getD 0

def firstInfo (s : State) : W64 :=
  match s.fc.first with
  | none => 0
  | some f => word [put 63 63 1, put 62 62 f.overflow.toNat, put 61 58 f.cls, put 57 55 f.level, put 54 54 f.escalated.toNat,
      put 53 46 f.merge, put 45 0 f.time]

def readFc (s : State) (a : Nat) : Option W64 :=
  let f := s.fc
  match a with
  | 0x20000 => some (word [put 63 63 (pinErrN s).toNat, put 62 62 (pinIrq s).toNat, put 61 61 (pinNmt s).toNat,
      put 60 60 s.ct.rstReq.toNat, put 59 59 f.ackStale.toNat, put 42 32 f.sources.length, put 31 0 f.processed.toNat])
  | 0x20008 => some (BitVec.ofNat 64 (firstMsg s).toNat)
  | 0x20010 => some (BitVec.ofNat 64 ((firstMsg s).toNat / 2 ^ 64))
  | 0x20018 => some (firstInfo s)
  | 0x20020 => some (word ((List.range 10).map fun c => put c c (classSt s c).pending.toNat))
  | 0x20030 => some f.classSel
  | 0x20038 =>
    let c := fld f.classSel 3 0
    some (word [put 63 48 (classSt s c).cnt.toNat, put 47 45 (classSt s c).level, put 44 44 (classSt s c).pending.toNat,
      put 43 33 (f.sources.filter fun x => x.cls = c && x.severe).length])
  | 0x20040 => some f.irqMask
  | 0x20048 => some (word [put 63 63 f.eventWait.isSome.toNat,
      put 62 55 (((List.range 8).filter fun n => (Tab.get f.meshWait n).isSome).map (2 ^ ·)).sum,
      put 54 54 (!f.collectors.isEmpty).toNat, put 28 16 f.wr.toNat, put 12 0 f.rd.toNat])
  | _ => if a = 0x20028 ∨ a = 0x20050 ∨ a = 0x20058 ∨ a = 0x20060 then some 0 else none

/-! ### CT -/

def selSector (s : State) : SectorSt := sectorSt s (fld s.ct.sectorSel 5 0)

def readCt (s : State) (a : Nat) : Option W64 :=
  let c := s.ct
  match a with
  | 0x30000 => some (word [put 63 52 c.cmds.length, put 51 40 c.waiting.length, put 39 38 c.part.code, put 37 37 c.rstReq.toNat,
      put 36 36 c.chipFail.toNat, put 31 0 c.timeouts.toNat])
  | 0x30008 => some 0
  | 0x30010 => some c.orderStatus
  | 0x30018 => some c.lastTimeout
  | 0x30020 => some c.sectorSel
  | 0x30028 =>
    let x := selSector s
    some (word [put 63 63 x.edge.toNat, put 62 62 x.unreachable.toNat, put 61 58 ((x.cur.map (·.op)).getD 0),
      put 57 54 x.queue.length])
  | 0x30030 => some (selSector s).fenced
  | _ => none

/-! ### LED, TWC, PER -/

def ctxState (s : State) (c : Nat) : W64 :=
  let x := ctxOf s c
  word [put 63 62 x.pstate, put 61 61 x.epoch.toNat, put 60 55 (x.plan.getD 0),
    put 54 48 (s.led.steps.filter fun y => y.ctx = c && y.epoch = x.epoch).length, put 31 0 x.base]

def readLed (s : State) (a : Nat) : Option W64 :=
  match a with
  | 0x40000 => some (word [put 63 63 s.led.staging.isSome.toNat, put 62 56 (residents s).length,
      put 55 44 (freePageList s).length, put 43 29 s.led.insts.length, put 28 14 (16384 - quotaUsed s)])
  | 0x40008 => some s.led.admitReg
  | 0x40010 => some s.led.ctxSel
  | 0x40018 => some (ctxState s (fld s.led.ctxSel 11 0))
  | _ => none

def readTwc (s : State) (a : Nat) : Option W64 :=
  match a with
  | 0x50000 => some (word [put 63 55 s.twc.xhold.length, put 54 54 s.twc.pathFault.toNat, sat 53 38 s.twc.queue.length])
  | 0x50008 => some s.twc.lastDiff
  | 0x50010 => some s.twc.lastStep
  | 0x50018 => some s.twc.lastElem
  | _ => none

def readPer (s : State) (a : Nat) : Option W64 :=
  let p := s.per
  match a with
  | 0x60000 => some (word [put 63 56 p.inService.toNat, put 55 48 p.inKat.toNat, put 47 47 p.pathFault.toNat,
      put 46 46 p.localising.toNat, sat 45 30 p.queue.length])
  | 0x60008 => some p.lastDiff
  | 0x60010 => some p.lastStep
  | 0x60018 => some p.lastLoc
  | 0x60020 => some (word [put 63 56 p.lastPass.toNat, put 55 48 p.fenced.toNat, put 31 0 p.runs.toNat])
  | _ => none

/-! ### SA -/

/-- A bit per lane of a cluster, at `lo`. -/
def laneBits (s : State) (n lo : Nat) (f : Lane → Bool) : Nat :=
  ((List.range 4).map fun l => put (lo + l) (lo + l) (f (laneOf s (4 * n + l))).toNat).sum

def ccStatus (s : State) (n : Nat) : W64 :=
  word [laneBits s n 60 (·.inService), laneBits s n 56 (·.inKat), laneBits s n 52 (·.fenced),
    put 51 47 (clusterOf s n).inq.length,
    ((List.range 4).map fun l => put (26 + 6 * l) (21 + 6 * l) (laneOf s (4 * n + l)).queue.length).sum,
    put 1 1 (clusterOf s n).pathFault.toNat, put 0 0 (decide (domainOf s n = .on)).toNat]

def readCluster (s : State) (n off : Nat) : Option W64 :=
  let c := clusterOf s n
  match off with
  | 0x000 => some (ccStatus s n)
  | 0x008 => some c.lastDiff
  | 0x010 => some c.lastStep
  | 0x018 => some c.lastElem
  | 0x020 => some (word [laneBits s n 60 (·.lastPass), put 31 0 c.katRuns.toNat])
  | _ => none

/-- Lanes in service. -/
def lanesIn (s : State) : Nat := (s.sa.lanes.filter (·.inService)).length

def readSa (s : State) (a : Nat) : Option W64 :=
  if a = 0x70800 then
    some (word [put 63 57 (lanesIn s), ((List.range 16).map fun n => put (41 + n) (41 + n) (decide (domainOf s n = .on)).toNat).sum,
      put 40 40 (decide (lanesIn s = 0)).toNat])
  else readCluster s ((a - 0x70000) / 0x1000) (a % 0x1000)

/-! ### MEM -/

def shedGroup (s : State) (n : Nat) : Nat :=
  let x := s.mem.sheds.getD n { st := .off, inFlight := 0, pendingEnable := false }
  (put 15 14 x.st.code + put 13 13 x.pendingEnable.toNat + put 12 12 (shedAllocated s n).toNat + sat 9 0 x.inFlight) *
    2 ^ (16 * n)

def readMem (s : State) (a : Nat) : Option W64 :=
  let m := s.mem
  match a with
  | 0x80000 => some (word [((List.range 4).map fun n => put (60 + n) (60 + n) (!(m.eng.getD n []).isEmpty).toNat).sum,
      put 59 54 ((m.eng.map fun q => q.length - 1).sum),
      put 53 39 (m.tags.filter fun t => t.1 < planStore && tagAlloc t.2).length, put 1 1 m.eraseFault.toNat, put 0 0 m.ueSeen.toNat])
  | 0x80008 => some (word ((List.range 4).map (shedGroup s)))
  | 0x80010 => some m.eraseStatus
  | 0x80018 => some m.eccLast
  | 0x80020 => some (word [put 63 53 (m.rowMaps.filter fun x => x.array = 0).length,
      put 52 42 (m.rowMaps.filter fun x => x.array = 1).length, sat 41 30 m.fieldMaps, put 29 24 m.lastMapInst,
      put 23 14 m.lastMapRow, put 0 0 m.spareOut.toNat])
  | 0x80028 => some m.tagSel
  | 0x80030 => some (tagOf s (fld m.tagSel 14 0))
  | _ => none

/-! ### VU -/

/-- The Paddock entry that `VU.PADDOCK_SEL` selects. -/
def padWord (s : State) (h : Huid) : W64 :=
  let p := padOf s h
  let free := p.st ≠ .service || p.hostFenced || isSpareLabel s (labelOf s h) || !corePresent s h
  word [put 63 61 p.st.code, put 60 59 p.clean, put 58 57 (min 3 (sdcCount s h)),
    put 56 41 (if free then 0xFFFF else (labelOf s h).toNat), put 40 0 p.sinceMs]

def distilWord (s : State) : W64 :=
  match s.vu.distil with
  | none => word [put 1 0 s.vu.distilResult]
  | some d => word [put 63 61 d.phase, put 60 45 d.huid.toNat, put 44 32 d.terms, sat 31 8 d.probes, put 1 0 s.vu.distilResult]

def readVu (s : State) (a : Nat) : Option W64 :=
  let v := s.vu
  match a with
  | 0x90000 => some (word [put 63 57 v.procs.length, sat 56 41 v.waiting.length,
      put 40 28 (v.paddock.filter fun p => p.2.st ≠ .service).length,
      put 27 15 (v.paddock.filter fun p => p.2.st = .confirmed).length, put 14 14 v.distil.isSome.toNat,
      put 0 0 v.unresolvedSeen.toNat])
  | 0x90008 => some v.lastVerdict
  | 0x90010 => some v.lastStep
  | 0x90018 => some v.lastElem
  | 0x90020 => some v.padSel
  | 0x90028 => some (padWord s (BitVec.ofNat 16 (fld v.padSel 15 0)))
  | 0x90030 => some (distilWord s)
  | _ => none

/-! ### YM -/

/-- Encoding of R284. -/
def StandbySt.code : StandbySt → Nat
  | .retired => 0
  | .writing => 1
  | .flipping => 2
  | .draining => 3

def remapWord (s : State) (n l : Nat) : W64 :=
  let label := mkHuid ucCORE n l
  let h := physOf s label
  word [put 63 58 (huidIndex h), put 57 57 (isSpareLabel s label).toNat, put 56 56 (!s.ym.unreachCores.contains h).toNat]

def linkWord (s : State) (h : Huid) : W64 :=
  match linkPorts s h with
  | [] => 0
  | p :: _ =>
    let l := linkSt s p
    word [put 63 62 l.st.code, put 61 58 l.full, put 57 54 l.trained, put 53 46 (linkWeight l)]

def readYm (s : State) (a : Nat) : Option W64 :=
  let y := s.ym
  match a with
  | 0xA0000 => some (word [put 63 63 y.live.toNat, put 62 61 y.standby.code, put 60 60 y.pending.toNat,
      put 59 47 (liveRouters s).length, sat 46 34 y.unreach.length, put 33 2 y.installs.toNat, put 1 1 y.forced.toNat,
      put 0 0 y.fcpFault.toNat])
  | 0xA0008 => some y.remapSel
  | 0xA0010 => some (remapWord s (fld y.remapSel 11 6) (fld y.remapSel 5 0))
  | 0xA0018 => some y.linkSel
  | 0xA0020 => some (linkWord s (BitVec.ofNat 16 (fld y.linkSel 15 0)))
  | 0xA0028 => some (word [put 63 32 y.lastInj.toNat, put 31 0 y.lastEj.toNat])
  | _ => none

/-! ### HX -/

def HxStandby.code : HxStandby → Nat
  | .retired => 0
  | .ready => 1
  | .draining => 2

def portWord (s : State) (p : Nat) : W64 :=
  let x := hxPort s p
  word [put 63 61 x.st.code, put 60 59 x.width, put 58 58 x.swap.toNat, put 57 56 x.polarity.toNat, put 55 50 x.peerDie.toNat,
    put 49 48 x.peerPort.toNat, sat 47 40 x.retrains, sat 39 32 x.attempts, put 31 27 x.replay.length]

def mapWord (s : State) (d : Nat) : W64 :=
  let live := put 63 63 ((liveDies s).contains d).toNat
  match Tab.get s.hx.map d with
  | none => word [live]
  | some r => word [live, put 62 62 r.hostOk.toNat, put 61 58 r.stage, put 57 42 r.ports.toNat, put 41 26 r.version.toNat,
      put 25 10 r.boot.toNat, put 9 9 r.inService.toNat]

def barrierWord (s : State) : W64 :=
  let x := barrierOf s s.hx.lastBarrier
  word [put 63 60 s.hx.lastBarrier, put 59 58 x.st.code, put 57 50 x.gen.toNat, put 49 0 x.tRel]

def readHx (s : State) (a : Nat) : Option W64 :=
  let h := s.hx
  match a with
  | 0xB0000 => some (word [put 63 63 h.live.toNat, put 62 61 h.standby.code, put 60 55 (coordinator s),
      put 54 49 ((nodeLeader s).getD 0), put 48 48 (nodeLeader s).isSome.toNat, put 47 40 (liveDies s).length,
      put 39 39 (isCoord s).toNat, put 38 38 h.disconnected.toNat,
      ((List.range 4).map fun p => put (34 + p) (34 + p) (decide ((hxPort s p).st = .active)).toNat).sum,
      put 33 2 h.installs.toNat, put 1 1 h.forced.toNat])
  | 0xB0008 => some (portWord s 0)
  | 0xB0010 => some (portWord s 1)
  | 0xB0018 => some (portWord s 2)
  | 0xB0020 => some (portWord s 3)
  | 0xB0028 => some h.mapSel
  | 0xB0030 => some (mapWord s (fld h.mapSel 5 0))
  | 0xB0038 =>
    let d := fld h.mapSel 5 0
    some (word [put 63 48 (Tab.getD h.route0 d 0).toNat, put 47 32 (Tab.getD h.route1 d 0).toNat])
  | 0xB0040 => some s.now
  | 0xB0048 => some (word [put 63 63 h.locked.toNat, put 62 62 (isCoord s).toNat, put 61 56 h.parentDie.toNat,
      put 55 54 h.parentPort.toNat, satInt 53 32 h.offset, satInt 31 12 h.rate])
  | 0xB0050 => some h.barrierMask
  | 0xB0058 => some 0
  | 0xB0060 => some (barrierWord s)
  | _ => none

/-! ### FR -/

def readFr (s : State) (a : Nat) : Option W64 :=
  let f := s.fr
  match a with
  | 0xC0000 => some (word [((List.range 16).map fun c => put (48 + c) (48 + c) (channelSession s c).isSome.toNat).sum,
      put 47 32 f.chanFenced.toNat, put 31 31 s.nv.selector.toNat, put 30 30 f.bankOk.toNat, put 29 23 s.cfg.deferred.length])
  | 0xC0010 => some (word [put 63 61 f.bistStatus, put 60 60 f.failOvf.toNat, put 59 51 f.failLog.length, sat 50 40 f.failRows,
      sat 39 29 s.mem.withheld.length])
  | 0xC0018 => some f.failSel
  | 0xC0020 => some (f.failLog.getD (fld f.failSel 7 0) 0)
  | 0xC0030 => some f.testLast
  | 0xC0048 => some (word [put 63 61 f.pkgState, put 60 57 f.pkgCode, put 56 25 f.pkgReceived])
  | 0xC0050 => some (word [put 62 60 f.fuseStatus, put 59 48 f.fuseDone, put 47 36 s.nv.fuses.length])
  | _ => if a = 0xC0008 ∨ a = 0xC0028 ∨ a = 0xC0038 ∨ a = 0xC0040 then some 0 else none

/-! ### TS -/

def chanWord (s : State) (n : Nat) : W64 :=
  match s.cfg.topo.supply.chans[n]?, s.ts.chans[n]? with
  | some c, some x => word [put 63 60 c.kind, put 59 59 x.stale.toNat, put 58 52 c.addr, satInt 31 0 x.value]
  | _, _ => 0

def nodeWord (s : State) (n : Nat) : W64 :=
  match s.ts.nodes[n]? with
  | some x => word [satInt 63 52 (units 8 x.temp), sat 51 40 (units 8 x.power).toNat, put 39 38 x.level]
  | none => 0

def DomSt.code : DomSt → Nat
  | .off => 0
  | .poweringUp => 1
  | .on => 2
  | .shuttingDown => 3

def readTs (s : State) (a : Nat) : Option W64 :=
  let t := s.ts
  match a with
  | 0xD0000 => some (word [sat 63 48 (units 1 t.pIn).toNat, sat 47 40 (units 4 t.pSilorn).toNat, satInt 39 28 (units 8 t.tCp),
      put 27 27 (windowsHold s).toNat, put 26 26 t.alert.toNat, sat 25 18 (t.chans.filter (·.stale)).length,
      put 17 0 t.rounds.toNat])
  | 0xD0008 => some (word ((List.range 24).map fun d => put (2 * d + 1) (2 * d) (domainOf s d).code))
  | 0xD0010 => some (word [put 47 24 t.failed.toNat, put 23 0 t.pending.toNat])
  | 0xD0018 => some t.chanSel
  | 0xD0020 => some (chanWord s (fld t.chanSel 6 0))
  | 0xD0028 => some t.nodeSel
  | 0xD0030 => some (nodeWord s (fld t.nodeSel 6 0))
  | _ => none

/-! ### SEC -/

def readSec (s : State) (a : Nat) : Option W64 :=
  let x := s.sec
  match a with
  | 0xE0000 => some (word [put 63 61 x.lc, put 60 60 (liveSeed s).isSome.toNat, put 59 59 x.dDerived.toNat,
      put 58 58 x.unlocked.toNat, put 57 56 x.policy, put 55 53 (s.nv.otp.seeds.filter fun d => !d.programmed).length])
  | 0xE0008 => some (word [put 55 53 x.lcStatus, put 52 50 x.nextLc])
  | 0xE0020 => some (word [put 54 52 x.klStatus])
  | 0xE0030 => some (word [put 50 50 x.bound.isSome.toNat, put 49 38 (x.bound.getD 0)])
  | 0xE0040 => some (word [put 50 48 x.sarState, sat 47 30 x.sarWords.length])
  | 0xE0058 => some x.certSel
  | 0xE0070 => some (word [put 63 51 x.raised.toNat, put 50 43 x.almLevel.toNat, sat 42 39 x.unlockFails])
  | _ => if [0xE0010, 0xE0018, 0xE0028, 0xE0038, 0xE0048, 0xE0050, 0xE0060, 0xE0068].contains a then some 0 else none

/-! ### OB -/

def selEntry (s : State) : W128 := (s.ob.rings.getD (fld s.ob.ringSel 10 6) []).getD (fld s.ob.ringSel 5 0) 0

/-- LAYER_IDX that the tenant of the binding reads back. -/
def watchSel (s : State) : Nat := ((s.sec.bound.bind (watchOf s)).map (·.sel)).getD 0

def obValue (s : State) (a : Nat) : Option W64 :=
  let o := s.ob
  match a with
  | 0xF0000 => some (word [put 63 63 o.tackOk.toNat, put 62 62 (decide (o.dumpState = dsRUNNING)).toNat,
      put 61 61 (bit o.traceCtrl 63).toNat, put 60 60 o.writeFault.toNat])
  | 0xF0010 => some (word [put 63 63 o.sampleRace.toNat, put 31 0 o.snapSeq.toNat])
  | 0xF0018 => some o.ringSel
  | 0xF0020 => some (BitVec.ofNat 64 (selEntry s).toNat)
  | 0xF0028 => some (BitVec.ofNat 64 ((selEntry s).toNat / 2 ^ 64))
  | 0xF0030 => some o.traceCtrl
  | 0xF0038 => some (word [put 62 51 (watchSel s)])
  | 0xF0050 => some (word [put 63 62 o.dumpState, put 61 61 o.dumpSlot.toNat, put 60 42 o.dumpUnread.toNat,
      put 41 23 o.dumpOff.toNat, put 22 0 o.dumpSeq.toNat])
  | _ => if a = 0xF0008 ∨ a = 0xF0040 ∨ a = 0xF0048 then some 0 else none

/-- OB's registers read zero while its domain is off or has failed (R441). -/
def readOb (s : State) (a : Nat) : Option W64 := (obValue s a).map fun v => if obOn s then v else 0

/-! ### The whole map -/

/-- The basic register at an address; none: no register there. -/
def basicReg (s : State) (a : Nat) : Option W64 :=
  match a / 0x10000 with
  | 0x0 => readGlb s a
  | 0x1 => readCfg s a
  | 0x2 => readFc s a
  | 0x3 => readCt s a
  | 0x4 => readLed s a
  | 0x5 => readTwc s a
  | 0x6 => readPer s a
  | 0x7 => readSa s a
  | 0x8 => readMem s a
  | 0x9 => readVu s a
  | 0xA => readYm s a
  | 0xB => readHx s a
  | 0xC => readFr s a
  | 0xD => readTs s a
  | 0xE => readSec s a
  | 0xF => readOb s a
  | _ => none

/-! ### The counter window -/

/-- Bank that a window read returns; one sampled in the cycle of a SNAP returns what that SNAP completes (R484). -/
def counterAt (s : State) (race : Bool) (k : Nat) : W64 :=
  BitVec.ofNat 64 (Tab.getD (if race then s.ob.active else s.ob.completed) k 0)

def ctxCounterAt (s : State) (race : Bool) (plan : Option Nat) (j : Nat) : W64 :=
  match plan with
  | some p => BitVec.ofNat 64 (Tab.getD (if race then s.ob.ctxActive else s.ob.ctxCompleted) (p * 64 + j) 0)
  | none => 0

/-- The window at an address, for the plan whose block is shown. -/
def windowWord (s : State) (race : Bool) (plan : Option Nat) (a : Nat) : W64 :=
  if ¬ obOn s then 0
  else if a < 0x103000 then counterAt s race ((a - 0x100000) / 8)
  else if 0x104000 ≤ a ∧ a < 0x104200 then ctxCounterAt s race plan ((a - 0x104000) / 8)
  else 0

end Sys2Proof.Machine
end

