-- ==== Sys2Proof/Machine/Dumps.lean ====
section
/-!
DEFINITION. Dumps section by section (R494), and the answers to Tack Room writes (R488, R512). The layout of a section's body is
log entry 11.
-/
namespace Sys2Proof.Machine

def hex8 (base n : Nat) : List Nat := (List.range n).map fun i => base + 8 * i

/-- Addresses of a unit's basic registers; the clusters' are those of SA. -/
def unitRegs (u : Nat) : List Nat :=
  match u with
  | 0 => hex8 0x00000 3
  | 1 => hex8 0x10000 6
  | 2 => hex8 0x10030 2
  | 3 => [0x20048]
  | 4 => []
  | 5 => hex8 0x40000 4
  | 6 => hex8 0x50000 4
  | 7 => hex8 0x60000 5
  | 8 => ((List.range 16).flatMap fun n => hex8 (0x70000 + 0x1000 * n) 5) ++ [0x70800]
  | 9 => hex8 0x80000 7
  | 10 => hex8 0x90000 7
  | 11 => hex8 0xA0000 6
  | 12 => hex8 0x20000 9 ++ hex8 0x20050 3
  | 13 => hex8 0x30000 7
  | 14 => hex8 0xB0000 13
  | 15 => hex8 0xC0000 11
  | 16 => hex8 0xD0000 7
  | 17 => hex8 0xE0000 15
  | _ => hex8 0xF0000 11

/-- Power domains of a unit; none: it lies outside them (R437). -/
def unitDomains (u : Nat) : List Nat :=
  match u with
  | 7 => [20]
  | 8 => List.range 16
  | 9 => [16, 17, 18, 19]
  | 14 => [22]
  | 15 => [21]
  | 18 => [23]
  | _ => []

/-- Every domain of the unit is OFF. -/
def unitOff (s : State) (u : Nat) : Bool := !(unitDomains u).isEmpty && (unitDomains u).all fun d => domainOf s d = .off

def wordsBytes (l : List Nat) : Bytes := l.flatMap fun x => leBytes 8 x

/-- Messages of ring records, each with its record's header. -/
def recBytes (l : List RingRec) : Bytes :=
  l.flatMap fun r => leBytes 16 r.header.toNat ++ r.msgs.flatMap fun m => leBytes 16 m.toNat

/-- The further item of a unit. -/
def extraItem (s : State) (u : Nat) : Bytes :=
  match u with
  | 3 => recBytes s.fc.ring
  | 12 => s.fc.sources.flatMap fun x =>
      leBytes 16 x.key.toNat ++ wordsBytes [x.cls, x.die, x.level, x.last, x.severe.toNat + 2 * x.acked.toNat]
  | 13 => s.ct.cmds.flatMap fun x => wordsBytes [x.1, x.2.cls, x.2.target.toNat, x.2.ctx, x.2.ctxValid.toNat]
  | _ => []

/-- A section's content: basic registers, event ring, local collector latch, and the further item. -/
def sectionBytes (s : State) (u : Nat) : Bytes :=
  wordsBytes ((unitRegs u).map fun a => ((basicReg s a).getD 0).toNat) ++
    ((s.ob.rings.getD u []).flatMap fun e => leBytes 16 e.toNat) ++
    recBytes ((Tab.get s.fc.collectors u).getD []) ++ extraItem s u

def secOK := 0
def secUNREADABLE := 1
def secOFF := 2

/-- Write a section: records of stream 4, none longer than a page allows, each with the unit and its status before the
content. -/
def writeSection (u status : Nat) (b : Bytes) (s : State) : State :=
  (chunks 4048 (b.length / 4048 + 1) b).foldl (fun s c => tackWrite 4 4 (wordsBytes [u + 256 * status] ++ c) s) s

/-- The section of a unit is over; after the last one the dump is done. -/
def sectionEnd (u : Nat) (s : State) : State :=
  s.mDump fun o => { o with dumpNext := u + 1, dumpState := if u + 1 < 19 then dsRUNNING else dsDONE }

/-- A section is being read. -/
def dumping (s : State) : Bool := s.ob.dumpState = dsRUNNING && s.ob.dumpNext < 19 && obOn s

/-- DUMP_SECTION_DONE. -/
def dumpSectionDone (s : State) : State :=
  if ¬ dumping s then s else
  let u := s.ob.dumpNext
  if unitOff s u then
    sectionEnd u (writeSection u secOFF [] (s.mOb fun o => { o with dumpOff := o.dumpOff ||| (1#19 <<< u) }))
  else sectionEnd u (writeSection u secOK (sectionBytes s u) s)

def execDumpSectionDone (s : State) : Host.Outcome State Fault Refusal := .next (dumpSectionDone s)

/-- DUMP_SECTION_TIMEOUT. -/
def dumpSectionTimeout (s : State) : State :=
  if ¬ dumping s then s else
  let u := s.ob.dumpNext
  let s := writeSection u secUNREADABLE [] (s.mOb fun o => { o with dumpUnread := o.dumpUnread ||| (1#19 <<< u) })
  sectionEnd u (reportSelf uOB 0 0xA8 0 none s)

def execDumpSectionTimeout (s : State) : Host.Outcome State Fault Refusal := .next (dumpSectionTimeout s)

/-- TACK_RSP: an error is reported, and the record is lost. -/
def tackRsp (p : Ingress) (s : State) : State :=
  if fld (p.pre 0) 49 48 = 1 then reportSelf uOB 0 0xAA 0 none (s.mOb fun o => { o with writeFault := true }) else s

def execTackRsp (p : Ingress) (s : State) : Host.Outcome State Fault Refusal :=
  .next (ingress 0x17 none p (tackRsp p) s)

end Sys2Proof.Machine
end

