-- ==== Sys2Proof/Machine/HostPort.lean ====
section
/-!
DEFINITION. REGISTER_WRITE and REGISTER_READ (R507, R518): privilege (R457 to R459), the registers that take a value, those
that clear bits, those that take successive words, and the orders that a register word carries.
-/
namespace Sys2Proof.Machine

/-- The access's address: every register lies on a multiple of 8 (R6). -/
def regAddr (a : BitVec 22) : Nat := a.toNat / 8 * 8

/-! ### Registers that take a value (R7, R8) -/

/-- A field of a selector that takes `v` when it is at most `most`; else it keeps its value (R8). -/
def keepFld (old w : W64) (hi lo most : Nat) : W64 := if fld w hi lo ≤ most then setFld old hi lo (fld w hi lo) else old

/-- Clear a flag whose bit is written with 1. -/
def clr (w : W64) (k : Nat) (flag : Bool) : Bool := flag && !bit w k

/-- The next word of a buffer of `n` words; one more starts over. -/
def nextWord (n : Nat) (l : List W64) (w : W64) : List W64 := if n ≤ l.length then [w] else l ++ [w]

/-- Bits of `OB.TRACE_CTRL` that are fields. -/
def traceMask : W64 := BitVec.ofNat 64 (2 ^ 64 - 2 ^ 21)

def writeLow (a : Nat) (w : W64) (s : State) : State :=
  match a with
  | 0x10010 => s.mCfg fun c => { c with stageSel := setFld (keepFld c.stageSel w 11 8 9) 7 0 (fld w 7 0) }
  | 0x10038 => s.mCfg fun c => { c with sbWriteFault := clr w 0 c.sbWriteFault }
  | 0x20000 => s.mFc fun f => { f with ackStale := clr w 59 f.ackStale }
  | 0x20030 => s.mFc fun f => { f with classSel := keepFld f.classSel w 3 0 9 }
  | 0x20040 => s.mFc fun f => { f with irqMask := word [put 9 0 (fld w 9 0)] }
  | 0x20058 => s.mFc fun f => { f with inj0 := w }
  | 0x20060 => s.mFc fun f => { f with inj1 := w }
  | 0x30020 => s.mCt fun c => { c with sectorSel := word [put 5 0 (fld w 5 0)] }
  | 0x40010 => s.mLed fun l => { l with ctxSel := word [put 11 0 (fld w 11 0)] }
  | 0x50000 => s.mTwc fun t => { t with pathFault := clr w 54 t.pathFault }
  | 0x60000 => s.mPer fun p => { p with pathFault := clr w 47 p.pathFault }
  | 0x80000 => s.mMem fun m => { m with eraseFault := clr w 1 m.eraseFault, ueSeen := clr w 0 m.ueSeen }
  | 0x80020 => s.mMem fun m => { m with spareOut := clr w 0 m.spareOut }
  | 0x80028 => s.mMem fun m => { m with tagSel := keepFld m.tagSel w 14 0 24575 }
  | _ =>
    if 0x70000 ≤ a ∧ a < 0x80000 ∧ a % 0x1000 = 0 then
      s.mCluster ((a - 0x70000) / 0x1000) fun c => { c with pathFault := clr w 1 c.pathFault }
    else s

def writeHigh (a : Nat) (w : W64) (s : State) : State :=
  match a with
  | 0x90000 => s.mVu fun v => { v with unresolvedSeen := clr w 0 v.unresolvedSeen }
  | 0x90020 => s.mVu fun v => { v with padSel := word [put 15 0 (fld w 15 0)] }
  | 0xA0000 => s.mYm fun y => { y with forced := clr w 1 y.forced, fcpFault := clr w 0 y.fcpFault }
  | 0xA0008 => s.mYm fun y => { y with remapSel := word [put 11 0 (fld w 11 0)] }
  | 0xA0018 => s.mYm fun y => { y with linkSel := word [put 15 0 (fld w 15 0)] }
  | 0xB0000 => s.mHx fun h => { h with forced := clr w 1 h.forced }
  | 0xB0028 => s.mHx fun h => { h with mapSel := word [put 5 0 (fld w 5 0)] }
  | 0xB0050 => s.mHx fun h => { h with barrierMask := w }
  | 0xC0018 => s.mFr fun f => { f with failSel := word [put 7 0 (fld w 7 0)] }
  | 0xD0000 => s.mTs fun t => { t with alert := clr w 26 t.alert }
  | 0xD0018 => s.mTs fun t => { t with chanSel := word [put 6 0 (fld w 6 0)] }
  | 0xD0028 => s.mTs fun t => { t with nodeSel := keepFld t.nodeSel w 6 0 64 }
  | 0xE0010 => s.mSec fun x => { x with provData := nextWord 1025 x.provData w }
  | 0xE0028 => s.mSec fun x => { x with klData := nextWord 8 x.klData w }
  | 0xE0038 => s.mSec fun x => { x with tokData := nextWord 2 x.tokData w, bound := none }
  | 0xE0048 => s.mSec fun x => { x with nonce := nextWord 2 x.nonce w }
  | 0xE0058 => s.mSec fun x => { x with certSel := word [put 1 0 (fld w 1 0)], certPos := 0 }
  | 0xF0000 => if obOn s then s.mOb fun o => { o with writeFault := clr w 60 o.writeFault } else s
  | 0xF0018 => if obOn s then s.mOb fun o => { o with ringSel := setFld (keepFld o.ringSel w 10 6 18) 5 0 (fld w 5 0) } else s
  | 0xF0030 => if obOn s then s.mOb fun o => { o with traceCtrl := w &&& traceMask } else s
  | _ => s

/-- A write that changes the register itself; read-only bits ignore it. -/
def basicWrite (a : Nat) (w : W64) (s : State) : State := if a < 0x90000 then writeLow a w s else writeHigh a w s

/-! ### Registers whose word is an order -/

/-- Read-backs of a fuse run that the port starts: each is a free value. -/
def fuseBits : Nat → State → List Bool × State
  | 0, s => ([], s)
  | n + 1, s =>
    let (k, s) := s.draw
    let (l, s) := fuseBits n s
    (bit (Config.free k) 0 :: l, s)

/-- `SEC.LC_CTRL`. A reserved OP with GO is refused (R466). -/
def lcCtrl (priv : BitVec 2) (w : W64) (s : State) : State :=
  match fld w 63 60 with
  | 1 => lcRow 1 priv w programRoot s
  | 2 => lcRow 2 priv w (advanceLc (fld w 58 56)) s
  | 3 => lcRow 3 priv w genIdentity s
  | 4 => lcRow 4 priv w installCert s
  | 5 => lcRow 5 priv w programWrapped s
  | 6 => lcRow 6 priv w setMinSeq s
  | 7 => lcRow 7 priv w unlockChallenge s
  | 8 => lcRow 8 priv w unlockResponse s
  | _ => operatorWrite priv (fun s => if bit w 59 then endOrder lsREFUSED s else s) s

def pkgCtrl (priv : BitVec 2) (w : W64) (s : State) : State :=
  match fld w 63 62 with
  | 1 => pkgRow 1 priv w (pkgStart (fld w 31 0)) s
  | 2 => pkgRow 2 priv w pkgClose s
  | 3 => pkgRow 3 priv w pkgAbort s
  | _ => testOrder (pkgAllowed s priv) priv id s

/-- `SEC.SAR_CTRL`. -/
def sarCtrl (priv : BitVec 2) (w : W64) (s : State) : State :=
  if mayReport s priv (fld w 63 52) then
    let s := answer hsOK 0 s
    if bit w 51 then sarGo (fld w 63 52) s else s
  else denied priv s

/-- A write of a register whose word is an order; none: the register at the address is no such one. -/
def orderReg (priv : BitVec 2) (a : Nat) (w : W64) (s : State) : Option State :=
  match a with
  | 0x20028 => some (operatorWrite priv (fcAck w) s)
  | 0x20050 => some (injectWrite priv (injectGo w) s)
  | 0x30008 => some (ctOrderWrite priv w (ctOrder fpHOST w) s)
  | 0xB0058 => some (hostBarrier priv w s)
  | 0xC0008 => some (testOrder (factoryAccess s priv) priv (hostBist w) s)
  | 0xC0028 => some (testOrder (factoryAccess s priv) priv (hostTest w) s)
  | 0xC0038 => some (pkgCtrl priv w s)
  | 0xC0040 => some (testOrder (pkgAllowed s priv) priv (pkgWord w) s)
  | 0xC0050 =>
    let (l, s) := fuseBits (s.mem.rowMaps.filter fun m => m.origin ≠ 3).length s
    some (testOrder (s.sec.lc = lcFACTORY) priv (fuseProgram w l) s)
  | 0xE0008 => some (lcCtrl priv w s)
  | 0xE0020 => some (operatorWrite priv (fun s => if bit w 55 then keyload (fld w 63 56) s else s) s)
  | 0xE0030 => some (tenantWrite priv (fun s => if bit w 51 then tokenPresent (fld w 63 52) s else s) s)
  | 0xE0040 => some (sarCtrl priv w s)
  | 0xF0008 => some (operatorWrite priv (snapWrite w) s)
  | 0xF0038 => some (watchGo priv w s)
  | 0xF0048 => some (operatorWrite priv (dumpWrite w) s)
  | _ => none

/-! ### Privilege -/

/-- Writes that a TENANT may make of registers without an order (R458). -/
def tenantMayWrite (s : State) (a : Nat) : Bool := a = 0xE0038 || a = 0xE0058 || (a = 0xE0048 && s.sec.bound.isSome)

def mayWrite (s : State) (priv : BitVec 2) (a : Nat) : Bool := isOperator s priv || (priv = 0 && tenantMayWrite s a)

/-- An access to an expert register at its address (R518). -/
def expertAccess (priv : BitVec 2) (a : Nat) (f : State → State) (s : State) : State :=
  if ¬ isOperator s priv then denied priv s
  else if ¬ s.cfg.expertEn ∨ (expertFields a).isNone then answer hsUNMAPPED 0 s
  else f s

/-! ### REGISTER_WRITE -/

/-- A write of an expert register: refused once S9 has ended. -/
def writeExpert (priv : BitVec 2) (a : Nat) (w : W64) (s : State) : State :=
  expertAccess priv a (fun s => if s.cfg.inService then denied priv s else expertWrite a w (answer hsOK 0 s)) s

/-- A write of a basic register. -/
def writeBasic (priv : BitVec 2) (a : Nat) (w : W64) (s : State) : State :=
  if (basicReg s a).isNone then answer hsUNMAPPED 0 s else
  match orderReg priv a w s with
  | some t => t
  | none => if mayWrite s priv a then basicWrite a w (answer hsOK 0 s) else denied priv s

def registerWrite (priv : BitVec 2) (addr : BitVec 22) (w : W64) (s : State) : State :=
  let a := regAddr addr
  hrp (fun s =>
    if a < 0x100000 then writeBasic priv a w s
    else if a < 0x200000 then (if isOperator s priv then answer hsOK 0 s else denied priv s)
    else writeExpert priv a w s) s

def execRegisterWrite (priv : BitVec 2) (addr : BitVec 22) (w : W64) (s : State) : Host.Outcome State Fault Refusal :=
  .next (registerWrite priv addr w s)

/-! ### REGISTER_READ -/

/-- Clear NEW, bit 0, of a register word. -/
def clearNew (w : W64) : W64 := setFld w 0 0 0

/-- What a read clears: the NEW flags and SAMPLE_RACE. -/
def readClears (a : Nat) (s : State) : State :=
  match a with
  | 0x30010 => s.mCt fun c => { c with orderStatus := clearNew c.orderStatus }
  | 0x30018 => s.mCt fun c => { c with lastTimeout := clearNew c.lastTimeout }
  | 0x40008 => s.mLed fun l => { l with admitReg := clearNew l.admitReg }
  | 0x50008 => s.mTwc fun t => { t with lastDiff := clearNew t.lastDiff }
  | 0x60008 => s.mPer fun p => { p with lastDiff := clearNew p.lastDiff }
  | 0x80010 => s.mMem fun m => { m with eraseStatus := clearNew m.eraseStatus }
  | 0x80018 => s.mMem fun m => { m with eccLast := clearNew m.eccLast }
  | 0x90008 => s.mVu fun v => { v with lastVerdict := clearNew v.lastVerdict }
  | 0xC0030 => s.mFr fun f => { f with testLast := clearNew f.testLast }
  | 0xF0010 => if obOn s then s.mOb fun o => { o with sampleRace := false } else s
  | _ =>
    if 0x70000 ≤ a ∧ a < 0x80000 ∧ a % 0x1000 = 8 then
      s.mCluster ((a - 0x70000) / 0x1000) fun c => { c with lastDiff := clearNew c.lastDiff }
    else s

/-- Registers that hand out successive words, or that have rights of their own. -/
def wordReg (priv : BitVec 2) (a : Nat) (s : State) : Option State :=
  match a with
  | 0xE0018 => some (provOut priv s)
  | 0xE0050 => some (sarData priv s)
  | 0xE0060 => some (certData priv s)
  | 0xE0068 => some (dumpKey priv s)
  | 0xF0040 => some (watchData priv s)
  | _ => none

/-- Registers that a TENANT may read (R458). -/
def tenantMayRead (s : State) (a : Nat) : Bool :=
  a = 0x00000 || a = 0xE0000 || a = 0xE0058 || (a = 0xE0040 && s.sec.bound.isSome)

def mayRead (s : State) (priv : BitVec 2) (a : Nat) : Bool := isOperator s priv || (priv = 0 && tenantMayRead s a)

def readBasic (priv : BitVec 2) (a : Nat) (s : State) : State :=
  match basicReg s a with
  | none => answer hsUNMAPPED 0 s
  | some v =>
    match wordReg priv a s with
    | some t => t
    | none => if mayRead s priv a then readClears a (answer hsOK v s) else denied priv s

/-- A window read that a SNAP's cycle samples sets SAMPLE_RACE (R484). -/
def raceMark (race : Bool) (s : State) : State := if race ∧ obOn s then s.mOb fun o => { o with sampleRace := true } else s

/-- A read of the counter window: at OPERATOR privilege the block is that of `LED.CTX_SEL`; a TENANT reads the block of its
binding only (R482, R485). -/
def readWindow (priv : BitVec 2) (a : Nat) (race : Bool) (s : State) : State :=
  if isOperator s priv then
    raceMark race (answer hsOK (windowWord s race (ctxOf s (fld s.led.ctxSel 11 0)).plan a) s)
  else
    match s.sec.bound with
    | some c =>
      if priv = 0 ∧ 0x104000 ≤ a ∧ a < 0x104200 then raceMark race (answer hsOK (windowWord s race (ctxOf s c).plan a) s)
      else denied priv s
    | none => denied priv s

def readExpert (priv : BitVec 2) (a : Nat) (s : State) : State :=
  expertAccess priv a (fun s => answer hsOK (expertGet s.expert a) s) s

def registerRead (priv : BitVec 2) (addr : BitVec 22) (snapRace : Bool) (s : State) : State :=
  let a := regAddr addr
  hrp (fun s =>
    if a < 0x100000 then readBasic priv a s
    else if a < 0x200000 then readWindow priv a snapRace s
    else readExpert priv a s) s

def execRegisterRead (priv : BitVec 2) (addr : BitVec 22) (snapRace : Bool) (s : State) : Host.Outcome State Fault Refusal :=
  .next (registerRead priv addr snapRace s)

end Sys2Proof.Machine
end

