-- ==== Sys2Proof/Machine/Pins.lean ====
section
/-!
DEFINITION. The remaining ports: egress credits (R510), WRST_N (R329, R502), loss of the supplies (R425, R436, R501), packets
of no ingress kind (R511) and the TAP (R456).
-/
namespace Sys2Proof.Machine

/-! ### Mesh Attach ports -/

/-- A credit strobe returns CCNT flits, 0 for 16, of a class; waiting packets may leave. Classes 2 and 3 are reserved. -/
def egressCredit (port cls ccnt : Nat) (s : State) : State :=
  if ¬ s.ports.slnUp ∨ 2 ≤ cls then s else
  let n := if ccnt = 0 then 16 else ccnt
  let k := creditKey port cls
  s.mPorts fun p => { p with credits := Tab.set p.credits k (Tab.getD p.credits k 0 + n) }.drain

def execEgressCredit (port : BitVec 3) (cls : BitVec 2) (ccnt : BitVec 4) (s : State) : Host.Outcome State Fault Refusal :=
  .next (egressCredit port.toNat cls.toNat ccnt.toNat s)

/-- A packet whose KIND is not an ingress kind. -/
def nonIngressKind (p : Ingress) (s : State) : State :=
  if s.ports.slnUp ∧ (ingressClass p.kind).isNone then badMsg (1 + p.port.toNat) s else s

def execNonIngressKindPacket (p : Ingress) (s : State) : Host.Outcome State Fault Refusal := .next (nonIngressKind p s)

/-! ### WRST_N -/

/-- WRST_N is asserted: the compute part is held in reset. While RST_N is low only the level is kept. -/
def wrstAssert (s : State) : State := s.mPorts fun p => { p with wrstLow := true }

def execWrstNAssert (s : State) : Host.Outcome State Fault Refusal := .next (wrstAssert s)

/-- WRST_N is released: R329 runs. -/
def wrstRelease (s : State) : State :=
  if ¬ s.ports.wrstLow then s else
  let s := s.mPorts fun p => { p with wrstLow := false }
  if s.ports.rstLow then s else partReset [] s

def execWrstNRelease (s : State) : Host.Outcome State Fault Refusal := .next (wrstRelease s)

/-! ### Supplies -/

/-- The newest record of a half is torn. -/
def tearLast (h : SbHalf) : SbHalf :=
  match h.recs.getLast? with
  | some r => { h with recs := h.recs.dropLast ++ [{ r with torn := true }] }
  | none => h

/-- The supplies fail: everything but OTP, fuses and flash is lost; a Stud Book write in progress leaves its record torn
(R425). -/
def suppliesFail (torn : Bool) (s : State) : State :=
  let s := if ¬ torn then s else s.mNv fun v =>
    if v.activeHalf then { v with half1 := tearLast v.half1 } else { v with half0 := tearLast v.half0 }
  (rstNAssert s).mPorts fun p => { p with tap := .idcode }

def execSuppliesFail (torn : Bool) (s : State) : Host.Outcome State Fault Refusal := .next (suppliesFail torn s)

/-! ### TAP -/

/-- An array that the TAP reaches is erased first (R226). -/
def eraseArray (a : Nat) (s : State) : State :=
  s.mMem fun m => { m with
    loft := if a = 0 then [] else m.loft
    cm := if a = 1 then [] else m.cm
    opbuf := if a = 2 then [] else m.opbuf
    tags := if a = 3 then [] else m.tags }

/-- An instruction of the TAP. Others than BYPASS, IDCODE and SAMPLE/PRELOAD are usable in FACTORY_TEST and RETURN after an
unlock only. -/
def tapInstruction (op : TapOp) (s : State) : State :=
  let hold (s : State) : State := s.mPorts fun p => { p with tap := op }
  match op with
  | .other arr =>
    if ¬ debugAllowed s then s else
    match arr with
    | some a => hold (eraseArray a.toNat s)
    | none => hold s
  | _ => hold s

def execTapInstruction (op : TapOp) (s : State) : Host.Outcome State Fault Refusal := .next (tapInstruction op s)

end Sys2Proof.Machine
end

