-- ==== Sys2Proof/Machine/Dispatch.lean ====
section
/-!
DEFINITION. The meaning of each command, one arm per constructor.
-/
namespace Sys2Proof.Machine

def exec (i : Instr) (s : State) : Host.Outcome State Fault Refusal :=
  match i with
  | .planOpen p => Sys2Proof.Machine.execPlanOpen p s
  | .planData p => Sys2Proof.Machine.execPlanData p s
  | .planRetire p => Sys2Proof.Machine.execPlanRetire p s
  | .openTimeout => Sys2Proof.Machine.execOpenTimeout s
  | .admission => Sys2Proof.Machine.execAdmission s
  | .digest p => Sys2Proof.Machine.execDigest p s
  | .perim p => Sys2Proof.Machine.execPerim p s
  | .capture p => Sys2Proof.Machine.execCapture p s
  | .stepDone p => Sys2Proof.Machine.execStepDone p s
  | .fireHeldRelease lane => Sys2Proof.Machine.execFireHeldRelease lane s
  | .resGraceExpiry ctx epoch step => Sys2Proof.Machine.execResGraceExpiry ctx epoch step s
  | .release ctx => Sys2Proof.Machine.execRelease ctx s
  | .stepTimeout ctx epoch step => Sys2Proof.Machine.execStepTimeout ctx epoch step s
  | .planEpochFlip ctx => Sys2Proof.Machine.execPlanEpochFlip ctx s
  | .clusterReconfig ctx cluster => Sys2Proof.Machine.execClusterReconfig ctx cluster s
  | .twcCompare a b => Sys2Proof.Machine.execTwcCompare a b s
  | .xdigest p => Sys2Proof.Machine.execXdigest p s
  | .twcKat passA passB => Sys2Proof.Machine.execTwcKat passA passB s
  | .perimCompare pipe a b katA katB => Sys2Proof.Machine.execPerimCompare pipe a b katA katB s
  | .perKatPeriod pass => Sys2Proof.Machine.execPerKatPeriod pass s
  | .shadowTaskStart lane => Sys2Proof.Machine.execShadowTaskStart lane s
  | .shadowTaskDone lane residueFails wrong b katPass => Sys2Proof.Machine.execShadowTaskDone lane residueFails wrong b katPass s
  | .partialPush lane => Sys2Proof.Machine.execPartialPush lane s
  | .inboundQueueCombine cluster => Sys2Proof.Machine.execInboundQueueCombine cluster s
  | .remoteRead lane cluster offset lines => Sys2Proof.Machine.execRemoteRead lane cluster offset lines s
  | .saKatPeriod pass => Sys2Proof.Machine.execSaKatPeriod pass s
  | .bankRead slot line a ecc => Sys2Proof.Machine.execBankRead slot line a ecc s
  | .bankWrite slot line mask data a ecc => Sys2Proof.Machine.execBankWrite slot line mask data a ecc s
  | .add64 slot word v a ecc => Sys2Proof.Machine.execAdd64 slot word v a ecc s
  | .lpfAdd slot offset8 rec a ecc => Sys2Proof.Machine.execLpfAdd slot offset8 rec a ecc s
  | .alloc slot ctx plan epoch => Sys2Proof.Machine.execAlloc slot ctx plan epoch s
  | .bind slot a => Sys2Proof.Machine.execBind slot a s
  | .setFull slot a => Sys2Proof.Machine.execSetFull slot a s
  | .clear slot => Sys2Proof.Machine.execClear slot s
  | .scrubSet slot => Sys2Proof.Machine.execScrubSet slot s
  | .free slot => Sys2Proof.Machine.execFree slot s
  | .rowmap bank row => Sys2Proof.Machine.execRowmap bank row s
  | .fill slot count pattern => Sys2Proof.Machine.execFill slot count pattern s
  | .copy src count dst toLane => Sys2Proof.Machine.execCopy src count dst toLane s
  | .erase ctx r r2 => Sys2Proof.Machine.execErase ctx r r2 s
  | .laneWipe lane r r2 => Sys2Proof.Machine.execLaneWipe lane r r2 s
  | .erasureComplete ctx => Sys2Proof.Machine.execErasureComplete ctx s
  | .shedDrain shed => Sys2Proof.Machine.execShedDrain shed s
  | .shedOff shed => Sys2Proof.Machine.execShedOff shed s
  | .drainTimeout shed port => Sys2Proof.Machine.execDrainTimeout shed port s
  | .shedInitDone shed => Sys2Proof.Machine.execShedInitDone shed s
  | .procedureStart katPass => Sys2Proof.Machine.execProcedureStart katPass s
  | .settleReply p => Sys2Proof.Machine.execSettleReply p s
  | .settleTimeout core => Sys2Proof.Machine.execSettleTimeout core s
  | .redispatchTimeout ctx step task => Sys2Proof.Machine.execRedispatchTimeout ctx step task s
  | .replaySend ctx => Sys2Proof.Machine.execReplaySend ctx s
  | .xsettle p => Sys2Proof.Machine.execXsettle p s
  | .xverdict p => Sys2Proof.Machine.execXverdict p s
  | .xverdictWaitTimeout ctx step task => Sys2Proof.Machine.execXverdictWaitTimeout ctx step task s
  | .turnoutSelect core => Sys2Proof.Machine.execTurnoutSelect core s
  | .suspectTest core => Sys2Proof.Machine.execSuspectTest core s
  | .hlinkDown link => Sys2Proof.Machine.execHlinkDown link s
  | .hlinkWidth link trained full => Sys2Proof.Machine.execHlinkWidth link trained full s
  | .hrouterFail router => Sys2Proof.Machine.execHrouterFail router s
  | .routeMiss router entry => Sys2Proof.Machine.execRouteMiss router entry s
  | .installStart => Sys2Proof.Machine.execInstallStart s
  | .fcpResponse header data => Sys2Proof.Machine.execFcpResponse header data s
  | .countReadPoll => Sys2Proof.Machine.execCountReadPoll s
  | .retireTimeout => Sys2Proof.Machine.execRetireTimeout s
  | .eventPortMessage k0 d0 k1 d1 => Sys2Proof.Machine.execEventPortMessage k0 d0 k1 d1 s
  | .event p => Sys2Proof.Machine.execEvent p s
  | .ringPlaceRetry w => Sys2Proof.Machine.execRingPlaceRetry w s
  | .fcProcess => Sys2Proof.Machine.execFcProcess s
  | .fcAck priv w => Sys2Proof.Machine.execFcAck priv w s
  | .injectMessage priv w => Sys2Proof.Machine.execInjectMessage priv w s
  | .injectLocal priv w => Sys2Proof.Machine.execInjectLocal priv w s
  | .injectEcc priv w => Sys2Proof.Machine.execInjectEcc priv w s
  | .ctTimeout entry => Sys2Proof.Machine.execCtTimeout entry s
  | .scAck sector status rdata => Sys2Proof.Machine.execScAck sector status rdata s
  | .scWithdrawTimeout sector => Sys2Proof.Machine.execScWithdrawTimeout sector s
  | .ctEntryFree => Sys2Proof.Machine.execCtEntryFree s
  | .killCtx priv w => Sys2Proof.Machine.execKillCtx priv w s
  | .fenceCore priv w => Sys2Proof.Machine.execFenceCore priv w s
  | .unfenceCore priv w => Sys2Proof.Machine.execUnfenceCore priv w s
  | .resetSector priv w => Sys2Proof.Machine.execResetSector priv w s
  | .scrubSector priv w => Sys2Proof.Machine.execScrubSector priv w s
  | .resetEngine priv w => Sys2Proof.Machine.execResetEngine priv w s
  | .resetPart priv w => Sys2Proof.Machine.execResetPart priv w s
  | .trainingStateAdvance port t => Sys2Proof.Machine.execTrainingStateAdvance port t s
  | .trainingAttemptTimeout port => Sys2Proof.Machine.execTrainingAttemptTimeout port s
  | .rejoinPeriod port => Sys2Proof.Machine.execRejoinPeriod port s
  | .hxFrameReceive port f => Sys2Proof.Machine.execHxFrameReceive port f s
  | .replayTimeout port => Sys2Proof.Machine.execReplayTimeout port s
  | .hxPacketArrive port p => Sys2Proof.Machine.execHxPacketArrive port p s
  | .e2eAck p => Sys2Proof.Machine.execE2eAck p s
  | .state p => Sys2Proof.Machine.execState p s
  | .tblReady p => Sys2Proof.Machine.execTblReady p s
  | .epochFlip p => Sys2Proof.Machine.execEpochFlip p s
  | .count p => Sys2Proof.Machine.execCount p s
  | .retire p => Sys2Proof.Machine.execRetire p s
  | .barrierArrive p => Sys2Proof.Machine.execBarrierArrive p s
  | .barrierRelease p => Sys2Proof.Machine.execBarrierRelease p s
  | .barrierReleaseTime barrier => Sys2Proof.Machine.execBarrierReleaseTime barrier s
  | .barrTimeout barrier => Sys2Proof.Machine.execBarrTimeout barrier s
  | .hostBarrierArrive priv w => Sys2Proof.Machine.execHostBarrierArrive priv w s
  | .faultFwd p => Sys2Proof.Machine.execFaultFwd p s
  | .order p => Sys2Proof.Machine.execOrder p s
  | .bulk p => Sys2Proof.Machine.execBulk p s
  | .trace p => Sys2Proof.Machine.execTrace p s
  | .sec p => Sys2Proof.Machine.execSec p s
  | .resendTimeout die space seq => Sys2Proof.Machine.execResendTimeout die space seq s
  | .ackDelay die space => Sys2Proof.Machine.execAckDelay die space s
  | .stateRefresh => Sys2Proof.Machine.execStateRefresh s
  | .stateStale die => Sys2Proof.Machine.execStateStale die s
  | .hostOkLapse => Sys2Proof.Machine.execHostOkLapse s
  | .pollPeriod => Sys2Proof.Machine.execPollPeriod s
  | .hxRetireTimeout => Sys2Proof.Machine.execHxRetireTimeout s
  | .congWindow port congested => Sys2Proof.Machine.execCongWindow port congested s
  | .hostBist priv w => Sys2Proof.Machine.execHostBist priv w s
  | .bistDone fails deadSpares => Sys2Proof.Machine.execBistDone fails deadSpares s
  | .fuseProgram priv w readBackOk => Sys2Proof.Machine.execFuseProgram priv w readBackOk s
  | .testSessionOpen core channelOk bankOk => Sys2Proof.Machine.execTestSessionOpen core channelOk bankOk s
  | .hostTestSession priv w => Sys2Proof.Machine.execHostTestSession priv w s
  | .testReply p => Sys2Proof.Machine.execTestReply p s
  | .testTimeout channel => Sys2Proof.Machine.execTestTimeout channel s
  | .pkgOpen priv w => Sys2Proof.Machine.execPkgOpen priv w s
  | .pkgData priv w => Sys2Proof.Machine.execPkgData priv w s
  | .pkgClose priv w => Sys2Proof.Machine.execPkgClose priv w s
  | .pkgAbort priv w => Sys2Proof.Machine.execPkgAbort priv w s
  | .pkgVerify readBackOk => Sys2Proof.Machine.execPkgVerify readBackOk s
  | .rstNRelease dieId => Sys2Proof.Machine.execRstNRelease dieId s
  | .rstNAssert => Sys2Proof.Machine.execRstNAssert s
  | .stageS1 t => Sys2Proof.Machine.execStageS1 t s
  | .stageS2 primary secondary => Sys2Proof.Machine.execStageS2 primary secondary s
  | .stageS3 fails deadSpares void => Sys2Proof.Machine.execStageS3 fails deadSpares void s
  | .stageS4 => Sys2Proof.Machine.execStageS4 s
  | .stageS5 v => Sys2Proof.Machine.execStageS5 v s
  | .stageS6 results void => Sys2Proof.Machine.execStageS6 results void s
  | .stageS7 routersAnswered => Sys2Proof.Machine.execStageS7 routersAnswered s
  | .stageS8 => Sys2Proof.Machine.execStageS8 s
  | .stageS9 => Sys2Proof.Machine.execStageS9 s
  | .bitmap p => Sys2Proof.Machine.execBitmap p s
  | .commitAck p => Sys2Proof.Machine.execCommitAck p s
  | .musterTimeout => Sys2Proof.Machine.execMusterTimeout s
  | .sectorMuster sector => Sys2Proof.Machine.execSectorMuster sector s
  | .domainPowerRequest d => Sys2Proof.Machine.execDomainPowerRequest d s
  | .powerGood d => Sys2Proof.Machine.execPowerGood d s
  | .domainTimeout d => Sys2Proof.Machine.execDomainTimeout d s
  | .domainShutdown d => Sys2Proof.Machine.execDomainShutdown d s
  | .slowRound => Sys2Proof.Machine.execSlowRound s
  | .pmbRead chan raw => Sys2Proof.Machine.execPmbRead chan raw s
  | .pmbAlert addr status => Sys2Proof.Machine.execPmbAlert addr status s
  | .programRoot priv w => Sys2Proof.Machine.execProgramRoot priv w s
  | .advance priv w => Sys2Proof.Machine.execAdvance priv w s
  | .genIdentity priv w => Sys2Proof.Machine.execGenIdentity priv w s
  | .installCert priv w => Sys2Proof.Machine.execInstallCert priv w s
  | .programWrapped priv w => Sys2Proof.Machine.execProgramWrapped priv w s
  | .setMinSeq priv w => Sys2Proof.Machine.execSetMinSeq priv w s
  | .unlockChallenge priv w => Sys2Proof.Machine.execUnlockChallenge priv w s
  | .unlockResponse priv w => Sys2Proof.Machine.execUnlockResponse priv w s
  | .keyload priv w => Sys2Proof.Machine.execKeyload priv w s
  | .tokenPresent priv w => Sys2Proof.Machine.execTokenPresent priv w s
  | .tokenBindingLapse => Sys2Proof.Machine.execTokenBindingLapse s
  | .sarGo priv w => Sys2Proof.Machine.execSarGo priv w s
  | .sarBuildDone => Sys2Proof.Machine.execSarBuildDone s
  | .sarData priv => Sys2Proof.Machine.execSarData priv s
  | .certData priv => Sys2Proof.Machine.execCertData priv s
  | .provOut priv => Sys2Proof.Machine.execProvOut priv s
  | .dumpKey priv => Sys2Proof.Machine.execDumpKey priv s
  | .alarmPin pin level => Sys2Proof.Machine.execAlarmPin pin level s
  | .lockstep => Sys2Proof.Machine.execLockstep s
  | .snap priv w => Sys2Proof.Machine.execSnap priv w s
  | .snapPeriod => Sys2Proof.Machine.execSnapPeriod s
  | .watchGo priv w => Sys2Proof.Machine.execWatchGo priv w s
  | .watchData priv => Sys2Proof.Machine.execWatchData priv s
  | .dumpGo c => Sys2Proof.Machine.execDumpGo c s
  | .dumpSectionDone => Sys2Proof.Machine.execDumpSectionDone s
  | .dumpSectionTimeout => Sys2Proof.Machine.execDumpSectionTimeout s
  | .tackRsp p => Sys2Proof.Machine.execTackRsp p s
  | .egressCredit port cls ccnt => Sys2Proof.Machine.execEgressCredit port cls ccnt s
  | .wrstNAssert => Sys2Proof.Machine.execWrstNAssert s
  | .wrstNRelease => Sys2Proof.Machine.execWrstNRelease s
  | .registerWrite priv addr w => Sys2Proof.Machine.execRegisterWrite priv addr w s
  | .registerRead priv addr snapRace => Sys2Proof.Machine.execRegisterRead priv addr snapRace s
  | .suppliesFail torn => Sys2Proof.Machine.execSuppliesFail torn s
  | .scanBlockDone channel r => Sys2Proof.Machine.execScanBlockDone channel r s
  | .levelLeakedToZero cls die locus => Sys2Proof.Machine.execLevelLeakedToZero cls die locus s
  | .nonIngressKindPacket p => Sys2Proof.Machine.execNonIngressKindPacket p s
  | .tapInstruction op => Sys2Proof.Machine.execTapInstruction op s

end Sys2Proof.Machine
end

