-- ==== Sys2Proof/WellFormed.lean ====
section
/-!
DEFINITION. Which commands are well formed: operands that name something the block has, and packets
whose shape a wire can carry. The machine is total without it; statements use it.
-/
namespace Sys2Proof

/-- A packet has at least one flit, and its header and body fit in its flits of 64 bytes (R509, R511). -/
def Ingress.wellFormed (p : Ingress) : Bool := decide (0 < p.flits ∧ 8 + p.body.length ≤ 64 * p.flits)

/-- A short Hitch packet has no payload, a long one at most 512 bytes (R351). -/
def HxPkt.wellFormed (p : HxPkt) : Bool :=
  if p.header.getLsbD 63 then decide (p.payload.length ≤ 512) else p.payload.isEmpty

/-- A codeword RS(136,128) corrects at most four symbols (R347). -/
def Codeword.wellFormed : Codeword → Bool
  | .good n => decide (n ≤ 4)
  | .bad => true

/-- A frame is four codewords, and completes at most fifteen packets (R347). -/
def Frame.wellFormed (f : Frame) : Bool :=
  decide (f.words.length = 4 ∧ f.packets.length ≤ 15) && f.words.all Codeword.wellFormed &&
    f.packets.all HxPkt.wellFormed

/-- A Loft slot exists below 24,576 (R202). -/
def slotOk (slot : BitVec 15) : Bool := decide (slot.toNat < 24576)
/-- A range of slots lies in the Loft (R202, R216). -/
def rangeOk (slot count : BitVec 15) : Bool := decide (slot.toNat + count.toNat ≤ 24576)
/-- A crossbar requester port: 45 exist (R204). -/
def portOk (port : BitVec 6) : Bool := decide (port.toNat < 45)
def Access.wellFormed (a : Access) : Bool := portOk a.port
/-- A power domain: 24 exist (R437). -/
def domainOk (d : BitVec 5) : Bool := decide (d.toNat < 24)
/-- A privilege of the Host Register Port: TENANT, OPERATOR or VENDOR_DEBUG (R457). -/
def privOk (priv : BitVec 2) : Bool := decide (priv.toNat < 3)
/-- A register lies at a multiple of 8 (R6). -/
def addrOk (addr : BitVec 22) : Bool := decide (addr.toNat % 8 = 0)
/-- A HUID of the class named (R25). -/
def classOk (cls : Nat) (h : Huid) : Bool := decide (h.toNat / 4096 = cls)
/-- An LPF record is 88 bytes (R45), and lies in one slot (R204). -/
def lpfOk (offset8 : BitVec 8) (rec : Bytes) : Bool := decide (rec.length = 88 ∧ 8 * offset8.toNat ≤ 1960)
/-- Lines of a cluster's memory of 384 KiB (R26). -/
def clusterRangeOk (offset : BitVec 19) (lines : BitVec 8) : Bool :=
  decide (offset.toNat + 64 * lines.toNat ≤ 393216)
/-- A link trains to no more lanes than it has (R276). -/
def widthOk (trained full : BitVec 4) : Bool := decide (trained.toNat ≤ full.toNat)
/-- A fault class is 0 to 9 (R289). -/
def faultClassOk (cls : BitVec 4) : Bool := decide (cls.toNat < 10)

def DumpCause.wellFormed : DumpCause → Bool
  | .host priv _ => privOk priv
  | .fault => true
  | .partHang => true

def Instr.wellFormed : Instr → Bool
  | .planOpen p | .planData p | .planRetire p | .digest p | .perim p | .capture p | .stepDone p | .settleReply p
  | .event p | .testReply p | .bitmap p | .commitAck p | .tackRsp p | .nonIngressKindPacket p => p.wellFormed
  | .xdigest p | .xsettle p | .xverdict p | .hxPacketArrive _ p | .e2eAck p | .state p | .tblReady p | .epochFlip p
  | .count p | .retire p | .barrierArrive p | .barrierRelease p | .faultFwd p | .order p | .bulk p | .trace p
  | .sec p => p.wellFormed
  | .hxFrameReceive _ f => f.wellFormed
  | .bankRead slot _ a _ | .bankWrite slot _ _ _ a _ | .add64 slot _ _ a _ | .bind slot a | .setFull slot a =>
      slotOk slot && a.wellFormed
  | .lpfAdd slot offset8 rec a _ => slotOk slot && lpfOk offset8 rec && a.wellFormed
  | .alloc slot _ _ _ | .clear slot | .scrubSet slot | .free slot => slotOk slot
  | .rowmap _ row => decide (row.toNat < 768)
  | .fill slot n _ => rangeOk slot n
  | .copy src n dst lane => rangeOk src n && (lane.isSome || rangeOk dst n)
  | .drainTimeout _ port => portOk port
  | .remoteRead _ _ offset lines => clusterRangeOk offset lines
  | .settleTimeout core | .turnoutSelect core | .suspectTest core | .testSessionOpen core _ _ => classOk 0 core
  | .hlinkDown link => classOk 3 link
  | .hlinkWidth link trained full => classOk 3 link && widthOk trained full
  | .hrouterFail router | .routeMiss router _ => classOk 1 router
  | .fcAck priv _ | .injectMessage priv _ | .injectLocal priv _ | .injectEcc priv _ | .killCtx priv _
  | .fenceCore priv _ | .unfenceCore priv _ | .resetSector priv _ | .scrubSector priv _ | .resetEngine priv _
  | .resetPart priv _ | .hostBarrierArrive priv _ | .hostBist priv _ | .fuseProgram priv _ _
  | .hostTestSession priv _ | .pkgOpen priv _ | .pkgData priv _ | .pkgClose priv _ | .pkgAbort priv _
  | .programRoot priv _ | .advance priv _ | .genIdentity priv _ | .installCert priv _ | .programWrapped priv _
  | .setMinSeq priv _ | .unlockChallenge priv _ | .unlockResponse priv _ | .keyload priv _ | .tokenPresent priv _
  | .sarGo priv _ | .sarData priv | .certData priv | .provOut priv | .dumpKey priv | .snap priv _
  | .watchGo priv _ | .watchData priv => privOk priv
  | .registerWrite priv addr _ | .registerRead priv addr _ => privOk priv && addrOk addr
  | .domainPowerRequest d | .powerGood d | .domainTimeout d | .domainShutdown d => domainOk d
  | .dumpGo c => c.wellFormed
  | .egressCredit _ cls _ => decide (cls.toNat < 2)
  | .levelLeakedToZero cls _ _ => faultClassOk cls
  | .openTimeout | .admission | .fireHeldRelease _ | .resGraceExpiry _ _ _ | .release _ | .stepTimeout _ _ _
  | .planEpochFlip _ | .clusterReconfig _ _ | .twcCompare _ _ | .twcKat _ _ | .perimCompare _ _ _ _ _
  | .perKatPeriod _ | .shadowTaskStart _ | .shadowTaskDone _ _ _ _ _ | .partialPush _ | .inboundQueueCombine _
  | .saKatPeriod _ | .erase _ _ _ | .laneWipe _ _ _ | .erasureComplete _ | .shedDrain _ | .shedOff _
  | .shedInitDone _ | .procedureStart _ | .redispatchTimeout _ _ _ | .replaySend _ | .xverdictWaitTimeout _ _ _
  | .installStart | .fcpResponse _ _ | .countReadPoll | .retireTimeout | .eventPortMessage _ _ _ _
  | .ringPlaceRetry _ | .fcProcess | .ctTimeout _ | .scAck _ _ _ | .scWithdrawTimeout _ | .ctEntryFree
  | .trainingStateAdvance _ _ | .trainingAttemptTimeout _ | .rejoinPeriod _ | .replayTimeout _
  | .barrierReleaseTime _ | .barrTimeout _ | .resendTimeout _ _ _ | .ackDelay _ _ | .stateRefresh | .stateStale _
  | .hostOkLapse | .pollPeriod | .hxRetireTimeout | .congWindow _ _ | .bistDone _ _ | .testTimeout _
  | .pkgVerify _ | .rstNRelease _ | .rstNAssert | .stageS1 _ | .stageS2 _ _ | .stageS3 _ _ _ | .stageS4
  | .stageS5 _ | .stageS6 _ _ | .stageS7 _ | .stageS8 | .stageS9 | .musterTimeout | .sectorMuster _ | .slowRound
  | .pmbRead _ _ | .pmbAlert _ _ | .tokenBindingLapse | .sarBuildDone | .alarmPin _ _ | .lockstep | .snapPeriod
  | .dumpSectionDone | .dumpSectionTimeout | .wrstNAssert | .wrstNRelease | .suppliesFail _ | .scanBlockDone _ _
  | .tapInstruction _ => true

end Sys2Proof
end

