-- ==== Sys2Proof/Safety.lean ====
section
/-!
DEFINITION. What the statements call safe: the properties of a state that every step keeps, and for each command the units it may
change, the privilege and the packet it carries, and the operands it has room for.
-/
namespace Sys2Proof.Machine

/-- A packet of a kind reaches a port whose link is up, and no check of R511 bars it. -/
abbrev Arrives (kind : Nat) (p : Ingress) (s : State) : Prop := s.ports.slnUp = true ∧ p.ok = true ∧ p.kind = kind

/-- What `VU.LAST_VERDICT` holds after a verdict (R268). -/
def verdictWord (d : Dispute) (v : Nat) (named : Option (Nat × Huid)) : W64 :=
  word [put 63 52 d.ctx, put 51 51 d.epoch.toNat, put 50 49 d.attempt, put 48 46 v, put 45 42 d.cause, put 41 27 d.task,
    put 26 11 ((named.map (·.2.toNat)).getD 0xFFFF), 1]

/-- The bytes of the Loft, of Cluster Memory and of the operand buffers, and the tags (R202 to R216). -/
structure Arrays where
  loft : Mem
  cm : Mem
  opbuf : Mem
  tags : Tab W64
deriving DecidableEq, Repr

def State.arrays (s : State) : Arrays :=
  { loft := s.mem.loft, cm := s.mem.cm, opbuf := s.mem.opbuf, tags := s.mem.tags }

/-- The arrays are in canonical form: rising addresses, and no byte and no tag listed that reads zero. -/
def Arrays.canonical (a : Arrays) : Bool :=
  Mem.wf a.loft && Mem.wf a.cm && Mem.wf a.opbuf && Tab.wf a.tags && a.tags.all fun t => t.2 ≠ 0

def State.canonical (s : State) : Bool := s.arrays.canonical

/-- Numbers of lanes, clusters, sheds, erase engines, Hitch ports, barriers and power domains. -/
structure Sizes where
  lanes : Nat
  clusters : Nat
  sheds : Nat
  engines : Nat
  ports : Nat
  barriers : Nat
  domains : Nat
deriving DecidableEq, Repr

def State.sizes (s : State) : Sizes :=
  { lanes := s.sa.lanes.length, clusters := s.sa.clusters.length, sheds := s.mem.sheds.length, engines := s.mem.eng.length,
    ports := s.hx.ports.length, barriers := s.hx.barriers.length, domains := s.ts.domains.length }

/-- The numbers that R9, R26, R222, R339, R373 and R437 give. -/
def Sizes.silorn : Sizes :=
  { lanes := 64, clusters := 16, sheds := 4, engines := 4, ports := 4, barriers := 16, domains := 24 }

def State.shaped (s : State) : Bool := decide (s.sizes = .silorn)

/-- What few commands may change: the queue, OTP (R454, R461), the fuses (R383), the pattern banks (R399), the expert
registers (R518), the levels of the pins (R499), and of SEC the key store (R460), the unlock (R466), the life-cycle state
(R454, R455) and the strongest policy applied (R474). -/
structure Root where
  pending : List Instr
  otp : Otp
  fuses : List RowMap
  bankA : Bank
  bankB : Bank
  selector : Bool
  expert : Expert
  dieId : BitVec 6
  rstLow : Bool
  slnUp : Bool
  wrstLow : Bool
  tap : TapOp
  keys : Tab KeySlot
  unlocked : Bool
  lc : Nat
  nextLc : Nat
  policy : Nat
deriving DecidableEq, Repr

def State.root (s : State) : Root :=
  { pending := s.pending, otp := s.nv.otp, fuses := s.nv.fuses, bankA := s.nv.bankA, bankB := s.nv.bankB,
    selector := s.nv.selector, expert := s.expert, dieId := s.ports.dieId, rstLow := s.ports.rstLow,
    slnUp := s.ports.slnUp, wrstLow := s.ports.wrstLow, tap := s.ports.tap, keys := s.sec.keys,
    unlocked := s.sec.unlocked, lc := s.sec.lc, nextLc := s.sec.nextLc, policy := s.sec.policy }

/-- Slots that the key store may hold (R460). -/
def keySlotLegal (k : Nat) : Bool := k ≤ 0xE5 || k = 0xFE

/-- Life-cycle states of R454 in OTP, as S1 read it and as the next cold start finds it; a policy of R474; the four seed
fields of R461; keys in the slots of R460 only. -/
def Root.legal (r : Root) : Bool :=
  decide (r.otp.lc ≤ 5 ∧ r.lc ≤ 5 ∧ r.nextLc ≤ 5 ∧ r.policy ≤ 3 ∧ r.otp.seeds.length = 4) && r.keys.all fun k => keySlotLegal k.1

def State.legal (s : State) : Bool := s.root.legal

/-- Nothing that few commands change, no number of units and no array has changed. -/
structure Steady (s t : State) : Prop where
  root : t.root = s.root
  sizes : t.sizes = s.sizes
  arrays : t.arrays = s.arrays

/-- The arrays may have changed, and are in canonical form if they were before. -/
structure Sound (s t : State) : Prop where
  root : t.root = s.root
  sizes : t.sizes = s.sizes
  canonical : s.canonical = true → t.canonical = true

/-- OTP is programmed and never unprogrammed (R454, R455, R461): the life-cycle state does not go back, root material stays
and its minimum IMAGE_SEQ does not fall, wrapped keys stay, a programmed seed field stays programmed and a killed one stays
as it is. -/
structure Otp.Forward (a b : Otp) : Prop where
  lc : a.lc ≤ b.lc
  root : a.rootDone = true → b.rootDone = true ∧ b.imageKey = a.imageKey ∧ b.patKey = a.patKey ∧ b.dbgKey = a.dbgKey ∧
    a.minSeq ≤ b.minSeq
  wrapped : a.wrapped ≠ [] → b.wrapped = a.wrapped
  count : b.seeds.length = a.seeds.length
  seeds : ∀ (i : Nat) (x y : Seed), a.seeds[i]? = some x → b.seeds[i]? = some y → x.programmed = true →
    y.programmed = true ∧ (x.killed = true → y = x)

/-- What every command keeps: the canonical form of the arrays, the numbers of the units, the legal values of the life cycle,
the policy and the key store; the queue, which only a step takes from; and OTP, forward only. -/
structure Lawful (s t : State) : Prop where
  canonical : s.canonical = true → t.canonical = true
  shaped : s.shaped = true → t.shaped = true
  legal : s.legal = true → t.legal = true
  pending : t.pending = s.pending
  otp : s.nv.otp.Forward t.nv.otp

/-- The units whose state an operation may change. -/
inductive Part where
  | now | draws | nv | ports | expert | cfg | fc | ct | led | twc | per | sa | mem | vu | ym | hx | fr | ts | sec |
  ob
deriving DecidableEq, Repr

def Part.within (l m : List Part) : Bool := l.all m.contains

/-- Nothing has changed but what the units in the list hold; the time, whole and fraction, is one of them. -/
structure Same (m : List Part) (s t : State) : Prop where
  pending : t.pending = s.pending
  now : .now ∉ m → t.now = s.now
  nowFrac : .now ∉ m → t.nowFrac = s.nowFrac
  draws : .draws ∉ m → t.draws = s.draws
  nv : .nv ∉ m → t.nv = s.nv
  ports : .ports ∉ m → t.ports = s.ports
  expert : .expert ∉ m → t.expert = s.expert
  cfg : .cfg ∉ m → t.cfg = s.cfg
  fc : .fc ∉ m → t.fc = s.fc
  ct : .ct ∉ m → t.ct = s.ct
  led : .led ∉ m → t.led = s.led
  twc : .twc ∉ m → t.twc = s.twc
  per : .per ∉ m → t.per = s.per
  sa : .sa ∉ m → t.sa = s.sa
  mem : .mem ∉ m → t.mem = s.mem
  vu : .vu ∉ m → t.vu = s.vu
  ym : .ym ∉ m → t.ym = s.ym
  hx : .hx ∉ m → t.hx = s.hx
  fr : .fr ∉ m → t.fr = s.fr
  ts : .ts ∉ m → t.ts = s.ts
  sec : .sec ∉ m → t.sec = s.sec
  ob : .ob ∉ m → t.ob = s.ob

/-- The units whose state a command may change. Reports, counters, events and their packets put FC, OB, the ports and the Hitch
into most of the lists. -/
def unitsOf : Instr → List Part
  | .planOpen .. | .planData .. | .alloc .. | .bind .. | .setFull .. | .fill .. | .copy .. =>
    [.ports, .fc, .led, .mem, .vu, .hx, .ob]
  | .planRetire .. =>
    [.ports, .fc, .led, .twc, .sa, .mem, .vu, .hx, .ob]
  | .openTimeout .. =>
    [.led, .mem]
  | .admission .. =>
    [.ports, .fc, .led, .mem, .vu, .hx, .ts, .sec, .ob]
  | .digest .. | .perim .. | .capture .. | .release .. | .twcCompare .. | .xdigest .. | .inboundQueueCombine .. =>
    [.ports, .fc, .led, .twc, .per, .sa, .mem, .vu, .hx, .ts, .ob]
  | .stepDone .. | .redispatchTimeout .. | .xverdictWaitTimeout .. | .eventPortMessage .. | .event ..
  | .trainingStateAdvance .. | .trainingAttemptTimeout .. | .hxFrameReceive .. | .replayTimeout .. | .barrTimeout ..
  | .resendTimeout .. | .hostOkLapse .. | .hxRetireTimeout .. | .dumpSectionTimeout .. | .tackRsp ..
  | .nonIngressKindPacket .. =>
    [.ports, .fc, .led, .vu, .hx, .ob]
  | .fireHeldRelease .. =>
    [.led, .sa]
  | .resGraceExpiry .. =>
    [.led]
  | .stepTimeout .. =>
    [.ports, .fc, .ct, .led, .twc, .vu, .hx, .ob]
  | .planEpochFlip .. =>
    [.ports, .led, .twc, .per, .sa, .mem, .vu, .hx, .ts, .sec, .ob]
  | .clusterReconfig .. =>
    [.ports, .led, .twc, .per, .sa, .vu, .hx, .ts, .ob]
  | .twcKat .. =>
    [.ports, .fc, .led, .twc, .vu, .hx, .ob]
  | .perimCompare .. =>
    [.nv, .ports, .cfg, .fc, .led, .per, .mem, .vu, .hx, .ob]
  | .perKatPeriod .. =>
    [.nv, .ports, .cfg, .fc, .led, .per, .vu, .hx, .ob]
  | .shadowTaskStart .. =>
    [.ports, .fc, .led, .sa, .mem, .vu, .hx, .ob]
  | .shadowTaskDone .. =>
    [.draws, .nv, .ports, .cfg, .fc, .led, .twc, .per, .sa, .mem, .vu, .hx, .ts, .ob]
  | .partialPush .. =>
    [.sa]
  | .remoteRead .. =>
    [.mem, .ob]
  | .saKatPeriod .. =>
    [.nv, .ports, .cfg, .fc, .led, .sa, .vu, .hx, .ts, .ob]
  | .bankRead .. | .bankWrite .. | .add64 .. | .lpfAdd .. =>
    [.draws, .ports, .fc, .led, .mem, .vu, .hx, .ob]
  | .clear .. | .scrubSet .. | .free .. =>
    [.mem]
  | .rowmap .. =>
    [.nv, .ports, .cfg, .fc, .led, .mem, .vu, .hx, .ob]
  | .erase .. =>
    [.draws, .nv, .ports, .cfg, .fc, .led, .mem, .vu, .hx, .ob]
  | .laneWipe .. =>
    [.draws, .nv, .ports, .cfg, .fc, .led, .sa, .mem, .vu, .hx, .ts, .ob]
  | .erasureComplete .. =>
    [.ct, .mem, .ob]
  | .shedDrain .. | .shedOff .. | .shedInitDone .. =>
    [.ports, .mem, .hx, .ts, .ob]
  | .drainTimeout .. =>
    [.ports, .fc, .led, .mem, .vu, .hx, .ts, .ob]
  | .procedureStart .. | .settleReply .. | .settleTimeout .. | .xsettle .. =>
    [.draws, .nv, .ports, .cfg, .fc, .ct, .led, .twc, .per, .sa, .mem, .vu, .ym, .hx, .ts, .ob]
  | .replaySend .. =>
    [.ports, .vu, .hx, .ob]
  | .xverdict .. | .hrouterFail .. | .installStart .. | .fcpResponse .. | .stageS5 .. =>
    [.nv, .ports, .cfg, .fc, .ct, .led, .twc, .per, .sa, .mem, .vu, .ym, .hx, .ts, .ob]
  | .turnoutSelect .. | .testTimeout .. | .bitmap .. | .commitAck .. | .wrstNRelease .. | .scanBlockDone .. =>
    [.nv, .ports, .cfg, .fc, .ct, .led, .vu, .ym, .hx, .fr, .ob]
  | .suspectTest .. =>
    [.fr]
  | .hlinkDown .. | .hlinkWidth .. | .stageS7 .. | .musterTimeout .. | .sectorMuster .. =>
    [.nv, .ports, .cfg, .fc, .ct, .led, .vu, .ym, .hx, .ob]
  | .routeMiss .. =>
    [.ob]
  | .countReadPoll .. =>
    [.ct, .ym, .ob]
  | .retireTimeout .. =>
    [.ports, .fc, .led, .vu, .ym, .hx, .ob]
  | .ringPlaceRetry .. =>
    [.fc, .led, .vu, .ob]
  | .fcProcess .. | .ctTimeout .. | .scAck .. =>
    [.nv, .ports, .cfg, .fc, .ct, .led, .twc, .per, .sa, .mem, .vu, .ym, .hx, .fr, .ts, .ob]
  | .fcAck .. | .injectMessage .. | .injectLocal .. | .hostBarrierArrive .. | .keyload .. | .tokenPresent ..
  | .sarGo .. | .sarData .. | .certData .. | .provOut .. | .snap .. | .watchGo .. | .watchData .. | .dumpGo .. =>
    [.ports, .fc, .led, .vu, .hx, .sec, .ob]
  | .injectEcc .. =>
    [.ports, .fc, .led, .mem, .vu, .hx, .sec, .ob]
  | .scWithdrawTimeout .. =>
    [.ports, .fc, .ct, .led, .vu, .hx, .ob]
  | .ctEntryFree .. =>
    [.ports, .fc, .ct, .led, .twc, .per, .sa, .mem, .vu, .ym, .hx, .ts, .ob]
  | .killCtx .. =>
    [.nv, .ports, .cfg, .fc, .ct, .led, .twc, .sa, .mem, .vu, .hx, .sec, .ob]
  | .fenceCore .. =>
    [.draws, .nv, .ports, .cfg, .fc, .ct, .led, .twc, .per, .sa, .mem, .vu, .ym, .hx, .fr, .ts, .sec, .ob]
  | .unfenceCore .. =>
    [.nv, .ports, .cfg, .fc, .ct, .led, .vu, .ym, .hx, .sec, .ob]
  | .resetSector .. | .resetPart .. =>
    [.nv, .ports, .cfg, .fc, .ct, .led, .vu, .ym, .hx, .fr, .sec, .ob]
  | .scrubSector .. =>
    [.ports, .fc, .ct, .led, .vu, .hx, .sec, .ob]
  | .resetEngine .. =>
    [.ports, .fc, .ct, .led, .sa, .vu, .hx, .sec, .ob]
  | .rejoinPeriod .. | .hxPacketArrive .. | .e2eAck .. | .tblReady .. | .count .. | .retire .. | .barrierArrive ..
  | .trace .. | .ackDelay .. | .stateRefresh .. | .pollPeriod .. | .congWindow .. | .snapPeriod ..
  | .dumpSectionDone .. =>
    [.ports, .hx, .ob]
  | .state .. | .stateStale .. =>
    [.ports, .cfg, .fc, .led, .vu, .hx, .ob]
  | .epochFlip .. =>
    [.hx, .ob]
  | .barrierRelease .. | .barrierReleaseTime .. | .stageS6 .. | .stageS9 .. =>
    [.nv, .ports, .cfg, .fc, .led, .vu, .hx, .ob]
  | .faultFwd .. =>
    [.hx]
  | .order .. =>
    [.draws, .nv, .ports, .cfg, .fc, .ct, .led, .twc, .per, .sa, .mem, .vu, .ym, .hx, .fr, .ts, .ob]
  | .bulk .. =>
    [.nv, .ports, .fc, .led, .vu, .hx, .fr, .ts, .ob]
  | .sec .. | .stageS1 .. | .advance .. | .unlockResponse .. | .alarmPin .. | .lockstep .. =>
    [.draws, .nv, .ports, .cfg, .fc, .ct, .led, .twc, .sa, .mem, .vu, .ym, .hx, .fr, .sec, .ob]
  | .hostBist .. =>
    [.ports, .fc, .led, .mem, .vu, .hx, .fr, .ts, .sec, .ob]
  | .bistDone .. | .stageS3 .. =>
    [.nv, .ports, .cfg, .fc, .led, .sa, .mem, .vu, .hx, .fr, .ts, .ob]
  | .fuseProgram .. =>
    [.nv, .ports, .cfg, .fc, .led, .mem, .vu, .hx, .fr, .sec, .ob]
  | .testSessionOpen .. =>
    [.nv, .ports, .cfg, .fc, .ct, .led, .vu, .ym, .hx, .fr, .ts, .ob]
  | .hostTestSession .. | .pkgClose .. | .pkgAbort .. =>
    [.ports, .fc, .led, .vu, .hx, .fr, .sec, .ob]
  | .testReply .. =>
    [.draws, .nv, .ports, .cfg, .fc, .ct, .led, .vu, .ym, .hx, .fr, .ob]
  | .pkgOpen .. =>
    [.ports, .fc, .led, .vu, .hx, .fr, .ts, .sec, .ob]
  | .pkgData .. =>
    [.nv, .ports, .fc, .led, .vu, .hx, .fr, .sec, .ob]
  | .pkgVerify .. =>
    [.nv, .ports, .cfg, .fc, .led, .vu, .hx, .fr, .ob]
  | .rstNRelease .. =>
    [.ports, .cfg, .hx, .ts, .ob]
  | .rstNAssert .. | .suppliesFail .. =>
    [.now, .draws, .nv, .ports, .expert, .cfg, .fc, .ct, .led, .twc, .per, .sa, .mem, .vu, .ym, .hx, .fr, .ts, .sec,
     .ob]
  | .stageS2 .. =>
    [.nv, .ports, .expert, .cfg, .fc, .led, .vu, .hx, .ts, .sec, .ob]
  | .stageS4 .. =>
    [.now, .draws, .ports, .cfg, .fc, .led, .vu, .hx, .fr, .ts, .ob]
  | .stageS8 .. =>
    [.ports, .cfg, .fc, .ct, .led, .vu, .hx, .ob]
  | .domainPowerRequest .. =>
    [.ts, .ob]
  | .powerGood .. =>
    [.draws, .nv, .ports, .cfg, .fc, .led, .per, .sa, .mem, .vu, .hx, .ts, .ob]
  | .domainTimeout .. =>
    [.nv, .ports, .cfg, .fc, .led, .per, .sa, .mem, .vu, .hx, .ts, .ob]
  | .domainShutdown .. =>
    [.ports, .sa, .mem, .hx, .ts, .ob]
  | .slowRound .. =>
    [.draws, .nv, .ports, .cfg, .fc, .ct, .led, .sa, .vu, .ym, .hx, .fr, .ts, .sec, .ob]
  | .pmbRead .. | .pmbAlert .. =>
    [.ports, .fc, .led, .vu, .hx, .ts, .ob]
  | .programRoot .. | .genIdentity .. | .programWrapped .. | .setMinSeq .. =>
    [.draws, .nv, .ports, .fc, .led, .vu, .hx, .sec, .ob]
  | .installCert .. =>
    [.nv, .ports, .cfg, .fc, .led, .vu, .hx, .sec, .ob]
  | .unlockChallenge .. | .dumpKey .. =>
    [.draws, .ports, .fc, .led, .vu, .hx, .sec, .ob]
  | .tokenBindingLapse .. =>
    [.sec]
  | .sarBuildDone .. =>
    [.draws, .ports, .hx, .sec, .ob]
  | .egressCredit .. | .wrstNAssert .. =>
    [.ports]
  | .registerWrite .. =>
    [.draws, .nv, .ports, .expert, .cfg, .fc, .ct, .led, .twc, .per, .sa, .mem, .vu, .ym, .hx, .fr, .ts, .sec, .ob]
  | .registerRead .. =>
    [.draws, .ports, .fc, .ct, .led, .twc, .per, .sa, .mem, .vu, .hx, .fr, .sec, .ob]
  | .levelLeakedToZero .. =>
    [.fc]
  | .tapInstruction .. =>
    [.ports, .mem]

/-- Commands that may change a byte of the arrays or a tag. -/
def mayStore : Instr → Bool
  | .planOpen .. | .planData .. | .planRetire .. | .openTimeout .. | .admission .. | .digest .. | .perim ..
  | .capture .. | .release .. | .planEpochFlip .. | .twcCompare .. | .xdigest .. | .shadowTaskStart ..
  | .shadowTaskDone .. | .inboundQueueCombine .. | .bankWrite .. | .add64 .. | .lpfAdd .. | .alloc .. | .bind ..
  | .setFull .. | .clear .. | .scrubSet .. | .free .. | .rowmap .. | .fill .. | .copy .. | .erase .. | .laneWipe ..
  | .erasureComplete .. | .shedOff .. | .procedureStart .. | .settleReply .. | .settleTimeout .. | .xsettle ..
  | .xverdict .. | .hrouterFail .. | .installStart .. | .fcpResponse .. | .fcProcess .. | .ctTimeout .. | .scAck ..
  | .ctEntryFree .. | .killCtx .. | .fenceCore .. | .order .. | .sec .. | .hostBist .. | .bistDone ..
  | .fuseProgram .. | .rstNAssert .. | .stageS1 .. | .stageS3 .. | .stageS5 .. | .powerGood .. | .domainShutdown ..
  | .advance .. | .unlockResponse .. | .alarmPin .. | .lockstep .. | .registerWrite .. | .suppliesFail ..
  | .tapInstruction .. => true
  | _ => false

/-- Commands that may change OTP, fuses, pattern banks, expert registers, pin levels, keys, the unlock, the life-cycle state or
the policy. -/
def mayChangeRoot : Instr → Bool
  | .bulk .. | .sec .. | .fuseProgram .. | .pkgData .. | .pkgVerify .. | .rstNRelease .. | .rstNAssert ..
  | .stageS1 .. | .stageS2 .. | .slowRound .. | .programRoot .. | .advance .. | .genIdentity .. | .programWrapped ..
  | .setMinSeq .. | .unlockResponse .. | .keyload .. | .alarmPin .. | .lockstep .. | .wrstNAssert ..
  | .wrstNRelease .. | .registerWrite .. | .suppliesFail .. | .tapInstruction .. => true
  | _ => false

/-- The privilege that a request of the Host Register Port carries (R457). -/
def hostPriv : Instr → Option (BitVec 2)
  | .sarData p | .certData p | .provOut p | .dumpKey p | .watchData p => some p
  | .fcAck p _ | .injectMessage p _ | .injectLocal p _ | .injectEcc p _ | .killCtx p _ | .fenceCore p _
  | .unfenceCore p _ | .resetSector p _ | .scrubSector p _ | .resetEngine p _ | .resetPart p _
  | .hostBarrierArrive p _ | .hostBist p _ | .hostTestSession p _ | .pkgOpen p _ | .pkgData p _ | .pkgClose p _
  | .pkgAbort p _ | .programRoot p _ | .advance p _ | .genIdentity p _ | .installCert p _ | .programWrapped p _
  | .setMinSeq p _ | .unlockChallenge p _ | .unlockResponse p _ | .keyload p _ | .tokenPresent p _ | .sarGo p _
  | .snap p _ | .watchGo p _ => some p
  | .fuseProgram p _ _ | .registerWrite p _ _ | .registerRead p _ _ => some p
  | .dumpGo (.host p _) => some p
  | _ => none

/-- The packet of a Mesh Attach port that a command brings (R511). -/
def ingressOf : Instr → Option Ingress
  | .planOpen p | .planData p | .planRetire p | .digest p | .perim p | .capture p | .stepDone p | .settleReply p
  | .event p | .testReply p | .bitmap p | .commitAck p | .tackRsp p => some p
  | _ => none

/-- A Loft command names slots and rows that exist, and an LPF record lies whole within its slot (R202, R204, R214). -/
def inRange : Instr → Bool
  | .bankRead s .. | .bankWrite s .. | .add64 s .. | .alloc s .. | .bind s .. | .setFull s .. | .clear s | .scrubSet s | .free s =>
    decide (s.toNat < 24576)
  | .lpfAdd s o .. => decide (8 * o.toNat ≤ 1960) && decide (s.toNat < 24576)
  | .rowmap _ r => decide (r.toNat < 768)
  | .fill s n _ => decide (s.toNat + n.toNat ≤ 24576)
  | .copy s n d l => decide (s.toNat + n.toNat ≤ 24576) && (l.isSome || decide (d.toNat + n.toNat ≤ 24576))
  | _ => true

end Sys2Proof.Machine
end

