-- ==== Sys2Proof/Certificates/Slice0/Obligations.lean ====
section
/-!
DEFINITION. The statements for the provers: what each command does where it completes, by family of the table; what every step
keeps; and what no command changes. Each docstring names the rules of the manual it formalises.
-/
open Sys2Proof Sys2Proof.Machine

/-- For every command c and state s whose queue is c followed by rest, step s is exec of c on the state with the queue
rest. The queue of waiting commands is the model's own field (log entry 10). (00_scope.md, 19_integration.md) -/
def Obligations.StepRunsFrontCommand : Prop :=
  ∀ (c : Instr) (rest : List Instr) (s : State), s.pending = c :: rest → step s = exec c { s with pending := rest }

/-- With an empty queue a step answers the state after one period with nothing commanded (the model's choice, log entry
10); while RST_N or WRST_N is low nothing but the time changes; the queue stays empty. (R328, R329, R371) -/
def Obligations.StepIdles : Prop :=
  ∀ s : State, s.pending = [] → step s = .next (idle s) ∧ (idle s).pending = [] ∧
    (s.ports.rstLow = true ∨ s.ports.wrstLow = true → Same [.now] s (idle s))

/-- State.reset has its arrays in canonical form, the numbers of units of the manual and a legal life cycle, policy and
key store; RST_N is asserted, SLN_UP is low, the life-cycle state in OTP is BLANK, the key store is empty, every
byte of the Loft, Cluster Memory and operand buffers and every tag reads zero, and no command waits. A blank OTP is
the model's choice of a part fresh from the fab (log entries on reset values). (R226, R436, R460, R499, R501, R519) -/
def Obligations.ResetState : Prop :=
  State.reset.canonical = true ∧ State.reset.shaped = true ∧ State.reset.legal = true ∧ State.reset.pending = [] ∧
    State.reset.ports.rstLow = true ∧ State.reset.ports.slnUp = false ∧ State.reset.nv.otp.lc = 0 ∧
    State.reset.sec.keys = [] ∧
    (∀ a, Mem.get State.reset.mem.loft a = 0 ∧ Mem.get State.reset.mem.cm a = 0 ∧ Mem.get State.reset.mem.opbuf a = 0) ∧
    ∀ n, tagOf State.reset n = 0

/-- From every state whose Loft, Cluster Memory, operand buffers and tags are in canonical form (rising addresses, no
byte and no tag listed that reads zero), a step that answers a next state answers one whose arrays are in that form:
equal contents are equal data. The form is the representation of the model. (R202, R205, R226) -/
def Obligations.StepKeepsArrays : Prop :=
  ∀ s t : State, s.canonical = true → step s = .next t → t.canonical = true

/-- Under the conditions that each clause names, for every state and operands, each command completes: PLAN_OPEN from a
loader, with pages and a plan number free and nothing staged, stages an image of the asked context and words on the
lowest free pages. PLAN_DATA of words not yet received records them; where it brings one word, that word stands at
its place in the staged pages and every other byte of the Loft is as before. The timeout of an incomplete image
drops it, and its pages read zero with their tags. ADMISSION of a complete image with no failure, its sheds on and a
plan number free answers ADMITTED with the lowest free number in LED.ADMIT. ADMISSION of a complete image that fails
a check answers in LED.ADMIT the code, table and index of the first failure. PLAN_RETIRE of a plan nothing waits on,
or with DISCARD, answers ADMITTED; without DISCARD the context switches to no plan. (R94, R95, R96, R117) -/
def Obligations.PlanImagesLoad : Prop :=
  (∀ (p : Ingress) (s : State), Arrives 6 p s → isLoader s p.src = true → partDown s = false → p.sub = 0 →
      openBarred s = false → (fld (p.pre 0) 29 12 + 255) / 256 ≤ (freePageList s).length → (residents s).length < 64 →
      s.led.staging = none →
      ∃ t, exec (.planOpen p) s = .next t ∧ t.led.staging = some
          { ctx := fld (p.pre 0) 11 0, words := fld (p.pre 0) 29 12, loader := p.src, port := p.port.toNat,
            pages := (freePageList s).take ((fld (p.pre 0) 29 12 + 255) / 256), got := [] }) ∧
  (∀ (p : Ingress) (s : State) (t0 : Staging), Arrives 6 p s → isLoader s p.src = true → partDown s = false →
      p.sub = 1 → s.led.staging = some t0 → 8 * fld (p.pre 0) 22 17 ≤ (payloadAfter p 8).length →
      fld (p.pre 0) 16 0 + fld (p.pre 0) 22 17 ≤ t0.words →
      (∀ i < fld (p.pre 0) 22 17, fld (p.pre 0) 16 0 + i ∉ t0.got) → s.canonical = true →
      ∃ t, exec (.planData p) s = .next t ∧
          t.led.staging = some { t0 with got := t0.got ++ range' (fld (p.pre 0) 16 0) (fld (p.pre 0) 22 17) } ∧
          (fld (p.pre 0) 22 17 = 1 →
            Mem.read t.mem.loft (stagedAddr t0 (fld (p.pre 0) 16 0)) 8 = slice (payloadAfter p 8) 0 8 ∧
            ∀ a, a < stagedAddr t0 (fld (p.pre 0) 16 0) ∨ stagedAddr t0 (fld (p.pre 0) 16 0) + 8 ≤ a →
              Mem.get t.mem.loft a = Mem.get s.mem.loft a)) ∧
  (∀ (s : State) (t0 : Staging), s.led.staging = some t0 → stagingComplete t0 = false → s.canonical = true →
      ∃ t, exec .openTimeout s = .next t ∧ t.led = { s.led with staging := none } ∧
          (∀ g ∈ t0.pages, tagOf t (planStore + g) = 0) ∧
          ∀ g ∈ t0.pages, ∀ k, k < 2048 → Mem.get t.mem.loft (slotAddr (planStore + g) + k) = 0) ∧
  (∀ (s : State) (t0 : Staging) (n : Nat), s.led.staging = some t0 → stagingComplete t0 = true → partDown s = false →
      admissionResult { img := stagedImage s t0, p := parsePlan (stagedImage s t0), ctx := t0.ctx, words := t0.words, s := s } = none →
      (∀ d ∈ planSheds (parsePlan (stagedImage s t0)), shedState s d = .on) →
      (List.range 64).find? (planFree s) = some n →
      ∃ t, exec .admission s = .next t ∧ t.led.admitReg = word [put 63 56 acADMITTED, put 55 44 t0.ctx, put 43 38 n, put 37 35 0,
          put 34 20 0, 1]) ∧
  (∀ (s : State) (t0 : Staging) (code table index : Nat), s.led.staging = some t0 → stagingComplete t0 = true →
      partDown s = false →
      admissionResult { img := stagedImage s t0, p := parsePlan (stagedImage s t0), ctx := t0.ctx, words := t0.words, s := s } = some (code, table, index) →
      ∃ t, exec .admission s = .next t ∧
          t.led.admitReg = word [put 63 56 code, put 55 44 t0.ctx, put 43 38 0, put 37 35 table, put 34 20 index, 1]) ∧
  (∀ (p : Ingress) (s : State) (n : Nat) (q : Plan), Arrives 6 p s → isLoader s p.src = true → partDown s = false →
      p.sub = 2 → planOf s (fld (p.pre 0) 11 0) = some (n, q) →
      ((s.ct.kills.any fun k => k.ctx = fld (p.pre 0) 11 0) = false) →
      (bit (p.pre 0) 12 = true ∨ waitsOn s (fld (p.pre 0) 11 0) = []) → (ctxOf s (fld (p.pre 0) 11 0)).switch = none →
      ∃ t, exec (.planRetire p) s = .next t ∧ t.led.admitReg = word [put 63 56 acADMITTED, put 55 44 (fld (p.pre 0) 11 0),
          put 43 38 n, put 37 35 0, put 34 20 0, 1] ∧
          (bit (p.pre 0) 12 = false → (ctxOf t (fld (p.pre 0) 11 0)).switch = some
            { discard := false, next := none, flipped := false, clusters := [], asker := some (p.src, p.port.toNat, n) }))

/-- Under the conditions that each clause names, for every state and operands, each command completes: DIGEST of an
expected sender adds its digest to the sum in the slot, and its elements, 8 bytes and the sender to the group.
CAPTURE writes its bytes at its offset in the slot, and counts them, the token and the sender. PERIM outside an LPF
group does the same. PERIM of the first record of a sender in an LPF group opens that partial of the sender, with
the bytes at their offset. XDIGEST with the expected die, layer and BINDCHK does for input 1 of its task what DIGEST
does, with TWC as the sender. (R99, R128, R134, R158) -/
def Obligations.RecordsEnterTheirGroups : Prop :=
  (∀ (p : Ingress) (s : State) (q : Plan) (n : Nat) (h : Steer) (k : TaskE) (g : Group) (b : Nat), Arrives 1 p s →
      partDown s = false → h = steerOf p → k = planTask q h.task → g = groupOf s h.ctx h.epoch n h.task h.input →
      steerRecord 1 s h p.src 16 = .take q n → b = leAt p.body 16 16 → nf b 23 16 = q.hdr.keyId → g.full = false →
      0 < g.count → g.count + 1 < (groupRule q k h.input).2 →
      shedDown s (groupSlot q k h.input (roundOfStep q n)) = false →
      ∃ t, exec (.digest p) s = .next t ∧
          t.mem.loft = Mem.write s.mem.loft (groupAddr q k h.input n) (leBytes 8 (groupDigest s q k h.input n + nf b 127 64)) ∧
          groupOf t h.ctx h.epoch n h.task h.input = { g with
            count := g.count + 1
            elems := g.elems + nf b 63 24
            bytes := 8
            senders := g.senders ++ [p.src] }) ∧
  (∀ (p : Ingress) (s : State) (q : Plan) (n : Nat) (h : Steer) (k : TaskE) (g : Group) (d : Bytes), Arrives 3 p s →
      partDown s = false → h = steerOf p → k = planTask q h.task → g = groupOf s h.ctx h.epoch n h.task h.input →
      steerRecord 3 s h p.src d.length = .take q n → d = payloadAfter p 16 →
      heldByXtest s h.ctx h.epoch n h.task q = false → (groupRule q k h.input).1 ≠ 2 → d ≠ [] → g.full = false →
      0 < g.count → g.count + h.token.toNat < (groupRule q k h.input).2 →
      shedDown s (groupSlot q k h.input (roundOfStep q n)) = false →
      ∃ t, exec (.capture p) s = .next t ∧ t.mem.loft = Mem.write s.mem.loft (groupAddr q k h.input n + h.offset) d ∧
          groupOf t h.ctx h.epoch n h.task h.input = { g with
            bytes := g.bytes + d.length
            count := g.count + h.token.toNat
            declared := g.declared + if h.token then h.length else 0
            senders := if h.token then g.senders ++ [p.src] else g.senders }) ∧
  (∀ (p : Ingress) (s : State) (q : Plan) (n : Nat) (h : Steer) (k : TaskE) (g : Group) (d : Bytes), Arrives 2 p s →
      partDown s = false → h = steerOf p → k = planTask q h.task → g = groupOf s h.ctx h.epoch n h.task h.input →
      steerRecord 2 s h p.src d.length = .take q n → d = payloadAfter p 16 →
      heldByXtest s h.ctx h.epoch n h.task q = false → (groupRule q k h.input).1 ≠ 2 → d ≠ [] → g.full = false →
      0 < g.count → g.count + h.token.toNat < (groupRule q k h.input).2 →
      shedDown s (groupSlot q k h.input (roundOfStep q n)) = false →
      ∃ t, exec (.perim p) s = .next t ∧ t.mem.loft = Mem.write s.mem.loft (groupAddr q k h.input n + h.offset) d ∧
          groupOf t h.ctx h.epoch n h.task h.input = { g with
            bytes := g.bytes + d.length
            count := g.count + h.token.toNat
            declared := g.declared + if h.token then h.length else 0
            senders := if h.token then g.senders ++ [p.src] else g.senders }) ∧
  (∀ (p : Ingress) (s : State) (q : Plan) (n : Nat) (h : Steer) (k : TaskE) (g : Group) (d : Bytes) (i : Inst),
      Arrives 2 p s → partDown s = false → h = steerOf p → k = planTask q h.task →
      g = groupOf s h.ctx h.epoch n h.task h.input → steerRecord 2 s h p.src d.length = .take q n →
      d = payloadAfter p 16 → heldByXtest s h.ctx h.epoch n h.task q = false → (groupRule q k h.input).1 = 2 →
      h.token = false → instOf s h.ctx h.epoch n h.task = some i → h.input < i.groups.length → 0 < g.count →
      g.full = false → g.count < (groupRule q k h.input).2 → (∀ x ∈ g.partials, x.sender ≠ p.src) →
      ∃ t, exec (.perim p) s = .next t ∧ groupOf t h.ctx h.epoch n h.task h.input = { g with
            partials := g.partials ++ [{ sender := p.src, data := placeBytes [] h.offset d, got := d.length, length := none }] }) ∧
  (∀ (p : HxPkt) (s : State) (x : XDig) (q : Plan) (n : Nat) (g : Group), partDown s = false → x = parseXdigest p →
      steerWindow s x.ctx x.epoch x.step32 x.attempt = .take q n → x.attempt = attemptOf s x.ctx x.epoch n →
      x.task < q.hdr.tasks → (planTask q x.task).kind = ktXDIE → (planTask q x.task).layerIdx = layerOfStep q n →
      x.die = xdieDie q (planTask q x.task) → x.bindchk = bindChk s q (planLayer q (planTask q x.task).layerIdx) →
      g = groupOf s x.ctx x.epoch n x.task 1 → g.full = false → 0 < g.count →
      g.count + 1 < (groupRule q (planTask q x.task) 1).2 →
      shedDown s (groupSlot q (planTask q x.task) 1 (roundOfStep q n)) = false →
      ∃ t, exec (.xdigest p) s = .next t ∧
          t.mem.loft = Mem.write s.mem.loft (groupAddr q (planTask q x.task) 1 n) (leBytes 8 (groupDigest s q (planTask q x.task) 1 n + x.digest)) ∧
          groupOf t x.ctx x.epoch n x.task 1 = { g with
            count := g.count + 1
            elems := g.elems + x.elems
            bytes := 8
            senders := g.senders ++ [unitHuid uTWC 0] })

/-- Under the conditions that each clause names, for every state and operands, each command completes: STEP_DONE of a
label in the roster counts one more done label, adds the label and ends a grace that was over. The grace expiry
marks its step. RELEASE of the base step moves the base to the next step and removes the state of the released step.
STEP_TIMEOUT of a step with labels owing starts a chain for each of them, addressed to the core that serves it, and
drops the held XDIGESTs of that step. A token held for a lane goes to the end of the lane queue when it has room.
PLAN_EPOCH_FLIP of a switch that discards or has drained toggles the epoch, sets the base to 0 and starts the
erasure of the old plan. CLUSTER_RECONFIG of a cluster with no lane running an old token takes the cluster off the
switch; the last one ends the switch. (R107, R113, R114, R115, R181) -/
def Obligations.StepsAdvance : Prop :=
  (∀ (p : Ingress) (s : State) (q : Plan) (n : Nat) (h : Steer) (x : StepSt), Arrives 4 p s → partDown s = false →
      h = steerOf p → steerWindow s h.ctx h.epoch h.step32 h.attempt = .take q n → h.task = 0x7FFF →
      p.src ∈ q.roster → stepOf s h.ctx h.epoch n = some x →
      ∃ t, exec (.stepDone p) s = .next t ∧ stepOf t h.ctx h.epoch n = some { x with
            doneCount := x.doneCount + 1
            doneBy := x.doneBy ++ [p.src]
            graceOver := false }) ∧
  (∀ (ctx : Ctx) (epoch : Bool) (step : BitVec 32) (s : State) (n : Nat) (x : StepSt),
      fullStep (baseOf s ctx.toNat epoch) step.toNat = some n → stepOf s ctx.toNat epoch n = some x →
      ∃ t, exec (.resGraceExpiry ctx epoch step) s = .next t ∧ stepOf t ctx.toNat epoch n = some { x with graceOver := true }) ∧
  (∀ (ctx : Ctx) (s : State) (m n : Nat) (q : Plan), partDown s = false → planOf s ctx.toNat = some (m, q) →
      n = (ctxOf s ctx.toNat).base → mayRelease s ctx.toNat q n = true → s.led.deferred = [] →
      ∃ t, exec (.release ctx) s = .next t ∧ (ctxOf t ctx.toNat).base = n + 1 ∧ stepOf t ctx.toNat q.epoch n = none) ∧
  (∀ (ctx : Ctx) (epoch : Bool) (step : BitVec 32) (s : State) (m n : Nat) (q : Plan) (x : StepSt) (l : Huid),
      partDown s = false → planOfEpoch s ctx.toNat epoch = some (m, q) →
      fullStep (baseOf s ctx.toNat epoch) step.toNat = some n → stepOf s ctx.toNat epoch n = some x →
      stepHeld s ctx.toNat q n = false →
      l ∈ sortBy BitVec.toNat (dedup (dedup (owing s ctx.toNat q n ++ notDone q x n))) →
      ∃ t, exec (.stepTimeout ctx epoch step) s = .next t ∧
          (∃ y ∈ t.ct.chains, y.ctx = ctx.toNat ∧ y.step = n ∧ y.next = physOf s l) ∧
          t.twc.xhold = s.twc.xhold.filter fun x =>
            !(fld x.2.ext 191 180 = ctx.toNat && bit x.2.ext 179 = epoch && fld x.2.ext 161 130 = n % 2 ^ 32)) ∧
  (∀ (lane : BitVec 6) (s : State) (k : Token), (lane.toNat, k) ∈ s.led.held →
      ((s.led.held.find? fun h => h.1 = lane.toNat) = some (lane.toNat, k)) →
      (laneOf s lane.toNat).queue.length < 32 → lane.toNat < s.sa.lanes.length →
      ∃ t, exec (.fireHeldRelease lane) s = .next t ∧ t.led.held = s.led.held.erase (lane.toNat, k) ∧
          (laneOf t lane.toNat).queue = (laneOf s lane.toNat).queue ++ [k]) ∧
  (∀ (ctx : Ctx) (s : State) (w : Switch) (n : Nat) (q : Plan), partDown s = false →
      (ctxOf s ctx.toNat).switch = some w → w.flipped = false → (w.discard = true ∨ drained s ctx.toNat = true) →
      planOf s ctx.toNat = some (n, q) →
      ∃ t, exec (.planEpochFlip ctx) s = .next t ∧ (ctxOf t ctx.toNat).epoch = !(ctxOf s ctx.toNat).epoch ∧
          (ctxOf t ctx.toNat).base = 0 ∧ (ctxOf t ctx.toNat).halted = false ∧
          ∃ e ∈ t.mem.erasures, e.ctx = ctx.toNat ∧ e.plan = n ∧ e.kill = false ∧ e.rangesLeft = true) ∧
  (∀ (ctx : Ctx) (cluster : BitVec 4) (s : State) (w : Switch), (ctxOf s ctx.toNat).switch = some w →
      w.flipped = true → cluster.toNat ∈ w.clusters →
      (∀ l ∈ range' (cluster.toNat * 4) 4, ∀ r, (laneOf s l).run = some r → oldToken s ctx.toNat r.tok = false) →
      ∃ t, exec (.clusterReconfig ctx cluster) s = .next t ∧ (ctxOf t ctx.toNat).switch =
          if (w.clusters.filter (· ≠ cluster.toNat)).isEmpty then none
          else some { w with clusters := w.clusters.filter (· ≠ cluster.toNat) })

/-- Under the conditions that each clause names, for every state and operands, each command completes: Where both paths
say MATCH, the token leaves the queue and the instance passed. Where one path says something else at the first run,
the token stays at the head with one rerun counted and the path fault is noted. The known-answer test leaves a path
in service only where it passed; nothing else of TWC changes. (R129, R242) -/
def Obligations.TwinsCompared : Prop :=
  (∀ (s : State) (x : Token) (rest : List Token) (p : Plan) (k : TaskE) (i : Inst), engineHeld s uTWC 0 = false →
      s.twc.queue = x :: rest → tokTask s x = some (p, k) → tokenStale s x = 0 → twcPaths s ≠ 0 → k.kind ≠ ktXTEST →
      tokInst s x = some i → x.redispatched = false → twinOutcome s p x = twMATCH →
      ∃ t, exec (.twcCompare .exact .exact) s = .next t ∧ t.twc.queue = rest ∧ tokInst t x = some { i with passed := true }) ∧
  (∀ (s : State) (x : Token) (rest : List Token) (p : Plan) (k : TaskE) (o : BitVec 3) (m : BitVec 4),
      engineHeld s uTWC 0 = false → s.twc.queue = x :: rest → tokTask s x = some (p, k) → tokenStale s x = 0 →
      twcPaths s ≠ 0 → o.toNat ≠ twinOutcome s p x → x.reruns = 0 →
      ∃ t, exec (.twcCompare .exact (.other o m)) s = .next t ∧ t.twc.queue = { x with reruns := 1 } :: rest ∧ t.twc.pathFault = true) ∧
  (∀ (passA passB : Bool) (s : State), engineHeld s uTWC 0 = false →
      ∃ t, exec (.twcKat passA passB) s = .next t ∧ t.twc = { s.twc with pathA := s.twc.pathA && passA, pathB := s.twc.pathB && passB })

/-- Under the conditions that each clause names, for every state and operands, each command completes: Where both
pipelines say MATCH for records that agree, the token leaves the queue and the instance passed. A known-answer test
that all pipelines in service pass counts a run for each and takes none out of service. (R159, R163) -/
def Obligations.PerimetersCompared : Prop :=
  (∀ (pipe : BitVec 3) (katA katB : Bool) (s : State) (x : Token) (p1 p2 : Nat) (q : Plan) (k : TaskE) (i : Inst),
      engineHeld s uPER 0 = false → 2 ≤ (pipesUp s).length →
      pipeHead (s.per.queue.map (repipe s)) pipe.toNat = some (x, p1, p2) → tokTask s x = some (q, k) →
      tokenStale s x = 0 → tokInst s x = some i → x.redispatched = false →
      perimCompare (perimRecs s q x).1 (perimRecs s q x).2 (tokLayer q x) (tokTile q x) = .out peMATCH 0 →
      ∃ t, exec (.perimCompare pipe .exact .exact katA katB) s = .next t ∧
          t.per.queue = (s.per.queue.map (repipe s)).erase (x, p1, p2) ∧ tokInst t x = some { i with passed := true }) ∧
  (∀ (pass : BitVec 8) (s : State), engineHeld s uPER 0 = false → fld s.expert.perConfig 15 8 ≠ 0 →
      domainOf s 20 = .on → (∀ k ∈ pipesUp s, bit pass k = true) →
      ∃ t, exec (.perKatPeriod pass) s = .next t ∧ t.per.runs = s.per.runs + (pipesUp s).length ∧ t.per.inService = s.per.inService)

/-- Under the conditions that each clause names, for every state and operands, each command completes: SHADOW_TASK_START
puts the token at the head of the lane queue, with its descriptor, into the idle lane. SHADOW_TASK_DONE with a
result that compares equal frees the lane and the instance passed. PARTIAL_PUSH moves the first record waiting in
the lane to the end of the inbound queue of its cluster. INBOUND_QUEUE_COMBINE of a first record stores it in its
group and adds it to the list of pushes. REMOTE_READ of another cluster answers the bytes of its Cluster Memory. A
known-answer test that every lane passes leaves each lane in or out of service and notes the pass of each lane that
ran it. (R181, R183, R186, R187, R188, R192) -/
def Obligations.ShadowArrayRuns : Prop :=
  (∀ (lane : BitVec 6) (s : State) (x : Token) (rest : List Token) (n : Nat) (p : Plan),
      engineHeld s uSA (lane.toNat / 4) = false → laneUp s lane.toNat = true → (laneOf s lane.toNat).run = none →
      (clusterOf s (lane.toNat / 4)).inq = [] → domainOf s (lane.toNat / 4) = .on →
      (laneOf s lane.toNat).queue = x :: rest → planOfEpoch s x.ctx x.epoch = some (n, p) → tokenStale s x = 0 →
      shapeWrong s p x = false → (taskDesc p (planTask p x.task)).role ≠ rolePART → lane.toNat < s.sa.lanes.length →
      ∃ t, exec (.shadowTaskStart lane) s = .next t ∧ (laneOf t lane.toNat).queue = rest ∧
          (laneOf t lane.toNat).run = some { tok := x, desc := p.descs.getD (planTask p x.task).desc 0, out := [] }) ∧
  (∀ (lane : BitVec 6) (katPass : Bool) (s : State) (r : Run) (p : Plan) (k : TaskE) (i : Inst), partDown s = false →
      (laneOf s lane.toNat).run = some r → flipsAt s 2 lane.toNat 1 = 0 → flipsAt s 1 (lane.toNat / 4) 1 = 0 →
      tokTask s r.tok = some (p, k) → tokenStale s r.tok = 0 → (taskDesc p k).role ≠ rolePART →
      tokInst s r.tok = some i → r.tok.redispatched = false →
      ((tokWork s p r.tok).compare (laneOut (tokWork s p r.tok)) (tokRef s p r.tok)).1 = 0 →
      lane.toNat < s.sa.lanes.length →
      ∃ t, exec (.shadowTaskDone lane false none .exact katPass) s = .next t ∧ (laneOf t lane.toNat).run = none ∧
          tokInst t r.tok = some { i with passed := true }) ∧
  (∀ (lane : BitVec 6) (s : State) (r : Run) (m : Push) (rest : List Push) (k : Nat), partDown s = false →
      (laneOf s lane.toNat).run = some r → r.out = m :: rest → pushTarget s m = some k →
      (clusterOf s k).inq.length < 15 → lane.toNat < s.sa.lanes.length → k < s.sa.clusters.length →
      ∃ t, exec (.partialPush lane) s = .next t ∧ (laneOf t lane.toNat).run = some { r with out := rest } ∧
          (clusterOf t k).inq = (clusterOf s k).inq ++ [m]) ∧
  (∀ (cluster : BitVec 4) (s : State) (m : Push) (rest : List Push) (n : Nat) (p : Plan) (i : Inst) (r : Bytes) (j : Nat),
      engineHeld s uSA cluster.toNat = false →
      ((range' (4 * cluster.toNat) 4).any (fun l => laneUp s l && (laneOf s l).run.isNone) = true) →
      (clusterOf s cluster.toNat).inq = m :: rest → cluster.toNat < s.sa.clusters.length →
      planOfEpoch s m.ctx m.epoch = some (n, p) → (ctxOf s m.ctx).epoch = m.epoch →
      attemptOf s m.ctx m.epoch m.step = m.attempt → baseOf s m.ctx m.epoch ≤ m.step → m.recs = [r] →
      lpfOk (parseLpf r) = true → instOf s m.ctx m.epoch m.step m.task = some i →
      0 < (groupOf s m.ctx m.epoch m.step m.task j).count → pushed i m.part m.first = false →
      ((i.pushes.any fun x => decide (x.2.1 ≤ m.first ∧ m.first < x.2.1 + x.2.2)) = false) →
      chainWhole p m.task (tileElems (taskDesc p (planTask p m.task)) (taskTile p (planTask p m.task) (roundOfStep p m.step))) { i with pushes := i.pushes ++ [(m.part, m.first, 1)] } = false →
      ∃ t, exec (.inboundQueueCombine cluster) s = .next t ∧ (clusterOf t cluster.toNat).inq = rest ∧
          t.mem.loft = Mem.write s.mem.loft (groupAddr p (planTask p m.task) 0 m.step + 88 * m.first) (lpf88 (parseLpf r).acc) ∧
          instOf t m.ctx m.epoch m.step m.task = some { i with pushes := i.pushes ++ [(m.part, m.first, 1)] }) ∧
  (∀ (lane : BitVec 6) (cluster : BitVec 4) (offset : BitVec 19) (lines : BitVec 8) (s : State), partDown s = false →
      lane.toNat / 4 ≠ cluster.toNat → offset.toNat + 64 * lines.toNat ≤ 393216 →
      ∃ t, exec (.remoteRead lane cluster offset lines) s = .next t ∧ t.mem.busStatus = bsOK ∧
          t.mem.busData = Mem.read s.mem.cm (cmAddr cluster.toNat offset.toNat) (64 * lines.toNat)) ∧
  (∀ (pass : W64) (s : State), partDown s = false → fld s.expert.saConfig 15 8 ≠ 0 → (∀ l < 64, bit pass l = true) →
      s.sa.lanes.length = 64 →
      ∃ t, exec (.saKatPeriod pass) s = .next t ∧ ∀ l < 64, (laneOf t l).inService = (laneOf s l).inService ∧
          (laneUp s l = true → domainOf s (l / 4) = .on → (laneOf t l).lastPass = true))

/-- Under the conditions that each clause names, for every state and operands, each command completes: BANK_READ of a
full slot by its owner answers OK and the 64 bytes, and changes nothing else. BANK_WRITE writes the masked bytes of
the line, and no other byte of the Loft. ADD64 adds the value to the 64-bit word modulo 2^64, and changes no other
byte of the Loft. LPFADD combines the record with the one stored, and changes no other byte of the Loft. (R47, R203,
R204, R206) -/
def Obligations.LoftAccesses : Prop :=
  (∀ (slot : BitVec 15) (line : BitVec 5) (a : Access) (s : State), shedDown s slot.toNat = false →
      flipsAt s 3 slot.toNat 1 = 0 → slot.toNat < planStore → tagMatch (tagOf s slot.toNat) (identOf a) = true →
      a.port ≠ 40 → tagFull (tagOf s slot.toNat) = true →
      flipsAt s 0 (slot.toNat * 256 + line.toNat * 64 / 8) ((64 + 7) / 8) = 0 →
      exec (.bankRead slot line a .clean) s = .next (s.mMem fun m => { m with
          busStatus := bsOK, busData := Mem.read m.loft (slotAddr slot.toNat + line.toNat * 64) 64 })) ∧
  (∀ (slot : BitVec 15) (line : BitVec 5) (mask : W64) (data : BitVec 512) (a : Access) (s : State),
      shedDown s slot.toNat = false → flipsAt s 3 slot.toNat 1 = 0 → slot.toNat < planStore →
      tagMatch (tagOf s slot.toNat) (identOf a) = true → tagScrub (tagOf s slot.toNat) = false →
      tagFull (tagOf s slot.toNat) = false → flipsAt s 0 (slot.toNat * 256 + line.toNat * 64 / 8) ((64 + 7) / 8) = 0 →
      ∃ t, exec (.bankWrite slot line mask data a .clean) s = .next t ∧ t.mem.busStatus = bsOK ∧ t.mem.loft =
          Mem.write s.mem.loft (slotAddr slot.toNat + line.toNat * 64)
            (maskBytes mask (Mem.read s.mem.loft (slotAddr slot.toNat + line.toNat * 64) 64) (leBytes 64 data.toNat))) ∧
  (∀ (slot : BitVec 15) (w : BitVec 8) (v : W64) (a : Access) (s : State), shedDown s slot.toNat = false →
      flipsAt s 3 slot.toNat 1 = 0 → slot.toNat < planStore → tagMatch (tagOf s slot.toNat) (identOf a) = true →
      tagScrub (tagOf s slot.toNat) = false → tagFull (tagOf s slot.toNat) = false →
      flipsAt s 0 (slot.toNat * 256 + 8 * w.toNat / 8) ((8 + 7) / 8) = 0 →
      ∃ t, exec (.add64 slot w v a .clean) s = .next t ∧ t.mem.busStatus = bsOK ∧ t.mem.loft =
          Mem.write s.mem.loft (slotAddr slot.toNat + 8 * w.toNat)
            (leBytes 8 (leNat (Mem.read s.mem.loft (slotAddr slot.toNat + 8 * w.toNat) 8) + v.toNat))) ∧
  (∀ (slot : BitVec 15) (off8 : BitVec 8) (rec : Bytes) (a : Access) (s : State), shedDown s slot.toNat = false →
      flipsAt s 3 slot.toNat 1 = 0 → slot.toNat < planStore → tagMatch (tagOf s slot.toNat) (identOf a) = true →
      tagScrub (tagOf s slot.toNat) = false → tagFull (tagOf s slot.toNat) = false →
      flipsAt s 0 (slot.toNat * 256 + 8 * off8.toNat / 8) ((88 + 7) / 8) = 0 → 8 * off8.toNat ≤ 1960 →
      ∃ t, exec (.lpfAdd slot off8 rec a .clean) s = .next t ∧ t.mem.busStatus = bsOK ∧ t.mem.loft =
          Mem.write s.mem.loft (slotAddr slot.toNat + 8 * off8.toNat)
            (lpf88 ((parseLpf (Mem.read s.mem.loft (slotAddr slot.toNat + 8 * off8.toNat) 88)).acc.combine (parseLpf rec).acc)))

/-- Under the conditions that each clause names, for every state and operands, each command completes: ALLOC of a free
slot writes its tag with ALLOC, the epoch, the context and the plan. BIND writes the tag with BOUND and the epoch,
attempt and step of the access. SETFULL of a matching slot sets FULL. CLEAR clears BOUND and FULL. SCRUBSET of an
allocated slot sets SCRUB. FREE of a slot with SCRUB writes the tag 0. Each leaves every other tag and every byte of
the Loft as before. (R205, R206) -/
def Obligations.SlotTagsMove : Prop :=
  (∀ (slot : BitVec 15) (ctx : Ctx) (plan : BitVec 6) (epoch : Bool) (s : State), s.canonical = true →
      slot.toNat < 24576 → s.mem.withheld.contains slot.toNat = false → tagAlloc (tagOf s slot.toNat) = false →
      ∃ t, exec (.alloc slot ctx plan epoch) s = .next t ∧ tagOf t slot.toNat = word [put 63 63 1, put 59 59 epoch.toNat, put 56 45 ctx.toNat, put 44 39 plan.toNat] ∧ (∀ k, k ≠ slot.toNat → tagOf t k = tagOf s k) ∧ t.mem.loft = s.mem.loft) ∧
  (∀ (slot : BitVec 15) (a : Access) (s : State), s.canonical = true → slot.toNat < 24576 →
      tagAlloc (tagOf s slot.toNat) = true → tagScrub (tagOf s slot.toNat) = false →
      tagFull (tagOf s slot.toNat) = false →
      ∃ t, exec (.bind slot a) s = .next t ∧ tagOf t slot.toNat = word [put 63 63 1, put 61 61 1, put 59 59 a.epoch.toNat,
            put 58 57 a.attempt.toNat, put 56 45 (fld (tagOf s slot.toNat) 56 45), put 44 39 (fld (tagOf s slot.toNat) 44 39), put 31 0 a.step.toNat] ∧ (∀ k, k ≠ slot.toNat → tagOf t k = tagOf s k) ∧ t.mem.loft = s.mem.loft) ∧
  (∀ (slot : BitVec 15) (a : Access) (s : State), s.canonical = true → slot.toNat < 24576 →
      flipsAt s 3 slot.toNat 1 = 0 → tagMatch (tagOf s slot.toNat) (identOf a) = true →
      ∃ t, exec (.setFull slot a) s = .next t ∧ tagOf t slot.toNat = setFld (tagOf s slot.toNat) 60 60 1 ∧ (∀ k, k ≠ slot.toNat → tagOf t k = tagOf s k) ∧ t.mem.loft = s.mem.loft) ∧
  (∀ (slot : BitVec 15)  (s : State), s.canonical = true → slot.toNat < 24576 →
      ∃ t, exec (.clear slot ) s = .next t ∧ tagOf t slot.toNat = setFld (tagOf s slot.toNat) 61 60 0 ∧ (∀ k, k ≠ slot.toNat → tagOf t k = tagOf s k) ∧ t.mem.loft = s.mem.loft) ∧
  (∀ (slot : BitVec 15)  (s : State), s.canonical = true → slot.toNat < 24576 →
      tagAlloc (tagOf s slot.toNat) = true →
      ∃ t, exec (.scrubSet slot ) s = .next t ∧ tagOf t slot.toNat = setFld (tagOf s slot.toNat) 62 62 1 ∧ (∀ k, k ≠ slot.toNat → tagOf t k = tagOf s k) ∧ t.mem.loft = s.mem.loft) ∧
  (∀ (slot : BitVec 15)  (s : State), s.canonical = true → slot.toNat < 24576 →
      tagScrub (tagOf s slot.toNat) = true →
      ∃ t, exec (.free slot ) s = .next t ∧ tagOf t slot.toNat = 0 ∧ (∀ k, k ≠ slot.toNat → tagOf t k = tagOf s k) ∧ t.mem.loft = s.mem.loft)

/-- Under the conditions that each clause names, for every state and operands, each command completes: ROWMAP with a
spare free adds the map to it and counts it. FILL leaves each slot of the range with the pattern in each word, and
every other slot as before. COPY within one context leaves the destination with what the source held, and every
other byte as before. ERASE with no bad slot leaves every byte of the ranges zero and marks them done. LANE_WIPE
with no bad share zeroes the operand buffer and the share of the lane and counts it done. ERASURE_COMPLETE removes
the erasure and writes its status word. (R214, R215, R216, R217, R218, R219, R220) -/
def Obligations.MemoryEnginesWork : Prop :=
  (∀ (bank : BitVec 6) (row : BitVec 10) (s : State) (k : Nat), row.toNat < 768 →
      engineHeld s uMEM (bank.toNat / 16) = false → freeSpare s 0 bank.toNat 0 16 = some k →
      ∃ t, exec (.rowmap bank row) s = .next t ∧
          t.mem.rowMaps = s.mem.rowMaps ++ [{ array := 0, inst := bank.toNat, bank := 0, row := row.toNat, spare := k, origin := 1 }] ∧
          t.mem.fieldMaps = s.mem.fieldMaps + 1 ∧ t.mem.eng = s.mem.eng.map fun q => q.erase (.rowmap bank.toNat row.toNat)) ∧
  (∀ (slot count : BitVec 15) (pattern : W64) (s : State), slot.toNat + count.toNat ≤ 24576 →
      engineHeld s uMEM (shedOf slot.toNat) = false → s.canonical = true →
      (∀ x ∈ range' slot.toNat count.toNat, shedDown s x = false) →
      ∃ t, exec (.fill slot count pattern) s = .next t ∧
          (∀ x ∈ range' slot.toNat count.toNat, Mem.read t.mem.loft (slotAddr x) 2048 = (List.replicate 256 (leBytes 8 pattern.toNat)).flatten) ∧
          ∀ x ∉ range' slot.toNat count.toNat, Mem.read t.mem.loft (slotAddr x) 2048 = Mem.read s.mem.loft (slotAddr x) 2048) ∧
  (∀ (src count dst : BitVec 15) (s : State) (c : Nat), src.toNat + count.toNat ≤ 24576 →
      dst.toNat + count.toNat ≤ 24576 → engineHeld s uMEM (shedOf src.toNat) = false → s.canonical = true →
      rangeCtx s src.toNat count.toNat = some c → rangeCtx s dst.toNat count.toNat = some c →
      (range' src.toNat count.toNat ++ range' dst.toNat count.toNat).any (shedDown s) = false →
      ∃ t, exec (.copy src count dst none) s = .next t ∧
          Mem.read t.mem.loft (slotAddr dst.toNat) (2048 * count.toNat) = Mem.read s.mem.loft (slotAddr src.toNat) (2048 * count.toNat) ∧
          ∀ a, a < slotAddr dst.toNat ∨ slotAddr dst.toNat + 2048 * count.toNat ≤ a → Mem.get t.mem.loft a = Mem.get s.mem.loft a) ∧
  (∀ (ctx : Ctx) (r r2 : WipeSay) (s : State) (e : Erasure), partDown s = false →
      ((s.mem.erasures.find? fun e => e.ctx = ctx.toNat && e.rangesLeft) = some e) → r.bad = [] →
      ∃ t, exec (.erase ctx r r2) s = .next t ∧ (∀ g ∈ e.ranges, ∀ k < 2048 * g.2, Mem.get t.mem.loft (slotAddr g.1 + k) = 0) ∧
          t.mem.erasures = s.mem.erasures.map fun x => if x.ctx = ctx.toNat && x.plan = e.plan then { x with rangesLeft := false } else x) ∧
  (∀ (lane : BitVec 6) (r r2 : WipeSay) (s : State), (laneOf s lane.toNat).run = none →
      (laneOf s lane.toNat).wipes ≠ [] → shareInUse s lane.toNat = false → r.bad = [] →
      lane.toNat < s.sa.lanes.length →
      ∃ t, exec (.laneWipe lane r r2) s = .next t ∧ (laneOf t lane.toNat).wipes = [] ∧
          t.mem.opbuf = Mem.zero s.mem.opbuf (opbufAddr lane.toNat 0) 32768 ∧ t.mem.cm = Mem.zero s.mem.cm (laneShare lane.toNat) 65536 ∧
          t.mem.erasures = s.mem.erasures.map fun e => if e.lanesLeft.contains lane.toNat then
            { e with lanesLeft := e.lanesLeft.erase lane.toNat, lanesDone := e.lanesDone + 1 } else e) ∧
  (∀ (ctx : Ctx) (s : State) (e : Erasure),
      ((s.mem.erasures.find? fun e => e.ctx = ctx.toNat && erasureReady e) = some e) →
      ∃ t, exec (.erasureComplete ctx) s = .next t ∧ t.mem.erasures = s.mem.erasures.erase e ∧
          t.mem.eraseStatus = word [put 63 52 e.ctx, put 51 46 e.plan, put 45 44 (if e.failed then 3 else if e.remapped then 2 else 1),
            put 43 29 (slotTotal e.ranges), put 28 22 e.lanesDone, 1])

/-- Under the conditions that each clause names, for every state and operands, each command completes: SHED_DRAIN leaves
the shed draining and its power domain shutting down. SHED_OFF of a drained shed leaves it and its domain off, every
byte of its slots zero and its tags gone. DRAIN_TIMEOUT of a draining shed leaves it and its domain on.
SHED_INIT_DONE leaves the shed and its domain on. (R222, R223, R225) -/
def Obligations.ShedsPower : Prop :=
  (∀ (shed : BitVec 2) (s : State), mayDrain s shed.toNat = true → shed.toNat < s.mem.sheds.length →
      16 + shed.toNat < s.ts.domains.length →
      ∃ t, exec (.shedDrain shed) s = .next t ∧ shedState t shed.toNat = .drain ∧ domainOf t (16 + shed.toNat) = .shuttingDown) ∧
  (∀ (shed : BitVec 2) (s : State) (x : Shed), s.mem.sheds[shed.toNat]? = some x → x.st = .drain → x.inFlight = 0 →
      bit s.ts.pending (16 + shed.toNat) = false → 16 + shed.toNat < s.ts.domains.length →
      ∃ t, exec (.shedOff shed) s = .next t ∧ shedState t shed.toNat = .off ∧ domainOf t (16 + shed.toNat) = .off ∧
          (∀ a, slotAddr (6144 * shed.toNat) ≤ a → a < slotAddr (6144 * shed.toNat) + 2048 * 6144 → Mem.get t.mem.loft a = 0) ∧
          t.mem.tags = s.mem.tags.filter fun t => shedOf t.1 ≠ shed.toNat) ∧
  (∀ (shed : BitVec 2) (port : BitVec 6) (s : State) (x : Shed), s.mem.sheds[shed.toNat]? = some x → x.st = .drain →
      16 + shed.toNat < s.ts.domains.length →
      ∃ t, exec (.drainTimeout shed port) s = .next t ∧ shedState t shed.toNat = .on ∧ domainOf t (16 + shed.toNat) = .on) ∧
  (∀ (shed : BitVec 2) (s : State) (x : Shed), s.mem.sheds[shed.toNat]? = some x → x.st = .init →
      16 + shed.toNat < s.ts.domains.length →
      ∃ t, exec (.shedInitDone shed) s = .next t ∧ shedState t shed.toNat = .on ∧ domainOf t (16 + shed.toNat) = .on)

/-- Under the conditions that each clause names, for every state and operands, each command completes: A twin dispute
that is ready starts a bisection over all elements of its layer, asking the labels of both sides. A SETTLE reply of
one of several asked labels is recorded with its side and entries. A SETTLE timeout of one of several asked cores
takes it off and voids the phase. A redispatch timeout ends the procedure UNRESOLVED, in LAST_VERDICT. REPLAY_SEND
of a ready replay, with no label waiting, takes it off the list. (R233, R234, R239, R250, R268) -/
def Obligations.DisputesSettle : Prop :=
  (∀ (s : State) (d : Dispute) (q : Plan) (k : TaskE), s.vu.procs.length < 64 → partDown s = false →
      s.vu.waiting.find? (disputeReady s) = some d → d.cause = dTWINDIGEST → disputeTask s d = some (q, k) →
      k.kind = ktTWIN → ((s.vu.procs.any fun x => sameDispute x.d d) = false) →
      ∃ t, exec (.procedureStart true) s = .next t ∧ t.vu.waiting = s.vu.waiting.erase d ∧
          procOf t d = some { newProc d with
            phase := .bisect 0 (planLayer q k.layerIdx).elements
            asked := sideLabels s q d.task 0 ++ sideLabels s q d.task 1
            reqId := s.vu.reqSeq % 2 ^ 16 }) ∧
  (∀ (p : Ingress) (s : State) (q : Proc) (lo w : Nat), Arrives 7 p s → partDown s = false →
      nf (leAt p.body 0 32) 97 97 = 1 → nf (leAt p.body 0 32) 96 94 = 0 →
      ((s.vu.procs.find? fun x => x.reqId = nf (leAt p.body 0 32) 193 178 && x.asked.contains p.src) = some q) →
      procOf s q.d = some q → q.phase = .bisect lo w → q.asked.erase p.src ≠ [] →
      ∃ t, exec (.settleReply p) s = .next t ∧ procOf t q.d = some { q with
            asked := q.asked.erase p.src
            ranges := q.ranges ++ [{ core := p.src, side := sideOfLabel s q.d p.src,
                                     ents := rangeEnts (payloadAfter p 40) (some (physOf s p.src)) }] }) ∧
  (∀ (core : Huid) (s : State) (q : Proc), ((s.vu.procs.find? fun x => x.asked.contains core) = some q) →
      ((s.vu.procs.find? fun x => x.reqId = q.reqId && x.asked.contains core) = some q) → procOf s q.d = some q →
      q.asked.erase core ≠ [] →
      ∃ t, exec (.settleTimeout core) s = .next t ∧ procOf t q.d = some { q with asked := q.asked.erase core, voided := true }) ∧
  (∀ (ctx : Ctx) (step : BitVec 32) (task : BitVec 15) (s : State) (q : Proc),
      ((s.vu.procs.find? fun p => p.d.ctx = ctx.toNat && p.d.step % 2 ^ 32 = step.toNat && p.d.task = task.toNat && p.phase = .redispatch) = some q) →
      ∃ t, exec (.redispatchTimeout ctx step task) s = .next t ∧ t.vu.lastVerdict = verdictWord q.d vUNRESOLVED none ∧
          t.vu.procs = s.vu.procs.filter fun p => !sameDispute p.d q.d) ∧
  (∀ (ctx : Ctx) (s : State) (r : Replay) (n : Nat) (q : Plan), partDown s = false →
      ((s.vu.replays.find? fun r => r.ctx = ctx.toNat && replayReady s r) = some r) →
      planOfEpoch s ctx.toNat r.epoch = some (n, q) → (∀ l ∈ q.roster, labelWaits s l = false) →
      ∃ t, exec (.replaySend ctx) s = .next t ∧ t.vu.replays = s.vu.replays.erase r)

/-- Under the conditions that each clause names, for every state and operands, each command completes: XSETTLE of an
instance here asks the labels of side 0 and records the request and its header. XVERDICT UNRESOLVED ends the dispute
here and stands in LAST_VERDICT. Its timeout ends the wait with UNRESOLVED in LAST_VERDICT. (R252, R268, R355) -/
def Obligations.CrossDieVerdicts : Prop :=
  (∀ (p : HxPkt) (s : State) (h m n : Nat) (q : Plan), partDown s = false → h = leAt p.payload 0 32 →
      nf h 97 97 = 0 → planOfEpoch s (nf h 255 244) (nf h 243 243 = 1) = some (m, q) →
      fullStep (baseOf s (nf h 255 244) (nf h 243 243 = 1)) (nf h 225 194) = some n →
      (instOf s (nf h 255 244) (nf h 243 243 = 1) n (nf h 240 226)).isSome = true →
      attemptOf s (nf h 255 244) (nf h 243 243 = 1) n = nf h 242 241 →
      ∃ t, exec (.xsettle p) s = .next t ∧ t.vu.xreqs = s.vu.xreqs ++
            [{ die := hxSrc p, header := h, asked := sideLabels s q (nf h 240 226) 0, ranges := [], reqId := s.vu.reqSeq % 2 ^ 16 }]) ∧
  (∀ (p : HxPkt) (s : State) (d : Dispute) (n : Nat) (q : Plan), partDown s = false → d = xverdictDispute p s →
      hxSrc p < dieNat s → fld p.ext 129 127 = vUNRESOLVED → planOfEpoch s d.ctx d.epoch = some (n, q) →
      ((stepOf s d.ctx d.epoch d.step).map (·.unresolved)).getD false = false →
      ∃ t, exec (.xverdict p) s = .next t ∧ t.vu.lastVerdict = verdictWord d vUNRESOLVED none ∧
          t.vu.xwaits = s.vu.xwaits.filter (fun x => !sameDispute d x) ∧ t.vu.procs = s.vu.procs.filter fun x => !sameDispute x.d d) ∧
  (∀ (ctx : Ctx) (step : BitVec 32) (task : BitVec 15) (s : State) (d : Dispute),
      ((s.vu.xwaits.find? fun d => d.ctx = ctx.toNat && d.step % 2 ^ 32 = step.toNat && d.task = task.toNat) = some d) →
      ∃ t, exec (.xverdictWaitTimeout ctx step task) s = .next t ∧ t.vu.lastVerdict = verdictWord d vUNRESOLVED none ∧
          t.vu.xwaits = s.vu.xwaits.erase d)

/-- Under the conditions that each clause names, for every state and operands, each command completes: HLINK_DOWN
removes the link and asks for an install with rerouting. HLINK_WIDTH records the trained width, up or reduced, and
asks for an install. HROUTER_FAIL adds the router to the dead ones and asks for an install with rerouting.
ROUTE_MISS counts one miss and changes nothing else. INSTALL_START computes the new tables for what is reachable and
begins to write them. FCP_RESPONSE to a table write stores the word in the table of the target. COUNT_READ_POLL asks
every live router for its counters. RETIRE_TIMEOUT retires the standby version by force and takes the drain
difference as its baseline. (R275, R276, R280, R281, R282, R283, R508) -/
def Obligations.MeshReroutes : Prop :=
  (∀ (link : Huid) (s : State) (p : PortT) (r : List PortT), s.ym.standby ≠ .writing → linkPorts s link = p :: r →
      ∃ t, exec (.hlinkDown link) s = .next t ∧ t.ym = { s.ym with
            links := Tab.set s.ym.links link.toNat { linkSt s p with st := .removed, trained := 0 }
            pending := true
            reroute := true }) ∧
  (∀ (link : Huid) (trained full : BitVec 4) (s : State) (p : PortT) (r : List PortT), s.ym.standby ≠ .writing →
      linkPorts s link = p :: r → trained ≠ 0 →
      ∃ t, exec (.hlinkWidth link trained full) s = .next t ∧ t.ym = { s.ym with
            links := Tab.set s.ym.links link.toNat { full := full.toNat, trained := trained.toNat,
                                                     st := if full.toNat ≤ trained.toNat then .up else .reduced }
            pending := true }) ∧
  (∀ (router : Huid) (s : State), s.ym.deadRouters.contains router = false → s.ym.standby = .retired →
      s.ym.outstanding = [] → s.ym.toSend = [] →
      ∃ t, exec (.hrouterFail router) s = .next t ∧ t.ym.deadRouters = s.ym.deadRouters ++ [router] ∧ t.ym.pending = true ∧ t.ym.reroute = true) ∧
  (∀ (router : Huid) (entry : BitVec 8) (s : State),
      exec (.routeMiss router entry) s = .next (bump 580 1 s)) ∧
  (∀ (s : State), s.ym.standby = .retired → s.ym.pending = true →
      ∃ u, exec .installStart s = .next (ymAdvance u) ∧ u.ym.standby = .writing ∧ u.ym.pending = false ∧ u.ym.invalidate = false ∧
          u.ym.next = newTables (reachUpdate s)) ∧
  (∀ (header data : W64) (s : State) (q : FcpReq), fld header 63 60 = 1 → fld header 43 40 = 0 →
      ((s.ym.outstanding.find? fun q => q.op = 1 && q.target = BitVec.ofNat 16 (fld header 59 44)) = some q) →
      s.ym.outstanding.erase q ≠ [] →
      ∃ t, exec (.fcpResponse header data) s = .next t ∧
          t.ym.tables = Tab.set s.ym.tables (tableKey q.version q.target) ((tableOf s q.version q.target).set q.word q.data.toNat)) ∧
  (∀ (s : State), s.ym.standby = .draining → s.ym.polling = false → s.ym.outstanding = [] → liveRouters s ≠ [] →
      ∃ t, exec .countReadPoll s = .next t ∧ t.ym.polling = true ∧ t.ym.polled = [] ∧
          t.ym.toSend.length + t.ym.outstanding.length = (liveRouters s).length) ∧
  (∀ (s : State), s.ym.standby = .draining →
      ∃ t, exec .retireTimeout s = .next t ∧ t.ym.standby = .retired ∧ t.ym.invalidate = true ∧ t.ym.forced = true ∧ t.ym.polling = false ∧
          (if s.ym.live then t.ym.baseline0 else t.ym.baseline1) = s.ym.lastInj - (s.ym.lastEj - drainBase s))

/-- Under the conditions that each clause names, for every state and operands, each command completes: An acceptable
message of the event port, its second half completing it, is appended to the ring with its units counted and its
sequence noted. EVENT of an acceptable message does the same for its port. A record waiting for room at the event
port is placed once there is room. The one of a collector is placed likewise. FC_PROCESS of a message whose class
counts it neither as an event nor with a response only takes it off the ring. (R293, R297, R298, R302, R504) -/
def Obligations.FaultMessagesEnterTheRing : Prop :=
  (∀ (d0 d1 : W64) (s : State) (m : W128) (r : RingRec), s.ports.slnUp = true → s.fc.eventWait = none →
      m = d1 ++ d0 → acceptable s m = true → Tab.get s.fc.seqs (msgHuid m).toNat = none →
      r = extRec rtEVENT 0 false [m] s → r.units ≤ ringTail s.fc → r.units + ringReserve s ≤ ringFree s.fc →
      ∃ t, exec (.eventPortMessage false d0 true d1) s = .next t ∧ t.fc = { s.fc with
            ring := s.fc.ring ++ [r]
            wr := s.fc.wr + BitVec.ofNat 13 r.units
            seqs := Tab.set s.fc.seqs (msgHuid m).toNat (msgSeq m, msgKind m, s.now.toNat) }) ∧
  (∀ (p : Ingress) (s : State) (m : W128) (r : RingRec), Arrives 5 p s → p.body.length = 16 →
      m = BitVec.ofNat 128 (leAt p.body 0 16) → acceptable s m = true → Tab.get s.fc.seqs (msgHuid m).toNat = none →
      Tab.getD s.fc.meshWait p.port.toNat [] = [] → r = extRec rtMESH p.port.toNat false [m] s →
      r.units ≤ ringTail s.fc → r.units + ringReserve s ≤ ringFree s.fc →
      ∃ t, exec (.event p) s = .next t ∧ t.fc = { s.fc with
            ring := s.fc.ring ++ [r]
            wr := s.fc.wr + BitVec.ofNat 13 r.units
            seqs := Tab.set s.fc.seqs (msgHuid m).toNat (msgSeq m, msgKind m, s.now.toNat) }) ∧
  (∀ (s : State) (r : RingRec), s.fc.eventWait = some r → r.units ≤ ringTail s.fc →
      r.units + ringReserve s ≤ ringFree s.fc →
      ∃ t, exec (.ringPlaceRetry .eventPort) s = .next t ∧ t.fc = { s.fc with
            ring := s.fc.ring ++ [r]
            wr := s.fc.wr + BitVec.ofNat 13 r.units
            eventWait := none }) ∧
  (∀ (u : BitVec 5) (s : State) (r : RingRec), Tab.get s.fc.collectors u.toNat = some [r] → r.units ≤ ringTail s.fc →
      r.units ≤ ringFree s.fc →
      ∃ t, exec (.ringPlaceRetry (.collector u)) s = .next t ∧ t.fc = { s.fc with
            ring := s.fc.ring ++ [r]
            wr := s.fc.wr + BitVec.ofNat 13 r.units
            collectors := Tab.del s.fc.collectors u.toNat }) ∧
  (∀ (s : State) (r : RingRec) (rest : List RingRec) (m : W128), s.fc.ring = r :: rest → r.msgs = [m] →
      s.fc.msgIdx = 0 → (r.type = rtINTERNAL ∨ msgKind m < 0x68 ∨ 0x6B < msgKind m) → rxNormal s (msgClass m) = 0 →
      rxSevere s (msgClass m) = 0 → (classSt s (msgClass m)).pending = false →
      ∃ t, exec .fcProcess s = .next t ∧ t.fc.ring = rest ∧ t.fc.rd = s.fc.rd + BitVec.ofNat 13 r.units ∧
          t.fc.processed = s.fc.processed + 1 ∧ t.fc.classes = s.fc.classes ∧ t.fc.first = s.fc.first)

/-- Under the conditions that each clause names, for every state and operands, each command completes: FC_ACK of a class
at its count clears its pending flag, acknowledges its sources and forgets the first fault of that class. An
injected message in FACTORY is appended to the ring as an event port record. An injected report is a report of that
unit and code. An armed ECC injection is added to the list. A level that leaked to zero zeroes that source, and one
acknowledged loses its marks; nothing else of the collector changes. (R301, R304, R309, R312, R314) -/
def Obligations.FaultsAcknowledgedAndInjected : Prop :=
  (∀ (priv : BitVec 2) (w : W64) (s : State), s.ports.rstLow = false → isOperator s priv = true →
      s.hx.hostOk = true → fld w 63 60 < s.fc.classes.length → fld w 63 60 < 10 →
      (classSt s (fld w 63 60)).cnt.toNat = fld w 59 44 →
      ∃ t, exec (.fcAck priv w) s = .next t ∧
          classSt t (fld w 63 60) = { classSt s (fld w 63 60) with pending := false, nmt := false } ∧
          t.fc.sources = s.fc.sources.map (ackSource s (fld w 63 60) s.now.toNat) ∧
          t.fc.first = match s.fc.first with
            | some x => if x.cls = fld w 63 60 then none else some x
            | none => none) ∧
  (∀ (priv : BitVec 2) (w : W64) (s : State) (m : W128) (r : RingRec), s.ports.rstLow = false →
      isOperator s priv = true → s.hx.hostOk = true → fld w 63 62 = 1 → bit w 61 = true → s.sec.lc = lcFACTORY →
      s.fc.injectWait = none → m = s.fc.inj1 ++ s.fc.inj0 → acceptable s m = true →
      Tab.get s.fc.seqs (msgHuid m).toNat = none → r = extRec rtEVENT 0 true [m] s → r.units ≤ ringTail s.fc →
      r.units + ringReserve s ≤ ringFree s.fc →
      ∃ t, exec (.injectMessage priv w) s = .next t ∧ t.fc = { s.fc with
            ring := s.fc.ring ++ [r]
            wr := s.fc.wr + BitVec.ofNat 13 r.units
            seqs := Tab.set s.fc.seqs (msgHuid m).toNat (msgSeq m, msgKind m, s.now.toNat) }) ∧
  (∀ (priv : BitVec 2) (w : W64) (s : State), s.ports.rstLow = false → isOperator s priv = true →
      s.hx.hostOk = true → fld w 63 62 = 2 → bit w 61 = true → s.sec.lc = lcFACTORY → fld w 55 48 < 19 →
      fld w 55 48 ≠ uIN → fld w 55 48 ≠ uFC →
      exec (.injectLocal priv w) s = .next (reportSelf (fld w 55 48) 0 (fld w 47 40) 0 none (answer hsOK 0 s))) ∧
  (∀ (priv : BitVec 2) (w : W64) (s : State), s.ports.rstLow = false → isOperator s priv = true →
      s.hx.hostOk = true → fld w 63 62 = 3 → bit w 61 = true → s.sec.lc = lcFACTORY →
      (fld w 39 38 = 1 ∨ fld w 39 38 = 2) → injectTarget (fld w 37 36) (fld w 55 48) = true →
      ∃ t, exec (.injectEcc priv w) s = .next t ∧ t.mem = { s.mem with armed := s.mem.armed ++ [(fld w 37 36, fld w 55 48, fld w 39 38)] }) ∧
  (∀ (cls : BitVec 4) (die : BitVec 6) (loc : W128) (s : State),
      ∃ t, exec (.levelLeakedToZero cls die loc) s = .next t ∧ t.fc = { s.fc with sources := t.fc.sources } ∧
          t.fc.sources = s.fc.sources.map fun x => if x.cls = cls.toNat ∧ x.die = die.toNat ∧ x.key = loc ∧ leaked s x s.now.toNat = 0 ∧ rxLimit s cls.toNat ≠ 1 then
            (if x.acked then { x with level := 0, severe := false, acked := false, last := s.now.toNat }
              else { x with level := 0, last := s.now.toNat })
          else x)

/-- Under the conditions that each clause names, for every state and operands, each command completes: The timeout of a
part-reset command holds the part and counts it. The timeout of a command to a unit that is no core marks the chip
failed and counts it. SC_ACK OK applies the order to the sector and frees it. A withdrawal that times out marks the
sector controller dead and asks for a reset. A free entry takes the first waiting order. (R317, R318, R319, R505) -/
def Obligations.ControllerOrdersEnd : Prop :=
  (∀ (entry : BitVec 11) (s : State) (c : Cmd), Tab.get s.ct.cmds entry.toNat = some c → c.cls = 9 →
      ∃ t, exec (.ctTimeout entry) s = .next t ∧ t.ct.part = .held ∧ t.ct.timeouts = s.ct.timeouts + 1 ∧
          t.ct.cmds = Tab.del s.ct.cmds entry.toNat) ∧
  (∀ (entry : BitVec 11) (s : State) (c : Cmd), Tab.get s.ct.cmds entry.toNat = some c → c.cls = 11 →
      huidClass c.target ≠ ucCORE →
      ∃ t, exec (.ctTimeout entry) s = .next t ∧ t.ct.chipFail = true ∧ t.ct.timeouts = s.ct.timeouts + 1) ∧
  (∀ (sector : BitVec 6) (rdata : W64) (s : State) (o : ScOrder), (sectorSt s sector.toNat).cur = some o →
      (sectorSt s sector.toNat).withdrawn = false → o.purposes = [] → (sectorSt s sector.toNat).queue = [] →
      ∃ t, exec (.scAck sector 0 rdata) s = .next t ∧
          sectorSt t sector.toNat = sectorEffect o (((sectorT s sector.toNat).map (·.present)).getD 0) { sectorSt s sector.toNat with cur := none }) ∧
  (∀ (sector : BitVec 6) (s : State), (sectorSt s sector.toNat).withdrawn = true →
      (sectorSt s sector.toNat).dead = false →
      ∃ t, exec (.scWithdrawTimeout sector) s = .next t ∧ (sectorSt t sector.toNat).dead = true ∧ t.ct.rstReq = true) ∧
  (∀ (s : State) (k n : Nat) (o : ScOrder) (since : Nat) (rest : List (Nat × ScOrder × Nat)), freeEntry s = some k →
      s.ct.waiting = (n, o, since) :: rest → (sectorSt s n).queue.length < 8 →
      (s.ym.standby = .retired ∨ s.ym.standby = .draining) →
      ∃ t, exec .ctEntryFree s = .next t ∧ t.ct.waiting = rest)

/-- Under the conditions that each clause names, for every state and operands, each command completes: KILL_CTX ends the
switch and the plan of the context. FENCE_CORE of a present core that serves marks it fenced by the host and its
label as being fenced. UNFENCE_CORE of a core fenced by the host orders the sector controller to unfence it.
RESET_SECTOR starts the first step of the reset for that order. SCRUB_SECTOR orders a scrub. RESET_ENGINE puts the
engine on the list of resets. RESET_PART starts the reset of the part and drops engine resets. (R322, R324, R325,
R326, R328, R329, R334) -/
def Obligations.HostOrdersStart : Prop :=
  (∀ (priv : BitVec 2) (w : W64) (s : State), s.ports.rstLow = false → isOperator s priv = true →
      s.hx.hostOk = true → fld w 63 60 = 1 → s.cfg.inService = true →
      ((s.ct.kills.find? fun k => k.ctx = fld w 43 32) = none) →
      ∃ t, exec (.killCtx priv w) s = .next t ∧ (ctxOf t (fld w 43 32)).switch = none ∧ planOf t (fld w 43 32) = none) ∧
  (∀ (priv : BitVec 2) (w : W64) (s : State), s.ports.rstLow = false → isOperator s priv = true →
      s.hx.hostOk = true → fld w 63 60 = 2 → s.cfg.inService = true → corePresent s (orderHuid w) = true →
      (sectorSt s (huidSector (orderHuid w))).rstStep = 0 → openRequest s (labelOf s (orderHuid w)) = none →
      sessionOf s (orderHuid w) = none → coreFenced s (orderHuid w) = false →
      isSpareLabel s (labelOf s (orderHuid w)) = false →
      ∃ t, exec (.fenceCore priv w) s = .next t ∧ (padOf t (orderHuid w)).hostFenced = true ∧
          t.ym.fencing = dedup (s.ym.fencing ++ [labelOf s (orderHuid w)])) ∧
  (∀ (priv : BitVec 2) (w : W64) (s : State) (k : Nat), s.ports.rstLow = false → isOperator s priv = true →
      s.hx.hostOk = true → fld w 63 60 = 3 → s.cfg.inService = true → corePresent s (orderHuid w) = true →
      (padOf s (orderHuid w)).hostFenced = true → (padOf s (orderHuid w)).st = .service →
      (sectorSt s (huidSector (orderHuid w))).rstStep = 0 → (sectorSt s (huidSector (orderHuid w))).cur = none →
      (sectorSt s (huidSector (orderHuid w))).queue = [] → (sectorSt s (huidSector (orderHuid w))).dead = false →
      freeEntry s = some k →
      ∃ t, exec (.unfenceCore priv w) s = .next t ∧ (sectorSt t (huidSector (orderHuid w))).cur =
          some (scMask opUNFENCE (coreBit (orderHuid w)) none fpHOST w)) ∧
  (∀ (priv : BitVec 2) (w : W64) (s : State) (x : SectorT), s.ports.rstLow = false → isOperator s priv = true →
      s.hx.hostOk = true → fld w 63 60 = 4 → s.cfg.inService = true → sectorT s (huidSector (orderHuid w)) = some x →
      (sectorSt s (huidSector (orderHuid w))).rstStep = 0 →
      ∃ t, exec (.resetSector priv w) s = .next t ∧ (sectorSt t (huidSector (orderHuid w))).rstStep = 1 ∧
          (sectorSt t (huidSector (orderHuid w))).rstFor = [(fpHOST, w)]) ∧
  (∀ (priv : BitVec 2) (w : W64) (s : State) (x : SectorT) (k : Nat), s.ports.rstLow = false →
      isOperator s priv = true → s.hx.hostOk = true → fld w 63 60 = 5 → s.cfg.inService = true →
      sectorT s (huidSector (orderHuid w)) = some x → (sectorSt s (huidSector (orderHuid w))).rstStep = 0 →
      (sectorSt s (huidSector (orderHuid w))).cur = none → (sectorSt s (huidSector (orderHuid w))).queue = [] →
      (sectorSt s (huidSector (orderHuid w))).dead = false → freeEntry s = some k →
      ∃ t, exec (.scrubSector priv w) s = .next t ∧ (sectorSt t (huidSector (orderHuid w))).cur = some (scMask opSCRUB 0 none fpHOST w)) ∧
  (∀ (priv : BitVec 2) (w : W64) (s : State) (u k : Nat), s.ports.rstLow = false → isOperator s priv = true →
      s.hx.hostOk = true → fld w 63 60 = 6 → s.cfg.inService = true → engineOf (orderHuid w) = some (u, k) →
      s.ct.part = .run →
      ∃ t, exec (.resetEngine priv w) s = .next t ∧ t.ct.engineRst = s.ct.engineRst ++ [(orderHuid w, some w)]) ∧
  (∀ (priv : BitVec 2) (w : W64) (s : State), s.ports.rstLow = false → isOperator s priv = true →
      s.hx.hostOk = true → fld w 63 60 = 7 → s.cfg.inService = true → s.ct.part = .run →
      ∃ t, exec (.resetPart priv w) s = .next t ∧ t.ct.part = .reset ∧ t.ct.partOrders = [w] ∧ t.ct.engineRst = [])

/-- Under the conditions that each clause names, for every state and operands, each command completes: LOCK with lanes
for an attempt goes to CONFIG with the swap and polarity found. An attempt that times out counts, and training
begins again. A removed port in use detects again. The expected frame without packets moves the expected number on.
A replay timeout sends all frames kept, again. A congestion window marks the port. (R343, R344, R349, R352, R362) -/
def Obligations.HitchPortsTrain : Prop :=
  (∀ (port : BitVec 2) (i : TrainInfo) (s : State), s.hx.down = false → port.toNat < s.hx.ports.length →
      (hxPort s port.toNat).st = .lock → attemptLanes (hxPort s port.toNat) i.lanes ≠ 0 →
      ∃ t, exec (.trainingStateAdvance port i) s = .next t ∧ (hxPort t port.toNat).st = .config ∧
          (hxPort t port.toNat).swap = i.swap ∧ (hxPort t port.toNat).polarity = i.polarity) ∧
  (∀ (port : BitVec 2) (s : State), s.hx.down = false → port.toNat < s.hx.ports.length →
      (hxPort s port.toNat).st ≠ .off → (hxPort s port.toNat).st ≠ .active → (hxPort s port.toNat).st ≠ .removed →
      attemptNo (hxPort s port.toNat) < 8 →
      ∃ t, exec (.trainingAttemptTimeout port) s = .next t ∧ (hxPort t port.toNat).attempts = (hxPort s port.toNat).attempts + 1 ∧
          (hxPort t port.toNat).st = if (hxPort s port.toNat).retraining then .lock else .detect) ∧
  (∀ (port : BitVec 2) (s : State), s.hx.down = false → port.toNat < s.hx.ports.length →
      (hxPort s port.toNat).st = .removed → portUsed s.cfg.topo (dieNat s) port.toNat = true →
      ∃ t, exec (.rejoinPeriod port) s = .next t ∧ (hxPort t port.toNat).st = .detect ∧ (hxPort t port.toNat).attempts = 1 ∧
          (hxPort t port.toNat).width = 0) ∧
  (∀ (port : BitVec 2) (f : Frame) (s : State), s.hx.down = false → port.toNat < s.hx.ports.length →
      (hxPort s port.toNat).st = .active → badWords f = 0 →
      fld f.control 255 248 = (hxPort s port.toNat).rxNext.toNat → f.packets = [] → bit f.control 239 = false →
      bit f.control 232 = false → (hxPort s port.toNat).syncDue = false →
      (((hxPort s port.toNat).replay.findIdx? fun r => r.1 = fld f.control 247 240) = none) →
      ∃ t, exec (.hxFrameReceive port f) s = .next t ∧ (hxPort t port.toNat).rxNext = (hxPort s port.toNat).rxNext + 1 ∧
          (hxPort t port.toNat).nakOut = false) ∧
  (∀ (port : BitVec 2) (s : State), s.hx.down = false → port.toNat < s.hx.ports.length →
      (hxPort s port.toNat).st = .active → (hxPort s port.toNat).replay ≠ [] →
      (hxPort s port.toNat).stalls + 1 < hxConf s 11 8 →
      ∃ t, exec (.replayTimeout port) s = .next t ∧ (hxPort t port.toNat).stalls = (hxPort s port.toNat).stalls + 1 ∧
          (hxPort t port.toNat).st = .active ∧
          t.ports.hxSent = s.ports.hxSent ++ ((hxPort s port.toNat).replay.flatMap (·.2)).map fun k => (port.toNat, k)) ∧
  (∀ (port : BitVec 2) (congested : Bool) (s : State), congested = creditsLow (hxPort s port.toNat) →
      port.toNat < s.hx.ports.length →
      ∃ t, exec (.congWindow port congested) s = .next t ∧ (hxPort t port.toNat).congested = congested)

/-- Under the conditions that each clause names, for every state and operands, each command completes: A unicast packet
for another die is put in the queue of its first port. E2E_ACK removes what it acknowledges from the unacknowledged
packets of that peer. A resend timeout counts one more try and injects a copy. The acknowledgement delay sends the
acknowledgement. FAULT_FWD, BULK, ORDER of the leader, TRACE with the TACK ready and SEC are taken: forwarded to the
collector, run as an order of the leader, kept with the bulk data, placed in the trace area, raised as an alarm.
(R353, R356, R365, R366, R475, R491) -/
def Obligations.HitchPacketsDelivered : Prop :=
  (∀ (port : BitVec 2) (p : HxPkt) (s : State), s.hx.down = false → (hxPort s port.toNat).st = .active →
      hxKind p ≠ 0 → hxKind p < 0x11 → hxMcast p = false → hxTgt p ≠ dieNat s →
      exec (.hxPacketArrive port p) s = .next (pumpAll (pumpAll (enqueue (firstPort s.cfg.topo (dieNat s) p) (some port.toNat)
          (firstPort s.cfg.topo (dieNat s) p ≠ farPort port.toNat) p s)))) ∧
  (∀ (p : HxPkt) (s : State), hxKind p = kE2EACK → s.hx.down = false →
      (txOf s (txKey (hxSrc p) false)).waiting = [] → (txOf s mcastKey).waiting = [] →
      ∃ t, exec (.e2eAck p) s = .next t ∧ t.hx.tx = Tab.upd s.hx.tx (txKey (hxSrc p) (hxBody p 143 143 = 1)) TxSt.reset fun x =>
          { x with unacked := x.unacked.filter fun u => !ackedSeq (hxBody p 191 176) (hxBody p 175 144) (hxSeq u.1) }) ∧
  (∀ (die : BitVec 6) (space : Bool) (seq : BitVec 16) (s : State) (p : HxPkt) (n : Nat), s.hx.down = false →
      (((txOf s (txKey die.toNat space)).unacked.find? fun u => hxSeq u.1 = seq.toNat) = some (p, n)) →
      n < hxConf s 55 48 →
      exec (.resendTimeout die space seq) s = .next (injectCopy p (bump 804 1 (s.mTx (txKey die.toNat space) fun x =>
          { x with unacked := x.unacked.map fun u => if hxSeq u.1 = seq.toNat then (u.1, u.2 + 1) else u })))) ∧
  (∀ (die : BitVec 6) (space : Bool) (s : State), s.hx.down = false →
      (rxOf s (txKey die.toNat space)).unackedArrivals ≠ 0 →
      exec (.ackDelay die space) s = .next (sendAck die.toNat space s)) ∧
  (∀ (p : HxPkt) (s : State), hxKind p = kFAULTFWD → s.hx.down = false →
      ∃ t, exec (.faultFwd p) s = .next t ∧ t.hx = { s.hx with forwarded := s.hx.forwarded ++ [p], delivered := s.hx.delivered.erase p }) ∧
  (∀ (p : HxPkt) (s : State), hxKind p = kORDER → s.hx.down = false → nodeLeader s = some (hxSrc p) →
      s.cfg.inService = true →
      exec (.order p) s = .next (ctOrder fpLEADER (BitVec.ofNat 64 (hxBody p 63 0)) (consume p s))) ∧
  (∀ (p : HxPkt) (s : State), hxKind p = kBULK → s.hx.down = false → hxArg p = 1 →
      ∃ t, exec (.bulk p) s = .next t ∧ t.hx = { s.hx with bulkIn := s.hx.bulkIn ++ [p], delivered := s.hx.delivered.erase p }) ∧
  (∀ (p : HxPkt) (s : State), hxKind p = kTRACE → s.hx.down = false → isLeader s = true → tackReady s = true →
      exec (.trace p) s = .next (tackPlace 5 p.payload (consume p s))) ∧
  (∀ (p : HxPkt) (s : State), hxKind p = kSEC → s.hx.down = false →
      exec (.sec p) s = .next (raiseAlarm 12 (secReport 0xA7 (consume p s))))

/-- Under the conditions that each clause names, for every state and operands, each command completes: A newer STATE
record of the same boot replaces the one held. TBL_READY is noted for its die. FLIP takes the version and the base
counts and begins the drain. A COUNT reply is noted for its die. A COUNT query is answered with the counts of that
version. RETIRE of the version drained retires it. A refresh renews the own record. A stale record is marked as not
current. HOST_OK lapses. A poll starts a new round of counts. A retirement timeout retires by force with the last
difference as base. (R341, R367, R368, R369, R370) -/
def Obligations.NodeMapAgrees : Prop :=
  (∀ (p : HxPkt) (s : State) (r : DieRec), hxKind p = kSTATE → s.hx.down = false → hxSrc p ≠ dieNat s →
      Tab.get s.hx.map (hxSrc p) = some r → r.boot = (parseRecord p.payload).boot →
      r.version.toNat ≤ (parseRecord p.payload).version.toNat → (Tab.get s.hx.map (dieNat s)).isSome = true →
      ∃ t, exec (.state p) s = .next t ∧ t.hx.map = Tab.set s.hx.map (hxSrc p) (parseRecord p.payload)) ∧
  (∀ (p : HxPkt) (s : State) (d : Nat), hxKind p = kTBLREADY → s.hx.down = false → isCoord s = true →
      d ∈ liveDies s → d ≠ hxSrc p → Tab.get s.hx.ready d = none →
      ∃ t, exec (.tblReady p) s = .next t ∧ t.hx.ready = Tab.set s.hx.ready (hxSrc p) (hxBody p 191 160)) ∧
  (∀ (p : HxPkt) (s : State), hxKind p = kFLIP → s.hx.down = false →
      ∃ t, exec (.epochFlip p) s = .next t ∧ t.hx.live = decide (hxArg p % 2 = 1) ∧ t.hx.standby = .draining ∧
          t.hx.base0 = BitVec.ofNat 32 (leAt p.payload 0 4) ∧ t.hx.base1 = BitVec.ofNat 32 (leAt p.payload 4 4) ∧
          t.hx.installs = s.hx.installs + 1 ∧ t.hx.counts = []) ∧
  (∀ (p : HxPkt) (s : State) (d : Nat), hxKind p = kCOUNT → s.hx.down = false → hxBody p 191 191 = 1 →
      isCoord s = true → s.hx.standby = .draining → decide (hxBody p 190 190 = 1) ≠ s.hx.live → d ∈ liveDies s →
      d ≠ hxSrc p → Tab.get s.hx.counts d = none →
      ∃ t, exec (.count p) s = .next t ∧ t.hx.counts = Tab.set s.hx.counts (hxSrc p) (hxBody p 189 158, hxBody p 157 126)) ∧
  (∀ (p : HxPkt) (s : State), hxKind p = kCOUNT → s.hx.down = false → hxBody p 191 191 = 0 → hxBody p 190 190 = 1 →
      exec (.count p) s = .next (hxSend (hxSrc p) (shortPkt kCOUNT (put 191 191 1 + put 190 190 1 + put 189 158 s.hx.inj1.toNat +
          put 157 126 s.hx.ej1.toNat)) (consume p s))) ∧
  (∀ (p : HxPkt) (s : State), hxKind p = kRETIRE → s.hx.down = false → decide (hxArg p % 2 = 1) ≠ s.hx.live →
      s.hx.standby = .draining → s.hx.pendingMap = false →
      ∃ t, exec (.retire p) s = .next t ∧ t.hx = { s.hx with standby := .retired, delivered := s.hx.delivered.erase p }) ∧
  (∀ (s : State) (r : DieRec), Tab.get s.hx.map (dieNat s) = some r →
      ∃ t, exec .stateRefresh s = .next t ∧ t.hx.map = Tab.set s.hx.map (dieNat s) { ownRecord s with version := r.version }) ∧
  (∀ (die : BitVec 6) (s : State), die.toNat ≠ dieNat s →
      ∃ t, exec (.stateStale die) s = .next t ∧ t.hx.map = Tab.mod s.hx.map die.toNat fun r => { r with current := false }) ∧
  (∀ (s : State),
      ∃ t, exec .hostOkLapse s = .next t ∧ t.hx.hostOk = false) ∧
  (∀ (s : State), isCoord s = true → s.hx.standby = .draining → s.hx.down = false →
      ∃ t, exec .pollPeriod s = .next t ∧ t.hx.counts = []) ∧
  (∀ (s : State), isCoord s = true → s.hx.standby = .draining → s.hx.down = false →
      ∃ t, exec .hxRetireTimeout s = .next t ∧ t.hx.forced = true ∧
          (if s.hx.live then t.hx.base0 = s.hx.lastDiff ∧ t.hx.base1 = s.hx.base1 else t.hx.base0 = s.hx.base0 ∧ t.hx.base1 = s.hx.lastDiff))

/-- Under the conditions that each clause names, for every state and operands, each command completes: An operator
arriving with ARRIVE makes the barrier wait in the next generation with the mask set. The first arrival at the
coordinator opens the barrier with its generation, mask and die. RELEASE of the generation waiting notes the release
time. At the release time the barrier is released, and its output stands for 64 periods. The coordinator closes a
barrier that times out. (R373, R374) -/
def Obligations.BarriersRelease : Prop :=
  (∀ (priv : BitVec 2) (w : W64) (s : State), s.ports.rstLow = false → isOperator s priv = true →
      s.hx.hostOk = true → fld w 63 60 ≠ 0 → fld w 63 60 < s.hx.barriers.length → s.cfg.inService = true →
      bit w 59 = true →
      ∃ t, exec (.hostBarrierArrive priv w) s = .next t ∧ t.hx.lastBarrier = fld w 63 60 ∧
          barrierOf t (fld w 63 60) = { barrierOf s (fld w 63 60) with
            st := .waiting, gen := (barrierOf s (fld w 63 60)).gen + 1, mask := s.hx.barrierMask, tRel := 0 }) ∧
  (∀ (p : HxPkt) (s : State), hxKind p = kARRIVE → s.hx.down = false → isCoord s = true →
      hxBody p 191 188 < s.hx.barriers.length → (barrierOf s (hxBody p 191 188)).open_ = false →
      (barrierOf s (hxBody p 191 188)).coordMask = 0 →
      BitVec.ofNat 64 (hxBody p 179 116) &&& ~~~(1#64 <<< hxBody p 115 110) ≠ 0 →
      ∃ t, exec (.barrierArrive p) s = .next t ∧ barrierOf t (hxBody p 191 188) = { barrierOf s (hxBody p 191 188) with
          coordGen := BitVec.ofNat 8 (hxBody p 187 180)
          coordMask := BitVec.ofNat 64 (hxBody p 179 116)
          arrived := 1#64 <<< hxBody p 115 110
          open_ := true }) ∧
  (∀ (p : HxPkt) (s : State), hxKind p = kRELEASE → s.hx.down = false → fld p.ext 39 36 < s.hx.barriers.length →
      (barrierOf s (fld p.ext 39 36)).st = .waiting → (barrierOf s (fld p.ext 39 36)).gen.toNat = fld p.ext 35 28 →
      bit p.ext 27 = false → s.now.toNat ≤ leAt p.payload 0 8 →
      ∃ t, exec (.barrierRelease p) s = .next t ∧ barrierOf t (fld p.ext 39 36) = { barrierOf s (fld p.ext 39 36) with tRel := leAt p.payload 0 8 }) ∧
  (∀ (barrier : BitVec 4) (s : State), barrier.toNat < s.hx.barriers.length → barrier ≠ 0 →
      (barrierOf s barrier.toNat).st = .waiting → (barrierOf s barrier.toNat).tRel ≠ 0 →
      (barrierOf s barrier.toNat).tRel ≤ s.now.toNat →
      ∃ t, exec (.barrierReleaseTime barrier) s = .next t ∧ barrierOf t barrier.toNat = { barrierOf s barrier.toNat with st := .released } ∧
          t.hx.barrierOut = s.now.toNat + 64) ∧
  (∀ (barrier : BitVec 4) (s : State), barrier.toNat < s.hx.barriers.length →
      (barrierOf s barrier.toNat).open_ = true → isCoord s = true → s.hx.down = false →
      ∃ t, exec (.barrTimeout barrier) s = .next t ∧ barrierOf t barrier.toNat = { barrierOf s barrier.toNat with open_ := false })

/-- Under the conditions that each clause names, for every state and operands, each command completes: An allowed BIST
order with no plan runs a test of its scope, hard or soft. With a plan resident it answers BUSY and changes no
memory. A test with no failing row in scope ends in PASS. Fuse programming in FACTORY counts the rows blown and says
whether all were. (R384, R390, R391, R392) -/
def Obligations.ArraysTestedAndFused : Prop :=
  (∀ (priv : BitVec 2) (w : W64) (s : State), s.ports.rstLow = false → isOperator s priv = true →
      s.hx.hostOk = true → factoryAccess s priv = true → bit w 63 = true → fld w 62 60 < 4 → fld w 59 58 < 2 →
      s.fr.bistStatus ≠ bsRUNNING → domainFailed s 21 = false → s.led.plans = [] → s.led.staging = none →
      ∃ t, exec (.hostBist priv w) s = .next t ∧ t.fr.bistStatus = bsRUNNING ∧ t.fr.bistScope = fld w 62 60 ∧
          t.fr.bistSoft = decide (fld w 59 58 = 1)) ∧
  (∀ (priv : BitVec 2) (w : W64) (s : State), s.ports.rstLow = false → isOperator s priv = true →
      s.hx.hostOk = true → factoryAccess s priv = true → bit w 63 = true → fld w 62 60 < 4 → fld w 59 58 < 2 →
      s.fr.bistStatus ≠ bsRUNNING → domainFailed s 21 = false → s.led.plans ≠ [] →
      ∃ t, exec (.hostBist priv w) s = .next t ∧ t.fr.bistStatus = bsBUSY ∧ t.mem = s.mem) ∧
  (∀ (fails dead : List FailEntry) (s : State), s.fr.bistStatus = bsRUNNING → testConditions s = true →
      (failRows (fails.filter fun e => inScope s.fr.bistScope e.array.toNat) = []) →
      ∃ t, exec (.bistDone fails dead) s = .next t ∧ t.fr.bistStatus = bsPASS) ∧
  (∀ (priv : BitVec 2) (w : W64) (ok : List Bool) (s : State), s.ports.rstLow = false → isOperator s priv = true →
      s.hx.hostOk = true → s.sec.lc = lcFACTORY → bit w 63 = true → windowsHold s = true →
      ∃ t, exec (.fuseProgram priv w ok) s = .next t ∧ t.fr.fuseDone = t.nv.fuses.length - s.nv.fuses.length ∧
          t.fr.fuseStatus = if t.fr.fuseDone = (s.mem.rowMaps.filter fun m => m.origin ≠ 3).length then 2 else 4)

/-- Under the conditions that each clause names, for every state and operands, each command completes: TURNOUT_SELECT of
a serving core that is no party, in a sector with a spare free and none in turnout, puts it last on the list of
cores to test. SUSPECT_TEST of a suspect core does so. A session that may open leaves the list of those wanted and
starts at item 1 with the selected bank. An operator order of a core that the host fenced puts it on that list. A
TEST reply goes to the session of its core. A first timeout is counted. A scan block that is right moves the session
to the next block. (R254, R256, R395, R396, R397, R515) -/
def Obligations.TestSessionsRun : Prop :=
  (∀ (core : Huid) (s : State), coreServes s core = true → sectorInTurnout s (huidSector core) = false →
      freeSpares s (huidSector core) ≠ [] → isParty s (labelOf s core) = false → s.cfg.inService = true →
      partDown s = false →
      ∃ t, exec (.turnoutSelect core) s = .next t ∧ t.fr.wanted = (s.fr.wanted.filter fun x => x.1 ≠ core) ++ [(core, false)]) ∧
  (∀ (core : Huid) (s : State), (padOf s core).st = .suspect → partDown s = false →
      ∃ t, exec (.suspectTest core) s = .next t ∧ t.fr.wanted = (s.fr.wanted.filter fun x => x.1 ≠ core) ++ [(core, false)]) ∧
  (∀ (core : Huid) (bankOk : Bool) (s : State) (host : Bool), engineHeld s uFR 0 = false →
      ((s.fr.wanted.find? fun w => w.1 = core) = some (core, host)) → orderStands s core host = true →
      sessionAllowed s host = true → coreFenced s core = true → channelSession s (channelOf core) = none →
      bit s.fr.chanFenced (channelOf core) = false → domainFailed s 21 = false → testConditions s = true →
      s.fr.bankChecked = true → (padOf s core).noFirmware = false →
      ∃ t, exec (.testSessionOpen core true bankOk) s = .next t ∧ t.fr.wanted = (s.fr.wanted.filter fun w => w.1 ≠ core) ∧
          t.fr.sessions = s.fr.sessions ++ [⟨channelOf core, core, 1, 0, s.nv.selector, false, 0, host, false⟩]) ∧
  (∀ (priv : BitVec 2) (w : W64) (s : State), s.ports.rstLow = false → isOperator s priv = true →
      s.hx.hostOk = true → factoryAccess s priv = true → bit w 63 = true →
      corePresent s (BitVec.ofNat 16 (fld w 62 47)) = true →
      (padOf s (BitVec.ofNat 16 (fld w 62 47))).hostFenced = true →
      (sessionOf s (BitVec.ofNat 16 (fld w 62 47))).isNone = true → partDown s = false →
      ∃ t, exec (.hostTestSession priv w) s = .next t ∧ t.fr.wanted =
          (s.fr.wanted.filter fun x => x.1 ≠ BitVec.ofNat 16 (fld w 62 47)) ++ [(BitVec.ofNat 16 (fld w 62 47), true)]) ∧
  (∀ (p : Ingress) (s : State) (x : Session), Arrives 8 p s → sessionOf s (physOf s p.src) = some x →
      exec (.testReply p) s = .next (sessionReply x p.sub (fld (p.pre 0) 41 40) (payloadAfter p 8) s)) ∧
  (∀ (channel : BitVec 4) (s : State) (x : Session), channelSession s channel.toNat = some x → x.mustering = false →
      (padOf s x.core).timeoutsInRow = 0 →
      ∃ t, exec (.testTimeout channel) s = .next t ∧ (padOf t x.core).timeoutsInRow = 1) ∧
  (∀ (channel : BitVec 4) (r : ScanSay) (s : State) (x : Session), engineHeld s uFR 0 = false →
      channelSession s channel.toNat = some x → x.item = 3 → r.blockCrcOk = true → r.signatureOk = true →
      1 < x.blocksLeft →
      ∃ t, exec (.scanBlockDone channel r) s = .next t ∧ t.fr.sessions = (s.mSession channel.toNat fun y =>
          { y with blocksLeft := y.blocksLeft - 1, index := y.index + 1 }).fr.sessions)

/-- Under the conditions that each clause names, for every state and operands, each command completes: OPEN with room
starts to receive. DATA appends eight bytes. CLOSE starts the verification. ABORT ends. VERIFY ends DONE; a bad
signature gives code 1 and changes no bank; a package with a good signature, the whole length, a content and a
higher PKG_SEQ than the active bank gives code 0, stands in the other bank and switches the selector. A bad read-
back gives code 5 and changes no bank. (R399, R400) -/
def Obligations.PatternPackagesInstall : Prop :=
  (∀ (priv : BitVec 2) (w : W64) (s : State), s.ports.rstLow = false → isOperator s priv = true →
      s.hx.hostOk = true → fld w 63 62 = 1 → pkgAllowed s priv = true → pkgBusy s = false →
      ((s.fr.sessions.any fun x => x.bank ≠ s.nv.selector) = false) → domainFailed s 21 = false →
      engineHeld s uFR 0 = false → fld w 31 0 ≤ bankRoom s →
      ∃ t, exec (.pkgOpen priv w) s = .next t ∧ t.fr.pkgState = pkRECEIVING ∧ t.fr.pkgCode = 0 ∧ t.fr.pkgBytes = [] ∧
          t.fr.pkgLen = fld w 31 0 ∧ t.fr.pkgReceived = 0) ∧
  (∀ (priv : BitVec 2) (w : W64) (s : State), s.ports.rstLow = false → isOperator s priv = true →
      s.hx.hostOk = true → pkgAllowed s priv = true → s.fr.pkgState = pkRECEIVING →
      s.fr.pkgReceived + 8 ≤ s.fr.pkgLen → windowsHold s = true →
      ∃ t, exec (.pkgData priv w) s = .next t ∧ t.fr.pkgState = pkRECEIVING ∧ t.fr.pkgBytes = s.fr.pkgBytes ++ leBytes 8 w.toNat ∧
          t.fr.pkgReceived = s.fr.pkgReceived + 8) ∧
  (∀ (priv : BitVec 2) (w : W64) (s : State), s.ports.rstLow = false → isOperator s priv = true →
      s.hx.hostOk = true → fld w 63 62 = 2 → pkgAllowed s priv = true →
      (s.fr.pkgState = pkRECEIVING ∨ s.fr.pkgState = pkWAIT) →
      ∃ t, exec (.pkgClose priv w) s = .next t ∧ t.fr = { s.fr with pkgState := pkVERIFYING }) ∧
  (∀ (priv : BitVec 2) (w : W64) (s : State), s.ports.rstLow = false → isOperator s priv = true →
      s.hx.hostOk = true → fld w 63 62 = 3 → pkgAllowed s priv = true → pkgBusy s = true →
      ∃ t, exec (.pkgAbort priv w) s = .next t ∧ t.fr = { s.fr with pkgState := pkIDLE }) ∧
  (∀ (s : State), s.fr.pkgState = pkVERIFYING →
      ∃ t, exec (.pkgVerify true) s = .next t ∧ t.fr.pkgState = pkDONE ∧
          (Config.ecdsaVerify s.nv.otp.patKey (Config.sha384 (Config.packageSigned s.fr.pkgBytes).1) (Config.packageSigned s.fr.pkgBytes).2 = false →
            t.fr.pkgCode = 1 ∧ t.nv = s.nv) ∧
          ∀ seq cat kT descs blocks repros,
            Config.ecdsaVerify s.nv.otp.patKey (Config.sha384 (Config.packageSigned s.fr.pkgBytes).1) (Config.packageSigned s.fr.pkgBytes).2 = true →
            s.fr.pkgReceived = s.fr.pkgLen → Config.packageContent s.fr.pkgBytes = some (seq, cat, kT, descs, blocks, repros) →
            ((bankNo s s.nv.selector).installed = true → (bankNo s s.nv.selector).pkgSeq < seq) →
            t.fr.pkgCode = 0 ∧ t.nv.selector = !s.nv.selector ∧
            bankNo t (!s.nv.selector) = ⟨true, seq, cat, kT, descs, repros, blocks, s.fr.pkgBytes⟩ ∧
            bankNo t s.nv.selector = bankNo s s.nv.selector) ∧
  (∀ (s : State), s.fr.pkgState = pkVERIFYING →
      ∃ t, exec (.pkgVerify false) s = .next t ∧ t.fr = { s.fr with pkgState := pkDONE, pkgCode := 5 } ∧ t.nv = s.nv)

/-- Under the conditions that each clause names, for every state and operands, each command completes: Releasing RST_N
enters stage 1 and changes no non-volatile memory. RST_N asserted leaves the cold state: non-volatile memory stays,
a pending key kill is cancelled, and the TAP instruction, WRST_N and the queue stay. A supply failure does the same
and leaves the TAP at IDCODE. WRST_N low only marks the pin. WRST_N released starts a reset of the part. (R329,
R406, R500, R501, R502) -/
def Obligations.ResetPinsAndSupplies : Prop :=
  (∀ (dieId : BitVec 6) (s : State), s.ports.rstLow = true →
      ∃ t, exec (.rstNRelease dieId) s = .next t ∧ t.cfg.stage = 1 ∧ t.cfg.lastStatus = rsPASS ∧ t.nv = s.nv) ∧
  (∀ (s : State),
      ∃ t, exec .rstNAssert s = .next t ∧ t = { State.cold { s.nv with otp := { s.nv.otp with killDue := false } } with
          pending := s.pending
          draws := s.draws
          ports := { (State.cold s.nv).ports with wrstLow := s.ports.wrstLow, tap := s.ports.tap } }) ∧
  (∀ (s : State),
      ∃ t, exec (.suppliesFail false) s = .next t ∧ t = { State.cold { s.nv with otp := { s.nv.otp with killDue := false } } with
          pending := s.pending
          draws := s.draws
          ports := { (State.cold s.nv).ports with wrstLow := s.ports.wrstLow, tap := .idcode } }) ∧
  (∀ (s : State),
      ∃ t, exec .wrstNAssert s = .next t ∧ t = s.mPorts fun p => { p with wrstLow := true }) ∧
  (∀ (s : State), s.ports.wrstLow = true → s.ports.rstLow = false →
      exec .wrstNRelease s = .next (partReset [] (s.mPorts fun p => { p with wrstLow := false })))

/-- Under the conditions that each clause names, for every state and operands, each command completes: S1 with its self-
tests passed and a legal life cycle reads the state from OTP. S2 takes the first valid copy of the image, reports
each bad one, and stops fatally with none. With empty copies it holds fatally. S3 with no dead row fatal zeroes the
arrays and tags. S4 with the ports settled in the largest group ends, a loss where a port is weak. S5 with a survey
that leaves a sector ends. S6 with a result of every core ends, a loss where one failed. S7 with a live router ends.
S8 starts the muster of the serving cores. S9 of a joining die enters service; else it arrives at barrier 0. (R345,
R386, R405, R410, R417, R418, R419, R421, R422, R428) -/
def Obligations.StartStagesRun : Prop :=
  (∀ (i : SelfTest) (s : State), runsStage s 1 = true → i.lockstepOk = true → i.keyStoreOk = true → i.trngOk = true →
      lcValid s = true → s.nv.otp.lc ≠ 0 → s.nv.otp.lc ≠ lcDECOMMISSIONED →
      ∃ t, exec (.stageS1 i) s = .next t ∧ t.cfg.stage = 2 ∧ t.cfg.lastStatus = rsPASS ∧ t.sec.lc = s.nv.otp.lc) ∧
  (∀ (a b : Bytes) (s : State), runsStage s 2 = true →
      ∃ t, exec (.stageS2 a b) s = .next t ∧ t =
          if imageValid s.nv.otp.imageKey s.nv.otp.minSeq.toNat a = true then stageS2With a false s
          else if imageValid s.nv.otp.imageKey s.nv.otp.minSeq.toNat b = true then stageS2With b true (reportSelf uCFG 0 0xB0 0 none s)
          else stageFatal 2 [] 0 (reportSelf uCFG 0 0xB1 0 none (reportSelf uCFG 0 0xB0 0 none (reportSelf uCFG 0 0xB0 0 none s)))) ∧
  (∀ (s : State), runsStage s 2 = true →
      ∃ t, exec (.stageS2 [] []) s = .next t ∧ t.cfg.heldAt = true ∧ t.cfg.lastStatus = rsFATAL) ∧
  (∀ (dead : List FailEntry) (s : State), runsStage s 3 = true → s3Waits s = false →
      s3Fatal [] (zeroArrays 0 (buildRowMaps (bistLog [] dead s))) = false →
      ∃ t, exec (.stageS3 [] dead false) s = .next t ∧ t.cfg.stage = 4 ∧ t.cfg.lastStatus = rsPASS ∧
          t.mem.loft = [] ∧ t.mem.cm = [] ∧ t.mem.opbuf = [] ∧ t.mem.tags = []) ∧
  (∀ (s : State) (r : DieRec), runsStage s 4 = true → Tab.get s.hx.map (dieNat s) = some r → portsSettled s = true →
      s.hx.disconnected = false → inLargest s = true →
      ∃ t, exec .stageS4 s = .next t ∧ t.cfg.stage = 5 ∧ t.cfg.lastStatus = lossStatus (decide (0 < (weakPorts s).length))) ∧
  (∀ (v : Survey) (s : State), runsStage s 5 = true → (v.mismatches = []) → v.tackOk = true →
      (lostSectors v (applyStud (surveyLinks v (surveyRouters v (surveySectors v s))))).length ≠ (applyStud (surveyLinks v (surveyRouters v (surveySectors v s)))).cfg.topo.sectors.length →
      ∃ t, exec (.stageS5 v) s = .next t ∧ t.cfg.stage = 6) ∧
  (∀ (results : List PairSay) (s : State), runsStage s 6 = true →
      results.all (sayFits (s6Pairs s) (s6Cores s)) = true →
      (((s6Cores s).any fun h => (s6Result results h).isNone) = false) →
      (((s6Cores s).all fun h => (s6Result results h).getD 0 = 2) = false) →
      ∃ t, exec (.stageS6 results false) s = .next t ∧ t.cfg.stage = 7 ∧
          t.cfg.lastStatus = lossStatus (!((s6Cores s).filter (fun h => (s6Result results h).getD 0 = 2) ++
            (s6Cores s).filter fun h => (s6Result results h).getD 0 = 1).isEmpty)) ∧
  (∀ (s : State), runsStage s 7 = true → (liveRouters (firstTables (remapAll (reachUpdate s)))).isEmpty = false →
      ∃ t, exec (.stageS7 true) s = .next t ∧ t.cfg.stage = 8) ∧
  (∀ (h : Huid) (hs : List Huid) (s : State), runsStage s 8 = true → musterBusy s = false →
      (allCores s).filter (coreServes s) = h :: hs →
      exec .stageS8 s = .next (startMuster false 0 (h :: hs) s)) ∧
  (∀ (s : State), runsStage s 9 = true → joining s = true →
      exec .stageS9 s = .next (enterService rsPASS 0 s)) ∧
  (∀ (s : State), runsStage s 9 = true → joining s = false → s.cfg.b0Tries = 0 →
      exec .stageS9 s = .next (arriveBarrier0 s))

/-- Under the conditions that each clause names, for every state and operands, each command completes: BITMAP of a core
asked notes the blocks it lacks. COMMIT_ACK of the running image notes the core as committed. A timeout in COMMIT
ends the muster. One before it takes the silent cores as lacking every block. A sector muster starts with no other,
or waits in the queue. (R428, R430) -/
def Obligations.MusterProceeds : Prop :=
  (∀ (p : Ingress) (s : State), s.ports.slnUp = true → p.ok = true → p.kind = 0x09 → p.sub = 2 →
      mustering s (physOf s p.src) = none → s.cfg.muster.waiting.contains (physOf s p.src) = true →
      exec (.bitmap p) s = .next (musterAnswered (s.mMuster fun m => { m with
          waiting := m.waiting.erase (physOf s p.src)
          complete := if (lacking s (payloadAfter p 16)).isEmpty ∧ m.st ≠ muCOMMIT then dedup (m.complete ++ [physOf s p.src]) else m.complete
          missing := Tab.set m.missing (physOf s p.src).toNat (lacking s (payloadAfter p 16)) }))) ∧
  (∀ (p : Ingress) (s : State), s.ports.slnUp = true → p.ok = true → p.kind = 0x09 → p.sub = 4 →
      fld (p.pre 0) 63 32 = s.cfg.imageSeq.toNat → mustering s (physOf s p.src) = none → s.cfg.muster.st = muCOMMIT →
      s.cfg.muster.waiting.contains (physOf s p.src) = true →
      exec (.commitAck p) s = .next (musterAnswered ((s.mPad (physOf s p.src) fun q => { q with noFirmware := false }).mMuster fun m =>
          { m with waiting := m.waiting.erase (physOf s p.src), acked := m.acked ++ [physOf s p.src] }))) ∧
  (∀ (s : State), s.cfg.muster.st = muCOMMIT →
      exec .musterTimeout s = .next (musterEnd s)) ∧
  (∀ (s : State), (s.cfg.muster.st = muQUERY ∨ s.cfg.muster.st = muREPAIR) →
      exec .musterTimeout s = .next (musterNext (s.mMuster fun m => { m with
          waiting := []
          missing := s.cfg.muster.waiting.foldl (fun t h => Tab.set t h.toNat (allBlocks s)) m.missing }))) ∧
  (∀ (sector : BitVec 6) (s : State), (sectorSt s sector.toNat).rstStep = 5 → musterBusy s = false →
      s.cfg.musterQ.contains sector.toNat = false → (sectorMusterCores s sector.toNat).isEmpty = false →
      exec (.sectorMuster sector) s = .next (startMuster true sector.toNat (sectorMusterCores s sector.toNat) s)) ∧
  (∀ (sector : BitVec 6) (s : State), (sectorSt s sector.toNat).rstStep = 5 → musterBusy s = true →
      s.cfg.muster.scope = false → s.cfg.musterQ.contains sector.toNat = false →
      (sectorMusterCores s sector.toNat).isEmpty = false →
      ∃ t, exec (.sectorMuster sector) s = .next t ∧ t.cfg = { s.cfg with musterQ := s.cfg.musterQ ++ [sector.toNat] })

/-- Under the conditions that each clause names, for every state and operands, each command completes: A request of a
domain off powers it up. A domain shutting down notes the request. Good power turns the domains 21 to 23 on. A shed
then zeroes its slots and tags and initialises. FR and OB that do not come up fail and go off. A domain of 21 to 23
not needed goes off. (R437, R438, R441) -/
def Obligations.PowerDomainsMove : Prop :=
  (∀ (d : BitVec 5) (s : State), d.toNat < 24 → s.ts.domains.length = 24 → s.ports.rstLow = false →
      domainMay s d.toNat = true → domainOf s d.toNat = .off → domainFailed s d.toNat = false →
      ∃ t, exec (.domainPowerRequest d) s = .next t ∧ domainOf t d.toNat = .poweringUp) ∧
  (∀ (d : BitVec 5) (s : State), d.toNat < 24 → s.ports.rstLow = false → domainMay s d.toNat = true →
      domainOf s d.toNat = .shuttingDown → bit s.ts.pending d.toNat = false →
      ∃ t, exec (.domainPowerRequest d) s = .next t ∧ t.ts = { s.ts with pending := s.ts.pending ||| (1#24 <<< d.toNat) }) ∧
  (∀ (d : BitVec 5) (s : State), 20 < d.toNat → d.toNat < 24 → s.ts.domains.length = 24 →
      domainOf s d.toNat = .poweringUp →
      ∃ t, exec (.powerGood d) s = .next t ∧ domainOf t d.toNat = .on) ∧
  (∀ (d : BitVec 5) (s : State), 16 ≤ d.toNat → d.toNat < 20 → d.toNat - 16 < s.mem.sheds.length →
      domainOf s d.toNat = .poweringUp →
      ∃ t, exec (.powerGood d) s = .next t ∧ (shedSt t (d.toNat - 16)) = .init ∧ t.mem.loft = Mem.zero s.mem.loft (slotAddr (6144 * (d.toNat - 16))) (2048 * 6144) ∧
          t.mem.tags = s.mem.tags.filter fun x => shedOf x.1 ≠ d.toNat - 16) ∧
  (∀ (d : BitVec 5) (s : State), (d.toNat = 21 ∨ d.toNat = 23) → s.ts.domains.length = 24 →
      domainOf s d.toNat = .poweringUp →
      ∃ t, exec (.domainTimeout d) s = .next t ∧ t.ts = { s.ts with failed := s.ts.failed ||| (1#24 <<< d.toNat), domains := s.ts.domains.set d.toNat .off }) ∧
  (∀ (d : BitVec 5) (s : State), 20 < d.toNat → d.toNat < 24 → s.ports.rstLow = false → s.ts.domains.length = 24 →
      domainOf s d.toNat = .on → domainNeeded s d.toNat = false → bit s.ts.pending d.toNat = false →
      ∃ t, exec (.domainShutdown d) s = .next t ∧ domainOf t d.toNat = .off)

/-- Under the conditions that each clause names, for every state and operands, each command completes: A round is
counted. A reading of a channel stores its value and makes it fresh. A failed one makes it stale and counts it. An
alert is noted. (R442, R443, R444) -/
def Obligations.SensorsReadEachRound : Prop :=
  (∀ (s : State), s.cfg.valid = true → s.ports.rstLow = false →
      ∃ t, exec .slowRound s = .next t ∧ t.ts.rounds = s.ts.rounds + 1 ∧ t.ts.firstRound = true) ∧
  (∀ (chan : BitVec 7) (raw : BitVec 16) (s : State) (c : ChanT), chanT s chan.toNat = some c → c.kind < 8 →
      c.kind ≠ 0 →
      ∃ t, exec (.pmbRead chan (some raw)) s = .next t ∧ t = s.mChan chan.toNat fun x =>
          { x with value := (channelValue c raw * 1024).floor, stale := false, fails := 0, ever := true }) ∧
  (∀ (chan : BitVec 7) (s : State) (c : ChanT), chanT s chan.toNat = some c → c.kind < 8 →
      ∃ t, exec (.pmbRead chan none) s = .next t ∧ t.ts = (s.mChan chan.toNat fun x =>
          { x with stale := true, fails := ((s.ts.chans[chan.toNat]?).map (·.fails)).getD 0 + 1 }).ts) ∧
  (∀ (addr : BitVec 7) (status : BitVec 16) (s : State), s.cfg.valid = true →
      ∃ t, exec (.pmbAlert addr status) s = .next t ∧ t.ts = { s.ts with alert := true })

/-- Under the conditions that each clause names, for every state and operands, each command completes: PROGRAM_ROOT in
BLANK programs the three public keys and the minimum IMAGE_SEQ from the 296 bytes given, and nothing else non-
volatile. ADVANCE to an allowed state other than RETURN and DECOMMISSIONED programs only it. GEN_IDENTITY in FACTORY
programs the first free seed field with a random value. INSTALL_CERT ends BAD with no leaf key, VERIFY with another
key, and DONE with its own key, the bodies stored. PROGRAM_WRAPPED seals 64 bytes under the wrapping key with a
random nonce. SET_MIN_SEQ between the old minimum and the running image programs only that. (R455, R461, R466) -/
def Obligations.LifeCycleOrdersWork : Prop :=
  (∀ (priv : BitVec 2) (w : W64) (s : State), s.ports.rstLow = false → isOperator s priv = true →
      s.hx.hostOk = true → fld w 63 60 = 1 → bit w 59 = true → lcKnown s = true → s.cfg.valid = true →
      windowsHold s = true → s.sec.lc = 0 → s.nv.otp.rootDone = false → (wordBytes s.sec.provData).length = 296 →
      ∃ t, exec (.programRoot priv w) s = .next t ∧ t.sec.lcStatus = lsDONE ∧ t.sec.provData = [] ∧
          t.nv = { s.nv with otp := { s.nv.otp with
            rootDone := true
            imageKey := readKey ((wordBytes s.sec.provData).take 96)
            patKey := readKey (((wordBytes s.sec.provData).drop 96).take 96)
            dbgKey := readKey (((wordBytes s.sec.provData).drop 192).take 96)
            minSeq := BitVec.ofNat 32 (leAt (wordBytes s.sec.provData) 288 4) } }) ∧
  (∀ (priv : BitVec 2) (w : W64) (s : State), s.ports.rstLow = false → isOperator s priv = true →
      s.hx.hostOk = true → fld w 63 60 = 2 → bit w 59 = true → lcKnown s = true → s.cfg.valid = true →
      windowsHold s = true → secLocked s = false → mayAdvance s (fld w 58 56) = true → fld w 58 56 ≠ lcRETURN →
      fld w 58 56 ≠ lcDECOMMISSIONED →
      ∃ t, exec (.advance priv w) s = .next t ∧ t.sec.lcStatus = lsDONE ∧ t.sec.nextLc = fld w 58 56 ∧
          t.nv = { s.nv with otp := { s.nv.otp with lc := fld w 58 56 } }) ∧
  (∀ (priv : BitVec 2) (w : W64) (s : State) (i : Nat), s.ports.rstLow = false → isOperator s priv = true →
      s.hx.hostOk = true → fld w 63 60 = 3 → bit w 59 = true → lcKnown s = true → s.cfg.valid = true →
      windowsHold s = true → s.sec.lc = lcFACTORY → (s.nv.otp.seeds.findIdx? (fun x => !x.programmed) = some i) →
      ∃ t, exec (.genIdentity priv w) s = .next t ∧ t.sec.lcStatus = lsDONE ∧
          t.nv.otp.seeds = s.nv.otp.seeds.set i { programmed := true, killed := false, value := Config.trng s.draws }) ∧
  (∀ (priv : BitVec 2) (w : W64) (s : State), s.ports.rstLow = false → isOperator s priv = true →
      s.hx.hostOk = true → fld w 63 60 = 4 → bit w 59 = true → lcKnown s = true → hasKey s 0xE0 = true →
      s.sec.lc ≠ lcDECOMMISSIONED → (wordBytes s.sec.provData).isEmpty = false →
      (wordBytes s.sec.provData).length ≤ 8192 →
      ∃ t s0, exec (.installCert priv w) s = .next t ∧ s0 = answer hsOK 0 s ∧
          t = match Config.leafKey (wordBytes s.sec.provData) with
            | none => endOrder lsBAD s0
            | some k =>
              if k = Config.publicKey (keySlot s 0xE0) then
                endOrder lsDONE ((identityBodies (wordBytes s.sec.provData)).foldl (fun s b => sbWrite sbIDENTITY b s) s0)
              else endOrder lsVERIFY s0) ∧
  (∀ (priv : BitVec 2) (w : W64) (s : State) (uds : BitVec 384), s.ports.rstLow = false → isOperator s priv = true →
      s.hx.hostOk = true → fld w 63 60 = 5 → bit w 59 = true → lcKnown s = true → s.cfg.valid = true →
      windowsHold s = true → liveSeed s = some uds → s.sec.lc = lcFACTORY → s.nv.otp.wrapped = [] →
      (wordBytes s.sec.provData).length = 64 →
      ∃ t, exec (.programWrapped priv w) s = .next t ∧ t.sec.lcStatus = lsDONE ∧
          t.nv.otp.wrapped = leBytes 12 (Config.trng s.draws).toNat ++
            gcmSeal (wrapKey uds) (leBytes 12 (Config.trng s.draws).toNat) [] (wordBytes s.sec.provData)) ∧
  (∀ (priv : BitVec 2) (w v : W64) (s : State), s.ports.rstLow = false → isOperator s priv = true →
      s.hx.hostOk = true → fld w 63 60 = 6 → bit w 59 = true → lcKnown s = true → s.cfg.valid = true →
      windowsHold s = true → (s.sec.lc = lcPROVISIONED ∨ s.sec.lc = lcDEPLOYED) → s.sec.provData = [v] →
      s.nv.otp.minSeq ≤ v.setWidth 32 → v.setWidth 32 ≤ s.cfg.imageSeq →
      ∃ t, exec (.setMinSeq priv w) s = .next t ∧ t.sec.lcStatus = lsDONE ∧
          t.nv = { s.nv with otp := { s.nv.otp with minSeq := v.setWidth 32 } })

/-- Under the conditions that each clause names, for every state and operands, each command completes: UNLOCK_CHALLENGE
in a test state holds a random challenge and presents it. UNLOCK_RESPONSE uses the challenge up; a 96-byte signature
of it and of the identity by the debug key unlocks, anything else ends VERIFY and counts a failure. KEYLOAD of a
legal idle slot with the blob open and its tag right stores the key and the digest of its token; else BAD_TAG.
Another slot ends BAD_SLOT, the data dropped, and no key changes. (R463, R466) -/
def Obligations.UnlockAndKeysLoad : Prop :=
  (∀ (priv : BitVec 2) (w : W64) (s : State), s.ports.rstLow = false → isOperator s priv = true →
      s.hx.hostOk = true → fld w 63 60 = 7 → bit w 59 = true → lcKnown s = true → secLocked s = false →
      testState s = true →
      ∃ t, exec (.unlockChallenge priv w) s = .next t ∧ t.sec.lcStatus = lsDONE ∧ t.sec.challenge = some (Config.trng s.draws) ∧
          t.sec.provOut = bytesWords (digestBytes (Config.trng s.draws))) ∧
  (∀ (priv : BitVec 2) (w : W64) (s : State) (c : BitVec 384), s.ports.rstLow = false → isOperator s priv = true →
      s.hx.hostOk = true → fld w 63 60 = 8 → bit w 59 = true → lcKnown s = true → secLocked s = false →
      testState s = true → s.sec.challenge = some c →
      ∃ t s0, exec (.unlockResponse priv w) s = .next t ∧ s0 = (answer hsOK 0 s).mSec (fun x => { x with challenge := none }) ∧
          t = if (wordBytes s.sec.provData).length = 96 ∧
              Config.ecdsaVerify s.nv.otp.dbgKey (Config.sha384 (digestBytes c ++ identityKey s)) (readSign (wordBytes s.sec.provData)) = true
            then endOrder lsDONE (s0.mSec fun x => { x with unlocked := true })
            else unlockFailed (endOrder lsVERIFY s0)) ∧
  (∀ (priv : BitVec 2) (w : W64) (s : State), s.ports.rstLow = false → isOperator s priv = true →
      s.hx.hostOk = true → bit w 55 = true → secLocked s = false → hasKey s 0xE3 = true →
      (fld w 63 56 ≤ 0xDF ∨ fld w 63 56 = 0xFE) → slotBusy s (fld w 63 56) = false →
      ∃ t s0, exec (.keyload priv w) s = .next t ∧ s0 = answer hsOK 0 s ∧
          t = match openBlob s (fld w 63 56) (padTo 64 (wordBytes s.sec.klData)) with
            | none => klEnd klBAD_TAG s0
            | some (key, token) =>
              if fld w 63 56 = 0xFE ∧ leNat token ≠ 0 then klEnd klBAD_TAG s0
              else klEnd klOK (storeKey (fld w 63 56) ⟨key, Config.sha384 token⟩ s0)) ∧
  (∀ (priv : BitVec 2) (w : W64) (s : State), s.ports.rstLow = false → isOperator s priv = true →
      s.hx.hostOk = true → bit w 55 = true → secLocked s = false → hasKey s 0xE3 = true → 0xDF < fld w 63 56 →
      fld w 63 56 ≠ 0xFE →
      ∃ t, exec (.keyload priv w) s = .next t ∧ t.sec = { s.sec with klStatus := klBAD_SLOT, klData := [] })

/-- Under the conditions that each clause names, for every state and operands, each command completes: A token whose
digest is the one of the key of the plan binds the tenant to the context. The binding lapses. SAR_GO starts a report
of the context. The report built is its body signed by the attestation key. SAR_DATA, CERT_DATA, PROV_OUT and
DUMP_KEY answer OK with the next word (0 past the end) and move on: the certificate by its position, the
provisioning output and the dump key by dropping the word read. (R464, R465, R466, R467, R476) -/
def Obligations.TokensAndReportsServed : Prop :=
  (∀ (priv : BitVec 2) (w : W64) (s : State) (i : Nat) (p : Plan) (k : KeySlot), s.ports.rstLow = false →
      (priv = 0 ∨ isOperator s priv = true) → s.hx.hostOk = true → bit w 51 = true →
      s.sec.tokBlockUntil ≤ s.now.toNat → planOf s (fld w 63 52) = some (i, p) →
      Tab.get s.sec.keys p.hdr.keyId = some k → k.token = Config.sha384 (padTo 16 (wordBytes s.sec.tokData)) →
      ∃ t, exec (.tokenPresent priv w) s = .next t ∧ t.sec = { s.sec with tokData := [], bound := some (fld w 63 52) }) ∧
  (∀ (s : State),
      ∃ t, exec .tokenBindingLapse s = .next t ∧ t = s.mSec fun x => { x with bound := none }) ∧
  (∀ (priv : BitVec 2) (w : W64) (s : State), s.ports.rstLow = false → mayReport s priv (fld w 63 52) = true →
      s.hx.hostOk = true → bit w 51 = true → secLocked s = false → s.sec.dDerived = true →
      (reportPlan s (fld w 63 52)).isNone = false →
      ∃ t, exec (.sarGo priv w) s = .next t ∧ t.sec = { s.sec with sarState := srBUILDING, sarCtx := fld w 63 52, sarWords := [] }) ∧
  (∀ (s : State) (p : Plan), s.sec.sarState = srBUILDING → reportPlan s s.sec.sarCtx = some p →
      ∃ t, exec .sarBuildDone s = .next t ∧ t.sec = { s.sec with
          sarState := srREADY
          sarWords := bytesWords (sarBody s s.sec.sarCtx p ++
              signBytes (Config.ecdsaSign (keySlot s 0xE1) (Config.sha384 (sarBody s s.sec.sarCtx p)) s.draws)) }) ∧
  (∀ (priv : BitVec 2) (s : State), s.ports.rstLow = false → mayReport s priv s.sec.sarCtx = true →
      s.hx.hostOk = true →
      ∃ t, exec (.sarData priv) s = .next t ∧ t.ports.hrp = ⟨BitVec.ofNat 2 hsOK, s.sec.sarWords.headD 0⟩ ∧
          t.sec = { s.sec with sarWords := s.sec.sarWords.tail }) ∧
  (∀ (priv : BitVec 2) (s : State), s.ports.rstLow = false → (priv = 0 ∨ isOperator s priv = true) →
      s.hx.hostOk = true →
      ∃ t, exec (.certData priv) s = .next t ∧ t.ports.hrp = ⟨BitVec.ofNat 2 hsOK, (certWords s).getD s.sec.certPos 0⟩ ∧
          t.sec = { s.sec with certPos := s.sec.certPos + 1 }) ∧
  (∀ (priv : BitVec 2) (s : State), s.ports.rstLow = false → isOperator s priv = true → s.hx.hostOk = true →
      ∃ t, exec (.provOut priv) s = .next t ∧ t.ports.hrp = ⟨BitVec.ofNat 2 hsOK, s.sec.provOut.headD 0⟩ ∧
          t.sec = { s.sec with provOut := s.sec.provOut.tail }) ∧
  (∀ (priv : BitVec 2) (s : State), s.ports.rstLow = false → isOperator s priv = true → s.hx.hostOk = true →
      s.sec.dumpKey.isEmpty = false →
      ∃ t, exec (.dumpKey priv) s = .next t ∧ t.ports.hrp = ⟨BitVec.ofNat 2 hsOK, s.sec.dumpKey.headD 0⟩ ∧
          t.sec = { s.sec with dumpKey := s.sec.dumpKey.tail })

/-- Under the conditions that each clause names, for every state and operands, each command completes: A rising alarm
pin marks its level and raises the alarm of that number; a falling one only clears the level; a lockstep difference
raises alarm 8. EGRESS_CREDIT adds the credits, 16 for a count of 0, and sends what waits. (R473, R510) -/
def Obligations.PinsAndCreditsTake : Prop :=
  (∀ (pin : BitVec 3) (s : State), s.ports.rstLow = false → bit s.sec.almLevel pin.toNat = false →
      exec (.alarmPin pin true) s = .next (raiseAlarm pin.toNat (s.mSec fun x => { x with almLevel := x.almLevel ||| (1#8 <<< pin.toNat) }))) ∧
  (∀ (pin : BitVec 3) (s : State), s.ports.rstLow = false →
      ∃ t, exec (.alarmPin pin false) s = .next t ∧ t = s.mSec fun x => { x with almLevel := x.almLevel &&& ~~~(1#8 <<< pin.toNat) }) ∧
  (∀ (s : State), s.ports.rstLow = false →
      exec .lockstep s = .next (raiseAlarm 8 s)) ∧
  (∀ (port : BitVec 3) (cls : BitVec 2) (ccnt : BitVec 4) (s : State), s.ports.slnUp = true → cls.toNat < 2 →
      ∃ k, exec (.egressCredit port cls ccnt) s = .next (s.mPorts fun p => { p with credits := k }.drain) ∧
          k = Tab.set s.ports.credits (creditKey port.toNat cls.toNat)
            (Tab.getD s.ports.credits (creditKey port.toNat cls.toNat) 0 + if ccnt = 0 then 16 else ccnt.toNat))

/-- Under the conditions that each clause names, for every state and operands, each command completes: SNAP copies the
active counters, chip and contexts, to the completed ones and counts. The snapshot period does so too. WATCH_GO of a
bound tenant starts an empty watch of the counter in place of its earlier one. WATCH_DATA answers its words in turn,
four in a cycle. (R483, R492) -/
def Obligations.CountersSnapAndWatch : Prop :=
  (∀ (priv : BitVec 2) (w : W64) (s : State), s.ports.rstLow = false → isOperator s priv = true →
      s.hx.hostOk = true → bit w 63 = true → obOn s = true →
      ∃ t, exec (.snap priv w) s = .next t ∧ t.ob.snapSeq = s.ob.snapSeq + 1 ∧ t.ob.completed = s.ob.active ∧
          t.ob.ctxCompleted = s.ob.ctxActive) ∧
  (∀ (s : State), fld s.expert.obConfig 55 48 ≠ 0 → obOn s = true →
      ∃ t, exec .snapPeriod s = .next t ∧ t.ob.snapSeq = s.ob.snapSeq + 1 ∧ t.ob.completed = s.ob.active ∧
          t.ob.ctxCompleted = s.ob.ctxActive) ∧
  (∀ (w : W64) (s : State) (c : Nat), s.ports.rstLow = false → s.sec.bound = some c → s.hx.hostOk = true →
      obOn s = true → bit w 63 = true →
      ∃ t, exec (.watchGo 0 w) s = .next t ∧
          t.ob = { s.ob with watch := (s.ob.watch.filter fun y => y.ctx ≠ c) ++ [Watch.empty c (fld w 62 51) (some (fld w 62 51))] }) ∧
  (∀ (s : State) (c : Nat) (x : Watch), s.ports.rstLow = false → s.sec.bound = some c → s.hx.hostOk = true →
      obOn s = true → watchOf s c = some x →
      ∃ t, exec (.watchData 0) s = .next t ∧ t.ports.hrp = ⟨BitVec.ofNat 2 hsOK, watchWord x x.pos⟩ ∧
          t.ob = { s.ob with watch := s.ob.watch.map fun y => if y.ctx = c then { y with pos := (y.pos + 1) % 4 } else y })

/-- Under the conditions that each clause names, for every state and operands, each command completes: A section of a
unit on is written OK; of a unit off, OFF and marked so; one that times out, UNREADABLE, marked and reported. A TACK
answer with an error notes a write fault; any other changes nothing. (R494, R495, R512) -/
def Obligations.DumpSectionsWritten : Prop :=
  (∀ (s : State), dumping s = true → unitOff s s.ob.dumpNext = false →
      exec .dumpSectionDone s = .next (sectionEnd s.ob.dumpNext (writeSection s.ob.dumpNext secOK (sectionBytes s s.ob.dumpNext) s))) ∧
  (∀ (s : State), dumping s = true → unitOff s s.ob.dumpNext = true →
      exec .dumpSectionDone s = .next (sectionEnd s.ob.dumpNext (writeSection s.ob.dumpNext secOFF [] (s.mOb fun o =>
          { o with dumpOff := o.dumpOff ||| (1#19 <<< s.ob.dumpNext) })))) ∧
  (∀ (s : State), dumping s = true →
      exec .dumpSectionTimeout s = .next (sectionEnd s.ob.dumpNext (reportSelf uOB 0 0xA8 0 none
          (writeSection s.ob.dumpNext secUNREADABLE [] (s.mOb fun o =>
            { o with dumpUnread := o.dumpUnread ||| (1#19 <<< s.ob.dumpNext) }))))) ∧
  (∀ (p : Ingress) (s : State), s.ports.slnUp = true → p.ok = true → p.kind = 0x17 → fld (p.pre 0) 49 48 = 1 →
      ∃ t, exec (.tackRsp p) s = .next t ∧ t.ob.writeFault = true) ∧
  (∀ (p : Ingress) (s : State), s.ports.slnUp = true → p.ok = true → p.kind = 0x17 → fld (p.pre 0) 49 48 ≠ 1 →
      exec (.tackRsp p) s = .next s)

/-- Under the conditions that each clause names, for every state and operands, each command completes: A write of a
register that may be written answers OK and writes it as that register takes it. A write of an order register is the
order. A write of an expert register, enabled and before service, answers OK and writes it. A read answers OK and
the value, and clears what reading clears. A read of the plan window answers the word of the selected plan and
changes nothing else. A read of an expert register answers its value and changes nothing else. (R457, R458, R507) -/
def Obligations.RegisterPortAnswers : Prop :=
  (∀ (priv : BitVec 2) (addr : BitVec 22) (w : W64) (s : State), s.ports.rstLow = false → regAddr addr < 0x100000 →
      (basicReg s (regAddr addr)).isNone = false → orderReg priv (regAddr addr) w s = none →
      mayWrite s priv (regAddr addr) = true → s.hx.hostOk = true →
      exec (.registerWrite priv addr w) s = .next (basicWrite (regAddr addr) w (s.mPorts fun p => { p with hrp := ⟨BitVec.ofNat 2 hsOK, 0⟩ }))) ∧
  (∀ (priv : BitVec 2) (addr : BitVec 22) (w : W64) (s t : State), s.ports.rstLow = false → regAddr addr < 0x100000 →
      (basicReg s (regAddr addr)).isNone = false → orderReg priv (regAddr addr) w s = some t →
      exec (.registerWrite priv addr w) s = .next t) ∧
  (∀ (priv : BitVec 2) (addr : BitVec 22) (w : W64) (s : State), s.ports.rstLow = false → isOperator s priv = true →
      s.hx.hostOk = true → 0x200000 ≤ regAddr addr → s.cfg.expertEn = true →
      (expertFields (regAddr addr)).isNone = false → s.cfg.inService = false →
      exec (.registerWrite priv addr w) s = .next (expertWrite (regAddr addr) w (s.mPorts fun p => { p with hrp := ⟨BitVec.ofNat 2 hsOK, 0⟩ }))) ∧
  (∀ (priv : BitVec 2) (addr : BitVec 22) (race : Bool) (v : W64) (s : State), s.ports.rstLow = false →
      regAddr addr < 0x100000 → basicReg s (regAddr addr) = some v → (wordReg priv (regAddr addr) s).isNone = true →
      mayRead s priv (regAddr addr) = true → s.hx.hostOk = true →
      exec (.registerRead priv addr race) s = .next (readClears (regAddr addr) (s.mPorts fun p => { p with hrp := ⟨BitVec.ofNat 2 hsOK, v⟩ }))) ∧
  (∀ (priv : BitVec 2) (addr : BitVec 22) (s : State), s.ports.rstLow = false → isOperator s priv = true →
      s.hx.hostOk = true → 0x100000 ≤ regAddr addr → regAddr addr < 0x200000 →
      ∃ t, exec (.registerRead priv addr false) s = .next t ∧ t = s.mPorts fun p =>
          { p with hrp := ⟨BitVec.ofNat 2 hsOK, windowWord s false (ctxOf s (fld s.led.ctxSel 11 0)).plan (regAddr addr)⟩ }) ∧
  (∀ (priv : BitVec 2) (addr : BitVec 22) (race : Bool) (s : State), s.ports.rstLow = false →
      isOperator s priv = true → s.hx.hostOk = true → 0x200000 ≤ regAddr addr → s.cfg.expertEn = true →
      (expertFields (regAddr addr)).isNone = false →
      ∃ t, exec (.registerRead priv addr race) s = .next t ∧ t = s.mPorts fun p =>
          { p with hrp := ⟨BitVec.ofNat 2 hsOK, expertGet s.expert (regAddr addr)⟩ })

/-- From every state with 64 lanes, 16 clusters, 4 sheds, 4 memory engines, 4 Hitch ports, 16 barriers and 24 power
domains, a step that answers a next state answers one with the same numbers. (R9, R26, R222, R339, R373, R437) -/
def Obligations.StepKeepsNumbers : Prop :=
  ∀ s t : State, s.shaped = true → step s = .next t → t.shaped = true

/-- From every state whose life-cycle state in OTP, as read at S1 and as ordered next, is one of the six values of R454,
whose policy is one of the four of R474, whose OTP has four seed fields and whose key store holds only the slots of
R460, a step that answers a next state answers one of which all this holds. (R454, R460, R461, R474) -/
def Obligations.StepKeepsLegal : Prop :=
  ∀ s t : State, s.legal = true → step s = .next t → t.legal = true

/-- From every state, a step that answers a next state leaves the life-cycle state of OTP as it was or higher; root
material once programmed stays, and its minimum IMAGE_SEQ does not fall; wrapped keys once programmed stay; the
number of seed fields stays; a programmed seed field stays programmed, and a killed one stays exactly as it is.
(R454, R455, R461, R466) -/
def Obligations.OtpMovesForwardOnly : Prop :=
  ∀ s t : State, step s = .next t → s.nv.otp.Forward t.nv.otp

/-- When a command answers a next state, the queue of waiting commands is as before: only a step takes from it, and the
sender adds to it. (00_scope.md) -/
def Obligations.CommandKeepsQueue : Prop :=
  ∀ (c : Instr) (s t : State), exec c s = .next t → t.pending = s.pending

/-- For every command and state: when the command answers a next state, nothing has changed but the state of the units
that unitsOf lists for it. The units are the time, the counter of free values, the non-volatile memories, the ports,
the expert registers, CFG with MS, FC, CT, LED, TWC, PER, SA, MEM, VU, YM, HX, FR, TS, SEC and OB. Every register,
queue, flag and byte of any other unit is as before. (R9, R502, R507, R518) -/
def Obligations.CommandChangesItsUnits : Prop :=
  ∀ (c : Instr) (s t : State), exec c s = .next t → Same (unitsOf c) s t

/-- For every command that mayStore does not list, and every state: when the command answers a next state, every byte of
the Loft, of Cluster Memory and of the operand buffers and every tag reads as before. (R202, R206, R216, R217, R220,
R226) -/
def Obligations.ArraysChangeOnlyByTheirCommands : Prop :=
  ∀ (c : Instr) (s t : State), mayStore c = false → exec c s = .next t →
    (∀ a, Mem.get t.mem.loft a = Mem.get s.mem.loft a ∧ Mem.get t.mem.cm a = Mem.get s.mem.cm a ∧
      Mem.get t.mem.opbuf a = Mem.get s.mem.opbuf a) ∧ ∀ n, tagOf t n = tagOf s n

/-- For every command that mayChangeRoot does not list, and every state: when the command answers a next state, OTP, the
fuses, the pattern banks and their selector, the expert registers, the levels of RST_N, SLN_UP, WRST_N and of the
Die ID strap, the TAP instruction, the key store, the VENDOR_DEBUG unlock, the life-cycle state and the strongest
policy applied are as before. (R455, R460, R461, R466, R473, R502, R518) -/
def Obligations.RootChangesOnlyByItsCommands : Prop :=
  ∀ (c : Instr) (s t : State), mayChangeRoot c = false → exec c s = .next t → t.root = s.root

/-- For every command that carries the privilege TENANT on the Host Register Port, register writes and reads among them,
and every state: when it answers a next state, what mayChangeRoot guards is as before, every byte of the arrays and
every tag reads as before, and the numbers of units are as before. (R457, R458, R459) -/
def Obligations.TenantChangesNoRoot : Prop :=
  ∀ (c : Instr) (s t : State), hostPriv c = some 0 → exec c s = .next t → Steady s t

/-- For every state in service and every command but RST_N_ASSERT, SUPPLIES_FAIL and STAGE_S2 (which runs only before
service): when the command answers a next state, every expert register is as before; REGISTER_WRITE at any privilege
and address is among them. (R10, R518) -/
def Obligations.ExpertRegistersHoldInService : Prop :=
  ∀ (c : Instr) (s t : State), s.cfg.inService = true → c ≠ .rstNAssert → (∀ b, c ≠ .suppliesFail b) →
    (∀ a b, c ≠ .stageS2 a b) → exec c s = .next t → t.expert = s.expert

/-- For every command and state: where every slot and row that the command names exists and its LPF record lies within
its slot (inRange), the command answers a next state; where not, it faults with the reason noSuchSlot, noSuchRow or
outsideSlot. The fault for an address to which the manual gives no meaning is a choice of the model (log entries).
(R202, R204, R206, R214, R216, R217) -/
def Obligations.InRangeCompletes : Prop :=
  ∀ (c : Instr) (s : State),
    (inRange c = true → ∃ t, exec c s = .next t) ∧
    (inRange c = false → exec c s = .fault .noSuchSlot ∨ exec c s = .fault .noSuchRow ∨ exec c s = .fault .outsideSlot)

/-- For every memory in canonical form, every address and every byte sequence: after the sequence is written at the
address, each of its bytes reads back at its place, every other address reads as before, and the memory is again in
canonical form. (R5, R202) -/
def Obligations.BytesReadAsWritten : Prop :=
  ∀ (m : Mem) (a : Nat) (b : Bytes), Mem.wf m = true →
    (∀ i, (h : i < b.length) → Mem.get (Mem.write m a b) (a + i) = b[i]) ∧
    (∀ k, k < a ∨ a + b.length ≤ k → Mem.get (Mem.write m a b) k = Mem.get m k) ∧ Mem.wf (Mem.write m a b) = true

/-- For all integers x and y and every s: the residue is x mod 255, in 0 to 254; that of -x is (255 - r(x)) mod 255; of
a product, the product of the residues mod 255; of a sum, the sum of the residues mod 255; of x times 2^s, r(x)
times 2^(s mod 8) mod 255; and equal residues of x 2^s and y 2^s come from equal residues of x and y, so r(x) can be
recovered. (R60) -/
def Obligations.ResidueRules : Prop :=
  ∀ (x y : Int) (s : Nat),
    (residue x : Int) = x % 255 ∧ residue x ≤ 254 ∧
    residue (-x) = (255 - residue x) % 255 ∧
    residue (x * y) = residue x * residue y % 255 ∧
    residue (x + y) = (residue x + residue y) % 255 ∧
    residue (x * 2 ^ s) = residue x * 2 ^ (s % 8) % 255 ∧
    (residue (x * 2 ^ s) = residue (y * 2 ^ s) → residue x = residue y)

/-- For every list of long accumulators in which a record of no terms has ALLNEGZ clear, and every rearrangement of it,
combining the records one after another from the empty record gives the same value, TERMS, NAN, PINF, NINF and
ALLNEGZ. (Two records of no terms with different ALLNEGZ have no rule of which is taken: R47 names none.) (R41, R47,
R187) -/
def Obligations.PartialsCombineInAnyOrder : Prop :=
  ∀ l m : List Acc, (∀ a ∈ l, a.terms = 0 → a.allNegZ = false) → l.Perm m →
    l.foldl Acc.combine Acc.zero = m.foldl Acc.combine Acc.zero

/-- For every state out of reset and every register of the basic map that is no order register: a read or a write whose
privilege gives no right answers DENIED with data zero and leaves all that few commands change, every byte of the
arrays and every tag as before. The refusal is counted under SEC_DENIED; unless a refusal of this slow round was
seen already and the request is not VENDOR_DEBUG in DEPLOYED, it is noted and reported as PRIV_REFUSED. An operator
order without the right ends the same way. (R458, R459) -/
def Obligations.RefusedRequestsHaveNoEffect : Prop :=
  ∀ (priv : BitVec 2) (addr : BitVec 22) (race : Bool) (w : W64) (s : State), s.ports.rstLow = false →
    regAddr addr < 0x100000 → (basicReg s (regAddr addr)).isNone = false →
    let u := answer hsDENIED 0 (bump 1088 1 s)
    let t := if s.sec.deniedSeen = true ∧ ¬(priv = 2 ∧ s.sec.lc = lcDEPLOYED) then u
      else secReport 0xA1 (u.mSec fun x => { x with deniedSeen := true })
    (mayRead s priv (regAddr addr) = false → (wordReg priv (regAddr addr) s).isNone = true →
      exec (.registerRead priv addr race) s = .next t) ∧
    (mayWrite s priv (regAddr addr) = false → orderReg priv (regAddr addr) w s = none →
      exec (.registerWrite priv addr w) s = .next t) ∧
    (isOperator s priv = false → exec (.snap priv w) s = .next t ∧ exec (.provOut priv) s = .next t) ∧
    t.ports.hrp = ⟨1, 0⟩ ∧ Steady s t ∧ Same [.ports, .fc, .led, .vu, .hx, .sec, .ob] s t

/-- For every state: the privilege 0 has no operator right, 1 has it, 3 has none, and 2 has it exactly where a
VENDOR_DEBUG unlock holds and the life-cycle state is FACTORY_TEST (1) or RETURN (4); asserting RST_N ends the
unlock. (R457) -/
def Obligations.PrivilegesAccepted : Prop :=
  ∀ s : State, isOperator s 0 = false ∧ isOperator s 1 = true ∧ isOperator s 3 = false ∧
    (isOperator s 2 = true ↔ s.sec.unlocked = true ∧ (s.sec.lc = 1 ∨ s.sec.lc = 4)) ∧
    ∃ t, exec .rstNAssert s = .next t ∧ t.sec.unlocked = false

/-- For every state: BYPASS, IDCODE and SAMPLE/PRELOAD complete and change only the instruction that the TAP holds. An
instruction of another kind changes nothing unless the life-cycle state is FACTORY_TEST (1) or RETURN (4) and a
VENDOR_DEBUG unlock holds; then it is held, and where it reaches an array (0 the Loft, 1 Cluster Memory, 2 the
operand buffers, 3 the tags), that array reads zero and no other array changes. (R456) -/
def Obligations.TapGuardsItsInstructions : Prop :=
  (∀ (op : TapOp) (s : State), (op = .bypass ∨ op = .idcode ∨ op = .samplePreload) →
      exec (.tapInstruction op) s = .next (s.mPorts fun p => { p with tap := op })) ∧
  (∀ (x : Option (BitVec 2)) (s : State), ¬((s.sec.lc = 1 ∨ s.sec.lc = 4) ∧ s.sec.unlocked = true) →
      exec (.tapInstruction (.other x)) s = .next s) ∧
  (∀ (s : State), (s.sec.lc = 1 ∨ s.sec.lc = 4) → s.sec.unlocked = true →
      exec (.tapInstruction (.other none)) s = .next (s.mPorts fun p => { p with tap := .other none })) ∧
  (∀ (a : BitVec 2) (s : State), (s.sec.lc = 1 ∨ s.sec.lc = 4) → s.sec.unlocked = true →
      ∃ t, exec (.tapInstruction (.other (some a))) s = .next t ∧ t.ports = { s.ports with tap := .other (some a) } ∧
        t.mem.loft = (if a = 0 then [] else s.mem.loft) ∧ t.mem.cm = (if a = 1 then [] else s.mem.cm) ∧
        t.mem.opbuf = (if a = 2 then [] else s.mem.opbuf) ∧ t.mem.tags = (if a = 3 then [] else s.mem.tags) ∧
        Same [.ports, .mem] s t)

/-- For every state with OB in service: GO with the right of an operator, a fault whose final reaction reaches
DUMP_LEVEL, and the part held each start a dump where none runs: the state is RUNNING, the sequence number one
higher, the section 0, and the other slot taken. Where a dump runs, each only counts one under OB_DUMP_MERGED.
(R493) -/
def Obligations.DumpTriggersStart : Prop :=
  (∀ (priv : BitVec 2) (w : W64) (s : State), s.ports.rstLow = false → isOperator s priv = true → s.hx.hostOk = true →
      bit w 63 = true → obOn s = true →
      (s.ob.dumpState ≠ dsRUNNING → ∃ t, exec (.dumpGo (.host priv w)) s = .next t ∧ t.ob.dumpState = dsRUNNING ∧
        t.ob.dumpSeq = s.ob.dumpSeq + 1 ∧ t.ob.dumpNext = 0 ∧ t.ob.dumpSlot = !s.ob.dumpSlot) ∧
      (s.ob.dumpState = dsRUNNING → exec (.dumpGo (.host priv w)) s = .next (bump 1157 1 (answer hsOK 0 s)))) ∧
  (∀ s : State, faultDumps s = true → obOn s = true →
      (s.ob.dumpState ≠ dsRUNNING → ∃ t, exec (.dumpGo .fault) s = .next t ∧ t.ob.dumpState = dsRUNNING ∧
        t.ob.dumpSeq = s.ob.dumpSeq + 1 ∧ t.ob.dumpNext = 0 ∧ t.ob.dumpSlot = !s.ob.dumpSlot) ∧
      (s.ob.dumpState = dsRUNNING → exec (.dumpGo .fault) s = .next (bump 1157 1 s))) ∧
  (∀ s : State, s.ct.part = .held → obOn s = true →
      (s.ob.dumpState ≠ dsRUNNING → ∃ t, exec (.dumpGo .partHang) s = .next t ∧ t.ob.dumpState = dsRUNNING ∧
        t.ob.dumpSeq = s.ob.dumpSeq + 1 ∧ t.ob.dumpNext = 0 ∧ t.ob.dumpSlot = !s.ob.dumpSlot) ∧
      (s.ob.dumpState = dsRUNNING → exec (.dumpGo .partHang) s = .next (bump 1157 1 s)))

/-- For every command that brings a packet of a Mesh Attach port: with SLN_UP low nothing changes; with it high, a
packet with a bad destination, length or class changes no state but one count of IN_BAD_MSG and its report with
instance 1 + n. A packet of no ingress kind ends likewise. (R511) -/
def Obligations.BadPacketsDiscarded : Prop :=
  (∀ (c : Instr) (p : Ingress) (s : State), ingressOf c = some p →
      (s.ports.slnUp = false → exec c s = .next s) ∧
      (s.ports.slnUp = true → p.ok = false →
        exec c s = .next (reportSelf uIN (1 + p.port.toNat) 0x70 0 none (bump 645 1 s)))) ∧
    ∀ (p : Ingress) (s : State), s.ports.slnUp = true → (ingressClass p.kind).isNone = true →
      exec (.nonIngressKindPacket p) s = .next (reportSelf uIN (1 + p.port.toNat) 0x70 0 none (bump 645 1 s))

/-- For every command that a request of the Host Register Port carries, at any privilege, and every state with RST_N
low: the command answers the state unchanged. (R329, R502, R507) -/
def Obligations.PortSilentInReset : Prop :=
  ∀ (c : Instr) (p : BitVec 2) (s : State), hostPriv c = some p → s.ports.rstLow = true → exec c s = .next s
end

