-- ==== Sys2Proof/Laws/Tables.lean ====
section
/-!
SUPPORT. Laws of the sparse tables and arrays: a read after a write, that a write leaves every other place alone, and that
every operation keeps the canonical form.
-/
namespace Sys2Proof.Machine

/-! ### Tables -/

theorem Tab.wf_iff {α : Type} (t : Tab α) : Tab.wf t = true ↔ t.Pairwise fun x y => x.1 < y.1 := by
  simp [Tab.wf, List.pairwise_map]

theorem Tab.mem_set {α : Type} {t : Tab α} {k : Nat} {a : α} {x : Nat × α} (h : x ∈ Tab.set t k a) :
    x = (k, a) ∨ x ∈ t := by
  induction t with
  | nil => simpa [Tab.set] using h
  | cons y r ih =>
    simp only [Tab.set] at h
    split at h
    · simpa using h
    · split at h
      · rcases List.mem_cons.1 h with h | h
        · exact .inl h
        · exact .inr (List.mem_cons_of_mem _ h)
      · rcases List.mem_cons.1 h with h | h
        · exact .inr (by simp [h])
        · exact (ih h).imp_right (List.mem_cons_of_mem _)

theorem Tab.sub_del {α : Type} (t : Tab α) (k : Nat) : (Tab.del t k).Sublist t := by
  induction t with
  | nil => exact List.Sublist.slnil
  | cons y r ih =>
    simp only [Tab.del]
    split
    · exact List.sublist_cons_self _ _
    · exact ih.cons_cons _

theorem Tab.wf_set {α : Type} {t : Tab α} (k : Nat) (a : α) (h : Tab.wf t = true) : Tab.wf (Tab.set t k a) = true := by
  rw [Tab.wf_iff] at h ⊢
  induction t with
  | nil => simp [Tab.set]
  | cons y r ih =>
    obtain ⟨h1, h2⟩ := List.pairwise_cons.1 h
    simp only [Tab.set]
    split
    case isTrue hk =>
      refine List.pairwise_cons.2 ⟨fun z hz => ?_, h⟩
      rcases List.mem_cons.1 hz with rfl | hz
      · exact hk
      · exact Nat.lt_trans hk (h1 z hz)
    case isFalse hk =>
      split
      case isTrue he => exact List.pairwise_cons.2 ⟨fun z hz => he ▸ h1 z hz, h2⟩
      case isFalse he =>
        refine List.pairwise_cons.2 ⟨fun z hz => ?_, ih h2⟩
        rcases Tab.mem_set hz with rfl | hz
        · show y.1 < k
          omega
        · exact h1 z hz

theorem Tab.wf_sub {α : Type} {t u : Tab α} (h : Tab.wf t = true) (k : u.Sublist t) : Tab.wf u = true := by
  rw [Tab.wf_iff] at h ⊢
  exact h.sublist k

theorem Tab.wf_del {α : Type} {t : Tab α} (k : Nat) (h : Tab.wf t = true) : Tab.wf (Tab.del t k) = true :=
  Tab.wf_sub h (Tab.sub_del t k)

theorem Tab.get_set_same {α : Type} (t : Tab α) (k : Nat) (a : α) : Tab.get (Tab.set t k a) k = some a := by
  induction t with
  | nil => simp [Tab.set, Tab.get]
  | cons y r ih =>
    simp only [Tab.set]
    split
    · simp [Tab.get]
    · split
      · simp [Tab.get]
      · simp [Tab.get, *]

theorem Tab.get_set_other {α : Type} (t : Tab α) {k j : Nat} (a : α) (h : j ≠ k) :
    Tab.get (Tab.set t k a) j = Tab.get t j := by
  induction t with
  | nil => simp [Tab.set, Tab.get, Ne.symm h]
  | cons y r ih =>
    simp only [Tab.set]
    split
    · simp [Tab.get, Ne.symm h]
    · split
      · next he => simp [Tab.get, Ne.symm h, he]
      · simp only [Tab.get, ih]

theorem Tab.get_none {α : Type} {t : Tab α} {k : Nat} (h : ∀ x ∈ t, k ≠ x.1) : Tab.get t k = none := by
  induction t with
  | nil => rfl
  | cons y r ih =>
    have hy := h y (by simp)
    rw [Tab.get, if_neg (Ne.symm hy)]
    exact ih fun x hx => h x (List.mem_cons_of_mem _ hx)

theorem Tab.get_del_other {α : Type} (t : Tab α) {k j : Nat} (h : j ≠ k) : Tab.get (Tab.del t k) j = Tab.get t j := by
  induction t with
  | nil => rfl
  | cons y r ih =>
    simp only [Tab.del]
    split
    · next he => rw [Tab.get, if_neg (by omega)]
    · simp only [Tab.get, ih]

theorem Tab.get_del_same {α : Type} {t : Tab α} (k : Nat) (h : Tab.wf t = true) : Tab.get (Tab.del t k) k = none := by
  rw [Tab.wf_iff] at h
  induction t with
  | nil => rfl
  | cons y r ih =>
    obtain ⟨h1, h2⟩ := List.pairwise_cons.1 h
    simp only [Tab.del]
    split
    · next he => exact Tab.get_none fun x hx => by have := h1 x hx; omega
    · next he => rw [Tab.get, if_neg he]; exact ih h2

/-! ### Arrays -/

theorem Mem.wf_iff (m : Mem) : Mem.wf m = true ↔ Tab.wf m = true ∧ ∀ c ∈ m, c.2 ≠ 0 := by
  simp [Mem.wf, Tab.wf]

theorem Mem.wf_nil : Mem.wf [] = true := rfl

theorem Mem.wf_sub {m n : Mem} (h : Mem.wf m = true) (k : n.Sublist m) : Mem.wf n = true := by
  rw [Mem.wf_iff] at h ⊢
  exact ⟨Tab.wf_sub h.1 k, fun c hc => h.2 c (k.subset hc)⟩

theorem Mem.wf_set {m : Mem} (a : Nat) (v : Byte) (h : Mem.wf m = true) : Mem.wf (Mem.set m a v) = true := by
  unfold Mem.set
  split
  · exact Mem.wf_sub h (Tab.sub_del m a)
  · next hv =>
    rw [Mem.wf_iff] at h ⊢
    refine ⟨Tab.wf_set a v h.1, fun c hc => ?_⟩
    rcases Tab.mem_set hc with rfl | hc
    · exact hv
    · exact h.2 c hc

theorem Mem.wf_write {m : Mem} (a : Nat) (b : Bytes) (h : Mem.wf m = true) : Mem.wf (Mem.write m a b) = true := by
  induction b generalizing m a with
  | nil => exact h
  | cons x r ih => exact ih (a + 1) (Mem.wf_set a x h)

theorem Mem.wf_zero {m : Mem} (a n : Nat) (h : Mem.wf m = true) : Mem.wf (Mem.zero m a n) = true :=
  Mem.wf_sub h List.filter_sublist

theorem Mem.get_eq (m : Mem) (a : Nat) : Mem.get m a = (Tab.get m a).getD 0 := by
  induction m with
  | nil => rfl
  | cons y r ih =>
    simp only [Mem.get, Tab.get]
    split
    · rfl
    · exact ih

theorem Mem.get_set_same {m : Mem} (a : Nat) (v : Byte) (h : Mem.wf m = true) : Mem.get (Mem.set m a v) a = v := by
  unfold Mem.set
  split
  · next hv => rw [Mem.get_eq, Tab.get_del_same a ((Mem.wf_iff m).1 h).1]; exact hv.symm
  · rw [Mem.get_eq, Tab.get_set_same]; rfl

theorem Mem.get_set_other (m : Mem) {a k : Nat} (v : Byte) (h : k ≠ a) : Mem.get (Mem.set m a v) k = Mem.get m k := by
  unfold Mem.set
  split
  · rw [Mem.get_eq, Mem.get_eq, Tab.get_del_other m h]
  · rw [Mem.get_eq, Mem.get_eq, Tab.get_set_other m v h]

/-- A write leaves every byte outside it alone. -/
theorem Mem.get_write_other (m : Mem) {a k : Nat} (b : Bytes) (h : k < a ∨ a + b.length ≤ k) :
    Mem.get (Mem.write m a b) k = Mem.get m k := by
  induction b generalizing m a with
  | nil => rfl
  | cons x r ih =>
    simp only [List.length_cons] at h
    rw [Mem.write, ih _ (by omega), Mem.get_set_other m x (by omega)]

/-- Each byte of a write reads back. -/
theorem Mem.get_write {m : Mem} (a : Nat) (b : Bytes) (i : Nat) (hi : i < b.length) (h : Mem.wf m = true) :
    Mem.get (Mem.write m a b) (a + i) = b[i] := by
  induction b generalizing m a i with
  | nil => simp at hi
  | cons x r ih =>
    rw [Mem.write]
    cases i with
    | zero => exact (Mem.get_write_other _ r (.inl (Nat.lt_succ_self a))).trans (Mem.get_set_same a x h)
    | succ i =>
      have := ih (a + 1) i (by simpa using hi) (Mem.wf_set a x h)
      rw [Nat.add_right_comm, Nat.add_assoc] at this
      simpa using this

theorem Mem.get_zero_other (m : Mem) {a n k : Nat} (h : k < a ∨ a + n ≤ k) : Mem.get (Mem.zero m a n) k = Mem.get m k := by
  induction m with
  | nil => rfl
  | cons y r ih =>
    simp only [Mem.zero, List.filter_cons] at ih ⊢
    split
    · simp only [Mem.get, ih]
    · next hy =>
      have : y.1 ≠ k := by
        rintro rfl
        simp only [Bool.or_eq_true, decide_eq_true_eq] at hy
        omega
      rw [Mem.get, if_neg this]
      exact ih

theorem Mem.get_zero (m : Mem) {a n k : Nat} (h1 : a ≤ k) (h2 : k < a + n) : Mem.get (Mem.zero m a n) k = 0 := by
  rw [Mem.get_eq, Tab.get_none]
  · rfl
  · intro x hx
    have := (List.mem_filter.1 hx).2
    simp only [Bool.or_eq_true, decide_eq_true_eq] at this
    omega

/-! ### The arrays together -/

theorem Arrays.canonical_iff (a : Arrays) : a.canonical = true ↔
    Mem.wf a.loft = true ∧ Mem.wf a.cm = true ∧ Mem.wf a.opbuf = true ∧ Tab.wf a.tags = true ∧ ∀ t ∈ a.tags, t.2 ≠ 0 := by
  simp [Arrays.canonical, and_assoc]

theorem Arrays.canonical_loft {a : Arrays} {m : Mem} (h : a.canonical = true) (k : Mem.wf a.loft = true → Mem.wf m = true) :
    ({ a with loft := m } : Arrays).canonical = true := by
  rw [Arrays.canonical_iff] at h ⊢
  exact ⟨k h.1, h.2⟩

theorem Arrays.canonical_cm {a : Arrays} {m : Mem} (h : a.canonical = true) (k : Mem.wf a.cm = true → Mem.wf m = true) :
    ({ a with cm := m } : Arrays).canonical = true := by
  rw [Arrays.canonical_iff] at h ⊢
  exact ⟨h.1, k h.2.1, h.2.2⟩

theorem Arrays.canonical_opbuf {a : Arrays} {m : Mem} (h : a.canonical = true)
    (k : Mem.wf a.opbuf = true → Mem.wf m = true) : ({ a with opbuf := m } : Arrays).canonical = true := by
  rw [Arrays.canonical_iff] at h ⊢
  exact ⟨h.1, h.2.1, k h.2.2.1, h.2.2.2⟩

theorem Arrays.canonical_tag {a : Arrays} (slot : Nat) (w : W64) (h : a.canonical = true) :
    ({ a with tags := if w = 0 then Tab.del a.tags slot else Tab.set a.tags slot w } : Arrays).canonical = true := by
  rw [Arrays.canonical_iff] at h ⊢
  refine ⟨h.1, h.2.1, h.2.2.1, ?_, ?_⟩
  · show Tab.wf (if w = 0 then Tab.del a.tags slot else Tab.set a.tags slot w) = true
    split
    · exact Tab.wf_del slot h.2.2.2.1
    · exact Tab.wf_set slot w h.2.2.2.1
  · show ∀ t ∈ (if w = 0 then Tab.del a.tags slot else Tab.set a.tags slot w), t.2 ≠ 0
    split
    · exact fun t ht => h.2.2.2.2 t ((Tab.sub_del a.tags slot).subset ht)
    · next hw =>
      intro t ht
      rcases Tab.mem_set ht with rfl | ht
      · exact hw
      · exact h.2.2.2.2 t ht

theorem Arrays.canonical_tags {a : Arrays} {t : Tab W64} (h : a.canonical = true) (k : t.Sublist a.tags) :
    ({ a with tags := t } : Arrays).canonical = true := by
  rw [Arrays.canonical_iff] at h ⊢
  exact ⟨h.1, h.2.1, h.2.2.1, Tab.wf_sub h.2.2.2.1 k, fun x hx => h.2.2.2.2 x (k.subset hx)⟩

theorem Mem.wf_foldl_zero {α : Type} (f g : α → Nat) (l : List α) {m : Mem} (h : Mem.wf m = true) :
    Mem.wf (l.foldl (fun m x => Mem.zero m (f x) (g x)) m) = true := by
  induction l generalizing m with
  | nil => exact h
  | cons x r ih => exact ih (Mem.wf_zero (f x) (g x) h)

end Sys2Proof.Machine
end

