-- ==== Sys2Proof/Laws/Steady.lean ====
section
/-!
SUPPORT. What an operation leaves alone: `Steady` and `Sound` of the empty change, of a chain, of a fold and of one modifier
per unit. The files `Keeps` and a number say it of every operation of the machine, in the order of their definitions, and
`Lawful` of those that change what the others leave alone.
-/
namespace Sys2Proof.Machine

theorem Steady.refl (s : State) : Steady s s := ⟨rfl, rfl, rfl⟩

theorem Steady.trans {a b c : State} (h : Steady a b) (k : Steady b c) : Steady a c :=
  ⟨k.root.trans h.root, k.sizes.trans h.sizes, k.arrays.trans h.arrays⟩

theorem Sound.refl (s : State) : Sound s s := ⟨rfl, rfl, id⟩

theorem Sound.trans {a b c : State} (h : Sound a b) (k : Sound b c) : Sound a c :=
  ⟨k.root.trans h.root, k.sizes.trans h.sizes, fun x => k.canonical (h.canonical x)⟩

theorem Steady.sound {a b : State} (h : Steady a b) : Sound a b :=
  ⟨h.root, h.sizes, fun x => by rw [State.canonical, h.arrays]; exact x⟩

theorem Steady.after {a b c : State} (k : Steady b c) (h : Steady a b) : Steady a c := h.trans k

theorem Sound.after {a b c : State} (k : Sound b c) (h : Sound a b) : Sound a c := h.trans k

theorem Sound.steady {a b c : State} (h : Sound a b) (k : Steady b c) : Sound a c := h.trans k.sound

theorem steady_foldl {α : Type} (f : State → α → State) (h : ∀ s a, Steady s (f s a)) (l : List α) (s : State) :
    Steady s (l.foldl f s) := by
  induction l generalizing s with
  | nil => exact Steady.refl s
  | cons a l ih => exact (h s a).trans (ih _)

theorem sound_foldl {α : Type} (f : State → α → State) (h : ∀ s a, Sound s (f s a)) (l : List α) (s : State) :
    Sound s (l.foldl f s) := by
  induction l generalizing s with
  | nil => exact Sound.refl s
  | cons a l ih => exact (h s a).trans (ih _)

theorem steady_foldl2 {α β : Type} (f : β × State → α → β × State) (h : ∀ x a, Steady x.2 (f x a).2) (l : List α)
    (x : β × State) : Steady x.2 (l.foldl f x).2 := by
  induction l generalizing x with
  | nil => exact Steady.refl _
  | cons a l ih => exact (h x a).trans (ih _)

theorem sound_foldl2 {α β : Type} (f : β × State → α → β × State) (h : ∀ x a, Sound x.2 (f x a).2) (l : List α)
    (x : β × State) : Sound x.2 (l.foldl f x).2 := by
  induction l generalizing x with
  | nil => exact Sound.refl _
  | cons a l ih => exact (h x a).trans (ih _)

theorem steady_mCfg (f : Cfg → Cfg) (s : State) : Steady s (s.mCfg f) := ⟨rfl, rfl, rfl⟩

theorem steady_mFc (f : Fc → Fc) (s : State) : Steady s (s.mFc f) := ⟨rfl, rfl, rfl⟩

theorem steady_mCt (f : Ct → Ct) (s : State) : Steady s (s.mCt f) := ⟨rfl, rfl, rfl⟩

theorem steady_mLed (f : Led → Led) (s : State) : Steady s (s.mLed f) := ⟨rfl, rfl, rfl⟩

theorem steady_mTwc (f : Twc → Twc) (s : State) : Steady s (s.mTwc f) := ⟨rfl, rfl, rfl⟩

theorem steady_mPer (f : Per → Per) (s : State) : Steady s (s.mPer f) := ⟨rfl, rfl, rfl⟩

theorem steady_mVu (f : Vu → Vu) (s : State) : Steady s (s.mVu f) := ⟨rfl, rfl, rfl⟩

theorem steady_mYm (f : Ym → Ym) (s : State) : Steady s (s.mYm f) := ⟨rfl, rfl, rfl⟩

theorem steady_mFr (f : Fr → Fr) (s : State) : Steady s (s.mFr f) := ⟨rfl, rfl, rfl⟩

theorem steady_mOb (f : Ob → Ob) (s : State) : Steady s (s.mOb f) := ⟨rfl, rfl, rfl⟩

theorem steady_draw (s : State) : Steady s s.draw.2 := ⟨rfl, rfl, rfl⟩

theorem steady_mNv (f : Nv → Nv) (s : State) (h : (f s.nv).otp = s.nv.otp ∧ (f s.nv).fuses = s.nv.fuses ∧
    (f s.nv).bankA = s.nv.bankA ∧ (f s.nv).bankB = s.nv.bankB ∧ (f s.nv).selector = s.nv.selector) :
    Steady s (s.mNv f) := ⟨by simp [State.root, State.mNv, h], rfl, rfl⟩

theorem steady_mPorts (f : Ports → Ports) (s : State) (h : (f s.ports).rstLow = s.ports.rstLow ∧
    (f s.ports).wrstLow = s.ports.wrstLow ∧ (f s.ports).slnUp = s.ports.slnUp ∧ (f s.ports).dieId = s.ports.dieId ∧
    (f s.ports).tap = s.ports.tap) : Steady s (s.mPorts f) := ⟨by simp [State.root, State.mPorts, h], rfl, rfl⟩

theorem steady_mSec (f : Sec → Sec) (s : State) (h : (f s.sec).keys = s.sec.keys ∧
    (f s.sec).unlocked = s.sec.unlocked ∧ (f s.sec).lc = s.sec.lc ∧ (f s.sec).nextLc = s.sec.nextLc ∧
    (f s.sec).policy = s.sec.policy) : Steady s (s.mSec f) := ⟨by simp [State.root, State.mSec, h], rfl, rfl⟩

theorem steady_mSa (f : Sa → Sa) (s : State) (h : (f s.sa).lanes.length = s.sa.lanes.length ∧
    (f s.sa).clusters.length = s.sa.clusters.length) : Steady s (s.mSa f) :=
  ⟨rfl, by simp [State.sizes, State.mSa, h], rfl⟩

theorem steady_mMem (f : MemSt → MemSt) (s : State) (h : (f s.mem).loft = s.mem.loft ∧ (f s.mem).cm = s.mem.cm ∧
    (f s.mem).opbuf = s.mem.opbuf ∧ (f s.mem).tags = s.mem.tags ∧ (f s.mem).sheds.length = s.mem.sheds.length ∧
    (f s.mem).eng.length = s.mem.eng.length) : Steady s (s.mMem f) :=
  ⟨rfl, by simp [State.sizes, State.mMem, h], by simp [State.arrays, State.mMem, h]⟩

theorem steady_mHx (f : Hx → Hx) (s : State) (h : (f s.hx).ports.length = s.hx.ports.length ∧
    (f s.hx).barriers.length = s.hx.barriers.length) : Steady s (s.mHx f) :=
  ⟨rfl, by simp [State.sizes, State.mHx, h], rfl⟩

theorem steady_mTs (f : Ts → Ts) (s : State) (h : (f s.ts).domains.length = s.ts.domains.length) :
    Steady s (s.mTs f) := ⟨rfl, by simp [State.sizes, State.mTs, h], rfl⟩

theorem sound_mMem (f : MemSt → MemSt) (s : State)
    (h : (Arrays.canonical ⟨s.mem.loft, s.mem.cm, s.mem.opbuf, s.mem.tags⟩ = true →
      Arrays.canonical ⟨(f s.mem).loft, (f s.mem).cm, (f s.mem).opbuf, (f s.mem).tags⟩ = true) ∧
    (f s.mem).sheds.length = s.mem.sheds.length ∧ (f s.mem).eng.length = s.mem.eng.length) : Sound s (s.mMem f) :=
  ⟨rfl, by simp [State.sizes, State.mMem, h], h.1⟩

theorem Steady.of_pair {β : Type} {s t : State} {x : β × State} {b : β} (h : Steady s x.2) (e : x = (b, t)) : Steady s t := by
  rw [e] at h
  exact h

theorem Steady.getD {o : Option State} {s d : State} (h : ∀ t, o = some t → Steady s t) (k : Steady s d) :
    Steady s (o.getD d) := by
  cases o with
  | none => exact k
  | some t => exact h t rfl

theorem steady_countInj (e : Bool) (n : Nat) (s : State) : Steady s (s.mHx (countInj e n)) :=
  steady_mHx _ _ (by unfold countInj; split <;> exact ⟨rfl, rfl⟩)

theorem steady_countEj (e : Bool) (n : Nat) (s : State) : Steady s (s.mHx (countEj e n)) :=
  steady_mHx _ _ (by unfold countEj; split <;> exact ⟨rfl, rfl⟩)

/-- What a packet on its way out leaves alone. -/
theorem steady_trySend {p q : Ports} {e : Egress} (h : trySend p e = some q) : q.rstLow = p.rstLow ∧
    q.wrstLow = p.wrstLow ∧ q.slnUp = p.slnUp ∧ q.dieId = p.dieId ∧ q.tap = p.tap := by
  simp only [trySend] at h
  split at h
  · cases h
    exact ⟨rfl, rfl, rfl, rfl, rfl⟩
  · cases h

theorem steady_portsSend (p : Ports) (e : Egress) : (p.send e).rstLow = p.rstLow ∧ (p.send e).wrstLow = p.wrstLow ∧
    (p.send e).slnUp = p.slnUp ∧ (p.send e).dieId = p.dieId ∧ (p.send e).tap = p.tap := by
  unfold Ports.send
  cases h : trySend p e with
  | none => exact ⟨rfl, rfl, rfl, rfl, rfl⟩
  | some q => exact steady_trySend h

theorem steady_portsDrain (p : Ports) : p.drain.rstLow = p.rstLow ∧ p.drain.wrstLow = p.wrstLow ∧
    p.drain.slnUp = p.slnUp ∧ p.drain.dieId = p.dieId ∧ p.drain.tap = p.tap := by
  have key : ∀ (l : List Egress) (q : Ports), (l.foldl (fun q e => q.send e) q).rstLow = q.rstLow ∧
      (l.foldl (fun q e => q.send e) q).wrstLow = q.wrstLow ∧ (l.foldl (fun q e => q.send e) q).slnUp = q.slnUp ∧
      (l.foldl (fun q e => q.send e) q).dieId = q.dieId ∧ (l.foldl (fun q e => q.send e) q).tap = q.tap := by
    intro l
    induction l with
    | nil => exact fun q => ⟨rfl, rfl, rfl, rfl, rfl⟩
    | cons e l ih =>
      intro q
      obtain ⟨a, b, c, d, f⟩ := ih (q.send e)
      obtain ⟨a', b', c', d', f'⟩ := steady_portsSend q e
      exact ⟨a.trans a', b.trans b', c.trans c', d.trans d', f.trans f'⟩
  exact key p.waiting { p with waiting := [] }

/-- A change of the arrays that keeps the form of each is sound. -/
theorem sound_mem (f : MemSt → MemSt) (s : State) (loft : Mem.wf s.mem.loft = true → Mem.wf (f s.mem).loft = true)
    (cm : Mem.wf s.mem.cm = true → Mem.wf (f s.mem).cm = true)
    (opbuf : Mem.wf s.mem.opbuf = true → Mem.wf (f s.mem).opbuf = true)
    (tags : Tab.wf s.mem.tags = true ∧ (∀ t ∈ s.mem.tags, t.2 ≠ 0) →
      Tab.wf (f s.mem).tags = true ∧ ∀ t ∈ (f s.mem).tags, t.2 ≠ 0)
    (sheds : (f s.mem).sheds.length = s.mem.sheds.length) (eng : (f s.mem).eng.length = s.mem.eng.length) :
    Sound s (s.mMem f) := by
  refine sound_mMem f s ⟨fun h => ?_, sheds, eng⟩
  rw [Arrays.canonical_iff] at h ⊢
  exact ⟨loft h.1, cm h.2.1, opbuf h.2.2.1, tags h.2.2.2⟩

theorem tags_filter {t : Tab W64} (p : Nat × W64 → Bool) (h : Tab.wf t = true ∧ ∀ x ∈ t, x.2 ≠ 0) :
    Tab.wf (t.filter p) = true ∧ ∀ x ∈ t.filter p, x.2 ≠ 0 :=
  ⟨Tab.wf_sub h.1 List.filter_sublist, fun x hx => h.2 x (List.filter_sublist.subset hx)⟩

theorem tags_set {t : Tab W64} (slot : Nat) (w : W64) (h : Tab.wf t = true ∧ ∀ x ∈ t, x.2 ≠ 0) :
    Tab.wf (if w = 0 then Tab.del t slot else Tab.set t slot w) = true ∧
      ∀ x ∈ (if w = 0 then Tab.del t slot else Tab.set t slot w), x.2 ≠ 0 := by
  split
  · exact ⟨Tab.wf_del slot h.1, fun x hx => h.2 x ((Tab.sub_del t slot).subset hx)⟩
  · next hw =>
    refine ⟨Tab.wf_set slot w h.1, fun x hx => ?_⟩
    rcases Tab.mem_set hx with rfl | hx
    · exact hw
    · exact h.2 x hx

theorem tags_nil (c : Prop) [Decidable c] {t : Tab W64} (h : Tab.wf t = true ∧ ∀ x ∈ t, x.2 ≠ 0) :
    Tab.wf (if c then [] else t) = true ∧ ∀ x ∈ (if c then [] else t), x.2 ≠ 0 := by
  split
  · exact ⟨rfl, by simp⟩
  · exact h

theorem wf_nil_or (c : Prop) [Decidable c] {m : Mem} (h : Mem.wf m = true) : Mem.wf (if c then [] else m) = true := by
  split
  · rfl
  · exact h

theorem steady_withStep {o : Option Nat} {s d : State} {f : Nat → State} (h : Steady s d) (k : ∀ n, Steady s (f n)) :
    Steady s (withStep o d f) := by
  cases o with
  | none => exact h
  | some n => exact k n

theorem sound_withStep {o : Option Nat} {s d : State} {f : Nat → State} (h : Sound s d) (k : ∀ n, Sound s (f n)) :
    Sound s (withStep o d f) := by
  cases o with
  | none => exact h
  | some n => exact k n

end Sys2Proof.Machine
end

