-- ==== Sys2Proof/Laws/Keeps1.lean ====
section
/-!
SUPPORT. What the operations of these files of the machine leave alone: Ops, HitchNet, Observe, Operands, Mesh,
Intake, Stud, Loft, Memory, Orders.
-/
namespace Sys2Proof.Machine

/-! ### Ops -/

theorem steady_bump (k n : Nat) (s : State) : Steady s (bump k n s) := by
  unfold bump
  try dsimp only [-Nat.reducePow]
  repeat' first
    | with_reducible exact Steady.refl _
    | with_reducible refine (steady_mOb _ _).after ?_

theorem steady_bumpPlan (plan j n : Nat) (s : State) : Steady s (bumpPlan plan j n s) := by
  unfold bumpPlan
  try dsimp only [-Nat.reducePow]
  repeat' first
    | with_reducible exact Steady.refl _
    | with_reducible refine (steady_mOb _ _).after ?_

theorem steady_bumpCtx (k j ctx n : Nat) (s : State) : Steady s (bumpCtx k j ctx n s) := by
  unfold bumpCtx
  try dsimp only [-Nat.reducePow]
  repeat' first
    | with_reducible exact Steady.refl _
    | with_reducible refine (steady_bump ..).after ?_
    | with_reducible refine (steady_bumpPlan ..).after ?_
    | intro _
    | split

theorem steady_send (port kind sub : Nat) (dst : Huid) (pre : List W64) (payload : Bytes) (s : State) :
    Steady s (send port kind sub dst pre payload s) := by
  unfold send
  exact steady_mPorts _ _ (steady_portsSend ..)

/-! ### HitchNet -/

theorem steady_mPort (p : Nat) (f : Port → Port) (s : State) : Steady s (State.mPort p f s) := by
  unfold State.mPort
  exact steady_mHx _ _ ⟨List.length_modify .., rfl⟩

theorem steady_freeBuffer (e : QEnt) (s : State) : Steady s (freeBuffer e s) := by
  unfold freeBuffer
  try dsimp only [-Nat.reducePow]
  repeat' first
    | with_reducible exact Steady.refl _
    | with_reducible refine (steady_mPort ..).after ?_
    | intro _
    | split

theorem steady_sendFrame (n : Nat) (e : QEnt) (s : State) : Steady s (sendFrame n e s) := by
  unfold sendFrame
  try dsimp only [-Nat.reducePow]
  repeat' first
    | with_reducible exact Steady.refl _
    | with_reducible refine (steady_mPorts _ _ ?_).after ?_
    | with_reducible refine (steady_bump ..).after ?_
    | with_reducible refine (steady_mPort ..).after ?_
    | with_reducible refine (steady_freeBuffer ..).after ?_
    | intro _
    | with_reducible exact ⟨rfl, rfl, rfl, rfl, rfl⟩
    | split

theorem steady_pumpPort (n k sh : Nat) (s : State) : Steady s (pumpPort n k sh s) := by
  induction k generalizing sh s with
  | zero => exact Steady.refl s
  | succ k ih =>
    unfold pumpPort
    dsimp only [-Nat.reducePow]
    repeat' first
      | with_reducible exact Steady.refl _
      | with_reducible refine (ih ..).after ?_
      | with_reducible refine (steady_mPort ..).after ?_
      | with_reducible refine (steady_sendFrame ..).after ?_
      | with_reducible refine (steady_freeBuffer ..).after ?_
      | with_reducible refine (steady_bump ..).after ?_
      | split

theorem steady_pumpAll (s : State) : Steady s (pumpAll s) := by
  unfold pumpAll
  try dsimp only [-Nat.reducePow]
  repeat' first
    | with_reducible exact Steady.refl _
    | with_reducible refine (steady_pumpPort ..).after ?_
    | with_reducible refine (steady_foldl _ ?_ _ _).after ?_
    | with_reducible refine (steady_foldl2 _ ?_ _ _).after ?_
    | intro _

theorem steady_enqueue (n : Nat) (src : Option Nat) (enter : Bool) (p : HxPkt) (s : State) :
    Steady s (enqueue n src enter p s) := by
  unfold enqueue
  try dsimp only [-Nat.reducePow]
  repeat' first
    | with_reducible exact Steady.refl _
    | with_reducible refine (steady_mPort ..).after ?_

theorem steady_deliver (p : HxPkt) (s : State) : Steady s (deliver p s) := by
  unfold deliver
  try dsimp only [-Nat.reducePow]
  repeat' first
    | with_reducible exact Steady.refl _
    | with_reducible refine (steady_mHx _ _ ?_).after ?_
    | intro _
    | with_reducible exact ⟨rfl, rfl⟩

theorem steady_injectRouted (p : HxPkt) (s : State) : Steady s (injectRouted p s) := by
  unfold injectRouted
  try dsimp only [-Nat.reducePow]
  repeat' first
    | with_reducible exact Steady.refl _
    | with_reducible refine (steady_countInj ..).after ?_
    | with_reducible refine (steady_countEj ..).after ?_
    | with_reducible refine (steady_mHx _ _ ?_).after ?_
    | with_reducible refine (steady_pumpPort ..).after ?_
    | with_reducible refine (steady_enqueue ..).after ?_
    | intro _
    | with_reducible exact ⟨rfl, rfl⟩
    | split

theorem steady_injectLive (p : HxPkt) (s : State) : Steady s (injectLive p s) := by
  unfold injectLive
  try dsimp only [-Nat.reducePow]
  repeat' first
    | with_reducible exact Steady.refl _
    | with_reducible refine (steady_injectRouted ..).after ?_

theorem steady_mTx (k : Nat) (f : TxSt → TxSt) (s : State) : Steady s (State.mTx k f s) := by
  unfold State.mTx
  try dsimp only [-Nat.reducePow]
  repeat' first
    | with_reducible exact Steady.refl _
    | with_reducible refine (steady_mHx _ _ ?_).after ?_
    | intro _
    | with_reducible exact ⟨rfl, rfl⟩

theorem steady_hxSend (die : Nat) (p : HxPkt) (s : State) : Steady s (hxSend die p s) := by
  unfold hxSend
  try dsimp only [-Nat.reducePow]
  repeat' first
    | with_reducible exact Steady.refl _
    | with_reducible refine (steady_deliver ..).after ?_
    | with_reducible refine (steady_injectLive ..).after ?_
    | with_reducible refine (steady_mTx ..).after ?_
    | intro _
    | split

theorem steady_drainTx (d n : Nat) (s : State) : Steady s (drainTx d n s) := by
  induction n generalizing s with
  | zero => exact Steady.refl s
  | succ n ih =>
    unfold drainTx
    dsimp only [-Nat.reducePow]
    split
    · exact Steady.refl _
    · split
      · exact Steady.refl _
      · exact (ih _).after ((steady_injectLive ..).after (steady_mTx ..))

theorem steady_mcastForward (src : Option Nat) (dir : Option Nat) (eject : Bool) (p : HxPkt) (s : State) :
    Steady s (mcastForward src dir eject p s) := by
  unfold mcastForward
  try dsimp only [-Nat.reducePow]
  repeat' first
    | with_reducible exact Steady.refl _
    | with_reducible refine (steady_countInj ..).after ?_
    | with_reducible refine (steady_mHx _ _ ?_).after ?_
    | with_reducible refine (steady_pumpAll ..).after ?_
    | with_reducible refine (steady_enqueue ..).after ?_
    | with_reducible refine (steady_foldl _ ?_ _ _).after ?_
    | with_reducible refine (steady_foldl2 _ ?_ _ _).after ?_
    | intro _

theorem steady_injectCopy (p : HxPkt) (s : State) : Steady s (injectCopy p s) := by
  unfold injectCopy
  try dsimp only [-Nat.reducePow]
  repeat' first
    | with_reducible exact Steady.refl _
    | with_reducible refine (steady_countInj ..).after ?_
    | with_reducible refine (steady_mHx _ _ ?_).after ?_
    | with_reducible refine (steady_injectLive ..).after ?_
    | with_reducible refine (steady_mcastForward ..).after ?_
    | intro _
    | with_reducible exact ⟨rfl, rfl⟩
    | split

theorem steady_mcastSendNow (members : List Nat) (p : HxPkt) (s : State) : Steady s (mcastSendNow members p s) := by
  unfold mcastSendNow
  dsimp only
  (repeat' split) <;>
  repeat' first
    | with_reducible exact Steady.refl _
    | with_reducible refine (steady_foldl _ (fun s d => ?_) _ _).after ?_
    | with_reducible refine (steady_mcastForward ..).after ?_
    | with_reducible refine (steady_countInj ..).after ?_
    | with_reducible refine (steady_mTx ..).after ?_
    | with_reducible refine (steady_injectCopy ..).after ?_
    | with_reducible refine (steady_injectLive ..).after ?_

theorem steady_hxMulticast (members : List Nat) (p : HxPkt) (s : State) : Steady s (hxMulticast members p s) := by
  unfold hxMulticast
  try dsimp only [-Nat.reducePow]
  repeat' first
    | with_reducible exact Steady.refl _
    | with_reducible refine (steady_deliver ..).after ?_
    | with_reducible refine (steady_mTx ..).after ?_
    | with_reducible refine (steady_mcastSendNow ..).after ?_
    | intro _
    | split

theorem steady_drainMcast (n : Nat) (s : State) : Steady s (drainMcast n s) := by
  induction n generalizing s with
  | zero => exact Steady.refl s
  | succ n ih =>
    unfold drainMcast
    dsimp only
    split
    · exact Steady.refl _
    · split
      · exact Steady.refl _
      · exact (ih _).after ((steady_mcastSendNow ..).after (steady_mTx ..))

theorem steady_mRx (k : Nat) (f : RxSt → RxSt) (s : State) : Steady s (State.mRx k f s) := by
  unfold State.mRx
  try dsimp only [-Nat.reducePow]
  repeat' first
    | with_reducible exact Steady.refl _
    | with_reducible refine (steady_mHx _ _ ?_).after ?_
    | intro _
    | with_reducible exact ⟨rfl, rfl⟩

theorem steady_sendAck (die : Nat) (space : Bool) (s : State) : Steady s (sendAck die space s) := by
  unfold sendAck
  try dsimp only [-Nat.reducePow]
  repeat' first
    | with_reducible exact Steady.refl _
    | with_reducible refine (steady_injectLive ..).after ?_
    | with_reducible refine (steady_mRx ..).after ?_

theorem steady_deliverRun (k n : Nat) (s : State) : Steady s (deliverRun k n s) := by
  induction n generalizing s with
  | zero => exact Steady.refl s
  | succ n ih =>
    unfold deliverRun
    dsimp only
    split
    · exact Steady.refl _
    · exact (ih _).after ((steady_deliver ..).after (steady_mRx ..))

theorem steady_receiveE2E (p : HxPkt) (s : State) : Steady s (receiveE2E p s) := by
  unfold receiveE2E
  try dsimp only [-Nat.reducePow]
  repeat' first
    | with_reducible exact Steady.refl _
    | with_reducible refine (steady_bump ..).after ?_
    | with_reducible refine (steady_mRx ..).after ?_
    | with_reducible refine (steady_sendAck ..).after ?_
    | with_reducible refine (steady_deliverRun ..).after ?_
    | intro _
    | split

theorem steady_pumpRelay (n : Nat) (s : State) : Steady s (pumpRelay n s) := by
  induction n generalizing s with
  | zero => exact Steady.refl s
  | succ n ih =>
    unfold pumpRelay
    dsimp only
    (repeat' split) <;> first
      | exact Steady.refl _
      | exact (ih _).after ((steady_injectRouted ..).after (steady_mHx _ _ ⟨rfl, rfl⟩))

theorem steady_packetArrive (port : Nat) (p : HxPkt) (s : State) : Steady s (packetArrive port p s) := by
  unfold packetArrive
  try dsimp only [-Nat.reducePow]
  repeat' first
    | with_reducible exact Steady.refl _
    | with_reducible refine (steady_countEj ..).after ?_
    | with_reducible refine (steady_mHx _ _ ?_).after ?_
    | with_reducible refine (steady_bump ..).after ?_
    | with_reducible refine (steady_freeBuffer ..).after ?_
    | with_reducible refine (steady_pumpAll ..).after ?_
    | with_reducible refine (steady_enqueue ..).after ?_
    | with_reducible refine (steady_deliver ..).after ?_
    | with_reducible refine (steady_mcastForward ..).after ?_
    | with_reducible refine (steady_receiveE2E ..).after ?_
    | with_reducible refine (steady_pumpRelay ..).after ?_
    | intro _
    | with_reducible exact ⟨rfl, rfl⟩
    | split

/-! ### Observe -/

theorem steady_tackPacket (off : Nat) (body : Bytes) (s : State) : Steady s (tackPacket off body s) := by
  unfold tackPacket
  try dsimp only [-Nat.reducePow]
  repeat' first
    | with_reducible exact Steady.refl _
    | with_reducible refine (steady_send ..).after ?_

theorem steady_tackPlace (stream : Nat) (body : Bytes) (s : State) : Steady s (tackPlace stream body s) := by
  unfold tackPlace
  try dsimp only [-Nat.reducePow]
  repeat' first
    | with_reducible exact Steady.refl _
    | with_reducible refine (steady_mOb _ _).after ?_
    | with_reducible refine (steady_bump ..).after ?_
    | with_reducible refine (steady_tackPacket ..).after ?_
    | intro _
    | split

theorem steady_tackWrite (stream type : Nat) (body : Bytes) (s : State) : Steady s (tackWrite stream type body s) :=
    by
  unfold tackWrite
  try dsimp only [-Nat.reducePow]
  repeat' first
    | with_reducible exact Steady.refl _
    | with_reducible refine (steady_mOb _ _).after ?_
    | with_reducible refine (steady_bump ..).after ?_
    | with_reducible refine (steady_tackPlace ..).after ?_
    | intro _
    | split

theorem steady_traceEmit (body : Bytes) (s : State) : Steady s (traceEmit body s) := by
  unfold traceEmit
  try dsimp only [-Nat.reducePow]
  repeat' first
    | with_reducible exact Steady.refl _
    | with_reducible refine (steady_mOb _ _).after ?_
    | with_reducible refine (steady_bump ..).after ?_
    | with_reducible refine (steady_hxSend ..).after ?_
    | with_reducible refine (steady_tackWrite ..).after ?_
    | intro _
    | split

theorem steady_traceEntry (e : W128) (s : State) : Steady s (traceEntry e s) := by
  unfold traceEntry
  try dsimp only [-Nat.reducePow]
  repeat' first
    | with_reducible exact Steady.refl _
    | with_reducible refine (steady_mOb _ _).after ?_
    | with_reducible refine (steady_bump ..).after ?_
    | with_reducible refine (steady_traceEmit ..).after ?_
    | intro _
    | split

theorem steady_ringPush (u : Nat) (event : Bool) (code cls : Nat) (ctx : Option Nat) (arg : Nat) (s : State) :
    Steady s (ringPush u event code cls ctx arg s) := by
  unfold ringPush
  try dsimp only [-Nat.reducePow]
  repeat' first
    | with_reducible exact Steady.refl _
    | with_reducible refine (steady_mOb _ _).after ?_
    | with_reducible refine (steady_traceEntry ..).after ?_
    | intro _
    | split

theorem steady_stateEvent (u off v : Nat) (s : State) : Steady s (stateEvent u off v s) := by
  unfold stateEvent
  try dsimp only [-Nat.reducePow]
  repeat' first
    | with_reducible exact Steady.refl _
    | with_reducible refine (steady_ringPush ..).after ?_

theorem steady_stateChanged (u off old new : Nat) (s : State) : Steady s (stateChanged u off old new s) := by
  unfold stateChanged
  try dsimp only [-Nat.reducePow]
  repeat' first
    | with_reducible exact Steady.refl _
    | with_reducible refine (steady_stateEvent ..).after ?_
    | intro _
    | split

theorem steady_traceStep (code ctx arg : Nat) (s : State) : Steady s (traceStep code ctx arg s) := by
  unfold traceStep
  try dsimp only [-Nat.reducePow]
  repeat' first
    | with_reducible exact Steady.refl _
    | with_reducible refine (steady_traceEntry ..).after ?_
    | intro _
    | split

/-! ### Operands -/

theorem steady_mCtx (c : Nat) (f : CtxSt → CtxSt) (s : State) : Steady s (State.mCtx c f s) := by
  unfold State.mCtx
  try dsimp only [-Nat.reducePow]
  repeat' first
    | with_reducible exact Steady.refl _
    | with_reducible refine (steady_mLed _ _).after ?_
    | with_reducible refine (steady_stateChanged ..).after ?_

theorem steady_mStep (c : Nat) (e : Bool) (n : Nat) (f : StepSt → StepSt) (s : State) :
    Steady s (State.mStep c e n f s) := by
  unfold State.mStep
  try dsimp only [-Nat.reducePow]
  repeat' first
    | with_reducible exact Steady.refl _
    | with_reducible refine (steady_mLed _ _).after ?_

theorem steady_mInst (c : Nat) (e : Bool) (n t : Nat) (f : Inst → Inst) (s : State) :
    Steady s (State.mInst c e n t f s) := by
  unfold State.mInst
  try dsimp only [-Nat.reducePow]
  repeat' first
    | with_reducible exact Steady.refl _
    | with_reducible refine (steady_mLed _ _).after ?_

/-! ### Mesh -/

theorem steady_sendCore (kind sub : Nat) (label : Huid) (pre : List W64) (payload : Bytes) (s : State) :
    Steady s (sendCore kind sub label pre payload s) := by
  unfold sendCore
  try dsimp only [-Nat.reducePow]
  repeat' first
    | with_reducible exact Steady.refl _
    | with_reducible refine (steady_send ..).after ?_

/-! ### Intake -/

theorem steady_openDispute (d : Dispute) (s : State) : Steady s (openDispute d s) := by
  unfold openDispute
  try dsimp only [-Nat.reducePow]
  repeat' first
    | with_reducible exact Steady.refl _
    | with_reducible refine (steady_mVu _ _).after ?_
    | with_reducible refine (steady_bumpCtx ..).after ?_
    | intro _
    | split

theorem steady_markStep (c : Nat) (e : Bool) (n : Nat) (by_ : Huid) (s : State) : Steady s (markStep c e n by_ s) :=
    by
  unfold markStep
  try dsimp only [-Nat.reducePow]
  repeat' first
    | with_reducible exact Steady.refl _
    | with_reducible refine (steady_mStep ..).after ?_
    | with_reducible refine (steady_openDispute ..).after ?_
    | intro _
    | split

theorem steady_residueMark (m : W128) (s : State) : Steady s (residueMark m s) := by
  unfold residueMark
  try dsimp only [-Nat.reducePow]
  repeat' first
    | with_reducible exact Steady.refl _
    | with_reducible refine (steady_markStep ..).after ?_
    | intro _
    | split

theorem steady_placeRec {r : RingRec} {rx : Nat} {s t : State} (h : placeRec r rx s = some t) : Steady s t := by
  unfold placeRec at h
  dsimp only at h
  cases k : ringPlace r rx s.fc with
  | none => rw [k] at h; cases h
  | some f =>
    rw [k] at h
    cases h
    refine (steady_foldl _ (fun s m => steady_residueMark m s) _ _).after ((steady_bump ..).after ?_)
    have e : Steady s { s with fc := f } := ⟨rfl, rfl, rfl⟩
    split
    · exact (steady_bump ..).after e
    · exact e

theorem steady_waited (r : RingRec) (s : State) : Steady s (waited r s) := by
  unfold waited
  try dsimp only [-Nat.reducePow]
  repeat' first
    | with_reducible exact Steady.refl _
    | with_reducible refine (steady_bump ..).after ?_

theorem steady_placeRun (rx : Nat) (l : List RingRec) (s : State) : Steady s (placeRun rx l s).2 := by
  induction l generalizing s with
  | nil => exact Steady.refl s
  | cons r l ih =>
    unfold placeRun
    split
    · exact (steady_placeRec (by assumption)).trans (ih _)
    · exact Steady.refl s

theorem steady_mCollector (u : Nat) (rs : List RingRec) (s : State) : Steady s (State.mCollector u rs s) := by
  unfold State.mCollector
  try dsimp only [-Nat.reducePow]
  repeat' first
    | with_reducible exact Steady.refl _
    | with_reducible refine (steady_mFc _ _).after ?_

theorem steady_raise (u : Nat) (ms : List (W128 × W128)) (s : State) : Steady s (raise u ms s) := by
  unfold raise
  try dsimp only [-Nat.reducePow]
  repeat' first
    | with_reducible exact Steady.refl _
    | with_reducible refine (steady_mFc _ _).after ?_
    | with_reducible refine (steady_ringPush ..).after ?_
    | with_reducible refine (steady_placeRun ..).after ?_
    | with_reducible refine (steady_mCollector ..).after ?_
    | intro _
    | split

theorem steady_report (u kind addr : Nat) (ctx : Option Nat) (h : Huid) (loc : W128) (s : State) :
    Steady s (report u kind addr ctx h loc s) := by
  unfold report
  try dsimp only [-Nat.reducePow]
  repeat' first
    | with_reducible exact Steady.refl _
    | with_reducible refine (steady_raise ..).after ?_

theorem steady_reportSelf (u inst kind addr : Nat) (ctx : Option Nat) (s : State) :
    Steady s (reportSelf u inst kind addr ctx s) := by
  unfold reportSelf
  try dsimp only [-Nat.reducePow]
  repeat' first
    | with_reducible exact Steady.refl _
    | with_reducible refine (steady_report ..).after ?_

theorem steady_reportUnit (u kind addr : Nat) (ctx : Option Nat) (h : Huid) (s : State) :
    Steady s (reportUnit u kind addr ctx h s) := by
  unfold reportUnit
  try dsimp only [-Nat.reducePow]
  repeat' first
    | with_reducible exact Steady.refl _
    | with_reducible refine (steady_report ..).after ?_

theorem steady_reportCores (u kind addr : Nat) (ctx : Option Nat) (labels : List Huid) (s : State) :
    Steady s (reportCores u kind addr ctx labels s) := by
  unfold reportCores
  try dsimp only [-Nat.reducePow]
  repeat' first
    | with_reducible exact Steady.refl _
    | with_reducible refine (steady_raise ..).after ?_
    | with_reducible refine (steady_reportSelf ..).after ?_
    | intro _
    | split

theorem steady_badMsg (inst : Nat) (s : State) : Steady s (badMsg inst s) := by
  unfold badMsg
  try dsimp only [-Nat.reducePow]
  repeat' first
    | with_reducible exact Steady.refl _
    | with_reducible refine (steady_bump ..).after ?_
    | with_reducible refine (steady_reportSelf ..).after ?_

theorem steady_filterSeq {m : W128} {s t : State} (h : filterSeq m s = some t) : Steady s t := by
  unfold filterSeq at h
  dsimp only at h
  split at h
  · cases h
    exact steady_mFc ..
  · split at h
    · cases h
    · cases h
      refine (steady_mFc ..).after ?_
      split
      · exact steady_bump ..
      · exact Steady.refl _

theorem steady_validate (inst : Nat) (m : W128) (s : State) : Steady s (validate inst m s).2 := by
  unfold validate
  try dsimp only [-Nat.reducePow]
  repeat' first
    | with_reducible exact Steady.refl _
    | with_reducible refine (steady_bump ..).after ?_
    | with_reducible refine (steady_badMsg ..).after ?_
    | with_reducible refine (steady_filterSeq (by assumption)).after ?_
    | intro _
    | split

/-! ### Stud -/

theorem steady_sbCompact (s : State) : Steady s (sbCompact s) := by
  unfold sbCompact
  try dsimp only [-Nat.reducePow]
  repeat' first
    | with_reducible exact Steady.refl _
    | with_reducible refine (steady_mNv _ _ ?_).after ?_
    | with_reducible refine (steady_bump ..).after ?_
    | intro _
    | with_reducible exact ⟨rfl, rfl, rfl, rfl, rfl⟩
    | split

theorem steady_sbAppend (r : SbRec) (s : State) : Steady s (sbAppend r s) := by
  unfold sbAppend
  try dsimp only [-Nat.reducePow]
  repeat' first
    | with_reducible exact Steady.refl _
    | with_reducible refine (steady_mNv _ _ ?_).after ?_
    | with_reducible refine (steady_mCfg _ _).after ?_
    | with_reducible refine (steady_bump ..).after ?_
    | with_reducible refine (steady_sbCompact ..).after ?_
    | intro _
    | with_reducible exact ⟨rfl, rfl, rfl, rfl, rfl⟩
    | split

theorem steady_sbDefer (r : SbRec) (s : State) : Steady s (sbDefer r s) := by
  unfold sbDefer
  try dsimp only [-Nat.reducePow]
  repeat' first
    | with_reducible exact Steady.refl _
    | with_reducible refine (steady_mCfg _ _).after ?_
    | with_reducible refine (steady_bump ..).after ?_
    | intro _
    | split

theorem steady_sbWrite (type : Nat) (body : Bytes) (s : State) : Steady s (sbWrite type body s) := by
  unfold sbWrite
  try dsimp only [-Nat.reducePow]
  repeat' first
    | with_reducible exact Steady.refl _
    | with_reducible refine (steady_sbAppend ..).after ?_
    | with_reducible refine (steady_sbDefer ..).after ?_
    | intro _
    | split

theorem steady_sbFlush (s : State) : Steady s (sbFlush s) := by
  unfold sbFlush
  try dsimp only [-Nat.reducePow]
  repeat' first
    | with_reducible exact Steady.refl _
    | with_reducible refine (steady_mCfg _ _).after ?_
    | with_reducible refine (steady_sbAppend ..).after ?_
    | with_reducible refine (steady_foldl _ ?_ _ _).after ?_
    | with_reducible refine (steady_foldl2 _ ?_ _ _).after ?_
    | intro _
    | split

theorem steady_sbSoftRepair (array inst bank row spare origin : Nat) (s : State) :
    Steady s (sbSoftRepair array inst bank row spare origin s) := by
  unfold sbSoftRepair
  try dsimp only [-Nat.reducePow]
  repeat' first
    | with_reducible exact Steady.refl _
    | with_reducible refine (steady_sbWrite ..).after ?_

theorem steady_sbDefect (loc : W128) (kind source : Nat) (s : State) : Steady s (sbDefect loc kind source s) := by
  unfold sbDefect
  try dsimp only [-Nat.reducePow]
  repeat' first
    | with_reducible exact Steady.refl _
    | with_reducible refine (steady_sbWrite ..).after ?_

/-! ### Loft -/

theorem steady_takeInjection (array target : Nat) (s : State) : Steady s (takeInjection array target s).2 := by
  unfold takeInjection
  try dsimp only [-Nat.reducePow]
  repeat' first
    | with_reducible exact Steady.refl _
    | with_reducible refine (steady_mMem _ _ ?_).after ?_
    | intro _
    | with_reducible exact ⟨rfl, rfl, rfl, rfl, rfl, rfl⟩
    | split

theorem steady_injectAt (array target place : Nat) (s : State) : Steady s (injectAt array target place s) := by
  unfold injectAt
  split
  · exact Steady.of_pair (steady_takeInjection ..) (by assumption)
  · exact (steady_mMem _ _ ⟨rfl, rfl, rfl, rfl, rfl, rfl⟩).after (Steady.of_pair (steady_takeInjection ..) (by
    assumption))

theorem steady_dropFlips (array lo n : Nat) (s : State) : Steady s (dropFlips array lo n s) := by
  unfold dropFlips
  try dsimp only [-Nat.reducePow]
  repeat' first
    | with_reducible exact Steady.refl _
    | with_reducible refine (steady_mMem _ _ ?_).after ?_
    | intro _
    | with_reducible exact ⟨rfl, rfl, rfl, rfl, rfl, rfl⟩

theorem sound_setTag (slot : Nat) (w : W64) (s : State) : Sound s (setTag slot w s) := by
  unfold setTag
  refine (steady_injectAt ..).sound.after ((steady_dropFlips ..).sound.after ?_)
  exact sound_mem _ _ id id id (tags_set slot w) rfl rfl

theorem steady_memTag (slot : Nat) (s : State) : Steady s (memTag slot s) := by
  unfold memTag
  try dsimp only [-Nat.reducePow]
  repeat' first
    | with_reducible exact Steady.refl _
    | with_reducible refine (steady_reportUnit ..).after ?_

theorem sound_tagAllocOp (slot ctx plan : Nat) (epoch : Bool) (s : State) : Sound s (tagAllocOp slot ctx plan epoch
    s) := by
  unfold tagAllocOp
  try dsimp only [-Nat.reducePow]
  repeat' first
    | with_reducible exact Sound.refl _
    | with_reducible refine (sound_setTag ..).after ?_
    | with_reducible refine (steady_memTag ..).sound.after ?_
    | intro _
    | split

theorem sound_tagBindOp (slot : Nat) (i : Ident) (s : State) : Sound s (tagBindOp slot i s) := by
  unfold tagBindOp
  try dsimp only [-Nat.reducePow]
  repeat' first
    | with_reducible exact Sound.refl _
    | with_reducible refine (sound_setTag ..).after ?_
    | with_reducible refine (steady_memTag ..).sound.after ?_
    | intro _
    | split

theorem sound_tagClearOp (slot : Nat) (s : State) : Sound s (tagClearOp slot s) := by
  unfold tagClearOp
  try dsimp only [-Nat.reducePow]
  repeat' first
    | with_reducible exact Sound.refl _
    | with_reducible refine (sound_setTag ..).after ?_

theorem sound_tagScrubOp (slot : Nat) (s : State) : Sound s (tagScrubOp slot s) := by
  unfold tagScrubOp
  try dsimp only [-Nat.reducePow]
  repeat' first
    | with_reducible exact Sound.refl _
    | with_reducible refine (sound_setTag ..).after ?_
    | intro _
    | split

theorem sound_tagFreeOp (slot : Nat) (s : State) : Sound s (tagFreeOp slot s) := by
  unfold tagFreeOp
  try dsimp only [-Nat.reducePow]
  repeat' first
    | with_reducible exact Sound.refl _
    | with_reducible refine (sound_setTag ..).after ?_
    | intro _
    | split

theorem sound_mapRow (bank row : Nat) (s : State) : Sound s (mapRow bank row s) := by
  unfold mapRow
  split
  · exact (steady_mMem _ _ ⟨rfl, rfl, rfl, rfl, rfl, rfl⟩).sound.after (steady_reportUnit ..).sound
  · refine (steady_sbSoftRepair ..).sound.after ((steady_bump ..).sound.after ?_)
    exact Sound.after (sound_mem _ _ (Mem.wf_foldl_zero _ _ _) id id id rfl rfl) (steady_dropFlips ..).sound

theorem steady_engQueue (shed : Nat) (op : EngOp) (s : State) : Steady s (engQueue shed op s) := by
  unfold engQueue
  exact steady_mMem _ _ ⟨rfl, rfl, rfl, rfl, rfl, List.length_modify ..⟩

theorem steady_eccLast (ue : Bool) (array inst bank row bit_ : Nat) (s : State) :
    Steady s (eccLast ue array inst bank row bit_ s) := by
  unfold eccLast
  try dsimp only [-Nat.reducePow]
  repeat' first
    | with_reducible exact Steady.refl _
    | with_reducible refine (steady_mMem _ _ ?_).after ?_
    | intro _
    | with_reducible exact ⟨rfl, rfl, rfl, rfl, rfl, rfl⟩

theorem steady_eccReport (kind : Nat) (h : Huid) (ek ei eb : Nat) (s : State) : Steady s (eccReport kind h ek ei eb
    s) := by
  unfold eccReport
  try dsimp only [-Nat.reducePow]
  repeat' first
    | with_reducible exact Steady.refl _
    | with_reducible refine (steady_report ..).after ?_

theorem steady_loftCe (slot byte bit_ : Nat) (s : State) : Steady s (loftCe slot byte bit_ s) := by
  unfold loftCe
  try dsimp only [-Nat.reducePow]
  repeat' first
    | with_reducible exact Steady.refl _
    | with_reducible refine (steady_mMem _ _ ?_).after ?_
    | with_reducible refine (steady_bump ..).after ?_
    | with_reducible refine (steady_engQueue ..).after ?_
    | with_reducible refine (steady_eccLast ..).after ?_
    | with_reducible refine (steady_eccReport ..).after ?_
    | intro _
    | with_reducible exact ⟨rfl, rfl, rfl, rfl, rfl, rfl⟩
    | split

theorem steady_tagCe (slot bit_ : Nat) (s : State) : Steady s (tagCe slot bit_ s) := by
  unfold tagCe
  try dsimp only [-Nat.reducePow]
  repeat' first
    | with_reducible exact Steady.refl _
    | with_reducible refine (steady_bump ..).after ?_
    | with_reducible refine (steady_eccLast ..).after ?_
    | with_reducible refine (steady_eccReport ..).after ?_

theorem steady_markMemUe (i : Ident) (s : State) : Steady s (markMemUe i s) := by
  unfold markMemUe
  try dsimp only [-Nat.reducePow]
  repeat' first
    | with_reducible exact Steady.refl _
    | with_reducible refine (steady_mStep ..).after ?_
    | with_reducible refine (steady_openDispute ..).after ?_
    | with_reducible refine steady_withStep ?_ ?_
    | intro _
    | split

theorem steady_loftUe (slot byte : Nat) (i : Ident) (s : State) : Steady s (loftUe slot byte i s) := by
  unfold loftUe
  try dsimp only [-Nat.reducePow]
  repeat' first
    | with_reducible exact Steady.refl _
    | with_reducible refine (steady_bump ..).after ?_
    | with_reducible refine (steady_engQueue ..).after ?_
    | with_reducible refine (steady_eccLast ..).after ?_
    | with_reducible refine (steady_eccReport ..).after ?_
    | with_reducible refine (steady_markMemUe ..).after ?_

theorem steady_loseWord (array place : Nat) (s : State) : Steady s (loseWord array place s) := by
  unfold loseWord
  try dsimp only [-Nat.reducePow]
  repeat' first
    | with_reducible exact Steady.refl _
    | with_reducible refine (steady_mMem _ _ ?_).after ?_
    | intro _
    | with_reducible exact ⟨rfl, rfl, rfl, rfl, rfl, rfl⟩
    | split

theorem steady_tagUe (slot : Nat) (s : State) : Steady s (tagUe slot s) := by
  unfold tagUe
  try dsimp only [-Nat.reducePow]
  repeat' first
    | with_reducible exact Steady.refl _
    | with_reducible refine (steady_bump ..).after ?_
    | with_reducible refine (steady_eccLast ..).after ?_
    | with_reducible refine (steady_eccReport ..).after ?_

theorem steady_lateWrite (port : Nat) (s : State) : Steady s (lateWrite port s) := by
  unfold lateWrite
  try dsimp only [-Nat.reducePow]
  repeat' first
    | with_reducible exact Steady.refl _
    | with_reducible refine (steady_bump ..).after ?_
    | with_reducible refine (steady_reportUnit ..).after ?_

theorem steady_writeCheck (slot : Nat) (i : Ident) (tagBad : Bool) (s : State) :
    Steady s (writeCheck slot i tagBad s).2 := by
  unfold writeCheck
  try dsimp only [-Nat.reducePow]
  repeat' first
    | with_reducible exact Steady.refl _
    | with_reducible refine (steady_bumpCtx ..).after ?_
    | with_reducible refine (steady_memTag ..).after ?_
    | with_reducible refine (steady_tagUe ..).after ?_
    | intro _
    | split

theorem steady_readCheck (slot : Nat) (i : Ident) (tagBad : Bool) (s : State) : Steady s (readCheck slot i tagBad
    s).2 := by
  unfold readCheck
  try dsimp only [-Nat.reducePow]
  repeat' first
    | with_reducible exact Steady.refl _
    | with_reducible refine (steady_memTag ..).after ?_
    | with_reducible refine (steady_tagUe ..).after ?_
    | intro _
    | split

theorem steady_busAnswer (status : Nat) (data : Bytes) (s : State) : Steady s (busAnswer status data s) := by
  unfold busAnswer
  try dsimp only [-Nat.reducePow]
  repeat' first
    | with_reducible exact Steady.refl _
    | with_reducible refine (steady_mMem _ _ ?_).after ?_
    | intro _
    | with_reducible exact ⟨rfl, rfl, rfl, rfl, rfl, rfl⟩

theorem steady_tagEcc (slot : Nat) (e : EccSay) (s : State) : Steady s (tagEcc slot e s).2 := by
  unfold tagEcc
  try dsimp only [-Nat.reducePow]
  repeat' first
    | with_reducible exact Steady.refl _
    | with_reducible refine (steady_dropFlips ..).after ?_
    | with_reducible refine (steady_tagCe ..).after ?_
    | with_reducible refine (steady_loseWord ..).after ?_
    | intro _
    | split

theorem sound_tagFullOp (slot : Nat) (i : Ident) (s : State) : Sound s (tagFullOp slot i s) := by
  unfold tagFullOp
  try dsimp only [-Nat.reducePow]
  repeat' first
    | with_reducible exact Sound.refl _
    | with_reducible refine (sound_setTag ..).after ?_
    | with_reducible refine (steady_memTag ..).sound.after ?_
    | with_reducible refine (steady_tagUe ..).sound.after ?_
    | with_reducible refine (steady_tagEcc ..).sound.after ?_
    | intro _
    | split

theorem steady_dataEcc (slot byte n : Nat) (i : Ident) (e : EccSay) (s : State) :
    Steady s (dataEcc slot byte n i e s).2 := by
  unfold dataEcc
  try dsimp only [-Nat.reducePow]
  repeat' first
    | with_reducible exact Steady.refl _
    | with_reducible refine (steady_draw _).after ?_
    | with_reducible refine (steady_dropFlips ..).after ?_
    | with_reducible refine (steady_loftCe ..).after ?_
    | with_reducible refine (steady_loftUe ..).after ?_
    | with_reducible refine (steady_loseWord ..).after ?_
    | intro _
    | split

theorem sound_loftWrite (a : Nat) (b : Bytes) (s : State) : Sound s (loftWrite a b s) := by
  unfold loftWrite
  refine (steady_injectAt ..).sound.after ((steady_dropFlips ..).sound.after ?_)
  exact sound_mem _ _ (Mem.wf_write a b) id id id rfl rfl

theorem steady_bankRead (slot line : Nat) (a : Access) (e : EccSay) (s : State) : Steady s (bankRead slot line a e
    s) := by
  unfold bankRead
  try dsimp only [-Nat.reducePow]
  repeat' first
    | with_reducible exact Steady.refl _
    | with_reducible refine (steady_bump ..).after ?_
    | with_reducible refine (steady_lateWrite ..).after ?_
    | with_reducible refine (steady_readCheck ..).after ?_
    | with_reducible refine (steady_busAnswer ..).after ?_
    | with_reducible refine (steady_tagEcc ..).after ?_
    | with_reducible refine (steady_dataEcc ..).after ?_
    | intro _
    | split

theorem steady_bankStore (slot byte n : Nat) (partly : Bool) (a : Access) (e : EccSay) (f : State → State) (s : State)
    (hf : ∀ s, Steady s (f s)) :
    Steady s (bankStore slot byte n partly a e f s) := by
  unfold bankStore
  try dsimp only [-Nat.reducePow]
  repeat' first
    | with_reducible exact Steady.refl _
    | with_reducible refine (steady_lateWrite ..).after ?_
    | with_reducible refine (steady_writeCheck ..).after ?_
    | with_reducible refine (steady_busAnswer ..).after ?_
    | with_reducible refine (steady_tagEcc ..).after ?_
    | with_reducible refine (steady_dataEcc ..).after ?_
    | with_reducible refine (hf ..).after ?_
    | intro _
    | split

theorem sound_bankStore (slot byte n : Nat) (partly : Bool) (a : Access) (e : EccSay) (f : State → State) (s : State)
    (hf : ∀ s, Sound s (f s)) :
    Sound s (bankStore slot byte n partly a e f s) := by
  unfold bankStore
  try dsimp only [-Nat.reducePow]
  repeat' first
    | with_reducible exact Sound.refl _
    | with_reducible refine (steady_lateWrite ..).sound.after ?_
    | with_reducible refine (steady_writeCheck ..).sound.after ?_
    | with_reducible refine (steady_busAnswer ..).sound.after ?_
    | with_reducible refine (steady_tagEcc ..).sound.after ?_
    | with_reducible refine (steady_dataEcc ..).sound.after ?_
    | with_reducible refine (hf ..).after ?_
    | intro _
    | split

theorem steady_eachSlot (f : Nat → State → State) (slots : List (Nat × Nat)) (s : State)
    (hf : ∀ a0 s, Steady s (f a0 s)) :
    Steady s (eachSlot f slots s) := by
  unfold eachSlot
  try dsimp only [-Nat.reducePow]
  repeat' first
    | with_reducible exact Steady.refl _
    | with_reducible refine (hf ..).after ?_
    | with_reducible refine (steady_foldl _ ?_ _ _).after ?_
    | with_reducible refine (steady_foldl2 _ ?_ _ _).after ?_
    | intro _

theorem sound_eachSlot (f : Nat → State → State) (slots : List (Nat × Nat)) (s : State)
    (hf : ∀ a0 s, Sound s (f a0 s)) :
    Sound s (eachSlot f slots s) := by
  unfold eachSlot
  try dsimp only [-Nat.reducePow]
  repeat' first
    | with_reducible exact Sound.refl _
    | with_reducible refine (hf ..).after ?_
    | with_reducible refine (sound_foldl _ ?_ _ _).after ?_
    | with_reducible refine (sound_foldl2 _ ?_ _ _).after ?_
    | intro _

/-! ### Memory -/

theorem steady_setDomain (d : Nat) (st : DomSt) (s : State) : Steady s (setDomain d st s) := by
  unfold setDomain
  exact steady_mTs _ _ List.length_set

theorem steady_requestDomain (d : Nat) (s : State) : Steady s (requestDomain d s) := by
  unfold requestDomain
  try dsimp only [-Nat.reducePow]
  repeat' first
    | with_reducible exact Steady.refl _
    | with_reducible refine (steady_mTs _ _ ?_).after ?_
    | with_reducible refine (steady_bump ..).after ?_
    | with_reducible refine (steady_setDomain ..).after ?_
    | intro _
    | with_reducible exact rfl
    | split

theorem steady_setShed (n : Nat) (st : ShedSt) (s : State) : Steady s (setShed n st s) := by
  unfold setShed
  exact (steady_stateChanged ..).after (steady_mMem _ _ ⟨rfl, rfl, rfl, rfl, List.length_modify .., rfl⟩)

theorem sound_bankWrite (slot line : Nat) (mask : W64) (data : BitVec 512) (a : Access) (e : EccSay) (s : State) :
    Sound s (bankWrite slot line mask data a e s) := by
  unfold bankWrite
  try dsimp only [-Nat.reducePow]
  repeat' first
    | with_reducible exact Sound.refl _
    | with_reducible refine (sound_loftWrite ..).after ?_
    | with_reducible refine (sound_bankStore _ _ _ _ _ _ _ _ ?_).after ?_
    | intro _

theorem sound_bankAdd64 (slot w : Nat) (v : W64) (a : Access) (e : EccSay) (s : State) :
    Sound s (bankAdd64 slot w v a e s) := by
  unfold bankAdd64
  try dsimp only [-Nat.reducePow]
  repeat' first
    | with_reducible exact Sound.refl _
    | with_reducible refine (sound_loftWrite ..).after ?_
    | with_reducible refine (sound_bankStore _ _ _ _ _ _ _ _ ?_).after ?_
    | intro _

theorem sound_bankLpfAdd (slot off8 : Nat) (rec : Bytes) (a : Access) (e : EccSay) (s : State) :
    Sound s (bankLpfAdd slot off8 rec a e s) := by
  unfold bankLpfAdd
  try dsimp only [-Nat.reducePow]
  repeat' first
    | with_reducible exact Sound.refl _
    | with_reducible refine (sound_loftWrite ..).after ?_
    | with_reducible refine (sound_bankStore _ _ _ _ _ _ _ _ ?_).after ?_
    | intro _

theorem steady_engTake (op : EngOp) (s : State) : Steady s (engTake op s) := by
  unfold engTake
  exact steady_mMem _ _ ⟨rfl, rfl, rfl, rfl, rfl, List.length_map ..⟩

theorem sound_engFill (slot count : Nat) (pattern : W64) (s : State) : Sound s (engFill slot count pattern s) := by
  unfold engFill
  try dsimp only [-Nat.reducePow]
  repeat' first
    | with_reducible exact Sound.refl _
    | with_reducible refine (steady_lateWrite ..).sound.after ?_
    | with_reducible refine (sound_loftWrite ..).after ?_
    | with_reducible refine (steady_engTake ..).sound.after ?_
    | with_reducible refine (sound_foldl _ ?_ _ _).after ?_
    | with_reducible refine (sound_foldl2 _ ?_ _ _).after ?_
    | intro _
    | split

theorem steady_mLane (n : Nat) (f : Lane → Lane) (s : State) : Steady s (State.mLane n f s) := by
  unfold State.mLane
  exact steady_mSa _ _ ⟨List.length_modify .., rfl⟩

theorem steady_mCluster (n : Nat) (f : Cluster → Cluster) (s : State) : Steady s (State.mCluster n f s) := by
  unfold State.mCluster
  exact steady_mSa _ _ ⟨rfl, List.length_modify ..⟩

theorem sound_engCopy (src count dst : Nat) (lane : Option Nat) (s : State) : Sound s (engCopy src count dst lane s)
    := by
  have h := (steady_engTake (.copy src count dst lane) s).sound
  unfold engCopy
  generalize engTake (.copy src count dst lane) s = x at h
  refine Sound.trans h ?_
  generalize Mem.read x.mem.loft (slotAddr src) (2048 * count) = data
  generalize range' src count ++ range' dst count = both
  dsimp only
  split
  · split
    · split
      · exact (steady_lateWrite ..).sound
      · exact sound_loftWrite ..
    · exact (steady_memTag ..).sound
  · split
    · split
      · exact (steady_lateWrite ..).sound
      · exact (steady_injectAt ..).sound.after (sound_mem _ _ id (Mem.wf_write _ _) id id rfl rfl)
    · exact (steady_memTag ..).sound
  · exact (steady_memTag ..).sound

theorem sound_eraseSlots (ranges : List (Nat × Nat)) (s : State) : Sound s (eraseSlots ranges s) := by
  unfold eraseSlots
  exact sound_mem _ _ (Mem.wf_foldl_zero _ _ _) id id id rfl rfl

theorem sound_startErasure (ctx plan : Nat) (p : Plan) (kill : Bool) (s : State) :
    Sound s (startErasure ctx plan p kill s) := by
  unfold startErasure
  try dsimp only [-Nat.reducePow]
  repeat' first
    | with_reducible exact Sound.refl _
    | with_reducible refine (steady_mMem _ _ ?_).sound.after ?_
    | with_reducible refine (steady_mOb _ _).sound.after ?_
    | with_reducible refine (sound_tagScrubOp ..).after ?_
    | with_reducible refine (steady_engQueue ..).sound.after ?_
    | with_reducible refine (sound_eachSlot _ _ _ ?_).after ?_
    | with_reducible refine (steady_mLane ..).sound.after ?_
    | with_reducible refine (sound_foldl _ ?_ _ _).after ?_
    | with_reducible refine (sound_foldl2 _ ?_ _ _).after ?_
    | intro _
    | with_reducible exact ⟨rfl, rfl, rfl, rfl, rfl, rfl⟩

theorem steady_mErasure (ctx : Nat) (f : Erasure → Erasure) (s : State) : Steady s (State.mErasure ctx f s) := by
  unfold State.mErasure
  try dsimp only [-Nat.reducePow]
  repeat' first
    | with_reducible exact Steady.refl _
    | with_reducible refine (steady_mMem _ _ ?_).after ?_
    | intro _
    | with_reducible exact ⟨rfl, rfl, rfl, rfl, rfl, rfl⟩

theorem steady_eraseFailed (h : Huid) (s : State) : Steady s (eraseFailed h s) := by
  unfold eraseFailed
  try dsimp only [-Nat.reducePow]
  repeat' first
    | with_reducible exact Steady.refl _
    | with_reducible refine (steady_mMem _ _ ?_).after ?_
    | with_reducible refine (steady_reportUnit ..).after ?_
    | intro _
    | with_reducible exact ⟨rfl, rfl, rfl, rfl, rfl, rfl⟩

theorem sound_eraseRanges (ctx : Nat) (r r2 : WipeSay) (s : State) : Sound s (eraseRanges ctx r r2 s) := by
  unfold eraseRanges
  try dsimp only [-Nat.reducePow]
  repeat' first
    | with_reducible exact Sound.refl _
    | with_reducible refine (steady_mMem _ _ ?_).sound.after ?_
    | with_reducible refine (steady_draw _).sound.after ?_
    | with_reducible refine (steady_bump ..).sound.after ?_
    | with_reducible refine (sound_mapRow ..).after ?_
    | with_reducible refine (steady_engTake ..).sound.after ?_
    | with_reducible refine (sound_eraseSlots ..).after ?_
    | with_reducible refine (steady_eraseFailed ..).sound.after ?_
    | with_reducible refine (sound_foldl _ ?_ _ _).after ?_
    | with_reducible refine (sound_foldl2 _ ?_ _ _).after ?_
    | intro _
    | with_reducible exact ⟨rfl, rfl, rfl, rfl, rfl, rfl⟩
    | split

theorem sound_zeroLane (lane : Nat) (s : State) : Sound s (zeroLane lane s) := by
  unfold zeroLane
  exact (steady_dropFlips ..).sound.after (sound_mem _ _ id (Mem.wf_zero _ _) (Mem.wf_zero _ _) id rfl rfl)

theorem sound_zeroCluster (c : Nat) (s : State) : Sound s (zeroCluster c s) := by
  unfold zeroCluster
  refine (steady_mCluster ..).sound.after ((steady_dropFlips ..).sound.after ((steady_dropFlips ..).sound.after ?_))
  exact sound_mem _ _ id (Mem.wf_zero _ _) (Mem.wf_zero _ _) id rfl rfl

theorem sound_freePages (pages : List Nat) (s : State) : Sound s (freePages pages s) := by
  unfold freePages
  refine sound_foldl _ (fun s p => ?_) _ _
  exact (sound_setTag ..).after (sound_mem _ _ (Mem.wf_zero _ _) id id id rfl rfl)

theorem sound_finishErasure (e : Erasure) (s : State) : Sound s (finishErasure e s) := by
  unfold finishErasure
  try dsimp only [-Nat.reducePow]
  repeat' first
    | with_reducible exact Sound.refl _
    | with_reducible refine (steady_mMem _ _ ?_).sound.after ?_
    | with_reducible refine (steady_bump ..).sound.after ?_
    | with_reducible refine (sound_tagFreeOp ..).after ?_
    | with_reducible refine (sound_eachSlot _ _ _ ?_).after ?_
    | with_reducible refine (sound_freePages ..).after ?_
    | intro _
    | with_reducible exact ⟨rfl, rfl, rfl, rfl, rfl, rfl⟩
    | split

theorem steady_shedDrain (n : Nat) (s : State) : Steady s (shedDrain n s) := by
  unfold shedDrain
  split
  · refine (steady_setDomain ..).after ?_
    exact (steady_mMem _ _ ⟨rfl, rfl, rfl, rfl, List.length_modify .., rfl⟩).after (steady_setShed ..)
  · exact Steady.refl _

theorem steady_domainOff (d : Nat) (s : State) : Steady s (domainOff d s) := by
  unfold domainOff
  try dsimp only [-Nat.reducePow]
  repeat' first
    | with_reducible exact Steady.refl _
    | with_reducible refine (steady_mTs _ _ ?_).after ?_
    | with_reducible refine (steady_setDomain ..).after ?_
    | intro _
    | with_reducible exact rfl
    | split

theorem sound_shedOff (n : Nat) (s : State) : Sound s (shedOff n s) := by
  unfold shedOff
  split
  · refine (steady_domainOff ..).sound.after (Sound.trans (steady_setShed n .off s).sound ?_)
    exact sound_mem _ _ (Mem.wf_zero _ _) id id (tags_filter _) (List.length_modify ..) rfl
  · exact Sound.refl _

theorem steady_drainTimeout (n port : Nat) (s : State) : Steady s (drainTimeout n port s) := by
  unfold drainTimeout
  split
  · refine (steady_reportUnit ..).after ((steady_setDomain ..).after ?_)
    exact (steady_mMem _ _ ⟨rfl, rfl, rfl, rfl, List.length_modify .., rfl⟩).after (steady_setShed ..)
  · exact Steady.refl _

theorem steady_shedInitDone (n : Nat) (s : State) : Steady s (shedInitDone n s) := by
  unfold shedInitDone
  try dsimp only [-Nat.reducePow]
  repeat' first
    | with_reducible exact Steady.refl _
    | with_reducible refine (steady_setDomain ..).after ?_
    | with_reducible refine (steady_setShed ..).after ?_
    | intro _
    | split

/-! ### Orders -/

theorem steady_mSector (n : Nat) (f : SectorSt → SectorSt) (s : State) : Steady s (State.mSector n f s) := by
  unfold State.mSector
  try dsimp only [-Nat.reducePow]
  repeat' first
    | with_reducible exact Steady.refl _
    | with_reducible refine (steady_mCt _ _).after ?_

theorem steady_takeEntry (k : Nat) (c : Cmd) (s : State) : Steady s (takeEntry k c s) := by
  unfold takeEntry
  try dsimp only [-Nat.reducePow]
  repeat' first
    | with_reducible exact Steady.refl _
    | with_reducible refine (steady_mCt _ _).after ?_
    | with_reducible refine (steady_bump ..).after ?_

theorem steady_dropEntry (k : Nat) (s : State) : Steady s (dropEntry k s) := by
  unfold dropEntry
  try dsimp only [-Nat.reducePow]
  repeat' first
    | with_reducible exact Steady.refl _
    | with_reducible refine (steady_mCt _ _).after ?_

theorem steady_hostDone (w : W64) (status : Nat) (s : State) : Steady s (hostDone w status s) := by
  unfold hostDone
  try dsimp only [-Nat.reducePow]
  repeat' first
    | with_reducible exact Steady.refl _
    | with_reducible refine (steady_mCt _ _).after ?_

theorem steady_endHost (o : ScOrder) (status : Nat) (s : State) : Steady s (endHost o status s) := by
  unfold endHost
  try dsimp only [-Nat.reducePow]
  repeat' first
    | with_reducible exact Steady.refl _
    | with_reducible refine (steady_hostDone ..).after ?_
    | with_reducible refine (steady_foldl _ ?_ _ _).after ?_
    | with_reducible refine (steady_foldl2 _ ?_ _ _).after ?_
    | intro _

theorem steady_scStart (n : Nat) (s : State) : Steady s (scStart n s) := by
  unfold scStart
  try dsimp only [-Nat.reducePow]
  repeat' first
    | with_reducible exact Steady.refl _
    | with_reducible refine (steady_mSector ..).after ?_
    | with_reducible refine (steady_takeEntry ..).after ?_
    | intro _
    | split

theorem steady_scOrder (n : Nat) (o : ScOrder) (s : State) : Steady s (scOrder n o s) := by
  unfold scOrder
  try dsimp only [-Nat.reducePow]
  repeat' first
    | with_reducible exact Steady.refl _
    | with_reducible refine (steady_mCt _ _).after ?_
    | with_reducible refine (steady_bump ..).after ?_
    | with_reducible refine (steady_mSector ..).after ?_
    | with_reducible refine (steady_endHost ..).after ?_
    | with_reducible refine (steady_scStart ..).after ?_
    | with_reducible refine (steady_foldl _ ?_ _ _).after ?_
    | with_reducible refine (steady_foldl2 _ ?_ _ _).after ?_
    | intro _
    | split

theorem steady_fenceOrder (h : Huid) (purpose : Nat) (w : W64) (s : State) : Steady s (fenceOrder h purpose w s) := by
  unfold fenceOrder
  try dsimp only [-Nat.reducePow]
  repeat' first
    | with_reducible exact Steady.refl _
    | with_reducible refine (steady_scOrder ..).after ?_

theorem steady_unfenceOrder (h : Huid) (purpose : Nat) (w : W64) (s : State) : Steady s (unfenceOrder h purpose w s)
    := by
  unfold unfenceOrder
  try dsimp only [-Nat.reducePow]
  repeat' first
    | with_reducible exact Steady.refl _
    | with_reducible refine (steady_scOrder ..).after ?_

theorem steady_ctxFence (c : Nat) (labels : List Huid) (purpose : Nat) (s : State) :
    Steady s (ctxFence c labels purpose s) := by
  unfold ctxFence
  try dsimp only [-Nat.reducePow]
  repeat' first
    | with_reducible exact Steady.refl _
    | with_reducible refine (steady_scOrder ..).after ?_
    | with_reducible refine (steady_foldl _ ?_ _ _).after ?_
    | with_reducible refine (steady_foldl2 _ ?_ _ _).after ?_
    | intro _
    | split

theorem steady_waitQuery (h : Huid) (s : State) : Steady s (waitQuery h s) := by
  unfold waitQuery
  try dsimp only [-Nat.reducePow]
  repeat' first
    | with_reducible exact Steady.refl _
    | with_reducible refine (steady_bump ..).after ?_
    | with_reducible refine (steady_scOrder ..).after ?_

theorem steady_startChains (c step : Nat) (labels : List Huid) (s : State) : Steady s (startChains c step labels s)
    := by
  unfold startChains
  try dsimp only [-Nat.reducePow]
  repeat' first
    | with_reducible exact Steady.refl _
    | with_reducible refine (steady_mCt _ _).after ?_
    | with_reducible refine (steady_waitQuery ..).after ?_
    | with_reducible refine (steady_foldl _ ?_ _ _).after ?_
    | with_reducible refine (steady_foldl2 _ ?_ _ _).after ?_
    | intro _

end Sys2Proof.Machine
end

