-- ==== Sys2Proof/Laws/Keeps2.lean ====
section
/-!
SUPPORT. What the operations of these files of the machine leave alone: YardOps, Ledger, Plans, Capture, Clock,
HitchMap, Hrp, Snapshot, Paddock, Steps, Engines.
-/
namespace Sys2Proof.Machine

/-! ### YardOps -/

theorem steady_mPad (h : Huid) (f : Pad → Pad) (s : State) : Steady s (State.mPad h f s) := by
  unfold State.mPad
  try dsimp only [-Nat.reducePow]
  repeat' first
    | with_reducible exact Steady.refl _
    | with_reducible refine (steady_mVu _ _).after ?_

theorem steady_swapLabels (a b : Huid) (s : State) : Steady s (swapLabels a b s) := by
  unfold swapLabels
  try dsimp only [-Nat.reducePow]
  repeat' first
    | with_reducible exact Steady.refl _
    | with_reducible refine (steady_mYm _ _).after ?_

theorem steady_sbRemap (label phys : Huid) (s : State) : Steady s (sbRemap label phys s) := by
  unfold sbRemap
  try dsimp only [-Nat.reducePow]
  repeat' first
    | with_reducible exact Steady.refl _
    | with_reducible refine (steady_sbWrite ..).after ?_

theorem steady_fcpPump (n : Nat) (s : State) : Steady s (fcpPump n s) := by
  induction n generalizing s with
  | zero => exact Steady.refl s
  | succ n ih =>
    unfold fcpPump
    split
    · exact (ih _).after ((steady_takeEntry ..).after (steady_mYm ..))
    · exact Steady.refl _

theorem steady_pumpFcp (s : State) : Steady s (pumpFcp s) := by
  unfold pumpFcp
  try dsimp only [-Nat.reducePow]
  repeat' first
    | with_reducible exact Steady.refl _
    | with_reducible refine (steady_fcpPump ..).after ?_

theorem steady_epochSet (s : State) : Steady s (epochSet s) := by
  unfold epochSet
  try dsimp only [-Nat.reducePow]
  repeat' first
    | with_reducible exact Steady.refl _
    | with_reducible refine (steady_mYm _ _).after ?_
    | with_reducible refine (steady_takeEntry ..).after ?_
    | intro _
    | split

theorem steady_computeInstall (s : State) : Steady s (computeInstall s) := by
  unfold computeInstall
  try dsimp only [-Nat.reducePow]
  repeat' first
    | with_reducible exact Steady.refl _
    | with_reducible refine (steady_mYm _ _).after ?_
    | with_reducible refine (steady_pumpFcp ..).after ?_

theorem steady_queueChange (s : State) : Steady s (queueChange s) := by
  unfold queueChange
  try dsimp only [-Nat.reducePow]
  repeat' first
    | with_reducible exact Steady.refl _
    | with_reducible refine (steady_mYm _ _).after ?_
    | with_reducible refine (steady_computeInstall ..).after ?_
    | intro _
    | split

theorem steady_remapLabel {l : Huid} {s t : State} (h : remapLabel l s = some t) : Steady s t := by
  unfold remapLabel at h
  dsimp only at h
  split at h
  · cases h
  · cases h
    refine (steady_queueChange ..).after ((steady_mYm ..).after ((steady_sbRemap ..).after ((steady_sbRemap
      ..).after ?_)))
    exact (steady_bump ..).after (steady_swapLabels ..)

theorem steady_ymReport (kind : Nat) (h : Huid) (s : State) : Steady s (ymReport kind h s) := by
  unfold ymReport
  try dsimp only [-Nat.reducePow]
  repeat' first
    | with_reducible exact Steady.refl _
    | with_reducible refine (steady_reportUnit ..).after ?_

/-! ### Ledger -/

theorem steady_haltWith (c kind : Nat) (sender : Huid) (s : State) : Steady s (haltWith c kind sender s) := by
  unfold haltWith
  try dsimp only [-Nat.reducePow]
  repeat' first
    | with_reducible exact Steady.refl _
    | with_reducible refine (steady_mCtx ..).after ?_
    | with_reducible refine (steady_reportUnit ..).after ?_
    | intro _
    | split

theorem steady_haltQuiet (c : Nat) (s : State) : Steady s (haltQuiet c s) := by
  unfold haltQuiet
  try dsimp only [-Nat.reducePow]
  repeat' first
    | with_reducible exact Steady.refl _
    | with_reducible refine (steady_mCtx ..).after ?_
    | intro _
    | split

theorem steady_noteStep (c : Nat) (e : Bool) (n : Nat) (s : State) : Steady s (noteStep c e n s) := by
  unfold noteStep
  try dsimp only [-Nat.reducePow]
  repeat' first
    | with_reducible exact Steady.refl _
    | with_reducible refine (steady_bumpCtx ..).after ?_
    | with_reducible refine (steady_mCtx ..).after ?_
    | with_reducible refine (steady_mStep ..).after ?_
    | intro _
    | split

theorem steady_windowMoved (c : Nat) (s : State) : Steady s (windowMoved c s) := by
  unfold windowMoved
  try dsimp only [-Nat.reducePow]
  repeat' first
    | with_reducible exact Steady.refl _
    | with_reducible refine (steady_bumpCtx ..).after ?_
    | with_reducible refine (steady_mCtx ..).after ?_
    | intro _
    | split

theorem steady_takeLane (l role : Nat) (s : State) : Steady s (takeLane l role s).2 := by
  unfold takeLane
  try dsimp only [-Nat.reducePow]
  repeat' first
    | with_reducible exact Steady.refl _
    | with_reducible refine (steady_requestDomain ..).after ?_
    | intro _
    | split

theorem steady_laneEnqueue (lane : Nat) (t : Token) (s : State) : Steady s (laneEnqueue lane t s) := by
  unfold laneEnqueue
  try dsimp only [-Nat.reducePow]
  repeat' first
    | with_reducible exact Steady.refl _
    | with_reducible refine (steady_mLed _ _).after ?_
    | with_reducible refine (steady_mLane ..).after ?_
    | intro _
    | split

theorem steady_laneEnqueueFirst (lane : Nat) (t : Token) (s : State) : Steady s (laneEnqueueFirst lane t s) := by
  unfold laneEnqueueFirst
  try dsimp only [-Nat.reducePow]
  repeat' first
    | with_reducible exact Steady.refl _
    | with_reducible refine (steady_mLed _ _).after ?_
    | with_reducible refine (steady_mLane ..).after ?_
    | intro _
    | split

theorem steady_ccLast (lane : Nat) (t : Token) (outcome tile : Nat) (checker : Bool) (s : State) :
    Steady s (ccLast lane t outcome tile checker s) := by
  unfold ccLast
  try dsimp only [-Nat.reducePow]
  repeat' first
    | with_reducible exact Steady.refl _
    | with_reducible refine (steady_mCluster ..).after ?_

theorem steady_noChecker (t : Token) (outcome : Nat) (s : State) : Steady s (noChecker t outcome s) := by
  unfold noChecker
  try dsimp only [-Nat.reducePow]
  repeat' first
    | with_reducible exact Steady.refl _
    | with_reducible refine (steady_openDispute ..).after ?_

theorem steady_noLane (p : Plan) (t : Token) (s : State) : Steady s (noLane p t s) := by
  unfold noLane
  try dsimp only [-Nat.reducePow]
  repeat' first
    | with_reducible exact Steady.refl _
    | with_reducible refine (steady_ccLast ..).after ?_
    | with_reducible refine (steady_noChecker ..).after ?_
    | intro _
    | split

theorem steady_dispatchToken (p : Plan) (t : Token) (s : State) : Steady s (dispatchToken p t s) := by
  unfold dispatchToken
  dsimp only
  split
  · exact steady_mPer ..
  · split
    · split
      · have h := Steady.of_pair (steady_takeLane ..) (by assumption)
        refine Steady.trans h ?_
        (repeat' split) <;> first
          | exact steady_laneEnqueueFirst ..
          | exact steady_laneEnqueue ..
          | exact (steady_laneEnqueueFirst ..).after (steady_bumpCtx ..)
          | exact (steady_laneEnqueue ..).after (steady_bumpCtx ..)
      · exact (steady_noLane ..).after (Steady.of_pair (steady_takeLane ..) (by assumption))
    · exact steady_mTwc ..

theorem steady_tryFire (c : Nat) (e : Bool) (n t : Nat) (s : State) : Steady s (tryFire c e n t s) := by
  unfold tryFire
  try dsimp only [-Nat.reducePow]
  repeat' first
    | with_reducible exact Steady.refl _
    | with_reducible refine (steady_bumpCtx ..).after ?_
    | with_reducible refine (steady_traceStep ..).after ?_
    | with_reducible refine (steady_mInst ..).after ?_
    | with_reducible refine (steady_dispatchToken ..).after ?_
    | intro _
    | split

theorem steady_fireAll (c : Nat) (s : State) : Steady s (fireAll c s) := by
  unfold fireAll
  try dsimp only [-Nat.reducePow]
  repeat' first
    | with_reducible exact Steady.refl _
    | with_reducible refine (steady_tryFire ..).after ?_
    | with_reducible refine (steady_foldl _ ?_ _ _).after ?_
    | with_reducible refine (steady_foldl2 _ ?_ _ _).after ?_
    | intro _

theorem steady_countStale (t : Token) (k : Nat) (s : State) : Steady s (countStale t k s) := by
  unfold countStale
  try dsimp only [-Nat.reducePow]
  repeat' first
    | with_reducible exact Steady.refl _
    | with_reducible refine (steady_bumpCtx ..).after ?_
    | intro _
    | split

theorem steady_taskPassed (t : Token) (s : State) : Steady s (taskPassed t s) := by
  unfold taskPassed
  try dsimp only [-Nat.reducePow]
  repeat' first
    | with_reducible exact Steady.refl _
    | with_reducible refine (steady_mInst ..).after ?_

theorem sound_dropInst (i : Inst) (s : State) : Sound s (dropInst i s) := by
  unfold dropInst
  try dsimp only [-Nat.reducePow]
  repeat' first
    | with_reducible exact Sound.refl _
    | with_reducible refine (steady_mLed _ _).sound.after ?_
    | with_reducible refine (sound_tagClearOp ..).after ?_
    | with_reducible refine (sound_eachSlot _ _ _ ?_).after ?_
    | intro _

theorem sound_raiseAttempt (c : Nat) (e : Bool) (n : Nat) (s : State) : Sound s (raiseAttempt c e n s) := by
  unfold raiseAttempt
  try dsimp only [-Nat.reducePow]
  repeat' first
    | with_reducible exact Sound.refl _
    | with_reducible refine (steady_mStep ..).sound.after ?_
    | with_reducible refine (steady_mInst ..).sound.after ?_
    | with_reducible refine (sound_tagClearOp ..).after ?_
    | with_reducible refine (sound_eachSlot _ _ _ ?_).after ?_
    | with_reducible refine (sound_foldl _ ?_ _ _).after ?_
    | with_reducible refine (sound_foldl2 _ ?_ _ _).after ?_
    | intro _

theorem steady_mPlan (n : Nat) (f : Plan → Plan) (s : State) : Steady s (State.mPlan n f s) := by
  unfold State.mPlan
  try dsimp only [-Nat.reducePow]
  repeat' first
    | with_reducible exact Steady.refl _
    | with_reducible refine (steady_mLed _ _).after ?_

theorem steady_mLayerCounts (c : Nat) (e : Bool) (step : Nat) (f : LayerCounts → LayerCounts) (s : State) :
    Steady s (mLayerCounts c e step f s) := by
  unfold mLayerCounts
  try dsimp only [-Nat.reducePow]
  repeat' first
    | with_reducible exact Steady.refl _
    | with_reducible refine (steady_mPlan ..).after ?_
    | intro _
    | split

theorem steady_reportOrphans (c : Nat) (s : State) : Steady s (reportOrphans c s) := by
  unfold reportOrphans
  try dsimp only [-Nat.reducePow]
  repeat' first
    | with_reducible exact Steady.refl _
    | with_reducible refine (steady_mLed _ _).after ?_
    | with_reducible refine (steady_reportSelf ..).after ?_
    | with_reducible refine (steady_foldl _ ?_ _ _).after ?_
    | with_reducible refine (steady_foldl2 _ ?_ _ _).after ?_
    | intro _
    | split

theorem steady_dropEpoch (c : Nat) (e : Bool) (s : State) : Steady s (dropEpoch c e s) := by
  unfold dropEpoch
  try dsimp only [-Nat.reducePow]
  repeat' first
    | with_reducible exact Steady.refl _
    | with_reducible refine (steady_mLed _ _).after ?_
    | with_reducible refine (steady_mTwc _ _).after ?_
    | with_reducible refine (steady_mVu _ _).after ?_

theorem steady_moveBlock (src : Nat) (dst : Option Nat) (s : State) : Steady s (moveBlock src dst s) := by
  unfold moveBlock
  try dsimp only [-Nat.reducePow]
  repeat' first
    | with_reducible exact Steady.refl _
    | with_reducible refine (steady_mOb _ _).after ?_

theorem sound_giveUpPlan (c n : Nat) (p : Plan) (kill : Bool) (s : State) : Sound s (giveUpPlan c n p kill s) := by
  unfold giveUpPlan
  try dsimp only [-Nat.reducePow]
  repeat' first
    | with_reducible exact Sound.refl _
    | with_reducible refine (steady_mLed _ _).sound.after ?_
    | with_reducible refine (sound_startErasure ..).after ?_
    | with_reducible refine (steady_dropEpoch ..).sound.after ?_

theorem steady_unbind (c : Nat) (s : State) : Steady s (unbind c s) := by
  unfold unbind
  try dsimp only [-Nat.reducePow]
  repeat' first
    | with_reducible exact Steady.refl _
    | with_reducible refine (steady_mSec _ _ ?_).after ?_
    | intro _
    | with_reducible exact ⟨rfl, rfl, rfl, rfl, rfl⟩
    | split

theorem sound_flipEpoch (c : Nat) (w : Switch) (s : State) : Sound s (flipEpoch c w s) := by
  unfold flipEpoch
  try dsimp only [-Nat.reducePow]
  repeat' first
    | with_reducible exact Sound.refl _
    | with_reducible refine (steady_mLed _ _).sound.after ?_
    | with_reducible refine (steady_mCtx ..).sound.after ?_
    | with_reducible refine (steady_windowMoved ..).sound.after ?_
    | with_reducible refine (steady_fireAll ..).sound.after ?_
    | with_reducible refine (steady_moveBlock ..).sound.after ?_
    | with_reducible refine (sound_giveUpPlan ..).after ?_
    | with_reducible refine (steady_unbind ..).sound.after ?_
    | intro _
    | split

theorem sound_planEpochFlip (c : Nat) (s : State) : Sound s (planEpochFlip c s) := by
  unfold planEpochFlip
  try dsimp only [-Nat.reducePow]
  repeat' first
    | with_reducible exact Sound.refl _
    | with_reducible refine (sound_flipEpoch ..).after ?_
    | intro _
    | split

theorem steady_clusterReconfig (c k : Nat) (s : State) : Steady s (clusterReconfig c k s) := by
  unfold clusterReconfig
  try dsimp only [-Nat.reducePow]
  repeat' first
    | with_reducible exact Steady.refl _
    | with_reducible refine (steady_mLed _ _).after ?_
    | with_reducible refine (steady_bumpCtx ..).after ?_
    | with_reducible refine (steady_mCtx ..).after ?_
    | with_reducible refine (steady_mLane ..).after ?_
    | with_reducible refine (steady_mCluster ..).after ?_
    | with_reducible refine (steady_fireAll ..).after ?_
    | with_reducible refine (steady_foldl _ ?_ _ _).after ?_
    | with_reducible refine (steady_foldl2 _ ?_ _ _).after ?_
    | intro _
    | split

theorem steady_drainToDiscard (c : Nat) (s : State) : Steady s (drainToDiscard c s) := by
  unfold drainToDiscard
  try dsimp only [-Nat.reducePow]
  repeat' first
    | with_reducible exact Steady.refl _
    | with_reducible refine (steady_mCtx ..).after ?_
    | with_reducible refine (steady_reportOrphans ..).after ?_
    | intro _
    | split

theorem steady_planReply (port : Nat) (dst : Huid) (kind plan c code : Nat) (s : State) :
    Steady s (planReply port dst kind plan c code s) := by
  unfold planReply
  try dsimp only [-Nat.reducePow]
  repeat' first
    | with_reducible exact Steady.refl _
    | with_reducible refine (steady_send ..).after ?_

theorem steady_ledAdmit (code c plan table index : Nat) (s : State) : Steady s (ledAdmit code c plan table index s)
    := by
  unfold ledAdmit
  try dsimp only [-Nat.reducePow]
  repeat' first
    | with_reducible exact Steady.refl _
    | with_reducible refine (steady_mLed _ _).after ?_

theorem sound_dropStaging (s : State) : Sound s (dropStaging s) := by
  unfold dropStaging
  try dsimp only [-Nat.reducePow]
  repeat' first
    | with_reducible exact Sound.refl _
    | with_reducible refine (steady_mLed _ _).sound.after ?_
    | with_reducible refine (sound_freePages ..).after ?_
    | intro _
    | split

theorem sound_killPlans (c : Nat) (s : State) : Sound s (killPlans c s) := by
  unfold killPlans
  try dsimp only [-Nat.reducePow]
  repeat' first
    | with_reducible exact Sound.refl _
    | with_reducible refine (steady_mLed _ _).sound.after ?_
    | with_reducible refine (steady_mCtx ..).sound.after ?_
    | with_reducible refine (steady_reportOrphans ..).sound.after ?_
    | with_reducible refine (steady_moveBlock ..).sound.after ?_
    | with_reducible refine (sound_giveUpPlan ..).after ?_
    | with_reducible refine (sound_dropStaging ..).after ?_
    | intro _
    | split

/-! ### Plans -/

theorem steady_ingress (kind : Nat) (sub : Option Nat) (p : Ingress) (f : State → State) (s : State)
    (hf : ∀ s, Steady s (f s)) :
    Steady s (ingress kind sub p f s) := by
  unfold ingress
  try dsimp only [-Nat.reducePow]
  repeat' first
    | with_reducible exact Steady.refl _
    | with_reducible refine (steady_badMsg ..).after ?_
    | with_reducible refine (hf ..).after ?_
    | intro _
    | split

theorem sound_ingress (kind : Nat) (sub : Option Nat) (p : Ingress) (f : State → State) (s : State)
    (hf : ∀ s, Sound s (f s)) :
    Sound s (ingress kind sub p f s) := by
  unfold ingress
  try dsimp only [-Nat.reducePow]
  repeat' first
    | with_reducible exact Sound.refl _
    | with_reducible refine (steady_badMsg ..).sound.after ?_
    | with_reducible refine (hf ..).after ?_
    | intro _
    | split

theorem steady_planPacket (sub : Nat) (p : Ingress) (f : State → State) (s : State) (hf : ∀ s, Steady s (f s)) :
    Steady s (planPacket sub p f s) := by
  unfold planPacket
  try dsimp only [-Nat.reducePow]
  repeat' first
    | with_reducible exact Steady.refl _
    | with_reducible refine (steady_bump ..).after ?_
    | with_reducible refine (steady_reportUnit ..).after ?_
    | with_reducible refine (steady_ingress _ _ _ _ _ ?_).after ?_
    | with_reducible refine (hf ..).after ?_
    | intro _
    | split

theorem sound_planPacket (sub : Nat) (p : Ingress) (f : State → State) (s : State) (hf : ∀ s, Sound s (f s)) :
    Sound s (planPacket sub p f s) := by
  unfold planPacket
  try dsimp only [-Nat.reducePow]
  repeat' first
    | with_reducible exact Sound.refl _
    | with_reducible refine (steady_bump ..).sound.after ?_
    | with_reducible refine (steady_reportUnit ..).sound.after ?_
    | with_reducible refine (sound_ingress _ _ _ _ _ ?_).after ?_
    | with_reducible refine (hf ..).after ?_
    | intro _
    | split

theorem sound_planOpen (p : Ingress) (s : State) : Sound s (planOpen p s) := by
  unfold planOpen
  try dsimp only [-Nat.reducePow]
  repeat' first
    | with_reducible exact Sound.refl _
    | with_reducible refine (steady_mLed _ _).sound.after ?_
    | with_reducible refine (sound_tagAllocOp ..).after ?_
    | with_reducible refine (steady_planReply ..).sound.after ?_
    | with_reducible refine (sound_foldl _ ?_ _ _).after ?_
    | with_reducible refine (sound_foldl2 _ ?_ _ _).after ?_
    | intro _
    | split

theorem sound_planWord (off : Nat) (v : Bytes) (s : State) : Sound s (planWord off v s) := by
  unfold planWord
  try dsimp only [-Nat.reducePow]
  repeat' first
    | with_reducible exact Sound.refl _
    | with_reducible refine (steady_mLed _ _).sound.after ?_
    | with_reducible refine (steady_bump ..).sound.after ?_
    | with_reducible refine (steady_bumpCtx ..).sound.after ?_
    | with_reducible refine (sound_loftWrite ..).after ?_
    | intro _
    | split

theorem sound_planData (p : Ingress) (s : State) : Sound s (planData p s) := by
  unfold planData
  try dsimp only [-Nat.reducePow]
  repeat' first
    | with_reducible exact Sound.refl _
    | with_reducible refine (sound_planWord ..).after ?_
    | with_reducible refine (sound_foldl _ ?_ _ _).after ?_
    | with_reducible refine (sound_foldl2 _ ?_ _ _).after ?_
    | intro _

theorem sound_openTimeout (s : State) : Sound s (openTimeout s) := by
  unfold openTimeout
  try dsimp only [-Nat.reducePow]
  repeat' first
    | with_reducible exact Sound.refl _
    | with_reducible refine (sound_dropStaging ..).after ?_
    | intro _
    | split

theorem steady_retireAnswer (p : Ingress) (c plan code : Nat) (s : State) : Steady s (retireAnswer p c plan code s)
    := by
  unfold retireAnswer
  try dsimp only [-Nat.reducePow]
  repeat' first
    | with_reducible exact Steady.refl _
    | with_reducible refine (steady_planReply ..).after ?_
    | with_reducible refine (steady_ledAdmit ..).after ?_

theorem steady_startRetire (c : Nat) (discard : Bool) (p : Ingress) (plan : Nat) (s : State) :
    Steady s (startRetire c discard p plan s) := by
  unfold startRetire
  try dsimp only [-Nat.reducePow]
  repeat' first
    | with_reducible exact Steady.refl _
    | with_reducible refine (steady_mCtx ..).after ?_
    | with_reducible refine (steady_reportOrphans ..).after ?_
    | with_reducible refine (steady_retireAnswer ..).after ?_
    | intro _
    | split

theorem sound_planRetire (p : Ingress) (s : State) : Sound s (planRetire p s) := by
  unfold planRetire
  try dsimp only [-Nat.reducePow]
  repeat' first
    | with_reducible exact Sound.refl _
    | with_reducible refine (steady_bump ..).sound.after ?_
    | with_reducible refine (sound_giveUpPlan ..).after ?_
    | with_reducible refine (steady_retireAnswer ..).sound.after ?_
    | with_reducible refine (steady_startRetire ..).sound.after ?_
    | intro _
    | split

theorem steady_sendKey (label : Huid) (id : Nat) (key : W128) (s : State) : Steady s (sendKey label id key s) := by
  unfold sendKey
  try dsimp only [-Nat.reducePow]
  repeat' first
    | with_reducible exact Steady.refl _
    | with_reducible refine (steady_sendCore ..).after ?_

theorem sound_rejectPlan (t : Staging) (code table index : Nat) (s : State) :
    Sound s (rejectPlan t code table index s) := by
  unfold rejectPlan
  try dsimp only [-Nat.reducePow]
  repeat' first
    | with_reducible exact Sound.refl _
    | with_reducible refine (steady_bumpCtx ..).sound.after ?_
    | with_reducible refine (steady_ringPush ..).sound.after ?_
    | with_reducible refine (steady_reportSelf ..).sound.after ?_
    | with_reducible refine (steady_planReply ..).sound.after ?_
    | with_reducible refine (steady_ledAdmit ..).sound.after ?_
    | with_reducible refine (sound_dropStaging ..).after ?_

theorem steady_admitCounters (p : Plan) (c : Nat) (s : State) : Steady s (admitCounters p c s) := by
  unfold admitCounters
  try dsimp only [-Nat.reducePow]
  repeat' first
    | with_reducible exact Steady.refl _
    | with_reducible refine (steady_bumpCtx ..).after ?_

theorem sound_admitPlan (t : Staging) (n : Nat) (p : Plan) (img : Bytes) (s : State) : Sound s (admitPlan t n p img
    s) := by
  unfold admitPlan
  try dsimp only [-Nat.reducePow]
  repeat' first
    | with_reducible exact Sound.refl _
    | with_reducible refine (steady_mLed _ _).sound.after ?_
    | with_reducible refine (steady_ringPush ..).sound.after ?_
    | with_reducible refine (steady_mCtx ..).sound.after ?_
    | with_reducible refine (sound_tagAllocOp ..).after ?_
    | with_reducible refine (sound_eachSlot _ _ _ ?_).after ?_
    | with_reducible refine (steady_requestDomain ..).sound.after ?_
    | with_reducible refine (steady_reportOrphans ..).sound.after ?_
    | with_reducible refine (steady_moveBlock ..).sound.after ?_
    | with_reducible refine (steady_unbind ..).sound.after ?_
    | with_reducible refine (steady_planReply ..).sound.after ?_
    | with_reducible refine (steady_ledAdmit ..).sound.after ?_
    | with_reducible refine (steady_sendKey ..).sound.after ?_
    | with_reducible refine (steady_admitCounters ..).sound.after ?_
    | with_reducible refine (sound_foldl _ ?_ _ _).after ?_
    | with_reducible refine (sound_foldl2 _ ?_ _ _).after ?_
    | intro _
    | split

theorem sound_admission (s : State) : Sound s (admission s) := by
  unfold admission
  try dsimp only [-Nat.reducePow]
  repeat' first
    | with_reducible exact Sound.refl _
    | with_reducible refine (steady_requestDomain ..).sound.after ?_
    | with_reducible refine (sound_rejectPlan ..).after ?_
    | with_reducible refine (sound_admitPlan ..).after ?_
    | with_reducible refine (sound_foldl _ ?_ _ _).after ?_
    | with_reducible refine (sound_foldl2 _ ?_ _ _).after ?_
    | intro _
    | split

/-! ### Capture -/

theorem steady_steer (r : SteerSay) (c : Nat) (src : Huid) (f : Plan → Nat → State → State) (s : State)
    (hf : ∀ a0 a1 s, Steady s (f a0 a1 s)) :
    Steady s (steer r c src f s) := by
  unfold steer
  try dsimp only [-Nat.reducePow]
  repeat' first
    | with_reducible exact Steady.refl _
    | with_reducible refine (steady_bumpCtx ..).after ?_
    | with_reducible refine (steady_haltWith ..).after ?_
    | with_reducible refine (hf ..).after ?_
    | intro _
    | split

theorem sound_steer (r : SteerSay) (c : Nat) (src : Huid) (f : Plan → Nat → State → State) (s : State)
    (hf : ∀ a0 a1 s, Sound s (f a0 a1 s)) :
    Sound s (steer r c src f s) := by
  unfold steer
  try dsimp only [-Nat.reducePow]
  repeat' first
    | with_reducible exact Sound.refl _
    | with_reducible refine (steady_bumpCtx ..).sound.after ?_
    | with_reducible refine (steady_haltWith ..).sound.after ?_
    | with_reducible refine (hf ..).after ?_
    | intro _
    | split

theorem sound_bindSlots (c : Nat) (e : Bool) (n : Nat) (p : Plan) (t : TaskE) (s : State) :
    Sound s (bindSlots c e n p t s) := by
  unfold bindSlots
  try dsimp only [-Nat.reducePow]
  repeat' first
    | with_reducible exact Sound.refl _
    | with_reducible refine (sound_tagBindOp ..).after ?_
    | with_reducible refine (sound_eachSlot _ _ _ ?_).after ?_
    | intro _

theorem sound_needInst (c : Nat) (e : Bool) (n task : Nat) (p : Plan) (s : State) : Sound s (needInst c e n task p
    s) := by
  unfold needInst
  try dsimp only [-Nat.reducePow]
  repeat' first
    | with_reducible exact Sound.refl _
    | with_reducible refine (steady_mLed _ _).sound.after ?_
    | with_reducible refine (steady_noteStep ..).sound.after ?_
    | with_reducible refine (sound_bindSlots ..).after ?_
    | intro _
    | split

theorem steady_mGroup (c : Nat) (e : Bool) (n task input : Nat) (f : Group → Group) (s : State) :
    Steady s (State.mGroup c e n task input f s) := by
  unfold State.mGroup
  try dsimp only [-Nat.reducePow]
  repeat' first
    | with_reducible exact Steady.refl _
    | with_reducible refine (steady_mInst ..).after ?_

theorem sound_capWrite (slot off : Nat) (b : Bytes) (s : State) : Sound s (capWrite slot off b s) := by
  unfold capWrite
  try dsimp only [-Nat.reducePow]
  repeat' first
    | with_reducible exact Sound.refl _
    | with_reducible refine (steady_lateWrite ..).sound.after ?_
    | with_reducible refine (sound_loftWrite ..).after ?_
    | intro _
    | split

theorem steady_slotOverrun (c : Nat) (src : Huid) (s : State) : Steady s (slotOverrun c src s) := by
  unfold slotOverrun
  try dsimp only [-Nat.reducePow]
  repeat' first
    | with_reducible exact Steady.refl _
    | with_reducible refine (steady_reportUnit ..).after ?_

theorem steady_sendXdigest (c : Nat) (e : Bool) (n task : Nat) (p : Plan) (s : State) :
    Steady s (sendXdigest c e n task p s) := by
  unfold sendXdigest
  try dsimp only [-Nat.reducePow]
  repeat' first
    | with_reducible exact Steady.refl _
    | with_reducible refine (steady_bumpCtx ..).after ?_
    | with_reducible refine (steady_hxSend ..).after ?_

theorem sound_setGroupFull (c : Nat) (e : Bool) (n task input : Nat) (p : Plan) (s : State) :
    Sound s (setGroupFull c e n task input p s) := by
  unfold setGroupFull
  try dsimp only [-Nat.reducePow]
  repeat' first
    | with_reducible exact Sound.refl _
    | with_reducible refine (sound_tagFullOp ..).after ?_
    | with_reducible refine (sound_eachSlot _ _ _ ?_).after ?_
    | with_reducible refine (steady_tryFire ..).sound.after ?_
    | with_reducible refine (steady_mGroup ..).sound.after ?_
    | with_reducible refine (steady_sendXdigest ..).sound.after ?_
    | intro _
    | split

theorem sound_addDigest (c : Nat) (e : Bool) (n task input : Nat) (p : Plan) (src : Huid) (value elems : Nat) (s :
    State) :
    Sound s (addDigest c e n task input p src value elems s) := by
  unfold addDigest
  try dsimp only [-Nat.reducePow]
  repeat' first
    | with_reducible exact Sound.refl _
    | with_reducible refine (steady_mGroup ..).sound.after ?_
    | with_reducible refine (sound_capWrite ..).after ?_
    | with_reducible refine (steady_slotOverrun ..).sound.after ?_
    | with_reducible refine (sound_setGroupFull ..).after ?_
    | intro _
    | split

theorem sound_digestRecord (p : Ingress) (s : State) : Sound s (digestRecord p s) := by
  unfold digestRecord
  try dsimp only [-Nat.reducePow]
  repeat' first
    | with_reducible exact Sound.refl _
    | with_reducible refine (steady_haltWith ..).sound.after ?_
    | with_reducible refine (sound_steer _ _ _ _ _ ?_).after ?_
    | with_reducible refine (sound_needInst ..).after ?_
    | with_reducible refine (sound_addDigest ..).after ?_
    | intro _
    | split

theorem steady_recordPacket (kind : Nat) (p : Ingress) (f : State → State) (s : State) (hf : ∀ s, Steady s (f s)) :
    Steady s (recordPacket kind p f s) := by
  unfold recordPacket
  try dsimp only [-Nat.reducePow]
  repeat' first
    | with_reducible exact Steady.refl _
    | with_reducible refine (steady_bump ..).after ?_
    | with_reducible refine (steady_ingress _ _ _ _ _ ?_).after ?_
    | with_reducible refine (hf ..).after ?_
    | intro _
    | split

theorem sound_recordPacket (kind : Nat) (p : Ingress) (f : State → State) (s : State) (hf : ∀ s, Sound s (f s)) :
    Sound s (recordPacket kind p f s) := by
  unfold recordPacket
  try dsimp only [-Nat.reducePow]
  repeat' first
    | with_reducible exact Sound.refl _
    | with_reducible refine (steady_bump ..).sound.after ?_
    | with_reducible refine (sound_ingress _ _ _ _ _ ?_).after ?_
    | with_reducible refine (hf ..).after ?_
    | intro _
    | split

theorem steady_residueReport (kind c : Nat) (e : Bool) (n tile : Nat) (src : Huid) (s : State) :
    Steady s (residueReport kind c e n tile src s) := by
  unfold residueReport
  try dsimp only [-Nat.reducePow]
  repeat' first
    | with_reducible exact Steady.refl _
    | with_reducible refine (steady_markStep ..).after ?_
    | with_reducible refine (steady_reportUnit ..).after ?_

theorem sound_rawSettle (c : Nat) (e : Bool) (n task input : Nat) (p : Plan) (src : Huid) (s : State) :
    Sound s (rawSettle c e n task input p src s) := by
  unfold rawSettle
  try dsimp only [-Nat.reducePow]
  repeat' first
    | with_reducible exact Sound.refl _
    | with_reducible refine (steady_mGroup ..).sound.after ?_
    | with_reducible refine (sound_setGroupFull ..).after ?_
    | with_reducible refine (steady_residueReport ..).sound.after ?_
    | intro _
    | split

theorem sound_addRaw (c : Nat) (e : Bool) (n task input : Nat) (p : Plan) (src : Huid) (off : Nat) (data : Bytes)
    (token : Option Nat) (s : State) :
    Sound s (addRaw c e n task input p src off data token s) := by
  unfold addRaw
  try dsimp only [-Nat.reducePow]
  repeat' first
    | with_reducible exact Sound.refl _
    | with_reducible refine (steady_mGroup ..).sound.after ?_
    | with_reducible refine (sound_capWrite ..).after ?_
    | with_reducible refine (steady_slotOverrun ..).sound.after ?_
    | with_reducible refine (sound_rawSettle ..).after ?_
    | intro _
    | split

theorem sound_combineLpf (c : Nat) (e : Bool) (n task input : Nat) (p : Plan) (src : Huid) (b : Bytes) (s : State) :
    Sound s (combineLpf c e n task input p src b s) := by
  unfold combineLpf
  try dsimp only [-Nat.reducePow]
  repeat' first
    | with_reducible exact Sound.refl _
    | with_reducible refine (steady_haltWith ..).sound.after ?_
    | with_reducible refine (steady_mGroup ..).sound.after ?_
    | with_reducible refine (sound_capWrite ..).after ?_
    | with_reducible refine (sound_setGroupFull ..).after ?_
    | with_reducible refine (steady_residueReport ..).sound.after ?_
    | intro _
    | split

theorem sound_addLpf (c : Nat) (e : Bool) (n task input : Nat) (p : Plan) (src : Huid) (off : Nat) (data : Bytes)
    (token : Option Nat) (s : State) :
    Sound s (addLpf c e n task input p src off data token s) := by
  unfold addLpf
  try dsimp only [-Nat.reducePow]
  repeat' first
    | with_reducible exact Sound.refl _
    | with_reducible refine (steady_mGroup ..).sound.after ?_
    | with_reducible refine (steady_slotOverrun ..).sound.after ?_
    | with_reducible refine (sound_combineLpf ..).after ?_
    | intro _
    | split

theorem sound_dataRecord (pkt : Nat) (p : Ingress) (s : State) : Sound s (dataRecord pkt p s) := by
  unfold dataRecord
  try dsimp only [-Nat.reducePow]
  repeat' first
    | with_reducible exact Sound.refl _
    | with_reducible refine (steady_mLed _ _).sound.after ?_
    | with_reducible refine (steady_bumpCtx ..).sound.after ?_
    | with_reducible refine (sound_steer _ _ _ _ _ ?_).after ?_
    | with_reducible refine (sound_needInst ..).after ?_
    | with_reducible refine (sound_addRaw ..).after ?_
    | with_reducible refine (sound_addLpf ..).after ?_
    | intro _
    | split

theorem sound_resumeDeferred (s : State) : Sound s (resumeDeferred s) := by
  unfold resumeDeferred
  try dsimp only [-Nat.reducePow]
  repeat' first
    | with_reducible exact Sound.refl _
    | with_reducible refine (steady_mLed _ _).sound.after ?_
    | with_reducible refine (sound_dataRecord ..).after ?_
    | with_reducible refine (sound_foldl _ ?_ _ _).after ?_
    | with_reducible refine (sound_foldl2 _ ?_ _ _).after ?_
    | intro _
    | split

theorem steady_stepDone (p : Ingress) (s : State) : Steady s (stepDone p s) := by
  unfold stepDone
  try dsimp only [-Nat.reducePow]
  repeat' first
    | with_reducible exact Steady.refl _
    | with_reducible refine (steady_mStep ..).after ?_
    | with_reducible refine (steady_noteStep ..).after ?_
    | with_reducible refine (steady_steer _ _ _ _ _ ?_).after ?_
    | intro _

/-! ### Clock -/

theorem steady_tick (s : State) : Steady s (tick s) := by
  unfold tick
  split
  · exact Steady.refl _
  · exact ⟨by simp only [State.root], by simp only [State.sizes], by simp only [State.arrays]⟩

/-! ### HitchMap -/

theorem steady_computeStandby (s : State) : Steady s (computeStandby s) := by
  unfold computeStandby
  try dsimp only [-Nat.reducePow]
  repeat' first
    | with_reducible exact Steady.refl _
    | with_reducible refine (steady_mHx _ _ ?_).after ?_
    | with_reducible refine (steady_hxSend ..).after ?_
    | intro _
    | with_reducible exact ⟨rfl, rfl⟩

theorem steady_timeLost (s : State) : Steady s (timeLost s) := by
  unfold timeLost
  try dsimp only [-Nat.reducePow]
  repeat' first
    | with_reducible exact Steady.refl _
    | with_reducible refine (steady_mHx _ _ ?_).after ?_
    | with_reducible refine (steady_bump ..).after ?_
    | with_reducible refine (steady_reportSelf ..).after ?_
    | intro _
    | with_reducible exact ⟨rfl, rfl⟩
    | split

theorem steady_timeTree (s : State) : Steady s (timeTree s) := by
  unfold timeTree
  try dsimp only [-Nat.reducePow]
  repeat' first
    | with_reducible exact Steady.refl _
    | with_reducible refine (steady_mHx _ _ ?_).after ?_
    | with_reducible refine (steady_timeLost ..).after ?_
    | intro _
    | with_reducible exact ⟨rfl, rfl⟩
    | split

theorem steady_mBarrier (b : Nat) (f : Barrier → Barrier) (s : State) : Steady s (State.mBarrier b f s) := by
  unfold State.mBarrier
  exact (steady_stateChanged ..).after (steady_mHx _ _ ⟨rfl, List.length_modify ..⟩)

theorem steady_sendArrive (b : Nat) (s : State) : Steady s (sendArrive b s) := by
  unfold sendArrive
  try dsimp only [-Nat.reducePow]
  repeat' first
    | with_reducible exact Steady.refl _
    | with_reducible refine (steady_hxSend ..).after ?_

theorem steady_barrierArrive (b : Nat) (mask : W64) (s : State) : Steady s (barrierArrive b mask s) := by
  unfold barrierArrive
  try dsimp only [-Nat.reducePow]
  repeat' first
    | with_reducible exact Steady.refl _
    | with_reducible refine (steady_mHx _ _ ?_).after ?_
    | with_reducible refine (steady_mBarrier ..).after ?_
    | with_reducible refine (steady_sendArrive ..).after ?_
    | intro _
    | with_reducible exact ⟨rfl, rfl⟩

theorem steady_mapChanged (old : List (Nat × Bool × Bool)) (coord : Nat) (s : State) :
    Steady s (mapChanged old coord s) := by
  unfold mapChanged
  try dsimp only [-Nat.reducePow]
  repeat' first
    | with_reducible exact Steady.refl _
    | with_reducible refine (steady_mHx _ _ ?_).after ?_
    | with_reducible refine (steady_computeStandby ..).after ?_
    | with_reducible refine (steady_timeTree ..).after ?_
    | with_reducible refine (steady_sendArrive ..).after ?_
    | with_reducible refine (steady_foldl _ ?_ _ _).after ?_
    | with_reducible refine (steady_foldl2 _ ?_ _ _).after ?_
    | intro _
    | with_reducible exact ⟨rfl, rfl⟩
    | split

theorem steady_sendState (s : State) : Steady s (sendState s) := by
  unfold sendState
  try dsimp only [-Nat.reducePow]
  repeat' first
    | with_reducible exact Steady.refl _
    | with_reducible refine (steady_mHx _ _ ?_).after ?_
    | with_reducible refine (steady_hxMulticast ..).after ?_
    | intro _
    | with_reducible exact ⟨rfl, rfl⟩
    | split

theorem steady_stateChange (s : State) : Steady s (stateChange s) := by
  unfold stateChange
  try dsimp only [-Nat.reducePow]
  repeat' first
    | with_reducible exact Steady.refl _
    | with_reducible refine (steady_mHx _ _ ?_).after ?_
    | with_reducible refine (steady_mapChanged ..).after ?_
    | with_reducible refine (steady_sendState ..).after ?_
    | intro _
    | with_reducible exact ⟨rfl, rfl⟩
    | split

/-! ### Hrp -/

theorem steady_answer (status : Nat) (rdata : W64) (s : State) : Steady s (answer status rdata s) := by
  unfold answer
  try dsimp only [-Nat.reducePow]
  repeat' first
    | with_reducible exact Steady.refl _
    | with_reducible refine (steady_mPorts _ _ ?_).after ?_
    | with_reducible refine (steady_mHx _ _ ?_).after ?_
    | with_reducible refine (steady_stateChange ..).after ?_
    | intro _
    | with_reducible exact ⟨rfl, rfl, rfl, rfl, rfl⟩
    | with_reducible exact ⟨rfl, rfl⟩
    | split

theorem steady_secReport (kind : Nat) (s : State) : Steady s (secReport kind s) := by
  unfold secReport
  try dsimp only [-Nat.reducePow]
  repeat' first
    | with_reducible exact Steady.refl _
    | with_reducible refine (steady_reportSelf ..).after ?_

theorem steady_denied (priv : BitVec 2) (s : State) : Steady s (denied priv s) := by
  unfold denied
  try dsimp only [-Nat.reducePow]
  repeat' first
    | with_reducible exact Steady.refl _
    | with_reducible refine (steady_mSec _ _ ?_).after ?_
    | with_reducible refine (steady_bump ..).after ?_
    | with_reducible refine (steady_answer ..).after ?_
    | with_reducible refine (steady_secReport ..).after ?_
    | intro _
    | with_reducible exact ⟨rfl, rfl, rfl, rfl, rfl⟩
    | split

theorem steady_hrp (f : State → State) (s : State) (hf : ∀ s, Steady s (f s)) : Steady s (hrp f s) := by
  unfold hrp
  try dsimp only [-Nat.reducePow]
  repeat' first
    | with_reducible exact Steady.refl _
    | with_reducible refine (hf ..).after ?_
    | intro _
    | split

theorem sound_hrp (f : State → State) (s : State) (hf : ∀ s, Sound s (f s)) : Sound s (hrp f s) := by
  unfold hrp
  try dsimp only [-Nat.reducePow]
  repeat' first
    | with_reducible exact Sound.refl _
    | with_reducible refine (hf ..).after ?_
    | intro _
    | split

theorem steady_operatorWrite (priv : BitVec 2) (f : State → State) (s : State) (hf : ∀ s, Steady s (f s)) :
    Steady s (operatorWrite priv f s) := by
  unfold operatorWrite
  try dsimp only [-Nat.reducePow]
  repeat' first
    | with_reducible exact Steady.refl _
    | with_reducible refine (steady_answer ..).after ?_
    | with_reducible refine (steady_denied ..).after ?_
    | with_reducible refine (steady_hrp _ _ ?_).after ?_
    | with_reducible refine (hf ..).after ?_
    | intro _
    | split

theorem sound_operatorWrite (priv : BitVec 2) (f : State → State) (s : State) (hf : ∀ s, Sound s (f s)) :
    Sound s (operatorWrite priv f s) := by
  unfold operatorWrite
  try dsimp only [-Nat.reducePow]
  repeat' first
    | with_reducible exact Sound.refl _
    | with_reducible refine (steady_answer ..).sound.after ?_
    | with_reducible refine (steady_denied ..).sound.after ?_
    | with_reducible refine (sound_hrp _ _ ?_).after ?_
    | with_reducible refine (hf ..).after ?_
    | intro _
    | split

/-! ### Snapshot -/

theorem steady_snapNow (s : State) : Steady s (snapNow s) := by
  unfold snapNow
  try dsimp only [-Nat.reducePow]
  repeat' first
    | with_reducible exact Steady.refl _
    | with_reducible refine (steady_mOb _ _).after ?_
    | with_reducible refine (steady_bump ..).after ?_
    | with_reducible refine (steady_ringPush ..).after ?_

theorem steady_mDump (f : Ob → Ob) (s : State) : Steady s (State.mDump f s) := by
  unfold State.mDump
  try dsimp only [-Nat.reducePow]
  repeat' first
    | with_reducible exact Steady.refl _
    | with_reducible refine (steady_mOb _ _).after ?_
    | with_reducible refine (steady_stateChanged ..).after ?_

theorem steady_dumpStart (s : State) : Steady s (dumpStart s) := by
  unfold dumpStart
  try dsimp only [-Nat.reducePow]
  repeat' first
    | with_reducible exact Steady.refl _
    | with_reducible refine (steady_bump ..).after ?_
    | with_reducible refine (steady_snapNow ..).after ?_
    | with_reducible refine (steady_mDump ..).after ?_
    | intro _
    | split

theorem steady_dumpAbort (s : State) : Steady s (dumpAbort s) := by
  unfold dumpAbort
  try dsimp only [-Nat.reducePow]
  repeat' first
    | with_reducible exact Steady.refl _
    | with_reducible refine (steady_reportSelf ..).after ?_
    | with_reducible refine (steady_mDump ..).after ?_
    | intro _
    | split

theorem steady_locusRecord (m loc : W128) (cls level : Nat) (time : Nat) (s : State) :
    Steady s (locusRecord m loc cls level time s) := by
  unfold locusRecord
  try dsimp only [-Nat.reducePow]
  repeat' first
    | with_reducible exact Steady.refl _
    | with_reducible refine (steady_bump ..).after ?_
    | with_reducible refine (steady_tackWrite ..).after ?_
    | intro _
    | split

/-! ### Paddock -/

theorem steady_sbPaddock (h : Huid) (st : PadSt) (reason : Nat) (s : State) : Steady s (sbPaddock h st reason s) := by
  unfold sbPaddock
  try dsimp only [-Nat.reducePow]
  repeat' first
    | with_reducible exact Steady.refl _
    | with_reducible refine (steady_sbWrite ..).after ?_

theorem steady_setPad (h : Huid) (st : PadSt) (reason : Nat) (s : State) : Steady s (setPad h st reason s) := by
  unfold setPad
  try dsimp only [-Nat.reducePow]
  repeat' first
    | with_reducible exact Steady.refl _
    | with_reducible refine (steady_stateEvent ..).after ?_
    | with_reducible refine (steady_mPad ..).after ?_
    | with_reducible refine (steady_sbPaddock ..).after ?_
    | intro _
    | split

theorem steady_noSpare (l h : Huid) (s : State) : Steady s (noSpare l h s) := by
  unfold noSpare
  try dsimp only [-Nat.reducePow]
  repeat' first
    | with_reducible exact Steady.refl _
    | with_reducible refine (steady_reportUnit ..).after ?_
    | with_reducible refine (steady_haltQuiet ..).after ?_
    | with_reducible refine (steady_foldl _ ?_ _ _).after ?_
    | with_reducible refine (steady_foldl2 _ ?_ _ _).after ?_
    | intro _

theorem steady_remapFenced (h : Huid) (s : State) : Steady s (remapFenced h s) := by
  unfold remapFenced
  try dsimp only [-Nat.reducePow]
  repeat' first
    | with_reducible exact Steady.refl _
    | with_reducible refine (steady_mYm _ _).after ?_
    | with_reducible refine (steady_remapLabel (by assumption)).after ?_
    | with_reducible refine (steady_noSpare ..).after ?_
    | intro _
    | split

theorem steady_startFence (h : Huid) (s : State) : Steady s (startFence h s) := by
  unfold startFence
  try dsimp only [-Nat.reducePow]
  repeat' first
    | with_reducible exact Steady.refl _
    | with_reducible refine (steady_mYm _ _).after ?_
    | with_reducible refine (steady_fenceOrder ..).after ?_
    | with_reducible refine (steady_remapFenced ..).after ?_
    | intro _
    | split

theorem steady_enterFenced (h : Huid) (st : PadSt) (reason : Nat) (s : State) : Steady s (enterFenced h st reason s)
    := by
  unfold enterFenced
  try dsimp only [-Nat.reducePow]
  repeat' first
    | with_reducible exact Steady.refl _
    | with_reducible refine (steady_setPad ..).after ?_
    | with_reducible refine (steady_startFence ..).after ?_
    | intro _
    | split

theorem steady_reinstate (h : Huid) (reason : Nat) (s : State) : Steady s (reinstate h reason s) := by
  unfold reinstate
  try dsimp only [-Nat.reducePow]
  repeat' first
    | with_reducible exact Steady.refl _
    | with_reducible refine (steady_unfenceOrder ..).after ?_
    | with_reducible refine (steady_setPad ..).after ?_

theorem steady_sdcEvent (h : Huid) (eligible : Bool) (s : State) : Steady s (sdcEvent h eligible s).2 := by
  unfold sdcEvent
  try dsimp only [-Nat.reducePow]
  repeat' first
    | with_reducible exact Steady.refl _
    | with_reducible refine (steady_mPad ..).after ?_
    | with_reducible refine (steady_enterFenced ..).after ?_
    | intro _
    | split

theorem steady_testEvent (h : Huid) (reason : Nat) (s : State) : Steady s (testEvent h reason s) := by
  unfold testEvent
  try dsimp only [-Nat.reducePow]
  repeat' first
    | with_reducible exact Steady.refl _
    | with_reducible refine (steady_enterFenced ..).after ?_
    | intro _
    | split

theorem steady_testFailed (h : Huid) (source : Nat) (s : State) : Steady s (testFailed h source s) := by
  unfold testFailed
  try dsimp only [-Nat.reducePow]
  repeat' first
    | with_reducible exact Steady.refl _
    | with_reducible refine (steady_reportUnit ..).after ?_
    | with_reducible refine (steady_sbDefect ..).after ?_
    | with_reducible refine (steady_testEvent ..).after ?_

theorem steady_cleanTest (h : Huid) (s : State) : Steady s (cleanTest h s) := by
  unfold cleanTest
  try dsimp only [-Nat.reducePow]
  repeat' first
    | with_reducible exact Steady.refl _
    | with_reducible refine (steady_bump ..).after ?_
    | with_reducible refine (steady_mPad ..).after ?_
    | with_reducible refine (steady_reinstate ..).after ?_
    | intro _
    | split

/-! ### Steps -/

theorem steady_fireHeldRelease (lane : Nat) (s : State) : Steady s (fireHeldRelease lane s) := by
  unfold fireHeldRelease
  try dsimp only [-Nat.reducePow]
  repeat' first
    | with_reducible exact Steady.refl _
    | with_reducible refine (steady_mLed _ _).after ?_
    | with_reducible refine (steady_mLane ..).after ?_
    | intro _
    | split

theorem steady_resGraceExpiry (c : Nat) (e : Bool) (step32 : Nat) (s : State) : Steady s (resGraceExpiry c e step32
    s) := by
  unfold resGraceExpiry
  try dsimp only [-Nat.reducePow]
  repeat' first
    | with_reducible exact Steady.refl _
    | with_reducible refine (steady_mStep ..).after ?_
    | with_reducible refine steady_withStep ?_ ?_
    | intro _
    | split

theorem sound_abandonXtest (i : Inst) (s : State) : Sound s (abandonXtest i s) := by
  unfold abandonXtest
  try dsimp only [-Nat.reducePow]
  repeat' first
    | with_reducible exact Sound.refl _
    | with_reducible refine (steady_bumpCtx ..).sound.after ?_
    | with_reducible refine (sound_dropInst ..).after ?_
    | intro _
    | split

theorem steady_dropXhold (c : Nat) (e : Bool) (n : Nat) (s : State) : Steady s (dropXhold c e n s) := by
  unfold dropXhold
  try dsimp only [-Nat.reducePow]
  repeat' first
    | with_reducible exact Steady.refl _
    | with_reducible refine (steady_mTwc _ _).after ?_

theorem sound_doRelease (c : Nat) (p : Plan) (n : Nat) (s : State) : Sound s (doRelease c p n s) := by
  unfold doRelease
  try dsimp only [-Nat.reducePow]
  repeat' first
    | with_reducible exact Sound.refl _
    | with_reducible refine (steady_mLed _ _).sound.after ?_
    | with_reducible refine (steady_bumpCtx ..).sound.after ?_
    | with_reducible refine (steady_traceStep ..).sound.after ?_
    | with_reducible refine (steady_mCtx ..).sound.after ?_
    | with_reducible refine (steady_sendCore ..).sound.after ?_
    | with_reducible refine (steady_windowMoved ..).sound.after ?_
    | with_reducible refine (sound_dropInst ..).after ?_
    | with_reducible refine (steady_mPlan ..).sound.after ?_
    | with_reducible refine (steady_mLayerCounts ..).sound.after ?_
    | with_reducible refine (sound_resumeDeferred ..).after ?_
    | with_reducible refine (sound_abandonXtest ..).after ?_
    | with_reducible refine (steady_dropXhold ..).sound.after ?_
    | with_reducible refine (sound_foldl _ ?_ _ _).after ?_
    | with_reducible refine (sound_foldl2 _ ?_ _ _).after ?_
    | intro _
    | split

theorem sound_release (c : Nat) (s : State) : Sound s (release c s) := by
  unfold release
  try dsimp only [-Nat.reducePow]
  repeat' first
    | with_reducible exact Sound.refl _
    | with_reducible refine (sound_doRelease ..).after ?_
    | intro _
    | split

theorem steady_stepTimeout (c : Nat) (e : Bool) (step32 : Nat) (s : State) : Steady s (stepTimeout c e step32 s) := by
  unfold stepTimeout
  try dsimp only [-Nat.reducePow]
  repeat' first
    | with_reducible exact Steady.refl _
    | with_reducible refine (steady_mStep ..).after ?_
    | with_reducible refine (steady_openDispute ..).after ?_
    | with_reducible refine (steady_reportCores ..).after ?_
    | with_reducible refine (steady_startChains ..).after ?_
    | with_reducible refine (steady_drainToDiscard ..).after ?_
    | with_reducible refine (steady_dropXhold ..).after ?_
    | with_reducible refine steady_withStep ?_ ?_
    | intro _
    | split

/-! ### Engines -/

theorem steady_voidTask (p : Plan) (t : Token) (s : State) : Steady s (voidTask p t s) := by
  unfold voidTask
  try dsimp only [-Nat.reducePow]
  repeat' first
    | with_reducible exact Steady.refl _
    | with_reducible refine (steady_loftUe ..).after ?_

theorem steady_fencePaths (a b : Bool) (s : State) : Steady s (fencePaths a b s) := by
  unfold fencePaths
  try dsimp only [-Nat.reducePow]
  repeat' first
    | with_reducible exact Steady.refl _
    | with_reducible refine (steady_mTwc _ _).after ?_
    | with_reducible refine (steady_reportSelf ..).after ?_
    | intro _
    | split

theorem steady_twcKat (passA passB : Bool) (s : State) : Steady s (twcKat passA passB s) := by
  unfold twcKat
  try dsimp only [-Nat.reducePow]
  repeat' first
    | with_reducible exact Steady.refl _
    | with_reducible refine (steady_reportSelf ..).after ?_
    | with_reducible refine (steady_fencePaths ..).after ?_
    | intro _
    | split

theorem steady_fencePipe (k : Nat) (s : State) : Steady s (fencePipe k s) := by
  unfold fencePipe
  try dsimp only [-Nat.reducePow]
  repeat' first
    | with_reducible exact Steady.refl _
    | with_reducible refine (steady_mPer _ _).after ?_
    | with_reducible refine (steady_reportSelf ..).after ?_
    | with_reducible refine (steady_sbDefect ..).after ?_
    | intro _
    | split

theorem steady_pipeKat (k : Nat) (pass : Bool) (s : State) : Steady s (pipeKat k pass s) := by
  unfold pipeKat
  try dsimp only [-Nat.reducePow]
  repeat' first
    | with_reducible exact Steady.refl _
    | with_reducible refine (steady_mPer _ _).after ?_
    | with_reducible refine (steady_bump ..).after ?_
    | with_reducible refine (steady_reportSelf ..).after ?_
    | with_reducible refine (steady_fencePipe ..).after ?_
    | intro _
    | split

theorem steady_rehome (l : Nat) (toks : List Token) (s : State) : Steady s (rehome l toks s) := by
  unfold rehome
  refine steady_foldl _ (fun s t => ?_) _ _
  split
  · exact Steady.refl _
  · split
    · exact (steady_laneEnqueue ..).after ((steady_bumpCtx ..).after (Steady.of_pair (steady_takeLane ..) (by
      assumption)))
    · exact (steady_noLane ..).after (Steady.of_pair (steady_takeLane ..) (by assumption))

theorem steady_fenceLane (l : Nat) (s : State) : Steady s (fenceLane l s) := by
  unfold fenceLane
  dsimp only
  split
  · exact Steady.refl _
  refine (steady_rehome ..).after ?_
  repeat' first
    | with_reducible exact Steady.refl _
    | with_reducible refine (steady_mLane ..).after ?_
    | with_reducible refine (steady_bumpCtx ..).after ?_
    | with_reducible refine (steady_noLane ..).after ?_
    | with_reducible refine (Steady.of_pair (steady_takeLane ..) (by assumption)).after ?_
    | with_reducible refine (steady_reportSelf ..).after ?_
    | with_reducible refine (steady_sbDefect ..).after ?_
    | with_reducible refine (steady_mLed ..).after ?_
    | split

theorem steady_laneKat (l : Nat) (pass : Bool) (s : State) : Steady s (laneKat l pass s) := by
  unfold laneKat
  try dsimp only [-Nat.reducePow]
  repeat' first
    | with_reducible exact Steady.refl _
    | with_reducible refine (steady_bump ..).after ?_
    | with_reducible refine (steady_report ..).after ?_
    | with_reducible refine (steady_mLane ..).after ?_
    | with_reducible refine (steady_mCluster ..).after ?_
    | with_reducible refine (steady_fenceLane ..).after ?_
    | intro _
    | split

end Sys2Proof.Machine
end

