-- ==== Sys2Proof/Laws/Keeps3.lean ====
section
/-!
SUPPORT. What the operations of these files of the machine leave alone: Xdie, Verdict, Distil, Procedure, Testing,
MusterOps, Yard.
-/
namespace Sys2Proof.Machine

/-! ### Xdie -/

theorem steady_consume (p : HxPkt) (s : State) : Steady s (consume p s) := by
  unfold consume
  try dsimp only [-Nat.reducePow]
  repeat' first
    | with_reducible exact Steady.refl _
    | with_reducible refine (steady_mHx _ _ ?_).after ?_
    | intro _
    | with_reducible exact ⟨rfl, rfl⟩

theorem steady_xdieBind (x : XDig) (own : Nat) (s : State) : Steady s (xdieBind x own s) := by
  unfold xdieBind
  try dsimp only [-Nat.reducePow]
  repeat' first
    | with_reducible exact Steady.refl _
    | with_reducible refine (steady_reportSelf ..).after ?_
    | with_reducible refine (steady_haltQuiet ..).after ?_

theorem steady_xhold (p : HxPkt) (c : Nat) (s : State) : Steady s (xhold p c s) := by
  unfold xhold
  try dsimp only [-Nat.reducePow]
  repeat' first
    | with_reducible exact Steady.refl _
    | with_reducible refine (steady_mTwc _ _).after ?_
    | with_reducible refine (steady_bumpCtx ..).after ?_
    | intro _
    | split

theorem sound_xdigestTake (x : XDig) (p : Plan) (n : Nat) (s : State) : Sound s (xdigestTake x p n s) := by
  unfold xdigestTake
  try dsimp only [-Nat.reducePow]
  repeat' first
    | with_reducible exact Sound.refl _
    | with_reducible refine (steady_bumpCtx ..).sound.after ?_
    | with_reducible refine (sound_needInst ..).after ?_
    | with_reducible refine (sound_addDigest ..).after ?_
    | with_reducible refine (steady_xdieBind ..).sound.after ?_
    | intro _
    | split

theorem sound_xdigestSteer (p : HxPkt) (s : State) : Sound s (xdigestSteer p s) := by
  unfold xdigestSteer
  try dsimp only [-Nat.reducePow]
  repeat' first
    | with_reducible exact Sound.refl _
    | with_reducible refine (steady_bumpCtx ..).sound.after ?_
    | with_reducible refine (steady_xhold ..).sound.after ?_
    | with_reducible refine (sound_xdigestTake ..).after ?_
    | intro _
    | split

theorem sound_xholdSteer (c : Nat) (e : Bool) (n : Nat) (s : State) : Sound s (xholdSteer c e n s) := by
  unfold xholdSteer
  try dsimp only [-Nat.reducePow]
  repeat' first
    | with_reducible exact Sound.refl _
    | with_reducible refine (steady_mTwc _ _).sound.after ?_
    | with_reducible refine (sound_xdigestSteer ..).after ?_
    | with_reducible refine (sound_foldl _ ?_ _ _).after ?_
    | with_reducible refine (sound_foldl2 _ ?_ _ _).after ?_
    | intro _

/-! ### Verdict -/

theorem steady_mProc (d : Dispute) (f : Proc → Proc) (s : State) : Steady s (State.mProc d f s) := by
  unfold State.mProc
  try dsimp only [-Nat.reducePow]
  repeat' first
    | with_reducible exact Steady.refl _
    | with_reducible refine (steady_mVu _ _).after ?_

theorem steady_endProc (d : Dispute) (s : State) : Steady s (endProc d s) := by
  unfold endProc
  try dsimp only [-Nat.reducePow]
  repeat' first
    | with_reducible exact Steady.refl _
    | with_reducible refine (steady_mVu _ _).after ?_

theorem steady_nextReq (s : State) : Steady s (nextReq s).2 := by
  unfold nextReq
  try dsimp only [-Nat.reducePow]
  repeat' first
    | with_reducible exact Steady.refl _
    | with_reducible refine (steady_mVu _ _).after ?_

theorem steady_sendSettle (sub c header elem : Nat) (partner : Huid) (payload : Bytes) (l : Huid) (s : State) :
    Steady s (sendSettle sub c header elem partner payload l s) := by
  unfold sendSettle
  try dsimp only [-Nat.reducePow]
  repeat' first
    | with_reducible exact Steady.refl _
    | with_reducible refine (steady_bumpCtx ..).after ?_
    | with_reducible refine (steady_sendCore ..).after ?_

theorem steady_askRound (d : Dispute) (ph : Phase) (sub lo width : Nat) (partner : Huid) (labels : List Huid) (s :
    State) :
    Steady s (askRound d ph sub lo width partner labels s) := by
  unfold askRound
  try dsimp only [-Nat.reducePow]
  repeat' first
    | with_reducible exact Steady.refl _
    | with_reducible refine (steady_mProc ..).after ?_
    | with_reducible refine (steady_nextReq ..).after ?_
    | with_reducible refine (steady_sendSettle ..).after ?_
    | with_reducible refine (steady_foldl _ ?_ _ _).after ?_
    | with_reducible refine (steady_foldl2 _ ?_ _ _).after ?_
    | intro _

theorem steady_recordVerdict (d : Dispute) (v : Nat) (named : Option (Nat × Huid)) (e : Nat) (s : State) :
    Steady s (recordVerdict d v named e s) := by
  unfold recordVerdict
  try dsimp only [-Nat.reducePow]
  repeat' first
    | with_reducible exact Steady.refl _
    | with_reducible refine (steady_mVu _ _).after ?_
    | with_reducible refine (steady_bumpCtx ..).after ?_
    | with_reducible refine (steady_tackWrite ..).after ?_
    | with_reducible refine (steady_ringPush ..).after ?_
    | with_reducible refine (steady_mLayerCounts ..).after ?_

theorem steady_reportVerdict (d : Dispute) (v : Nat) (named : Option (Nat × Huid)) (s : State) :
    Steady s (reportVerdict d v named s) := by
  unfold reportVerdict
  try dsimp only [-Nat.reducePow]
  repeat' first
    | with_reducible exact Steady.refl _
    | with_reducible refine (steady_reportUnit ..).after ?_
    | with_reducible refine (steady_reportCores ..).after ?_
    | intro _
    | split

theorem steady_tellPeer (d : Dispute) (v : Nat) (named : Option (Nat × Huid)) (e : Nat) (s : State) :
    Steady s (tellPeer d v named e s) := by
  unfold tellPeer
  try dsimp only [-Nat.reducePow]
  repeat' first
    | with_reducible exact Steady.refl _
    | with_reducible refine (steady_mVu _ _).after ?_
    | with_reducible refine (steady_hxSend ..).after ?_
    | intro _
    | split

theorem steady_conclude (d : Dispute) (v : Nat) (named : Option (Nat × Huid)) (e : Nat) (s : State) :
    Steady s (conclude d v named e s) := by
  unfold conclude
  try dsimp only [-Nat.reducePow]
  repeat' first
    | with_reducible exact Steady.refl _
    | with_reducible refine (steady_endProc ..).after ?_
    | with_reducible refine (steady_recordVerdict ..).after ?_
    | with_reducible refine (steady_reportVerdict ..).after ?_
    | with_reducible refine (steady_tellPeer ..).after ?_

theorem steady_haltUnresolved (d : Dispute) (s : State) : Steady s (haltUnresolved d s) := by
  unfold haltUnresolved
  try dsimp only [-Nat.reducePow]
  repeat' first
    | with_reducible exact Steady.refl _
    | with_reducible refine (steady_mStep ..).after ?_
    | with_reducible refine (steady_haltQuiet ..).after ?_
    | with_reducible refine (steady_drainToDiscard ..).after ?_

theorem steady_unresolved (d : Dispute) (s : State) : Steady s (unresolved d s) := by
  unfold unresolved
  try dsimp only [-Nat.reducePow]
  repeat' first
    | with_reducible exact Steady.refl _
    | with_reducible refine (steady_conclude ..).after ?_
    | with_reducible refine (steady_haltUnresolved ..).after ?_
    | intro _
    | split

theorem sound_replayStep (k : StepKey) (s : State) : Sound s (replayStep k s) := by
  unfold replayStep
  try dsimp only [-Nat.reducePow]
  repeat' first
    | with_reducible exact Sound.refl _
    | with_reducible refine (steady_bumpCtx ..).sound.after ?_
    | with_reducible refine (sound_raiseAttempt ..).after ?_
    | with_reducible refine (steady_mLayerCounts ..).sound.after ?_
    | with_reducible refine (sound_xholdSteer ..).after ?_

theorem sound_orderReplay (d : Dispute) (cause : Nat) (s : State) : Sound s (orderReplay d cause s) := by
  unfold orderReplay
  try dsimp only [-Nat.reducePow]
  repeat' first
    | with_reducible exact Sound.refl _
    | with_reducible refine (steady_mVu _ _).sound.after ?_
    | with_reducible refine (steady_unresolved ..).sound.after ?_
    | with_reducible refine (sound_replayStep ..).after ?_
    | with_reducible refine (sound_foldl _ ?_ _ _).after ?_
    | with_reducible refine (sound_foldl2 _ ?_ _ _).after ?_
    | intro _
    | split

theorem sound_inputReplay (d : Dispute) (s : State) : Sound s (inputReplay d s) := by
  unfold inputReplay
  try dsimp only [-Nat.reducePow]
  repeat' first
    | with_reducible exact Sound.refl _
    | with_reducible refine (steady_mStep ..).sound.after ?_
    | with_reducible refine (steady_conclude ..).sound.after ?_
    | with_reducible refine (sound_orderReplay ..).after ?_

theorem sound_inputSuspect (d : Dispute) (s : State) : Sound s (inputSuspect d s) := by
  unfold inputSuspect
  try dsimp only [-Nat.reducePow]
  repeat' first
    | with_reducible exact Sound.refl _
    | with_reducible refine (steady_scOrder ..).sound.after ?_
    | with_reducible refine (steady_mProc ..).sound.after ?_
    | with_reducible refine (steady_endProc ..).sound.after ?_
    | with_reducible refine (steady_unresolved ..).sound.after ?_
    | with_reducible refine (sound_inputReplay ..).after ?_
    | with_reducible refine (sound_foldl _ ?_ _ _).after ?_
    | with_reducible refine (sound_foldl2 _ ?_ _ _).after ?_
    | intro _
    | split

theorem sound_scrubDone (w : W64) (n : Nat) (ok : Bool) (s : State) : Sound s (scrubDone w n ok s) := by
  unfold scrubDone
  try dsimp only [-Nat.reducePow]
  repeat' first
    | with_reducible exact Sound.refl _
    | with_reducible refine (steady_mProc ..).sound.after ?_
    | with_reducible refine (steady_unresolved ..).sound.after ?_
    | with_reducible refine (sound_inputReplay ..).after ?_
    | intro _
    | split

theorem steady_noCheckerCase (d : Dispute) (s : State) : Steady s (noCheckerCase d s) := by
  unfold noCheckerCase
  try dsimp only [-Nat.reducePow]
  repeat' first
    | with_reducible exact Steady.refl _
    | with_reducible refine (steady_bumpCtx ..).after ?_
    | with_reducible refine (steady_taskPassed ..).after ?_
    | with_reducible refine (steady_mLayerCounts ..).after ?_
    | with_reducible refine (steady_endProc ..).after ?_
    | with_reducible refine (steady_unresolved ..).after ?_
    | intro _
    | split

theorem steady_awaitRedispatch (d : Dispute) (s : State) : Steady s (awaitRedispatch d s) := by
  unfold awaitRedispatch
  try dsimp only [-Nat.reducePow]
  repeat' first
    | with_reducible exact Steady.refl _
    | with_reducible refine (steady_mProc ..).after ?_

theorem steady_redispatch (d : Dispute) (t : TaskE) (p : Plan) (s : State) : Steady s (redispatch d t p s) := by
  unfold redispatch
  try dsimp only [-Nat.reducePow]
  repeat' first
    | with_reducible exact Steady.refl _
    | with_reducible refine (steady_mTwc _ _).after ?_
    | with_reducible refine (steady_mPer _ _).after ?_
    | with_reducible refine (steady_laneEnqueue ..).after ?_
    | with_reducible refine (steady_noCheckerCase ..).after ?_
    | with_reducible refine (steady_awaitRedispatch ..).after ?_
    | intro _
    | split

theorem steady_fenceChecker (d : Dispute) (t : TaskE) (s : State) : Steady s (fenceChecker d t s) := by
  unfold fenceChecker
  try dsimp only [-Nat.reducePow]
  repeat' first
    | with_reducible exact Steady.refl _
    | with_reducible refine (steady_draw _).after ?_
    | with_reducible refine (steady_fencePaths ..).after ?_
    | with_reducible refine (steady_fencePipe ..).after ?_
    | with_reducible refine (steady_fenceLane ..).after ?_
    | intro _
    | split

theorem steady_checkerFault (d : Dispute) (s : State) : Steady s (checkerFault d s) := by
  unfold checkerFault
  try dsimp only [-Nat.reducePow]
  repeat' first
    | with_reducible exact Steady.refl _
    | with_reducible refine (steady_mInst ..).after ?_
    | with_reducible refine (steady_endProc ..).after ?_
    | with_reducible refine (steady_unresolved ..).after ?_
    | with_reducible refine (steady_redispatch ..).after ?_
    | with_reducible refine (steady_fenceChecker ..).after ?_
    | intro _
    | split

theorem steady_redispatchReturned (t : Token) (s : State) : Steady s (redispatchReturned t s) := by
  unfold redispatchReturned
  try dsimp only [-Nat.reducePow]
  repeat' first
    | with_reducible exact Steady.refl _
    | with_reducible refine (steady_conclude ..).after ?_
    | intro _
    | split

theorem steady_askFeed (d : Dispute) (third : Huid) (e lo terms : Nat) (l : LayerE) (s : State) :
    Steady s (askFeed d third e lo terms l s) := by
  unfold askFeed
  try dsimp only [-Nat.reducePow]
  repeat' first
    | with_reducible exact Steady.refl _
    | with_reducible refine (steady_mVu _ _).after ?_
    | with_reducible refine (steady_nextReq ..).after ?_
    | with_reducible refine (steady_sendSettle ..).after ?_

theorem steady_startDistil (d : Dispute) (h third : Huid) (e : Nat) (s : State) : Steady s (startDistil d h third e
    s) := by
  unfold startDistil
  try dsimp only [-Nat.reducePow]
  repeat' first
    | with_reducible exact Steady.refl _
    | with_reducible refine (steady_mVu _ _).after ?_
    | with_reducible refine (steady_bumpCtx ..).after ?_
    | with_reducible refine (steady_stateEvent ..).after ?_
    | with_reducible refine (steady_askFeed ..).after ?_
    | intro _
    | split

theorem sound_failCore (d : Dispute) (side : Nat) (h : Huid) (e : Option Nat) (third : Huid) (s : State) :
    Sound s (failCore d side h e third s) := by
  unfold failCore
  try dsimp only [-Nat.reducePow]
  repeat' first
    | with_reducible exact Sound.refl _
    | with_reducible refine (steady_sbDefect ..).sound.after ?_
    | with_reducible refine (steady_sdcEvent ..).sound.after ?_
    | with_reducible refine (steady_testEvent ..).sound.after ?_
    | with_reducible refine (steady_conclude ..).sound.after ?_
    | with_reducible refine (sound_orderReplay ..).after ?_
    | with_reducible refine (steady_startDistil ..).sound.after ?_
    | intro _
    | split

/-! ### Distil -/

theorem steady_laneProbe (l : LayerE) (e : Nat) (a b : List (Nat × Nat)) (s : State) :
    Steady s (laneProbe l e a b s).2 := by
  unfold laneProbe
  try dsimp only [-Nat.reducePow]
  repeat' first
    | with_reducible exact Steady.refl _
    | with_reducible refine (steady_draw _).after ?_
    | intro _
    | split

theorem steady_mDistil (f : Distil → Distil) (s : State) : Steady s (State.mDistil f s) := by
  unfold State.mDistil
  try dsimp only [-Nat.reducePow]
  repeat' first
    | with_reducible exact Steady.refl _
    | with_reducible refine (steady_mVu _ _).after ?_

theorem steady_sendProbe (x : Distil) (lo w : Nat) (s : State) : Steady s (sendProbe x lo w s) := by
  unfold sendProbe
  try dsimp only [-Nat.reducePow]
  repeat' first
    | with_reducible exact Steady.refl _
    | with_reducible refine (steady_nextReq ..).after ?_
    | with_reducible refine (steady_sendSettle ..).after ?_
    | with_reducible refine (steady_mDistil ..).after ?_

theorem steady_endDistil (result : Nat) (s : State) : Steady s (endDistil result s) := by
  unfold endDistil
  try dsimp only [-Nat.reducePow]
  repeat' first
    | with_reducible exact Steady.refl _
    | with_reducible refine (steady_mVu _ _).after ?_
    | with_reducible refine (steady_stateEvent ..).after ?_
    | with_reducible refine (steady_nextReq ..).after ?_
    | with_reducible refine (steady_sendSettle ..).after ?_
    | intro _
    | split

theorem steady_abandonDistil (result : Nat) (s : State) : Steady s (abandonDistil result s) := by
  unfold abandonDistil
  try dsimp only [-Nat.reducePow]
  repeat' first
    | with_reducible exact Steady.refl _
    | with_reducible refine (steady_setPad ..).after ?_
    | with_reducible refine (steady_endDistil ..).after ?_
    | intro _
    | split

theorem steady_signWith (slot : Nat) (b : Bytes) (s : State) : Steady s (signWith slot b s).2 := by
  unfold signWith
  try dsimp only [-Nat.reducePow]
  repeat' first
    | with_reducible exact Steady.refl _
    | with_reducible refine (steady_draw _).after ?_

theorem steady_makeRecord (x : Distil) (cand : Nat) (s : State) : Steady s (makeRecord x cand s) := by
  unfold makeRecord
  try dsimp only [-Nat.reducePow]
  repeat' first
    | with_reducible exact Steady.refl _
    | with_reducible refine (steady_mVu _ _).after ?_
    | with_reducible refine (steady_bumpCtx ..).after ?_
    | with_reducible refine (steady_sbWrite ..).after ?_
    | with_reducible refine (steady_signWith ..).after ?_
    | intro _
    | split

theorem steady_searchOn (x : Distil) (n : Nat) (s : State) : Steady s (searchOn x n s) := by
  unfold searchOn
  try dsimp only [-Nat.reducePow]
  repeat' first
    | with_reducible exact Steady.refl _
    | with_reducible refine (steady_nextReq ..).after ?_
    | with_reducible refine (steady_sendSettle ..).after ?_
    | with_reducible refine (steady_mDistil ..).after ?_
    | with_reducible refine (steady_endDistil ..).after ?_
    | intro _
    | split

theorem steady_beginSearch (x : Distil) (s : State) : Steady s (beginSearch x s) := by
  unfold beginSearch
  try dsimp only [-Nat.reducePow]
  repeat' first
    | with_reducible exact Steady.refl _
    | with_reducible refine (steady_mVu _ _).after ?_
    | with_reducible refine (steady_draw _).after ?_
    | with_reducible refine (steady_stateEvent ..).after ?_
    | with_reducible refine (steady_endDistil ..).after ?_
    | with_reducible refine (steady_searchOn ..).after ?_
    | intro _
    | split

theorem steady_bisectOn (x : Distil) (s : State) : Steady s (bisectOn x s) := by
  unfold bisectOn
  try dsimp only [-Nat.reducePow]
  repeat' first
    | with_reducible exact Steady.refl _
    | with_reducible refine (steady_mDistil ..).after ?_
    | with_reducible refine (steady_sendProbe ..).after ?_
    | with_reducible refine (steady_beginSearch ..).after ?_
    | intro _
    | split

theorem steady_probeReply (x : Distil) (core : Nat) (s : State) : Steady s (probeReply x core s) := by
  unfold probeReply
  try dsimp only [-Nat.reducePow]
  repeat' first
    | with_reducible exact Steady.refl _
    | with_reducible refine (steady_mVu _ _).after ?_
    | with_reducible refine (steady_stateEvent ..).after ?_
    | with_reducible refine (steady_setPad ..).after ?_
    | with_reducible refine (steady_laneProbe ..).after ?_
    | with_reducible refine (steady_sendProbe ..).after ?_
    | with_reducible refine (steady_endDistil ..).after ?_
    | with_reducible refine (steady_makeRecord ..).after ?_
    | with_reducible refine (steady_searchOn ..).after ?_
    | with_reducible refine (steady_beginSearch ..).after ?_
    | with_reducible refine (steady_bisectOn ..).after ?_
    | intro _
    | split

theorem steady_feedReply (x : Distil) (b : Bytes) (s : State) : Steady s (feedReply x b s) := by
  unfold feedReply
  try dsimp only [-Nat.reducePow]
  repeat' first
    | with_reducible exact Steady.refl _
    | with_reducible refine (steady_mVu _ _).after ?_
    | with_reducible refine (steady_stateEvent ..).after ?_
    | with_reducible refine (steady_askFeed ..).after ?_
    | with_reducible refine (steady_sendProbe ..).after ?_
    | intro _
    | split

theorem steady_distilReply (x : Distil) (b : Bytes) (s : State) : Steady s (distilReply x b s) := by
  unfold distilReply
  try dsimp only [-Nat.reducePow]
  repeat' first
    | with_reducible exact Steady.refl _
    | with_reducible refine (steady_probeReply ..).after ?_
    | with_reducible refine (steady_feedReply ..).after ?_
    | intro _
    | split

/-! ### Procedure -/

theorem steady_sendXsettle (d : Dispute) (lo w : Nat) (s : State) : Steady s (sendXsettle d lo w s) := by
  unfold sendXsettle
  try dsimp only [-Nat.reducePow]
  repeat' first
    | with_reducible exact Steady.refl _
    | with_reducible refine (steady_hxSend ..).after ?_
    | with_reducible refine (steady_mProc ..).after ?_
    | intro _
    | split

theorem steady_bisectRound (d : Dispute) (lo w : Nat) (s : State) : Steady s (bisectRound d lo w s) := by
  unfold bisectRound
  try dsimp only [-Nat.reducePow]
  repeat' first
    | with_reducible exact Steady.refl _
    | with_reducible refine (steady_endProc ..).after ?_
    | with_reducible refine (steady_askRound ..).after ?_
    | with_reducible refine (steady_sendXsettle ..).after ?_
    | intro _
    | split

theorem steady_withThird (d : Dispute) (f : Huid → State → State) (s : State) (hf : ∀ a0 s, Steady s (f a0 s)) :
    Steady s (withThird d f s) := by
  unfold withThird
  try dsimp only [-Nat.reducePow]
  repeat' first
    | with_reducible exact Steady.refl _
    | with_reducible refine (steady_mProc ..).after ?_
    | with_reducible refine (steady_endProc ..).after ?_
    | with_reducible refine (steady_unresolved ..).after ?_
    | with_reducible refine (hf ..).after ?_
    | intro _
    | split

theorem sound_withThird (d : Dispute) (f : Huid → State → State) (s : State) (hf : ∀ a0 s, Sound s (f a0 s)) :
    Sound s (withThird d f s) := by
  unfold withThird
  try dsimp only [-Nat.reducePow]
  repeat' first
    | with_reducible exact Sound.refl _
    | with_reducible refine (steady_mProc ..).sound.after ?_
    | with_reducible refine (steady_endProc ..).sound.after ?_
    | with_reducible refine (steady_unresolved ..).sound.after ?_
    | with_reducible refine (hf ..).after ?_
    | intro _
    | split

theorem steady_askThird (d : Dispute) (ph : Phase) (sub lo : Nat) (partner l : Huid) (s : State) :
    Steady s (askThird d ph sub lo partner l s) := by
  unfold askThird
  try dsimp only [-Nat.reducePow]
  repeat' first
    | with_reducible exact Steady.refl _
    | with_reducible refine (steady_askRound ..).after ?_

theorem sound_elementFound (pr : Proc) (e i : Nat) (s : State) : Sound s (elementFound pr e i s) := by
  unfold elementFound
  try dsimp only [-Nat.reducePow]
  repeat' first
    | with_reducible exact Sound.refl _
    | with_reducible refine (steady_mProc ..).sound.after ?_
    | with_reducible refine (steady_endProc ..).sound.after ?_
    | with_reducible refine (sound_inputSuspect ..).after ?_
    | with_reducible refine (sound_failCore ..).after ?_
    | with_reducible refine (sound_withThird _ _ _ ?_).after ?_
    | with_reducible refine (steady_askThird ..).sound.after ?_
    | intro _
    | split

theorem sound_coverName (pr : Proc) (side e i : Nat) (s : State) : Sound s (coverName pr side e i s) := by
  unfold coverName
  try dsimp only [-Nat.reducePow]
  repeat' first
    | with_reducible exact Sound.refl _
    | with_reducible refine (steady_draw _).sound.after ?_
    | with_reducible refine (sound_inputSuspect ..).after ?_
    | with_reducible refine (sound_failCore ..).after ?_
    | intro _
    | split

theorem sound_coverRound (pr : Proc) (lo w : Nat) (s : State) : Sound s (coverRound pr lo w s) := by
  unfold coverRound
  try dsimp only [-Nat.reducePow]
  repeat' first
    | with_reducible exact Sound.refl _
    | with_reducible refine (steady_unresolved ..).sound.after ?_
    | with_reducible refine (sound_inputSuspect ..).after ?_
    | with_reducible refine (steady_bisectRound ..).sound.after ?_
    | with_reducible refine (sound_withThird _ _ _ ?_).after ?_
    | with_reducible refine (sound_coverName ..).after ?_
    | intro _
    | split

theorem sound_roundDone (pr : Proc) (lo w : Nat) (s : State) : Sound s (roundDone pr lo w s) := by
  unfold roundDone
  try dsimp only [-Nat.reducePow]
  repeat' first
    | with_reducible exact Sound.refl _
    | with_reducible refine (sound_inputSuspect ..).after ?_
    | with_reducible refine (steady_bisectRound ..).sound.after ?_
    | with_reducible refine (sound_elementFound ..).after ?_
    | with_reducible refine (sound_coverRound ..).after ?_
    | intro _
    | split

theorem sound_failNamed (pr : Proc) (side : Nat) (w : Option Huid) (s : State) : Sound s (failNamed pr side w s) := by
  unfold failNamed
  try dsimp only [-Nat.reducePow]
  repeat' first
    | with_reducible exact Sound.refl _
    | with_reducible refine (sound_inputSuspect ..).after ?_
    | with_reducible refine (sound_failCore ..).after ?_
    | intro _
    | split

theorem sound_elementVote (pr : Proc) (s : State) : Sound s (elementVote pr s) := by
  unfold elementVote
  try dsimp only [-Nat.reducePow]
  repeat' first
    | with_reducible exact Sound.refl _
    | with_reducible refine (sound_inputSuspect ..).after ?_
    | with_reducible refine (sound_failNamed ..).after ?_
    | intro _
    | split

theorem sound_askShare (pr : Proc) (i : Nat) (s : State) : Sound s (askShare pr i s) := by
  unfold askShare
  try dsimp only [-Nat.reducePow]
  repeat' first
    | with_reducible exact Sound.refl _
    | with_reducible refine (steady_endProc ..).sound.after ?_
    | with_reducible refine (sound_inputSuspect ..).after ?_
    | with_reducible refine (steady_askThird ..).sound.after ?_
    | intro _
    | split

theorem sound_faultyPartner (pr : Proc) (s : State) : Sound s (faultyPartner pr s) := by
  unfold faultyPartner
  try dsimp only [-Nat.reducePow]
  repeat' first
    | with_reducible exact Sound.refl _
    | with_reducible refine (steady_endProc ..).sound.after ?_
    | with_reducible refine (sound_failCore ..).after ?_
    | with_reducible refine (sound_askShare ..).after ?_
    | intro _
    | split

theorem sound_ownerRecord (pr : Proc) (s : State) : Sound s (ownerRecord pr s) := by
  unfold ownerRecord
  try dsimp only [-Nat.reducePow]
  repeat' first
    | with_reducible exact Sound.refl _
    | with_reducible refine (steady_endProc ..).sound.after ?_
    | with_reducible refine (sound_inputSuspect ..).after ?_
    | with_reducible refine (steady_checkerFault ..).sound.after ?_
    | with_reducible refine (steady_bisectRound ..).sound.after ?_
    | with_reducible refine (sound_faultyPartner ..).after ?_
    | intro _
    | split

theorem sound_shareCompared (pr : Proc) (i : Nat) (s : State) : Sound s (shareCompared pr i s) := by
  unfold shareCompared
  try dsimp only [-Nat.reducePow]
  repeat' first
    | with_reducible exact Sound.refl _
    | with_reducible refine (steady_endProc ..).sound.after ?_
    | with_reducible refine (sound_failCore ..).after ?_
    | with_reducible refine (sound_askShare ..).after ?_
    | intro _
    | split

theorem sound_writerKnown (pr : Proc) (e : Nat) (s : State) : Sound s (writerKnown pr e s) := by
  unfold writerKnown
  try dsimp only [-Nat.reducePow]
  repeat' first
    | with_reducible exact Sound.refl _
    | with_reducible refine (steady_laneEnqueue ..).sound.after ?_
    | with_reducible refine (steady_mProc ..).sound.after ?_
    | with_reducible refine (steady_endProc ..).sound.after ?_
    | with_reducible refine (sound_inputSuspect ..).after ?_
    | with_reducible refine (steady_noCheckerCase ..).sound.after ?_
    | with_reducible refine (steady_awaitRedispatch ..).sound.after ?_
    | intro _
    | split

theorem sound_advance (pr : Proc) (s : State) : Sound s (advance pr s) := by
  unfold advance
  try dsimp only [-Nat.reducePow]
  repeat' first
    | with_reducible exact Sound.refl _
    | with_reducible refine (sound_roundDone ..).after ?_
    | with_reducible refine (sound_elementVote ..).after ?_
    | with_reducible refine (sound_ownerRecord ..).after ?_
    | with_reducible refine (sound_shareCompared ..).after ?_
    | with_reducible refine (sound_writerKnown ..).after ?_
    | intro _
    | split

theorem sound_settleOn (d : Dispute) (s : State) : Sound s (settleOn d s) := by
  unfold settleOn
  try dsimp only [-Nat.reducePow]
  repeat' first
    | with_reducible exact Sound.refl _
    | with_reducible refine (sound_advance ..).after ?_
    | intro _
    | split

theorem sound_takeReply (pr : Proc) (l : Huid) (void : Bool) (b : Bytes) (s : State) :
    Sound s (takeReply pr l void b s) := by
  unfold takeReply
  try dsimp only [-Nat.reducePow]
  repeat' first
    | with_reducible exact Sound.refl _
    | with_reducible refine (steady_mProc ..).sound.after ?_
    | with_reducible refine (sound_settleOn ..).after ?_

theorem steady_xsettleReply (die header status : Nat) (ents : List RangeEnt) (s : State) :
    Steady s (xsettleReply die header status ents s) := by
  unfold xsettleReply
  try dsimp only [-Nat.reducePow]
  repeat' first
    | with_reducible exact Steady.refl _
    | with_reducible refine (steady_hxSend ..).after ?_

theorem steady_takeXreply (x : XReq) (l : Huid) (void : Bool) (b : Bytes) (s : State) :
    Steady s (takeXreply x l void b s) := by
  unfold takeXreply
  try dsimp only [-Nat.reducePow]
  repeat' first
    | with_reducible exact Steady.refl _
    | with_reducible refine (steady_mVu _ _).after ?_
    | with_reducible refine (steady_xsettleReply ..).after ?_
    | intro _
    | split

theorem sound_settleAnswer (reqId : Nat) (l : Huid) (void : Bool) (b : Bytes) (s : State) :
    Sound s (settleAnswer reqId l void b s) := by
  unfold settleAnswer
  try dsimp only [-Nat.reducePow]
  repeat' first
    | with_reducible exact Sound.refl _
    | with_reducible refine (steady_abandonDistil ..).sound.after ?_
    | with_reducible refine (steady_distilReply ..).sound.after ?_
    | with_reducible refine (sound_takeReply ..).after ?_
    | with_reducible refine (steady_takeXreply ..).sound.after ?_
    | intro _
    | split

theorem sound_settleReply (p : Ingress) (s : State) : Sound s (settleReply p s) := by
  unfold settleReply
  try dsimp only [-Nat.reducePow]
  repeat' first
    | with_reducible exact Sound.refl _
    | with_reducible refine (sound_settleAnswer ..).after ?_
    | intro _
    | split

theorem sound_settleTimeout (l : Huid) (s : State) : Sound s (settleTimeout l s) := by
  unfold settleTimeout
  try dsimp only [-Nat.reducePow]
  repeat' first
    | with_reducible exact Sound.refl _
    | with_reducible refine (steady_bumpCtx ..).sound.after ?_
    | with_reducible refine (steady_reportUnit ..).sound.after ?_
    | with_reducible refine (sound_settleAnswer ..).after ?_
    | intro _
    | split

theorem sound_voidVote (l : Huid) (s : State) : Sound s (voidVote l s) := by
  unfold voidVote
  try dsimp only [-Nat.reducePow]
  repeat' first
    | with_reducible exact Sound.refl _
    | with_reducible refine (sound_settleAnswer ..).after ?_
    | intro _
    | split

theorem sound_residueCase (d : Dispute) (s : State) : Sound s (residueCase d s) := by
  unfold residueCase
  try dsimp only [-Nat.reducePow]
  repeat' first
    | with_reducible exact Sound.refl _
    | with_reducible refine (steady_endProc ..).sound.after ?_
    | with_reducible refine (sound_orderReplay ..).after ?_
    | with_reducible refine (sound_failCore ..).after ?_
    | intro _
    | split

theorem sound_timeoutCase (d : Dispute) (s : State) : Sound s (timeoutCase d s) := by
  unfold timeoutCase
  try dsimp only [-Nat.reducePow]
  repeat' first
    | with_reducible exact Sound.refl _
    | with_reducible refine (steady_endProc ..).sound.after ?_
    | with_reducible refine (steady_unresolved ..).sound.after ?_
    | with_reducible refine (sound_orderReplay ..).after ?_
    | intro _
    | split

theorem sound_xtestCase (d : Dispute) (p : Plan) (t : TaskE) (s : State) : Sound s (xtestCase d p t s) := by
  unfold xtestCase
  try dsimp only [-Nat.reducePow]
  repeat' first
    | with_reducible exact Sound.refl _
    | with_reducible refine (steady_unresolved ..).sound.after ?_
    | with_reducible refine (steady_noCheckerCase ..).sound.after ?_
    | with_reducible refine (sound_failCore ..).after ?_
    | intro _
    | split

theorem steady_checkerKat (d : Dispute) (t : TaskE) (pass : Bool) (s : State) : Steady s (checkerKat d t pass s) := by
  unfold checkerKat
  try dsimp only [-Nat.reducePow]
  repeat' first
    | with_reducible exact Steady.refl _
    | with_reducible refine (steady_reportSelf ..).after ?_
    | with_reducible refine (steady_pipeKat ..).after ?_
    | with_reducible refine (steady_laneKat ..).after ?_
    | intro _
    | split

theorem sound_gather (d : Dispute) (p : Plan) (t : TaskE) (s : State) : Sound s (gather d p t s) := by
  unfold gather
  try dsimp only [-Nat.reducePow]
  repeat' first
    | with_reducible exact Sound.refl _
    | with_reducible refine (steady_askRound ..).sound.after ?_
    | with_reducible refine (sound_inputSuspect ..).after ?_
    | with_reducible refine (steady_bisectRound ..).sound.after ?_
    | with_reducible refine (sound_withThird _ _ _ ?_).after ?_
    | with_reducible refine (steady_askThird ..).sound.after ?_
    | intro _
    | split

theorem sound_decideCase (d : Dispute) (katPass : Bool) (s : State) : Sound s (decideCase d katPass s) := by
  unfold decideCase
  try dsimp only [-Nat.reducePow]
  repeat' first
    | with_reducible exact Sound.refl _
    | with_reducible refine (steady_endProc ..).sound.after ?_
    | with_reducible refine (steady_conclude ..).sound.after ?_
    | with_reducible refine (sound_orderReplay ..).after ?_
    | with_reducible refine (steady_noCheckerCase ..).sound.after ?_
    | with_reducible refine (steady_checkerFault ..).sound.after ?_
    | with_reducible refine (sound_residueCase ..).after ?_
    | with_reducible refine (sound_timeoutCase ..).after ?_
    | with_reducible refine (sound_xtestCase ..).after ?_
    | with_reducible refine (steady_checkerKat ..).sound.after ?_
    | with_reducible refine (sound_gather ..).after ?_
    | intro _
    | split

theorem sound_procedureStart (katPass : Bool) (s : State) : Sound s (procedureStart katPass s) := by
  unfold procedureStart
  try dsimp only [-Nat.reducePow]
  repeat' first
    | with_reducible exact Sound.refl _
    | with_reducible refine (steady_mVu _ _).sound.after ?_
    | with_reducible refine (sound_decideCase ..).after ?_
    | intro _
    | split

theorem steady_lane2Returned (pr : Proc) (flagged : Bool) (h2 : Nat) (s : State) :
    Steady s (lane2Returned pr flagged h2 s).2 := by
  unfold lane2Returned
  try dsimp only [-Nat.reducePow]
  repeat' first
    | with_reducible exact Steady.refl _
    | with_reducible refine (steady_fenceLane ..).after ?_
    | with_reducible refine (steady_conclude ..).after ?_
    | with_reducible refine (steady_withThird _ _ _ ?_).after ?_
    | with_reducible refine (steady_askThird ..).after ?_
    | intro _
    | split

theorem steady_redispatchTimeout (c step32 task : Nat) (s : State) : Steady s (redispatchTimeout c step32 task s) :=
    by
  unfold redispatchTimeout
  try dsimp only [-Nat.reducePow]
  repeat' first
    | with_reducible exact Steady.refl _
    | with_reducible refine (steady_unresolved ..).after ?_
    | intro _
    | split

theorem steady_replaySend (c : Nat) (s : State) : Steady s (replaySend c s) := by
  unfold replaySend
  try dsimp only [-Nat.reducePow]
  repeat' first
    | with_reducible exact Steady.refl _
    | with_reducible refine (steady_mVu _ _).after ?_
    | with_reducible refine (steady_traceStep ..).after ?_
    | with_reducible refine (steady_sendCore ..).after ?_
    | with_reducible refine (steady_foldl _ ?_ _ _).after ?_
    | with_reducible refine (steady_foldl2 _ ?_ _ _).after ?_
    | intro _
    | split

theorem steady_xsettleAsk (die header : Nat) (s : State) : Steady s (xsettleAsk die header s) := by
  unfold xsettleAsk
  try dsimp only [-Nat.reducePow]
  repeat' first
    | with_reducible exact Steady.refl _
    | with_reducible refine (steady_mVu _ _).after ?_
    | with_reducible refine (steady_nextReq ..).after ?_
    | with_reducible refine (steady_sendSettle ..).after ?_
    | with_reducible refine (steady_xsettleReply ..).after ?_
    | with_reducible refine (steady_foldl _ ?_ _ _).after ?_
    | with_reducible refine (steady_foldl2 _ ?_ _ _).after ?_
    | with_reducible refine steady_withStep ?_ ?_
    | intro _
    | split

theorem sound_xsettleAnswer (die header : Nat) (b : Bytes) (s : State) : Sound s (xsettleAnswer die header b s) := by
  unfold xsettleAnswer
  try dsimp only [-Nat.reducePow]
  repeat' first
    | with_reducible exact Sound.refl _
    | with_reducible refine (steady_mProc ..).sound.after ?_
    | with_reducible refine (sound_settleOn ..).after ?_
    | intro _
    | split

theorem sound_xsettle (p : HxPkt) (s : State) : Sound s (xsettle p s) := by
  unfold xsettle
  try dsimp only [-Nat.reducePow]
  repeat' first
    | with_reducible exact Sound.refl _
    | with_reducible refine (steady_xsettleAsk ..).sound.after ?_
    | with_reducible refine (sound_xsettleAnswer ..).after ?_
    | intro _
    | split

theorem steady_ownCoreNamed (d : Dispute) (h : Huid) (e : Nat) (s : State) : Steady s (ownCoreNamed d h e s) := by
  unfold ownCoreNamed
  try dsimp only [-Nat.reducePow]
  repeat' first
    | with_reducible exact Steady.refl _
    | with_reducible refine (steady_sbDefect ..).after ?_
    | with_reducible refine (steady_sdcEvent ..).after ?_
    | with_reducible refine (steady_startDistil ..).after ?_
    | intro _
    | split

theorem sound_verdictFromLeader (p : HxPkt) (d : Dispute) (s : State) : Sound s (verdictFromLeader p d s) := by
  unfold verdictFromLeader
  try dsimp only [-Nat.reducePow]
  repeat' first
    | with_reducible exact Sound.refl _
    | with_reducible refine (steady_mVu _ _).sound.after ?_
    | with_reducible refine (steady_recordVerdict ..).sound.after ?_
    | with_reducible refine (steady_reportVerdict ..).sound.after ?_
    | with_reducible refine (steady_unresolved ..).sound.after ?_
    | with_reducible refine (sound_orderReplay ..).after ?_
    | with_reducible refine (steady_redispatch ..).sound.after ?_
    | with_reducible refine (steady_ownCoreNamed ..).sound.after ?_
    | intro _
    | split

theorem steady_verdictFromPeer (d : Dispute) (s : State) : Steady s (verdictFromPeer d s) := by
  unfold verdictFromPeer
  try dsimp only [-Nat.reducePow]
  repeat' first
    | with_reducible exact Steady.refl _
    | with_reducible refine (steady_mVu _ _).after ?_
    | with_reducible refine (steady_unresolved ..).after ?_
    | intro _
    | split

theorem sound_xverdict (p : HxPkt) (s : State) : Sound s (xverdict p s) := by
  unfold xverdict
  try dsimp only [-Nat.reducePow]
  repeat' first
    | with_reducible exact Sound.refl _
    | with_reducible refine (sound_verdictFromLeader ..).after ?_
    | with_reducible refine (steady_verdictFromPeer ..).sound.after ?_
    | intro _
    | split

theorem steady_xverdictWaitTimeout (c step32 task : Nat) (s : State) : Steady s (xverdictWaitTimeout c step32 task
    s) := by
  unfold xverdictWaitTimeout
  try dsimp only [-Nat.reducePow]
  repeat' first
    | with_reducible exact Steady.refl _
    | with_reducible refine (steady_mVu _ _).after ?_
    | with_reducible refine (steady_hxSend ..).after ?_
    | with_reducible refine (steady_unresolved ..).after ?_
    | intro _
    | split

theorem steady_wantTest (h : Huid) (host : Bool) (s : State) : Steady s (wantTest h host s) := by
  unfold wantTest
  try dsimp only [-Nat.reducePow]
  repeat' first
    | with_reducible exact Steady.refl _
    | with_reducible refine (steady_mFr _ _).after ?_

theorem steady_turnoutSelect (h : Huid) (s : State) : Steady s (turnoutSelect h s) := by
  unfold turnoutSelect
  try dsimp only [-Nat.reducePow]
  repeat' first
    | with_reducible exact Steady.refl _
    | with_reducible refine (steady_enterFenced ..).after ?_
    | with_reducible refine (steady_wantTest ..).after ?_
    | intro _
    | split

theorem steady_suspectTest (h : Huid) (s : State) : Steady s (suspectTest h s) := by
  unfold suspectTest
  try dsimp only [-Nat.reducePow]
  repeat' first
    | with_reducible exact Steady.refl _
    | with_reducible refine (steady_wantTest ..).after ?_
    | intro _
    | split

/-! ### Testing -/

theorem steady_sendTest (sub : Nat) (h : Huid) (test desc : Nat) (payload : Bytes) (s : State) :
    Steady s (sendTest sub h test desc payload s) := by
  unfold sendTest
  try dsimp only [-Nat.reducePow]
  repeat' first
    | with_reducible exact Steady.refl _
    | with_reducible refine (steady_sendCore ..).after ?_

theorem steady_testPassed (h : Huid) (s : State) : Steady s (testPassed h s) := by
  unfold testPassed
  try dsimp only [-Nat.reducePow]
  repeat' first
    | with_reducible exact Steady.refl _
    | with_reducible refine (steady_bump ..).after ?_
    | with_reducible refine (steady_reinstate ..).after ?_
    | with_reducible refine (steady_cleanTest ..).after ?_
    | intro _
    | split

theorem steady_testBad (h : Huid) (s : State) : Steady s (testBad h s) := by
  unfold testBad
  try dsimp only [-Nat.reducePow]
  repeat' first
    | with_reducible exact Steady.refl _
    | with_reducible refine (steady_bump ..).after ?_
    | with_reducible refine (steady_reportUnit ..).after ?_
    | with_reducible refine (steady_testFailed ..).after ?_
    | intro _
    | split

theorem steady_testVoid (h : Huid) (s : State) : Steady s (testVoid h s) := by
  unfold testVoid
  try dsimp only [-Nat.reducePow]
  repeat' first
    | with_reducible exact Steady.refl _
    | with_reducible refine (steady_wantTest ..).after ?_
    | intro _
    | split

theorem steady_endSession (x : Session) (result : Nat) (s : State) : Steady s (endSession x result s) := by
  unfold endSession
  try dsimp only [-Nat.reducePow]
  repeat' first
    | with_reducible exact Steady.refl _
    | with_reducible refine (steady_mFr _ _).after ?_
    | with_reducible refine (steady_bump ..).after ?_
    | with_reducible refine (steady_sbWrite ..).after ?_
    | with_reducible refine (steady_mPad ..).after ?_
    | with_reducible refine (steady_sendTest ..).after ?_
    | with_reducible refine (steady_testPassed ..).after ?_
    | with_reducible refine (steady_testBad ..).after ?_
    | with_reducible refine (steady_testVoid ..).after ?_
    | intro _
    | split

theorem steady_voidSession (h : Huid) (s : State) : Steady s (voidSession h s) := by
  unfold voidSession
  try dsimp only [-Nat.reducePow]
  repeat' first
    | with_reducible exact Steady.refl _
    | with_reducible refine (steady_endSession ..).after ?_
    | intro _
    | split

theorem steady_voidSessionsWhere (f : Huid → Bool) (s : State) : Steady s (voidSessionsWhere f s) := by
  unfold voidSessionsWhere
  try dsimp only [-Nat.reducePow]
  repeat' first
    | with_reducible exact Steady.refl _
    | with_reducible refine (steady_voidSession ..).after ?_
    | with_reducible refine (steady_foldl _ ?_ _ _).after ?_
    | with_reducible refine (steady_foldl2 _ ?_ _ _).after ?_
    | intro _

/-! ### MusterOps -/

theorem steady_mMuster (f : Muster → Muster) (s : State) : Steady s (State.mMuster f s) := by
  unfold State.mMuster
  try dsimp only [-Nat.reducePow]
  repeat' first
    | with_reducible exact Steady.refl _
    | with_reducible refine (steady_mCfg _ _).after ?_
    | with_reducible refine (steady_stateChanged ..).after ?_

theorem steady_sendBlock (h : Huid) (b : Nat) (s : State) : Steady s (sendBlock h b s) := by
  unfold sendBlock
  try dsimp only [-Nat.reducePow]
  repeat' first
    | with_reducible exact Steady.refl _
    | with_reducible refine (steady_sendCore ..).after ?_

theorem steady_sendMuster (sub : Nat) (w : W64) (h : Huid) (s : State) : Steady s (sendMuster sub w h s) := by
  unfold sendMuster
  try dsimp only [-Nat.reducePow]
  repeat' first
    | with_reducible exact Steady.refl _
    | with_reducible refine (steady_sendCore ..).after ?_

theorem steady_queryAll (hs : List Huid) (s : State) : Steady s (queryAll hs s) := by
  unfold queryAll
  try dsimp only [-Nat.reducePow]
  repeat' first
    | with_reducible exact Steady.refl _
    | with_reducible refine (steady_sendMuster ..).after ?_
    | with_reducible refine (steady_foldl _ ?_ _ _).after ?_
    | with_reducible refine (steady_foldl2 _ ?_ _ _).after ?_
    | intro _

theorem steady_musterSend (s : State) : Steady s (musterSend s) := by
  unfold musterSend
  try dsimp only [-Nat.reducePow]
  repeat' first
    | with_reducible exact Steady.refl _
    | with_reducible refine (steady_bump ..).after ?_
    | with_reducible refine (steady_mMuster ..).after ?_
    | with_reducible refine (steady_sendBlock ..).after ?_
    | with_reducible refine (steady_queryAll ..).after ?_
    | with_reducible refine (steady_foldl _ ?_ _ _).after ?_
    | with_reducible refine (steady_foldl2 _ ?_ _ _).after ?_
    | intro _

theorem steady_startMuster (scope : Bool) (sector : Nat) (targets : List Huid) (s : State) :
    Steady s (startMuster scope sector targets s) := by
  unfold startMuster
  try dsimp only [-Nat.reducePow]
  repeat' first
    | with_reducible exact Steady.refl _
    | with_reducible refine (steady_bump ..).after ?_
    | with_reducible refine (steady_scOrder ..).after ?_
    | with_reducible refine (steady_mMuster ..).after ?_
    | with_reducible refine (steady_foldl _ ?_ _ _).after ?_
    | with_reducible refine (steady_foldl2 _ ?_ _ _).after ?_
    | intro _
    | split

theorem steady_musterUnfenced (s : State) : Steady s (musterUnfenced s) := by
  unfold musterUnfenced
  try dsimp only [-Nat.reducePow]
  repeat' first
    | with_reducible exact Steady.refl _
    | with_reducible refine (steady_musterSend ..).after ?_
    | intro _
    | split

theorem steady_dropTargets (n : Nat) (s : State) : Steady s (dropTargets n s) := by
  unfold dropTargets
  try dsimp only [-Nat.reducePow]
  repeat' first
    | with_reducible exact Steady.refl _
    | with_reducible refine (steady_mMuster ..).after ?_
    | intro _
    | split

theorem steady_orderSectorMuster (n : Nat) (s : State) : Steady s (orderSectorMuster n s) := by
  unfold orderSectorMuster
  try dsimp only [-Nat.reducePow]
  repeat' first
    | with_reducible exact Steady.refl _
    | with_reducible refine (steady_mCfg _ _).after ?_
    | with_reducible refine (steady_startMuster ..).after ?_
    | intro _
    | split

/-! ### Yard -/

theorem steady_coreLost (h : Huid) (s : State) : Steady s (coreLost h s) := by
  unfold coreLost
  try dsimp only [-Nat.reducePow]
  repeat' first
    | with_reducible exact Steady.refl _
    | with_reducible refine (steady_remapLabel (by assumption)).after ?_
    | with_reducible refine (steady_noSpare ..).after ?_
    | intro _
    | split

theorem steady_reachUpdate (s : State) : Steady s (reachUpdate s) := by
  unfold reachUpdate
  try dsimp only [-Nat.reducePow]
  repeat' first
    | with_reducible exact Steady.refl _
    | with_reducible refine (steady_mYm _ _).after ?_
    | with_reducible refine (steady_bump ..).after ?_
    | with_reducible refine (steady_ymReport ..).after ?_
    | with_reducible refine (steady_coreLost ..).after ?_
    | with_reducible refine (steady_foldl _ ?_ _ _).after ?_
    | with_reducible refine (steady_foldl2 _ ?_ _ _).after ?_
    | intro _
    | split

theorem steady_meshChanged (removal : Bool) (s : State) : Steady s (meshChanged removal s) := by
  unfold meshChanged
  try dsimp only [-Nat.reducePow]
  repeat' first
    | with_reducible exact Steady.refl _
    | with_reducible refine (steady_mYm _ _).after ?_
    | with_reducible refine (steady_computeInstall ..).after ?_
    | with_reducible refine (steady_reachUpdate ..).after ?_
    | intro _
    | split

theorem steady_mLink (h : Huid) (f : Link → Link) (s : State) : Steady s (State.mLink h f s) := by
  unfold State.mLink
  try dsimp only [-Nat.reducePow]
  repeat' first
    | with_reducible exact Steady.refl _
    | with_reducible refine (steady_mYm _ _).after ?_
    | with_reducible refine (steady_stateChanged ..).after ?_
    | intro _
    | split

theorem steady_linkDown (h : Huid) (s : State) : Steady s (linkDown h s) := by
  unfold linkDown
  try dsimp only [-Nat.reducePow]
  repeat' first
    | with_reducible exact Steady.refl _
    | with_reducible refine (steady_mLink ..).after ?_

theorem steady_hlinkDown (h : Huid) (s : State) : Steady s (hlinkDown h s) := by
  unfold hlinkDown
  try dsimp only [-Nat.reducePow]
  repeat' first
    | with_reducible exact Steady.refl _
    | with_reducible refine (steady_bump ..).after ?_
    | with_reducible refine (steady_meshChanged ..).after ?_
    | with_reducible refine (steady_linkDown ..).after ?_

theorem steady_hlinkWidth (h : Huid) (t f : Nat) (s : State) : Steady s (hlinkWidth h t f s) := by
  unfold hlinkWidth
  try dsimp only [-Nat.reducePow]
  repeat' first
    | with_reducible exact Steady.refl _
    | with_reducible refine (steady_bump ..).after ?_
    | with_reducible refine (steady_meshChanged ..).after ?_
    | with_reducible refine (steady_mLink ..).after ?_
    | with_reducible refine (steady_linkDown ..).after ?_
    | intro _
    | split

theorem steady_dropRequests (r : Huid) (s : State) : Steady s (dropRequests r s) := by
  unfold dropRequests
  try dsimp only [-Nat.reducePow]
  repeat' first
    | with_reducible exact Steady.refl _
    | with_reducible refine (steady_mYm _ _).after ?_
    | with_reducible refine (steady_dropEntry ..).after ?_
    | intro _
    | split

theorem steady_routerFailed (r : Huid) (s : State) : Steady s (routerFailed r s) := by
  unfold routerFailed
  try dsimp only [-Nat.reducePow]
  repeat' first
    | with_reducible exact Steady.refl _
    | with_reducible refine (steady_mYm _ _).after ?_
    | with_reducible refine (steady_meshChanged ..).after ?_
    | with_reducible refine (steady_linkDown ..).after ?_
    | with_reducible refine (steady_dropRequests ..).after ?_
    | with_reducible refine (steady_foldl _ ?_ _ _).after ?_
    | with_reducible refine (steady_foldl2 _ ?_ _ _).after ?_
    | intro _
    | split

theorem sound_rerouteCtx (c : Nat) (p : Plan) (s : State) : Sound s (rerouteCtx c p s) := by
  unfold rerouteCtx
  try dsimp only [-Nat.reducePow]
  repeat' first
    | with_reducible exact Sound.refl _
    | with_reducible refine (sound_orderReplay ..).after ?_
    | intro _
    | split

theorem sound_rerouteReplay (sectors : List Nat) (s : State) : Sound s (rerouteReplay sectors s) := by
  unfold rerouteReplay
  try dsimp only [-Nat.reducePow]
  repeat' first
    | with_reducible exact Sound.refl _
    | with_reducible refine (sound_rerouteCtx ..).after ?_
    | with_reducible refine (sound_foldl _ ?_ _ _).after ?_
    | with_reducible refine (sound_foldl2 _ ?_ _ _).after ?_
    | intro _
    | split

theorem sound_installLive (s : State) : Sound s (installLive s) := by
  unfold installLive
  try dsimp only [-Nat.reducePow]
  repeat' first
    | with_reducible exact Sound.refl _
    | with_reducible refine (steady_mYm _ _).sound.after ?_
    | with_reducible refine (steady_bump ..).sound.after ?_
    | with_reducible refine (steady_dropEntry ..).sound.after ?_
    | with_reducible refine (sound_rerouteReplay ..).after ?_
    | intro _
    | split

theorem sound_ymAdvance (s : State) : Sound s (ymAdvance s) := by
  unfold ymAdvance
  try dsimp only [-Nat.reducePow]
  repeat' first
    | with_reducible exact Sound.refl _
    | with_reducible refine (steady_epochSet ..).sound.after ?_
    | with_reducible refine (sound_installLive ..).after ?_
    | intro _
    | split

theorem steady_pollDone (s : State) : Steady s (pollDone s) := by
  unfold pollDone
  try dsimp only [-Nat.reducePow]
  repeat' first
    | with_reducible exact Steady.refl _
    | with_reducible refine (steady_mYm _ _).after ?_
    | intro _
    | split

theorem steady_countReadPoll (s : State) : Steady s (countReadPoll s) := by
  unfold countReadPoll
  try dsimp only [-Nat.reducePow]
  repeat' first
    | with_reducible exact Steady.refl _
    | with_reducible refine (steady_mYm _ _).after ?_
    | with_reducible refine (steady_pumpFcp ..).after ?_
    | with_reducible refine (steady_pollDone ..).after ?_
    | intro _
    | split

theorem steady_retireTimeout (s : State) : Steady s (retireTimeout s) := by
  unfold retireTimeout
  try dsimp only [-Nat.reducePow]
  repeat' first
    | with_reducible exact Steady.refl _
    | with_reducible refine (steady_mYm _ _).after ?_
    | with_reducible refine (steady_bump ..).after ?_
    | with_reducible refine (steady_reportSelf ..).after ?_
    | intro _
    | split

theorem steady_wordWritten (q : FcpReq) (s : State) : Steady s (wordWritten q s) := by
  unfold wordWritten
  try dsimp only [-Nat.reducePow]
  repeat' first
    | with_reducible exact Steady.refl _
    | with_reducible refine (steady_mYm _ _).after ?_
    | with_reducible refine (steady_bump ..).after ?_

theorem steady_fcpError (r : Huid) (s : State) : Steady s (fcpError r s) := by
  unfold fcpError
  try dsimp only [-Nat.reducePow]
  repeat' first
    | with_reducible exact Steady.refl _
    | with_reducible refine (steady_mYm _ _).after ?_
    | with_reducible refine (steady_ymReport ..).after ?_

theorem steady_answered (q : FcpReq) (s : State) : Steady s (answered q s) := by
  unfold answered
  try dsimp only [-Nat.reducePow]
  repeat' first
    | with_reducible exact Steady.refl _
    | with_reducible refine (steady_mYm _ _).after ?_
    | with_reducible refine (steady_dropEntry ..).after ?_
    | intro _
    | split

theorem sound_fcpResponse (header data : W64) (s : State) : Sound s (fcpResponse header data s) := by
  unfold fcpResponse
  try dsimp only [-Nat.reducePow]
  repeat' first
    | with_reducible exact Sound.refl _
    | with_reducible refine (steady_mYm _ _).sound.after ?_
    | with_reducible refine (steady_pumpFcp ..).sound.after ?_
    | with_reducible refine (steady_routerFailed ..).sound.after ?_
    | with_reducible refine (sound_ymAdvance ..).after ?_
    | with_reducible refine (steady_pollDone ..).sound.after ?_
    | with_reducible refine (steady_wordWritten ..).sound.after ?_
    | with_reducible refine (steady_fcpError ..).sound.after ?_
    | with_reducible refine (steady_answered ..).sound.after ?_
    | intro _
    | split

theorem sound_fcpTimeout (target : Huid) (s : State) : Sound s (fcpTimeout target s) := by
  unfold fcpTimeout
  try dsimp only [-Nat.reducePow]
  repeat' first
    | with_reducible exact Sound.refl _
    | with_reducible refine (steady_bump ..).sound.after ?_
    | with_reducible refine (steady_pumpFcp ..).sound.after ?_
    | with_reducible refine (steady_routerFailed ..).sound.after ?_
    | with_reducible refine (sound_ymAdvance ..).after ?_
    | with_reducible refine (steady_pollDone ..).sound.after ?_
    | with_reducible refine (steady_fcpError ..).sound.after ?_
    | with_reducible refine (sound_foldl _ ?_ _ _).after ?_
    | with_reducible refine (sound_foldl2 _ ?_ _ _).after ?_
    | intro _

theorem sound_installStart (s : State) : Sound s (installStart s) := by
  unfold installStart
  try dsimp only [-Nat.reducePow]
  repeat' first
    | with_reducible exact Sound.refl _
    | with_reducible refine (steady_computeInstall ..).sound.after ?_
    | with_reducible refine (steady_reachUpdate ..).sound.after ?_
    | with_reducible refine (sound_ymAdvance ..).after ?_
    | intro _
    | split

theorem steady_routeMiss (s : State) : Steady s (routeMiss s) := by
  unfold routeMiss
  try dsimp only [-Nat.reducePow]
  repeat' first
    | with_reducible exact Steady.refl _
    | with_reducible refine (steady_bump ..).after ?_

end Sys2Proof.Machine
end

