-- ==== Sys2Proof/Laws/Keeps4.lean ====
section
/-!
SUPPORT. What the operations of these files of the machine leave alone: Tracker, Twin, Perim, Shadow, Tick, Stages,
Repair.
-/
namespace Sys2Proof.Machine

/-! ### Tracker -/

theorem steady_tryEntry (cls : Nat) (target : Huid) (s : State) : Steady s (tryEntry cls target s) := by
  unfold tryEntry
  try dsimp only [-Nat.reducePow]
  repeat' first
    | with_reducible exact Steady.refl _
    | with_reducible refine (steady_takeEntry ..).after ?_
    | intro _
    | split

theorem steady_chipReset (target : Huid) (s : State) : Steady s (chipReset target s) := by
  unfold chipReset
  try dsimp only [-Nat.reducePow]
  repeat' first
    | with_reducible exact Steady.refl _
    | with_reducible refine (steady_mCt _ _).after ?_
    | with_reducible refine (steady_tryEntry ..).after ?_
    | intro _
    | split

theorem steady_resetHang (n : Nat) (s : State) : Steady s (resetHang n s) := by
  unfold resetHang
  try dsimp only [-Nat.reducePow]
  repeat' first
    | with_reducible exact Steady.refl _
    | with_reducible refine (steady_reportUnit ..).after ?_
    | with_reducible refine (steady_chipReset ..).after ?_

theorem steady_seqOrder (n op : Nat) (mask : W64) (s : State) : Steady s (seqOrder n op mask s) := by
  unfold seqOrder
  try dsimp only [-Nat.reducePow]
  repeat' first
    | with_reducible exact Steady.refl _
    | with_reducible refine (steady_mSector ..).after ?_
    | with_reducible refine (steady_scStart ..).after ?_

theorem steady_endOutranked (o : ScOrder) (s : State) : Steady s (endOutranked o s) := by
  unfold endOutranked
  try dsimp only [-Nat.reducePow]
  repeat' first
    | with_reducible exact Steady.refl _
    | with_reducible refine (steady_bump ..).after ?_
    | with_reducible refine (steady_endHost ..).after ?_
    | intro _
    | split

theorem steady_sectorReset (n : Nat) (purposes : List (Nat × W64)) (s : State) : Steady s (sectorReset n purposes s)
    := by
  unfold sectorReset
  try dsimp only [-Nat.reducePow]
  repeat' first
    | with_reducible exact Steady.refl _
    | with_reducible refine (steady_mVu _ _).after ?_
    | with_reducible refine (steady_bump ..).after ?_
    | with_reducible refine (steady_mSector ..).after ?_
    | with_reducible refine (steady_haltQuiet ..).after ?_
    | with_reducible refine (steady_voidSessionsWhere ..).after ?_
    | with_reducible refine (steady_dropTargets ..).after ?_
    | with_reducible refine (steady_seqOrder ..).after ?_
    | with_reducible refine (steady_endOutranked ..).after ?_
    | with_reducible refine (steady_foldl _ ?_ _ _).after ?_
    | with_reducible refine (steady_foldl2 _ ?_ _ _).after ?_
    | intro _
    | split

theorem steady_killCheck (s : State) : Steady s (killCheck s) := by
  unfold killCheck
  try dsimp only [-Nat.reducePow]
  repeat' first
    | with_reducible exact Steady.refl _
    | with_reducible refine (steady_mCt _ _).after ?_
    | with_reducible refine (steady_hostDone ..).after ?_
    | with_reducible refine (steady_foldl _ ?_ _ _).after ?_
    | with_reducible refine (steady_foldl2 _ ?_ _ _).after ?_
    | intro _

theorem steady_killSectorDone (f : Kill → Bool) (n : Nat) (s : State) : Steady s (killSectorDone f n s) := by
  unfold killSectorDone
  try dsimp only [-Nat.reducePow]
  repeat' first
    | with_reducible exact Steady.refl _
    | with_reducible refine (steady_mCt _ _).after ?_
    | with_reducible refine (steady_killCheck ..).after ?_

theorem steady_killErased (c : Nat) (s : State) : Steady s (killErased c s) := by
  unfold killErased
  try dsimp only [-Nat.reducePow]
  repeat' first
    | with_reducible exact Steady.refl _
    | with_reducible refine (steady_mCt _ _).after ?_
    | with_reducible refine (steady_ctxFence ..).after ?_
    | with_reducible refine (steady_killCheck ..).after ?_
    | intro _
    | split

theorem sound_kill (c master : Nat) (w : W64) (s : State) : Sound s (kill c master w s) := by
  unfold kill
  try dsimp only [-Nat.reducePow]
  repeat' first
    | with_reducible exact Sound.refl _
    | with_reducible refine (steady_mCt _ _).sound.after ?_
    | with_reducible refine (steady_bump ..).sound.after ?_
    | with_reducible refine (sound_killPlans ..).after ?_
    | with_reducible refine (steady_abandonDistil ..).sound.after ?_
    | with_reducible refine (steady_killErased ..).sound.after ?_
    | intro _
    | split

theorem sound_erasureComplete (c : Nat) (s : State) : Sound s (erasureComplete c s) := by
  unfold erasureComplete
  try dsimp only [-Nat.reducePow]
  repeat' first
    | with_reducible exact Sound.refl _
    | with_reducible refine (sound_finishErasure ..).after ?_
    | with_reducible refine (steady_killErased ..).sound.after ?_
    | intro _
    | split

theorem steady_orderDone (p : Nat × W64) (s : State) : Steady s (orderDone p s) := by
  unfold orderDone
  try dsimp only [-Nat.reducePow]
  repeat' first
    | with_reducible exact Steady.refl _
    | with_reducible refine (steady_hostDone ..).after ?_
    | with_reducible refine (steady_mPad ..).after ?_
    | with_reducible refine (steady_remapFenced ..).after ?_
    | intro _
    | split

theorem steady_orderDones (o : ScOrder) (s : State) : Steady s (orderDones o s) := by
  unfold orderDones
  try dsimp only [-Nat.reducePow]
  repeat' first
    | with_reducible exact Steady.refl _
    | with_reducible refine (steady_orderDone ..).after ?_
    | with_reducible refine (steady_foldl _ ?_ _ _).after ?_
    | with_reducible refine (steady_foldl2 _ ?_ _ _).after ?_
    | intro _

theorem steady_resetEnd (n : Nat) (s : State) : Steady s (resetEnd n s) := by
  unfold resetEnd
  try dsimp only [-Nat.reducePow]
  repeat' first
    | with_reducible exact Steady.refl _
    | with_reducible refine (steady_mSector ..).after ?_
    | with_reducible refine (steady_scStart ..).after ?_
    | with_reducible refine (steady_fenceOrder ..).after ?_
    | with_reducible refine (steady_remapFenced ..).after ?_
    | with_reducible refine (steady_killSectorDone ..).after ?_
    | with_reducible refine (steady_orderDone ..).after ?_
    | with_reducible refine (steady_foldl _ ?_ _ _).after ?_
    | with_reducible refine (steady_foldl2 _ ?_ _ _).after ?_
    | intro _
    | split

theorem steady_seqNext (n : Nat) (s : State) : Steady s (seqNext n s) := by
  unfold seqNext
  try dsimp only [-Nat.reducePow]
  repeat' first
    | with_reducible exact Steady.refl _
    | with_reducible refine (steady_mSector ..).after ?_
    | with_reducible refine (steady_seqOrder ..).after ?_
    | with_reducible refine (steady_resetEnd ..).after ?_
    | intro _
    | split

theorem steady_deadlock (cycle : List (Huid × Nat)) (s : State) : Steady s (deadlock cycle s) := by
  unfold deadlock
  try dsimp only [-Nat.reducePow]
  repeat' first
    | with_reducible exact Steady.refl _
    | with_reducible refine (steady_mVu _ _).after ?_
    | with_reducible refine (steady_bump ..).after ?_
    | with_reducible refine (steady_raise ..).after ?_
    | with_reducible refine (steady_ctxFence ..).after ?_
    | with_reducible refine (steady_haltQuiet ..).after ?_
    | with_reducible refine (steady_foldl _ ?_ _ _).after ?_
    | with_reducible refine (steady_foldl2 _ ?_ _ _).after ?_
    | intro _
    | split

theorem steady_chainStep (h : Huid) (r : W64) (c : Chain) (s : State) : Steady s (chainStep h r c s) := by
  unfold chainStep
  try dsimp only [-Nat.reducePow]
  repeat' first
    | with_reducible exact Steady.refl _
    | with_reducible refine (steady_mCt _ _).after ?_
    | with_reducible refine (steady_waitQuery ..).after ?_
    | with_reducible refine (steady_deadlock ..).after ?_
    | intro _
    | split

theorem steady_waitAnswered (h : Huid) (r : W64) (s : State) : Steady s (waitAnswered h r s) := by
  unfold waitAnswered
  try dsimp only [-Nat.reducePow]
  repeat' first
    | with_reducible exact Steady.refl _
    | with_reducible refine (steady_chainStep ..).after ?_
    | with_reducible refine (steady_foldl _ ?_ _ _).after ?_
    | with_reducible refine (steady_foldl2 _ ?_ _ _).after ?_
    | intro _

theorem steady_waitLost (h : Huid) (s : State) : Steady s (waitLost h s) := by
  unfold waitLost
  try dsimp only [-Nat.reducePow]
  repeat' first
    | with_reducible exact Steady.refl _
    | with_reducible refine (steady_mCt _ _).after ?_

theorem steady_requeueRun (l : Nat) (s : State) : Steady s (requeueRun l s) := by
  unfold requeueRun
  try dsimp only [-Nat.reducePow]
  repeat' first
    | with_reducible exact Steady.refl _
    | with_reducible refine (steady_mLane ..).after ?_

theorem steady_engineReset (h : Huid) (w : Option W64) (s : State) : Steady s (engineReset h w s) := by
  unfold engineReset
  try dsimp only [-Nat.reducePow]
  repeat' first
    | with_reducible exact Steady.refl _
    | with_reducible refine (steady_mCt _ _).after ?_
    | with_reducible refine (steady_bump ..).after ?_
    | with_reducible refine (steady_tryEntry ..).after ?_
    | with_reducible refine (steady_requeueRun ..).after ?_
    | with_reducible refine (steady_foldl _ ?_ _ _).after ?_
    | with_reducible refine (steady_foldl2 _ ?_ _ _).after ?_
    | intro _
    | split

theorem steady_clearCollectors (s : State) : Steady s (clearCollectors s) := by
  unfold clearCollectors
  try dsimp only [-Nat.reducePow]
  repeat' first
    | with_reducible exact Steady.refl _
    | with_reducible refine (steady_mFc _ _).after ?_
    | with_reducible refine (steady_bump ..).after ?_
    | with_reducible refine (steady_foldl _ ?_ _ _).after ?_
    | with_reducible refine (steady_foldl2 _ ?_ _ _).after ?_
    | intro _
    | split

theorem steady_partReset (words : List W64) (s : State) : Steady s (partReset words s) := by
  unfold partReset
  try dsimp only [-Nat.reducePow]
  repeat' first
    | with_reducible exact Steady.refl _
    | with_reducible refine (steady_mCt _ _).after ?_
    | with_reducible refine (steady_mVu _ _).after ?_
    | with_reducible refine (steady_bump ..).after ?_
    | with_reducible refine (steady_hostDone ..).after ?_
    | with_reducible refine (steady_haltQuiet ..).after ?_
    | with_reducible refine (steady_abandonDistil ..).after ?_
    | with_reducible refine (steady_voidSessionsWhere ..).after ?_
    | with_reducible refine (steady_tryEntry ..).after ?_
    | with_reducible refine (steady_clearCollectors ..).after ?_
    | with_reducible refine (steady_foldl _ ?_ _ _).after ?_
    | with_reducible refine (steady_foldl2 _ ?_ _ _).after ?_
    | intro _
    | split

theorem steady_partHang (s : State) : Steady s (partHang s) := by
  unfold partHang
  try dsimp only [-Nat.reducePow]
  repeat' first
    | with_reducible exact Steady.refl _
    | with_reducible refine (steady_mCt _ _).after ?_
    | with_reducible refine (steady_reportUnit ..).after ?_
    | with_reducible refine (steady_hostDone ..).after ?_
    | with_reducible refine (steady_dumpStart ..).after ?_
    | with_reducible refine (steady_foldl _ ?_ _ _).after ?_
    | with_reducible refine (steady_foldl2 _ ?_ _ _).after ?_
    | intro _

theorem sound_orderFailed (n : Nat) (o : ScOrder) (s : State) : Sound s (orderFailed n o s) := by
  unfold orderFailed
  try dsimp only [-Nat.reducePow]
  repeat' first
    | with_reducible exact Sound.refl _
    | with_reducible refine (steady_mSector ..).sound.after ?_
    | with_reducible refine (steady_endHost ..).sound.after ?_
    | with_reducible refine (sound_scrubDone ..).after ?_
    | with_reducible refine (steady_musterUnfenced ..).sound.after ?_
    | with_reducible refine (steady_resetHang ..).sound.after ?_
    | with_reducible refine (steady_sectorReset ..).sound.after ?_
    | with_reducible refine (steady_resetEnd ..).sound.after ?_
    | with_reducible refine (steady_seqNext ..).sound.after ?_
    | with_reducible refine (steady_waitLost ..).sound.after ?_
    | with_reducible refine (sound_foldl _ ?_ _ _).after ?_
    | with_reducible refine (sound_foldl2 _ ?_ _ _).after ?_
    | intro _
    | split

theorem sound_purposesDone (n : Nat) (o : ScOrder) (r : W64) (s : State) : Sound s (purposesDone n o r s) := by
  unfold purposesDone
  try dsimp only [-Nat.reducePow]
  repeat' first
    | with_reducible exact Sound.refl _
    | with_reducible refine (steady_remapFenced ..).sound.after ?_
    | with_reducible refine (sound_scrubDone ..).after ?_
    | with_reducible refine (steady_musterUnfenced ..).sound.after ?_
    | with_reducible refine (steady_killSectorDone ..).sound.after ?_
    | with_reducible refine (steady_orderDones ..).sound.after ?_
    | with_reducible refine (steady_seqNext ..).sound.after ?_
    | with_reducible refine (steady_waitAnswered ..).sound.after ?_
    | with_reducible refine (sound_foldl _ ?_ _ _).after ?_
    | with_reducible refine (sound_foldl2 _ ?_ _ _).after ?_
    | intro _
    | split

theorem steady_dropOrderEntry (n : Nat) (o : ScOrder) (s : State) : Steady s (dropOrderEntry n o s) := by
  unfold dropOrderEntry
  try dsimp only [-Nat.reducePow]
  repeat' first
    | with_reducible exact Steady.refl _
    | with_reducible refine (steady_dropEntry ..).after ?_
    | intro _
    | split

theorem steady_portFree (n : Nat) (s : State) : Steady s (portFree n s) := by
  unfold portFree
  try dsimp only [-Nat.reducePow]
  repeat' first
    | with_reducible exact Steady.refl _
    | with_reducible refine (steady_mSector ..).after ?_

theorem steady_timedOut (c : Cmd) (s : State) : Steady s (timedOut c s) := by
  unfold timedOut
  try dsimp only [-Nat.reducePow]
  repeat' first
    | with_reducible exact Steady.refl _
    | with_reducible refine (steady_mCt _ _).after ?_
    | with_reducible refine (steady_bump ..).after ?_
    | with_reducible refine (steady_reportUnit ..).after ?_

theorem sound_scAck (n status : Nat) (r : W64) (s : State) : Sound s (scAck n status r s) := by
  unfold scAck
  try dsimp only [-Nat.reducePow]
  repeat' first
    | with_reducible exact Sound.refl _
    | with_reducible refine (steady_mSector ..).sound.after ?_
    | with_reducible refine (steady_dropEntry ..).sound.after ?_
    | with_reducible refine (steady_scStart ..).sound.after ?_
    | with_reducible refine (sound_orderFailed ..).after ?_
    | with_reducible refine (sound_purposesDone ..).after ?_
    | with_reducible refine (steady_dropOrderEntry ..).sound.after ?_
    | with_reducible refine (steady_portFree ..).sound.after ?_
    | with_reducible refine (steady_timedOut ..).sound.after ?_
    | intro _
    | split

theorem steady_chipFailed (target : Huid) (s : State) : Steady s (chipFailed target s) := by
  unfold chipFailed
  try dsimp only [-Nat.reducePow]
  repeat' first
    | with_reducible exact Steady.refl _
    | with_reducible refine (steady_mCt _ _).after ?_
    | with_reducible refine (steady_reportUnit ..).after ?_
    | with_reducible refine (steady_mSector ..).after ?_
    | with_reducible refine (steady_reachUpdate ..).after ?_
    | intro _
    | split

theorem sound_sectorTimeout (n : Nat) (s : State) : Sound s (sectorTimeout n s) := by
  unfold sectorTimeout
  try dsimp only [-Nat.reducePow]
  repeat' first
    | with_reducible exact Sound.refl _
    | with_reducible refine (steady_mSector ..).sound.after ?_
    | with_reducible refine (sound_orderFailed ..).after ?_
    | intro _
    | split

theorem sound_ctTimeout (k : Nat) (s : State) : Sound s (ctTimeout k s) := by
  unfold ctTimeout
  try dsimp only [-Nat.reducePow]
  repeat' first
    | with_reducible exact Sound.refl _
    | with_reducible refine (steady_mCt _ _).sound.after ?_
    | with_reducible refine (steady_dropEntry ..).sound.after ?_
    | with_reducible refine (steady_hostDone ..).sound.after ?_
    | with_reducible refine (sound_fcpTimeout ..).after ?_
    | with_reducible refine (steady_partReset ..).sound.after ?_
    | with_reducible refine (steady_partHang ..).sound.after ?_
    | with_reducible refine (steady_timedOut ..).sound.after ?_
    | with_reducible refine (steady_chipFailed ..).sound.after ?_
    | with_reducible refine (sound_sectorTimeout ..).after ?_
    | with_reducible refine (sound_foldl _ ?_ _ _).after ?_
    | with_reducible refine (sound_foldl2 _ ?_ _ _).after ?_
    | intro _
    | split

theorem steady_scWithdrawTimeout (n : Nat) (s : State) : Steady s (scWithdrawTimeout n s) := by
  unfold scWithdrawTimeout
  try dsimp only [-Nat.reducePow]
  repeat' first
    | with_reducible exact Steady.refl _
    | with_reducible refine (steady_mSector ..).after ?_
    | with_reducible refine (steady_resetHang ..).after ?_
    | intro _
    | split

theorem sound_ctEntryFree (s : State) : Sound s (ctEntryFree s) := by
  unfold ctEntryFree
  try dsimp only [-Nat.reducePow]
  repeat' first
    | with_reducible exact Sound.refl _
    | with_reducible refine (steady_mCt _ _).sound.after ?_
    | with_reducible refine (steady_bump ..).sound.after ?_
    | with_reducible refine (steady_mSector ..).sound.after ?_
    | with_reducible refine (steady_scStart ..).sound.after ?_
    | with_reducible refine (steady_pumpFcp ..).sound.after ?_
    | with_reducible refine (sound_ymAdvance ..).after ?_
    | with_reducible refine (sound_foldl _ ?_ _ _).after ?_
    | with_reducible refine (sound_foldl2 _ ?_ _ _).after ?_
    | intro _
    | split

theorem steady_orderEnds (who : Nat) (w : W64) (status : Nat) (s : State) : Steady s (orderEnds who w status s) := by
  unfold orderEnds
  try dsimp only [-Nat.reducePow]
  repeat' first
    | with_reducible exact Steady.refl _
    | with_reducible refine (steady_hostDone ..).after ?_
    | intro _
    | split

theorem sound_killOrder (who : Nat) (w : W64) (s : State) : Sound s (killOrder who w s) := by
  unfold killOrder
  try dsimp only [-Nat.reducePow]
  repeat' first
    | with_reducible exact Sound.refl _
    | with_reducible refine (sound_kill ..).after ?_

theorem steady_outrankedOrder (who : Nat) (w : W64) (s : State) : Steady s (outrankedOrder who w s) := by
  unfold outrankedOrder
  try dsimp only [-Nat.reducePow]
  repeat' first
    | with_reducible exact Steady.refl _
    | with_reducible refine (steady_bump ..).after ?_
    | with_reducible refine (steady_orderEnds ..).after ?_

theorem sound_fenceCoreOrder (who : Nat) (w : W64) (s : State) : Sound s (fenceCoreOrder who w s) := by
  unfold fenceCoreOrder
  try dsimp only [-Nat.reducePow]
  repeat' first
    | with_reducible exact Sound.refl _
    | with_reducible refine (steady_mYm _ _).sound.after ?_
    | with_reducible refine (steady_fenceOrder ..).sound.after ?_
    | with_reducible refine (steady_mPad ..).sound.after ?_
    | with_reducible refine (sound_voidVote ..).after ?_
    | with_reducible refine (steady_voidSession ..).sound.after ?_
    | with_reducible refine (steady_orderDone ..).sound.after ?_
    | with_reducible refine (steady_orderEnds ..).sound.after ?_
    | with_reducible refine (steady_outrankedOrder ..).sound.after ?_
    | intro _
    | split

theorem steady_unfenceCoreOrder (who : Nat) (w : W64) (s : State) : Steady s (unfenceCoreOrder who w s) := by
  unfold unfenceCoreOrder
  try dsimp only [-Nat.reducePow]
  repeat' first
    | with_reducible exact Steady.refl _
    | with_reducible refine (steady_unfenceOrder ..).after ?_
    | with_reducible refine (steady_orderDone ..).after ?_
    | with_reducible refine (steady_orderEnds ..).after ?_
    | with_reducible refine (steady_outrankedOrder ..).after ?_
    | intro _
    | split

theorem steady_resetSectorOrder (who : Nat) (w : W64) (s : State) : Steady s (resetSectorOrder who w s) := by
  unfold resetSectorOrder
  try dsimp only [-Nat.reducePow]
  repeat' first
    | with_reducible exact Steady.refl _
    | with_reducible refine (steady_sectorReset ..).after ?_
    | with_reducible refine (steady_orderEnds ..).after ?_
    | intro _
    | split

theorem steady_scrubSectorOrder (who : Nat) (w : W64) (s : State) : Steady s (scrubSectorOrder who w s) := by
  unfold scrubSectorOrder
  try dsimp only [-Nat.reducePow]
  repeat' first
    | with_reducible exact Steady.refl _
    | with_reducible refine (steady_scOrder ..).after ?_
    | with_reducible refine (steady_orderEnds ..).after ?_
    | intro _
    | split

theorem steady_resetEngineOrder (who : Nat) (w : W64) (s : State) : Steady s (resetEngineOrder who w s) := by
  unfold resetEngineOrder
  try dsimp only [-Nat.reducePow]
  repeat' first
    | with_reducible exact Steady.refl _
    | with_reducible refine (steady_engineReset ..).after ?_
    | with_reducible refine (steady_orderEnds ..).after ?_
    | with_reducible refine (steady_outrankedOrder ..).after ?_
    | intro _
    | split

theorem steady_resetPartOrder (who : Nat) (w : W64) (s : State) : Steady s (resetPartOrder who w s) := by
  unfold resetPartOrder
  try dsimp only [-Nat.reducePow]
  repeat' first
    | with_reducible exact Steady.refl _
    | with_reducible refine (steady_partReset ..).after ?_

theorem sound_ctOrder (who : Nat) (w : W64) (s : State) : Sound s (ctOrder who w s) := by
  unfold ctOrder
  try dsimp only [-Nat.reducePow]
  repeat' first
    | with_reducible exact Sound.refl _
    | with_reducible refine (steady_reportSelf ..).sound.after ?_
    | with_reducible refine (sound_killOrder ..).after ?_
    | with_reducible refine (sound_fenceCoreOrder ..).after ?_
    | with_reducible refine (steady_unfenceCoreOrder ..).sound.after ?_
    | with_reducible refine (steady_resetSectorOrder ..).sound.after ?_
    | with_reducible refine (steady_scrubSectorOrder ..).sound.after ?_
    | with_reducible refine (steady_resetEngineOrder ..).sound.after ?_
    | with_reducible refine (steady_resetPartOrder ..).sound.after ?_
    | intro _
    | split

theorem steady_ctOrderWrite (priv : BitVec 2) (w : W64) (f : State → State) (s : State) (hf : ∀ s, Steady s (f s)) :
    Steady s (ctOrderWrite priv w f s) := by
  unfold ctOrderWrite
  try dsimp only [-Nat.reducePow]
  repeat' first
    | with_reducible exact Steady.refl _
    | with_reducible refine (steady_reportSelf ..).after ?_
    | with_reducible refine (steady_hostDone ..).after ?_
    | with_reducible refine (steady_answer ..).after ?_
    | with_reducible refine (steady_denied ..).after ?_
    | with_reducible refine (steady_hrp _ _ ?_).after ?_
    | with_reducible refine (hf ..).after ?_
    | intro _
    | split

theorem sound_ctOrderWrite (priv : BitVec 2) (w : W64) (f : State → State) (s : State) (hf : ∀ s, Sound s (f s)) :
    Sound s (ctOrderWrite priv w f s) := by
  unfold ctOrderWrite
  try dsimp only [-Nat.reducePow]
  repeat' first
    | with_reducible exact Sound.refl _
    | with_reducible refine (steady_reportSelf ..).sound.after ?_
    | with_reducible refine (steady_hostDone ..).sound.after ?_
    | with_reducible refine (steady_answer ..).sound.after ?_
    | with_reducible refine (steady_denied ..).sound.after ?_
    | with_reducible refine (sound_hrp _ _ ?_).after ?_
    | with_reducible refine (hf ..).after ?_
    | intro _
    | split

theorem steady_orderRow (op : Nat) (priv : BitVec 2) (w : W64) (f : Nat → W64 → State → State) (s : State)
    (hf : ∀ a0 a1 s, Steady s (f a0 a1 s)) :
    Steady s (orderRow op priv w f s) := by
  unfold orderRow
  try dsimp only [-Nat.reducePow]
  repeat' first
    | with_reducible exact Steady.refl _
    | with_reducible refine (steady_ctOrderWrite _ _ _ _ ?_).after ?_
    | with_reducible refine (hf ..).after ?_
    | intro _
    | split

theorem sound_orderRow (op : Nat) (priv : BitVec 2) (w : W64) (f : Nat → W64 → State → State) (s : State)
    (hf : ∀ a0 a1 s, Sound s (f a0 a1 s)) :
    Sound s (orderRow op priv w f s) := by
  unfold orderRow
  try dsimp only [-Nat.reducePow]
  repeat' first
    | with_reducible exact Sound.refl _
    | with_reducible refine (sound_ctOrderWrite _ _ _ _ ?_).after ?_
    | with_reducible refine (hf ..).after ?_
    | intro _
    | split

/-! ### Twin -/

theorem steady_twLast (t : Token) (outcome elem : Nat) (s : State) : Steady s (twLast t outcome elem s) := by
  unfold twLast
  try dsimp only [-Nat.reducePow]
  repeat' first
    | with_reducible exact Steady.refl _
    | with_reducible refine (steady_mTwc _ _).after ?_

theorem sound_freeXtest (t : Token) (s : State) : Sound s (freeXtest t s) := by
  unfold freeXtest
  try dsimp only [-Nat.reducePow]
  repeat' first
    | with_reducible exact Sound.refl _
    | with_reducible refine (sound_dropInst ..).after ?_
    | with_reducible refine (sound_resumeDeferred ..).after ?_
    | intro _
    | split

theorem sound_xtestOutcome (p : Plan) (t : Token) (outcome : Nat) (s : State) : Sound s (xtestOutcome p t outcome s)
    := by
  unfold xtestOutcome
  try dsimp only [-Nat.reducePow]
  repeat' first
    | with_reducible exact Sound.refl _
    | with_reducible refine (steady_bumpCtx ..).sound.after ?_
    | with_reducible refine (steady_openDispute ..).sound.after ?_
    | with_reducible refine (steady_reportCores ..).sound.after ?_
    | with_reducible refine (steady_twLast ..).sound.after ?_
    | with_reducible refine (sound_freeXtest ..).after ?_
    | intro _
    | split

theorem steady_twinDone (p : Plan) (t : Token) (outcome : Nat) (s : State) : Steady s (twinDone p t outcome s) := by
  unfold twinDone
  try dsimp only [-Nat.reducePow]
  repeat' first
    | with_reducible exact Steady.refl _
    | with_reducible refine (steady_bumpCtx ..).after ?_
    | with_reducible refine (steady_openDispute ..).after ?_
    | with_reducible refine (steady_reportCores ..).after ?_
    | with_reducible refine (steady_taskPassed ..).after ?_
    | with_reducible refine (steady_twLast ..).after ?_
    | intro _
    | split

theorem steady_twinDisagree (t : Token) (s : State) : Steady s (twinDisagree t s) := by
  unfold twinDisagree
  try dsimp only [-Nat.reducePow]
  repeat' first
    | with_reducible exact Steady.refl _
    | with_reducible refine (steady_mTwc _ _).after ?_
    | with_reducible refine (steady_bumpCtx ..).after ?_
    | with_reducible refine (steady_openDispute ..).after ?_
    | with_reducible refine (steady_reportSelf ..).after ?_
    | with_reducible refine (steady_twLast ..).after ?_
    | intro _
    | split

theorem sound_twcCompare (a b : PathSay) (s : State) : Sound s (twcCompare a b s) := by
  unfold twcCompare
  try dsimp only [-Nat.reducePow]
  repeat' first
    | with_reducible exact Sound.refl _
    | with_reducible refine (steady_mTwc _ _).sound.after ?_
    | with_reducible refine (steady_bumpCtx ..).sound.after ?_
    | with_reducible refine (steady_noChecker ..).sound.after ?_
    | with_reducible refine (steady_countStale ..).sound.after ?_
    | with_reducible refine (steady_voidTask ..).sound.after ?_
    | with_reducible refine (steady_redispatchReturned ..).sound.after ?_
    | with_reducible refine (sound_xtestOutcome ..).after ?_
    | with_reducible refine (steady_twinDone ..).sound.after ?_
    | with_reducible refine (steady_twinDisagree ..).sound.after ?_
    | intro _
    | split

/-! ### Perim -/

theorem steady_peLast (p : Plan) (t : Token) (outcome mask loc column : Nat) (checker : Bool) (s : State) :
    Steady s (peLast p t outcome mask loc column checker s) := by
  unfold peLast
  try dsimp only [-Nat.reducePow]
  repeat' first
    | with_reducible exact Steady.refl _
    | with_reducible refine (steady_mPer _ _).after ?_

theorem steady_peCount (outcome : Nat) (t : Token) (s : State) : Steady s (peCount outcome t s) := by
  unfold peCount
  try dsimp only [-Nat.reducePow]
  repeat' first
    | with_reducible exact Steady.refl _
    | with_reducible refine (steady_bumpCtx ..).after ?_
    | intro _
    | split

theorem steady_perimDispute (t : Token) (p1 p2 outcome column : Nat) (s : State) :
    Steady s (perimDispute t p1 p2 outcome column s) := by
  unfold perimDispute
  try dsimp only [-Nat.reducePow]
  repeat' first
    | with_reducible exact Steady.refl _
    | with_reducible refine (steady_openDispute ..).after ?_

theorem steady_perimDone (p : Plan) (t : Token) (p1 p2 outcome mask : Nat) (s : State) :
    Steady s (perimDone p t p1 p2 outcome mask s) := by
  unfold perimDone
  try dsimp only [-Nat.reducePow]
  repeat' first
    | with_reducible exact Steady.refl _
    | with_reducible refine (steady_bumpCtx ..).after ?_
    | with_reducible refine (steady_reportCores ..).after ?_
    | with_reducible refine (steady_taskPassed ..).after ?_
    | with_reducible refine (steady_mLayerCounts ..).after ?_
    | with_reducible refine (steady_peLast ..).after ?_
    | with_reducible refine (steady_peCount ..).after ?_
    | with_reducible refine (steady_perimDispute ..).after ?_
    | intro _
    | split

theorem steady_perimDisagree (p : Plan) (t : Token) (p1 p2 : Nat) (katA katB : Bool) (s : State) :
    Steady s (perimDisagree p t p1 p2 katA katB s) := by
  unfold perimDisagree
  try dsimp only [-Nat.reducePow]
  repeat' first
    | with_reducible exact Steady.refl _
    | with_reducible refine (steady_mPer _ _).after ?_
    | with_reducible refine (steady_bumpCtx ..).after ?_
    | with_reducible refine (steady_openDispute ..).after ?_
    | with_reducible refine (steady_reportSelf ..).after ?_
    | with_reducible refine (steady_pipeKat ..).after ?_
    | with_reducible refine (steady_peLast ..).after ?_
    | with_reducible refine (steady_peCount ..).after ?_
    | intro _
    | split

theorem steady_perimHalt (p : Plan) (t : Token) (s : State) : Steady s (perimHalt p t s) := by
  unfold perimHalt
  try dsimp only [-Nat.reducePow]
  repeat' first
    | with_reducible exact Steady.refl _
    | with_reducible refine (steady_haltWith ..).after ?_

theorem steady_perimRun (p : Plan) (t : Token) (p1 p2 : Nat) (a b : PathSay) (katA katB : Bool) (s : State) :
    Steady s (perimRun p t p1 p2 a b katA katB s) := by
  unfold perimRun
  try dsimp only [-Nat.reducePow]
  repeat' first
    | with_reducible exact Steady.refl _
    | with_reducible refine (steady_bumpCtx ..).after ?_
    | with_reducible refine (steady_voidTask ..).after ?_
    | with_reducible refine (steady_redispatchReturned ..).after ?_
    | with_reducible refine (steady_perimDone ..).after ?_
    | with_reducible refine (steady_perimDisagree ..).after ?_
    | with_reducible refine (steady_perimHalt ..).after ?_
    | intro _
    | split

theorem steady_perimCommand (pipe : Nat) (a b : PathSay) (katA katB : Bool) (s : State) :
    Steady s (perimCommand pipe a b katA katB s) := by
  unfold perimCommand
  try dsimp only [-Nat.reducePow]
  repeat' first
    | with_reducible exact Steady.refl _
    | with_reducible refine (steady_mPer _ _).after ?_
    | with_reducible refine (steady_noChecker ..).after ?_
    | with_reducible refine (steady_countStale ..).after ?_
    | with_reducible refine (steady_peLast ..).after ?_
    | with_reducible refine (steady_perimRun ..).after ?_
    | intro _
    | split

theorem steady_perKatPeriod (pass : BitVec 8) (s : State) : Steady s (perKatPeriod pass s) := by
  unfold perKatPeriod
  try dsimp only [-Nat.reducePow]
  repeat' first
    | with_reducible exact Steady.refl _
    | with_reducible refine (steady_pipeKat ..).after ?_
    | with_reducible refine (steady_foldl _ ?_ _ _).after ?_
    | with_reducible refine (steady_foldl2 _ ?_ _ _).after ?_
    | intro _
    | split

/-! ### Shadow -/

theorem steady_cacheDesc (k plan desc : Nat) (s : State) : Steady s (cacheDesc k plan desc s) := by
  unfold cacheDesc
  try dsimp only [-Nat.reducePow]
  repeat' first
    | with_reducible exact Steady.refl _
    | with_reducible refine (steady_mCluster ..).after ?_

theorem sound_streamBlocks (lane n buf : Nat) (b : Bytes) (s : State) : Sound s (streamBlocks lane n buf b s) := by
  induction n generalizing buf b s with
  | zero => exact Sound.refl s
  | succ n ih =>
    unfold streamBlocks
    split
    · exact Sound.refl _
    · exact (ih ..).after (sound_mem _ _ id id (Mem.wf_write _ _) id rfl rfl)

theorem sound_stageOperands (lane : Nat) (w : Task) (s : State) : Sound s (stageOperands lane w s) := by
  unfold stageOperands
  have h := (steady_injectAt 2 lane lane (dropFlips 2 lane 1 (streamBlocks lane (w.a.length / 16384 + 1) 0 w.a
    s))).sound.after
    ((steady_dropFlips 2 lane 1 (streamBlocks lane (w.a.length / 16384 + 1) 0 w.a s)).sound.after
      (sound_streamBlocks lane (w.a.length / 16384 + 1) 0 w.a s))
  dsimp only
  split
  · exact (steady_injectAt ..).sound.after ((sound_mem _ _ id (Mem.wf_write _ _) id id rfl rfl).after h)
  · exact h

theorem steady_ccElem (lane count first : Nat) (s : State) : Steady s (ccElem lane count first s) := by
  unfold ccElem
  try dsimp only [-Nat.reducePow]
  repeat' first
    | with_reducible exact Steady.refl _
    | with_reducible refine (steady_mCluster ..).after ?_

theorem steady_shadowDiff (p : Plan) (t : Token) (s : State) : Steady s (shadowDiff p t s) := by
  unfold shadowDiff
  try dsimp only [-Nat.reducePow]
  repeat' first
    | with_reducible exact Steady.refl _
    | with_reducible refine (steady_reportCores ..).after ?_

theorem steady_laneIdle (lane : Nat) (s : State) : Steady s (laneIdle lane s) := by
  unfold laneIdle
  try dsimp only [-Nat.reducePow]
  repeat' first
    | with_reducible exact Steady.refl _
    | with_reducible refine (steady_mLane ..).after ?_

theorem steady_shadowShape (p : Plan) (t : Token) (lane : Nat) (s : State) : Steady s (shadowShape p t lane s) := by
  unfold shadowShape
  try dsimp only [-Nat.reducePow]
  repeat' first
    | with_reducible exact Steady.refl _
    | with_reducible refine (steady_bumpCtx ..).after ?_
    | with_reducible refine (steady_openDispute ..).after ?_
    | with_reducible refine (steady_ccLast ..).after ?_
    | with_reducible refine (steady_redispatchReturned ..).after ?_
    | with_reducible refine (steady_shadowDiff ..).after ?_

theorem sound_shadowTaskStart (lane : Nat) (s : State) : Sound s (shadowTaskStart lane s) := by
  unfold shadowTaskStart
  try dsimp only [-Nat.reducePow]
  repeat' first
    | with_reducible exact Sound.refl _
    | with_reducible refine (steady_mLane ..).sound.after ?_
    | with_reducible refine (steady_countStale ..).sound.after ?_
    | with_reducible refine (steady_cacheDesc ..).sound.after ?_
    | with_reducible refine (sound_stageOperands ..).after ?_
    | with_reducible refine (steady_shadowShape ..).sound.after ?_
    | intro _
    | split

theorem sound_partialRecord (p : Plan) (t : Token) (part e : Nat) (r : Bytes) (s : State) :
    Sound s (partialRecord p t part e r s) := by
  unfold partialRecord
  try dsimp only [-Nat.reducePow]
  repeat' first
    | with_reducible exact Sound.refl _
    | with_reducible refine (steady_mInst ..).sound.after ?_
    | with_reducible refine (sound_loftWrite ..).after ?_
    | intro _
    | split

theorem steady_pushFailed (p : Plan) (m : Push) (t : Token) (s : State) : Steady s (pushFailed p m t s) := by
  unfold pushFailed
  try dsimp only [-Nat.reducePow]
  repeat' first
    | with_reducible exact Steady.refl _
    | with_reducible refine (steady_bumpCtx ..).after ?_
    | with_reducible refine (steady_report ..).after ?_
    | with_reducible refine (steady_ccLast ..).after ?_

theorem sound_combinePush (m : Push) (s : State) : Sound s (combinePush m s) := by
  unfold combinePush
  try dsimp only [-Nat.reducePow]
  repeat' first
    | with_reducible exact Sound.refl _
    | with_reducible refine (steady_bumpCtx ..).sound.after ?_
    | with_reducible refine (steady_countStale ..).sound.after ?_
    | with_reducible refine (sound_needInst ..).after ?_
    | with_reducible refine (steady_mGroup ..).sound.after ?_
    | with_reducible refine (sound_setGroupFull ..).after ?_
    | with_reducible refine (sound_partialRecord ..).after ?_
    | with_reducible refine (steady_pushFailed ..).sound.after ?_
    | with_reducible refine (sound_foldl _ ?_ _ _).after ?_
    | with_reducible refine (sound_foldl2 _ ?_ _ _).after ?_
    | intro _
    | split

theorem steady_countProducts (t : Token) (n : Nat) (s : State) : Steady s (countProducts t n s) := by
  unfold countProducts
  try dsimp only [-Nat.reducePow]
  repeat' first
    | with_reducible exact Steady.refl _
    | with_reducible refine (steady_mSa _ _ ?_).after ?_
    | with_reducible refine (steady_bumpCtx ..).after ?_
    | intro _
    | with_reducible exact ⟨rfl, rfl⟩

theorem steady_laneSuspect (p : Plan) (t : Token) (lane outcome : Nat) (katPass : Bool) (s : State) :
    Steady s (laneSuspect p t lane outcome katPass s) := by
  unfold laneSuspect
  try dsimp only [-Nat.reducePow]
  repeat' first
    | with_reducible exact Steady.refl _
    | with_reducible refine (steady_bumpCtx ..).after ?_
    | with_reducible refine (steady_openDispute ..).after ?_
    | with_reducible refine (steady_report ..).after ?_
    | with_reducible refine (steady_mLane ..).after ?_
    | with_reducible refine (steady_mCluster ..).after ?_
    | with_reducible refine (steady_ccLast ..).after ?_
    | with_reducible refine (steady_fenceLane ..).after ?_
    | with_reducible refine (steady_laneKat ..).after ?_
    | with_reducible refine (steady_redispatchReturned ..).after ?_
    | with_reducible refine (steady_lane2Returned ..).after ?_
    | with_reducible refine (steady_laneIdle ..).after ?_
    | intro _
    | split

theorem steady_shadowOutcome (p : Plan) (t : Token) (lane count first : Nat) (out : List Nat) (s : State) :
    Steady s (shadowOutcome p t lane count first out s) := by
  unfold shadowOutcome
  try dsimp only [-Nat.reducePow]
  repeat' first
    | with_reducible exact Steady.refl _
    | with_reducible refine (steady_bumpCtx ..).after ?_
    | with_reducible refine (steady_openDispute ..).after ?_
    | with_reducible refine (steady_ccLast ..).after ?_
    | with_reducible refine (steady_taskPassed ..).after ?_
    | with_reducible refine (steady_ccElem ..).after ?_
    | with_reducible refine (steady_shadowDiff ..).after ?_
    | intro _
    | split

theorem steady_watchTask (p : Plan) (t : Token) (s : State) : Steady s (watchTask p t s) := by
  unfold watchTask
  try dsimp only [-Nat.reducePow]
  repeat' first
    | with_reducible exact Steady.refl _
    | with_reducible refine (steady_mOb _ _).after ?_
    | with_reducible refine (steady_foldl _ ?_ _ _).after ?_
    | with_reducible refine (steady_foldl2 _ ?_ _ _).after ?_
    | intro _
    | split

theorem steady_shadowCompare (p : Plan) (t : Token) (lane : Nat) (wrong : Option (BitVec 40 × BitVec 32)) (b :
    PathSay) (katPass : Bool) (s : State) :
    Steady s (shadowCompare p t lane wrong b katPass s) := by
  unfold shadowCompare
  try dsimp only [-Nat.reducePow]
  repeat' first
    | with_reducible exact Steady.refl _
    | with_reducible refine (steady_bumpCtx ..).after ?_
    | with_reducible refine (steady_voidTask ..).after ?_
    | with_reducible refine (steady_redispatchReturned ..).after ?_
    | with_reducible refine (steady_lane2Returned ..).after ?_
    | with_reducible refine (steady_laneIdle ..).after ?_
    | with_reducible refine (steady_countProducts ..).after ?_
    | with_reducible refine (steady_laneSuspect ..).after ?_
    | with_reducible refine (steady_shadowOutcome ..).after ?_
    | with_reducible refine (steady_watchTask ..).after ?_
    | intro _
    | split

theorem sound_partDone (p : Plan) (t : Token) (lane : Nat) (r : Run) (s : State) : Sound s (partDone p t lane r s)
    := by
  unfold partDone
  try dsimp only [-Nat.reducePow]
  repeat' first
    | with_reducible exact Sound.refl _
    | with_reducible refine (steady_taskPassed ..).sound.after ?_
    | with_reducible refine (steady_laneIdle ..).sound.after ?_
    | with_reducible refine (sound_combinePush ..).after ?_
    | with_reducible refine (steady_countProducts ..).sound.after ?_
    | with_reducible refine (sound_foldl _ ?_ _ _).after ?_
    | with_reducible refine (sound_foldl2 _ ?_ _ _).after ?_
    | intro _
    | split

theorem steady_laneEcc (array place inst ek : Nat) (lane : Nat) (s : State) :
    Steady s (laneEcc array place inst ek lane s).2 := by
  unfold laneEcc
  try dsimp only [-Nat.reducePow]
  repeat' first
    | with_reducible exact Steady.refl _
    | with_reducible refine (steady_draw _).after ?_
    | with_reducible refine (steady_bump ..).after ?_
    | with_reducible refine (steady_sbSoftRepair ..).after ?_
    | with_reducible refine (steady_dropFlips ..).after ?_
    | with_reducible refine (steady_eccLast ..).after ?_
    | with_reducible refine (steady_eccReport ..).after ?_
    | intro _
    | split

theorem steady_taskEcc (lane : Nat) (s : State) : Steady s (taskEcc lane s).2.2 := by
  unfold taskEcc
  try dsimp only [-Nat.reducePow]
  repeat' first
    | with_reducible exact Steady.refl _
    | with_reducible refine (steady_laneEcc ..).after ?_

theorem sound_shadowTaskDone (lane : Nat) (residueFails : Bool) (wrong : Option (BitVec 40 × BitVec 32)) (b :
    PathSay) (katPass : Bool) (s : State) :
    Sound s (shadowTaskDone lane residueFails wrong b katPass s) := by
  unfold shadowTaskDone
  try dsimp only [-Nat.reducePow]
  repeat' first
    | with_reducible exact Sound.refl _
    | with_reducible refine (steady_bumpCtx ..).sound.after ?_
    | with_reducible refine (steady_fenceLane ..).sound.after ?_
    | with_reducible refine (steady_laneIdle ..).sound.after ?_
    | with_reducible refine (steady_laneSuspect ..).sound.after ?_
    | with_reducible refine (steady_shadowCompare ..).sound.after ?_
    | with_reducible refine (sound_partDone ..).after ?_
    | with_reducible refine (steady_taskEcc ..).sound.after ?_
    | with_reducible refine (sound_foldl _ ?_ _ _).after ?_
    | with_reducible refine (sound_foldl2 _ ?_ _ _).after ?_
    | intro _
    | split

theorem steady_partialPush (lane : Nat) (s : State) : Steady s (partialPush lane s) := by
  unfold partialPush
  try dsimp only [-Nat.reducePow]
  repeat' first
    | with_reducible exact Steady.refl _
    | with_reducible refine (steady_mLane ..).after ?_
    | with_reducible refine (steady_mCluster ..).after ?_
    | intro _
    | split

theorem sound_inboundCombine (k : Nat) (s : State) : Sound s (inboundCombine k s) := by
  unfold inboundCombine
  try dsimp only [-Nat.reducePow]
  repeat' first
    | with_reducible exact Sound.refl _
    | with_reducible refine (steady_mCluster ..).sound.after ?_
    | with_reducible refine (sound_combinePush ..).after ?_
    | intro _
    | split

theorem steady_remoteRead (lane k off lines : Nat) (s : State) : Steady s (remoteRead lane k off lines s) := by
  unfold remoteRead
  try dsimp only [-Nat.reducePow]
  repeat' first
    | with_reducible exact Steady.refl _
    | with_reducible refine (steady_bump ..).after ?_
    | with_reducible refine (steady_busAnswer ..).after ?_
    | intro _
    | split

theorem steady_saKatPeriod (pass : W64) (s : State) : Steady s (saKatPeriod pass s) := by
  unfold saKatPeriod
  try dsimp only [-Nat.reducePow]
  repeat' first
    | with_reducible exact Steady.refl _
    | with_reducible refine (steady_laneKat ..).after ?_
    | with_reducible refine (steady_foldl _ ?_ _ _).after ?_
    | with_reducible refine (steady_foldl2 _ ?_ _ _).after ?_
    | intro _
    | split

theorem sound_powerCycle (c : Nat) (s : State) : Sound s (powerCycle c s) := by
  unfold powerCycle
  try dsimp only [-Nat.reducePow]
  repeat' first
    | with_reducible exact Sound.refl _
    | with_reducible refine (steady_mLane ..).sound.after ?_
    | with_reducible refine (sound_zeroCluster ..).after ?_
    | with_reducible refine (sound_foldl _ ?_ _ _).after ?_
    | with_reducible refine (sound_foldl2 _ ?_ _ _).after ?_
    | intro _

theorem sound_laneWipe (lane : Nat) (r r2 : WipeSay) (s : State) : Sound s (laneWipe lane r r2 s) := by
  unfold laneWipe
  try dsimp only [-Nat.reducePow]
  repeat' first
    | with_reducible exact Sound.refl _
    | with_reducible refine (steady_mMem _ _ ?_).sound.after ?_
    | with_reducible refine (steady_draw _).sound.after ?_
    | with_reducible refine (steady_mLane ..).sound.after ?_
    | with_reducible refine (steady_eraseFailed ..).sound.after ?_
    | with_reducible refine (sound_zeroLane ..).after ?_
    | with_reducible refine (steady_fenceLane ..).sound.after ?_
    | with_reducible refine (sound_powerCycle ..).after ?_
    | with_reducible refine (sound_foldl _ ?_ _ _).after ?_
    | with_reducible refine (sound_foldl2 _ ?_ _ _).after ?_
    | intro _
    | with_reducible exact ⟨rfl, rfl, rfl, rfl, rfl, rfl⟩
    | split

/-! ### Tick -/

theorem steady_resetLanes (ls : List Nat) (s : State) : Steady s (resetLanes ls s) := by
  unfold resetLanes
  try dsimp only [-Nat.reducePow]
  repeat' first
    | with_reducible exact Steady.refl _
    | with_reducible refine (steady_draw _).after ?_
    | with_reducible refine (steady_laneKat ..).after ?_
    | with_reducible refine (steady_foldl _ ?_ _ _).after ?_
    | with_reducible refine (steady_foldl2 _ ?_ _ _).after ?_
    | intro _

theorem steady_resetPipes (s : State) : Steady s (resetPipes s) := by
  unfold resetPipes
  try dsimp only [-Nat.reducePow]
  repeat' first
    | with_reducible exact Steady.refl _
    | with_reducible refine (steady_draw _).after ?_
    | with_reducible refine (steady_pipeKat ..).after ?_
    | with_reducible refine (steady_foldl _ ?_ _ _).after ?_
    | with_reducible refine (steady_foldl2 _ ?_ _ _).after ?_
    | intro _

theorem steady_resetPaths (s : State) : Steady s (resetPaths s) := by
  unfold resetPaths
  try dsimp only [-Nat.reducePow]
  repeat' first
    | with_reducible exact Steady.refl _
    | with_reducible refine (steady_draw _).after ?_
    | with_reducible refine (steady_twcKat ..).after ?_

theorem sound_engineEffect (e : Nat × Nat) (s : State) : Sound s (engineEffect e s) := by
  unfold engineEffect
  try dsimp only [-Nat.reducePow]
  repeat' first
    | with_reducible exact Sound.refl _
    | with_reducible refine (sound_zeroCluster ..).after ?_
    | with_reducible refine (steady_voidSessionsWhere ..).sound.after ?_
    | with_reducible refine (steady_resetLanes ..).sound.after ?_
    | with_reducible refine (steady_resetPipes ..).sound.after ?_
    | with_reducible refine (steady_resetPaths ..).sound.after ?_
    | intro _
    | split

theorem steady_engineDone (e : Huid × Option W64) (s : State) : Steady s (engineDone e s) := by
  unfold engineDone
  try dsimp only [-Nat.reducePow]
  repeat' first
    | with_reducible exact Steady.refl _
    | with_reducible refine (steady_dropEntry ..).after ?_
    | with_reducible refine (steady_hostDone ..).after ?_
    | intro _
    | split

theorem sound_enginesDone (s : State) : Sound s (enginesDone s) := by
  unfold enginesDone
  try dsimp only [-Nat.reducePow]
  repeat' first
    | with_reducible exact Sound.refl _
    | with_reducible refine (steady_mCt _ _).sound.after ?_
    | with_reducible refine (sound_engineEffect ..).after ?_
    | with_reducible refine (steady_engineDone ..).sound.after ?_
    | with_reducible refine (sound_foldl _ ?_ _ _).after ?_
    | with_reducible refine (sound_foldl2 _ ?_ _ _).after ?_
    | intro _

/-! ### Stages -/

theorem steady_tackStage (n : Nat) (s : State) : Steady s (tackStage n s) := by
  unfold tackStage
  try dsimp only [-Nat.reducePow]
  repeat' first
    | with_reducible exact Steady.refl _
    | with_reducible refine (steady_tackWrite ..).after ?_
    | with_reducible refine (steady_foldl _ ?_ _ _).after ?_
    | with_reducible refine (steady_foldl2 _ ?_ _ _).after ?_
    | intro _

theorem steady_sendBulk (die arg : Nat) (b : Bytes) (s : State) : Steady s (sendBulk die arg b s) := by
  unfold sendBulk
  try dsimp only [-Nat.reducePow]
  repeat' first
    | with_reducible exact Steady.refl _
    | with_reducible refine (steady_mHx _ _ ?_).after ?_
    | with_reducible refine (steady_hxSend ..).after ?_
    | with_reducible refine (steady_foldl _ ?_ _ _).after ?_
    | with_reducible refine (steady_foldl2 _ ?_ _ _).after ?_
    | intro _
    | with_reducible exact ⟨rfl, rfl⟩

theorem steady_sendReports (s : State) : Steady s (sendReports s) := by
  unfold sendReports
  try dsimp only [-Nat.reducePow]
  repeat' first
    | with_reducible exact Steady.refl _
    | with_reducible refine (steady_mCfg _ _).after ?_
    | with_reducible refine (steady_sendBulk ..).after ?_
    | with_reducible refine (steady_foldl _ ?_ _ _).after ?_
    | with_reducible refine (steady_foldl2 _ ?_ _ _).after ?_
    | intro _
    | split

theorem steady_stageReport (n status : Nat) (loci : List W128) (detail : Nat) (s : State) :
    Steady s (stageReport n status loci detail s) := by
  unfold stageReport
  try dsimp only [-Nat.reducePow]
  repeat' first
    | with_reducible exact Steady.refl _
    | with_reducible refine (steady_mCfg _ _).after ?_
    | with_reducible refine (steady_tackStage ..).after ?_
    | with_reducible refine (steady_sendReports ..).after ?_
    | with_reducible refine (steady_foldl _ ?_ _ _).after ?_
    | with_reducible refine (steady_foldl2 _ ?_ _ _).after ?_
    | intro _
    | split

theorem steady_stagePass (n status : Nat) (loci : List W128) (detail : Nat) (s : State) :
    Steady s (stagePass n status loci detail s) := by
  unfold stagePass
  try dsimp only [-Nat.reducePow]
  repeat' first
    | with_reducible exact Steady.refl _
    | with_reducible refine (steady_mCfg _ _).after ?_
    | with_reducible refine (steady_stageReport ..).after ?_

theorem steady_arriveBarrier0 (s : State) : Steady s (arriveBarrier0 s) := by
  unfold arriveBarrier0
  try dsimp only [-Nat.reducePow]
  repeat' first
    | with_reducible exact Steady.refl _
    | with_reducible refine (steady_mCfg _ _).after ?_
    | with_reducible refine (steady_barrierArrive ..).after ?_

theorem steady_stageFatal (n : Nat) (loci : List W128) (detail : Nat) (s : State) :
    Steady s (stageFatal n loci detail s) := by
  unfold stageFatal
  try dsimp only [-Nat.reducePow]
  repeat' first
    | with_reducible exact Steady.refl _
    | with_reducible refine (steady_mCfg _ _).after ?_
    | with_reducible refine (steady_reportSelf ..).after ?_
    | with_reducible refine (steady_stageReport ..).after ?_
    | with_reducible refine (steady_arriveBarrier0 ..).after ?_
    | intro _
    | split

theorem steady_enterService (status tries : Nat) (s : State) : Steady s (enterService status tries s) := by
  unfold enterService
  try dsimp only [-Nat.reducePow]
  repeat' first
    | with_reducible exact Steady.refl _
    | with_reducible refine (steady_mCfg _ _).after ?_
    | with_reducible refine (steady_sbWrite ..).after ?_
    | with_reducible refine (steady_stateChange ..).after ?_
    | with_reducible refine (steady_stageReport ..).after ?_

theorem steady_barrier0Released (s : State) : Steady s (barrier0Released s) := by
  unfold barrier0Released
  try dsimp only [-Nat.reducePow]
  repeat' first
    | with_reducible exact Steady.refl _
    | with_reducible refine (steady_enterService ..).after ?_
    | intro _
    | split

theorem steady_barrier0Aborted (s : State) : Steady s (barrier0Aborted s) := by
  unfold barrier0Aborted
  try dsimp only [-Nat.reducePow]
  repeat' first
    | with_reducible exact Steady.refl _
    | with_reducible refine (steady_arriveBarrier0 ..).after ?_
    | with_reducible refine (steady_enterService ..).after ?_
    | intro _
    | split

/-! ### Repair -/

theorem steady_frRefused (s : State) : Steady s (frRefused s) := by
  unfold frRefused
  try dsimp only [-Nat.reducePow]
  repeat' first
    | with_reducible exact Steady.refl _
    | with_reducible refine (steady_reportSelf ..).after ?_

theorem steady_frWindow (s : State) : Steady s (frWindow s) := by
  unfold frWindow
  try dsimp only [-Nat.reducePow]
  repeat' first
    | with_reducible exact Steady.refl _
    | with_reducible refine (steady_reportSelf ..).after ?_

theorem steady_addRowMap (m : RowMap) (s : State) : Steady s (addRowMap m s) := by
  unfold addRowMap
  try dsimp only [-Nat.reducePow]
  repeat' first
    | with_reducible exact Steady.refl _
    | with_reducible refine (steady_mMem _ _ ?_).after ?_
    | intro _
    | with_reducible exact ⟨rfl, rfl, rfl, rfl, rfl, rfl⟩

theorem steady_repairRow (m : RowMap) (s : State) : Steady s (repairRow m s).2 := by
  unfold repairRow
  try dsimp only [-Nat.reducePow]
  repeat' first
    | with_reducible exact Steady.refl _
    | with_reducible refine (steady_bump ..).after ?_
    | with_reducible refine (steady_sbSoftRepair ..).after ?_
    | with_reducible refine (steady_addRowMap ..).after ?_
    | intro _
    | split

theorem steady_keepRow (m : RowMap) (s : State) : Steady s (keepRow m s) := by
  unfold keepRow
  try dsimp only [-Nat.reducePow]
  repeat' first
    | with_reducible exact Steady.refl _
    | with_reducible refine (steady_addRowMap ..).after ?_
    | with_reducible refine (steady_repairRow ..).after ?_
    | intro _
    | split

theorem steady_buildRowMaps (s : State) : Steady s (buildRowMaps s) := by
  unfold buildRowMaps
  try dsimp only [-Nat.reducePow]
  repeat' first
    | with_reducible exact Steady.refl _
    | with_reducible refine (steady_mMem _ _ ?_).after ?_
    | with_reducible refine (steady_keepRow ..).after ?_
    | with_reducible refine (steady_foldl _ ?_ _ _).after ?_
    | with_reducible refine (steady_foldl2 _ ?_ _ _).after ?_
    | intro _
    | with_reducible exact ⟨rfl, rfl, rfl, rfl, rfl, rfl⟩

theorem steady_withhold (slot : Nat) (s : State) : Steady s (withhold slot s) := by
  unfold withhold
  try dsimp only [-Nat.reducePow]
  repeat' first
    | with_reducible exact Steady.refl _
    | with_reducible refine (steady_mMem _ _ ?_).after ?_
    | intro _
    | with_reducible exact ⟨rfl, rfl, rfl, rfl, rfl, rfl⟩

theorem steady_unrepairable (k : Nat × Nat × Nat × Nat) (s : State) : Steady s (unrepairable k s) := by
  unfold unrepairable
  try dsimp only [-Nat.reducePow]
  repeat' first
    | with_reducible exact Steady.refl _
    | with_reducible refine (steady_mHx _ _ ?_).after ?_
    | with_reducible refine (steady_report ..).after ?_
    | with_reducible refine (steady_fenceLane ..).after ?_
    | with_reducible refine (steady_withhold ..).after ?_
    | with_reducible refine (steady_foldl _ ?_ _ _).after ?_
    | with_reducible refine (steady_foldl2 _ ?_ _ _).after ?_
    | intro _
    | with_reducible exact ⟨rfl, rfl⟩
    | split

theorem steady_repairAll (origin : Nat) (rows : List (Nat × Nat × Nat × Nat)) (s : State) :
    Steady s (repairAll origin rows s).2 := by
  unfold repairAll
  refine steady_foldl2 _ (fun x k => ?_) rows ([], s)
  obtain ⟨acc, s⟩ := x
  obtain ⟨array, inst, bank, row⟩ := k
  have h : Steady s (if array ≤ 1 then
      repairRow { array := array, inst := inst, bank := bank, row := row, spare := 0, origin := origin } s
      else (false, s)).2 := by
    split
    · exact steady_repairRow ..
    · exact Steady.refl _
  revert h
  dsimp only
  generalize (if array ≤ 1 then
      repairRow { array := array, inst := inst, bank := bank, row := row, spare := 0, origin := origin } s
      else (false, s)) = y
  obtain ⟨b, t⟩ := y
  intro h
  have h : Steady s t := h
  cases b
  · dsimp only
    exact h.trans (steady_unrepairable ..)
  · dsimp only
    exact h.trans (steady_report ..)

theorem steady_bistLog (fails deadSpares : List FailEntry) (s : State) : Steady s (bistLog fails deadSpares s) := by
  unfold bistLog
  try dsimp only [-Nat.reducePow]
  repeat' first
    | with_reducible exact Steady.refl _
    | with_reducible refine (steady_mMem _ _ ?_).after ?_
    | with_reducible refine (steady_mFr _ _).after ?_
    | with_reducible refine (steady_bump ..).after ?_
    | intro _
    | with_reducible exact ⟨rfl, rfl, rfl, rfl, rfl, rfl⟩

theorem sound_zeroArrays (scope : Nat) (s : State) : Sound s (zeroArrays scope s) := by
  unfold zeroArrays
  exact sound_mem _ _ (wf_nil_or _) (wf_nil_or _) (wf_nil_or _) (tags_nil _) rfl rfl

theorem steady_testOrder (allowed : Bool) (priv : BitVec 2) (f : State → State) (s : State)
    (hf : ∀ s, Steady s (f s)) :
    Steady s (testOrder allowed priv f s) := by
  unfold testOrder
  try dsimp only [-Nat.reducePow]
  repeat' first
    | with_reducible exact Steady.refl _
    | with_reducible refine (steady_operatorWrite _ _ _ ?_).after ?_
    | with_reducible refine (steady_frRefused ..).after ?_
    | with_reducible refine (hf ..).after ?_
    | intro _
    | split

theorem sound_testOrder (allowed : Bool) (priv : BitVec 2) (f : State → State) (s : State) (hf : ∀ s, Sound s (f s)) :
    Sound s (testOrder allowed priv f s) := by
  unfold testOrder
  try dsimp only [-Nat.reducePow]
  repeat' first
    | with_reducible exact Sound.refl _
    | with_reducible refine (sound_operatorWrite _ _ _ ?_).after ?_
    | with_reducible refine (steady_frRefused ..).sound.after ?_
    | with_reducible refine (hf ..).after ?_
    | intro _
    | split

theorem sound_hostBist (w : W64) (s : State) : Sound s (hostBist w s) := by
  unfold hostBist
  try dsimp only [-Nat.reducePow]
  repeat' first
    | with_reducible exact Sound.refl _
    | with_reducible refine (steady_mFr _ _).sound.after ?_
    | with_reducible refine (steady_requestDomain ..).sound.after ?_
    | with_reducible refine (sound_zeroArrays ..).after ?_
    | intro _
    | split

theorem sound_bistDone (fails deadSpares : List FailEntry) (s : State) : Sound s (bistDone fails deadSpares s) := by
  unfold bistDone
  try dsimp only [-Nat.reducePow]
  repeat' first
    | with_reducible exact Sound.refl _
    | with_reducible refine (steady_mFr _ _).sound.after ?_
    | with_reducible refine (steady_frWindow ..).sound.after ?_
    | with_reducible refine (steady_repairAll ..).sound.after ?_
    | with_reducible refine (steady_bistLog ..).sound.after ?_
    | with_reducible refine (sound_zeroArrays ..).after ?_
    | intro _
    | split

end Sys2Proof.Machine
end

