-- ==== Sys2Proof/Laws/Keeps5.lean ====
section
/-!
SUPPORT. What the operations of these files of the machine leave alone: Training, Hitch, Farrier, Power, Security,
Start.
-/
namespace Sys2Proof.Machine

/-! ### Training -/

theorem steady_portReport (kind p : Nat) (s : State) : Steady s (portReport kind p s) := by
  unfold portReport
  try dsimp only [-Nat.reducePow]
  repeat' first
    | with_reducible exact Steady.refl _
    | with_reducible refine (steady_reportUnit ..).after ?_

theorem steady_diesReport (kind : Nat) (dies : List Nat) (s : State) : Steady s (diesReport kind dies s) := by
  unfold diesReport
  try dsimp only [-Nat.reducePow]
  repeat' first
    | with_reducible exact Steady.refl _
    | with_reducible refine (steady_raise ..).after ?_

theorem steady_dropPort (p : Nat) (s : State) : Steady s (dropPort p s) := by
  unfold dropPort
  try dsimp only [-Nat.reducePow]
  repeat' first
    | with_reducible exact Steady.refl _
    | with_reducible refine (steady_countEj ..).after ?_
    | with_reducible refine (steady_mHx _ _ ?_).after ?_
    | with_reducible refine (steady_mPort ..).after ?_
    | with_reducible refine (steady_freeBuffer ..).after ?_
    | with_reducible refine (steady_foldl _ ?_ _ _).after ?_
    | with_reducible refine (steady_foldl2 _ ?_ _ _).after ?_
    | intro _

theorem steady_mTrain (p : Nat) (f : Port → Port) (s : State) : Steady s (State.mTrain p f s) := by
  unfold State.mTrain
  try dsimp only [-Nat.reducePow]
  repeat' first
    | with_reducible exact Steady.refl _
    | with_reducible refine (steady_mPort ..).after ?_
    | with_reducible refine (steady_stateChanged ..).after ?_

theorem steady_removePort (p : Nat) (s : State) : Steady s (removePort p s) := by
  unfold removePort
  try dsimp only [-Nat.reducePow]
  repeat' first
    | with_reducible exact Steady.refl _
    | with_reducible refine (steady_stateChange ..).after ?_
    | with_reducible refine (steady_portReport ..).after ?_
    | with_reducible refine (steady_dropPort ..).after ?_
    | with_reducible refine (steady_mTrain ..).after ?_

theorem steady_startTraining (p : Nat) (s : State) : Steady s (startTraining p s) := by
  unfold startTraining
  try dsimp only [-Nat.reducePow]
  repeat' first
    | with_reducible exact Steady.refl _
    | with_reducible refine (steady_mTrain ..).after ?_

theorem steady_retrainPort (p : Nat) (s : State) : Steady s (retrainPort p s) := by
  unfold retrainPort
  try dsimp only [-Nat.reducePow]
  repeat' first
    | with_reducible exact Steady.refl _
    | with_reducible refine (steady_bump ..).after ?_
    | with_reducible refine (steady_stateChange ..).after ?_
    | with_reducible refine (steady_mTrain ..).after ?_

theorem steady_resendFrames (p : Nat) (s : State) : Steady s (resendFrames p s) := by
  unfold resendFrames
  try dsimp only [-Nat.reducePow]
  repeat' first
    | with_reducible exact Steady.refl _
    | with_reducible refine (steady_mPorts _ _ ?_).after ?_
    | with_reducible refine (steady_bump ..).after ?_
    | intro _
    | with_reducible exact ⟨rfl, rfl, rfl, rfl, rfl⟩
    | split

theorem steady_replayPort (p : Nat) (s : State) : Steady s (replayPort p s) := by
  unfold replayPort
  try dsimp only [-Nat.reducePow]
  repeat' first
    | with_reducible exact Steady.refl _
    | with_reducible refine (steady_mTrain ..).after ?_
    | with_reducible refine (steady_retrainPort ..).after ?_
    | with_reducible refine (steady_resendFrames ..).after ?_
    | intro _
    | split

theorem steady_portActivated (p : Nat) (s : State) : Steady s (portActivated p s) := by
  unfold portActivated
  try dsimp only [-Nat.reducePow]
  repeat' first
    | with_reducible exact Steady.refl _
    | with_reducible refine (steady_pumpAll ..).after ?_
    | with_reducible refine (steady_stateChange ..).after ?_
    | with_reducible refine (steady_portReport ..).after ?_
    | with_reducible refine (steady_mTrain ..).after ?_
    | with_reducible refine (steady_resendFrames ..).after ?_
    | intro _
    | split

theorem steady_trainingAdvance (p : Nat) (t : TrainInfo) (s : State) : Steady s (trainingAdvance p t s) := by
  unfold trainingAdvance
  try dsimp only [-Nat.reducePow]
  repeat' first
    | with_reducible exact Steady.refl _
    | with_reducible refine (steady_portReport ..).after ?_
    | with_reducible refine (steady_mTrain ..).after ?_
    | with_reducible refine (steady_removePort ..).after ?_
    | with_reducible refine (steady_startTraining ..).after ?_
    | with_reducible refine (steady_portActivated ..).after ?_
    | intro _
    | split

theorem steady_attemptTimeout (p : Nat) (s : State) : Steady s (attemptTimeout p s) := by
  unfold attemptTimeout
  try dsimp only [-Nat.reducePow]
  repeat' first
    | with_reducible exact Steady.refl _
    | with_reducible refine (steady_mTrain ..).after ?_
    | with_reducible refine (steady_removePort ..).after ?_
    | intro _
    | split

theorem steady_rejoin (p : Nat) (s : State) : Steady s (rejoin p s) := by
  unfold rejoin
  try dsimp only [-Nat.reducePow]
  repeat' first
    | with_reducible exact Steady.refl _
    | with_reducible refine (steady_startTraining ..).after ?_
    | intro _
    | split

theorem steady_syncExchange (theta : Int) (s : State) : Steady s (syncExchange theta s) := by
  unfold syncExchange
  try dsimp only [-Nat.reducePow]
  repeat' first
    | with_reducible exact Steady.refl _
    | with_reducible refine (steady_mHx _ _ ?_).after ?_
    | with_reducible refine (steady_bump ..).after ?_
    | with_reducible refine (steady_timeLost ..).after ?_
    | intro _
    | with_reducible exact ⟨rfl, rfl⟩
    | split

theorem steady_syncStamps (p : Nat) (f : Frame) (s : State) : Steady s (syncStamps p f s) := by
  unfold syncStamps
  try dsimp only [-Nat.reducePow]
  repeat' first
    | with_reducible exact Steady.refl _
    | with_reducible refine (steady_mPort ..).after ?_
    | with_reducible refine (steady_syncExchange ..).after ?_
    | intro _
    | split

theorem steady_throttleUpdate (s : State) : Steady s (throttleUpdate s) := by
  unfold throttleUpdate
  try dsimp only [-Nat.reducePow]
  repeat' first
    | with_reducible exact Steady.refl _
    | with_reducible refine (steady_mHx _ _ ?_).after ?_
    | with_reducible refine (steady_bump ..).after ?_
    | intro _
    | with_reducible exact ⟨rfl, rfl⟩
    | split

theorem steady_congWindow (p : Nat) (congested : Bool) (s : State) : Steady s (congWindow p congested s) := by
  unfold congWindow
  try dsimp only [-Nat.reducePow]
  repeat' first
    | with_reducible exact Steady.refl _
    | with_reducible refine (steady_mPort ..).after ?_
    | with_reducible refine (steady_pumpAll ..).after ?_
    | with_reducible refine (steady_throttleUpdate ..).after ?_
    | intro _
    | split

theorem steady_uncorrectable (p n : Nat) (s : State) : Steady s (uncorrectable p n s) := by
  unfold uncorrectable
  try dsimp only [-Nat.reducePow]
  repeat' first
    | with_reducible exact Steady.refl _
    | with_reducible refine (steady_bump ..).after ?_
    | with_reducible refine (steady_mPort ..).after ?_
    | with_reducible refine (steady_retrainPort ..).after ?_
    | intro _
    | split

theorem steady_takeAck (p ack : Nat) (s : State) : Steady s (takeAck p ack s) := by
  unfold takeAck
  try dsimp only [-Nat.reducePow]
  repeat' first
    | with_reducible exact Steady.refl _
    | with_reducible refine (steady_mPort ..).after ?_
    | intro _
    | split

theorem steady_takeNak (p : Nat) (nak : Bool) (ack : Nat) (s : State) : Steady s (takeNak p nak ack s) := by
  unfold takeNak
  try dsimp only [-Nat.reducePow]
  repeat' first
    | with_reducible exact Steady.refl _
    | with_reducible refine (steady_mPort ..).after ?_
    | with_reducible refine (steady_replayPort ..).after ?_
    | intro _
    | split

theorem steady_takeCredits (p xy yx : Nat) (s : State) : Steady s (takeCredits p xy yx s) := by
  unfold takeCredits
  try dsimp only [-Nat.reducePow]
  repeat' first
    | with_reducible exact Steady.refl _
    | with_reducible refine (steady_mPort ..).after ?_
    | with_reducible refine (steady_throttleUpdate ..).after ?_

theorem steady_frameReceive (p : Nat) (f : Frame) (s : State) : Steady s (frameReceive p f s) := by
  unfold frameReceive
  try dsimp only [-Nat.reducePow]
  repeat' first
    | with_reducible exact Steady.refl _
    | with_reducible refine (steady_bump ..).after ?_
    | with_reducible refine (steady_mPort ..).after ?_
    | with_reducible refine (steady_pumpAll ..).after ?_
    | with_reducible refine (steady_packetArrive ..).after ?_
    | with_reducible refine (steady_syncStamps ..).after ?_
    | with_reducible refine (steady_uncorrectable ..).after ?_
    | with_reducible refine (steady_takeAck ..).after ?_
    | with_reducible refine (steady_takeNak ..).after ?_
    | with_reducible refine (steady_takeCredits ..).after ?_
    | with_reducible refine (steady_foldl _ ?_ _ _).after ?_
    | with_reducible refine (steady_foldl2 _ ?_ _ _).after ?_
    | intro _
    | split

theorem steady_replayTimeout (p : Nat) (s : State) : Steady s (replayTimeout p s) := by
  unfold replayTimeout
  try dsimp only [-Nat.reducePow]
  repeat' first
    | with_reducible exact Steady.refl _
    | with_reducible refine (steady_replayPort ..).after ?_
    | intro _
    | split

theorem steady_hxPacketArrive (p : Nat) (k : HxPkt) (s : State) : Steady s (hxPacketArrive p k s) := by
  unfold hxPacketArrive
  try dsimp only [-Nat.reducePow]
  repeat' first
    | with_reducible exact Steady.refl _
    | with_reducible refine (steady_pumpAll ..).after ?_
    | with_reducible refine (steady_packetArrive ..).after ?_
    | intro _
    | split

/-! ### Hitch -/

theorem steady_consumer (kind : Nat) (p : HxPkt) (f : State → State) (s : State) (hf : ∀ s, Steady s (f s)) :
    Steady s (consumer kind p f s) := by
  unfold consumer
  try dsimp only [-Nat.reducePow]
  repeat' first
    | with_reducible exact Steady.refl _
    | with_reducible refine (steady_consume ..).after ?_
    | with_reducible refine (hf ..).after ?_
    | intro _
    | split

theorem sound_consumer (kind : Nat) (p : HxPkt) (f : State → State) (s : State) (hf : ∀ s, Sound s (f s)) :
    Sound s (consumer kind p f s) := by
  unfold consumer
  try dsimp only [-Nat.reducePow]
  repeat' first
    | with_reducible exact Sound.refl _
    | with_reducible refine (steady_consume ..).sound.after ?_
    | with_reducible refine (hf ..).after ?_
    | intro _
    | split

theorem steady_drainAll (die : Nat) (s : State) : Steady s (drainAll die s) := by
  unfold drainAll
  try dsimp only [-Nat.reducePow]
  repeat' first
    | with_reducible exact Steady.refl _
    | with_reducible refine (steady_drainTx ..).after ?_
    | with_reducible refine (steady_drainMcast ..).after ?_

theorem steady_e2eAck (p : HxPkt) (s : State) : Steady s (e2eAck p s) := by
  unfold e2eAck
  try dsimp only [-Nat.reducePow]
  repeat' first
    | with_reducible exact Steady.refl _
    | with_reducible refine (steady_mTx ..).after ?_
    | with_reducible refine (steady_drainAll ..).after ?_

theorem steady_resendTimeout (die : Nat) (space : Bool) (seq : Nat) (s : State) :
    Steady s (resendTimeout die space seq s) := by
  unfold resendTimeout
  try dsimp only [-Nat.reducePow]
  repeat' first
    | with_reducible exact Steady.refl _
    | with_reducible refine (steady_bump ..).after ?_
    | with_reducible refine (steady_mTx ..).after ?_
    | with_reducible refine (steady_injectCopy ..).after ?_
    | with_reducible refine (steady_diesReport ..).after ?_
    | with_reducible refine (steady_drainAll ..).after ?_
    | intro _
    | split

theorem steady_ackDelay (die : Nat) (space : Bool) (s : State) : Steady s (ackDelay die space s) := by
  unfold ackDelay
  try dsimp only [-Nat.reducePow]
  repeat' first
    | with_reducible exact Steady.refl _
    | with_reducible refine (steady_sendAck ..).after ?_
    | intro _
    | split

theorem steady_peerRestarted (die : Nat) (s : State) : Steady s (peerRestarted die s) := by
  unfold peerRestarted
  try dsimp only [-Nat.reducePow]
  repeat' first
    | with_reducible exact Steady.refl _
    | with_reducible refine (steady_mTx ..).after ?_
    | with_reducible refine (steady_drainAll ..).after ?_

theorem steady_stateRecord (p : HxPkt) (s : State) : Steady s (stateRecord p s) := by
  unfold stateRecord
  try dsimp only [-Nat.reducePow]
  repeat' first
    | with_reducible exact Steady.refl _
    | with_reducible refine (steady_mHx _ _ ?_).after ?_
    | with_reducible refine (steady_mapChanged ..).after ?_
    | with_reducible refine (steady_sendReports ..).after ?_
    | with_reducible refine (steady_peerRestarted ..).after ?_
    | intro _
    | with_reducible exact ⟨rfl, rfl⟩
    | split

theorem steady_stateStale (die : Nat) (s : State) : Steady s (stateStale die s) := by
  unfold stateStale
  try dsimp only [-Nat.reducePow]
  repeat' first
    | with_reducible exact Steady.refl _
    | with_reducible refine (steady_mHx _ _ ?_).after ?_
    | with_reducible refine (steady_mapChanged ..).after ?_
    | with_reducible refine (steady_sendReports ..).after ?_
    | intro _
    | with_reducible exact ⟨rfl, rfl⟩
    | split

theorem steady_hostOkLapse (s : State) : Steady s (hostOkLapse s) := by
  unfold hostOkLapse
  try dsimp only [-Nat.reducePow]
  repeat' first
    | with_reducible exact Steady.refl _
    | with_reducible refine (steady_mHx _ _ ?_).after ?_
    | with_reducible refine (steady_stateChange ..).after ?_
    | intro _
    | with_reducible exact ⟨rfl, rfl⟩

theorem steady_tblReady (p : HxPkt) (s : State) : Steady s (tblReady p s) := by
  unfold tblReady
  try dsimp only [-Nat.reducePow]
  repeat' first
    | with_reducible exact Steady.refl _
    | with_reducible refine (steady_mHx _ _ ?_).after ?_
    | with_reducible refine (steady_hxMulticast ..).after ?_
    | intro _
    | with_reducible exact ⟨rfl, rfl⟩
    | split

theorem steady_epochFlip (p : HxPkt) (s : State) : Steady s (epochFlip p s) := by
  unfold epochFlip
  try dsimp only [-Nat.reducePow]
  repeat' first
    | with_reducible exact Steady.refl _
    | with_reducible refine (steady_mHx _ _ ?_).after ?_
    | with_reducible refine (steady_bump ..).after ?_
    | intro _
    | with_reducible exact ⟨rfl, rfl⟩

theorem steady_pollPeriod (s : State) : Steady s (pollPeriod s) := by
  unfold pollPeriod
  try dsimp only [-Nat.reducePow]
  repeat' first
    | with_reducible exact Steady.refl _
    | with_reducible refine (steady_mHx _ _ ?_).after ?_
    | with_reducible refine (steady_hxSend ..).after ?_
    | with_reducible refine (steady_foldl _ ?_ _ _).after ?_
    | with_reducible refine (steady_foldl2 _ ?_ _ _).after ?_
    | intro _
    | with_reducible exact ⟨rfl, rfl⟩
    | split

theorem steady_sendRetire (s : State) : Steady s (sendRetire s) := by
  unfold sendRetire
  try dsimp only [-Nat.reducePow]
  repeat' first
    | with_reducible exact Steady.refl _
    | with_reducible refine (steady_hxMulticast ..).after ?_

theorem steady_countReply (p : HxPkt) (s : State) : Steady s (countReply p s) := by
  unfold countReply
  try dsimp only [-Nat.reducePow]
  repeat' first
    | with_reducible exact Steady.refl _
    | with_reducible refine (steady_mHx _ _ ?_).after ?_
    | with_reducible refine (steady_sendRetire ..).after ?_
    | intro _
    | with_reducible exact ⟨rfl, rfl⟩
    | split

theorem steady_countQuery (p : HxPkt) (s : State) : Steady s (countQuery p s) := by
  unfold countQuery
  try dsimp only [-Nat.reducePow]
  repeat' first
    | with_reducible exact Steady.refl _
    | with_reducible refine (steady_hxSend ..).after ?_

theorem steady_retireVersion (p : HxPkt) (s : State) : Steady s (retireVersion p s) := by
  unfold retireVersion
  try dsimp only [-Nat.reducePow]
  repeat' first
    | with_reducible exact Steady.refl _
    | with_reducible refine (steady_mHx _ _ ?_).after ?_
    | with_reducible refine (steady_computeStandby ..).after ?_
    | intro _
    | with_reducible exact ⟨rfl, rfl⟩
    | split

theorem steady_hxRetireTimeout (s : State) : Steady s (hxRetireTimeout s) := by
  unfold hxRetireTimeout
  try dsimp only [-Nat.reducePow]
  repeat' first
    | with_reducible exact Steady.refl _
    | with_reducible refine (steady_mHx _ _ ?_).after ?_
    | with_reducible refine (steady_reportSelf ..).after ?_
    | with_reducible refine (steady_sendRetire ..).after ?_
    | intro _
    | with_reducible exact ⟨rfl, rfl⟩
    | split

theorem steady_sendRelease (b : Nat) (gen : BitVec 8) (aborted : Bool) (tRel : Nat) (members : List Nat) (s : State) :
    Steady s (sendRelease b gen aborted tRel members s) := by
  unfold sendRelease
  try dsimp only [-Nat.reducePow]
  repeat' first
    | with_reducible exact Steady.refl _
    | with_reducible refine (steady_hxMulticast ..).after ?_

theorem steady_ignored (s : State) : Steady s (ignored s) := by
  unfold ignored
  try dsimp only [-Nat.reducePow]
  repeat' first
    | with_reducible exact Steady.refl _
    | with_reducible refine (steady_bump ..).after ?_

theorem steady_coordArrive (b : Nat) (gen : BitVec 8) (mask : W64) (die : Nat) (s : State) :
    Steady s (coordArrive b gen mask die s) := by
  unfold coordArrive
  try dsimp only [-Nat.reducePow]
  repeat' first
    | with_reducible exact Steady.refl _
    | with_reducible refine (steady_mBarrier ..).after ?_
    | with_reducible refine (steady_sendRelease ..).after ?_
    | with_reducible refine (steady_ignored ..).after ?_
    | intro _
    | split

theorem steady_barrierArrived (p : HxPkt) (s : State) : Steady s (barrierArrived p s) := by
  unfold barrierArrived
  try dsimp only [-Nat.reducePow]
  repeat' first
    | with_reducible exact Steady.refl _
    | with_reducible refine (steady_coordArrive ..).after ?_
    | intro _
    | split

theorem steady_memberReleased (b : Nat) (s : State) : Steady s (memberReleased b s) := by
  unfold memberReleased
  try dsimp only [-Nat.reducePow]
  repeat' first
    | with_reducible exact Steady.refl _
    | with_reducible refine (steady_mHx _ _ ?_).after ?_
    | with_reducible refine (steady_bump ..).after ?_
    | with_reducible refine (steady_mBarrier ..).after ?_
    | with_reducible refine (steady_barrier0Released ..).after ?_
    | intro _
    | with_reducible exact ⟨rfl, rfl⟩
    | split

theorem steady_barrierReleased (p : HxPkt) (s : State) : Steady s (barrierReleased p s) := by
  unfold barrierReleased
  try dsimp only [-Nat.reducePow]
  repeat' first
    | with_reducible exact Steady.refl _
    | with_reducible refine (steady_bump ..).after ?_
    | with_reducible refine (steady_mBarrier ..).after ?_
    | with_reducible refine (steady_barrier0Aborted ..).after ?_
    | with_reducible refine (steady_memberReleased ..).after ?_
    | intro _
    | split

theorem steady_releaseTime (b : Nat) (s : State) : Steady s (releaseTime b s) := by
  unfold releaseTime
  try dsimp only [-Nat.reducePow]
  repeat' first
    | with_reducible exact Steady.refl _
    | with_reducible refine (steady_memberReleased ..).after ?_
    | intro _
    | split

theorem steady_barrTimeout (b : Nat) (s : State) : Steady s (barrTimeout b s) := by
  unfold barrTimeout
  try dsimp only [-Nat.reducePow]
  repeat' first
    | with_reducible exact Steady.refl _
    | with_reducible refine (steady_mBarrier ..).after ?_
    | with_reducible refine (steady_diesReport ..).after ?_
    | with_reducible refine (steady_sendRelease ..).after ?_
    | intro _
    | split

theorem steady_hostBarrier (priv : BitVec 2) (w : W64) (s : State) : Steady s (hostBarrier priv w s) := by
  unfold hostBarrier
  try dsimp only [-Nat.reducePow]
  repeat' first
    | with_reducible exact Steady.refl _
    | with_reducible refine (steady_bump ..).after ?_
    | with_reducible refine (steady_barrierArrive ..).after ?_
    | with_reducible refine (steady_answer ..).after ?_
    | with_reducible refine (steady_denied ..).after ?_
    | intro _
    | split

theorem steady_faultFwd (p : HxPkt) (s : State) : Steady s (faultFwd p s) := by
  unfold faultFwd
  try dsimp only [-Nat.reducePow]
  repeat' first
    | with_reducible exact Steady.refl _
    | with_reducible refine (steady_mHx _ _ ?_).after ?_
    | intro _
    | with_reducible exact ⟨rfl, rfl⟩

theorem sound_leaderOrder (p : HxPkt) (s : State) : Sound s (leaderOrder p s) := by
  unfold leaderOrder
  try dsimp only [-Nat.reducePow]
  repeat' first
    | with_reducible exact Sound.refl _
    | with_reducible refine (sound_ctOrder ..).after ?_
    | intro _
    | split

theorem steady_traceIn (p : HxPkt) (s : State) : Steady s (traceIn p s) := by
  unfold traceIn
  try dsimp only [-Nat.reducePow]
  repeat' first
    | with_reducible exact Steady.refl _
    | with_reducible refine (steady_tackPlace ..).after ?_
    | intro _
    | split

/-! ### Farrier -/

theorem steady_reproOut (q : Pattern) (s : State) : Steady s (reproOut q s).2 := by
  unfold reproOut
  try dsimp only [-Nat.reducePow]
  repeat' first
    | with_reducible exact Steady.refl _
    | with_reducible refine (steady_laneProbe ..).after ?_

theorem steady_mSession (c : Nat) (f : Session → Session) (s : State) : Steady s (State.mSession c f s) := by
  unfold State.mSession
  try dsimp only [-Nat.reducePow]
  repeat' first
    | with_reducible exact Steady.refl _
    | with_reducible refine (steady_mFr _ _).after ?_

theorem steady_openTest (x : Session) (s : State) : Steady s (openTest x s) := by
  unfold openTest
  try dsimp only [-Nat.reducePow]
  repeat' first
    | with_reducible exact Steady.refl _
    | with_reducible refine (steady_sendKey ..).after ?_
    | with_reducible refine (steady_sendTest ..).after ?_

theorem steady_sessionMuster (h : Huid) (s : State) : Steady s (sessionMuster h s) := by
  unfold sessionMuster
  try dsimp only [-Nat.reducePow]
  repeat' first
    | with_reducible exact Steady.refl _
    | with_reducible refine (steady_bump ..).after ?_
    | with_reducible refine (steady_sendBlock ..).after ?_
    | with_reducible refine (steady_sendMuster ..).after ?_
    | with_reducible refine (steady_foldl _ ?_ _ _).after ?_
    | with_reducible refine (steady_foldl2 _ ?_ _ _).after ?_
    | intro _

theorem steady_verifyBank (ok : Bool) (s : State) : Steady s (verifyBank ok s) := by
  unfold verifyBank
  try dsimp only [-Nat.reducePow]
  repeat' first
    | with_reducible exact Steady.refl _
    | with_reducible refine (steady_mFr _ _).after ?_
    | with_reducible refine (steady_reportSelf ..).after ?_
    | intro _
    | split

theorem steady_sessionOpen (h : Huid) (channelOk bankOk : Bool) (s : State) :
    Steady s (sessionOpen h channelOk bankOk s) := by
  unfold sessionOpen
  try dsimp only [-Nat.reducePow]
  repeat' first
    | with_reducible exact Steady.refl _
    | with_reducible refine (steady_mFr _ _).after ?_
    | with_reducible refine (steady_bump ..).after ?_
    | with_reducible refine (steady_reportSelf ..).after ?_
    | with_reducible refine (steady_requestDomain ..).after ?_
    | with_reducible refine (steady_endSession ..).after ?_
    | with_reducible refine (steady_frWindow ..).after ?_
    | with_reducible refine (steady_openTest ..).after ?_
    | with_reducible refine (steady_sessionMuster ..).after ?_
    | with_reducible refine (steady_verifyBank ..).after ?_
    | intro _
    | split

theorem steady_hostTest (w : W64) (s : State) : Steady s (hostTest w s) := by
  unfold hostTest
  try dsimp only [-Nat.reducePow]
  repeat' first
    | with_reducible exact Steady.refl _
    | with_reducible refine (steady_wantTest ..).after ?_
    | intro _
    | split

theorem steady_reproItem (x : Session) (i : Nat) (s : State) : Steady s (reproItem x i s) := by
  unfold reproItem
  try dsimp only [-Nat.reducePow]
  repeat' first
    | with_reducible exact Steady.refl _
    | with_reducible refine (steady_bump ..).after ?_
    | with_reducible refine (steady_sendTest ..).after ?_
    | with_reducible refine (steady_endSession ..).after ?_
    | with_reducible refine (steady_mSession ..).after ?_
    | intro _
    | split

theorem steady_scanItem (x : Session) (s : State) : Steady s (scanItem x s) := by
  unfold scanItem
  try dsimp only [-Nat.reducePow]
  repeat' first
    | with_reducible exact Steady.refl _
    | with_reducible refine (steady_mSession ..).after ?_
    | with_reducible refine (steady_reproItem ..).after ?_
    | intro _
    | split

theorem steady_xtestItem (x : Session) (d t : Nat) (s : State) : Steady s (xtestItem x d t s) := by
  unfold xtestItem
  try dsimp only [-Nat.reducePow]
  repeat' first
    | with_reducible exact Steady.refl _
    | with_reducible refine (steady_bump ..).after ?_
    | with_reducible refine (steady_sendTest ..).after ?_
    | with_reducible refine (steady_mSession ..).after ?_
    | with_reducible refine (steady_scanItem ..).after ?_
    | intro _
    | split

theorem steady_sessionReply (x : Session) (sub status : Nat) (body : Bytes) (s : State) :
    Steady s (sessionReply x sub status body s) := by
  unfold sessionReply
  try dsimp only [-Nat.reducePow]
  repeat' first
    | with_reducible exact Steady.refl _
    | with_reducible refine (steady_endSession ..).after ?_
    | with_reducible refine (steady_reproOut ..).after ?_
    | with_reducible refine (steady_reproItem ..).after ?_
    | with_reducible refine (steady_xtestItem ..).after ?_
    | intro _
    | split

theorem steady_testReply (p : Ingress) (s : State) : Steady s (testReply p s) := by
  unfold testReply
  try dsimp only [-Nat.reducePow]
  repeat' first
    | with_reducible exact Steady.refl _
    | with_reducible refine (steady_sessionReply ..).after ?_
    | intro _
    | split

theorem steady_scanBlockDone (c : Nat) (r : ScanSay) (s : State) : Steady s (scanBlockDone c r s) := by
  unfold scanBlockDone
  try dsimp only [-Nat.reducePow]
  repeat' first
    | with_reducible exact Steady.refl _
    | with_reducible refine (steady_mFr _ _).after ?_
    | with_reducible refine (steady_bump ..).after ?_
    | with_reducible refine (steady_reportSelf ..).after ?_
    | with_reducible refine (steady_endSession ..).after ?_
    | with_reducible refine (steady_mSession ..).after ?_
    | with_reducible refine (steady_reproItem ..).after ?_
    | intro _
    | split

theorem steady_testTimeout (c : Nat) (s : State) : Steady s (testTimeout c s) := by
  unfold testTimeout
  try dsimp only [-Nat.reducePow]
  repeat' first
    | with_reducible exact Steady.refl _
    | with_reducible refine (steady_mFr _ _).after ?_
    | with_reducible refine (steady_reportUnit ..).after ?_
    | with_reducible refine (steady_mPad ..).after ?_
    | with_reducible refine (steady_testBad ..).after ?_
    | with_reducible refine (steady_endSession ..).after ?_
    | intro _
    | split

theorem steady_mPkg (f : Fr → Fr) (s : State) : Steady s (State.mPkg f s) := by
  unfold State.mPkg
  try dsimp only [-Nat.reducePow]
  repeat' first
    | with_reducible exact Steady.refl _
    | with_reducible refine (steady_mFr _ _).after ?_
    | with_reducible refine (steady_stateChanged ..).after ?_

theorem steady_pkgReject (code : Nat) (s : State) : Steady s (pkgReject code s) := by
  unfold pkgReject
  try dsimp only [-Nat.reducePow]
  repeat' first
    | with_reducible exact Steady.refl _
    | with_reducible refine (steady_bump ..).after ?_
    | with_reducible refine (steady_reportSelf ..).after ?_
    | with_reducible refine (steady_mPkg ..).after ?_
    | intro _
    | split

theorem steady_pkgStart (len : Nat) (s : State) : Steady s (pkgStart len s) := by
  unfold pkgStart
  try dsimp only [-Nat.reducePow]
  repeat' first
    | with_reducible exact Steady.refl _
    | with_reducible refine (steady_requestDomain ..).after ?_
    | with_reducible refine (steady_mPkg ..).after ?_
    | with_reducible refine (steady_pkgReject ..).after ?_
    | intro _
    | split

theorem steady_pkgClose (s : State) : Steady s (pkgClose s) := by
  unfold pkgClose
  try dsimp only [-Nat.reducePow]
  repeat' first
    | with_reducible exact Steady.refl _
    | with_reducible refine (steady_mPkg ..).after ?_
    | intro _
    | split

theorem steady_pkgAbort (s : State) : Steady s (pkgAbort s) := by
  unfold pkgAbort
  try dsimp only [-Nat.reducePow]
  repeat' first
    | with_reducible exact Steady.refl _
    | with_reducible refine (steady_mPkg ..).after ?_
    | intro _
    | split

theorem steady_pkgRow (op : Nat) (priv : BitVec 2) (w : W64) (f : State → State) (s : State)
    (hf : ∀ s, Steady s (f s)) :
    Steady s (pkgRow op priv w f s) := by
  unfold pkgRow
  try dsimp only [-Nat.reducePow]
  repeat' first
    | with_reducible exact Steady.refl _
    | with_reducible refine (steady_testOrder _ _ _ _ ?_).after ?_
    | with_reducible refine (hf ..).after ?_
    | intro _
    | split

theorem sound_pkgRow (op : Nat) (priv : BitVec 2) (w : W64) (f : State → State) (s : State)
    (hf : ∀ s, Sound s (f s)) :
    Sound s (pkgRow op priv w f s) := by
  unfold pkgRow
  try dsimp only [-Nat.reducePow]
  repeat' first
    | with_reducible exact Sound.refl _
    | with_reducible refine (sound_testOrder _ _ _ _ ?_).after ?_
    | with_reducible refine (hf ..).after ?_
    | intro _
    | split

theorem steady_addPackagePattern (body : BitVec 512) (s : State) : Steady s (addPackagePattern body s) := by
  unfold addPackagePattern
  try dsimp only [-Nat.reducePow]
  repeat' first
    | with_reducible exact Steady.refl _
    | with_reducible refine (steady_mVu _ _).after ?_
    | with_reducible refine (steady_sbWrite ..).after ?_
    | intro _
    | split

/-! ### Power -/

theorem steady_domainPowerRequest (d : Nat) (s : State) : Steady s (domainPowerRequest d s) := by
  unfold domainPowerRequest
  try dsimp only [-Nat.reducePow]
  repeat' first
    | with_reducible exact Steady.refl _
    | with_reducible refine (steady_requestDomain ..).after ?_
    | intro _
    | split

theorem sound_powerGood (d : Nat) (s : State) : Sound s (powerGood d s) := by
  unfold powerGood
  dsimp only
  split
  · exact Sound.refl _
  refine Sound.trans (steady_bump (1028 + d) 1 s).sound ?_
  split
  · exact (steady_resetLanes ..).sound.after ((steady_setDomain ..).sound.after (sound_zeroCluster ..))
  · split
    · exact (steady_setShed ..).sound.after (sound_mem _ _ (Mem.wf_zero _ _) id id (tags_filter _) rfl rfl)
    · split
      · exact (steady_resetPipes ..).sound.after (steady_setDomain ..).sound
      · exact (steady_setDomain ..).sound

theorem steady_domainTimeout (d : Nat) (s : State) : Steady s (domainTimeout d s) := by
  unfold domainTimeout
  try dsimp only [-Nat.reducePow]
  repeat' first
    | with_reducible exact Steady.refl _
    | with_reducible refine (steady_mHx _ _ ?_).after ?_
    | with_reducible refine (steady_mTs _ _ ?_).after ?_
    | with_reducible refine (steady_reportUnit ..).after ?_
    | with_reducible refine (steady_setDomain ..).after ?_
    | with_reducible refine (steady_setShed ..).after ?_
    | with_reducible refine (steady_fencePipe ..).after ?_
    | with_reducible refine (steady_fenceLane ..).after ?_
    | with_reducible refine (steady_withhold ..).after ?_
    | with_reducible refine (steady_removePort ..).after ?_
    | with_reducible refine (steady_foldl _ ?_ _ _).after ?_
    | with_reducible refine (steady_foldl2 _ ?_ _ _).after ?_
    | intro _
    | with_reducible exact ⟨rfl, rfl⟩
    | with_reducible exact rfl
    | split

theorem sound_domainShutdown (d : Nat) (s : State) : Sound s (domainShutdown d s) := by
  unfold domainShutdown
  try dsimp only [-Nat.reducePow]
  repeat' first
    | with_reducible exact Sound.refl _
    | with_reducible refine (sound_zeroCluster ..).after ?_
    | with_reducible refine (steady_domainOff ..).sound.after ?_
    | with_reducible refine (sound_shedOff ..).after ?_
    | intro _
    | split

theorem steady_mChan (n : Nat) (f : Chan → Chan) (s : State) : Steady s (State.mChan n f s) := by
  unfold State.mChan
  try dsimp only [-Nat.reducePow]
  repeat' first
    | with_reducible exact Steady.refl _
    | with_reducible refine (steady_mTs _ _ ?_).after ?_
    | intro _
    | with_reducible exact rfl

theorem steady_pmbRead (n : Nat) (raw : Option (BitVec 16)) (s : State) : Steady s (pmbRead n raw s) := by
  unfold pmbRead
  try dsimp only [-Nat.reducePow]
  repeat' first
    | with_reducible exact Steady.refl _
    | with_reducible refine (steady_bump ..).after ?_
    | with_reducible refine (steady_reportSelf ..).after ?_
    | with_reducible refine (steady_mChan ..).after ?_
    | intro _
    | split

theorem steady_pmbAlert (status : BitVec 16) (s : State) : Steady s (pmbAlert status s) := by
  unfold pmbAlert
  try dsimp only [-Nat.reducePow]
  repeat' first
    | with_reducible exact Steady.refl _
    | with_reducible refine (steady_mTs _ _ ?_).after ?_
    | with_reducible refine (steady_bump ..).after ?_
    | with_reducible refine (steady_reportSelf ..).after ?_
    | intro _
    | with_reducible exact rfl
    | split

theorem steady_coolant (s : State) : Steady s (coolant s).2.2 := by
  unfold coolant
  try dsimp only [-Nat.reducePow]
  repeat' first
    | with_reducible exact Steady.refl _
    | with_reducible refine (steady_mTs _ _ ?_).after ?_
    | with_reducible refine (steady_reportSelf ..).after ?_
    | intro _
    | with_reducible exact rfl
    | split

theorem steady_siliconPower (s : State) : Steady s (siliconPower s).2 := by
  unfold siliconPower
  try dsimp only [-Nat.reducePow]
  repeat' first
    | with_reducible exact Steady.refl _
    | with_reducible refine (steady_draw _).after ?_
    | intro _
    | split

theorem steady_setLevel (n lv : Nat) (s : State) : Steady s (setLevel n lv s) := by
  unfold setLevel
  try dsimp only [-Nat.reducePow]
  repeat' first
    | with_reducible exact Steady.refl _
    | with_reducible refine (steady_mTs _ _ ?_).after ?_
    | with_reducible refine (steady_bump ..).after ?_
    | with_reducible refine (steady_reportUnit ..).after ?_
    | with_reducible refine (steady_mSector ..).after ?_
    | intro _
    | with_reducible exact rfl
    | split

theorem steady_coolQueues (s : State) : Steady s (coolQueues s) := by
  unfold coolQueues
  try dsimp only [-Nat.reducePow]
  repeat' first
    | with_reducible exact Steady.refl _
    | with_reducible refine (steady_mLane ..).after ?_
    | with_reducible refine (steady_laneEnqueue ..).after ?_
    | with_reducible refine (steady_foldl _ ?_ _ _).after ?_
    | with_reducible refine (steady_foldl2 _ ?_ _ _).after ?_
    | intro _
    | split

theorem steady_nodeRound (dt tin tcp ps : Rat) (first : Bool) (n : Nat) (s : State) :
    Steady s (nodeRound dt tin tcp ps first n s) := by
  unfold nodeRound
  try dsimp only [-Nat.reducePow]
  repeat' first
    | with_reducible exact Steady.refl _
    | with_reducible refine (steady_mTs _ _ ?_).after ?_
    | with_reducible refine (steady_setLevel ..).after ?_
    | with_reducible refine (steady_foldl _ ?_ _ _).after ?_
    | with_reducible refine (steady_foldl2 _ ?_ _ _).after ?_
    | intro _
    | with_reducible exact rfl

/-! ### Security -/

theorem steady_mSar (f : Sec → Sec) (s : State)
    (hk : (f s.sec).keys = s.sec.keys ∧ (f s.sec).unlocked = s.sec.unlocked ∧
    (f s.sec).lc = s.sec.lc ∧ (f s.sec).nextLc = s.sec.nextLc ∧ (f s.sec).policy = s.sec.policy) :
    Steady s (State.mSar f s) := by
  unfold State.mSar
  exact (steady_stateChanged ..).after (steady_mSec _ _ hk)

theorem steady_abortReport (s : State) : Steady s (abortReport s) := by
  unfold abortReport
  try dsimp only [-Nat.reducePow]
  repeat' first
    | with_reducible exact Steady.refl _
    | with_reducible refine (steady_mSar _ _ ?_).after ?_
    | intro _
    | with_reducible exact ⟨rfl, rfl, rfl, rfl, rfl⟩
    | split

theorem sound_lockEffects (s : State) : Sound s (lockEffects s) := by
  unfold lockEffects
  try dsimp only [-Nat.reducePow]
  repeat' first
    | with_reducible exact Sound.refl _
    | with_reducible refine (steady_abandonDistil ..).sound.after ?_
    | with_reducible refine (sound_kill ..).after ?_
    | with_reducible refine (steady_abortReport ..).sound.after ?_
    | with_reducible refine (sound_foldl _ ?_ _ _).after ?_
    | with_reducible refine (sound_foldl2 _ ?_ _ _).after ?_
    | intro _

theorem steady_zeroiseCheck (s : State) : Steady s (zeroiseCheck s) := by
  unfold zeroiseCheck
  try dsimp only [-Nat.reducePow]
  repeat' first
    | with_reducible exact Steady.refl _
    | with_reducible refine (steady_mCt _ _).after ?_
    | with_reducible refine (steady_draw _).after ?_
    | with_reducible refine (steady_secReport ..).after ?_
    | with_reducible refine (steady_partReset ..).after ?_
    | intro _
    | split

theorem steady_otpWindow (s : State) : Steady s (otpWindow s).2 := by
  unfold otpWindow
  try dsimp only [-Nat.reducePow]
  repeat' first
    | with_reducible exact Steady.refl _
    | with_reducible refine (steady_draw _).after ?_
    | intro _
    | split

theorem steady_endOrder (status : Nat) (s : State) : Steady s (endOrder status s) := by
  unfold endOrder
  try dsimp only [-Nat.reducePow]
  repeat' first
    | with_reducible exact Steady.refl _
    | with_reducible refine (steady_mSec _ _ ?_).after ?_
    | with_reducible refine (steady_secReport ..).after ?_
    | intro _
    | with_reducible exact ⟨rfl, rfl, rfl, rfl, rfl⟩
    | split

theorem steady_otpOrder (f : State → State) (s : State) (hf : ∀ s, Steady s (f s)) : Steady s (otpOrder f s) := by
  unfold otpOrder
  try dsimp only [-Nat.reducePow]
  repeat' first
    | with_reducible exact Steady.refl _
    | with_reducible refine (steady_otpWindow ..).after ?_
    | with_reducible refine (steady_endOrder ..).after ?_
    | with_reducible refine (hf ..).after ?_
    | intro _
    | split

theorem sound_otpOrder (f : State → State) (s : State) (hf : ∀ s, Sound s (f s)) : Sound s (otpOrder f s) := by
  unfold otpOrder
  try dsimp only [-Nat.reducePow]
  repeat' first
    | with_reducible exact Sound.refl _
    | with_reducible refine (steady_otpWindow ..).sound.after ?_
    | with_reducible refine (steady_endOrder ..).sound.after ?_
    | with_reducible refine (hf ..).after ?_
    | intro _
    | split

theorem steady_lcRow (op : Nat) (priv : BitVec 2) (w : W64) (f : State → State) (s : State)
    (hf : ∀ s, Steady s (f s)) :
    Steady s (lcRow op priv w f s) := by
  unfold lcRow
  try dsimp only [-Nat.reducePow]
  repeat' first
    | with_reducible exact Steady.refl _
    | with_reducible refine (steady_operatorWrite _ _ _ ?_).after ?_
    | with_reducible refine (steady_endOrder ..).after ?_
    | with_reducible refine (hf ..).after ?_
    | intro _
    | split

theorem sound_lcRow (op : Nat) (priv : BitVec 2) (w : W64) (f : State → State) (s : State) (hf : ∀ s, Sound s (f s)) :
    Sound s (lcRow op priv w f s) := by
  unfold lcRow
  try dsimp only [-Nat.reducePow]
  repeat' first
    | with_reducible exact Sound.refl _
    | with_reducible refine (sound_operatorWrite _ _ _ ?_).after ?_
    | with_reducible refine (steady_endOrder ..).sound.after ?_
    | with_reducible refine (hf ..).after ?_
    | intro _
    | split

theorem steady_installCert (s : State) : Steady s (installCert s) := by
  unfold installCert
  try dsimp only [-Nat.reducePow]
  repeat' first
    | with_reducible exact Steady.refl _
    | with_reducible refine (steady_sbWrite ..).after ?_
    | with_reducible refine (steady_endOrder ..).after ?_
    | with_reducible refine (steady_foldl _ ?_ _ _).after ?_
    | with_reducible refine (steady_foldl2 _ ?_ _ _).after ?_
    | intro _
    | split

theorem steady_unlockChallenge (s : State) : Steady s (unlockChallenge s) := by
  unfold unlockChallenge
  try dsimp only [-Nat.reducePow]
  repeat' first
    | with_reducible exact Steady.refl _
    | with_reducible refine (steady_mSec _ _ ?_).after ?_
    | with_reducible refine (steady_draw _).after ?_
    | with_reducible refine (steady_endOrder ..).after ?_
    | intro _
    | with_reducible exact ⟨rfl, rfl, rfl, rfl, rfl⟩
    | split

theorem steady_readNext (l : List W64) (f : List W64 → State → State) (s : State) (hf : ∀ a0 s, Steady s (f a0 s)) :
    Steady s (readNext l f s) := by
  unfold readNext
  try dsimp only [-Nat.reducePow]
  repeat' first
    | with_reducible exact Steady.refl _
    | with_reducible refine (steady_answer ..).after ?_
    | with_reducible refine (hf ..).after ?_

theorem sound_readNext (l : List W64) (f : List W64 → State → State) (s : State) (hf : ∀ a0 s, Sound s (f a0 s)) :
    Sound s (readNext l f s) := by
  unfold readNext
  try dsimp only [-Nat.reducePow]
  repeat' first
    | with_reducible exact Sound.refl _
    | with_reducible refine (steady_answer ..).sound.after ?_
    | with_reducible refine (hf ..).after ?_

theorem steady_provOut (priv : BitVec 2) (s : State) : Steady s (provOut priv s) := by
  unfold provOut
  try dsimp only [-Nat.reducePow]
  repeat' first
    | with_reducible exact Steady.refl _
    | with_reducible refine (steady_mSec _ _ ?_).after ?_
    | with_reducible refine (steady_denied ..).after ?_
    | with_reducible refine (steady_hrp _ _ ?_).after ?_
    | with_reducible refine (steady_readNext _ _ _ ?_).after ?_
    | intro _
    | with_reducible exact ⟨rfl, rfl, rfl, rfl, rfl⟩
    | split

theorem steady_klEnd (status : Nat) (s : State) : Steady s (klEnd status s) := by
  unfold klEnd
  try dsimp only [-Nat.reducePow]
  repeat' first
    | with_reducible exact Steady.refl _
    | with_reducible refine (steady_mSec _ _ ?_).after ?_
    | with_reducible refine (steady_bump ..).after ?_
    | with_reducible refine (steady_secReport ..).after ?_
    | intro _
    | with_reducible exact ⟨rfl, rfl, rfl, rfl, rfl⟩
    | split

theorem steady_tenantWrite (priv : BitVec 2) (f : State → State) (s : State) (hf : ∀ s, Steady s (f s)) :
    Steady s (tenantWrite priv f s) := by
  unfold tenantWrite
  try dsimp only [-Nat.reducePow]
  repeat' first
    | with_reducible exact Steady.refl _
    | with_reducible refine (steady_answer ..).after ?_
    | with_reducible refine (steady_denied ..).after ?_
    | with_reducible refine (steady_hrp _ _ ?_).after ?_
    | with_reducible refine (hf ..).after ?_
    | intro _
    | split

theorem sound_tenantWrite (priv : BitVec 2) (f : State → State) (s : State) (hf : ∀ s, Sound s (f s)) :
    Sound s (tenantWrite priv f s) := by
  unfold tenantWrite
  try dsimp only [-Nat.reducePow]
  repeat' first
    | with_reducible exact Sound.refl _
    | with_reducible refine (steady_answer ..).sound.after ?_
    | with_reducible refine (steady_denied ..).sound.after ?_
    | with_reducible refine (sound_hrp _ _ ?_).after ?_
    | with_reducible refine (hf ..).after ?_
    | intro _
    | split

theorem steady_tokenPresent (c : Nat) (s : State) : Steady s (tokenPresent c s) := by
  unfold tokenPresent
  try dsimp only [-Nat.reducePow]
  repeat' first
    | with_reducible exact Steady.refl _
    | with_reducible refine (steady_mSec _ _ ?_).after ?_
    | with_reducible refine (steady_bump ..).after ?_
    | with_reducible refine (steady_secReport ..).after ?_
    | intro _
    | with_reducible exact ⟨rfl, rfl, rfl, rfl, rfl⟩
    | split

theorem steady_sarGo (c : Nat) (s : State) : Steady s (sarGo c s) := by
  unfold sarGo
  try dsimp only [-Nat.reducePow]
  repeat' first
    | with_reducible exact Steady.refl _
    | with_reducible refine (steady_mSar _ _ ?_).after ?_
    | intro _
    | with_reducible exact ⟨rfl, rfl, rfl, rfl, rfl⟩
    | split

theorem steady_sarBuildDone (s : State) : Steady s (sarBuildDone s) := by
  unfold sarBuildDone
  try dsimp only [-Nat.reducePow]
  repeat' first
    | with_reducible exact Steady.refl _
    | with_reducible refine (steady_draw _).after ?_
    | with_reducible refine (steady_bump ..).after ?_
    | with_reducible refine (steady_mSar _ _ ?_).after ?_
    | intro _
    | with_reducible exact ⟨rfl, rfl, rfl, rfl, rfl⟩
    | split

theorem steady_sarData (priv : BitVec 2) (s : State) : Steady s (sarData priv s) := by
  unfold sarData
  try dsimp only [-Nat.reducePow]
  repeat' first
    | with_reducible exact Steady.refl _
    | with_reducible refine (steady_mSec _ _ ?_).after ?_
    | with_reducible refine (steady_denied ..).after ?_
    | with_reducible refine (steady_hrp _ _ ?_).after ?_
    | with_reducible refine (steady_readNext _ _ _ ?_).after ?_
    | intro _
    | with_reducible exact ⟨rfl, rfl, rfl, rfl, rfl⟩
    | split

theorem steady_certData (priv : BitVec 2) (s : State) : Steady s (certData priv s) := by
  unfold certData
  try dsimp only [-Nat.reducePow]
  repeat' first
    | with_reducible exact Steady.refl _
    | with_reducible refine (steady_mSec _ _ ?_).after ?_
    | with_reducible refine (steady_answer ..).after ?_
    | with_reducible refine (steady_denied ..).after ?_
    | with_reducible refine (steady_hrp _ _ ?_).after ?_
    | intro _
    | with_reducible exact ⟨rfl, rfl, rfl, rfl, rfl⟩
    | split

theorem steady_wrapDumpKey (s : State) : Steady s (wrapDumpKey s).2 := by
  unfold wrapDumpKey
  try dsimp only [-Nat.reducePow]
  repeat' first
    | with_reducible exact Steady.refl _
    | with_reducible refine (steady_draw _).after ?_
    | intro _
    | split

theorem steady_dumpKey (priv : BitVec 2) (s : State) : Steady s (dumpKey priv s) := by
  unfold dumpKey
  try dsimp only [-Nat.reducePow]
  repeat' first
    | with_reducible exact Steady.refl _
    | with_reducible refine (steady_mSec _ _ ?_).after ?_
    | with_reducible refine (steady_denied ..).after ?_
    | with_reducible refine (steady_hrp _ _ ?_).after ?_
    | with_reducible refine (steady_readNext _ _ _ ?_).after ?_
    | with_reducible refine (steady_wrapDumpKey ..).after ?_
    | intro _
    | with_reducible exact ⟨rfl, rfl, rfl, rfl, rfl⟩
    | split

/-! ### Start -/

theorem steady_returnEntry (s : State) : Steady s (returnEntry s) := by
  unfold returnEntry
  try dsimp only [-Nat.reducePow]
  repeat' first
    | with_reducible exact Steady.refl _
    | with_reducible refine (steady_sbWrite ..).after ?_
    | with_reducible refine (steady_sbPaddock ..).after ?_
    | with_reducible refine (steady_foldl _ ?_ _ _).after ?_
    | with_reducible refine (steady_foldl2 _ ?_ _ _).after ?_
    | intro _
    | split

theorem steady_cfgExpert (n : Nat) (s : State) : Steady s (cfgExpert n s) := by
  unfold cfgExpert
  try dsimp only [-Nat.reducePow]
  repeat' first
    | with_reducible exact Steady.refl _
    | with_reducible refine (steady_reportSelf ..).after ?_
    | with_reducible refine (steady_foldl _ ?_ _ _).after ?_
    | with_reducible refine (steady_foldl2 _ ?_ _ _).after ?_
    | intro _

theorem steady_readStud (s : State) : Steady s (readStud s) := by
  unfold readStud
  try dsimp only [-Nat.reducePow]
  repeat' first
    | with_reducible exact Steady.refl _
    | with_reducible refine (steady_mCfg _ _).after ?_
    | with_reducible refine (steady_mVu _ _).after ?_
    | with_reducible refine (steady_bump ..).after ?_
    | with_reducible refine (steady_sbWrite ..).after ?_
    | with_reducible refine (steady_returnEntry ..).after ?_

theorem steady_s3Domains (s : State) : Steady s (s3Domains s) := by
  unfold s3Domains
  try dsimp only [-Nat.reducePow]
  repeat' first
    | with_reducible exact Steady.refl _
    | with_reducible refine (steady_requestDomain ..).after ?_
    | with_reducible refine (steady_foldl _ ?_ _ _).after ?_
    | with_reducible refine (steady_foldl2 _ ?_ _ _).after ?_
    | intro _

theorem steady_s3Fail (loci : List W128) (rows : Nat) (s : State) : Steady s (s3Fail loci rows s) := by
  unfold s3Fail
  try dsimp only [-Nat.reducePow]
  repeat' first
    | with_reducible exact Steady.refl _
    | with_reducible refine (steady_reportSelf ..).after ?_
    | with_reducible refine (steady_stageFatal ..).after ?_

theorem sound_stageS3 (fails deadSpares : List FailEntry) (void : Bool) (s : State) :
    Sound s (stageS3 fails deadSpares void s) := by
  unfold stageS3
  try dsimp only [-Nat.reducePow]
  repeat' first
    | with_reducible exact Sound.refl _
    | with_reducible refine (steady_stagePass ..).sound.after ?_
    | with_reducible refine (steady_frWindow ..).sound.after ?_
    | with_reducible refine (steady_buildRowMaps ..).sound.after ?_
    | with_reducible refine (steady_repairAll ..).sound.after ?_
    | with_reducible refine (steady_bistLog ..).sound.after ?_
    | with_reducible refine (sound_zeroArrays ..).after ?_
    | with_reducible refine (steady_s3Fail ..).sound.after ?_
    | intro _
    | split

theorem steady_hitchStart (s : State) : Steady s (hitchStart s) := by
  unfold hitchStart
  try dsimp only [-Nat.reducePow]
  repeat' first
    | with_reducible exact Steady.refl _
    | with_reducible refine (steady_mHx _ _ ?_).after ?_
    | with_reducible refine (steady_draw _).after ?_
    | with_reducible refine (steady_requestDomain ..).after ?_
    | with_reducible refine (steady_removePort ..).after ?_
    | with_reducible refine (steady_startTraining ..).after ?_
    | with_reducible refine (steady_foldl _ ?_ _ _).after ?_
    | with_reducible refine (steady_foldl2 _ ?_ _ _).after ?_
    | intro _
    | with_reducible exact ⟨rfl, rfl⟩
    | split

theorem steady_stepTime (s : State) : Steady s (stepTime s) := by
  unfold stepTime
  split
  · exact Steady.refl _
  · exact (steady_mHx _ _ ⟨rfl, rfl⟩).after ⟨rfl, rfl, rfl⟩

theorem steady_s4End (s : State) : Steady s (s4End s) := by
  unfold s4End
  try dsimp only [-Nat.reducePow]
  repeat' first
    | with_reducible exact Steady.refl _
    | with_reducible refine (steady_mHx _ _ ?_).after ?_
    | with_reducible refine (steady_reportSelf ..).after ?_
    | with_reducible refine (steady_stageReport ..).after ?_
    | with_reducible refine (steady_stagePass ..).after ?_
    | with_reducible refine (steady_startTraining ..).after ?_
    | with_reducible refine (steady_stepTime ..).after ?_
    | with_reducible refine (steady_foldl _ ?_ _ _).after ?_
    | with_reducible refine (steady_foldl2 _ ?_ _ _).after ?_
    | intro _
    | with_reducible exact ⟨rfl, rfl⟩
    | split

theorem steady_stageS4 (s : State) : Steady s (stageS4 s) := by
  unfold stageS4
  try dsimp only [-Nat.reducePow]
  repeat' first
    | with_reducible exact Steady.refl _
    | with_reducible refine (steady_hitchStart ..).after ?_
    | with_reducible refine (steady_s4End ..).after ?_
    | intro _
    | split

theorem steady_surveySector (ok : Bool) (t : SectorT) (s : State) : Steady s (surveySector ok t s) := by
  unfold surveySector
  try dsimp only [-Nat.reducePow]
  repeat' first
    | with_reducible exact Steady.refl _
    | with_reducible refine (steady_bump ..).after ?_
    | with_reducible refine (steady_mSector ..).after ?_
    | with_reducible refine (steady_timedOut ..).after ?_
    | intro _
    | split

theorem steady_surveySectors (v : Survey) (s : State) : Steady s (surveySectors v s) := by
  unfold surveySectors
  try dsimp only [-Nat.reducePow]
  repeat' first
    | with_reducible exact Steady.refl _
    | with_reducible refine (steady_surveySector ..).after ?_
    | with_reducible refine (steady_foldl _ ?_ _ _).after ?_
    | with_reducible refine (steady_foldl2 _ ?_ _ _).after ?_
    | intro _

theorem sound_surveyRouters (v : Survey) (s : State) : Sound s (surveyRouters v s) := by
  unfold surveyRouters
  try dsimp only [-Nat.reducePow]
  repeat' first
    | with_reducible exact Sound.refl _
    | with_reducible refine (steady_bump ..).sound.after ?_
    | with_reducible refine (sound_fcpTimeout ..).after ?_
    | with_reducible refine (steady_timedOut ..).sound.after ?_
    | with_reducible refine (sound_foldl _ ?_ _ _).after ?_
    | with_reducible refine (sound_foldl2 _ ?_ _ _).after ?_
    | intro _

theorem steady_surveyLinks (v : Survey) (s : State) : Steady s (surveyLinks v s) := by
  unfold surveyLinks
  try dsimp only [-Nat.reducePow]
  repeat' first
    | with_reducible exact Steady.refl _
    | with_reducible refine (steady_hlinkDown ..).after ?_
    | with_reducible refine (steady_hlinkWidth ..).after ?_
    | with_reducible refine (steady_foldl _ ?_ _ _).after ?_
    | with_reducible refine (steady_foldl2 _ ?_ _ _).after ?_
    | intro _
    | split

theorem steady_applyStud (s : State) : Steady s (applyStud s) := by
  unfold applyStud
  try dsimp only [-Nat.reducePow]
  repeat' first
    | with_reducible exact Steady.refl _
    | with_reducible refine (steady_mYm _ _).after ?_
    | with_reducible refine (steady_mPad ..).after ?_
    | with_reducible refine (steady_foldl _ ?_ _ _).after ?_
    | with_reducible refine (steady_foldl2 _ ?_ _ _).after ?_
    | intro _

theorem sound_stageS5 (v : Survey) (s : State) : Sound s (stageS5 v s) := by
  unfold stageS5
  try dsimp only [-Nat.reducePow]
  repeat' first
    | with_reducible exact Sound.refl _
    | with_reducible refine (steady_mYm _ _).sound.after ?_
    | with_reducible refine (steady_mOb _ _).sound.after ?_
    | with_reducible refine (steady_reportUnit ..).sound.after ?_
    | with_reducible refine (steady_stagePass ..).sound.after ?_
    | with_reducible refine (steady_stageFatal ..).sound.after ?_
    | with_reducible refine (steady_surveySectors ..).sound.after ?_
    | with_reducible refine (sound_surveyRouters ..).after ?_
    | with_reducible refine (steady_surveyLinks ..).sound.after ?_
    | with_reducible refine (steady_applyStud ..).sound.after ?_
    | with_reducible refine (sound_foldl _ ?_ _ _).after ?_
    | with_reducible refine (sound_foldl2 _ ?_ _ _).after ?_
    | intro _
    | split

theorem steady_s6Core (h : Huid) (r : Nat) (s : State) : Steady s (s6Core h r s) := by
  unfold s6Core
  try dsimp only [-Nat.reducePow]
  repeat' first
    | with_reducible exact Steady.refl _
    | with_reducible refine (steady_bump ..).after ?_
    | with_reducible refine (steady_reportUnit ..).after ?_
    | with_reducible refine (steady_sbDefect ..).after ?_
    | with_reducible refine (steady_mPad ..).after ?_
    | with_reducible refine (steady_setPad ..).after ?_
    | intro _
    | split

theorem steady_stageS6 (results : List PairSay) (void : Bool) (s : State) : Steady s (stageS6 results void s) := by
  unfold stageS6
  try dsimp only [-Nat.reducePow]
  repeat' first
    | with_reducible exact Steady.refl _
    | with_reducible refine (steady_bump ..).after ?_
    | with_reducible refine (steady_stagePass ..).after ?_
    | with_reducible refine (steady_stageFatal ..).after ?_
    | with_reducible refine (steady_s6Core ..).after ?_
    | with_reducible refine (steady_foldl _ ?_ _ _).after ?_
    | with_reducible refine (steady_foldl2 _ ?_ _ _).after ?_
    | intro _
    | split

theorem steady_remapAll (s : State) : Steady s (remapAll s) := by
  unfold remapAll
  refine steady_foldl _ (fun s a => ?_) _ _
  dsimp only
  split
  · exact Steady.refl _
  · exact Steady.getD (fun t h => steady_remapLabel h) (Steady.refl _)

theorem steady_firstTables (s : State) : Steady s (firstTables s) := by
  unfold firstTables
  try dsimp only [-Nat.reducePow]
  repeat' first
    | with_reducible exact Steady.refl _
    | with_reducible refine (steady_mYm _ _).after ?_
    | with_reducible refine (steady_bump ..).after ?_

theorem steady_stageS7 (routersAnswered : Bool) (s : State) : Steady s (stageS7 routersAnswered s) := by
  unfold stageS7
  try dsimp only [-Nat.reducePow]
  repeat' first
    | with_reducible exact Steady.refl _
    | with_reducible refine (steady_reachUpdate ..).after ?_
    | with_reducible refine (steady_stagePass ..).after ?_
    | with_reducible refine (steady_stageFatal ..).after ?_
    | with_reducible refine (steady_remapAll ..).after ?_
    | with_reducible refine (steady_firstTables ..).after ?_
    | intro _
    | split

theorem steady_stageS8 (s : State) : Steady s (stageS8 s) := by
  unfold stageS8
  try dsimp only [-Nat.reducePow]
  repeat' first
    | with_reducible exact Steady.refl _
    | with_reducible refine (steady_startMuster ..).after ?_
    | with_reducible refine (steady_stageFatal ..).after ?_
    | intro _
    | split

theorem steady_stageS9 (s : State) : Steady s (stageS9 s) := by
  unfold stageS9
  try dsimp only [-Nat.reducePow]
  repeat' first
    | with_reducible exact Steady.refl _
    | with_reducible refine (steady_arriveBarrier0 ..).after ?_
    | with_reducible refine (steady_enterService ..).after ?_
    | intro _
    | split

end Sys2Proof.Machine
end

