-- ==== Sys2Proof/Laws/Keeps6.lean ====
section
/-!
SUPPORT. What the operations of these files of the machine leave alone: MusterRun, Watching, Faults, Dumps, HostPort,
Pins.
-/
namespace Sys2Proof.Machine

/-! ### MusterRun -/

theorem steady_sendCommit (h : Huid) (s : State) : Steady s (sendCommit h s) := by
  unfold sendCommit
  try dsimp only [-Nat.reducePow]
  repeat' first
    | with_reducible exact Steady.refl _
    | with_reducible refine (steady_sendMuster ..).after ?_

theorem steady_resend (h : Huid) (blocks : List Nat) (s : State) : Steady s (resend h blocks s) := by
  unfold resend
  try dsimp only [-Nat.reducePow]
  repeat' first
    | with_reducible exact Steady.refl _
    | with_reducible refine (steady_bump ..).after ?_
    | with_reducible refine (steady_sendBlock ..).after ?_
    | with_reducible refine (steady_foldl _ ?_ _ _).after ?_
    | with_reducible refine (steady_foldl2 _ ?_ _ _).after ?_
    | intro _

theorem steady_incompleteCore (h : Huid) (s : State) : Steady s (incompleteCore h s) := by
  unfold incompleteCore
  try dsimp only [-Nat.reducePow]
  repeat' first
    | with_reducible exact Steady.refl _
    | with_reducible refine (steady_mPad ..).after ?_
    | with_reducible refine (steady_enterFenced ..).after ?_
    | with_reducible refine (steady_sendMuster ..).after ?_

theorem steady_incompleteReport (hs : List Huid) (s : State) : Steady s (incompleteReport hs s) := by
  unfold incompleteReport
  try dsimp only [-Nat.reducePow]
  repeat' first
    | with_reducible exact Steady.refl _
    | with_reducible refine (steady_raise ..).after ?_

theorem steady_nextOf (l : List Nat) (s : State) : Steady s (nextOf l s) := by
  induction l generalizing s with
  | nil => exact (steady_mCfg ..)
  | cons n l ih =>
    unfold nextOf
    split
    · exact (ih _).after (steady_seqNext ..)
    · exact (steady_startMuster ..).after (steady_mCfg ..)

theorem steady_nextMuster (s : State) : Steady s (nextMuster s) := by
  unfold nextMuster
  try dsimp only [-Nat.reducePow]
  repeat' first
    | with_reducible exact Steady.refl _
    | with_reducible refine (steady_nextOf ..).after ?_

theorem steady_stage8End (done left : List Huid) (s : State) : Steady s (stage8End done left s) := by
  unfold stage8End
  try dsimp only [-Nat.reducePow]
  repeat' first
    | with_reducible exact Steady.refl _
    | with_reducible refine (steady_stagePass ..).after ?_
    | with_reducible refine (steady_stageFatal ..).after ?_
    | intro _
    | split

theorem steady_musterEnd (s : State) : Steady s (musterEnd s) := by
  unfold musterEnd
  try dsimp only [-Nat.reducePow]
  repeat' first
    | with_reducible exact Steady.refl _
    | with_reducible refine (steady_bump ..).after ?_
    | with_reducible refine (steady_mMuster ..).after ?_
    | with_reducible refine (steady_seqNext ..).after ?_
    | with_reducible refine (steady_incompleteCore ..).after ?_
    | with_reducible refine (steady_incompleteReport ..).after ?_
    | with_reducible refine (steady_nextMuster ..).after ?_
    | with_reducible refine (steady_stage8End ..).after ?_
    | with_reducible refine (steady_foldl _ ?_ _ _).after ?_
    | with_reducible refine (steady_foldl2 _ ?_ _ _).after ?_
    | intro _
    | split

theorem steady_musterNext (s : State) : Steady s (musterNext s) := by
  unfold musterNext
  try dsimp only [-Nat.reducePow]
  repeat' first
    | with_reducible exact Steady.refl _
    | with_reducible refine (steady_mMuster ..).after ?_
    | with_reducible refine (steady_queryAll ..).after ?_
    | with_reducible refine (steady_sendCommit ..).after ?_
    | with_reducible refine (steady_resend ..).after ?_
    | with_reducible refine (steady_musterEnd ..).after ?_
    | with_reducible refine (steady_foldl _ ?_ _ _).after ?_
    | with_reducible refine (steady_foldl2 _ ?_ _ _).after ?_
    | intro _
    | split

theorem steady_musterAnswered (s : State) : Steady s (musterAnswered s) := by
  unfold musterAnswered
  try dsimp only [-Nat.reducePow]
  repeat' first
    | with_reducible exact Steady.refl _
    | with_reducible refine (steady_musterEnd ..).after ?_
    | with_reducible refine (steady_musterNext ..).after ?_
    | intro _
    | split

theorem steady_musterBitmap (h : Huid) (map : Bytes) (s : State) : Steady s (musterBitmap h map s) := by
  unfold musterBitmap
  try dsimp only [-Nat.reducePow]
  repeat' first
    | with_reducible exact Steady.refl _
    | with_reducible refine (steady_mMuster ..).after ?_
    | with_reducible refine (steady_musterAnswered ..).after ?_
    | intro _
    | split

theorem steady_sessionBitmap (x : Session) (map : Bytes) (s : State) : Steady s (sessionBitmap x map s) := by
  unfold sessionBitmap
  try dsimp only [-Nat.reducePow]
  repeat' first
    | with_reducible exact Steady.refl _
    | with_reducible refine (steady_endSession ..).after ?_
    | with_reducible refine (steady_sendMuster ..).after ?_
    | with_reducible refine (steady_mSession ..).after ?_
    | with_reducible refine (steady_sendCommit ..).after ?_
    | with_reducible refine (steady_resend ..).after ?_
    | intro _
    | split

theorem steady_bitmapPacket (p : Ingress) (s : State) : Steady s (bitmapPacket p s) := by
  unfold bitmapPacket
  try dsimp only [-Nat.reducePow]
  repeat' first
    | with_reducible exact Steady.refl _
    | with_reducible refine (steady_musterBitmap ..).after ?_
    | with_reducible refine (steady_sessionBitmap ..).after ?_
    | intro _
    | split

theorem steady_sessionCommitted (x : Session) (s : State) : Steady s (sessionCommitted x s) := by
  unfold sessionCommitted
  try dsimp only [-Nat.reducePow]
  repeat' first
    | with_reducible exact Steady.refl _
    | with_reducible refine (steady_mPad ..).after ?_
    | with_reducible refine (steady_mSession ..).after ?_
    | with_reducible refine (steady_openTest ..).after ?_

theorem steady_musterCommitted (h : Huid) (s : State) : Steady s (musterCommitted h s) := by
  unfold musterCommitted
  try dsimp only [-Nat.reducePow]
  repeat' first
    | with_reducible exact Steady.refl _
    | with_reducible refine (steady_mPad ..).after ?_
    | with_reducible refine (steady_mMuster ..).after ?_
    | with_reducible refine (steady_musterAnswered ..).after ?_
    | intro _
    | split

theorem steady_commitPacket (p : Ingress) (s : State) : Steady s (commitPacket p s) := by
  unfold commitPacket
  try dsimp only [-Nat.reducePow]
  repeat' first
    | with_reducible exact Steady.refl _
    | with_reducible refine (steady_sessionCommitted ..).after ?_
    | with_reducible refine (steady_musterCommitted ..).after ?_
    | intro _
    | split

theorem steady_musterTimeout (s : State) : Steady s (musterTimeout s) := by
  unfold musterTimeout
  try dsimp only [-Nat.reducePow]
  repeat' first
    | with_reducible exact Steady.refl _
    | with_reducible refine (steady_mMuster ..).after ?_
    | with_reducible refine (steady_musterEnd ..).after ?_
    | with_reducible refine (steady_musterNext ..).after ?_
    | with_reducible refine (steady_foldl _ ?_ _ _).after ?_
    | with_reducible refine (steady_foldl2 _ ?_ _ _).after ?_
    | intro _
    | split

theorem steady_sectorMuster (n : Nat) (s : State) : Steady s (sectorMuster n s) := by
  unfold sectorMuster
  try dsimp only [-Nat.reducePow]
  repeat' first
    | with_reducible exact Steady.refl _
    | with_reducible refine (steady_orderSectorMuster ..).after ?_
    | with_reducible refine (steady_seqNext ..).after ?_
    | intro _
    | split

/-! ### Watching -/

theorem steady_snapWrite (w : W64) (s : State) : Steady s (snapWrite w s) := by
  unfold snapWrite
  try dsimp only [-Nat.reducePow]
  repeat' first
    | with_reducible exact Steady.refl _
    | with_reducible refine (steady_snapNow ..).after ?_
    | intro _
    | split

theorem steady_snapPeriod (s : State) : Steady s (snapPeriod s) := by
  unfold snapPeriod
  try dsimp only [-Nat.reducePow]
  repeat' first
    | with_reducible exact Steady.refl _
    | with_reducible refine (steady_snapNow ..).after ?_
    | intro _
    | split

theorem steady_watchWrite (c : Nat) (w : W64) (s : State) : Steady s (watchWrite c w s) := by
  unfold watchWrite
  try dsimp only [-Nat.reducePow]
  repeat' first
    | with_reducible exact Steady.refl _
    | with_reducible refine (steady_mOb _ _).after ?_
    | intro _
    | split

theorem steady_tenantWatch (priv : BitVec 2) (f : Nat → State → State) (s : State) (hf : ∀ a0 s, Steady s (f a0 s)) :
    Steady s (tenantWatch priv f s) := by
  unfold tenantWatch
  try dsimp only [-Nat.reducePow]
  repeat' first
    | with_reducible exact Steady.refl _
    | with_reducible refine (steady_denied ..).after ?_
    | with_reducible refine (steady_hrp _ _ ?_).after ?_
    | with_reducible refine (hf ..).after ?_
    | intro _
    | split

theorem sound_tenantWatch (priv : BitVec 2) (f : Nat → State → State) (s : State) (hf : ∀ a0 s, Sound s (f a0 s)) :
    Sound s (tenantWatch priv f s) := by
  unfold tenantWatch
  try dsimp only [-Nat.reducePow]
  repeat' first
    | with_reducible exact Sound.refl _
    | with_reducible refine (steady_denied ..).sound.after ?_
    | with_reducible refine (sound_hrp _ _ ?_).after ?_
    | with_reducible refine (hf ..).after ?_
    | intro _
    | split

theorem steady_watchGo (priv : BitVec 2) (w : W64) (s : State) : Steady s (watchGo priv w s) := by
  unfold watchGo
  try dsimp only [-Nat.reducePow]
  repeat' first
    | with_reducible exact Steady.refl _
    | with_reducible refine (steady_answer ..).after ?_
    | with_reducible refine (steady_watchWrite ..).after ?_
    | with_reducible refine (steady_tenantWatch _ _ _ ?_).after ?_
    | intro _

theorem steady_watchNext (c : Nat) (s : State) : Steady s (watchNext c s) := by
  unfold watchNext
  try dsimp only [-Nat.reducePow]
  repeat' first
    | with_reducible exact Steady.refl _
    | with_reducible refine (steady_mOb _ _).after ?_
    | with_reducible refine (steady_answer ..).after ?_
    | intro _
    | split

theorem steady_watchData (priv : BitVec 2) (s : State) : Steady s (watchData priv s) := by
  unfold watchData
  try dsimp only [-Nat.reducePow]
  repeat' first
    | with_reducible exact Steady.refl _
    | with_reducible refine (steady_tenantWatch _ _ _ ?_).after ?_
    | with_reducible refine (steady_watchNext ..).after ?_
    | intro _

theorem steady_dumpWrite (w : W64) (s : State) : Steady s (dumpWrite w s) := by
  unfold dumpWrite
  try dsimp only [-Nat.reducePow]
  repeat' first
    | with_reducible exact Steady.refl _
    | with_reducible refine (steady_dumpStart ..).after ?_
    | intro _
    | split

theorem steady_dumpGo (c : DumpCause) (s : State) : Steady s (dumpGo c s) := by
  unfold dumpGo
  try dsimp only [-Nat.reducePow]
  repeat' first
    | with_reducible exact Steady.refl _
    | with_reducible refine (steady_operatorWrite _ _ _ ?_).after ?_
    | with_reducible refine (steady_dumpStart ..).after ?_
    | with_reducible refine (steady_dumpWrite ..).after ?_
    | intro _
    | split

/-! ### Faults -/

theorem steady_eventPortMessage (k0 : Bool) (d0 : W64) (k1 : Bool) (d1 : W64) (s : State) :
    Steady s (eventPortMessage k0 d0 k1 d1 s) := by
  unfold eventPortMessage
  split
  · exact Steady.refl _
  · split
    · exact steady_badMsg ..
    · have h := steady_validate 0 (d1 ++ d0) s
      dsimp only
      split
      · exact h
      · exact h.trans (Steady.getD (fun t k => steady_placeRec k) (steady_mFc ..))

theorem steady_validateAll (inst : Nat) (l : List W128) (s : State) : Steady s (validateAll inst l s).2 := by
  induction l generalizing s with
  | nil => exact Steady.refl s
  | cons m l ih => exact (ih _).after (steady_validate inst m s)

theorem steady_eventPacket (p : Ingress) (s : State) : Steady s (eventPacket p s) := by
  unfold eventPacket
  dsimp only
  split
  · exact steady_badMsg ..
  · refine Steady.trans (steady_validateAll (1 + p.port.toNat) ((List.range (p.body.length / 16)).map
      fun i => BitVec.ofNat 128 (leAt p.body (16 * i) 16)) s) ?_
    (repeat' split) <;> first
      | exact Steady.refl _
      | exact Steady.getD (fun t h => steady_placeRec h) (steady_mFc ..)
      | exact steady_mFc ..

theorem steady_retryRun (rx : Nat) (l : List RingRec) (s : State) : Steady s (retryRun rx l s).2 := by
  induction l generalizing s with
  | nil => exact Steady.refl s
  | cons r l ih =>
    unfold retryRun
    split
    · exact ((steady_placeRec (by assumption)).trans (steady_waited ..)).trans (ih _)
    · exact Steady.refl s

theorem steady_ringPlaceRetry (w : Writer) (s : State) : Steady s (ringPlaceRetry w s) := by
  unfold ringPlaceRetry
  try dsimp only [-Nat.reducePow]
  repeat' first
    | with_reducible exact Steady.refl _
    | with_reducible refine (steady_mFc _ _).after ?_
    | with_reducible refine (steady_mCollector ..).after ?_
    | with_reducible refine (steady_retryRun ..).after ?_
    | intro _
    | split

theorem steady_mClass (c : Nat) (f : ClassSt → ClassSt) (s : State) : Steady s (State.mClass c f s) := by
  unfold State.mClass
  try dsimp only [-Nat.reducePow]
  repeat' first
    | with_reducible exact Steady.refl _
    | with_reducible refine (steady_mFc _ _).after ?_

theorem steady_evictSource {s t : State} (h : evictSource s = some t) : Steady s t := by
  unfold evictSource at h
  dsimp only at h
  split at h
  · cases h
    exact Steady.refl _
  · split at h
    · cases h
    · cases h
      exact (steady_bump ..).after (steady_mFc ..)

theorem steady_countSource (c die : Nat) (key : W128) (now : Nat) (s : State) :
    Steady s (countSource c die key now s).2 := by
  unfold countSource
  try dsimp only [-Nat.reducePow]
  repeat' first
    | with_reducible exact Steady.refl _
    | with_reducible refine (steady_mFc _ _).after ?_
    | with_reducible refine (steady_bump ..).after ?_
    | with_reducible refine (steady_evictSource (by assumption)).after ?_
    | intro _
    | split

theorem steady_blockReset (h : Huid) (s : State) : Steady s (blockReset h s) := by
  unfold blockReset
  try dsimp only [-Nat.reducePow]
  repeat' first
    | with_reducible exact Steady.refl _
    | with_reducible refine (steady_sectorReset ..).after ?_
    | with_reducible refine (steady_partReset ..).after ?_
    | intro _
    | split

theorem steady_latchFirst (m : W128) (c level : Nat) (esc : Bool) (r : RingRec) (s : State) :
    Steady s (latchFirst m c level esc r s) := by
  unfold latchFirst
  try dsimp only [-Nat.reducePow]
  repeat' first
    | with_reducible exact Steady.refl _
    | with_reducible refine (steady_mFc _ _).after ?_

theorem steady_forwardFault (m : W128) (time : Nat) (s : State) : Steady s (forwardFault m time s) := by
  unfold forwardFault
  try dsimp only [-Nat.reducePow]
  repeat' first
    | with_reducible exact Steady.refl _
    | with_reducible refine (steady_hxSend ..).after ?_
    | intro _
    | split

theorem steady_react (m loc : W128) (c level : Nat) (esc : Bool) (r : RingRec) (s : State) :
    Steady s (react m loc c level esc r s) := by
  unfold react
  try dsimp only [-Nat.reducePow]
  repeat' first
    | with_reducible exact Steady.refl _
    | with_reducible refine (steady_dumpStart ..).after ?_
    | with_reducible refine (steady_locusRecord ..).after ?_
    | with_reducible refine (steady_chipReset ..).after ?_
    | with_reducible refine (steady_mClass ..).after ?_
    | with_reducible refine (steady_blockReset ..).after ?_
    | with_reducible refine (steady_latchFirst ..).after ?_
    | with_reducible refine (steady_forwardFault ..).after ?_
    | intro _
    | split

theorem steady_processMsg (m loc : W128) (first : Bool) (r : RingRec) (s : State) :
    Steady s (processMsg m loc first r s) := by
  unfold processMsg
  try dsimp only [-Nat.reducePow]
  repeat' first
    | with_reducible exact Steady.refl _
    | with_reducible refine (steady_mFc _ _).after ?_
    | with_reducible refine (steady_bump ..).after ?_
    | with_reducible refine (steady_countSource ..).after ?_
    | with_reducible refine (steady_react ..).after ?_
    | intro _
    | split

theorem sound_yardMsg (m : W128) (s : State) : Sound s (yardMsg m s) := by
  unfold yardMsg
  try dsimp only [-Nat.reducePow]
  repeat' first
    | with_reducible exact Sound.refl _
    | with_reducible refine (steady_bump ..).sound.after ?_
    | with_reducible refine (steady_pumpFcp ..).sound.after ?_
    | with_reducible refine (steady_hlinkDown ..).sound.after ?_
    | with_reducible refine (steady_hlinkWidth ..).sound.after ?_
    | with_reducible refine (steady_routerFailed ..).sound.after ?_
    | with_reducible refine (sound_ymAdvance ..).after ?_
    | with_reducible refine (steady_pollDone ..).sound.after ?_
    | with_reducible refine (steady_routeMiss ..).sound.after ?_
    | intro _
    | split

theorem steady_dropRecord (r : RingRec) (s : State) : Steady s (dropRecord r s) := by
  unfold dropRecord
  try dsimp only [-Nat.reducePow]
  repeat' first
    | with_reducible exact Steady.refl _
    | with_reducible refine (steady_mFc _ _).after ?_

theorem sound_fcProcess (s : State) : Sound s (fcProcess s) := by
  unfold fcProcess
  try dsimp only [-Nat.reducePow]
  repeat' first
    | with_reducible exact Sound.refl _
    | with_reducible refine (steady_mFc _ _).sound.after ?_
    | with_reducible refine (steady_processMsg ..).sound.after ?_
    | with_reducible refine (sound_yardMsg ..).after ?_
    | with_reducible refine (steady_dropRecord ..).sound.after ?_
    | intro _
    | split

theorem steady_fcAck (w : W64) (s : State) : Steady s (fcAck w s) := by
  unfold fcAck
  try dsimp only [-Nat.reducePow]
  repeat' first
    | with_reducible exact Steady.refl _
    | with_reducible refine (steady_mFc _ _).after ?_
    | with_reducible refine (steady_bump ..).after ?_
    | with_reducible refine (steady_mClass ..).after ?_
    | intro _
    | split

theorem steady_levelLeaked (c die : Nat) (key : W128) (s : State) : Steady s (levelLeaked c die key s) := by
  unfold levelLeaked
  try dsimp only [-Nat.reducePow]
  repeat' first
    | with_reducible exact Steady.refl _
    | with_reducible refine (steady_mFc _ _).after ?_

theorem steady_injectWrite (priv : BitVec 2) (f : State → State) (s : State) (hf : ∀ s, Steady s (f s)) :
    Steady s (injectWrite priv f s) := by
  unfold injectWrite
  try dsimp only [-Nat.reducePow]
  repeat' first
    | with_reducible exact Steady.refl _
    | with_reducible refine (steady_reportSelf ..).after ?_
    | with_reducible refine (steady_answer ..).after ?_
    | with_reducible refine (steady_denied ..).after ?_
    | with_reducible refine (steady_hrp _ _ ?_).after ?_
    | with_reducible refine (hf ..).after ?_
    | intro _
    | split

theorem sound_injectWrite (priv : BitVec 2) (f : State → State) (s : State) (hf : ∀ s, Sound s (f s)) :
    Sound s (injectWrite priv f s) := by
  unfold injectWrite
  try dsimp only [-Nat.reducePow]
  repeat' first
    | with_reducible exact Sound.refl _
    | with_reducible refine (steady_reportSelf ..).sound.after ?_
    | with_reducible refine (steady_answer ..).sound.after ?_
    | with_reducible refine (steady_denied ..).sound.after ?_
    | with_reducible refine (sound_hrp _ _ ?_).after ?_
    | with_reducible refine (hf ..).after ?_
    | intro _
    | split

theorem steady_injectMessage (s : State) : Steady s (injectMessage s) := by
  unfold injectMessage
  split
  · exact Steady.refl _
  · have h := steady_validate 0 (s.fc.inj1 ++ s.fc.inj0) s
    dsimp only
    split
    · exact h
    · exact h.trans (Steady.getD (fun t k => steady_placeRec k) (steady_mFc ..))

theorem steady_injectLocal (w : W64) (s : State) : Steady s (injectLocal w s) := by
  unfold injectLocal
  try dsimp only [-Nat.reducePow]
  repeat' first
    | with_reducible exact Steady.refl _
    | with_reducible refine (steady_reportSelf ..).after ?_
    | intro _
    | split

theorem steady_injectEcc (w : W64) (s : State) : Steady s (injectEcc w s) := by
  unfold injectEcc
  try dsimp only [-Nat.reducePow]
  repeat' first
    | with_reducible exact Steady.refl _
    | with_reducible refine (steady_mMem _ _ ?_).after ?_
    | intro _
    | with_reducible exact ⟨rfl, rfl, rfl, rfl, rfl, rfl⟩
    | split

theorem steady_injectGo (w : W64) (s : State) : Steady s (injectGo w s) := by
  unfold injectGo
  try dsimp only [-Nat.reducePow]
  repeat' first
    | with_reducible exact Steady.refl _
    | with_reducible refine (steady_injectMessage ..).after ?_
    | with_reducible refine (steady_injectLocal ..).after ?_
    | with_reducible refine (steady_injectEcc ..).after ?_
    | intro _
    | split

theorem steady_injectRow (mode : Nat) (priv : BitVec 2) (w : W64) (f : State → State) (s : State)
    (hf : ∀ s, Steady s (f s)) :
    Steady s (injectRow mode priv w f s) := by
  unfold injectRow
  try dsimp only [-Nat.reducePow]
  repeat' first
    | with_reducible exact Steady.refl _
    | with_reducible refine (steady_injectWrite _ _ _ ?_).after ?_
    | with_reducible refine (hf ..).after ?_
    | intro _
    | split

theorem sound_injectRow (mode : Nat) (priv : BitVec 2) (w : W64) (f : State → State) (s : State)
    (hf : ∀ s, Sound s (f s)) :
    Sound s (injectRow mode priv w f s) := by
  unfold injectRow
  try dsimp only [-Nat.reducePow]
  repeat' first
    | with_reducible exact Sound.refl _
    | with_reducible refine (sound_injectWrite _ _ _ ?_).after ?_
    | with_reducible refine (hf ..).after ?_
    | intro _
    | split

/-! ### Dumps -/

theorem steady_writeSection (u status : Nat) (b : Bytes) (s : State) : Steady s (writeSection u status b s) := by
  unfold writeSection
  try dsimp only [-Nat.reducePow]
  repeat' first
    | with_reducible exact Steady.refl _
    | with_reducible refine (steady_tackWrite ..).after ?_
    | with_reducible refine (steady_foldl _ ?_ _ _).after ?_
    | with_reducible refine (steady_foldl2 _ ?_ _ _).after ?_
    | intro _

theorem steady_sectionEnd (u : Nat) (s : State) : Steady s (sectionEnd u s) := by
  unfold sectionEnd
  try dsimp only [-Nat.reducePow]
  repeat' first
    | with_reducible exact Steady.refl _
    | with_reducible refine (steady_mDump ..).after ?_

theorem steady_dumpSectionDone (s : State) : Steady s (dumpSectionDone s) := by
  unfold dumpSectionDone
  try dsimp only [-Nat.reducePow]
  repeat' first
    | with_reducible exact Steady.refl _
    | with_reducible refine (steady_mOb _ _).after ?_
    | with_reducible refine (steady_writeSection ..).after ?_
    | with_reducible refine (steady_sectionEnd ..).after ?_
    | intro _
    | split

theorem steady_dumpSectionTimeout (s : State) : Steady s (dumpSectionTimeout s) := by
  unfold dumpSectionTimeout
  try dsimp only [-Nat.reducePow]
  repeat' first
    | with_reducible exact Steady.refl _
    | with_reducible refine (steady_mOb _ _).after ?_
    | with_reducible refine (steady_reportSelf ..).after ?_
    | with_reducible refine (steady_writeSection ..).after ?_
    | with_reducible refine (steady_sectionEnd ..).after ?_
    | intro _
    | split

theorem steady_tackRsp (p : Ingress) (s : State) : Steady s (tackRsp p s) := by
  unfold tackRsp
  try dsimp only [-Nat.reducePow]
  repeat' first
    | with_reducible exact Steady.refl _
    | with_reducible refine (steady_mOb _ _).after ?_
    | with_reducible refine (steady_reportSelf ..).after ?_
    | intro _
    | split

/-! ### HostPort -/

theorem steady_writeLow (a : Nat) (w : W64) (s : State) : Steady s (writeLow a w s) := by
  unfold writeLow
  try dsimp only [-Nat.reducePow]
  repeat' first
    | with_reducible exact Steady.refl _
    | with_reducible refine (steady_mCfg _ _).after ?_
    | with_reducible refine (steady_mFc _ _).after ?_
    | with_reducible refine (steady_mCt _ _).after ?_
    | with_reducible refine (steady_mLed _ _).after ?_
    | with_reducible refine (steady_mTwc _ _).after ?_
    | with_reducible refine (steady_mPer _ _).after ?_
    | with_reducible refine (steady_mMem _ _ ?_).after ?_
    | with_reducible refine (steady_mCluster ..).after ?_
    | intro _
    | with_reducible exact ⟨rfl, rfl, rfl, rfl, rfl, rfl⟩
    | split

theorem steady_writeHigh (a : Nat) (w : W64) (s : State) : Steady s (writeHigh a w s) := by
  unfold writeHigh
  try dsimp only [-Nat.reducePow]
  repeat' first
    | with_reducible exact Steady.refl _
    | with_reducible refine (steady_mVu _ _).after ?_
    | with_reducible refine (steady_mYm _ _).after ?_
    | with_reducible refine (steady_mHx _ _ ?_).after ?_
    | with_reducible refine (steady_mFr _ _).after ?_
    | with_reducible refine (steady_mTs _ _ ?_).after ?_
    | with_reducible refine (steady_mSec _ _ ?_).after ?_
    | with_reducible refine (steady_mOb _ _).after ?_
    | intro _
    | with_reducible exact ⟨rfl, rfl, rfl, rfl, rfl⟩
    | with_reducible exact ⟨rfl, rfl⟩
    | with_reducible exact rfl
    | split

theorem steady_basicWrite (a : Nat) (w : W64) (s : State) : Steady s (basicWrite a w s) := by
  unfold basicWrite
  try dsimp only [-Nat.reducePow]
  repeat' first
    | with_reducible exact Steady.refl _
    | with_reducible refine (steady_writeLow ..).after ?_
    | with_reducible refine (steady_writeHigh ..).after ?_
    | intro _
    | split

theorem steady_fuseBits (n : Nat) (s : State) : Steady s (fuseBits n s).2 := by
  induction n generalizing s with
  | zero => exact Steady.refl s
  | succ n ih => exact (ih _).after (steady_draw s)

theorem steady_pkgCtrl (priv : BitVec 2) (w : W64) (s : State) : Steady s (pkgCtrl priv w s) := by
  unfold pkgCtrl
  split
  · exact steady_pkgRow _ _ _ _ _ (steady_pkgStart _)
  · exact steady_pkgRow _ _ _ _ _ steady_pkgClose
  · exact steady_pkgRow _ _ _ _ _ steady_pkgAbort
  · exact steady_testOrder _ _ _ _ Steady.refl

theorem steady_sarCtrl (priv : BitVec 2) (w : W64) (s : State) : Steady s (sarCtrl priv w s) := by
  unfold sarCtrl
  try dsimp only [-Nat.reducePow]
  repeat' first
    | with_reducible exact Steady.refl _
    | with_reducible refine (steady_answer ..).after ?_
    | with_reducible refine (steady_denied ..).after ?_
    | with_reducible refine (steady_sarGo ..).after ?_
    | intro _
    | split

theorem steady_expertAccess (priv : BitVec 2) (a : Nat) (f : State → State) (s : State) (hf : ∀ s, Steady s (f s)) :
    Steady s (expertAccess priv a f s) := by
  unfold expertAccess
  try dsimp only [-Nat.reducePow]
  repeat' first
    | with_reducible exact Steady.refl _
    | with_reducible refine (steady_answer ..).after ?_
    | with_reducible refine (steady_denied ..).after ?_
    | with_reducible refine (hf ..).after ?_
    | intro _
    | split

theorem sound_expertAccess (priv : BitVec 2) (a : Nat) (f : State → State) (s : State) (hf : ∀ s, Sound s (f s)) :
    Sound s (expertAccess priv a f s) := by
  unfold expertAccess
  try dsimp only [-Nat.reducePow]
  repeat' first
    | with_reducible exact Sound.refl _
    | with_reducible refine (steady_answer ..).sound.after ?_
    | with_reducible refine (steady_denied ..).sound.after ?_
    | with_reducible refine (hf ..).after ?_
    | intro _
    | split

theorem steady_readClears (a : Nat) (s : State) : Steady s (readClears a s) := by
  unfold readClears
  try dsimp only [-Nat.reducePow]
  repeat' first
    | with_reducible exact Steady.refl _
    | with_reducible refine (steady_mCt _ _).after ?_
    | with_reducible refine (steady_mLed _ _).after ?_
    | with_reducible refine (steady_mTwc _ _).after ?_
    | with_reducible refine (steady_mPer _ _).after ?_
    | with_reducible refine (steady_mMem _ _ ?_).after ?_
    | with_reducible refine (steady_mVu _ _).after ?_
    | with_reducible refine (steady_mFr _ _).after ?_
    | with_reducible refine (steady_mOb _ _).after ?_
    | with_reducible refine (steady_mCluster ..).after ?_
    | intro _
    | with_reducible exact ⟨rfl, rfl, rfl, rfl, rfl, rfl⟩
    | split

theorem steady_wordReg {priv : BitVec 2} {a : Nat} {s t : State} (h : wordReg priv a s = some t) : Steady s t := by
  unfold wordReg at h
  split at h <;> cases h
  · exact steady_provOut ..
  · exact steady_sarData ..
  · exact steady_certData ..
  · exact steady_dumpKey ..
  · exact steady_watchData ..

theorem steady_readBasic (priv : BitVec 2) (a : Nat) (s : State) : Steady s (readBasic priv a s) := by
  unfold readBasic
  split
  · exact steady_answer ..
  · split
    · exact steady_wordReg (by assumption)
    · split
      · exact (steady_readClears ..).after (steady_answer ..)
      · exact steady_denied ..

theorem steady_raceMark (race : Bool) (s : State) : Steady s (raceMark race s) := by
  unfold raceMark
  try dsimp only [-Nat.reducePow]
  repeat' first
    | with_reducible exact Steady.refl _
    | with_reducible refine (steady_mOb _ _).after ?_
    | intro _
    | split

theorem steady_readWindow (priv : BitVec 2) (a : Nat) (race : Bool) (s : State) : Steady s (readWindow priv a race
    s) := by
  unfold readWindow
  try dsimp only [-Nat.reducePow]
  repeat' first
    | with_reducible exact Steady.refl _
    | with_reducible refine (steady_answer ..).after ?_
    | with_reducible refine (steady_denied ..).after ?_
    | with_reducible refine (steady_raceMark ..).after ?_
    | intro _
    | split

theorem steady_readExpert (priv : BitVec 2) (a : Nat) (s : State) : Steady s (readExpert priv a s) := by
  unfold readExpert
  try dsimp only [-Nat.reducePow]
  repeat' first
    | with_reducible exact Steady.refl _
    | with_reducible refine (steady_answer ..).after ?_
    | with_reducible refine (steady_expertAccess _ _ _ _ ?_).after ?_
    | intro _

theorem steady_registerRead (priv : BitVec 2) (addr : BitVec 22) (snapRace : Bool) (s : State) :
    Steady s (registerRead priv addr snapRace s) := by
  unfold registerRead
  try dsimp only [-Nat.reducePow]
  repeat' first
    | with_reducible exact Steady.refl _
    | with_reducible refine (steady_hrp _ _ ?_).after ?_
    | with_reducible refine (steady_readBasic ..).after ?_
    | with_reducible refine (steady_readWindow ..).after ?_
    | with_reducible refine (steady_readExpert ..).after ?_
    | intro _
    | split

/-! ### Pins -/

theorem steady_egressCredit (port cls ccnt : Nat) (s : State) : Steady s (egressCredit port cls ccnt s) := by
  unfold egressCredit
  dsimp only
  split
  · exact Steady.refl _
  · exact steady_mPorts _ _ (steady_portsDrain _)

theorem steady_nonIngressKind (p : Ingress) (s : State) : Steady s (nonIngressKind p s) := by
  unfold nonIngressKind
  try dsimp only [-Nat.reducePow]
  repeat' first
    | with_reducible exact Steady.refl _
    | with_reducible refine (steady_badMsg ..).after ?_
    | intro _
    | split

theorem sound_eraseArray (a : Nat) (s : State) : Sound s (eraseArray a s) := by
  unfold eraseArray
  exact sound_mem _ _ (wf_nil_or _) (wf_nil_or _) (wf_nil_or _) (tags_nil _) rfl rfl

end Sys2Proof.Machine
end

