-- ==== Sys2Proof/Laws/Lawful.lean ====
section
/-!
SUPPORT. `Lawful`: what the operations keep that change OTP, the key store, the life cycle, the pins, the fuses, the pattern
banks or the expert registers.
-/
namespace Sys2Proof.Machine

theorem Otp.Forward.refl (a : Otp) : a.Forward a :=
  ⟨Nat.le_refl _, fun h => ⟨h, rfl, rfl, rfl, BitVec.le_refl _⟩, fun _ => rfl, rfl, fun i x y h k p => by
    obtain rfl : x = y := Option.some.inj (h.symm.trans k)
    exact ⟨p, fun _ => rfl⟩⟩

theorem Otp.Forward.trans {a b c : Otp} (h : a.Forward b) (k : b.Forward c) : a.Forward c := by
  refine ⟨Nat.le_trans h.lc k.lc, fun p => ?_, fun p => ?_, k.count.trans h.count, fun i x z hx hz p => ?_⟩
  · obtain ⟨b1, b2, b3, b4, b5⟩ := h.root p
    obtain ⟨c1, c2, c3, c4, c5⟩ := k.root b1
    exact ⟨c1, c2.trans b2, c3.trans b3, c4.trans b4, BitVec.le_trans b5 c5⟩
  · have e := h.wrapped p
    exact (k.wrapped (e ▸ p)).trans e
  · have hy : i < b.seeds.length := h.count ▸ (List.getElem?_eq_some_iff.mp hx).1
    have ey : b.seeds[i]? = some b.seeds[i] := List.getElem?_eq_getElem hy
    obtain ⟨q, r⟩ := h.seeds i x _ hx ey p
    obtain ⟨u, v⟩ := k.seeds i _ z ey hz q
    refine ⟨u, fun kl => ?_⟩
    have e := r kl
    exact (v (by rw [e]; exact kl)).trans e

theorem State.legal_iff (s : State) : s.legal = true ↔
    (s.nv.otp.lc ≤ 5 ∧ s.sec.lc ≤ 5 ∧ s.sec.nextLc ≤ 5 ∧ s.sec.policy ≤ 3 ∧ s.nv.otp.seeds.length = 4) ∧
      ∀ k ∈ s.sec.keys, keySlotLegal k.1 = true := by
  simp only [State.legal, Root.legal, State.root, Bool.and_eq_true, List.all_eq_true]
  exact and_congr_left' decide_eq_true_iff

theorem Lawful.refl (s : State) : Lawful s s := ⟨id, id, id, rfl, Otp.Forward.refl _⟩

theorem Lawful.trans {a b c : State} (h : Lawful a b) (k : Lawful b c) : Lawful a c :=
  ⟨fun x => k.canonical (h.canonical x), fun x => k.shaped (h.shaped x), fun x => k.legal (h.legal x),
    k.pending.trans h.pending, h.otp.trans k.otp⟩

theorem Lawful.after {a b c : State} (k : Lawful b c) (h : Lawful a b) : Lawful a c := h.trans k

theorem Sound.lawful {a b : State} (h : Sound a b) : Lawful a b :=
  ⟨h.canonical, fun x => by rw [State.shaped, h.sizes]; exact x, fun x => by rw [State.legal, h.root]; exact x,
    congrArg Root.pending h.root, by
      have e : b.nv.otp = a.nv.otp := congrArg Root.otp h.root
      rw [e]
      exact Otp.Forward.refl _⟩

theorem Steady.lawful {a b : State} (h : Steady a b) : Lawful a b := h.sound.lawful

theorem lawful_foldl {α : Type} (f : State → α → State) (h : ∀ s a, Lawful s (f s a)) (l : List α) (s : State) :
    Lawful s (l.foldl f s) := by
  induction l generalizing s with
  | nil => exact Lawful.refl s
  | cons a l ih => exact (h s a).trans (ih _)

theorem lawful_foldl2 {α β : Type} (f : β × State → α → β × State) (h : ∀ x a, Lawful x.2 (f x a).2) (l : List α)
    (x : β × State) : Lawful x.2 (l.foldl f x).2 := by
  induction l generalizing x with
  | nil => exact Lawful.refl _
  | cons a l ih => exact (h x a).trans (ih _)

/-- What keeps OTP, the arrays and the numbers of units may change the rest as far as the legal values go. -/
theorem lawful_root {s t : State} (hp : t.pending = s.pending) (ho : t.nv.otp = s.nv.otp) (ha : t.arrays = s.arrays)
    (hs : t.sizes = s.sizes) (hl : s.legal = true → t.legal = true) : Lawful s t :=
  ⟨fun x => by rw [State.canonical, ha]; exact x, fun x => by rw [State.shaped, hs]; exact x, hl, hp, by
    rw [ho]
    exact Otp.Forward.refl _⟩

theorem lawful_mSec (f : Sec → Sec) (s : State) (h : s.legal = true → (f s.sec).lc ≤ 5 ∧ (f s.sec).nextLc ≤ 5 ∧
    (f s.sec).policy ≤ 3 ∧ ∀ k ∈ (f s.sec).keys, keySlotLegal k.1 = true) : Lawful s (s.mSec f) :=
  lawful_root rfl rfl rfl rfl fun x => by
    obtain ⟨a, b, c, d⟩ := h x
    obtain ⟨⟨e, -, -, -, g⟩, -⟩ := (State.legal_iff s).mp x
    exact (State.legal_iff _).mpr ⟨⟨e, a, b, c, g⟩, d⟩

theorem lawful_mNv (f : Nv → Nv) (s : State) (h : (f s.nv).otp = s.nv.otp) : Lawful s (s.mNv f) :=
  lawful_root rfl h rfl rfl fun x => by
    obtain ⟨⟨a, b, c, d, e⟩, g⟩ := (State.legal_iff s).mp x
    exact (State.legal_iff _).mpr ⟨⟨by simpa [State.mNv, h] using a, b, c, d, by simpa [State.mNv, h] using e⟩, g⟩

theorem lawful_mPorts (f : Ports → Ports) (s : State) : Lawful s (s.mPorts f) := lawful_root rfl rfl rfl rfl id

theorem lawful_expert (e : Expert) (s : State) : Lawful s { s with expert := e } := lawful_root rfl rfl rfl rfl id

/-- OTP as it goes on. -/
theorem lawful_otp (f : Nv → Nv) (s : State) (h : s.nv.otp.Forward (f s.nv).otp) (hl : s.nv.otp.lc ≤ 5 → (f s.nv).otp.lc ≤ 5) :
    Lawful s (s.mNv f) :=
  ⟨id, id, fun x => by
    obtain ⟨⟨a, b, c, d, e⟩, g⟩ := (State.legal_iff s).mp x
    exact (State.legal_iff _).mpr ⟨⟨hl a, b, c, d, h.count.trans e⟩, g⟩, rfl, h⟩

/-- The seed fields where one that is not killed is killed. -/
theorem Otp.forward_kill (o : Otp) (i : Nat) (f : Seed → Seed) (d : Bool)
    (h : ∀ x, o.seeds[i]? = some x → x.killed = false ∧ (x.programmed = true → (f x).programmed = true)) :
    o.Forward { o with seeds := o.seeds.modify i f, killDue := d } := by
  refine ⟨Nat.le_refl _, fun h => ⟨h, rfl, rfl, rfl, BitVec.le_refl _⟩, fun _ => rfl, List.length_modify .., fun j x y hx hy p => ?_⟩
  by_cases e : i = j
  · subst e
    obtain ⟨k, q⟩ := h x hx
    have hy : Option.map f o.seeds[i]? = some y := by simpa [List.getElem?_modify] using hy
    rw [hx] at hy
    obtain rfl : f x = y := Option.some.inj hy
    exact ⟨q p, fun kl => by rw [k] at kl; cases kl⟩
  · have hy : o.seeds[j]? = some y := by simpa [List.getElem?_modify, e] using hy
    obtain rfl : x = y := Option.some.inj (hx.symm.trans hy)
    exact ⟨p, fun _ => rfl⟩

theorem Tab.all_set {α : Type} {P : Nat × α → Prop} {t : Tab α} {k : Nat} {a : α} (h : ∀ x ∈ t, P x) (hk : P (k, a)) :
    ∀ x ∈ Tab.set t k a, P x := fun x m => by
  rcases Tab.mem_set m with e | e
  · exact e ▸ hk
  · exact h x e

theorem Tab.all_del {α : Type} {P : Nat × α → Prop} {t : Tab α} {k : Nat} (h : ∀ x ∈ t, P x) : ∀ x ∈ Tab.del t k, P x :=
  fun x m => h x ((Tab.sub_del t k).subset m)

/-- A test of an array whose numbers of units R9 gives. -/
theorem lawful_setBank (b : Bool) (x : Bank) (s : State) : Lawful s (setBank b x s) :=
  lawful_mNv _ _ (by split <;> rfl)

theorem lawful_fuseOne (m : RowMap) (ok : Bool) (s : State) : Lawful s (fuseOne m ok s) := by
  unfold fuseOne
  split
  · exact Lawful.refl _
  · refine (steady_sbWrite ..).lawful.after ((steady_bump ..).lawful.after ?_)
    exact (steady_mMem _ _ ⟨rfl, rfl, rfl, rfl, rfl, rfl⟩).lawful.after (lawful_mNv _ _ rfl)

theorem lawful_killSeed (s : State) : Lawful s (killSeed s) := by
  unfold killSeed
  refine lawful_otp _ _ ?_ id
  dsimp only
  split
  · rename_i i h
    refine Otp.forward_kill _ i _ false fun x hx => ?_
    obtain ⟨hi, hp, -⟩ := List.findIdx?_eq_some_iff_getElem.mp h
    obtain rfl : s.nv.otp.seeds[i] = x := Option.some.inj ((List.getElem?_eq_getElem hi).symm.trans hx)
    simp only [Bool.and_eq_true, Bool.not_eq_true'] at hp
    exact ⟨hp.2, fun _ => hp.1⟩
  · exact (Otp.Forward.refl _).trans ⟨Nat.le_refl _, fun h => ⟨h, rfl, rfl, rfl, BitVec.le_refl _⟩, fun _ => rfl, rfl,
      fun i x y h k p => by
        obtain rfl : x = y := Option.some.inj (h.symm.trans k)
        exact ⟨p, fun _ => rfl⟩⟩

theorem lawful_storeKey (slot : Nat) (k : KeySlot) (s : State) (h : keySlotLegal slot = true) : Lawful s (storeKey slot k s) :=
  lawful_mSec _ _ fun x => by
    obtain ⟨⟨-, b, c, d, -⟩, g⟩ := (State.legal_iff s).mp x
    exact ⟨b, c, d, Tab.all_set g h⟩

theorem lawful_plainKey (slot : Nat) (key : BitVec 384) (s : State) (h : keySlotLegal slot = true) :
    Lawful s (plainKey slot key s) := lawful_storeKey _ _ _ h

theorem lawful_dropKey (slot : Nat) (s : State) : Lawful s (dropKey slot s) :=
  lawful_mSec _ _ fun x => by
    obtain ⟨⟨-, b, c, d, -⟩, g⟩ := (State.legal_iff s).mp x
    exact ⟨b, c, d, Tab.all_del g⟩

/-- An order that programs OTP: what it does is asked only where OTP stands as before. -/
theorem lawful_otpOrder (f : State → State) (s : State) (hf : ∀ t, t.root = s.root → Lawful t (f t)) :
    Lawful s (otpOrder f s) := by
  have h := steady_otpWindow s
  unfold otpOrder
  dsimp only
  split
  · exact (steady_endOrder ..).lawful.after ((hf _ h.root).after h.lawful)
  · exact (steady_endOrder ..).lawful.after h.lawful

theorem lawful_hrp (f : State → State) (s : State) (hf : ∀ s, Lawful s (f s)) : Lawful s (hrp f s) := by
  unfold hrp
  try dsimp only [-Nat.reducePow]
  repeat' first
    | with_reducible exact Lawful.refl _
    | with_reducible refine (hf ..).after ?_
    | intro _
    | with_reducible exact ⟨rfl, rfl, rfl, rfl, rfl⟩
    | with_reducible exact ⟨rfl, rfl⟩
    | with_reducible exact ⟨rfl, rfl, rfl, rfl, rfl, rfl⟩
    | with_reducible exact rfl
    | split

theorem lawful_operatorWrite (priv : BitVec 2) (f : State → State) (s : State) (hf : ∀ s, Lawful s (f s)) : Lawful s (operatorWrite priv f s) := by
  unfold operatorWrite
  try dsimp only [-Nat.reducePow]
  repeat' first
    | with_reducible exact Lawful.refl _
    | with_reducible refine (steady_answer ..).lawful.after ?_
    | with_reducible refine (steady_denied ..).lawful.after ?_
    | with_reducible refine (lawful_hrp _ _ ?_).after ?_
    | with_reducible refine (hf ..).after ?_
    | intro _
    | with_reducible exact ⟨rfl, rfl, rfl, rfl, rfl⟩
    | with_reducible exact ⟨rfl, rfl⟩
    | with_reducible exact ⟨rfl, rfl, rfl, rfl, rfl, rfl⟩
    | with_reducible exact rfl
    | split

theorem lawful_ctOrderWrite (priv : BitVec 2) (w : W64) (f : State → State) (s : State) (hf : ∀ s, Lawful s (f s)) : Lawful s (ctOrderWrite priv w f s) := by
  unfold ctOrderWrite
  try dsimp only [-Nat.reducePow]
  repeat' first
    | with_reducible exact Lawful.refl _
    | with_reducible refine (steady_reportSelf ..).lawful.after ?_
    | with_reducible refine (steady_hostDone ..).lawful.after ?_
    | with_reducible refine (steady_answer ..).lawful.after ?_
    | with_reducible refine (steady_denied ..).lawful.after ?_
    | with_reducible refine (lawful_hrp _ _ ?_).after ?_
    | with_reducible refine (hf ..).after ?_
    | intro _
    | with_reducible exact ⟨rfl, rfl, rfl, rfl, rfl⟩
    | with_reducible exact ⟨rfl, rfl⟩
    | with_reducible exact ⟨rfl, rfl, rfl, rfl, rfl, rfl⟩
    | with_reducible exact rfl
    | split

theorem lawful_clearPart (s : State)  : Lawful s (clearPart s) := by
  refine ⟨fun _ => rfl, fun x => ?_, id, rfl, Otp.Forward.refl _⟩
  obtain ⟨a, -, c, -, e⟩ := Sizes.mk.inj (of_decide_eq_true x : s.sizes = Sizes.silorn)
  refine decide_eq_true ?_
  rw [State.sizes, Sizes.silorn, Sizes.mk.injEq]
  exact ⟨List.length_map .. |>.trans a, rfl, List.length_map .. |>.trans c, rfl, e⟩

theorem lawful_partResetDone (s : State)  : Lawful s (partResetDone s) := by
  unfold partResetDone
  try dsimp only [-Nat.reducePow]
  repeat' first
    | with_reducible exact Lawful.refl _
    | with_reducible refine (steady_mCt _ _).lawful.after ?_
    | with_reducible refine (steady_dropEntry ..).lawful.after ?_
    | with_reducible refine (steady_hostDone ..).lawful.after ?_
    | with_reducible refine (steady_killErased ..).lawful.after ?_
    | with_reducible refine (steady_resetLanes ..).lawful.after ?_
    | with_reducible refine (steady_resetPipes ..).lawful.after ?_
    | with_reducible refine (steady_resetPaths ..).lawful.after ?_
    | with_reducible refine (lawful_clearPart ..).after ?_
    | with_reducible refine (lawful_foldl _ ?_ _ _).after ?_
    | with_reducible refine (lawful_foldl2 _ ?_ _ _).after ?_
    | intro _
    | with_reducible exact ⟨rfl, rfl, rfl, rfl, rfl⟩
    | with_reducible exact ⟨rfl, rfl⟩
    | with_reducible exact ⟨rfl, rfl, rfl, rfl, rfl, rfl⟩
    | with_reducible exact rfl
    | split

theorem lawful_idle (s : State)  : Lawful s (idle s) := by
  unfold idle
  try dsimp only [-Nat.reducePow]
  repeat' first
    | with_reducible exact Lawful.refl _
    | with_reducible refine (steady_tick ..).lawful.after ?_
    | with_reducible refine (sound_enginesDone ..).lawful.after ?_
    | with_reducible refine (lawful_partResetDone ..).after ?_
    | intro _
    | with_reducible exact ⟨rfl, rfl, rfl, rfl, rfl⟩
    | with_reducible exact ⟨rfl, rfl⟩
    | with_reducible exact ⟨rfl, rfl, rfl, rfl, rfl, rfl⟩
    | with_reducible exact rfl
    | split

theorem lawful_expertWrite (a : Nat) (w : W64) (s : State)  : Lawful s (expertWrite a w s) := by
  unfold expertWrite
  split
  · exact lawful_expert ..
  · exact Lawful.refl _

theorem lawful_testOrder (allowed : Bool) (priv : BitVec 2) (f : State → State) (s : State) (hf : ∀ s, Lawful s (f s)) : Lawful s (testOrder allowed priv f s) := by
  unfold testOrder
  try dsimp only [-Nat.reducePow]
  repeat' first
    | with_reducible exact Lawful.refl _
    | with_reducible refine (lawful_operatorWrite _ _ _ ?_).after ?_
    | with_reducible refine (steady_frRefused ..).lawful.after ?_
    | with_reducible refine (hf ..).after ?_
    | intro _
    | with_reducible exact ⟨rfl, rfl, rfl, rfl, rfl⟩
    | with_reducible exact ⟨rfl, rfl⟩
    | with_reducible exact ⟨rfl, rfl, rfl, rfl, rfl, rfl⟩
    | with_reducible exact rfl
    | split

theorem lawful_fuseProgram (w : W64) (readBackOk : List Bool) (s : State)  : Lawful s (fuseProgram w readBackOk s) := by
  unfold fuseProgram
  split
  · exact Lawful.refl _
  · split
    · exact (steady_mFr ..).lawful
    · exact (steady_mFr ..).lawful.after (lawful_foldl _ (fun s x => lawful_fuseOne ..) _ _)

theorem lawful_consumer (kind : Nat) (p : HxPkt) (f : State → State) (s : State) (hf : ∀ s, Lawful s (f s)) : Lawful s (consumer kind p f s) := by
  unfold consumer
  try dsimp only [-Nat.reducePow]
  repeat' first
    | with_reducible exact Lawful.refl _
    | with_reducible refine (steady_consume ..).lawful.after ?_
    | with_reducible refine (hf ..).after ?_
    | intro _
    | with_reducible exact ⟨rfl, rfl, rfl, rfl, rfl⟩
    | with_reducible exact ⟨rfl, rfl⟩
    | with_reducible exact ⟨rfl, rfl, rfl, rfl, rfl, rfl⟩
    | with_reducible exact rfl
    | split

theorem lawful_pkgProgram (s : State)  : Lawful s (pkgProgram s) := by
  unfold pkgProgram
  try dsimp only [-Nat.reducePow]
  repeat' first
    | with_reducible exact Lawful.refl _
    | with_reducible refine (lawful_setBank ..).after ?_
    | intro _
    | with_reducible exact ⟨rfl, rfl, rfl, rfl, rfl⟩
    | with_reducible exact ⟨rfl, rfl⟩
    | with_reducible exact ⟨rfl, rfl, rfl, rfl, rfl, rfl⟩
    | with_reducible exact rfl
    | split

theorem lawful_pkgWord (w : W64) (s : State)  : Lawful s (pkgWord w s) := by
  unfold pkgWord
  try dsimp only [-Nat.reducePow]
  repeat' first
    | with_reducible exact Lawful.refl _
    | with_reducible refine (steady_mPkg ..).lawful.after ?_
    | with_reducible refine (lawful_pkgProgram ..).after ?_
    | intro _
    | with_reducible exact ⟨rfl, rfl, rfl, rfl, rfl⟩
    | with_reducible exact ⟨rfl, rfl⟩
    | with_reducible exact ⟨rfl, rfl, rfl, rfl, rfl, rfl⟩
    | with_reducible exact rfl
    | split

theorem lawful_pkgInstall (b : Bank) (repros : List (BitVec 512)) (s : State)  : Lawful s (pkgInstall b repros s) := by
  unfold pkgInstall
  dsimp only
  have h : ∀ t, Lawful s t → Lawful s (repros.foldl (fun s r => addPackagePattern r s) t) := fun t h =>
    (steady_foldl _ (fun s r => steady_addPackagePattern r s) _ _).lawful.after h
  split
  · refine (steady_foldl _ (fun s d => steady_sendBulk ..) _ _).lawful.after (h _ ?_)
    exact ((steady_bump ..).after (steady_mPkg ..)).lawful.after ((lawful_mNv _ _ rfl).after (lawful_setBank ..))
  · refine h _ ?_
    exact ((steady_bump ..).after (steady_mPkg ..)).lawful.after ((lawful_mNv _ _ rfl).after (lawful_setBank ..))

theorem lawful_pkgVerify (readBackOk : Bool) (s : State)  : Lawful s (pkgVerify readBackOk s) := by
  unfold pkgVerify
  try dsimp only [-Nat.reducePow]
  repeat' first
    | with_reducible exact Lawful.refl _
    | with_reducible refine (steady_pkgReject ..).lawful.after ?_
    | with_reducible refine (lawful_pkgInstall ..).after ?_
    | intro _
    | with_reducible exact ⟨rfl, rfl, rfl, rfl, rfl⟩
    | with_reducible exact ⟨rfl, rfl⟩
    | with_reducible exact ⟨rfl, rfl, rfl, rfl, rfl, rfl⟩
    | with_reducible exact rfl
    | split

theorem lawful_bulkPacket (p : HxPkt) (s : State)  : Lawful s (bulkPacket p s) := by
  unfold bulkPacket
  try dsimp only [-Nat.reducePow]
  repeat' first
    | with_reducible exact Lawful.refl _
    | with_reducible refine (steady_mHx _ _ ?_).lawful.after ?_
    | with_reducible refine (steady_mFr _ _).lawful.after ?_
    | with_reducible refine (steady_mPkg ..).lawful.after ?_
    | with_reducible refine (steady_pkgStart ..).lawful.after ?_
    | with_reducible refine (lawful_pkgProgram ..).after ?_
    | intro _
    | with_reducible exact ⟨rfl, rfl, rfl, rfl, rfl⟩
    | with_reducible exact ⟨rfl, rfl⟩
    | with_reducible exact ⟨rfl, rfl, rfl, rfl, rfl, rfl⟩
    | with_reducible exact rfl
    | split

theorem lawful_pkgResume (s : State)  : Lawful s (pkgResume s) := by
  unfold pkgResume
  try dsimp only [-Nat.reducePow]
  repeat' first
    | with_reducible exact Lawful.refl _
    | with_reducible refine (steady_mPkg ..).lawful.after ?_
    | with_reducible refine (lawful_pkgProgram ..).after ?_
    | intro _
    | with_reducible exact ⟨rfl, rfl, rfl, rfl, rfl⟩
    | with_reducible exact ⟨rfl, rfl⟩
    | with_reducible exact ⟨rfl, rfl, rfl, rfl, rfl, rfl⟩
    | with_reducible exact rfl
    | split

theorem lawful_slowRound (s : State)  : Lawful s (slowRound s) := by
  unfold slowRound
  try dsimp only [-Nat.reducePow]
  repeat' first
    | with_reducible exact Lawful.refl _
    | with_reducible refine (steady_mTs _ _ ?_).lawful.after ?_
    | with_reducible refine (steady_mSec _ _ ?_).lawful.after ?_
    | with_reducible refine (steady_bump ..).lawful.after ?_
    | with_reducible refine (steady_sbFlush ..).lawful.after ?_
    | with_reducible refine (steady_voidSessionsWhere ..).lawful.after ?_
    | with_reducible refine (steady_frWindow ..).lawful.after ?_
    | with_reducible refine (lawful_pkgResume ..).after ?_
    | with_reducible refine (steady_coolant ..).lawful.after ?_
    | with_reducible refine (steady_siliconPower ..).lawful.after ?_
    | with_reducible refine (steady_coolQueues ..).lawful.after ?_
    | with_reducible refine (steady_nodeRound ..).lawful.after ?_
    | with_reducible refine (lawful_killSeed ..).after ?_
    | with_reducible refine (lawful_foldl _ ?_ _ _).after ?_
    | with_reducible refine (lawful_foldl2 _ ?_ _ _).after ?_
    | intro _
    | with_reducible exact ⟨rfl, rfl, rfl, rfl, rfl⟩
    | with_reducible exact ⟨rfl, rfl⟩
    | with_reducible exact ⟨rfl, rfl, rfl, rfl, rfl, rfl⟩
    | with_reducible exact rfl
    | split

theorem lawful_deriveIdentity (s : State)  : Lawful s (deriveIdentity s) := by
  unfold deriveIdentity
  try dsimp only [-Nat.reducePow]
  repeat' first
    | with_reducible exact Lawful.refl _
    | with_reducible refine (lawful_plainKey _ _ _ rfl).after ?_
    | intro _
    | with_reducible exact ⟨rfl, rfl, rfl, rfl, rfl⟩
    | with_reducible exact ⟨rfl, rfl⟩
    | with_reducible exact ⟨rfl, rfl, rfl, rfl, rfl, rfl⟩
    | with_reducible exact rfl
    | split

theorem lawful_unwrapKeys (s : State)  : Lawful s (unwrapKeys s) := by
  unfold unwrapKeys
  try dsimp only [-Nat.reducePow]
  repeat' first
    | with_reducible exact Lawful.refl _
    | with_reducible refine (lawful_plainKey _ _ _ rfl).after ?_
    | intro _
    | with_reducible exact ⟨rfl, rfl, rfl, rfl, rfl⟩
    | with_reducible exact ⟨rfl, rfl⟩
    | with_reducible exact ⟨rfl, rfl, rfl, rfl, rfl, rfl⟩
    | with_reducible exact rfl
    | split

theorem lawful_deriveS1 (s : State)  : Lawful s (deriveS1 s) := by
  unfold deriveS1
  try dsimp only [-Nat.reducePow]
  repeat' first
    | with_reducible exact Lawful.refl _
    | with_reducible refine (steady_draw _).lawful.after ?_
    | with_reducible refine (lawful_plainKey _ _ _ rfl).after ?_
    | with_reducible refine (lawful_deriveIdentity ..).after ?_
    | with_reducible refine (lawful_unwrapKeys ..).after ?_

theorem lawful_deriveS2 (s : State)  : Lawful s (deriveS2 s) := by
  unfold deriveS2
  try dsimp only [-Nat.reducePow]
  repeat' first
    | with_reducible exact Lawful.refl _
    | with_reducible refine (steady_mSec _ _ ?_).lawful.after ?_
    | with_reducible refine (lawful_plainKey _ _ _ rfl).after ?_
    | intro _
    | with_reducible exact ⟨rfl, rfl, rfl, rfl, rfl⟩
    | with_reducible exact ⟨rfl, rfl⟩
    | with_reducible exact ⟨rfl, rfl, rfl, rfl, rfl, rfl⟩
    | with_reducible exact rfl
    | split

theorem lawful_eraseEffects (s : State)  : Lawful s (eraseEffects s) := by
  unfold eraseEffects
  try dsimp only [-Nat.reducePow]
  repeat' first
    | with_reducible exact Lawful.refl _
    | with_reducible refine (steady_mSec _ _ ?_).lawful.after ?_
    | with_reducible refine (steady_mOb _ _).lawful.after ?_
    | with_reducible refine (lawful_dropKey ..).after ?_
    | with_reducible refine (lawful_foldl _ ?_ _ _).after ?_
    | with_reducible refine (lawful_foldl2 _ ?_ _ _).after ?_
    | intro _
    | with_reducible exact ⟨rfl, rfl, rfl, rfl, rfl⟩

theorem lawful_eraseAllEffects (s : State)  : Lawful s (eraseAllEffects s) := by
  unfold eraseAllEffects
  dsimp only
  have h := lawful_foldl (fun s k => dropKey k s) (fun s k => lawful_dropKey k s) [0xE0, 0xE3, 0xE4] s
  split
  · exact (lawful_killSeed _).after h
  · refine Lawful.after (lawful_otp _ _ ?_ id) h
    exact ⟨Nat.le_refl _, fun h => ⟨h, rfl, rfl, rfl, BitVec.le_refl _⟩, fun _ => rfl, rfl, (Otp.Forward.refl _).seeds⟩

theorem lawful_applyPolicy (p : Nat) (s : State) (hp : p ≤ 3) : Lawful s (applyPolicy p s) := by
  have h : Lawful s (s.mSec fun x => { x with policy := max x.policy p, applied := true }) := lawful_mSec _ _ fun x => by
    obtain ⟨⟨-, b, c, d, -⟩, g⟩ := (State.legal_iff s).mp x
    exact ⟨b, c, Nat.max_le.mpr ⟨d, hp⟩, g⟩
  unfold applyPolicy
  dsimp only
  repeat' first
    | with_reducible exact h
    | with_reducible refine (steady_zeroiseCheck ..).lawful.after ?_
    | with_reducible refine (lawful_eraseAllEffects ..).after ?_
    | with_reducible refine (lawful_eraseEffects ..).after ?_
    | with_reducible refine (steady_dumpAbort ..).lawful.after ?_
    | with_reducible refine (sound_dumpAbort ..).lawful.after ?_
    | with_reducible refine (steady_lockEffects ..).lawful.after ?_
    | with_reducible refine (sound_lockEffects ..).lawful.after ?_
    | split

theorem fld_lt (w : W64) (h l : Nat) : fld w h l < 2 ^ (h + 1 - l) := by
  exact Nat.mod_lt _ (Nat.two_pow_pos _)

theorem lawful_raiseAlarm (src : Nat) (s : State)  : Lawful s (raiseAlarm src s) := by
  have hp : policyOf s src ≤ 3 := by
    have h := fld_lt s.expert.secConfig (63 - 2 * src) (62 - 2 * src)
    unfold policyOf
    have e : 63 - 2 * src + 1 - (62 - 2 * src) ≤ 2 := by omega
    have := Nat.pow_le_pow_right (n := 2) (by decide) e
    omega
  unfold raiseAlarm
  dsimp only
  have h := (lawful_applyPolicy _ (reportSelf uSEC 0 0xA0 src none (bump (1093 + src) 1 (s.mSec fun x => { x with
    raised := x.raised ||| (1#13 <<< src) }))) hp).after ((steady_reportSelf ..).after ((steady_bump ..).after
      (steady_mSec _ s ⟨rfl, rfl, rfl, rfl, rfl⟩))).lawful
  split
  · exact (steady_hxMulticast ..).lawful.after h
  · exact h

theorem lawful_alarmPin (pin : Nat) (level : Bool) (s : State)  : Lawful s (alarmPin pin level s) := by
  unfold alarmPin
  split
  · exact Lawful.refl _
  · dsimp only
    split
    · exact (lawful_raiseAlarm ..).after (steady_mSec _ _ ⟨rfl, rfl, rfl, rfl, rfl⟩).lawful
    · exact (steady_mSec _ _ ⟨rfl, rfl, rfl, rfl, rfl⟩).lawful

theorem lawful_lockstep (s : State)  : Lawful s (lockstep s) := by
  unfold lockstep
  try dsimp only [-Nat.reducePow]
  repeat' first
    | with_reducible exact Lawful.refl _
    | with_reducible refine (lawful_raiseAlarm ..).after ?_
    | intro _
    | with_reducible exact ⟨rfl, rfl, rfl, rfl, rfl⟩
    | with_reducible exact ⟨rfl, rfl⟩
    | with_reducible exact ⟨rfl, rfl, rfl, rfl, rfl, rfl⟩
    | with_reducible exact rfl
    | split

theorem lawful_secArrived (s : State)  : Lawful s (secArrived s) := by
  unfold secArrived
  try dsimp only [-Nat.reducePow]
  repeat' first
    | with_reducible exact Lawful.refl _
    | with_reducible refine (steady_secReport ..).lawful.after ?_
    | with_reducible refine (lawful_raiseAlarm ..).after ?_

theorem lawful_lcRow (op : Nat) (priv : BitVec 2) (w : W64) (f : State → State) (s : State) (hf : ∀ s, Lawful s (f s)) : Lawful s (lcRow op priv w f s) := by
  unfold lcRow
  try dsimp only [-Nat.reducePow]
  repeat' first
    | with_reducible exact Lawful.refl _
    | with_reducible refine (lawful_operatorWrite _ _ _ ?_).after ?_
    | with_reducible refine (steady_endOrder ..).lawful.after ?_
    | with_reducible refine (hf ..).after ?_
    | intro _
    | with_reducible exact ⟨rfl, rfl, rfl, rfl, rfl⟩
    | with_reducible exact ⟨rfl, rfl⟩
    | with_reducible exact ⟨rfl, rfl, rfl, rfl, rfl, rfl⟩
    | with_reducible exact rfl
    | split

theorem lawful_programRoot (s : State)  : Lawful s (programRoot s) := by
  unfold programRoot
  dsimp only
  split
  · exact (steady_endOrder ..).lawful
  · rename_i h
    have h2 : s.nv.otp.rootDone = false := Bool.eq_false_iff.mpr fun k => h (.inr k)
    split
    · exact (steady_endOrder ..).lawful
    · refine lawful_otpOrder _ _ fun t ht => lawful_otp _ _ ?_ id
      have e : t.nv.otp = s.nv.otp := congrArg Root.otp ht
      rw [e]
      exact ⟨Nat.le_refl _, fun k => absurd (h2.symm.trans k) Bool.false_ne_true, fun _ => rfl, rfl, (Otp.Forward.refl _).seeds⟩

theorem mayAdvance_le {s : State} {target : Nat} (h : mayAdvance s target = true) : s.nv.otp.lc < target ∧ target ≤ 5 := by
  simp only [mayAdvance, Bool.and_eq_true, decide_eq_true_eq] at h
  refine ⟨h.1, ?_⟩
  have k := h.2
  split at k <;> first | omega | cases k

theorem lawful_advanceLc (target : Nat) (s : State)  : Lawful s (advanceLc target s) := by
  unfold advanceLc
  split
  · exact (steady_endOrder ..).lawful
  · split
    · exact (steady_endOrder ..).lawful
    · rename_i h
      refine lawful_otpOrder _ _ fun t ht => ?_
      have e : t.nv.otp = s.nv.otp := congrArg Root.otp ht
      obtain ⟨h1, h2⟩ := mayAdvance_le (by simpa using h)
      have k : Lawful t ((t.mOtp fun o => { o with lc := target }).mSec fun x => { x with nextLc := target }) := by
        refine Lawful.trans (lawful_otp _ t ?_ fun _ => h2) (lawful_mSec _ _ fun x => ?_)
        · rw [e]
          exact ⟨Nat.le_of_lt h1, fun h => ⟨h, rfl, rfl, rfl, BitVec.le_refl _⟩, fun _ => rfl, rfl, (Otp.Forward.refl _).seeds⟩
        · obtain ⟨⟨-, b, -, d, -⟩, g⟩ := (State.legal_iff _).mp x
          exact ⟨b, h2, d, g⟩
      dsimp only
      split
      · exact (lawful_applyPolicy _ _ (by decide)).after k
      · split
        · exact (lawful_applyPolicy _ _ (by decide)).after k
        · exact k

theorem lawful_genIdentity (s : State)  : Lawful s (genIdentity s) := by
  unfold genIdentity
  dsimp only
  split
  · rename_i i hi
    split
    · exact (steady_endOrder ..).lawful
    · refine lawful_otpOrder _ _ fun t ht => ?_
      have e : t.nv.otp = s.nv.otp := congrArg Root.otp ht
      refine (steady_mSec _ _ ⟨rfl, rfl, rfl, rfl, rfl⟩).lawful.after ((steady_draw _).lawful.after ((lawful_deriveIdentity _).after ?_))
      refine Lawful.after (lawful_otp _ _ ?_ id) (steady_draw _).lawful
      rw [show t.draw.2.nv.otp = s.nv.otp from e]
      refine ⟨Nat.le_refl _, fun h => ⟨h, rfl, rfl, rfl, BitVec.le_refl _⟩, fun _ => rfl, List.length_set, fun j x y hx hy p => ?_⟩
      by_cases e : i = j
      · subst e
        obtain ⟨hi, hp, -⟩ := List.findIdx?_eq_some_iff_getElem.mp hi
        obtain rfl : s.nv.otp.seeds[i] = x := Option.some.inj ((List.getElem?_eq_getElem hi).symm.trans hx)
        rw [p] at hp
        cases hp
      · have hy : s.nv.otp.seeds[j]? = some y := by simpa [List.getElem?_set, e] using hy
        obtain rfl : x = y := Option.some.inj (hx.symm.trans hy)
        exact ⟨p, fun _ => rfl⟩
  · exact (steady_endOrder ..).lawful

theorem lawful_programWrapped (s : State)  : Lawful s (programWrapped s) := by
  unfold programWrapped
  dsimp only
  split
  · exact (steady_endOrder ..).lawful
  · split
    · exact (steady_endOrder ..).lawful
    · rename_i h
      split
      · exact (steady_endOrder ..).lawful
      · refine lawful_otpOrder _ _ fun t ht => Lawful.after (lawful_otp _ _ ?_ id) (steady_draw _).lawful
        have e : t.nv.otp = s.nv.otp := congrArg Root.otp ht
        rw [show t.draw.2.nv.otp = s.nv.otp from e]
        refine ⟨Nat.le_refl _, fun h => ⟨h, rfl, rfl, rfl, BitVec.le_refl _⟩, fun k => ?_, rfl, (Otp.Forward.refl _).seeds⟩
        exact absurd (List.isEmpty_iff.mp (by simpa using not_or.mp h |>.2)) k

theorem lawful_setMinSeq (s : State)  : Lawful s (setMinSeq s) := by
  unfold setMinSeq
  dsimp only
  split
  · exact (steady_endOrder ..).lawful
  · split
    · exact (steady_endOrder ..).lawful
    · rename_i h
      refine lawful_otpOrder _ _ fun t ht => lawful_otp _ _ ?_ id
      have e : t.nv.otp = s.nv.otp := congrArg Root.otp ht
      rw [e]
      refine ⟨Nat.le_refl _, fun k => ⟨k, rfl, rfl, rfl, ?_⟩, fun _ => rfl, rfl, (Otp.Forward.refl _).seeds⟩
      exact BitVec.not_lt.mp (not_or.mp (not_or.mp h).2).1

theorem lawful_unlockFailed (s : State)  : Lawful s (unlockFailed s) := by
  unfold unlockFailed
  try dsimp only [-Nat.reducePow]
  repeat' first
    | with_reducible exact Lawful.refl _
    | with_reducible refine (steady_mSec _ _ ?_).lawful.after ?_
    | with_reducible refine (steady_bump ..).lawful.after ?_
    | with_reducible refine (steady_secReport ..).lawful.after ?_
    | with_reducible refine (lawful_raiseAlarm ..).after ?_
    | intro _
    | with_reducible exact ⟨rfl, rfl, rfl, rfl, rfl⟩
    | with_reducible exact ⟨rfl, rfl⟩
    | with_reducible exact ⟨rfl, rfl, rfl, rfl, rfl, rfl⟩
    | with_reducible exact rfl
    | split

theorem lawful_unlockResponse (s : State)  : Lawful s (unlockResponse s) := by
  unfold unlockResponse
  dsimp only
  split
  · exact (steady_endOrder ..).lawful
  · split
    · exact (steady_endOrder ..).lawful
    · split
      · exact (lawful_unlockFailed ..).after (steady_endOrder ..).lawful
      · split
        · refine (steady_endOrder ..).lawful.after (Lawful.trans (steady_mSec _ _ ⟨rfl, rfl, rfl, rfl, rfl⟩).lawful (lawful_mSec _ _ fun x => ?_))
          obtain ⟨⟨-, b, c, d, -⟩, g⟩ := (State.legal_iff _).mp x
          exact ⟨b, c, d, g⟩
        · exact (lawful_unlockFailed ..).after ((steady_endOrder ..).lawful.after (steady_mSec _ _ ⟨rfl, rfl, rfl, rfl, rfl⟩).lawful)

theorem lawful_keyload (slot : Nat) (s : State)  : Lawful s (keyload slot s) := by
  unfold keyload
  split
  · exact (steady_klEnd ..).lawful
  · split
    · exact (steady_klEnd ..).lawful
    · rename_i h
      split
      · exact (steady_klEnd ..).lawful
      · split
        · exact (steady_klEnd ..).lawful
        · split
          · exact (steady_klEnd ..).lawful
          · refine (steady_klEnd ..).lawful.after (lawful_storeKey _ _ _ ?_)
            simp only [keySlotLegal, Bool.or_eq_true, decide_eq_true_eq]
            omega

theorem lawful_tenantWrite (priv : BitVec 2) (f : State → State) (s : State) (hf : ∀ s, Lawful s (f s)) : Lawful s (tenantWrite priv f s) := by
  unfold tenantWrite
  try dsimp only [-Nat.reducePow]
  repeat' first
    | with_reducible exact Lawful.refl _
    | with_reducible refine (steady_answer ..).lawful.after ?_
    | with_reducible refine (steady_denied ..).lawful.after ?_
    | with_reducible refine (lawful_hrp _ _ ?_).after ?_
    | with_reducible refine (hf ..).after ?_
    | intro _
    | with_reducible exact ⟨rfl, rfl, rfl, rfl, rfl⟩
    | with_reducible exact ⟨rfl, rfl⟩
    | with_reducible exact ⟨rfl, rfl, rfl, rfl, rfl, rfl⟩
    | with_reducible exact rfl
    | split

theorem lawful_applyExpert (b : Bytes) (s : State)  : Lawful s (applyExpert b s).2 := by
  unfold applyExpert
  refine lawful_foldl2 _ (fun x i => ?_) _ (0, s)
  dsimp only
  split
  · exact lawful_expertWrite ..
  · exact Lawful.refl _

theorem lawful_rstNAssert (s : State)  : Lawful s (rstNAssert s) := by
  refine ⟨fun _ => rfl, fun _ => rfl, fun x => ?_, rfl, ?_⟩
  · obtain ⟨⟨a, -, -, -, e⟩, -⟩ := (State.legal_iff s).mp x
    exact (State.legal_iff _).mpr ⟨⟨a, Nat.zero_le _, Nat.zero_le _, Nat.zero_le _, e⟩, fun k h => (List.not_mem_nil h).elim⟩
  · exact ⟨Nat.le_refl _, fun h => ⟨h, rfl, rfl, rfl, BitVec.le_refl _⟩, fun _ => rfl, rfl, (Otp.Forward.refl _).seeds⟩

theorem lawful_rstNRelease (dieId : BitVec 6) (s : State)  : Lawful s (rstNRelease dieId s) := by
  unfold rstNRelease
  try dsimp only [-Nat.reducePow]
  repeat' first
    | with_reducible exact Lawful.refl _
    | with_reducible refine (lawful_mPorts _ _).after ?_
    | with_reducible refine (steady_setDomain ..).lawful.after ?_
    | with_reducible refine (steady_stagePass ..).lawful.after ?_
    | intro _
    | with_reducible exact ⟨rfl, rfl, rfl, rfl, rfl⟩
    | with_reducible exact ⟨rfl, rfl⟩
    | with_reducible exact ⟨rfl, rfl, rfl, rfl, rfl, rfl⟩
    | with_reducible exact rfl
    | split

theorem lawful_s1Reports (t : SelfTest) (s : State)  : Lawful s (s1Reports t s) := by
  unfold s1Reports
  try dsimp only [-Nat.reducePow]
  repeat' first
    | with_reducible exact Lawful.refl _
    | with_reducible refine (steady_reportSelf ..).lawful.after ?_
    | with_reducible refine (lawful_raiseAlarm ..).after ?_
    | intro _
    | with_reducible exact ⟨rfl, rfl, rfl, rfl, rfl⟩
    | with_reducible exact ⟨rfl, rfl⟩
    | with_reducible exact ⟨rfl, rfl, rfl, rfl, rfl, rfl⟩
    | with_reducible exact rfl
    | split

theorem lawful_stageS1 (t : SelfTest) (s : State)  : Lawful s (stageS1 t s) := by
  unfold stageS1
  split
  · exact Lawful.refl _
  have h : Lawful s (s1Reports t (s.mSec fun x => { x with lc := s.nv.otp.lc, nextLc := s.nv.otp.lc })) :=
    (lawful_s1Reports ..).after (lawful_mSec _ _ fun x => by
      obtain ⟨⟨a, -, -, d, -⟩, g⟩ := (State.legal_iff s).mp x
      exact ⟨a, a, d, g⟩)
  dsimp only
  split
  · exact (steady_stageFatal ..).lawful.after h
  · split
    · exact (steady_mCfg ..).lawful.after ((steady_stageReport ..).lawful.after ((lawful_deriveS1 ..).after h))
    · exact (steady_stagePass ..).lawful.after ((lawful_deriveS1 ..).after h)

theorem lawful_loadSections (img : Bytes) (copy : Bool) (s : State)  : Lawful s (loadSections img copy s) := by
  unfold loadSections
  dsimp only
  exact (lawful_expert ..).after ((steady_mTs _ _ rfl).after (steady_mCfg ..)).lawful

theorem lawful_applySections (img : Bytes) (s : State)  : Lawful s (applySections img s).2 := by
  unfold applySections
  try dsimp only [-Nat.reducePow]
  repeat' first
    | with_reducible exact Lawful.refl _
    | with_reducible refine (steady_mCfg _ _).lawful.after ?_
    | with_reducible refine (lawful_applyExpert ..).after ?_
    | with_reducible refine (steady_cfgExpert ..).lawful.after ?_
    | intro _
    | with_reducible exact ⟨rfl, rfl, rfl, rfl, rfl⟩
    | with_reducible exact ⟨rfl, rfl⟩
    | with_reducible exact ⟨rfl, rfl, rfl, rfl, rfl, rfl⟩
    | with_reducible exact rfl
    | split

theorem lawful_stageS2With (img : Bytes) (copy : Bool) (s : State)  : Lawful s (stageS2With img copy s) := by
  unfold stageS2With
  try dsimp only [-Nat.reducePow]
  repeat' first
    | with_reducible exact Lawful.refl _
    | with_reducible refine (steady_stagePass ..).lawful.after ?_
    | with_reducible refine (steady_stageFatal ..).lawful.after ?_
    | with_reducible refine (lawful_deriveS2 ..).after ?_
    | with_reducible refine (steady_cfgExpert ..).lawful.after ?_
    | with_reducible refine (steady_readStud ..).lawful.after ?_
    | with_reducible refine (lawful_loadSections ..).after ?_
    | with_reducible refine (lawful_applySections ..).after ?_
    | with_reducible refine (steady_s3Domains ..).lawful.after ?_
    | intro _
    | with_reducible exact ⟨rfl, rfl, rfl, rfl, rfl⟩
    | with_reducible exact ⟨rfl, rfl⟩
    | with_reducible exact ⟨rfl, rfl, rfl, rfl, rfl, rfl⟩
    | with_reducible exact rfl
    | split

theorem lawful_stageS2 (primary secondary : Bytes) (s : State)  : Lawful s (stageS2 primary secondary s) := by
  unfold stageS2
  try dsimp only [-Nat.reducePow]
  repeat' first
    | with_reducible exact Lawful.refl _
    | with_reducible refine (steady_reportSelf ..).lawful.after ?_
    | with_reducible refine (steady_stageFatal ..).lawful.after ?_
    | with_reducible refine (lawful_stageS2With ..).after ?_
    | intro _
    | with_reducible exact ⟨rfl, rfl, rfl, rfl, rfl⟩
    | with_reducible exact ⟨rfl, rfl⟩
    | with_reducible exact ⟨rfl, rfl, rfl, rfl, rfl, rfl⟩
    | with_reducible exact rfl
    | split

theorem lawful_injectWrite (priv : BitVec 2) (f : State → State) (s : State) (hf : ∀ s, Lawful s (f s)) : Lawful s (injectWrite priv f s) := by
  unfold injectWrite
  try dsimp only [-Nat.reducePow]
  repeat' first
    | with_reducible exact Lawful.refl _
    | with_reducible refine (steady_reportSelf ..).lawful.after ?_
    | with_reducible refine (steady_answer ..).lawful.after ?_
    | with_reducible refine (steady_denied ..).lawful.after ?_
    | with_reducible refine (lawful_hrp _ _ ?_).after ?_
    | with_reducible refine (hf ..).after ?_
    | intro _
    | with_reducible exact ⟨rfl, rfl, rfl, rfl, rfl⟩
    | with_reducible exact ⟨rfl, rfl⟩
    | with_reducible exact ⟨rfl, rfl, rfl, rfl, rfl, rfl⟩
    | with_reducible exact rfl
    | split

theorem lawful_lcCtrl (priv : BitVec 2) (w : W64) (s : State)  : Lawful s (lcCtrl priv w s) := by
  unfold lcCtrl
  try dsimp only [-Nat.reducePow]
  repeat' first
    | with_reducible exact Lawful.refl _
    | with_reducible refine (lawful_operatorWrite _ _ _ ?_).after ?_
    | with_reducible refine (steady_endOrder ..).lawful.after ?_
    | with_reducible refine (lawful_lcRow _ _ _ _ _ ?_).after ?_
    | with_reducible refine (lawful_programRoot ..).after ?_
    | with_reducible refine (lawful_advanceLc ..).after ?_
    | with_reducible refine (lawful_genIdentity ..).after ?_
    | with_reducible refine (steady_installCert ..).lawful.after ?_
    | with_reducible refine (lawful_programWrapped ..).after ?_
    | with_reducible refine (lawful_setMinSeq ..).after ?_
    | with_reducible refine (steady_unlockChallenge ..).lawful.after ?_
    | with_reducible refine (lawful_unlockResponse ..).after ?_
    | intro _
    | with_reducible exact ⟨rfl, rfl, rfl, rfl, rfl⟩
    | with_reducible exact ⟨rfl, rfl⟩
    | with_reducible exact ⟨rfl, rfl, rfl, rfl, rfl, rfl⟩
    | with_reducible exact rfl
    | split

theorem lawful_expertAccess (priv : BitVec 2) (a : Nat) (f : State → State) (s : State) (hf : ∀ s, Lawful s (f s)) : Lawful s (expertAccess priv a f s) := by
  unfold expertAccess
  try dsimp only [-Nat.reducePow]
  repeat' first
    | with_reducible exact Lawful.refl _
    | with_reducible refine (steady_answer ..).lawful.after ?_
    | with_reducible refine (steady_denied ..).lawful.after ?_
    | with_reducible refine (hf ..).after ?_
    | intro _
    | with_reducible exact ⟨rfl, rfl, rfl, rfl, rfl⟩
    | with_reducible exact ⟨rfl, rfl⟩
    | with_reducible exact ⟨rfl, rfl, rfl, rfl, rfl, rfl⟩
    | with_reducible exact rfl
    | split

theorem lawful_writeExpert (priv : BitVec 2) (a : Nat) (w : W64) (s : State)  : Lawful s (writeExpert priv a w s) := by
  unfold writeExpert
  try dsimp only [-Nat.reducePow]
  repeat' first
    | with_reducible exact Lawful.refl _
    | with_reducible refine (steady_answer ..).lawful.after ?_
    | with_reducible refine (steady_denied ..).lawful.after ?_
    | with_reducible refine (lawful_expertWrite ..).after ?_
    | with_reducible refine (lawful_expertAccess _ _ _ _ ?_).after ?_
    | intro _
    | with_reducible exact ⟨rfl, rfl, rfl, rfl, rfl⟩
    | with_reducible exact ⟨rfl, rfl⟩
    | with_reducible exact ⟨rfl, rfl, rfl, rfl, rfl, rfl⟩
    | with_reducible exact rfl
    | split

theorem lawful_orderReg {priv : BitVec 2} {a : Nat} {w : W64} {s t : State} (h : orderReg priv a w s = some t) : Lawful s t := by
  unfold orderReg at h
  dsimp only at h
  split at h <;> cases h
  all_goals
    repeat' first
      | with_reducible exact Lawful.refl _
      | with_reducible refine (lawful_operatorWrite _ _ _ ?_).after ?_
      | with_reducible refine (lawful_injectWrite _ _ _ ?_).after ?_
      | with_reducible refine (lawful_ctOrderWrite _ _ _ _ ?_).after ?_
      | with_reducible refine (steady_hostBarrier ..).lawful.after ?_
      | with_reducible refine (lawful_testOrder _ _ _ _ ?_).after ?_
      | with_reducible refine (steady_fcAck ..).lawful.after ?_
      | with_reducible refine (steady_injectGo ..).lawful.after ?_
      | with_reducible refine (sound_ctOrder ..).lawful.after ?_
      | with_reducible refine (sound_hostBist ..).lawful.after ?_
      | with_reducible refine (steady_hostTest ..).lawful.after ?_
      | with_reducible refine (steady_pkgCtrl ..).lawful.after ?_
      | with_reducible refine (lawful_pkgWord ..).after ?_
      | with_reducible refine (lawful_fuseProgram ..).after ?_
      | with_reducible refine (lawful_lcCtrl ..).after ?_
      | with_reducible refine (lawful_keyload ..).after ?_
      | with_reducible refine (lawful_tenantWrite _ _ _ ?_).after ?_
      | with_reducible refine (steady_tokenPresent ..).lawful.after ?_
      | with_reducible refine (steady_sarCtrl ..).lawful.after ?_
      | with_reducible refine (steady_snapWrite ..).lawful.after ?_
      | with_reducible refine (steady_watchGo ..).lawful.after ?_
      | with_reducible refine (steady_dumpWrite ..).lawful.after ?_
      | with_reducible exact (steady_fuseBits ..).lawful
      | intro _
      | split

theorem lawful_writeBasic (priv : BitVec 2) (a : Nat) (w : W64) (s : State)  : Lawful s (writeBasic priv a w s) := by
  unfold writeBasic
  split
  · exact (steady_answer ..).lawful
  · split
    · exact lawful_orderReg (by assumption)
    · split
      · exact ((steady_basicWrite ..).after (steady_answer ..)).lawful
      · exact (steady_denied ..).lawful

theorem lawful_registerWrite (priv : BitVec 2) (addr : BitVec 22) (w : W64) (s : State)  : Lawful s (registerWrite priv addr w s) := by
  unfold registerWrite
  try dsimp only [-Nat.reducePow]
  repeat' first
    | with_reducible exact Lawful.refl _
    | with_reducible refine (steady_answer ..).lawful.after ?_
    | with_reducible refine (steady_denied ..).lawful.after ?_
    | with_reducible refine (lawful_hrp _ _ ?_).after ?_
    | with_reducible refine (lawful_writeExpert ..).after ?_
    | with_reducible refine (lawful_writeBasic ..).after ?_
    | intro _
    | with_reducible exact ⟨rfl, rfl, rfl, rfl, rfl⟩
    | with_reducible exact ⟨rfl, rfl⟩
    | with_reducible exact ⟨rfl, rfl, rfl, rfl, rfl, rfl⟩
    | with_reducible exact rfl
    | split

theorem lawful_wrstAssert (s : State)  : Lawful s (wrstAssert s) := by
  unfold wrstAssert
  try dsimp only [-Nat.reducePow]
  repeat' first
    | with_reducible exact Lawful.refl _
    | with_reducible refine (lawful_mPorts _ _).after ?_

theorem lawful_wrstRelease (s : State)  : Lawful s (wrstRelease s) := by
  unfold wrstRelease
  try dsimp only [-Nat.reducePow]
  repeat' first
    | with_reducible exact Lawful.refl _
    | with_reducible refine (lawful_mPorts _ _).after ?_
    | with_reducible refine (steady_partReset ..).lawful.after ?_
    | intro _
    | with_reducible exact ⟨rfl, rfl, rfl, rfl, rfl⟩
    | with_reducible exact ⟨rfl, rfl⟩
    | with_reducible exact ⟨rfl, rfl, rfl, rfl, rfl, rfl⟩
    | with_reducible exact rfl
    | split

theorem lawful_suppliesFail (torn : Bool) (s : State)  : Lawful s (suppliesFail torn s) := by
  unfold suppliesFail
  try dsimp only [-Nat.reducePow]
  repeat' first
    | with_reducible exact Lawful.refl _
    | with_reducible refine (steady_mNv _ _ ?_).lawful.after ?_
    | with_reducible refine (lawful_mPorts _ _).after ?_
    | with_reducible refine (lawful_rstNAssert ..).after ?_
    | intro _
    | with_reducible exact ⟨rfl, rfl, rfl, rfl, rfl⟩
    | with_reducible exact ⟨rfl, rfl⟩
    | with_reducible exact ⟨rfl, rfl, rfl, rfl, rfl, rfl⟩
    | with_reducible exact rfl
    | split

theorem lawful_tapInstruction (op : TapOp) (s : State)  : Lawful s (tapInstruction op s) := by
  unfold tapInstruction
  try dsimp only [-Nat.reducePow]
  repeat' first
    | with_reducible exact Lawful.refl _
    | with_reducible refine (lawful_mPorts _ _).after ?_
    | with_reducible refine (sound_eraseArray ..).lawful.after ?_
    | intro _
    | with_reducible exact ⟨rfl, rfl, rfl, rfl, rfl⟩
    | with_reducible exact ⟨rfl, rfl⟩
    | with_reducible exact ⟨rfl, rfl, rfl, rfl, rfl, rfl⟩
    | with_reducible exact rfl
    | split

end Sys2Proof.Machine
end

