-- ==== Sys2Proof/Laws/Commands.lean ====
section
/-!
SUPPORT. What every command keeps that ends in a next state: one lemma per command, in the order of the definitions.
-/
namespace Sys2Proof.Machine

/-! ### Memory -/

theorem steady_execBankRead {slot : BitVec 15} {line : BitVec 5} {a : Access} {e : EccSay} {s t : State}
    (h : execBankRead slot line a e s = .next t) : Steady s t := by
  unfold execBankRead onSlot at h
  split at h
  · cases h
    exact steady_bankRead ..
  · cases h

theorem sound_execBankWrite {slot : BitVec 15} {line : BitVec 5} {mask : W64} {data : BitVec 512} {a : Access} {e :
    EccSay} {s t : State}
    (h : execBankWrite slot line mask data a e s = .next t) : Sound s t := by
  unfold execBankWrite onSlot at h
  split at h
  · cases h
    exact sound_bankWrite ..
  · cases h

theorem sound_execAdd64 {slot : BitVec 15} {w : BitVec 8} {v : W64} {a : Access} {e : EccSay} {s t : State}
    (h : execAdd64 slot w v a e s = .next t) : Sound s t := by
  unfold execAdd64 onSlot at h
  split at h
  · cases h
    exact sound_bankAdd64 ..
  · cases h

theorem sound_execLpfAdd {slot : BitVec 15} {off8 : BitVec 8} {rec : Bytes} {a : Access} {e : EccSay} {s t : State}
    (h : execLpfAdd slot off8 rec a e s = .next t) : Sound s t := by
  unfold execLpfAdd onSlot at h
  split at h
  · cases h
  · split at h
    · cases h
      exact sound_bankLpfAdd ..
    · cases h

theorem sound_execAlloc {slot : BitVec 15} {ctx : Ctx} {plan : BitVec 6} {epoch : Bool} {s t : State}
    (h : execAlloc slot ctx plan epoch s = .next t) : Sound s t := by
  unfold execAlloc onSlot at h
  split at h
  · cases h
    exact sound_tagAllocOp ..
  · cases h

theorem sound_execBind {slot : BitVec 15} {a : Access} {s t : State}
    (h : execBind slot a s = .next t) : Sound s t := by
  unfold execBind onSlot at h
  split at h
  · cases h
    exact sound_tagBindOp ..
  · cases h

theorem sound_execSetFull {slot : BitVec 15} {a : Access} {s t : State}
    (h : execSetFull slot a s = .next t) : Sound s t := by
  unfold execSetFull onSlot at h
  split at h
  · cases h
    exact sound_tagFullOp ..
  · cases h

theorem sound_execClear {slot : BitVec 15} {s t : State}
    (h : execClear slot s = .next t) : Sound s t := by
  unfold execClear onSlot at h
  split at h
  · cases h
    exact sound_tagClearOp ..
  · cases h

theorem sound_execScrubSet {slot : BitVec 15} {s t : State}
    (h : execScrubSet slot s = .next t) : Sound s t := by
  unfold execScrubSet onSlot at h
  split at h
  · cases h
    exact sound_tagScrubOp ..
  · cases h

theorem sound_execFree {slot : BitVec 15} {s t : State}
    (h : execFree slot s = .next t) : Sound s t := by
  unfold execFree onSlot at h
  split at h
  · cases h
    exact sound_tagFreeOp ..
  · cases h

theorem sound_execRowmap {bank : BitVec 6} {row : BitVec 10} {s t : State}
    (h : execRowmap bank row s = .next t) : Sound s t := by
  unfold execRowmap at h
  split at h
  · cases h
  · split at h
    · cases h
      exact Sound.refl _
    · cases h
      exact (sound_mapRow ..).after (steady_engTake ..).sound

theorem sound_execFill {slot count : BitVec 15} {pattern : W64} {s t : State}
    (h : execFill slot count pattern s = .next t) : Sound s t := by
  unfold execFill at h
  split at h
  · cases h
    split
    · exact Sound.refl _
    · exact sound_engFill ..
  · cases h

theorem sound_execCopy {src count dst : BitVec 15} {lane : Option (BitVec 6)} {s t : State}
    (h : execCopy src count dst lane s = .next t) : Sound s t := by
  unfold execCopy at h
  split at h
  · cases h
    split
    · exact Sound.refl _
    · exact sound_engCopy ..
  · cases h

theorem sound_execErase {ctx : Ctx} {r r2 : WipeSay} {s t : State}
    (h : execErase ctx r r2 s = .next t) : Sound s t := by
  obtain rfl := Host.Outcome.next.inj h
  repeat' first
    | with_reducible exact Sound.refl _
    | with_reducible refine (sound_eraseRanges ..).after ?_
    | intro _
    | split

theorem steady_execShedDrain {shed : BitVec 2} {s t : State}
    (h : execShedDrain shed s = .next t) : Steady s t := by
  obtain rfl := Host.Outcome.next.inj h
  exact steady_shedDrain ..

theorem sound_execShedOff {shed : BitVec 2} {s t : State}
    (h : execShedOff shed s = .next t) : Sound s t := by
  obtain rfl := Host.Outcome.next.inj h
  exact sound_shedOff ..

theorem steady_execDrainTimeout {shed : BitVec 2} {port : BitVec 6} {s t : State}
    (h : execDrainTimeout shed port s = .next t) : Steady s t := by
  obtain rfl := Host.Outcome.next.inj h
  exact steady_drainTimeout ..

theorem steady_execShedInitDone {shed : BitVec 2} {s t : State}
    (h : execShedInitDone shed s = .next t) : Steady s t := by
  obtain rfl := Host.Outcome.next.inj h
  exact steady_shedInitDone ..

/-! ### Ledger -/

theorem sound_execPlanEpochFlip {ctx : Ctx} {s t : State}
    (h : execPlanEpochFlip ctx s = .next t) : Sound s t := by
  obtain rfl := Host.Outcome.next.inj h
  repeat' first
    | with_reducible exact Sound.refl _
    | with_reducible refine (sound_planEpochFlip ..).after ?_
    | intro _
    | split

theorem steady_execClusterReconfig {ctx : Ctx} {cluster : BitVec 4} {s t : State}
    (h : execClusterReconfig ctx cluster s = .next t) : Steady s t := by
  obtain rfl := Host.Outcome.next.inj h
  exact steady_clusterReconfig ..

/-! ### Plans -/

theorem sound_execPlanOpen {p : Ingress} {s t : State}
    (h : execPlanOpen p s = .next t) : Sound s t := by
  obtain rfl := Host.Outcome.next.inj h
  repeat' first
    | with_reducible exact Sound.refl _
    | with_reducible refine (sound_planPacket _ _ _ _ ?_).after ?_
    | with_reducible refine (sound_planOpen ..).after ?_
    | intro _

theorem sound_execPlanData {p : Ingress} {s t : State}
    (h : execPlanData p s = .next t) : Sound s t := by
  obtain rfl := Host.Outcome.next.inj h
  repeat' first
    | with_reducible exact Sound.refl _
    | with_reducible refine (sound_planPacket _ _ _ _ ?_).after ?_
    | with_reducible refine (sound_planData ..).after ?_
    | intro _

theorem sound_execOpenTimeout  {s t : State}
    (h : execOpenTimeout s = .next t) : Sound s t := by
  obtain rfl := Host.Outcome.next.inj h
  exact sound_openTimeout ..

theorem sound_execPlanRetire {p : Ingress} {s t : State}
    (h : execPlanRetire p s = .next t) : Sound s t := by
  obtain rfl := Host.Outcome.next.inj h
  repeat' first
    | with_reducible exact Sound.refl _
    | with_reducible refine (sound_planPacket _ _ _ _ ?_).after ?_
    | with_reducible refine (sound_planRetire ..).after ?_
    | intro _

theorem sound_execAdmission  {s t : State}
    (h : execAdmission s = .next t) : Sound s t := by
  obtain rfl := Host.Outcome.next.inj h
  exact sound_admission ..

/-! ### Capture -/

theorem sound_execDigest {p : Ingress} {s t : State}
    (h : execDigest p s = .next t) : Sound s t := by
  obtain rfl := Host.Outcome.next.inj h
  repeat' first
    | with_reducible exact Sound.refl _
    | with_reducible refine (sound_digestRecord ..).after ?_
    | with_reducible refine (sound_recordPacket _ _ _ _ ?_).after ?_
    | intro _

theorem sound_execPerim {p : Ingress} {s t : State}
    (h : execPerim p s = .next t) : Sound s t := by
  obtain rfl := Host.Outcome.next.inj h
  repeat' first
    | with_reducible exact Sound.refl _
    | with_reducible refine (sound_recordPacket _ _ _ _ ?_).after ?_
    | with_reducible refine (sound_dataRecord ..).after ?_
    | intro _

theorem sound_execCapture {p : Ingress} {s t : State}
    (h : execCapture p s = .next t) : Sound s t := by
  obtain rfl := Host.Outcome.next.inj h
  repeat' first
    | with_reducible exact Sound.refl _
    | with_reducible refine (sound_recordPacket _ _ _ _ ?_).after ?_
    | with_reducible refine (sound_dataRecord ..).after ?_
    | intro _

theorem steady_execStepDone {p : Ingress} {s t : State}
    (h : execStepDone p s = .next t) : Steady s t := by
  obtain rfl := Host.Outcome.next.inj h
  repeat' first
    | with_reducible exact Steady.refl _
    | with_reducible refine (steady_recordPacket _ _ _ _ ?_).after ?_
    | with_reducible refine (steady_stepDone ..).after ?_
    | intro _

/-! ### Steps -/

theorem steady_execFireHeldRelease {lane : BitVec 6} {s t : State}
    (h : execFireHeldRelease lane s = .next t) : Steady s t := by
  obtain rfl := Host.Outcome.next.inj h
  exact steady_fireHeldRelease ..

theorem steady_execResGraceExpiry {ctx : Ctx} {epoch : Bool} {step : BitVec 32} {s t : State}
    (h : execResGraceExpiry ctx epoch step s = .next t) : Steady s t := by
  obtain rfl := Host.Outcome.next.inj h
  exact steady_resGraceExpiry ..

theorem sound_execRelease {ctx : Ctx} {s t : State}
    (h : execRelease ctx s = .next t) : Sound s t := by
  obtain rfl := Host.Outcome.next.inj h
  repeat' first
    | with_reducible exact Sound.refl _
    | with_reducible refine (sound_release ..).after ?_
    | intro _
    | split

theorem steady_execStepTimeout {ctx : Ctx} {epoch : Bool} {step : BitVec 32} {s t : State}
    (h : execStepTimeout ctx epoch step s = .next t) : Steady s t := by
  obtain rfl := Host.Outcome.next.inj h
  repeat' first
    | with_reducible exact Steady.refl _
    | with_reducible refine (steady_stepTimeout ..).after ?_
    | intro _
    | split

/-! ### Xdie -/

theorem sound_execXdigest {p : HxPkt} {s t : State}
    (h : execXdigest p s = .next t) : Sound s t := by
  obtain rfl := Host.Outcome.next.inj h
  dsimp only
  repeat' first
    | with_reducible exact Sound.refl _
    | with_reducible refine (steady_consume ..).sound.after ?_
    | with_reducible refine (sound_xdigestSteer ..).after ?_
    | intro _
    | split

/-! ### Procedure -/

theorem sound_execSettleReply {p : Ingress} {s t : State}
    (h : execSettleReply p s = .next t) : Sound s t := by
  obtain rfl := Host.Outcome.next.inj h
  repeat' first
    | with_reducible exact Sound.refl _
    | with_reducible refine (sound_ingress _ _ _ _ _ ?_).after ?_
    | with_reducible refine (sound_settleReply ..).after ?_
    | intro _
    | split

theorem sound_execSettleTimeout {core : Huid} {s t : State}
    (h : execSettleTimeout core s = .next t) : Sound s t := by
  obtain rfl := Host.Outcome.next.inj h
  exact sound_settleTimeout ..

theorem sound_execProcedureStart {katPass : Bool} {s t : State}
    (h : execProcedureStart katPass s = .next t) : Sound s t := by
  obtain rfl := Host.Outcome.next.inj h
  exact sound_procedureStart ..

theorem steady_execRedispatchTimeout {ctx : Ctx} {step : BitVec 32} {task : BitVec 15} {s t : State}
    (h : execRedispatchTimeout ctx step task s = .next t) : Steady s t := by
  obtain rfl := Host.Outcome.next.inj h
  exact steady_redispatchTimeout ..

theorem steady_execReplaySend {ctx : Ctx} {s t : State}
    (h : execReplaySend ctx s = .next t) : Steady s t := by
  obtain rfl := Host.Outcome.next.inj h
  repeat' first
    | with_reducible exact Steady.refl _
    | with_reducible refine (steady_replaySend ..).after ?_
    | intro _
    | split

theorem sound_execXsettle {p : HxPkt} {s t : State}
    (h : execXsettle p s = .next t) : Sound s t := by
  obtain rfl := Host.Outcome.next.inj h
  dsimp only
  repeat' first
    | with_reducible exact Sound.refl _
    | with_reducible refine (steady_consume ..).sound.after ?_
    | with_reducible refine (sound_xsettle ..).after ?_
    | intro _
    | split

theorem sound_execXverdict {p : HxPkt} {s t : State}
    (h : execXverdict p s = .next t) : Sound s t := by
  obtain rfl := Host.Outcome.next.inj h
  dsimp only
  repeat' first
    | with_reducible exact Sound.refl _
    | with_reducible refine (steady_consume ..).sound.after ?_
    | with_reducible refine (sound_xverdict ..).after ?_
    | intro _
    | split

theorem steady_execXverdictWaitTimeout {ctx : Ctx} {step : BitVec 32} {task : BitVec 15} {s t : State}
    (h : execXverdictWaitTimeout ctx step task s = .next t) : Steady s t := by
  obtain rfl := Host.Outcome.next.inj h
  exact steady_xverdictWaitTimeout ..

theorem steady_execTurnoutSelect {core : Huid} {s t : State}
    (h : execTurnoutSelect core s = .next t) : Steady s t := by
  obtain rfl := Host.Outcome.next.inj h
  exact steady_turnoutSelect ..

theorem steady_execSuspectTest {core : Huid} {s t : State}
    (h : execSuspectTest core s = .next t) : Steady s t := by
  obtain rfl := Host.Outcome.next.inj h
  exact steady_suspectTest ..

/-! ### Yard -/

theorem steady_execHlinkDown {link : Huid} {s t : State}
    (h : execHlinkDown link s = .next t) : Steady s t := by
  obtain rfl := Host.Outcome.next.inj h
  exact steady_hlinkDown ..

theorem steady_execHlinkWidth {link : Huid} {trained full : BitVec 4} {s t : State}
    (h : execHlinkWidth link trained full s = .next t) : Steady s t := by
  obtain rfl := Host.Outcome.next.inj h
  exact steady_hlinkWidth ..

theorem sound_execHrouterFail {router : Huid} {s t : State}
    (h : execHrouterFail router s = .next t) : Sound s t := by
  obtain rfl := Host.Outcome.next.inj h
  repeat' first
    | with_reducible exact Sound.refl _
    | with_reducible refine (steady_bump ..).sound.after ?_
    | with_reducible refine (steady_pumpFcp ..).sound.after ?_
    | with_reducible refine (steady_routerFailed ..).sound.after ?_
    | with_reducible refine (sound_ymAdvance ..).after ?_
    | with_reducible refine (steady_pollDone ..).sound.after ?_

theorem steady_execRouteMiss {_router : Huid} {_entry : BitVec 8} {s t : State}
    (h : execRouteMiss _router _entry s = .next t) : Steady s t := by
  obtain rfl := Host.Outcome.next.inj h
  exact steady_routeMiss ..

theorem sound_execInstallStart  {s t : State}
    (h : execInstallStart s = .next t) : Sound s t := by
  obtain rfl := Host.Outcome.next.inj h
  exact sound_installStart ..

theorem sound_execFcpResponse {header data : W64} {s t : State}
    (h : execFcpResponse header data s = .next t) : Sound s t := by
  obtain rfl := Host.Outcome.next.inj h
  exact sound_fcpResponse ..

theorem steady_execCountReadPoll  {s t : State}
    (h : execCountReadPoll s = .next t) : Steady s t := by
  obtain rfl := Host.Outcome.next.inj h
  exact steady_countReadPoll ..

theorem steady_execRetireTimeout  {s t : State}
    (h : execRetireTimeout s = .next t) : Steady s t := by
  obtain rfl := Host.Outcome.next.inj h
  exact steady_retireTimeout ..

/-! ### Tracker -/

theorem sound_execErasureComplete {ctx : Ctx} {s t : State}
    (h : execErasureComplete ctx s = .next t) : Sound s t := by
  obtain rfl := Host.Outcome.next.inj h
  exact sound_erasureComplete ..

theorem sound_execScAck {sector : BitVec 6} {status : BitVec 2} {rdata : W64} {s t : State}
    (h : execScAck sector status rdata s = .next t) : Sound s t := by
  obtain rfl := Host.Outcome.next.inj h
  exact sound_scAck ..

theorem sound_execCtTimeout {entry : BitVec 11} {s t : State}
    (h : execCtTimeout entry s = .next t) : Sound s t := by
  obtain rfl := Host.Outcome.next.inj h
  exact sound_ctTimeout ..

theorem steady_execScWithdrawTimeout {sector : BitVec 6} {s t : State}
    (h : execScWithdrawTimeout sector s = .next t) : Steady s t := by
  obtain rfl := Host.Outcome.next.inj h
  exact steady_scWithdrawTimeout ..

theorem sound_execCtEntryFree  {s t : State}
    (h : execCtEntryFree s = .next t) : Sound s t := by
  obtain rfl := Host.Outcome.next.inj h
  exact sound_ctEntryFree ..

theorem sound_execKillCtx {priv : BitVec 2} {w : W64} {s t : State}
    (h : execKillCtx priv w s = .next t) : Sound s t := by
  obtain rfl := Host.Outcome.next.inj h
  repeat' first
    | with_reducible exact Sound.refl _
    | with_reducible refine (sound_killOrder ..).after ?_
    | with_reducible refine (sound_orderRow _ _ _ _ _ ?_).after ?_
    | intro _

theorem sound_execFenceCore {priv : BitVec 2} {w : W64} {s t : State}
    (h : execFenceCore priv w s = .next t) : Sound s t := by
  obtain rfl := Host.Outcome.next.inj h
  repeat' first
    | with_reducible exact Sound.refl _
    | with_reducible refine (sound_fenceCoreOrder ..).after ?_
    | with_reducible refine (sound_orderRow _ _ _ _ _ ?_).after ?_
    | intro _

theorem steady_execUnfenceCore {priv : BitVec 2} {w : W64} {s t : State}
    (h : execUnfenceCore priv w s = .next t) : Steady s t := by
  obtain rfl := Host.Outcome.next.inj h
  repeat' first
    | with_reducible exact Steady.refl _
    | with_reducible refine (steady_unfenceCoreOrder ..).after ?_
    | with_reducible refine (steady_orderRow _ _ _ _ _ ?_).after ?_
    | intro _

theorem steady_execResetSector {priv : BitVec 2} {w : W64} {s t : State}
    (h : execResetSector priv w s = .next t) : Steady s t := by
  obtain rfl := Host.Outcome.next.inj h
  repeat' first
    | with_reducible exact Steady.refl _
    | with_reducible refine (steady_resetSectorOrder ..).after ?_
    | with_reducible refine (steady_orderRow _ _ _ _ _ ?_).after ?_
    | intro _

theorem steady_execScrubSector {priv : BitVec 2} {w : W64} {s t : State}
    (h : execScrubSector priv w s = .next t) : Steady s t := by
  obtain rfl := Host.Outcome.next.inj h
  repeat' first
    | with_reducible exact Steady.refl _
    | with_reducible refine (steady_scrubSectorOrder ..).after ?_
    | with_reducible refine (steady_orderRow _ _ _ _ _ ?_).after ?_
    | intro _

theorem steady_execResetEngine {priv : BitVec 2} {w : W64} {s t : State}
    (h : execResetEngine priv w s = .next t) : Steady s t := by
  obtain rfl := Host.Outcome.next.inj h
  repeat' first
    | with_reducible exact Steady.refl _
    | with_reducible refine (steady_resetEngineOrder ..).after ?_
    | with_reducible refine (steady_orderRow _ _ _ _ _ ?_).after ?_
    | intro _

theorem steady_execResetPart {priv : BitVec 2} {w : W64} {s t : State}
    (h : execResetPart priv w s = .next t) : Steady s t := by
  obtain rfl := Host.Outcome.next.inj h
  repeat' first
    | with_reducible exact Steady.refl _
    | with_reducible refine (steady_resetPartOrder ..).after ?_
    | with_reducible refine (steady_orderRow _ _ _ _ _ ?_).after ?_
    | intro _

/-! ### Twin -/

theorem sound_execTwcCompare {a b : PathSay} {s t : State}
    (h : execTwcCompare a b s = .next t) : Sound s t := by
  obtain rfl := Host.Outcome.next.inj h
  repeat' first
    | with_reducible exact Sound.refl _
    | with_reducible refine (sound_twcCompare ..).after ?_
    | intro _
    | split

theorem steady_execTwcKat {passA passB : Bool} {s t : State}
    (h : execTwcKat passA passB s = .next t) : Steady s t := by
  obtain rfl := Host.Outcome.next.inj h
  repeat' first
    | with_reducible exact Steady.refl _
    | with_reducible refine (steady_twcKat ..).after ?_
    | intro _
    | split

/-! ### Perim -/

theorem steady_execPerimCompare {pipe : BitVec 3} {a b : PathSay} {katA katB : Bool} {s t : State}
    (h : execPerimCompare pipe a b katA katB s = .next t) : Steady s t := by
  obtain rfl := Host.Outcome.next.inj h
  repeat' first
    | with_reducible exact Steady.refl _
    | with_reducible refine (steady_perimCommand ..).after ?_
    | intro _
    | split

theorem steady_execPerKatPeriod {pass : BitVec 8} {s t : State}
    (h : execPerKatPeriod pass s = .next t) : Steady s t := by
  obtain rfl := Host.Outcome.next.inj h
  repeat' first
    | with_reducible exact Steady.refl _
    | with_reducible refine (steady_perKatPeriod ..).after ?_
    | intro _
    | split

/-! ### Shadow -/

theorem sound_execShadowTaskStart {lane : BitVec 6} {s t : State}
    (h : execShadowTaskStart lane s = .next t) : Sound s t := by
  obtain rfl := Host.Outcome.next.inj h
  repeat' first
    | with_reducible exact Sound.refl _
    | with_reducible refine (sound_shadowTaskStart ..).after ?_
    | intro _
    | split

theorem sound_execShadowTaskDone {lane : BitVec 6} {residueFails : Bool} {wrong : Option (BitVec 40 × BitVec 32)} {b :
    PathSay} {katPass : Bool} {s t : State}
    (h : execShadowTaskDone lane residueFails wrong b katPass s = .next t) : Sound s t := by
  obtain rfl := Host.Outcome.next.inj h
  repeat' first
    | with_reducible exact Sound.refl _
    | with_reducible refine (sound_shadowTaskDone ..).after ?_
    | intro _
    | split

theorem steady_execPartialPush {lane : BitVec 6} {s t : State}
    (h : execPartialPush lane s = .next t) : Steady s t := by
  obtain rfl := Host.Outcome.next.inj h
  repeat' first
    | with_reducible exact Steady.refl _
    | with_reducible refine (steady_partialPush ..).after ?_
    | intro _
    | split

theorem sound_execInboundQueueCombine {cluster : BitVec 4} {s t : State}
    (h : execInboundQueueCombine cluster s = .next t) : Sound s t := by
  obtain rfl := Host.Outcome.next.inj h
  repeat' first
    | with_reducible exact Sound.refl _
    | with_reducible refine (sound_inboundCombine ..).after ?_
    | intro _
    | split

theorem steady_execRemoteRead {lane : BitVec 6} {cluster : BitVec 4} {offset : BitVec 19} {lines : BitVec 8} {s t :
    State}
    (h : execRemoteRead lane cluster offset lines s = .next t) : Steady s t := by
  obtain rfl := Host.Outcome.next.inj h
  repeat' first
    | with_reducible exact Steady.refl _
    | with_reducible refine (steady_remoteRead ..).after ?_
    | intro _
    | split

theorem steady_execSaKatPeriod {pass : W64} {s t : State}
    (h : execSaKatPeriod pass s = .next t) : Steady s t := by
  obtain rfl := Host.Outcome.next.inj h
  repeat' first
    | with_reducible exact Steady.refl _
    | with_reducible refine (steady_saKatPeriod ..).after ?_
    | intro _
    | split

theorem sound_execLaneWipe {lane : BitVec 6} {r r2 : WipeSay} {s t : State}
    (h : execLaneWipe lane r r2 s = .next t) : Sound s t := by
  obtain rfl := Host.Outcome.next.inj h
  exact sound_laneWipe ..

/-! ### Repair -/

theorem sound_execHostBist {priv : BitVec 2} {w : W64} {s t : State}
    (h : execHostBist priv w s = .next t) : Sound s t := by
  obtain rfl := Host.Outcome.next.inj h
  repeat' first
    | with_reducible exact Sound.refl _
    | with_reducible refine (sound_testOrder _ _ _ _ ?_).after ?_
    | with_reducible refine (sound_hostBist ..).after ?_
    | intro _

theorem sound_execBistDone {fails deadSpares : List FailEntry} {s t : State}
    (h : execBistDone fails deadSpares s = .next t) : Sound s t := by
  obtain rfl := Host.Outcome.next.inj h
  exact sound_bistDone ..

theorem lawful_execFuseProgram {priv : BitVec 2} {w : W64} {readBackOk : List Bool} {s t : State}
    (h : execFuseProgram priv w readBackOk s = .next t) : Lawful s t := by
  obtain rfl := Host.Outcome.next.inj h
  repeat' first
    | with_reducible exact Lawful.refl _
    | with_reducible refine (lawful_testOrder _ _ _ _ ?_).after ?_
    | with_reducible refine (lawful_fuseProgram ..).after ?_
    | intro _

/-! ### Training -/

theorem steady_execTrainingStateAdvance {port : BitVec 2} {t : TrainInfo} {s u : State}
    (h : execTrainingStateAdvance port t s = .next u) : Steady s u := by
  obtain rfl := Host.Outcome.next.inj h
  exact steady_trainingAdvance ..

theorem steady_execTrainingAttemptTimeout {port : BitVec 2} {s t : State}
    (h : execTrainingAttemptTimeout port s = .next t) : Steady s t := by
  obtain rfl := Host.Outcome.next.inj h
  exact steady_attemptTimeout ..

theorem steady_execRejoinPeriod {port : BitVec 2} {s t : State}
    (h : execRejoinPeriod port s = .next t) : Steady s t := by
  obtain rfl := Host.Outcome.next.inj h
  exact steady_rejoin ..

theorem steady_execCongWindow {port : BitVec 2} {congested : Bool} {s t : State}
    (h : execCongWindow port congested s = .next t) : Steady s t := by
  obtain rfl := Host.Outcome.next.inj h
  exact steady_congWindow ..

theorem steady_execHxFrameReceive {port : BitVec 2} {f : Frame} {s t : State}
    (h : execHxFrameReceive port f s = .next t) : Steady s t := by
  obtain rfl := Host.Outcome.next.inj h
  exact steady_frameReceive ..

theorem steady_execReplayTimeout {port : BitVec 2} {s t : State}
    (h : execReplayTimeout port s = .next t) : Steady s t := by
  obtain rfl := Host.Outcome.next.inj h
  exact steady_replayTimeout ..

theorem steady_execHxPacketArrive {port : BitVec 2} {p : HxPkt} {s t : State}
    (h : execHxPacketArrive port p s = .next t) : Steady s t := by
  obtain rfl := Host.Outcome.next.inj h
  exact steady_hxPacketArrive ..

/-! ### Hitch -/

theorem steady_execE2eAck {p : HxPkt} {s t : State}
    (h : execE2eAck p s = .next t) : Steady s t := by
  obtain rfl := Host.Outcome.next.inj h
  repeat' first
    | with_reducible exact Steady.refl _
    | with_reducible refine (steady_consumer _ _ _ _ ?_).after ?_
    | with_reducible refine (steady_e2eAck ..).after ?_
    | intro _

theorem steady_execResendTimeout {die : BitVec 6} {space : Bool} {seq : BitVec 16} {s t : State}
    (h : execResendTimeout die space seq s = .next t) : Steady s t := by
  obtain rfl := Host.Outcome.next.inj h
  repeat' first
    | with_reducible exact Steady.refl _
    | with_reducible refine (steady_resendTimeout ..).after ?_
    | intro _
    | split

theorem steady_execAckDelay {die : BitVec 6} {space : Bool} {s t : State}
    (h : execAckDelay die space s = .next t) : Steady s t := by
  obtain rfl := Host.Outcome.next.inj h
  exact steady_ackDelay ..

theorem steady_execState {p : HxPkt} {s t : State}
    (h : execState p s = .next t) : Steady s t := by
  obtain rfl := Host.Outcome.next.inj h
  repeat' first
    | with_reducible exact Steady.refl _
    | with_reducible refine (steady_consumer _ _ _ _ ?_).after ?_
    | with_reducible refine (steady_stateRecord ..).after ?_
    | intro _

theorem steady_execStateRefresh  {s t : State}
    (h : execStateRefresh s = .next t) : Steady s t := by
  obtain rfl := Host.Outcome.next.inj h
  exact steady_sendState ..

theorem steady_execStateStale {die : BitVec 6} {s t : State}
    (h : execStateStale die s = .next t) : Steady s t := by
  obtain rfl := Host.Outcome.next.inj h
  exact steady_stateStale ..

theorem steady_execHostOkLapse  {s t : State}
    (h : execHostOkLapse s = .next t) : Steady s t := by
  obtain rfl := Host.Outcome.next.inj h
  exact steady_hostOkLapse ..

theorem steady_execTblReady {p : HxPkt} {s t : State}
    (h : execTblReady p s = .next t) : Steady s t := by
  obtain rfl := Host.Outcome.next.inj h
  repeat' first
    | with_reducible exact Steady.refl _
    | with_reducible refine (steady_consumer _ _ _ _ ?_).after ?_
    | with_reducible refine (steady_tblReady ..).after ?_
    | intro _

theorem steady_execEpochFlip {p : HxPkt} {s t : State}
    (h : execEpochFlip p s = .next t) : Steady s t := by
  obtain rfl := Host.Outcome.next.inj h
  repeat' first
    | with_reducible exact Steady.refl _
    | with_reducible refine (steady_consumer _ _ _ _ ?_).after ?_
    | with_reducible refine (steady_epochFlip ..).after ?_
    | intro _

theorem steady_execPollPeriod  {s t : State}
    (h : execPollPeriod s = .next t) : Steady s t := by
  obtain rfl := Host.Outcome.next.inj h
  exact steady_pollPeriod ..

theorem steady_execCount {p : HxPkt} {s t : State}
    (h : execCount p s = .next t) : Steady s t := by
  obtain rfl := Host.Outcome.next.inj h
  repeat' first
    | with_reducible exact Steady.refl _
    | with_reducible refine (steady_consumer _ _ _ _ ?_).after ?_
    | with_reducible refine (steady_countReply ..).after ?_
    | with_reducible refine (steady_countQuery ..).after ?_
    | intro _
    | split

theorem steady_execRetire {p : HxPkt} {s t : State}
    (h : execRetire p s = .next t) : Steady s t := by
  obtain rfl := Host.Outcome.next.inj h
  repeat' first
    | with_reducible exact Steady.refl _
    | with_reducible refine (steady_consumer _ _ _ _ ?_).after ?_
    | with_reducible refine (steady_retireVersion ..).after ?_
    | intro _

theorem steady_execHxRetireTimeout  {s t : State}
    (h : execHxRetireTimeout s = .next t) : Steady s t := by
  obtain rfl := Host.Outcome.next.inj h
  exact steady_hxRetireTimeout ..

theorem steady_execBarrierArrive {p : HxPkt} {s t : State}
    (h : execBarrierArrive p s = .next t) : Steady s t := by
  obtain rfl := Host.Outcome.next.inj h
  repeat' first
    | with_reducible exact Steady.refl _
    | with_reducible refine (steady_consumer _ _ _ _ ?_).after ?_
    | with_reducible refine (steady_barrierArrived ..).after ?_
    | intro _

theorem steady_execBarrierRelease {p : HxPkt} {s t : State}
    (h : execBarrierRelease p s = .next t) : Steady s t := by
  obtain rfl := Host.Outcome.next.inj h
  repeat' first
    | with_reducible exact Steady.refl _
    | with_reducible refine (steady_consumer _ _ _ _ ?_).after ?_
    | with_reducible refine (steady_barrierReleased ..).after ?_
    | intro _

theorem steady_execBarrierReleaseTime {barrier : BitVec 4} {s t : State}
    (h : execBarrierReleaseTime barrier s = .next t) : Steady s t := by
  obtain rfl := Host.Outcome.next.inj h
  exact steady_releaseTime ..

theorem steady_execBarrTimeout {barrier : BitVec 4} {s t : State}
    (h : execBarrTimeout barrier s = .next t) : Steady s t := by
  obtain rfl := Host.Outcome.next.inj h
  exact steady_barrTimeout ..

theorem steady_execHostBarrierArrive {priv : BitVec 2} {w : W64} {s t : State}
    (h : execHostBarrierArrive priv w s = .next t) : Steady s t := by
  obtain rfl := Host.Outcome.next.inj h
  repeat' first
    | with_reducible exact Steady.refl _
    | with_reducible refine (steady_hrp _ _ ?_).after ?_
    | with_reducible refine (steady_hostBarrier ..).after ?_
    | intro _

theorem steady_execFaultFwd {p : HxPkt} {s t : State}
    (h : execFaultFwd p s = .next t) : Steady s t := by
  obtain rfl := Host.Outcome.next.inj h
  repeat' first
    | with_reducible exact Steady.refl _
    | with_reducible refine (steady_consumer _ _ _ _ ?_).after ?_
    | with_reducible refine (steady_faultFwd ..).after ?_
    | intro _

theorem sound_execOrder {p : HxPkt} {s t : State}
    (h : execOrder p s = .next t) : Sound s t := by
  obtain rfl := Host.Outcome.next.inj h
  repeat' first
    | with_reducible exact Sound.refl _
    | with_reducible refine (sound_consumer _ _ _ _ ?_).after ?_
    | with_reducible refine (sound_leaderOrder ..).after ?_
    | intro _

theorem steady_execTrace {p : HxPkt} {s t : State}
    (h : execTrace p s = .next t) : Steady s t := by
  obtain rfl := Host.Outcome.next.inj h
  repeat' first
    | with_reducible exact Steady.refl _
    | with_reducible refine (steady_consumer _ _ _ _ ?_).after ?_
    | with_reducible refine (steady_traceIn ..).after ?_
    | intro _

/-! ### Farrier -/

theorem steady_execTestSessionOpen {core : Huid} {channelOk bankOk : Bool} {s t : State}
    (h : execTestSessionOpen core channelOk bankOk s = .next t) : Steady s t := by
  obtain rfl := Host.Outcome.next.inj h
  repeat' first
    | with_reducible exact Steady.refl _
    | with_reducible refine (steady_sessionOpen ..).after ?_
    | intro _
    | split

theorem steady_execHostTestSession {priv : BitVec 2} {w : W64} {s t : State}
    (h : execHostTestSession priv w s = .next t) : Steady s t := by
  obtain rfl := Host.Outcome.next.inj h
  repeat' first
    | with_reducible exact Steady.refl _
    | with_reducible refine (steady_testOrder _ _ _ _ ?_).after ?_
    | with_reducible refine (steady_hostTest ..).after ?_
    | intro _

theorem steady_execTestReply {p : Ingress} {s t : State}
    (h : execTestReply p s = .next t) : Steady s t := by
  obtain rfl := Host.Outcome.next.inj h
  repeat' first
    | with_reducible exact Steady.refl _
    | with_reducible refine (steady_ingress _ _ _ _ _ ?_).after ?_
    | with_reducible refine (steady_testReply ..).after ?_
    | intro _

theorem steady_execScanBlockDone {channel : BitVec 4} {r : ScanSay} {s t : State}
    (h : execScanBlockDone channel r s = .next t) : Steady s t := by
  obtain rfl := Host.Outcome.next.inj h
  repeat' first
    | with_reducible exact Steady.refl _
    | with_reducible refine (steady_scanBlockDone ..).after ?_
    | intro _
    | split

theorem steady_execTestTimeout {channel : BitVec 4} {s t : State}
    (h : execTestTimeout channel s = .next t) : Steady s t := by
  obtain rfl := Host.Outcome.next.inj h
  exact steady_testTimeout ..

theorem steady_execPkgOpen {priv : BitVec 2} {w : W64} {s t : State}
    (h : execPkgOpen priv w s = .next t) : Steady s t := by
  obtain rfl := Host.Outcome.next.inj h
  repeat' first
    | with_reducible exact Steady.refl _
    | with_reducible refine (steady_pkgStart ..).after ?_
    | with_reducible refine (steady_pkgRow _ _ _ _ _ ?_).after ?_
    | intro _

theorem lawful_execPkgData {priv : BitVec 2} {w : W64} {s t : State}
    (h : execPkgData priv w s = .next t) : Lawful s t := by
  obtain rfl := Host.Outcome.next.inj h
  repeat' first
    | with_reducible exact Lawful.refl _
    | with_reducible refine (lawful_testOrder _ _ _ _ ?_).after ?_
    | with_reducible refine (lawful_pkgWord ..).after ?_
    | intro _

theorem steady_execPkgClose {priv : BitVec 2} {w : W64} {s t : State}
    (h : execPkgClose priv w s = .next t) : Steady s t := by
  obtain rfl := Host.Outcome.next.inj h
  repeat' first
    | with_reducible exact Steady.refl _
    | with_reducible refine (steady_pkgClose ..).after ?_
    | with_reducible refine (steady_pkgRow _ _ _ _ _ ?_).after ?_
    | intro _

theorem steady_execPkgAbort {priv : BitVec 2} {w : W64} {s t : State}
    (h : execPkgAbort priv w s = .next t) : Steady s t := by
  obtain rfl := Host.Outcome.next.inj h
  repeat' first
    | with_reducible exact Steady.refl _
    | with_reducible refine (steady_pkgAbort ..).after ?_
    | with_reducible refine (steady_pkgRow _ _ _ _ _ ?_).after ?_
    | intro _

theorem lawful_execPkgVerify {readBackOk : Bool} {s t : State}
    (h : execPkgVerify readBackOk s = .next t) : Lawful s t := by
  obtain rfl := Host.Outcome.next.inj h
  exact lawful_pkgVerify ..

theorem lawful_execBulk {p : HxPkt} {s t : State}
    (h : execBulk p s = .next t) : Lawful s t := by
  obtain rfl := Host.Outcome.next.inj h
  repeat' first
    | with_reducible exact Lawful.refl _
    | with_reducible refine (lawful_consumer _ _ _ _ ?_).after ?_
    | with_reducible refine (lawful_bulkPacket ..).after ?_
    | intro _

/-! ### Power -/

theorem steady_execDomainPowerRequest {d : BitVec 5} {s t : State}
    (h : execDomainPowerRequest d s = .next t) : Steady s t := by
  obtain rfl := Host.Outcome.next.inj h
  exact steady_domainPowerRequest ..

theorem sound_execPowerGood {d : BitVec 5} {s t : State}
    (h : execPowerGood d s = .next t) : Sound s t := by
  obtain rfl := Host.Outcome.next.inj h
  exact sound_powerGood ..

theorem steady_execDomainTimeout {d : BitVec 5} {s t : State}
    (h : execDomainTimeout d s = .next t) : Steady s t := by
  obtain rfl := Host.Outcome.next.inj h
  exact steady_domainTimeout ..

theorem sound_execDomainShutdown {d : BitVec 5} {s t : State}
    (h : execDomainShutdown d s = .next t) : Sound s t := by
  obtain rfl := Host.Outcome.next.inj h
  exact sound_domainShutdown ..

theorem steady_execPmbRead {chan : BitVec 7} {raw : Option (BitVec 16)} {s t : State}
    (h : execPmbRead chan raw s = .next t) : Steady s t := by
  obtain rfl := Host.Outcome.next.inj h
  exact steady_pmbRead ..

theorem steady_execPmbAlert {_addr : BitVec 7} {status : BitVec 16} {s t : State}
    (h : execPmbAlert _addr status s = .next t) : Steady s t := by
  obtain rfl := Host.Outcome.next.inj h
  exact steady_pmbAlert ..

theorem lawful_execSlowRound  {s t : State}
    (h : execSlowRound s = .next t) : Lawful s t := by
  obtain rfl := Host.Outcome.next.inj h
  exact lawful_slowRound ..

/-! ### Security -/

theorem lawful_execAlarmPin {pin : BitVec 3} {level : Bool} {s t : State}
    (h : execAlarmPin pin level s = .next t) : Lawful s t := by
  obtain rfl := Host.Outcome.next.inj h
  exact lawful_alarmPin ..

theorem lawful_execLockstep  {s t : State}
    (h : execLockstep s = .next t) : Lawful s t := by
  obtain rfl := Host.Outcome.next.inj h
  exact lawful_lockstep ..

theorem lawful_execSec {p : HxPkt} {s t : State}
    (h : execSec p s = .next t) : Lawful s t := by
  obtain rfl := Host.Outcome.next.inj h
  repeat' first
    | with_reducible exact Lawful.refl _
    | with_reducible refine (lawful_consumer _ _ _ _ ?_).after ?_
    | with_reducible refine (lawful_secArrived ..).after ?_
    | intro _

theorem lawful_execProgramRoot {priv : BitVec 2} {w : W64} {s t : State}
    (h : execProgramRoot priv w s = .next t) : Lawful s t := by
  obtain rfl := Host.Outcome.next.inj h
  repeat' first
    | with_reducible exact Lawful.refl _
    | with_reducible refine (lawful_lcRow _ _ _ _ _ ?_).after ?_
    | with_reducible refine (lawful_programRoot ..).after ?_
    | intro _

theorem lawful_execAdvance {priv : BitVec 2} {w : W64} {s t : State}
    (h : execAdvance priv w s = .next t) : Lawful s t := by
  obtain rfl := Host.Outcome.next.inj h
  repeat' first
    | with_reducible exact Lawful.refl _
    | with_reducible refine (lawful_lcRow _ _ _ _ _ ?_).after ?_
    | with_reducible refine (lawful_advanceLc ..).after ?_
    | intro _

theorem lawful_execGenIdentity {priv : BitVec 2} {w : W64} {s t : State}
    (h : execGenIdentity priv w s = .next t) : Lawful s t := by
  obtain rfl := Host.Outcome.next.inj h
  repeat' first
    | with_reducible exact Lawful.refl _
    | with_reducible refine (lawful_lcRow _ _ _ _ _ ?_).after ?_
    | with_reducible refine (lawful_genIdentity ..).after ?_
    | intro _

theorem steady_execInstallCert {priv : BitVec 2} {w : W64} {s t : State}
    (h : execInstallCert priv w s = .next t) : Steady s t := by
  obtain rfl := Host.Outcome.next.inj h
  repeat' first
    | with_reducible exact Steady.refl _
    | with_reducible refine (steady_lcRow _ _ _ _ _ ?_).after ?_
    | with_reducible refine (steady_installCert ..).after ?_
    | intro _

theorem lawful_execProgramWrapped {priv : BitVec 2} {w : W64} {s t : State}
    (h : execProgramWrapped priv w s = .next t) : Lawful s t := by
  obtain rfl := Host.Outcome.next.inj h
  repeat' first
    | with_reducible exact Lawful.refl _
    | with_reducible refine (lawful_lcRow _ _ _ _ _ ?_).after ?_
    | with_reducible refine (lawful_programWrapped ..).after ?_
    | intro _

theorem lawful_execSetMinSeq {priv : BitVec 2} {w : W64} {s t : State}
    (h : execSetMinSeq priv w s = .next t) : Lawful s t := by
  obtain rfl := Host.Outcome.next.inj h
  repeat' first
    | with_reducible exact Lawful.refl _
    | with_reducible refine (lawful_lcRow _ _ _ _ _ ?_).after ?_
    | with_reducible refine (lawful_setMinSeq ..).after ?_
    | intro _

theorem steady_execUnlockChallenge {priv : BitVec 2} {w : W64} {s t : State}
    (h : execUnlockChallenge priv w s = .next t) : Steady s t := by
  obtain rfl := Host.Outcome.next.inj h
  repeat' first
    | with_reducible exact Steady.refl _
    | with_reducible refine (steady_lcRow _ _ _ _ _ ?_).after ?_
    | with_reducible refine (steady_unlockChallenge ..).after ?_
    | intro _

theorem lawful_execUnlockResponse {priv : BitVec 2} {w : W64} {s t : State}
    (h : execUnlockResponse priv w s = .next t) : Lawful s t := by
  obtain rfl := Host.Outcome.next.inj h
  repeat' first
    | with_reducible exact Lawful.refl _
    | with_reducible refine (lawful_lcRow _ _ _ _ _ ?_).after ?_
    | with_reducible refine (lawful_unlockResponse ..).after ?_
    | intro _

theorem steady_execProvOut {priv : BitVec 2} {s t : State}
    (h : execProvOut priv s = .next t) : Steady s t := by
  obtain rfl := Host.Outcome.next.inj h
  exact steady_provOut ..

theorem lawful_execKeyload {priv : BitVec 2} {w : W64} {s t : State}
    (h : execKeyload priv w s = .next t) : Lawful s t := by
  obtain rfl := Host.Outcome.next.inj h
  repeat' first
    | with_reducible exact Lawful.refl _
    | with_reducible refine (lawful_operatorWrite _ _ _ ?_).after ?_
    | with_reducible refine (lawful_keyload ..).after ?_
    | intro _
    | split

theorem steady_execTokenPresent {priv : BitVec 2} {w : W64} {s t : State}
    (h : execTokenPresent priv w s = .next t) : Steady s t := by
  obtain rfl := Host.Outcome.next.inj h
  repeat' first
    | with_reducible exact Steady.refl _
    | with_reducible refine (steady_tenantWrite _ _ _ ?_).after ?_
    | with_reducible refine (steady_tokenPresent ..).after ?_
    | intro _
    | split

theorem steady_execTokenBindingLapse  {s t : State}
    (h : execTokenBindingLapse s = .next t) : Steady s t := by
  obtain rfl := Host.Outcome.next.inj h
  repeat' first
    | with_reducible exact Steady.refl _
    | with_reducible refine (steady_mSec _ _ ?_).after ?_
    | intro _
    | with_reducible exact ⟨rfl, rfl, rfl, rfl, rfl⟩

theorem steady_execSarGo {priv : BitVec 2} {w : W64} {s t : State}
    (h : execSarGo priv w s = .next t) : Steady s t := by
  obtain rfl := Host.Outcome.next.inj h
  repeat' first
    | with_reducible exact Steady.refl _
    | with_reducible refine (steady_answer ..).after ?_
    | with_reducible refine (steady_denied ..).after ?_
    | with_reducible refine (steady_hrp _ _ ?_).after ?_
    | with_reducible refine (steady_sarGo ..).after ?_
    | intro _
    | split

theorem steady_execSarBuildDone  {s t : State}
    (h : execSarBuildDone s = .next t) : Steady s t := by
  obtain rfl := Host.Outcome.next.inj h
  exact steady_sarBuildDone ..

theorem steady_execSarData {priv : BitVec 2} {s t : State}
    (h : execSarData priv s = .next t) : Steady s t := by
  obtain rfl := Host.Outcome.next.inj h
  exact steady_sarData ..

theorem steady_execCertData {priv : BitVec 2} {s t : State}
    (h : execCertData priv s = .next t) : Steady s t := by
  obtain rfl := Host.Outcome.next.inj h
  exact steady_certData ..

theorem steady_execDumpKey {priv : BitVec 2} {s t : State}
    (h : execDumpKey priv s = .next t) : Steady s t := by
  obtain rfl := Host.Outcome.next.inj h
  exact steady_dumpKey ..

/-! ### Start -/

theorem lawful_execRstNAssert  {s t : State}
    (h : execRstNAssert s = .next t) : Lawful s t := by
  obtain rfl := Host.Outcome.next.inj h
  exact lawful_rstNAssert ..

theorem lawful_execRstNRelease {dieId : BitVec 6} {s t : State}
    (h : execRstNRelease dieId s = .next t) : Lawful s t := by
  obtain rfl := Host.Outcome.next.inj h
  exact lawful_rstNRelease ..

theorem lawful_execStageS1 {t : SelfTest} {s u : State}
    (h : execStageS1 t s = .next u) : Lawful s u := by
  obtain rfl := Host.Outcome.next.inj h
  exact lawful_stageS1 ..

theorem lawful_execStageS2 {primary secondary : Bytes} {s t : State}
    (h : execStageS2 primary secondary s = .next t) : Lawful s t := by
  obtain rfl := Host.Outcome.next.inj h
  exact lawful_stageS2 ..

theorem sound_execStageS3 {fails deadSpares : List FailEntry} {void : Bool} {s t : State}
    (h : execStageS3 fails deadSpares void s = .next t) : Sound s t := by
  obtain rfl := Host.Outcome.next.inj h
  exact sound_stageS3 ..

theorem steady_execStageS4  {s t : State}
    (h : execStageS4 s = .next t) : Steady s t := by
  obtain rfl := Host.Outcome.next.inj h
  exact steady_stageS4 ..

theorem sound_execStageS5 {v : Survey} {s t : State}
    (h : execStageS5 v s = .next t) : Sound s t := by
  obtain rfl := Host.Outcome.next.inj h
  exact sound_stageS5 ..

theorem steady_execStageS6 {results : List PairSay} {void : Bool} {s t : State}
    (h : execStageS6 results void s = .next t) : Steady s t := by
  obtain rfl := Host.Outcome.next.inj h
  exact steady_stageS6 ..

theorem steady_execStageS7 {routersAnswered : Bool} {s t : State}
    (h : execStageS7 routersAnswered s = .next t) : Steady s t := by
  obtain rfl := Host.Outcome.next.inj h
  exact steady_stageS7 ..

theorem steady_execStageS8  {s t : State}
    (h : execStageS8 s = .next t) : Steady s t := by
  obtain rfl := Host.Outcome.next.inj h
  exact steady_stageS8 ..

theorem steady_execStageS9  {s t : State}
    (h : execStageS9 s = .next t) : Steady s t := by
  obtain rfl := Host.Outcome.next.inj h
  exact steady_stageS9 ..

/-! ### MusterRun -/

theorem steady_execBitmap {p : Ingress} {s t : State}
    (h : execBitmap p s = .next t) : Steady s t := by
  obtain rfl := Host.Outcome.next.inj h
  repeat' first
    | with_reducible exact Steady.refl _
    | with_reducible refine (steady_ingress _ _ _ _ _ ?_).after ?_
    | with_reducible refine (steady_bitmapPacket ..).after ?_
    | intro _

theorem steady_execCommitAck {p : Ingress} {s t : State}
    (h : execCommitAck p s = .next t) : Steady s t := by
  obtain rfl := Host.Outcome.next.inj h
  repeat' first
    | with_reducible exact Steady.refl _
    | with_reducible refine (steady_ingress _ _ _ _ _ ?_).after ?_
    | with_reducible refine (steady_commitPacket ..).after ?_
    | intro _

theorem steady_execMusterTimeout  {s t : State}
    (h : execMusterTimeout s = .next t) : Steady s t := by
  obtain rfl := Host.Outcome.next.inj h
  exact steady_musterTimeout ..

theorem steady_execSectorMuster {sector : BitVec 6} {s t : State}
    (h : execSectorMuster sector s = .next t) : Steady s t := by
  obtain rfl := Host.Outcome.next.inj h
  exact steady_sectorMuster ..

/-! ### Watching -/

theorem steady_execSnap {priv : BitVec 2} {w : W64} {s t : State}
    (h : execSnap priv w s = .next t) : Steady s t := by
  obtain rfl := Host.Outcome.next.inj h
  repeat' first
    | with_reducible exact Steady.refl _
    | with_reducible refine (steady_operatorWrite _ _ _ ?_).after ?_
    | with_reducible refine (steady_snapWrite ..).after ?_
    | intro _

theorem steady_execSnapPeriod  {s t : State}
    (h : execSnapPeriod s = .next t) : Steady s t := by
  obtain rfl := Host.Outcome.next.inj h
  exact steady_snapPeriod ..

theorem steady_execWatchGo {priv : BitVec 2} {w : W64} {s t : State}
    (h : execWatchGo priv w s = .next t) : Steady s t := by
  obtain rfl := Host.Outcome.next.inj h
  exact steady_watchGo ..

theorem steady_execWatchData {priv : BitVec 2} {s t : State}
    (h : execWatchData priv s = .next t) : Steady s t := by
  obtain rfl := Host.Outcome.next.inj h
  exact steady_watchData ..

theorem steady_execDumpGo {c : DumpCause} {s t : State}
    (h : execDumpGo c s = .next t) : Steady s t := by
  obtain rfl := Host.Outcome.next.inj h
  exact steady_dumpGo ..

/-! ### Faults -/

theorem steady_execEventPortMessage {k0 : Bool} {d0 : W64} {k1 : Bool} {d1 : W64} {s t : State}
    (h : execEventPortMessage k0 d0 k1 d1 s = .next t) : Steady s t := by
  obtain rfl := Host.Outcome.next.inj h
  exact steady_eventPortMessage ..

theorem steady_execEvent {p : Ingress} {s t : State}
    (h : execEvent p s = .next t) : Steady s t := by
  obtain rfl := Host.Outcome.next.inj h
  repeat' first
    | with_reducible exact Steady.refl _
    | with_reducible refine (steady_ingress _ _ _ _ _ ?_).after ?_
    | with_reducible refine (steady_eventPacket ..).after ?_
    | intro _

theorem steady_execRingPlaceRetry {w : Writer} {s t : State}
    (h : execRingPlaceRetry w s = .next t) : Steady s t := by
  obtain rfl := Host.Outcome.next.inj h
  exact steady_ringPlaceRetry ..

theorem sound_execFcProcess  {s t : State}
    (h : execFcProcess s = .next t) : Sound s t := by
  obtain rfl := Host.Outcome.next.inj h
  exact sound_fcProcess ..

theorem steady_execFcAck {priv : BitVec 2} {w : W64} {s t : State}
    (h : execFcAck priv w s = .next t) : Steady s t := by
  obtain rfl := Host.Outcome.next.inj h
  repeat' first
    | with_reducible exact Steady.refl _
    | with_reducible refine (steady_operatorWrite _ _ _ ?_).after ?_
    | with_reducible refine (steady_fcAck ..).after ?_
    | intro _

theorem steady_execLevelLeakedToZero {cls : BitVec 4} {die : BitVec 6} {loc : W128} {s t : State}
    (h : execLevelLeakedToZero cls die loc s = .next t) : Steady s t := by
  obtain rfl := Host.Outcome.next.inj h
  exact steady_levelLeaked ..

theorem steady_execInjectMessage {priv : BitVec 2} {w : W64} {s t : State}
    (h : execInjectMessage priv w s = .next t) : Steady s t := by
  obtain rfl := Host.Outcome.next.inj h
  repeat' first
    | with_reducible exact Steady.refl _
    | with_reducible refine (steady_injectMessage ..).after ?_
    | with_reducible refine (steady_injectRow _ _ _ _ _ ?_).after ?_
    | intro _

theorem steady_execInjectLocal {priv : BitVec 2} {w : W64} {s t : State}
    (h : execInjectLocal priv w s = .next t) : Steady s t := by
  obtain rfl := Host.Outcome.next.inj h
  repeat' first
    | with_reducible exact Steady.refl _
    | with_reducible refine (steady_injectLocal ..).after ?_
    | with_reducible refine (steady_injectRow _ _ _ _ _ ?_).after ?_
    | intro _

theorem steady_execInjectEcc {priv : BitVec 2} {w : W64} {s t : State}
    (h : execInjectEcc priv w s = .next t) : Steady s t := by
  obtain rfl := Host.Outcome.next.inj h
  repeat' first
    | with_reducible exact Steady.refl _
    | with_reducible refine (steady_injectEcc ..).after ?_
    | with_reducible refine (steady_injectRow _ _ _ _ _ ?_).after ?_
    | intro _

/-! ### Dumps -/

theorem steady_execDumpSectionDone  {s t : State}
    (h : execDumpSectionDone s = .next t) : Steady s t := by
  obtain rfl := Host.Outcome.next.inj h
  exact steady_dumpSectionDone ..

theorem steady_execDumpSectionTimeout  {s t : State}
    (h : execDumpSectionTimeout s = .next t) : Steady s t := by
  obtain rfl := Host.Outcome.next.inj h
  exact steady_dumpSectionTimeout ..

theorem steady_execTackRsp {p : Ingress} {s t : State}
    (h : execTackRsp p s = .next t) : Steady s t := by
  obtain rfl := Host.Outcome.next.inj h
  repeat' first
    | with_reducible exact Steady.refl _
    | with_reducible refine (steady_ingress _ _ _ _ _ ?_).after ?_
    | with_reducible refine (steady_tackRsp ..).after ?_
    | intro _

/-! ### HostPort -/

theorem lawful_execRegisterWrite {priv : BitVec 2} {addr : BitVec 22} {w : W64} {s t : State}
    (h : execRegisterWrite priv addr w s = .next t) : Lawful s t := by
  obtain rfl := Host.Outcome.next.inj h
  exact lawful_registerWrite ..

theorem steady_execRegisterRead {priv : BitVec 2} {addr : BitVec 22} {snapRace : Bool} {s t : State}
    (h : execRegisterRead priv addr snapRace s = .next t) : Steady s t := by
  obtain rfl := Host.Outcome.next.inj h
  exact steady_registerRead ..

/-! ### Pins -/

theorem steady_execEgressCredit {port : BitVec 3} {cls : BitVec 2} {ccnt : BitVec 4} {s t : State}
    (h : execEgressCredit port cls ccnt s = .next t) : Steady s t := by
  obtain rfl := Host.Outcome.next.inj h
  exact steady_egressCredit ..

theorem steady_execNonIngressKindPacket {p : Ingress} {s t : State}
    (h : execNonIngressKindPacket p s = .next t) : Steady s t := by
  obtain rfl := Host.Outcome.next.inj h
  exact steady_nonIngressKind ..

theorem lawful_execWrstNAssert  {s t : State}
    (h : execWrstNAssert s = .next t) : Lawful s t := by
  obtain rfl := Host.Outcome.next.inj h
  exact lawful_wrstAssert ..

theorem lawful_execWrstNRelease  {s t : State}
    (h : execWrstNRelease s = .next t) : Lawful s t := by
  obtain rfl := Host.Outcome.next.inj h
  exact lawful_wrstRelease ..

theorem lawful_execSuppliesFail {torn : Bool} {s t : State}
    (h : execSuppliesFail torn s = .next t) : Lawful s t := by
  obtain rfl := Host.Outcome.next.inj h
  exact lawful_suppliesFail ..

theorem lawful_execTapInstruction {op : TapOp} {s t : State}
    (h : execTapInstruction op s = .next t) : Lawful s t := by
  obtain rfl := Host.Outcome.next.inj h
  exact lawful_tapInstruction ..

end Sys2Proof.Machine
end

