-- ==== Sys2Proof/Laws/Same.lean ====
section
/-!
SUPPORT. `Same`: the units of the state that an operation may change. Every other unit it leaves as it was.
-/
namespace Sys2Proof.Machine

theorem Part.within_iff {l m : List Part} : Part.within l m = true ↔ ∀ p ∈ l, p ∈ m := by
  simp only [Part.within, List.all_eq_true, List.contains_iff_mem]

theorem Same.refl {m : List Part} (s : State) : Same m s s :=
  ⟨rfl, fun _ => rfl, fun _ => rfl, fun _ => rfl, fun _ => rfl, fun _ => rfl, fun _ => rfl, fun _ => rfl, fun _ =>
    rfl, fun _ => rfl, fun _ => rfl, fun _ => rfl, fun _ => rfl, fun _ => rfl, fun _ => rfl, fun _ => rfl, fun _ =>
      rfl, fun _ => rfl, fun _ => rfl, fun _ => rfl, fun _ => rfl, fun _ => rfl⟩

theorem Same.trans {m : List Part} {a b c : State} (h : Same m a b) (k : Same m b c) : Same m a c :=
  ⟨k.pending.trans h.pending,
    fun x => (k.now x).trans (h.now x),
    fun x => (k.nowFrac x).trans (h.nowFrac x),
    fun x => (k.draws x).trans (h.draws x),
    fun x => (k.nv x).trans (h.nv x),
    fun x => (k.ports x).trans (h.ports x),
    fun x => (k.expert x).trans (h.expert x),
    fun x => (k.cfg x).trans (h.cfg x),
    fun x => (k.fc x).trans (h.fc x),
    fun x => (k.ct x).trans (h.ct x),
    fun x => (k.led x).trans (h.led x),
    fun x => (k.twc x).trans (h.twc x),
    fun x => (k.per x).trans (h.per x),
    fun x => (k.sa x).trans (h.sa x),
    fun x => (k.mem x).trans (h.mem x),
    fun x => (k.vu x).trans (h.vu x),
    fun x => (k.ym x).trans (h.ym x),
    fun x => (k.hx x).trans (h.hx x),
    fun x => (k.fr x).trans (h.fr x),
    fun x => (k.ts x).trans (h.ts x),
    fun x => (k.sec x).trans (h.sec x),
    fun x => (k.ob x).trans (h.ob x)⟩

theorem Same.mono {l m : List Part} {a b : State} (h : Same l a b) (k : Part.within l m = true) : Same m a b :=
  have f := fun p q => Part.within_iff.mp k p q
  ⟨h.pending,
    fun x => h.now fun y => x (f _ y),
    fun x => h.nowFrac fun y => x (f _ y),
    fun x => h.draws fun y => x (f _ y),
    fun x => h.nv fun y => x (f _ y),
    fun x => h.ports fun y => x (f _ y),
    fun x => h.expert fun y => x (f _ y),
    fun x => h.cfg fun y => x (f _ y),
    fun x => h.fc fun y => x (f _ y),
    fun x => h.ct fun y => x (f _ y),
    fun x => h.led fun y => x (f _ y),
    fun x => h.twc fun y => x (f _ y),
    fun x => h.per fun y => x (f _ y),
    fun x => h.sa fun y => x (f _ y),
    fun x => h.mem fun y => x (f _ y),
    fun x => h.vu fun y => x (f _ y),
    fun x => h.ym fun y => x (f _ y),
    fun x => h.hx fun y => x (f _ y),
    fun x => h.fr fun y => x (f _ y),
    fun x => h.ts fun y => x (f _ y),
    fun x => h.sec fun y => x (f _ y),
    fun x => h.ob fun y => x (f _ y)⟩

theorem Same.after {m : List Part} {a b c : State} (k : Same m b c) (h : Same m a b) : Same m a c := h.trans k

theorem same_foldl {α : Type} {m : List Part} (f : State → α → State) (h : ∀ s a, Same m s (f s a)) (l : List α) (s
    : State) :
    Same m s (l.foldl f s) := by
  induction l generalizing s with
  | nil => exact Same.refl s
  | cons a l ih => exact (h s a).trans (ih _)

theorem same_foldl2 {α β : Type} {m : List Part} (f : β × State → α → β × State) (h : ∀ x a, Same m x.2 (f x a).2)
    (l : List α) (x : β × State) : Same m x.2 (l.foldl f x).2 := by
  induction l generalizing x with
  | nil => exact Same.refl _
  | cons a l ih => exact (h x a).trans (ih _)

theorem same_withStep {m : List Part} {s t : State} {o : Option Nat} {f : Nat → State} (h : Same m s t)
    (k : ∀ n, Same m s (f n)) : Same m s (withStep o t f) := by
  unfold withStep
  cases o with
  | none => exact h
  | some n => exact k n

theorem Same.of_pair {β : Type} {m : List Part} {s t : State} {x : β × State} {b : β} (h : Same m s x.2) (e : x =
    (b, t)) :
    Same m s t := by
  rw [e] at h
  exact h

theorem Same.getD {m : List Part} {o : Option State} {s d : State} (h : ∀ t, o = some t → Same m s t) (k : Same m s
    d) :
    Same m s (o.getD d) := by
  cases o with
  | none => exact k
  | some t => exact h t rfl

theorem same_mNv (f : Nv → Nv) (s : State) : Same [.nv] s (s.mNv f) :=
  ⟨rfl, fun _ => rfl, fun _ => rfl, fun _ => rfl, fun x => (x (by decide)).elim, fun _ => rfl, fun _ => rfl, fun _
    => rfl, fun _ => rfl, fun _ => rfl, fun _ => rfl, fun _ => rfl, fun _ => rfl, fun _ => rfl, fun _ => rfl, fun _
    => rfl, fun _ => rfl, fun _ => rfl, fun _ => rfl, fun _ => rfl, fun _ => rfl, fun _ => rfl⟩

theorem same_mPorts (f : Ports → Ports) (s : State) : Same [.ports] s (s.mPorts f) :=
  ⟨rfl, fun _ => rfl, fun _ => rfl, fun _ => rfl, fun _ => rfl, fun x => (x (by decide)).elim, fun _ => rfl, fun _
    => rfl, fun _ => rfl, fun _ => rfl, fun _ => rfl, fun _ => rfl, fun _ => rfl, fun _ => rfl, fun _ => rfl, fun _
    => rfl, fun _ => rfl, fun _ => rfl, fun _ => rfl, fun _ => rfl, fun _ => rfl, fun _ => rfl⟩

theorem same_mExpert (f : Expert → Expert) (s : State) : Same [.expert] s (s.mExpert f) :=
  ⟨rfl, fun _ => rfl, fun _ => rfl, fun _ => rfl, fun _ => rfl, fun _ => rfl, fun x => (x (by decide)).elim, fun _
    => rfl, fun _ => rfl, fun _ => rfl, fun _ => rfl, fun _ => rfl, fun _ => rfl, fun _ => rfl, fun _ => rfl, fun _
    => rfl, fun _ => rfl, fun _ => rfl, fun _ => rfl, fun _ => rfl, fun _ => rfl, fun _ => rfl⟩

theorem same_mCfg (f : Cfg → Cfg) (s : State) : Same [.cfg] s (s.mCfg f) :=
  ⟨rfl, fun _ => rfl, fun _ => rfl, fun _ => rfl, fun _ => rfl, fun _ => rfl, fun _ => rfl, fun x => (x (by
    decide)).elim, fun _ => rfl, fun _ => rfl, fun _ => rfl, fun _ => rfl, fun _ => rfl, fun _ => rfl, fun _ => rfl,
    fun _ => rfl, fun _ => rfl, fun _ => rfl, fun _ => rfl, fun _ => rfl, fun _ => rfl, fun _ => rfl⟩

theorem same_mFc (f : Fc → Fc) (s : State) : Same [.fc] s (s.mFc f) :=
  ⟨rfl, fun _ => rfl, fun _ => rfl, fun _ => rfl, fun _ => rfl, fun _ => rfl, fun _ => rfl, fun _ => rfl, fun x =>
    (x (by decide)).elim, fun _ => rfl, fun _ => rfl, fun _ => rfl, fun _ => rfl, fun _ => rfl, fun _ => rfl, fun _
    => rfl, fun _ => rfl, fun _ => rfl, fun _ => rfl, fun _ => rfl, fun _ => rfl, fun _ => rfl⟩

theorem same_mCt (f : Ct → Ct) (s : State) : Same [.ct] s (s.mCt f) :=
  ⟨rfl, fun _ => rfl, fun _ => rfl, fun _ => rfl, fun _ => rfl, fun _ => rfl, fun _ => rfl, fun _ => rfl, fun _ =>
    rfl, fun x => (x (by decide)).elim, fun _ => rfl, fun _ => rfl, fun _ => rfl, fun _ => rfl, fun _ => rfl, fun _
    => rfl, fun _ => rfl, fun _ => rfl, fun _ => rfl, fun _ => rfl, fun _ => rfl, fun _ => rfl⟩

theorem same_mLed (f : Led → Led) (s : State) : Same [.led] s (s.mLed f) :=
  ⟨rfl, fun _ => rfl, fun _ => rfl, fun _ => rfl, fun _ => rfl, fun _ => rfl, fun _ => rfl, fun _ => rfl, fun _ =>
    rfl, fun _ => rfl, fun x => (x (by decide)).elim, fun _ => rfl, fun _ => rfl, fun _ => rfl, fun _ => rfl, fun _
    => rfl, fun _ => rfl, fun _ => rfl, fun _ => rfl, fun _ => rfl, fun _ => rfl, fun _ => rfl⟩

theorem same_mTwc (f : Twc → Twc) (s : State) : Same [.twc] s (s.mTwc f) :=
  ⟨rfl, fun _ => rfl, fun _ => rfl, fun _ => rfl, fun _ => rfl, fun _ => rfl, fun _ => rfl, fun _ => rfl, fun _ =>
    rfl, fun _ => rfl, fun _ => rfl, fun x => (x (by decide)).elim, fun _ => rfl, fun _ => rfl, fun _ => rfl, fun _
    => rfl, fun _ => rfl, fun _ => rfl, fun _ => rfl, fun _ => rfl, fun _ => rfl, fun _ => rfl⟩

theorem same_mPer (f : Per → Per) (s : State) : Same [.per] s (s.mPer f) :=
  ⟨rfl, fun _ => rfl, fun _ => rfl, fun _ => rfl, fun _ => rfl, fun _ => rfl, fun _ => rfl, fun _ => rfl, fun _ =>
    rfl, fun _ => rfl, fun _ => rfl, fun _ => rfl, fun x => (x (by decide)).elim, fun _ => rfl, fun _ => rfl, fun _
    => rfl, fun _ => rfl, fun _ => rfl, fun _ => rfl, fun _ => rfl, fun _ => rfl, fun _ => rfl⟩

theorem same_mSa (f : Sa → Sa) (s : State) : Same [.sa] s (s.mSa f) :=
  ⟨rfl, fun _ => rfl, fun _ => rfl, fun _ => rfl, fun _ => rfl, fun _ => rfl, fun _ => rfl, fun _ => rfl, fun _ =>
    rfl, fun _ => rfl, fun _ => rfl, fun _ => rfl, fun _ => rfl, fun x => (x (by decide)).elim, fun _ => rfl, fun _
    => rfl, fun _ => rfl, fun _ => rfl, fun _ => rfl, fun _ => rfl, fun _ => rfl, fun _ => rfl⟩

theorem same_mMem (f : MemSt → MemSt) (s : State) : Same [.mem] s (s.mMem f) :=
  ⟨rfl, fun _ => rfl, fun _ => rfl, fun _ => rfl, fun _ => rfl, fun _ => rfl, fun _ => rfl, fun _ => rfl, fun _ =>
    rfl, fun _ => rfl, fun _ => rfl, fun _ => rfl, fun _ => rfl, fun _ => rfl, fun x => (x (by decide)).elim, fun _
    => rfl, fun _ => rfl, fun _ => rfl, fun _ => rfl, fun _ => rfl, fun _ => rfl, fun _ => rfl⟩

theorem same_mVu (f : Vu → Vu) (s : State) : Same [.vu] s (s.mVu f) :=
  ⟨rfl, fun _ => rfl, fun _ => rfl, fun _ => rfl, fun _ => rfl, fun _ => rfl, fun _ => rfl, fun _ => rfl, fun _ =>
    rfl, fun _ => rfl, fun _ => rfl, fun _ => rfl, fun _ => rfl, fun _ => rfl, fun _ => rfl, fun x => (x (by
    decide)).elim, fun _ => rfl, fun _ => rfl, fun _ => rfl, fun _ => rfl, fun _ => rfl, fun _ => rfl⟩

theorem same_mYm (f : Ym → Ym) (s : State) : Same [.ym] s (s.mYm f) :=
  ⟨rfl, fun _ => rfl, fun _ => rfl, fun _ => rfl, fun _ => rfl, fun _ => rfl, fun _ => rfl, fun _ => rfl, fun _ =>
    rfl, fun _ => rfl, fun _ => rfl, fun _ => rfl, fun _ => rfl, fun _ => rfl, fun _ => rfl, fun _ => rfl, fun x =>
    (x (by decide)).elim, fun _ => rfl, fun _ => rfl, fun _ => rfl, fun _ => rfl, fun _ => rfl⟩

theorem same_mHx (f : Hx → Hx) (s : State) : Same [.hx] s (s.mHx f) :=
  ⟨rfl, fun _ => rfl, fun _ => rfl, fun _ => rfl, fun _ => rfl, fun _ => rfl, fun _ => rfl, fun _ => rfl, fun _ =>
    rfl, fun _ => rfl, fun _ => rfl, fun _ => rfl, fun _ => rfl, fun _ => rfl, fun _ => rfl, fun _ => rfl, fun _ =>
    rfl, fun x => (x (by decide)).elim, fun _ => rfl, fun _ => rfl, fun _ => rfl, fun _ => rfl⟩

theorem same_mFr (f : Fr → Fr) (s : State) : Same [.fr] s (s.mFr f) :=
  ⟨rfl, fun _ => rfl, fun _ => rfl, fun _ => rfl, fun _ => rfl, fun _ => rfl, fun _ => rfl, fun _ => rfl, fun _ =>
    rfl, fun _ => rfl, fun _ => rfl, fun _ => rfl, fun _ => rfl, fun _ => rfl, fun _ => rfl, fun _ => rfl, fun _ =>
    rfl, fun _ => rfl, fun x => (x (by decide)).elim, fun _ => rfl, fun _ => rfl, fun _ => rfl⟩

theorem same_mTs (f : Ts → Ts) (s : State) : Same [.ts] s (s.mTs f) :=
  ⟨rfl, fun _ => rfl, fun _ => rfl, fun _ => rfl, fun _ => rfl, fun _ => rfl, fun _ => rfl, fun _ => rfl, fun _ =>
    rfl, fun _ => rfl, fun _ => rfl, fun _ => rfl, fun _ => rfl, fun _ => rfl, fun _ => rfl, fun _ => rfl, fun _ =>
    rfl, fun _ => rfl, fun _ => rfl, fun x => (x (by decide)).elim, fun _ => rfl, fun _ => rfl⟩

theorem same_mSec (f : Sec → Sec) (s : State) : Same [.sec] s (s.mSec f) :=
  ⟨rfl, fun _ => rfl, fun _ => rfl, fun _ => rfl, fun _ => rfl, fun _ => rfl, fun _ => rfl, fun _ => rfl, fun _ =>
    rfl, fun _ => rfl, fun _ => rfl, fun _ => rfl, fun _ => rfl, fun _ => rfl, fun _ => rfl, fun _ => rfl, fun _ =>
    rfl, fun _ => rfl, fun _ => rfl, fun _ => rfl, fun x => (x (by decide)).elim, fun _ => rfl⟩

theorem same_mOb (f : Ob → Ob) (s : State) : Same [.ob] s (s.mOb f) :=
  ⟨rfl, fun _ => rfl, fun _ => rfl, fun _ => rfl, fun _ => rfl, fun _ => rfl, fun _ => rfl, fun _ => rfl, fun _ =>
    rfl, fun _ => rfl, fun _ => rfl, fun _ => rfl, fun _ => rfl, fun _ => rfl, fun _ => rfl, fun _ => rfl, fun _ =>
    rfl, fun _ => rfl, fun _ => rfl, fun _ => rfl, fun _ => rfl, fun x => (x (by decide)).elim⟩

theorem same_draw (s : State) : Same [.draws] s s.draw.2 :=
  ⟨rfl, fun _ => rfl, fun _ => rfl, fun x => (x (by decide)).elim, fun _ => rfl, fun _ => rfl, fun _ => rfl, fun _
    => rfl, fun _ => rfl, fun _ => rfl, fun _ => rfl, fun _ => rfl, fun _ => rfl, fun _ => rfl, fun _ => rfl, fun _
    => rfl, fun _ => rfl, fun _ => rfl, fun _ => rfl, fun _ => rfl, fun _ => rfl, fun _ => rfl⟩

theorem Part.within_trans {k l m : List Part} (h : Part.within k l = true) (j : Part.within l m = true) :
    Part.within k m = true := Part.within_iff.mpr fun p q => Part.within_iff.mp j p (Part.within_iff.mp h p q)

end Sys2Proof.Machine
end

