-- ==== Sys2Proof/Laws/Units1.lean ====
section
/-!
SUPPORT. The units that the operations of these files of the machine may change: Ops, HitchNet, Observe, Operands,
Mesh, Intake, Stud, Loft, Memory, Orders.
-/
namespace Sys2Proof.Machine

/-! ### Ops -/

theorem same_bump (k n : Nat) (s : State) : Same [.ob] s (bump k n s) := by
  unfold bump
  try dsimp only [-Nat.reducePow]
  repeat' first
    | with_reducible exact Same.refl _
    | with_reducible refine ((same_mOb _ _).mono (by decide)).after ?_

theorem same_bumpPlan (plan j n : Nat) (s : State) : Same [.ob] s (bumpPlan plan j n s) := by
  unfold bumpPlan
  try dsimp only [-Nat.reducePow]
  repeat' first
    | with_reducible exact Same.refl _
    | with_reducible refine ((same_mOb _ _).mono (by decide)).after ?_

theorem same_bumpCtx (k j ctx n : Nat) (s : State) : Same [.ob] s (bumpCtx k j ctx n s) := by
  unfold bumpCtx
  try dsimp only [-Nat.reducePow]
  repeat' first
    | with_reducible exact Same.refl _
    | with_reducible refine ((same_bump ..).mono (by decide)).after ?_
    | with_reducible refine ((same_bumpPlan ..).mono (by decide)).after ?_
    | intro _
    | split

theorem same_send (port kind sub : Nat) (dst : Huid) (pre : List W64) (payload : Bytes) (s : State) : Same [.ports]
    s (send port kind sub dst pre payload s) := by
  unfold send
  try dsimp only [-Nat.reducePow]
  repeat' first
    | with_reducible exact Same.refl _
    | with_reducible refine ((same_mPorts _ _).mono (by decide)).after ?_

/-! ### HitchNet -/

theorem same_mPort (p : Nat) (f : Port → Port) (s : State) : Same [.hx] s (State.mPort p f s) := by
  unfold State.mPort
  try dsimp only [-Nat.reducePow]
  repeat' first
    | with_reducible exact Same.refl _
    | with_reducible refine ((same_mHx _ _).mono (by decide)).after ?_

theorem same_freeBuffer (e : QEnt) (s : State) : Same [.hx] s (freeBuffer e s) := by
  unfold freeBuffer
  try dsimp only [-Nat.reducePow]
  repeat' first
    | with_reducible exact Same.refl _
    | with_reducible refine ((same_mPort ..).mono (by decide)).after ?_
    | intro _
    | split

theorem same_sendFrame (n : Nat) (e : QEnt) (s : State) : Same [.ports, .hx, .ob] s (sendFrame n e s) := by
  unfold sendFrame
  try dsimp only [-Nat.reducePow]
  repeat' first
    | with_reducible exact Same.refl _
    | with_reducible refine ((same_mPorts _ _).mono (by decide)).after ?_
    | with_reducible refine ((same_bump ..).mono (by decide)).after ?_
    | with_reducible refine ((same_mPort ..).mono (by decide)).after ?_
    | with_reducible refine ((same_freeBuffer ..).mono (by decide)).after ?_
    | intro _
    | split

theorem same_pumpPort (n k sh : Nat) (s : State) : Same [.ports, .hx, .ob] s (pumpPort n k sh s) := by
  induction k generalizing sh s with
  | zero => exact Same.refl s
  | succ k ih =>
    unfold pumpPort
    dsimp only [-Nat.reducePow]
    repeat' first
      | with_reducible exact Same.refl _
      | with_reducible refine (ih ..).after ?_
      | with_reducible refine ((same_mPort ..).mono (by decide)).after ?_
      | with_reducible refine ((same_sendFrame ..).mono (by decide)).after ?_
      | with_reducible refine ((same_freeBuffer ..).mono (by decide)).after ?_
      | with_reducible refine ((same_bump ..).mono (by decide)).after ?_
      | split

theorem same_pumpAll (s : State) : Same [.ports, .hx, .ob] s (pumpAll s) := by
  unfold pumpAll
  try dsimp only [-Nat.reducePow]
  repeat' first
    | with_reducible exact Same.refl _
    | with_reducible refine ((same_pumpPort ..).mono (by decide)).after ?_
    | with_reducible refine (same_foldl _ ?_ _ _).after ?_
    | with_reducible refine (same_foldl2 _ ?_ _ _).after ?_
    | intro _

theorem same_enqueue (n : Nat) (src : Option Nat) (enter : Bool) (p : HxPkt) (s : State) : Same [.hx] s (enqueue n
    src enter p s) := by
  unfold enqueue
  try dsimp only [-Nat.reducePow]
  repeat' first
    | with_reducible exact Same.refl _
    | with_reducible refine ((same_mPort ..).mono (by decide)).after ?_

theorem same_deliver (p : HxPkt) (s : State) : Same [.hx] s (deliver p s) := by
  unfold deliver
  try dsimp only [-Nat.reducePow]
  repeat' first
    | with_reducible exact Same.refl _
    | with_reducible refine ((same_mHx _ _).mono (by decide)).after ?_

theorem same_injectRouted (p : HxPkt) (s : State) : Same [.ports, .hx, .ob] s (injectRouted p s) := by
  unfold injectRouted
  try dsimp only [-Nat.reducePow]
  repeat' first
    | with_reducible exact Same.refl _
    | with_reducible refine ((same_mHx _ _).mono (by decide)).after ?_
    | with_reducible refine ((same_pumpPort ..).mono (by decide)).after ?_
    | with_reducible refine ((same_enqueue ..).mono (by decide)).after ?_
    | intro _
    | split

theorem same_injectLive (p : HxPkt) (s : State) : Same [.ports, .hx, .ob] s (injectLive p s) := by
  unfold injectLive
  try dsimp only [-Nat.reducePow]
  repeat' first
    | with_reducible exact Same.refl _
    | with_reducible refine ((same_injectRouted ..).mono (by decide)).after ?_

theorem same_mTx (k : Nat) (f : TxSt → TxSt) (s : State) : Same [.hx] s (State.mTx k f s) := by
  unfold State.mTx
  try dsimp only [-Nat.reducePow]
  repeat' first
    | with_reducible exact Same.refl _
    | with_reducible refine ((same_mHx _ _).mono (by decide)).after ?_

theorem same_hxSend (die : Nat) (p : HxPkt) (s : State) : Same [.ports, .hx, .ob] s (hxSend die p s) := by
  unfold hxSend
  try dsimp only [-Nat.reducePow]
  repeat' first
    | with_reducible exact Same.refl _
    | with_reducible refine ((same_deliver ..).mono (by decide)).after ?_
    | with_reducible refine ((same_injectLive ..).mono (by decide)).after ?_
    | with_reducible refine ((same_mTx ..).mono (by decide)).after ?_
    | intro _
    | split

theorem same_drainTx (d n : Nat) (s : State) : Same [.ports, .hx, .ob] s (drainTx d n s) := by
  induction n generalizing s with
  | zero => exact Same.refl s
  | succ n ih =>
    unfold drainTx
    dsimp only [-Nat.reducePow]
    split
    · exact Same.refl _
    · split
      · exact Same.refl _
      · exact (ih _).after (((same_injectLive ..).mono (by decide)).after ((same_mTx ..).mono (by decide)))

theorem same_mcastForward (src : Option Nat) (dir : Option Nat) (eject : Bool) (p : HxPkt) (s : State) : Same
    [.ports, .hx, .ob] s (mcastForward src dir eject p s) := by
  unfold mcastForward
  try dsimp only [-Nat.reducePow]
  repeat' first
    | with_reducible exact Same.refl _
    | with_reducible refine ((same_mHx _ _).mono (by decide)).after ?_
    | with_reducible refine ((same_pumpAll ..).mono (by decide)).after ?_
    | with_reducible refine ((same_enqueue ..).mono (by decide)).after ?_
    | with_reducible refine (same_foldl _ ?_ _ _).after ?_
    | with_reducible refine (same_foldl2 _ ?_ _ _).after ?_
    | intro _

theorem same_injectCopy (p : HxPkt) (s : State) : Same [.ports, .hx, .ob] s (injectCopy p s) := by
  unfold injectCopy
  try dsimp only [-Nat.reducePow]
  repeat' first
    | with_reducible exact Same.refl _
    | with_reducible refine ((same_mHx _ _).mono (by decide)).after ?_
    | with_reducible refine ((same_injectLive ..).mono (by decide)).after ?_
    | with_reducible refine ((same_mcastForward ..).mono (by decide)).after ?_
    | intro _
    | split

theorem same_mcastSendNow (members : List Nat) (p : HxPkt) (s : State) : Same [.ports, .hx, .ob] s (mcastSendNow
    members p s) := by
  unfold mcastSendNow
  try dsimp only [-Nat.reducePow]
  repeat' first
    | with_reducible exact Same.refl _
    | with_reducible refine ((same_mHx _ _).mono (by decide)).after ?_
    | with_reducible refine ((same_injectLive ..).mono (by decide)).after ?_
    | with_reducible refine ((same_mTx ..).mono (by decide)).after ?_
    | with_reducible refine ((same_mcastForward ..).mono (by decide)).after ?_
    | with_reducible refine ((same_injectCopy ..).mono (by decide)).after ?_
    | with_reducible refine (same_foldl _ ?_ _ _).after ?_
    | with_reducible refine (same_foldl2 _ ?_ _ _).after ?_
    | intro _
    | split

theorem same_hxMulticast (members : List Nat) (p : HxPkt) (s : State) : Same [.ports, .hx, .ob] s (hxMulticast
    members p s) := by
  unfold hxMulticast
  try dsimp only [-Nat.reducePow]
  repeat' first
    | with_reducible exact Same.refl _
    | with_reducible refine ((same_deliver ..).mono (by decide)).after ?_
    | with_reducible refine ((same_mTx ..).mono (by decide)).after ?_
    | with_reducible refine ((same_mcastSendNow ..).mono (by decide)).after ?_
    | intro _
    | split

theorem same_drainMcast (n : Nat) (s : State) : Same [.ports, .hx, .ob] s (drainMcast n s) := by
  induction n generalizing s with
  | zero => exact Same.refl s
  | succ n ih =>
    unfold drainMcast
    dsimp only
    split
    · exact Same.refl _
    · split
      · exact Same.refl _
      · exact (ih _).after (((same_mcastSendNow ..).mono (by decide)).after ((same_mTx ..).mono (by decide)))

theorem same_mRx (k : Nat) (f : RxSt → RxSt) (s : State) : Same [.hx] s (State.mRx k f s) := by
  unfold State.mRx
  try dsimp only [-Nat.reducePow]
  repeat' first
    | with_reducible exact Same.refl _
    | with_reducible refine ((same_mHx _ _).mono (by decide)).after ?_

theorem same_sendAck (die : Nat) (space : Bool) (s : State) : Same [.ports, .hx, .ob] s (sendAck die space s) := by
  unfold sendAck
  try dsimp only [-Nat.reducePow]
  repeat' first
    | with_reducible exact Same.refl _
    | with_reducible refine ((same_injectLive ..).mono (by decide)).after ?_
    | with_reducible refine ((same_mRx ..).mono (by decide)).after ?_

theorem same_deliverRun (k n : Nat) (s : State) : Same [.hx] s (deliverRun k n s) := by
  induction n generalizing s with
  | zero => exact Same.refl s
  | succ n ih =>
    unfold deliverRun
    dsimp only
    split
    · exact Same.refl _
    · exact (ih _).after (((same_deliver ..).mono (by decide)).after ((same_mRx ..).mono (by decide)))

theorem same_receiveE2E (p : HxPkt) (s : State) : Same [.ports, .hx, .ob] s (receiveE2E p s) := by
  unfold receiveE2E
  try dsimp only [-Nat.reducePow]
  repeat' first
    | with_reducible exact Same.refl _
    | with_reducible refine ((same_bump ..).mono (by decide)).after ?_
    | with_reducible refine ((same_mRx ..).mono (by decide)).after ?_
    | with_reducible refine ((same_sendAck ..).mono (by decide)).after ?_
    | with_reducible refine ((same_deliverRun ..).mono (by decide)).after ?_
    | intro _
    | split

theorem same_pumpRelay (n : Nat) (s : State) : Same [.ports, .hx, .ob] s (pumpRelay n s) := by
  induction n generalizing s with
  | zero => exact Same.refl s
  | succ n ih =>
    unfold pumpRelay
    dsimp only
    (repeat' split) <;> first
      | exact Same.refl _
      | exact (ih _).after (((same_injectRouted ..).mono (by decide)).after ((same_mHx ..).mono (by decide)))

theorem same_packetArrive (port : Nat) (p : HxPkt) (s : State) : Same [.ports, .hx, .ob] s (packetArrive port p s)
    := by
  unfold packetArrive
  try dsimp only [-Nat.reducePow]
  repeat' first
    | with_reducible exact Same.refl _
    | with_reducible refine ((same_mHx _ _).mono (by decide)).after ?_
    | with_reducible refine ((same_bump ..).mono (by decide)).after ?_
    | with_reducible refine ((same_freeBuffer ..).mono (by decide)).after ?_
    | with_reducible refine ((same_pumpAll ..).mono (by decide)).after ?_
    | with_reducible refine ((same_enqueue ..).mono (by decide)).after ?_
    | with_reducible refine ((same_deliver ..).mono (by decide)).after ?_
    | with_reducible refine ((same_mcastForward ..).mono (by decide)).after ?_
    | with_reducible refine ((same_receiveE2E ..).mono (by decide)).after ?_
    | with_reducible refine ((same_pumpRelay ..).mono (by decide)).after ?_
    | intro _
    | split

/-! ### Observe -/

theorem same_tackPacket (off : Nat) (body : Bytes) (s : State) : Same [.ports] s (tackPacket off body s) := by
  unfold tackPacket
  try dsimp only [-Nat.reducePow]
  repeat' first
    | with_reducible exact Same.refl _
    | with_reducible refine ((same_send ..).mono (by decide)).after ?_

theorem same_tackPlace (stream : Nat) (body : Bytes) (s : State) : Same [.ports, .ob] s (tackPlace stream body s) :=
    by
  unfold tackPlace
  try dsimp only [-Nat.reducePow]
  repeat' first
    | with_reducible exact Same.refl _
    | with_reducible refine ((same_mOb _ _).mono (by decide)).after ?_
    | with_reducible refine ((same_bump ..).mono (by decide)).after ?_
    | with_reducible refine ((same_tackPacket ..).mono (by decide)).after ?_
    | intro _
    | split

theorem same_tackWrite (stream type : Nat) (body : Bytes) (s : State) : Same [.ports, .ob] s (tackWrite stream type
    body s) := by
  unfold tackWrite
  try dsimp only [-Nat.reducePow]
  repeat' first
    | with_reducible exact Same.refl _
    | with_reducible refine ((same_mOb _ _).mono (by decide)).after ?_
    | with_reducible refine ((same_bump ..).mono (by decide)).after ?_
    | with_reducible refine ((same_tackPlace ..).mono (by decide)).after ?_
    | intro _
    | split

theorem same_traceEmit (body : Bytes) (s : State) : Same [.ports, .hx, .ob] s (traceEmit body s) := by
  unfold traceEmit
  try dsimp only [-Nat.reducePow]
  repeat' first
    | with_reducible exact Same.refl _
    | with_reducible refine ((same_mOb _ _).mono (by decide)).after ?_
    | with_reducible refine ((same_bump ..).mono (by decide)).after ?_
    | with_reducible refine ((same_hxSend ..).mono (by decide)).after ?_
    | with_reducible refine ((same_tackWrite ..).mono (by decide)).after ?_
    | intro _
    | split

theorem same_traceEntry (e : W128) (s : State) : Same [.ports, .hx, .ob] s (traceEntry e s) := by
  unfold traceEntry
  try dsimp only [-Nat.reducePow]
  repeat' first
    | with_reducible exact Same.refl _
    | with_reducible refine ((same_mOb _ _).mono (by decide)).after ?_
    | with_reducible refine ((same_bump ..).mono (by decide)).after ?_
    | with_reducible refine ((same_traceEmit ..).mono (by decide)).after ?_
    | intro _
    | split

theorem same_ringPush (u : Nat) (event : Bool) (code cls : Nat) (ctx : Option Nat) (arg : Nat) (s : State) : Same
    [.ports, .hx, .ob] s (ringPush u event code cls ctx arg s) := by
  unfold ringPush
  try dsimp only [-Nat.reducePow]
  repeat' first
    | with_reducible exact Same.refl _
    | with_reducible refine ((same_mOb _ _).mono (by decide)).after ?_
    | with_reducible refine ((same_traceEntry ..).mono (by decide)).after ?_
    | intro _
    | split

theorem same_stateEvent (u off v : Nat) (s : State) : Same [.ports, .hx, .ob] s (stateEvent u off v s) := by
  unfold stateEvent
  try dsimp only [-Nat.reducePow]
  repeat' first
    | with_reducible exact Same.refl _
    | with_reducible refine ((same_ringPush ..).mono (by decide)).after ?_

theorem same_stateChanged (u off old new : Nat) (s : State) : Same [.ports, .hx, .ob] s (stateChanged u off old new
    s) := by
  unfold stateChanged
  try dsimp only [-Nat.reducePow]
  repeat' first
    | with_reducible exact Same.refl _
    | with_reducible refine ((same_stateEvent ..).mono (by decide)).after ?_
    | intro _
    | split

theorem same_traceStep (code ctx arg : Nat) (s : State) : Same [.ports, .hx, .ob] s (traceStep code ctx arg s) := by
  unfold traceStep
  try dsimp only [-Nat.reducePow]
  repeat' first
    | with_reducible exact Same.refl _
    | with_reducible refine ((same_traceEntry ..).mono (by decide)).after ?_
    | intro _
    | split

/-! ### Operands -/

theorem same_mCtx (c : Nat) (f : CtxSt → CtxSt) (s : State) : Same [.ports, .led, .hx, .ob] s (State.mCtx c f s) := by
  unfold State.mCtx
  try dsimp only [-Nat.reducePow]
  repeat' first
    | with_reducible exact Same.refl _
    | with_reducible refine ((same_mLed _ _).mono (by decide)).after ?_
    | with_reducible refine ((same_stateChanged ..).mono (by decide)).after ?_

theorem same_mStep (c : Nat) (e : Bool) (n : Nat) (f : StepSt → StepSt) (s : State) : Same [.led] s (State.mStep c e
    n f s) := by
  unfold State.mStep
  try dsimp only [-Nat.reducePow]
  repeat' first
    | with_reducible exact Same.refl _
    | with_reducible refine ((same_mLed _ _).mono (by decide)).after ?_

theorem same_mInst (c : Nat) (e : Bool) (n t : Nat) (f : Inst → Inst) (s : State) : Same [.led] s (State.mInst c e n
    t f s) := by
  unfold State.mInst
  try dsimp only [-Nat.reducePow]
  repeat' first
    | with_reducible exact Same.refl _
    | with_reducible refine ((same_mLed _ _).mono (by decide)).after ?_

/-! ### Mesh -/

theorem same_sendCore (kind sub : Nat) (label : Huid) (pre : List W64) (payload : Bytes) (s : State) : Same [.ports]
    s (sendCore kind sub label pre payload s) := by
  unfold sendCore
  try dsimp only [-Nat.reducePow]
  repeat' first
    | with_reducible exact Same.refl _
    | with_reducible refine ((same_send ..).mono (by decide)).after ?_

/-! ### Intake -/

theorem same_openDispute (d : Dispute) (s : State) : Same [.vu, .ob] s (openDispute d s) := by
  unfold openDispute
  try dsimp only [-Nat.reducePow]
  repeat' first
    | with_reducible exact Same.refl _
    | with_reducible refine ((same_mVu _ _).mono (by decide)).after ?_
    | with_reducible refine ((same_bumpCtx ..).mono (by decide)).after ?_
    | intro _
    | split

theorem same_markStep (c : Nat) (e : Bool) (n : Nat) (by_ : Huid) (s : State) : Same [.led, .vu, .ob] s (markStep c
    e n by_ s) := by
  unfold markStep
  try dsimp only [-Nat.reducePow]
  repeat' first
    | with_reducible exact Same.refl _
    | with_reducible refine ((same_mStep ..).mono (by decide)).after ?_
    | with_reducible refine ((same_openDispute ..).mono (by decide)).after ?_
    | intro _
    | split

theorem same_residueMark (m : W128) (s : State) : Same [.led, .vu, .ob] s (residueMark m s) := by
  unfold residueMark
  try dsimp only [-Nat.reducePow]
  repeat' first
    | with_reducible exact Same.refl _
    | with_reducible refine ((same_markStep ..).mono (by decide)).after ?_
    | intro _
    | split

theorem same_placeRec {r : RingRec} {rx : Nat} {s t : State} (h : placeRec r rx s = some t) : Same [.fc, .led, .vu,
    .ob] s t := by
  unfold placeRec at h
  dsimp only at h
  cases k : ringPlace r rx s.fc with
  | none => rw [k] at h; cases h
  | some f =>
    rw [k] at h
    cases h
    refine (same_foldl _ (fun s m => (same_residueMark m s).mono (by decide)) _ _).after
      (((same_bump ..).mono (by decide)).after ?_)
    have e : Same [.fc, .led, .vu, .ob] s { s with fc := f } := (⟨rfl, fun _ => rfl, fun _ => rfl, fun _ => rfl, fun
      _ => rfl, fun _ => rfl, fun _ => rfl, fun _ => rfl, fun x => (x (by decide)).elim, fun _ => rfl, fun _ => rfl,
        fun _ => rfl, fun _ => rfl, fun _ => rfl, fun _ => rfl, fun _ => rfl, fun _ => rfl, fun _ => rfl, fun _ =>
          rfl, fun _ => rfl, fun _ => rfl, fun _ => rfl⟩ : Same [.fc] s { s with fc := f }).mono (by decide)
    split
    · exact ((same_bump ..).mono (by decide)).after e
    · exact e

theorem same_waited (r : RingRec) (s : State) : Same [.ob] s (waited r s) := by
  unfold waited
  try dsimp only [-Nat.reducePow]
  repeat' first
    | with_reducible exact Same.refl _
    | with_reducible refine ((same_bump ..).mono (by decide)).after ?_

theorem same_placeRun (rx : Nat) (l : List RingRec) (s : State) : Same [.fc, .led, .vu, .ob] s (placeRun rx l s).2
    := by
  induction l generalizing s with
  | nil => exact Same.refl s
  | cons r l ih =>
    unfold placeRun
    split
    · exact ((same_placeRec (by assumption)).mono (by decide)).trans (ih _)
    · exact Same.refl s

theorem same_mCollector (u : Nat) (rs : List RingRec) (s : State) : Same [.fc] s (State.mCollector u rs s) := by
  unfold State.mCollector
  try dsimp only [-Nat.reducePow]
  repeat' first
    | with_reducible exact Same.refl _
    | with_reducible refine ((same_mFc _ _).mono (by decide)).after ?_

theorem same_raise (u : Nat) (ms : List (W128 × W128)) (s : State) : Same [.ports, .fc, .led, .vu, .hx, .ob] s
    (raise u ms s) := by
  unfold raise
  try dsimp only [-Nat.reducePow]
  repeat' first
    | with_reducible exact Same.refl _
    | with_reducible refine ((same_mFc _ _).mono (by decide)).after ?_
    | with_reducible refine ((same_ringPush ..).mono (by decide)).after ?_
    | with_reducible refine ((same_placeRun ..).mono (by decide)).after ?_
    | with_reducible refine ((same_mCollector ..).mono (by decide)).after ?_
    | intro _
    | split

theorem same_report (u kind addr : Nat) (ctx : Option Nat) (h : Huid) (loc : W128) (s : State) : Same [.ports, .fc,
    .led, .vu, .hx, .ob] s (report u kind addr ctx h loc s) := by
  unfold report
  try dsimp only [-Nat.reducePow]
  repeat' first
    | with_reducible exact Same.refl _
    | with_reducible refine ((same_raise ..).mono (by decide)).after ?_

theorem same_reportSelf (u inst kind addr : Nat) (ctx : Option Nat) (s : State) : Same [.ports, .fc, .led, .vu, .hx,
    .ob] s (reportSelf u inst kind addr ctx s) := by
  unfold reportSelf
  try dsimp only [-Nat.reducePow]
  repeat' first
    | with_reducible exact Same.refl _
    | with_reducible refine ((same_report ..).mono (by decide)).after ?_

theorem same_reportUnit (u kind addr : Nat) (ctx : Option Nat) (h : Huid) (s : State) : Same [.ports, .fc, .led,
    .vu, .hx, .ob] s (reportUnit u kind addr ctx h s) := by
  unfold reportUnit
  try dsimp only [-Nat.reducePow]
  repeat' first
    | with_reducible exact Same.refl _
    | with_reducible refine ((same_report ..).mono (by decide)).after ?_

theorem same_reportCores (u kind addr : Nat) (ctx : Option Nat) (labels : List Huid) (s : State) : Same [.ports,
    .fc, .led, .vu, .hx, .ob] s (reportCores u kind addr ctx labels s) := by
  unfold reportCores
  try dsimp only [-Nat.reducePow]
  repeat' first
    | with_reducible exact Same.refl _
    | with_reducible refine ((same_raise ..).mono (by decide)).after ?_
    | with_reducible refine ((same_reportSelf ..).mono (by decide)).after ?_
    | intro _
    | split

theorem same_badMsg (inst : Nat) (s : State) : Same [.ports, .fc, .led, .vu, .hx, .ob] s (badMsg inst s) := by
  unfold badMsg
  try dsimp only [-Nat.reducePow]
  repeat' first
    | with_reducible exact Same.refl _
    | with_reducible refine ((same_bump ..).mono (by decide)).after ?_
    | with_reducible refine ((same_reportSelf ..).mono (by decide)).after ?_

theorem same_filterSeq {m : W128} {s t : State} (h : filterSeq m s = some t) : Same [.fc, .ob] s t := by
  unfold filterSeq at h
  dsimp only at h
  split at h
  · cases h
    exact (same_mFc ..).mono (by decide)
  · split at h
    · cases h
    · cases h
      refine ((same_mFc ..).mono (by decide)).after ?_
      split
      · exact (same_bump ..).mono (by decide)
      · exact Same.refl _

theorem same_validate (inst : Nat) (m : W128) (s : State) : Same [.ports, .fc, .led, .vu, .hx, .ob] s (validate inst
    m s).2 := by
  unfold validate
  try dsimp only [-Nat.reducePow]
  repeat' first
    | with_reducible exact Same.refl _
    | with_reducible refine ((same_bump ..).mono (by decide)).after ?_
    | with_reducible refine ((same_badMsg ..).mono (by decide)).after ?_
    | with_reducible refine ((same_filterSeq (by assumption)).mono (by decide)).after ?_
    | intro _
    | split

/-! ### Stud -/

theorem same_sbCompact (s : State) : Same [.nv, .ob] s (sbCompact s) := by
  unfold sbCompact
  try dsimp only [-Nat.reducePow]
  repeat' first
    | with_reducible exact Same.refl _
    | with_reducible refine ((same_mNv _ _).mono (by decide)).after ?_
    | with_reducible refine ((same_bump ..).mono (by decide)).after ?_

theorem same_sbAppend (r : SbRec) (s : State) : Same [.nv, .cfg, .ob] s (sbAppend r s) := by
  unfold sbAppend
  try dsimp only [-Nat.reducePow]
  repeat' first
    | with_reducible exact Same.refl _
    | with_reducible refine ((same_mNv _ _).mono (by decide)).after ?_
    | with_reducible refine ((same_mCfg _ _).mono (by decide)).after ?_
    | with_reducible refine ((same_bump ..).mono (by decide)).after ?_
    | with_reducible refine ((same_sbCompact ..).mono (by decide)).after ?_
    | intro _
    | split

theorem same_sbDefer (r : SbRec) (s : State) : Same [.cfg, .ob] s (sbDefer r s) := by
  unfold sbDefer
  try dsimp only [-Nat.reducePow]
  repeat' first
    | with_reducible exact Same.refl _
    | with_reducible refine ((same_mCfg _ _).mono (by decide)).after ?_
    | with_reducible refine ((same_bump ..).mono (by decide)).after ?_
    | intro _
    | split

theorem same_sbWrite (type : Nat) (body : Bytes) (s : State) : Same [.nv, .cfg, .ob] s (sbWrite type body s) := by
  unfold sbWrite
  try dsimp only [-Nat.reducePow]
  repeat' first
    | with_reducible exact Same.refl _
    | with_reducible refine ((same_sbAppend ..).mono (by decide)).after ?_
    | with_reducible refine ((same_sbDefer ..).mono (by decide)).after ?_
    | intro _
    | split

theorem same_sbFlush (s : State) : Same [.nv, .cfg, .ob] s (sbFlush s) := by
  unfold sbFlush
  try dsimp only [-Nat.reducePow]
  repeat' first
    | with_reducible exact Same.refl _
    | with_reducible refine ((same_mCfg _ _).mono (by decide)).after ?_
    | with_reducible refine ((same_sbAppend ..).mono (by decide)).after ?_
    | with_reducible refine (same_foldl _ ?_ _ _).after ?_
    | with_reducible refine (same_foldl2 _ ?_ _ _).after ?_
    | intro _
    | split

theorem same_sbSoftRepair (array inst bank row spare origin : Nat) (s : State) : Same [.nv, .cfg, .ob] s
    (sbSoftRepair array inst bank row spare origin s) := by
  unfold sbSoftRepair
  try dsimp only [-Nat.reducePow]
  repeat' first
    | with_reducible exact Same.refl _
    | with_reducible refine ((same_sbWrite ..).mono (by decide)).after ?_

theorem same_sbDefect (loc : W128) (kind source : Nat) (s : State) : Same [.nv, .cfg, .ob] s (sbDefect loc kind
    source s) := by
  unfold sbDefect
  try dsimp only [-Nat.reducePow]
  repeat' first
    | with_reducible exact Same.refl _
    | with_reducible refine ((same_sbWrite ..).mono (by decide)).after ?_

/-! ### Loft -/

theorem same_takeInjection (array target : Nat) (s : State) : Same [.mem] s (takeInjection array target s).2 := by
  unfold takeInjection
  try dsimp only [-Nat.reducePow]
  repeat' first
    | with_reducible exact Same.refl _
    | with_reducible refine ((same_mMem _ _).mono (by decide)).after ?_
    | intro _
    | split

theorem same_injectAt (array target place : Nat) (s : State) : Same [.mem] s (injectAt array target place s) := by
  unfold injectAt
  split
  · exact Same.of_pair ((same_takeInjection ..).mono (by decide)) (by assumption)
  · exact ((same_mMem ..).mono (by decide)).after (Same.of_pair ((same_takeInjection ..).mono (by decide)) (by
    assumption))

theorem same_dropFlips (array lo n : Nat) (s : State) : Same [.mem] s (dropFlips array lo n s) := by
  unfold dropFlips
  try dsimp only [-Nat.reducePow]
  repeat' first
    | with_reducible exact Same.refl _
    | with_reducible refine ((same_mMem _ _).mono (by decide)).after ?_

theorem same_setTag (slot : Nat) (w : W64) (s : State) : Same [.mem] s (setTag slot w s) := by
  unfold setTag
  try dsimp only [-Nat.reducePow]
  repeat' first
    | with_reducible exact Same.refl _
    | with_reducible refine ((same_mMem _ _).mono (by decide)).after ?_
    | with_reducible refine ((same_injectAt ..).mono (by decide)).after ?_
    | with_reducible refine ((same_dropFlips ..).mono (by decide)).after ?_

theorem same_memTag (slot : Nat) (s : State) : Same [.ports, .fc, .led, .vu, .hx, .ob] s (memTag slot s) := by
  unfold memTag
  try dsimp only [-Nat.reducePow]
  repeat' first
    | with_reducible exact Same.refl _
    | with_reducible refine ((same_reportUnit ..).mono (by decide)).after ?_

theorem same_tagAllocOp (slot ctx plan : Nat) (epoch : Bool) (s : State) : Same [.ports, .fc, .led, .mem, .vu, .hx,
    .ob] s (tagAllocOp slot ctx plan epoch s) := by
  unfold tagAllocOp
  try dsimp only [-Nat.reducePow]
  repeat' first
    | with_reducible exact Same.refl _
    | with_reducible refine ((same_setTag ..).mono (by decide)).after ?_
    | with_reducible refine ((same_memTag ..).mono (by decide)).after ?_
    | intro _
    | split

theorem same_tagBindOp (slot : Nat) (i : Ident) (s : State) : Same [.ports, .fc, .led, .mem, .vu, .hx, .ob] s
    (tagBindOp slot i s) := by
  unfold tagBindOp
  try dsimp only [-Nat.reducePow]
  repeat' first
    | with_reducible exact Same.refl _
    | with_reducible refine ((same_setTag ..).mono (by decide)).after ?_
    | with_reducible refine ((same_memTag ..).mono (by decide)).after ?_
    | intro _
    | split

theorem same_tagClearOp (slot : Nat) (s : State) : Same [.mem] s (tagClearOp slot s) := by
  unfold tagClearOp
  try dsimp only [-Nat.reducePow]
  repeat' first
    | with_reducible exact Same.refl _
    | with_reducible refine ((same_setTag ..).mono (by decide)).after ?_

theorem same_tagScrubOp (slot : Nat) (s : State) : Same [.mem] s (tagScrubOp slot s) := by
  unfold tagScrubOp
  try dsimp only [-Nat.reducePow]
  repeat' first
    | with_reducible exact Same.refl _
    | with_reducible refine ((same_setTag ..).mono (by decide)).after ?_
    | intro _
    | split

theorem same_tagFreeOp (slot : Nat) (s : State) : Same [.mem] s (tagFreeOp slot s) := by
  unfold tagFreeOp
  try dsimp only [-Nat.reducePow]
  repeat' first
    | with_reducible exact Same.refl _
    | with_reducible refine ((same_setTag ..).mono (by decide)).after ?_
    | intro _
    | split

theorem same_mapRow (bank row : Nat) (s : State) : Same [.nv, .ports, .cfg, .fc, .led, .mem, .vu, .hx, .ob] s
    (mapRow bank row s) := by
  unfold mapRow
  try dsimp only [-Nat.reducePow]
  repeat' first
    | with_reducible exact Same.refl _
    | with_reducible refine ((same_mMem _ _).mono (by decide)).after ?_
    | with_reducible refine ((same_bump ..).mono (by decide)).after ?_
    | with_reducible refine ((same_reportUnit ..).mono (by decide)).after ?_
    | with_reducible refine ((same_sbSoftRepair ..).mono (by decide)).after ?_
    | with_reducible refine ((same_dropFlips ..).mono (by decide)).after ?_
    | with_reducible refine (same_foldl _ ?_ _ _).after ?_
    | with_reducible refine (same_foldl2 _ ?_ _ _).after ?_
    | intro _
    | split

theorem same_engQueue (shed : Nat) (op : EngOp) (s : State) : Same [.mem] s (engQueue shed op s) := by
  unfold engQueue
  try dsimp only [-Nat.reducePow]
  repeat' first
    | with_reducible exact Same.refl _
    | with_reducible refine ((same_mMem _ _).mono (by decide)).after ?_

theorem same_eccLast (ue : Bool) (array inst bank row bit_ : Nat) (s : State) : Same [.mem] s (eccLast ue array inst
    bank row bit_ s) := by
  unfold eccLast
  try dsimp only [-Nat.reducePow]
  repeat' first
    | with_reducible exact Same.refl _
    | with_reducible refine ((same_mMem _ _).mono (by decide)).after ?_

theorem same_eccReport (kind : Nat) (h : Huid) (ek ei eb : Nat) (s : State) : Same [.ports, .fc, .led, .vu, .hx,
    .ob] s (eccReport kind h ek ei eb s) := by
  unfold eccReport
  try dsimp only [-Nat.reducePow]
  repeat' first
    | with_reducible exact Same.refl _
    | with_reducible refine ((same_report ..).mono (by decide)).after ?_

theorem same_loftCe (slot byte bit_ : Nat) (s : State) : Same [.ports, .fc, .led, .mem, .vu, .hx, .ob] s (loftCe
    slot byte bit_ s) := by
  unfold loftCe
  try dsimp only [-Nat.reducePow]
  repeat' first
    | with_reducible exact Same.refl _
    | with_reducible refine ((same_mMem _ _).mono (by decide)).after ?_
    | with_reducible refine ((same_bump ..).mono (by decide)).after ?_
    | with_reducible refine ((same_engQueue ..).mono (by decide)).after ?_
    | with_reducible refine ((same_eccLast ..).mono (by decide)).after ?_
    | with_reducible refine ((same_eccReport ..).mono (by decide)).after ?_
    | intro _
    | split

theorem same_tagCe (slot bit_ : Nat) (s : State) : Same [.ports, .fc, .led, .mem, .vu, .hx, .ob] s (tagCe slot bit_
    s) := by
  unfold tagCe
  try dsimp only [-Nat.reducePow]
  repeat' first
    | with_reducible exact Same.refl _
    | with_reducible refine ((same_bump ..).mono (by decide)).after ?_
    | with_reducible refine ((same_eccLast ..).mono (by decide)).after ?_
    | with_reducible refine ((same_eccReport ..).mono (by decide)).after ?_

theorem same_markMemUe (i : Ident) (s : State) : Same [.led, .vu, .ob] s (markMemUe i s) := by
  unfold markMemUe
  try dsimp only [-Nat.reducePow]
  repeat' first
    | with_reducible exact Same.refl _
    | with_reducible refine ((same_mStep ..).mono (by decide)).after ?_
    | with_reducible refine ((same_openDispute ..).mono (by decide)).after ?_
    | with_reducible refine same_withStep ?_ ?_
    | intro _
    | split

theorem same_loftUe (slot byte : Nat) (i : Ident) (s : State) : Same [.ports, .fc, .led, .mem, .vu, .hx, .ob] s
    (loftUe slot byte i s) := by
  unfold loftUe
  try dsimp only [-Nat.reducePow]
  repeat' first
    | with_reducible exact Same.refl _
    | with_reducible refine ((same_bump ..).mono (by decide)).after ?_
    | with_reducible refine ((same_engQueue ..).mono (by decide)).after ?_
    | with_reducible refine ((same_eccLast ..).mono (by decide)).after ?_
    | with_reducible refine ((same_eccReport ..).mono (by decide)).after ?_
    | with_reducible refine ((same_markMemUe ..).mono (by decide)).after ?_

theorem same_loseWord (array place : Nat) (s : State) : Same [.mem] s (loseWord array place s) := by
  unfold loseWord
  try dsimp only [-Nat.reducePow]
  repeat' first
    | with_reducible exact Same.refl _
    | with_reducible refine ((same_mMem _ _).mono (by decide)).after ?_
    | intro _
    | split

theorem same_tagUe (slot : Nat) (s : State) : Same [.ports, .fc, .led, .mem, .vu, .hx, .ob] s (tagUe slot s) := by
  unfold tagUe
  try dsimp only [-Nat.reducePow]
  repeat' first
    | with_reducible exact Same.refl _
    | with_reducible refine ((same_bump ..).mono (by decide)).after ?_
    | with_reducible refine ((same_eccLast ..).mono (by decide)).after ?_
    | with_reducible refine ((same_eccReport ..).mono (by decide)).after ?_

theorem same_lateWrite (port : Nat) (s : State) : Same [.ports, .fc, .led, .vu, .hx, .ob] s (lateWrite port s) := by
  unfold lateWrite
  try dsimp only [-Nat.reducePow]
  repeat' first
    | with_reducible exact Same.refl _
    | with_reducible refine ((same_bump ..).mono (by decide)).after ?_
    | with_reducible refine ((same_reportUnit ..).mono (by decide)).after ?_

theorem same_writeCheck (slot : Nat) (i : Ident) (tagBad : Bool) (s : State) : Same [.ports, .fc, .led, .mem, .vu,
    .hx, .ob] s (writeCheck slot i tagBad s).2 := by
  unfold writeCheck
  try dsimp only [-Nat.reducePow]
  repeat' first
    | with_reducible exact Same.refl _
    | with_reducible refine ((same_bumpCtx ..).mono (by decide)).after ?_
    | with_reducible refine ((same_memTag ..).mono (by decide)).after ?_
    | with_reducible refine ((same_tagUe ..).mono (by decide)).after ?_
    | intro _
    | split

theorem same_readCheck (slot : Nat) (i : Ident) (tagBad : Bool) (s : State) : Same [.ports, .fc, .led, .mem, .vu,
    .hx, .ob] s (readCheck slot i tagBad s).2 := by
  unfold readCheck
  try dsimp only [-Nat.reducePow]
  repeat' first
    | with_reducible exact Same.refl _
    | with_reducible refine ((same_memTag ..).mono (by decide)).after ?_
    | with_reducible refine ((same_tagUe ..).mono (by decide)).after ?_
    | intro _
    | split

theorem same_busAnswer (status : Nat) (data : Bytes) (s : State) : Same [.mem] s (busAnswer status data s) := by
  unfold busAnswer
  try dsimp only [-Nat.reducePow]
  repeat' first
    | with_reducible exact Same.refl _
    | with_reducible refine ((same_mMem _ _).mono (by decide)).after ?_

theorem same_tagEcc (slot : Nat) (e : EccSay) (s : State) : Same [.ports, .fc, .led, .mem, .vu, .hx, .ob] s (tagEcc
    slot e s).2 := by
  unfold tagEcc
  try dsimp only [-Nat.reducePow]
  repeat' first
    | with_reducible exact Same.refl _
    | with_reducible refine ((same_dropFlips ..).mono (by decide)).after ?_
    | with_reducible refine ((same_tagCe ..).mono (by decide)).after ?_
    | with_reducible refine ((same_loseWord ..).mono (by decide)).after ?_
    | intro _
    | split

theorem same_tagFullOp (slot : Nat) (i : Ident) (s : State) : Same [.ports, .fc, .led, .mem, .vu, .hx, .ob] s
    (tagFullOp slot i s) := by
  unfold tagFullOp
  try dsimp only [-Nat.reducePow]
  repeat' first
    | with_reducible exact Same.refl _
    | with_reducible refine ((same_setTag ..).mono (by decide)).after ?_
    | with_reducible refine ((same_memTag ..).mono (by decide)).after ?_
    | with_reducible refine ((same_tagUe ..).mono (by decide)).after ?_
    | with_reducible refine ((same_tagEcc ..).mono (by decide)).after ?_
    | intro _
    | split

theorem same_dataEcc (slot byte n : Nat) (i : Ident) (e : EccSay) (s : State) : Same [.draws, .ports, .fc, .led,
    .mem, .vu, .hx, .ob] s (dataEcc slot byte n i e s).2 := by
  unfold dataEcc
  try dsimp only [-Nat.reducePow]
  repeat' first
    | with_reducible exact Same.refl _
    | with_reducible refine ((same_draw _).mono (by decide)).after ?_
    | with_reducible refine ((same_dropFlips ..).mono (by decide)).after ?_
    | with_reducible refine ((same_loftCe ..).mono (by decide)).after ?_
    | with_reducible refine ((same_loftUe ..).mono (by decide)).after ?_
    | with_reducible refine ((same_loseWord ..).mono (by decide)).after ?_
    | intro _
    | split

theorem same_loftWrite (a : Nat) (b : Bytes) (s : State) : Same [.mem] s (loftWrite a b s) := by
  unfold loftWrite
  try dsimp only [-Nat.reducePow]
  repeat' first
    | with_reducible exact Same.refl _
    | with_reducible refine ((same_mMem _ _).mono (by decide)).after ?_
    | with_reducible refine ((same_injectAt ..).mono (by decide)).after ?_
    | with_reducible refine ((same_dropFlips ..).mono (by decide)).after ?_

theorem same_bankRead (slot line : Nat) (a : Access) (e : EccSay) (s : State) : Same [.draws, .ports, .fc, .led,
    .mem, .vu, .hx, .ob] s (bankRead slot line a e s) := by
  unfold bankRead
  try dsimp only [-Nat.reducePow]
  repeat' first
    | with_reducible exact Same.refl _
    | with_reducible refine ((same_bump ..).mono (by decide)).after ?_
    | with_reducible refine ((same_lateWrite ..).mono (by decide)).after ?_
    | with_reducible refine ((same_readCheck ..).mono (by decide)).after ?_
    | with_reducible refine ((same_busAnswer ..).mono (by decide)).after ?_
    | with_reducible refine ((same_tagEcc ..).mono (by decide)).after ?_
    | with_reducible refine ((same_dataEcc ..).mono (by decide)).after ?_
    | intro _
    | split

theorem same_bankStore (slot byte n : Nat) (partly : Bool) (a : Access) (e : EccSay) (f : State → State) (s : State)
    {m : List Part} (hm : Part.within [.draws, .ports, .fc, .led, .mem, .vu, .hx, .ob] m = true) (hf : ∀ s, Same m s
      (f s)) : Same m s (bankStore slot byte n partly a e f s) := by
  unfold bankStore
  try dsimp only [-Nat.reducePow]
  repeat' first
    | with_reducible exact Same.refl _
    | with_reducible refine ((same_lateWrite ..).mono (Part.within_trans (by decide) hm)).after ?_
    | with_reducible refine ((same_writeCheck ..).mono (Part.within_trans (by decide) hm)).after ?_
    | with_reducible refine ((same_busAnswer ..).mono (Part.within_trans (by decide) hm)).after ?_
    | with_reducible refine ((same_tagEcc ..).mono (Part.within_trans (by decide) hm)).after ?_
    | with_reducible refine ((same_dataEcc ..).mono (Part.within_trans (by decide) hm)).after ?_
    | with_reducible refine (hf ..).after ?_
    | intro _
    | split

theorem same_eachSlot (f : Nat → State → State) (slots : List (Nat × Nat)) (s : State) {m : List Part} (hm :
    Part.within [] m = true) (hf : ∀ a0 s, Same m s (f a0 s)) : Same m s (eachSlot f slots s) := by
  unfold eachSlot
  try dsimp only [-Nat.reducePow]
  repeat' first
    | with_reducible exact Same.refl _
    | with_reducible refine (hf ..).after ?_
    | with_reducible refine (same_foldl _ ?_ _ _).after ?_
    | with_reducible refine (same_foldl2 _ ?_ _ _).after ?_
    | intro _

/-! ### Memory -/

theorem same_setDomain (d : Nat) (st : DomSt) (s : State) : Same [.ts] s (setDomain d st s) := by
  unfold setDomain
  try dsimp only [-Nat.reducePow]
  repeat' first
    | with_reducible exact Same.refl _
    | with_reducible refine ((same_mTs _ _).mono (by decide)).after ?_

theorem same_requestDomain (d : Nat) (s : State) : Same [.ts, .ob] s (requestDomain d s) := by
  unfold requestDomain
  try dsimp only [-Nat.reducePow]
  repeat' first
    | with_reducible exact Same.refl _
    | with_reducible refine ((same_mTs _ _).mono (by decide)).after ?_
    | with_reducible refine ((same_bump ..).mono (by decide)).after ?_
    | with_reducible refine ((same_setDomain ..).mono (by decide)).after ?_
    | intro _
    | split

theorem same_setShed (n : Nat) (st : ShedSt) (s : State) : Same [.ports, .mem, .hx, .ob] s (setShed n st s) := by
  unfold setShed
  try dsimp only [-Nat.reducePow]
  repeat' first
    | with_reducible exact Same.refl _
    | with_reducible refine ((same_mMem _ _).mono (by decide)).after ?_
    | with_reducible refine ((same_stateChanged ..).mono (by decide)).after ?_

theorem same_bankWrite (slot line : Nat) (mask : W64) (data : BitVec 512) (a : Access) (e : EccSay) (s : State) :
    Same [.draws, .ports, .fc, .led, .mem, .vu, .hx, .ob] s (bankWrite slot line mask data a e s) := by
  unfold bankWrite
  try dsimp only [-Nat.reducePow]
  repeat' first
    | with_reducible exact Same.refl _
    | with_reducible refine ((same_loftWrite ..).mono (by decide)).after ?_
    | with_reducible refine (same_bankStore _ _ _ _ _ _ _ _ (by decide) ?_).after ?_
    | intro _

theorem same_bankAdd64 (slot w : Nat) (v : W64) (a : Access) (e : EccSay) (s : State) : Same [.draws, .ports, .fc,
    .led, .mem, .vu, .hx, .ob] s (bankAdd64 slot w v a e s) := by
  unfold bankAdd64
  try dsimp only [-Nat.reducePow]
  repeat' first
    | with_reducible exact Same.refl _
    | with_reducible refine ((same_loftWrite ..).mono (by decide)).after ?_
    | with_reducible refine (same_bankStore _ _ _ _ _ _ _ _ (by decide) ?_).after ?_
    | intro _

theorem same_bankLpfAdd (slot off8 : Nat) (rec : Bytes) (a : Access) (e : EccSay) (s : State) : Same [.draws,
    .ports, .fc, .led, .mem, .vu, .hx, .ob] s (bankLpfAdd slot off8 rec a e s) := by
  unfold bankLpfAdd
  try dsimp only [-Nat.reducePow]
  repeat' first
    | with_reducible exact Same.refl _
    | with_reducible refine ((same_loftWrite ..).mono (by decide)).after ?_
    | with_reducible refine (same_bankStore _ _ _ _ _ _ _ _ (by decide) ?_).after ?_
    | intro _

theorem same_engTake (op : EngOp) (s : State) : Same [.mem] s (engTake op s) := by
  unfold engTake
  try dsimp only [-Nat.reducePow]
  repeat' first
    | with_reducible exact Same.refl _
    | with_reducible refine ((same_mMem _ _).mono (by decide)).after ?_

theorem same_engFill (slot count : Nat) (pattern : W64) (s : State) : Same [.ports, .fc, .led, .mem, .vu, .hx, .ob]
    s (engFill slot count pattern s) := by
  unfold engFill
  try dsimp only [-Nat.reducePow]
  repeat' first
    | with_reducible exact Same.refl _
    | with_reducible refine ((same_lateWrite ..).mono (by decide)).after ?_
    | with_reducible refine ((same_loftWrite ..).mono (by decide)).after ?_
    | with_reducible refine ((same_engTake ..).mono (by decide)).after ?_
    | with_reducible refine (same_foldl _ ?_ _ _).after ?_
    | with_reducible refine (same_foldl2 _ ?_ _ _).after ?_
    | intro _
    | split

theorem same_mLane (n : Nat) (f : Lane → Lane) (s : State) : Same [.sa] s (State.mLane n f s) := by
  unfold State.mLane
  try dsimp only [-Nat.reducePow]
  repeat' first
    | with_reducible exact Same.refl _
    | with_reducible refine ((same_mSa _ _).mono (by decide)).after ?_

theorem same_mCluster (n : Nat) (f : Cluster → Cluster) (s : State) : Same [.sa] s (State.mCluster n f s) := by
  unfold State.mCluster
  try dsimp only [-Nat.reducePow]
  repeat' first
    | with_reducible exact Same.refl _
    | with_reducible refine ((same_mSa _ _).mono (by decide)).after ?_

theorem same_engCopy (src count dst : Nat) (lane : Option Nat) (s : State) : Same [.ports, .fc, .led, .mem, .vu,
    .hx, .ob] s (engCopy src count dst lane s) := by
  unfold engCopy
  try dsimp only [-Nat.reducePow]
  repeat' first
    | with_reducible exact Same.refl _
    | with_reducible refine ((same_mMem _ _).mono (by decide)).after ?_
    | with_reducible refine ((same_injectAt ..).mono (by decide)).after ?_
    | with_reducible refine ((same_memTag ..).mono (by decide)).after ?_
    | with_reducible refine ((same_lateWrite ..).mono (by decide)).after ?_
    | with_reducible refine ((same_loftWrite ..).mono (by decide)).after ?_
    | with_reducible refine ((same_engTake ..).mono (by decide)).after ?_
    | intro _
    | split

theorem same_eraseSlots (ranges : List (Nat × Nat)) (s : State) : Same [.mem] s (eraseSlots ranges s) := by
  unfold eraseSlots
  try dsimp only [-Nat.reducePow]
  repeat' first
    | with_reducible exact Same.refl _
    | with_reducible refine ((same_mMem _ _).mono (by decide)).after ?_

theorem same_startErasure (ctx plan : Nat) (p : Plan) (kill : Bool) (s : State) : Same [.sa, .mem, .ob] s
    (startErasure ctx plan p kill s) := by
  unfold startErasure
  try dsimp only [-Nat.reducePow]
  repeat' first
    | with_reducible exact Same.refl _
    | with_reducible refine ((same_mMem _ _).mono (by decide)).after ?_
    | with_reducible refine ((same_mOb _ _).mono (by decide)).after ?_
    | with_reducible refine ((same_tagScrubOp ..).mono (by decide)).after ?_
    | with_reducible refine ((same_engQueue ..).mono (by decide)).after ?_
    | with_reducible refine (same_eachSlot _ _ _ (by decide) ?_).after ?_
    | with_reducible refine ((same_mLane ..).mono (by decide)).after ?_
    | with_reducible refine (same_foldl _ ?_ _ _).after ?_
    | with_reducible refine (same_foldl2 _ ?_ _ _).after ?_
    | intro _

theorem same_mErasure (ctx : Nat) (f : Erasure → Erasure) (s : State) : Same [.mem] s (State.mErasure ctx f s) := by
  unfold State.mErasure
  try dsimp only [-Nat.reducePow]
  repeat' first
    | with_reducible exact Same.refl _
    | with_reducible refine ((same_mMem _ _).mono (by decide)).after ?_

theorem same_eraseFailed (h : Huid) (s : State) : Same [.ports, .fc, .led, .mem, .vu, .hx, .ob] s (eraseFailed h s)
    := by
  unfold eraseFailed
  try dsimp only [-Nat.reducePow]
  repeat' first
    | with_reducible exact Same.refl _
    | with_reducible refine ((same_mMem _ _).mono (by decide)).after ?_
    | with_reducible refine ((same_reportUnit ..).mono (by decide)).after ?_

theorem same_eraseRanges (ctx : Nat) (r r2 : WipeSay) (s : State) : Same [.draws, .nv, .ports, .cfg, .fc, .led,
    .mem, .vu, .hx, .ob] s (eraseRanges ctx r r2 s) := by
  unfold eraseRanges
  try dsimp only [-Nat.reducePow]
  repeat' first
    | with_reducible exact Same.refl _
    | with_reducible refine ((same_mMem _ _).mono (by decide)).after ?_
    | with_reducible refine ((same_draw _).mono (by decide)).after ?_
    | with_reducible refine ((same_bump ..).mono (by decide)).after ?_
    | with_reducible refine ((same_mapRow ..).mono (by decide)).after ?_
    | with_reducible refine ((same_engTake ..).mono (by decide)).after ?_
    | with_reducible refine ((same_eraseSlots ..).mono (by decide)).after ?_
    | with_reducible refine ((same_eraseFailed ..).mono (by decide)).after ?_
    | with_reducible refine (same_foldl _ ?_ _ _).after ?_
    | with_reducible refine (same_foldl2 _ ?_ _ _).after ?_
    | intro _
    | split

theorem same_zeroLane (lane : Nat) (s : State) : Same [.mem] s (zeroLane lane s) := by
  unfold zeroLane
  try dsimp only [-Nat.reducePow]
  repeat' first
    | with_reducible exact Same.refl _
    | with_reducible refine ((same_mMem _ _).mono (by decide)).after ?_
    | with_reducible refine ((same_dropFlips ..).mono (by decide)).after ?_

theorem same_zeroCluster (c : Nat) (s : State) : Same [.sa, .mem] s (zeroCluster c s) := by
  unfold zeroCluster
  try dsimp only [-Nat.reducePow]
  repeat' first
    | with_reducible exact Same.refl _
    | with_reducible refine ((same_mMem _ _).mono (by decide)).after ?_
    | with_reducible refine ((same_dropFlips ..).mono (by decide)).after ?_
    | with_reducible refine ((same_mCluster ..).mono (by decide)).after ?_

theorem same_freePages (pages : List Nat) (s : State) : Same [.mem] s (freePages pages s) := by
  unfold freePages
  try dsimp only [-Nat.reducePow]
  repeat' first
    | with_reducible exact Same.refl _
    | with_reducible refine ((same_mMem _ _).mono (by decide)).after ?_
    | with_reducible refine ((same_setTag ..).mono (by decide)).after ?_
    | with_reducible refine (same_foldl _ ?_ _ _).after ?_
    | with_reducible refine (same_foldl2 _ ?_ _ _).after ?_
    | intro _

theorem same_finishErasure (e : Erasure) (s : State) : Same [.mem, .ob] s (finishErasure e s) := by
  unfold finishErasure
  try dsimp only [-Nat.reducePow]
  repeat' first
    | with_reducible exact Same.refl _
    | with_reducible refine ((same_mMem _ _).mono (by decide)).after ?_
    | with_reducible refine ((same_bump ..).mono (by decide)).after ?_
    | with_reducible refine ((same_tagFreeOp ..).mono (by decide)).after ?_
    | with_reducible refine (same_eachSlot _ _ _ (by decide) ?_).after ?_
    | with_reducible refine ((same_freePages ..).mono (by decide)).after ?_
    | intro _
    | split

theorem same_shedDrain (n : Nat) (s : State) : Same [.ports, .mem, .hx, .ts, .ob] s (shedDrain n s) := by
  unfold shedDrain
  try dsimp only [-Nat.reducePow]
  repeat' first
    | with_reducible exact Same.refl _
    | with_reducible refine ((same_mMem _ _).mono (by decide)).after ?_
    | with_reducible refine ((same_setDomain ..).mono (by decide)).after ?_
    | with_reducible refine ((same_setShed ..).mono (by decide)).after ?_
    | intro _
    | split

theorem same_domainOff (d : Nat) (s : State) : Same [.ts] s (domainOff d s) := by
  unfold domainOff
  try dsimp only [-Nat.reducePow]
  repeat' first
    | with_reducible exact Same.refl _
    | with_reducible refine ((same_mTs _ _).mono (by decide)).after ?_
    | with_reducible refine ((same_setDomain ..).mono (by decide)).after ?_
    | intro _
    | split

theorem same_shedOff (n : Nat) (s : State) : Same [.ports, .mem, .hx, .ts, .ob] s (shedOff n s) := by
  unfold shedOff
  try dsimp only [-Nat.reducePow]
  repeat' first
    | with_reducible exact Same.refl _
    | with_reducible refine ((same_mMem _ _).mono (by decide)).after ?_
    | with_reducible refine ((same_setShed ..).mono (by decide)).after ?_
    | with_reducible refine ((same_domainOff ..).mono (by decide)).after ?_
    | intro _
    | split

theorem same_drainTimeout (n port : Nat) (s : State) : Same [.ports, .fc, .led, .mem, .vu, .hx, .ts, .ob] s
    (drainTimeout n port s) := by
  unfold drainTimeout
  try dsimp only [-Nat.reducePow]
  repeat' first
    | with_reducible exact Same.refl _
    | with_reducible refine ((same_mMem _ _).mono (by decide)).after ?_
    | with_reducible refine ((same_reportUnit ..).mono (by decide)).after ?_
    | with_reducible refine ((same_setDomain ..).mono (by decide)).after ?_
    | with_reducible refine ((same_setShed ..).mono (by decide)).after ?_
    | intro _
    | split

theorem same_shedInitDone (n : Nat) (s : State) : Same [.ports, .mem, .hx, .ts, .ob] s (shedInitDone n s) := by
  unfold shedInitDone
  try dsimp only [-Nat.reducePow]
  repeat' first
    | with_reducible exact Same.refl _
    | with_reducible refine ((same_setDomain ..).mono (by decide)).after ?_
    | with_reducible refine ((same_setShed ..).mono (by decide)).after ?_
    | intro _
    | split

/-! ### Orders -/

theorem same_mSector (n : Nat) (f : SectorSt → SectorSt) (s : State) : Same [.ct] s (State.mSector n f s) := by
  unfold State.mSector
  try dsimp only [-Nat.reducePow]
  repeat' first
    | with_reducible exact Same.refl _
    | with_reducible refine ((same_mCt _ _).mono (by decide)).after ?_

theorem same_takeEntry (k : Nat) (c : Cmd) (s : State) : Same [.ct, .ob] s (takeEntry k c s) := by
  unfold takeEntry
  try dsimp only [-Nat.reducePow]
  repeat' first
    | with_reducible exact Same.refl _
    | with_reducible refine ((same_mCt _ _).mono (by decide)).after ?_
    | with_reducible refine ((same_bump ..).mono (by decide)).after ?_

theorem same_dropEntry (k : Nat) (s : State) : Same [.ct] s (dropEntry k s) := by
  unfold dropEntry
  try dsimp only [-Nat.reducePow]
  repeat' first
    | with_reducible exact Same.refl _
    | with_reducible refine ((same_mCt _ _).mono (by decide)).after ?_

theorem same_hostDone (w : W64) (status : Nat) (s : State) : Same [.ct] s (hostDone w status s) := by
  unfold hostDone
  try dsimp only [-Nat.reducePow]
  repeat' first
    | with_reducible exact Same.refl _
    | with_reducible refine ((same_mCt _ _).mono (by decide)).after ?_

theorem same_endHost (o : ScOrder) (status : Nat) (s : State) : Same [.ct] s (endHost o status s) := by
  unfold endHost
  try dsimp only [-Nat.reducePow]
  repeat' first
    | with_reducible exact Same.refl _
    | with_reducible refine ((same_hostDone ..).mono (by decide)).after ?_
    | with_reducible refine (same_foldl _ ?_ _ _).after ?_
    | with_reducible refine (same_foldl2 _ ?_ _ _).after ?_
    | intro _

theorem same_scStart (n : Nat) (s : State) : Same [.ct, .ob] s (scStart n s) := by
  unfold scStart
  try dsimp only [-Nat.reducePow]
  repeat' first
    | with_reducible exact Same.refl _
    | with_reducible refine ((same_mSector ..).mono (by decide)).after ?_
    | with_reducible refine ((same_takeEntry ..).mono (by decide)).after ?_
    | intro _
    | split

theorem same_scOrder (n : Nat) (o : ScOrder) (s : State) : Same [.ct, .ob] s (scOrder n o s) := by
  unfold scOrder
  try dsimp only [-Nat.reducePow]
  repeat' first
    | with_reducible exact Same.refl _
    | with_reducible refine ((same_mCt _ _).mono (by decide)).after ?_
    | with_reducible refine ((same_bump ..).mono (by decide)).after ?_
    | with_reducible refine ((same_mSector ..).mono (by decide)).after ?_
    | with_reducible refine ((same_endHost ..).mono (by decide)).after ?_
    | with_reducible refine ((same_scStart ..).mono (by decide)).after ?_
    | with_reducible refine (same_foldl _ ?_ _ _).after ?_
    | with_reducible refine (same_foldl2 _ ?_ _ _).after ?_
    | intro _
    | split

theorem same_fenceOrder (h : Huid) (purpose : Nat) (w : W64) (s : State) : Same [.ct, .ob] s (fenceOrder h purpose w
    s) := by
  unfold fenceOrder
  try dsimp only [-Nat.reducePow]
  repeat' first
    | with_reducible exact Same.refl _
    | with_reducible refine ((same_scOrder ..).mono (by decide)).after ?_

theorem same_unfenceOrder (h : Huid) (purpose : Nat) (w : W64) (s : State) : Same [.ct, .ob] s (unfenceOrder h
    purpose w s) := by
  unfold unfenceOrder
  try dsimp only [-Nat.reducePow]
  repeat' first
    | with_reducible exact Same.refl _
    | with_reducible refine ((same_scOrder ..).mono (by decide)).after ?_

theorem same_ctxFence (c : Nat) (labels : List Huid) (purpose : Nat) (s : State) : Same [.ct, .ob] s (ctxFence c
    labels purpose s) := by
  unfold ctxFence
  try dsimp only [-Nat.reducePow]
  repeat' first
    | with_reducible exact Same.refl _
    | with_reducible refine ((same_scOrder ..).mono (by decide)).after ?_
    | with_reducible refine (same_foldl _ ?_ _ _).after ?_
    | with_reducible refine (same_foldl2 _ ?_ _ _).after ?_
    | intro _
    | split

theorem same_waitQuery (h : Huid) (s : State) : Same [.ct, .ob] s (waitQuery h s) := by
  unfold waitQuery
  try dsimp only [-Nat.reducePow]
  repeat' first
    | with_reducible exact Same.refl _
    | with_reducible refine ((same_bump ..).mono (by decide)).after ?_
    | with_reducible refine ((same_scOrder ..).mono (by decide)).after ?_

theorem same_startChains (c step : Nat) (labels : List Huid) (s : State) : Same [.ct, .ob] s (startChains c step
    labels s) := by
  unfold startChains
  try dsimp only [-Nat.reducePow]
  repeat' first
    | with_reducible exact Same.refl _
    | with_reducible refine ((same_mCt _ _).mono (by decide)).after ?_
    | with_reducible refine ((same_waitQuery ..).mono (by decide)).after ?_
    | with_reducible refine (same_foldl _ ?_ _ _).after ?_
    | with_reducible refine (same_foldl2 _ ?_ _ _).after ?_
    | intro _

end Sys2Proof.Machine
end

