-- ==== Sys2Proof/Laws/Units2.lean ====
section
/-!
SUPPORT. The units that the operations of these files of the machine may change: YardOps, Ledger, Plans, Capture,
Clock, HitchMap, Hrp, Snapshot, Paddock, Steps, Engines, Xdie.
-/
namespace Sys2Proof.Machine

/-! ### YardOps -/

theorem same_mPad (h : Huid) (f : Pad → Pad) (s : State) : Same [.vu] s (State.mPad h f s) := by
  unfold State.mPad
  try dsimp only [-Nat.reducePow]
  repeat' first
    | with_reducible exact Same.refl _
    | with_reducible refine ((same_mVu _ _).mono (by decide)).after ?_

theorem same_swapLabels (a b : Huid) (s : State) : Same [.ym] s (swapLabels a b s) := by
  unfold swapLabels
  try dsimp only [-Nat.reducePow]
  repeat' first
    | with_reducible exact Same.refl _
    | with_reducible refine ((same_mYm _ _).mono (by decide)).after ?_

theorem same_sbRemap (label phys : Huid) (s : State) : Same [.nv, .cfg, .ob] s (sbRemap label phys s) := by
  unfold sbRemap
  try dsimp only [-Nat.reducePow]
  repeat' first
    | with_reducible exact Same.refl _
    | with_reducible refine ((same_sbWrite ..).mono (by decide)).after ?_

theorem same_fcpPump (n : Nat) (s : State) : Same [.ct, .ym, .ob] s (fcpPump n s) := by
  induction n generalizing s with
  | zero => exact Same.refl s
  | succ n ih =>
    unfold fcpPump
    split
    · exact (ih _).after (((same_takeEntry ..).mono (by decide)).after ((same_mYm ..).mono (by decide)))
    · exact Same.refl _

theorem same_pumpFcp (s : State) : Same [.ct, .ym, .ob] s (pumpFcp s) := by
  unfold pumpFcp
  try dsimp only [-Nat.reducePow]
  repeat' first
    | with_reducible exact Same.refl _
    | with_reducible refine ((same_fcpPump ..).mono (by decide)).after ?_

theorem same_epochSet (s : State) : Same [.ct, .ym, .ob] s (epochSet s) := by
  unfold epochSet
  try dsimp only [-Nat.reducePow]
  repeat' first
    | with_reducible exact Same.refl _
    | with_reducible refine ((same_mYm _ _).mono (by decide)).after ?_
    | with_reducible refine ((same_takeEntry ..).mono (by decide)).after ?_
    | intro _
    | split

theorem same_computeInstall (s : State) : Same [.ct, .ym, .ob] s (computeInstall s) := by
  unfold computeInstall
  try dsimp only [-Nat.reducePow]
  repeat' first
    | with_reducible exact Same.refl _
    | with_reducible refine ((same_mYm _ _).mono (by decide)).after ?_
    | with_reducible refine ((same_pumpFcp ..).mono (by decide)).after ?_

theorem same_queueChange (s : State) : Same [.ct, .ym, .ob] s (queueChange s) := by
  unfold queueChange
  try dsimp only [-Nat.reducePow]
  repeat' first
    | with_reducible exact Same.refl _
    | with_reducible refine ((same_mYm _ _).mono (by decide)).after ?_
    | with_reducible refine ((same_computeInstall ..).mono (by decide)).after ?_
    | intro _
    | split

theorem same_remapLabel {l : Huid} {s t : State} (h : remapLabel l s = some t) : Same [.nv, .cfg, .ct, .ym, .ob] s t
    := by
  unfold remapLabel at h
  dsimp only at h
  split at h
  · cases h
  · cases h
    refine ((same_queueChange ..).mono (by decide)).after (((same_mYm ..).mono (by decide)).after (((same_sbRemap
      ..).mono (by decide)).after (((same_sbRemap ..).mono (by decide)).after ?_)))
    exact ((same_bump ..).mono (by decide)).after ((same_swapLabels ..).mono (by decide))

theorem same_ymReport (kind : Nat) (h : Huid) (s : State) : Same [.ports, .fc, .led, .vu, .hx, .ob] s (ymReport kind
    h s) := by
  unfold ymReport
  try dsimp only [-Nat.reducePow]
  repeat' first
    | with_reducible exact Same.refl _
    | with_reducible refine ((same_reportUnit ..).mono (by decide)).after ?_

/-! ### Ledger -/

theorem same_haltWith (c kind : Nat) (sender : Huid) (s : State) : Same [.ports, .fc, .led, .vu, .hx, .ob] s
    (haltWith c kind sender s) := by
  unfold haltWith
  try dsimp only [-Nat.reducePow]
  repeat' first
    | with_reducible exact Same.refl _
    | with_reducible refine ((same_mCtx ..).mono (by decide)).after ?_
    | with_reducible refine ((same_reportUnit ..).mono (by decide)).after ?_
    | intro _
    | split

theorem same_haltQuiet (c : Nat) (s : State) : Same [.ports, .led, .hx, .ob] s (haltQuiet c s) := by
  unfold haltQuiet
  try dsimp only [-Nat.reducePow]
  repeat' first
    | with_reducible exact Same.refl _
    | with_reducible refine ((same_mCtx ..).mono (by decide)).after ?_
    | intro _
    | split

theorem same_noteStep (c : Nat) (e : Bool) (n : Nat) (s : State) : Same [.ports, .led, .hx, .ob] s (noteStep c e n
    s) := by
  unfold noteStep
  try dsimp only [-Nat.reducePow]
  repeat' first
    | with_reducible exact Same.refl _
    | with_reducible refine ((same_bumpCtx ..).mono (by decide)).after ?_
    | with_reducible refine ((same_mCtx ..).mono (by decide)).after ?_
    | with_reducible refine ((same_mStep ..).mono (by decide)).after ?_
    | intro _
    | split

theorem same_windowMoved (c : Nat) (s : State) : Same [.ports, .led, .hx, .ob] s (windowMoved c s) := by
  unfold windowMoved
  try dsimp only [-Nat.reducePow]
  repeat' first
    | with_reducible exact Same.refl _
    | with_reducible refine ((same_bumpCtx ..).mono (by decide)).after ?_
    | with_reducible refine ((same_mCtx ..).mono (by decide)).after ?_
    | intro _
    | split

theorem same_takeLane (l role : Nat) (s : State) : Same [.ts, .ob] s (takeLane l role s).2 := by
  unfold takeLane
  try dsimp only [-Nat.reducePow]
  repeat' first
    | with_reducible exact Same.refl _
    | with_reducible refine ((same_requestDomain ..).mono (by decide)).after ?_
    | intro _
    | split

theorem same_laneEnqueue (lane : Nat) (t : Token) (s : State) : Same [.led, .sa] s (laneEnqueue lane t s) := by
  unfold laneEnqueue
  try dsimp only [-Nat.reducePow]
  repeat' first
    | with_reducible exact Same.refl _
    | with_reducible refine ((same_mLed _ _).mono (by decide)).after ?_
    | with_reducible refine ((same_mLane ..).mono (by decide)).after ?_
    | intro _
    | split

theorem same_laneEnqueueFirst (lane : Nat) (t : Token) (s : State) : Same [.led, .sa] s (laneEnqueueFirst lane t s)
    := by
  unfold laneEnqueueFirst
  try dsimp only [-Nat.reducePow]
  repeat' first
    | with_reducible exact Same.refl _
    | with_reducible refine ((same_mLed _ _).mono (by decide)).after ?_
    | with_reducible refine ((same_mLane ..).mono (by decide)).after ?_
    | intro _
    | split

theorem same_ccLast (lane : Nat) (t : Token) (outcome tile : Nat) (checker : Bool) (s : State) : Same [.sa] s
    (ccLast lane t outcome tile checker s) := by
  unfold ccLast
  try dsimp only [-Nat.reducePow]
  repeat' first
    | with_reducible exact Same.refl _
    | with_reducible refine ((same_mCluster ..).mono (by decide)).after ?_

theorem same_noChecker (t : Token) (outcome : Nat) (s : State) : Same [.vu, .ob] s (noChecker t outcome s) := by
  unfold noChecker
  try dsimp only [-Nat.reducePow]
  repeat' first
    | with_reducible exact Same.refl _
    | with_reducible refine ((same_openDispute ..).mono (by decide)).after ?_

theorem same_noLane (p : Plan) (t : Token) (s : State) : Same [.sa, .vu, .ob] s (noLane p t s) := by
  unfold noLane
  try dsimp only [-Nat.reducePow]
  repeat' first
    | with_reducible exact Same.refl _
    | with_reducible refine ((same_ccLast ..).mono (by decide)).after ?_
    | with_reducible refine ((same_noChecker ..).mono (by decide)).after ?_
    | intro _
    | split

theorem same_dispatchToken (p : Plan) (t : Token) (s : State) : Same [.led, .twc, .per, .sa, .vu, .ts, .ob] s
    (dispatchToken p t s) := by
  have hm : ∀ {l : List Part} {a b : State}, Same l a b → Part.within l [.led, .twc, .per, .sa, .vu, .ts, .ob] =
    true → Same [.led, .twc, .per, .sa, .vu, .ts, .ob] a b := fun h k => h.mono k
  unfold dispatchToken
  dsimp only
  split
  · exact hm (same_mPer ..) (by decide)
  · split
    · split
      · have h := hm (Same.of_pair (same_takeLane ..) (by assumption)) (by decide)
        refine Same.trans h ?_
        (repeat' split) <;> first
          | exact hm (same_laneEnqueueFirst ..) (by decide)
          | exact hm (same_laneEnqueue ..) (by decide)
          | exact (hm (same_laneEnqueueFirst ..) (by decide)).after (hm (same_bumpCtx ..) (by decide))
          | exact (hm (same_laneEnqueue ..) (by decide)).after (hm (same_bumpCtx ..) (by decide))
      · exact (hm (same_noLane ..) (by decide)).after (hm (Same.of_pair (same_takeLane ..) (by assumption)) (by
        decide))
    · exact hm (same_mTwc ..) (by decide)

theorem same_tryFire (c : Nat) (e : Bool) (n t : Nat) (s : State) : Same [.ports, .led, .twc, .per, .sa, .vu, .hx,
    .ts, .ob] s (tryFire c e n t s) := by
  unfold tryFire
  try dsimp only [-Nat.reducePow]
  repeat' first
    | with_reducible exact Same.refl _
    | with_reducible refine ((same_bumpCtx ..).mono (by decide)).after ?_
    | with_reducible refine ((same_traceStep ..).mono (by decide)).after ?_
    | with_reducible refine ((same_mInst ..).mono (by decide)).after ?_
    | with_reducible refine ((same_dispatchToken ..).mono (by decide)).after ?_
    | intro _
    | split

theorem same_fireAll (c : Nat) (s : State) : Same [.ports, .led, .twc, .per, .sa, .vu, .hx, .ts, .ob] s (fireAll c
    s) := by
  unfold fireAll
  try dsimp only [-Nat.reducePow]
  repeat' first
    | with_reducible exact Same.refl _
    | with_reducible refine ((same_tryFire ..).mono (by decide)).after ?_
    | with_reducible refine (same_foldl _ ?_ _ _).after ?_
    | with_reducible refine (same_foldl2 _ ?_ _ _).after ?_
    | intro _

theorem same_countStale (t : Token) (k : Nat) (s : State) : Same [.ob] s (countStale t k s) := by
  unfold countStale
  try dsimp only [-Nat.reducePow]
  repeat' first
    | with_reducible exact Same.refl _
    | with_reducible refine ((same_bumpCtx ..).mono (by decide)).after ?_
    | intro _
    | split

theorem same_taskPassed (t : Token) (s : State) : Same [.led] s (taskPassed t s) := by
  unfold taskPassed
  try dsimp only [-Nat.reducePow]
  repeat' first
    | with_reducible exact Same.refl _
    | with_reducible refine ((same_mInst ..).mono (by decide)).after ?_

theorem same_dropInst (i : Inst) (s : State) : Same [.led, .mem] s (dropInst i s) := by
  unfold dropInst
  try dsimp only [-Nat.reducePow]
  repeat' first
    | with_reducible exact Same.refl _
    | with_reducible refine ((same_mLed _ _).mono (by decide)).after ?_
    | with_reducible refine ((same_tagClearOp ..).mono (by decide)).after ?_
    | with_reducible refine (same_eachSlot _ _ _ (by decide) ?_).after ?_
    | intro _

theorem same_raiseAttempt (c : Nat) (e : Bool) (n : Nat) (s : State) : Same [.led, .mem] s (raiseAttempt c e n s) :=
    by
  unfold raiseAttempt
  try dsimp only [-Nat.reducePow]
  repeat' first
    | with_reducible exact Same.refl _
    | with_reducible refine ((same_mStep ..).mono (by decide)).after ?_
    | with_reducible refine ((same_mInst ..).mono (by decide)).after ?_
    | with_reducible refine ((same_tagClearOp ..).mono (by decide)).after ?_
    | with_reducible refine (same_eachSlot _ _ _ (by decide) ?_).after ?_
    | with_reducible refine (same_foldl _ ?_ _ _).after ?_
    | with_reducible refine (same_foldl2 _ ?_ _ _).after ?_
    | intro _

theorem same_mPlan (n : Nat) (f : Plan → Plan) (s : State) : Same [.led] s (State.mPlan n f s) := by
  unfold State.mPlan
  try dsimp only [-Nat.reducePow]
  repeat' first
    | with_reducible exact Same.refl _
    | with_reducible refine ((same_mLed _ _).mono (by decide)).after ?_

theorem same_mLayerCounts (c : Nat) (e : Bool) (step : Nat) (f : LayerCounts → LayerCounts) (s : State) : Same
    [.led] s (mLayerCounts c e step f s) := by
  unfold mLayerCounts
  try dsimp only [-Nat.reducePow]
  repeat' first
    | with_reducible exact Same.refl _
    | with_reducible refine ((same_mPlan ..).mono (by decide)).after ?_
    | intro _
    | split

theorem same_reportOrphans (c : Nat) (s : State) : Same [.ports, .fc, .led, .vu, .hx, .ob] s (reportOrphans c s) := by
  unfold reportOrphans
  try dsimp only [-Nat.reducePow]
  repeat' first
    | with_reducible exact Same.refl _
    | with_reducible refine ((same_mLed _ _).mono (by decide)).after ?_
    | with_reducible refine ((same_reportSelf ..).mono (by decide)).after ?_
    | with_reducible refine (same_foldl _ ?_ _ _).after ?_
    | with_reducible refine (same_foldl2 _ ?_ _ _).after ?_
    | intro _
    | split

theorem same_dropEpoch (c : Nat) (e : Bool) (s : State) : Same [.led, .twc, .vu] s (dropEpoch c e s) := by
  unfold dropEpoch
  try dsimp only [-Nat.reducePow]
  repeat' first
    | with_reducible exact Same.refl _
    | with_reducible refine ((same_mLed _ _).mono (by decide)).after ?_
    | with_reducible refine ((same_mTwc _ _).mono (by decide)).after ?_
    | with_reducible refine ((same_mVu _ _).mono (by decide)).after ?_

theorem same_moveBlock (src : Nat) (dst : Option Nat) (s : State) : Same [.ob] s (moveBlock src dst s) := by
  unfold moveBlock
  try dsimp only [-Nat.reducePow]
  repeat' first
    | with_reducible exact Same.refl _
    | with_reducible refine ((same_mOb _ _).mono (by decide)).after ?_

theorem same_giveUpPlan (c n : Nat) (p : Plan) (kill : Bool) (s : State) : Same [.led, .twc, .sa, .mem, .vu, .ob] s
    (giveUpPlan c n p kill s) := by
  unfold giveUpPlan
  try dsimp only [-Nat.reducePow]
  repeat' first
    | with_reducible exact Same.refl _
    | with_reducible refine ((same_mLed _ _).mono (by decide)).after ?_
    | with_reducible refine ((same_startErasure ..).mono (by decide)).after ?_
    | with_reducible refine ((same_dropEpoch ..).mono (by decide)).after ?_

theorem same_unbind (c : Nat) (s : State) : Same [.sec] s (unbind c s) := by
  unfold unbind
  try dsimp only [-Nat.reducePow]
  repeat' first
    | with_reducible exact Same.refl _
    | with_reducible refine ((same_mSec _ _).mono (by decide)).after ?_
    | intro _
    | split

theorem same_flipEpoch (c : Nat) (w : Switch) (s : State) : Same [.ports, .led, .twc, .per, .sa, .mem, .vu, .hx,
    .ts, .sec, .ob] s (flipEpoch c w s) := by
  unfold flipEpoch
  try dsimp only [-Nat.reducePow]
  repeat' first
    | with_reducible exact Same.refl _
    | with_reducible refine ((same_mLed _ _).mono (by decide)).after ?_
    | with_reducible refine ((same_mCtx ..).mono (by decide)).after ?_
    | with_reducible refine ((same_windowMoved ..).mono (by decide)).after ?_
    | with_reducible refine ((same_fireAll ..).mono (by decide)).after ?_
    | with_reducible refine ((same_moveBlock ..).mono (by decide)).after ?_
    | with_reducible refine ((same_giveUpPlan ..).mono (by decide)).after ?_
    | with_reducible refine ((same_unbind ..).mono (by decide)).after ?_
    | intro _
    | split

theorem same_planEpochFlip (c : Nat) (s : State) : Same [.ports, .led, .twc, .per, .sa, .mem, .vu, .hx, .ts, .sec,
    .ob] s (planEpochFlip c s) := by
  unfold planEpochFlip
  try dsimp only [-Nat.reducePow]
  repeat' first
    | with_reducible exact Same.refl _
    | with_reducible refine ((same_flipEpoch ..).mono (by decide)).after ?_
    | intro _
    | split

theorem same_clusterReconfig (c k : Nat) (s : State) : Same [.ports, .led, .twc, .per, .sa, .vu, .hx, .ts, .ob] s
    (clusterReconfig c k s) := by
  unfold clusterReconfig
  try dsimp only [-Nat.reducePow]
  repeat' first
    | with_reducible exact Same.refl _
    | with_reducible refine ((same_mLed _ _).mono (by decide)).after ?_
    | with_reducible refine ((same_bumpCtx ..).mono (by decide)).after ?_
    | with_reducible refine ((same_mCtx ..).mono (by decide)).after ?_
    | with_reducible refine ((same_mLane ..).mono (by decide)).after ?_
    | with_reducible refine ((same_mCluster ..).mono (by decide)).after ?_
    | with_reducible refine ((same_fireAll ..).mono (by decide)).after ?_
    | with_reducible refine (same_foldl _ ?_ _ _).after ?_
    | with_reducible refine (same_foldl2 _ ?_ _ _).after ?_
    | intro _
    | split

theorem same_drainToDiscard (c : Nat) (s : State) : Same [.ports, .fc, .led, .vu, .hx, .ob] s (drainToDiscard c s)
    := by
  unfold drainToDiscard
  try dsimp only [-Nat.reducePow]
  repeat' first
    | with_reducible exact Same.refl _
    | with_reducible refine ((same_mCtx ..).mono (by decide)).after ?_
    | with_reducible refine ((same_reportOrphans ..).mono (by decide)).after ?_
    | intro _
    | split

theorem same_planReply (port : Nat) (dst : Huid) (kind plan c code : Nat) (s : State) : Same [.ports] s (planReply
    port dst kind plan c code s) := by
  unfold planReply
  try dsimp only [-Nat.reducePow]
  repeat' first
    | with_reducible exact Same.refl _
    | with_reducible refine ((same_send ..).mono (by decide)).after ?_

theorem same_ledAdmit (code c plan table index : Nat) (s : State) : Same [.led] s (ledAdmit code c plan table index
    s) := by
  unfold ledAdmit
  try dsimp only [-Nat.reducePow]
  repeat' first
    | with_reducible exact Same.refl _
    | with_reducible refine ((same_mLed _ _).mono (by decide)).after ?_

theorem same_dropStaging (s : State) : Same [.led, .mem] s (dropStaging s) := by
  unfold dropStaging
  try dsimp only [-Nat.reducePow]
  repeat' first
    | with_reducible exact Same.refl _
    | with_reducible refine ((same_mLed _ _).mono (by decide)).after ?_
    | with_reducible refine ((same_freePages ..).mono (by decide)).after ?_
    | intro _
    | split

theorem same_killPlans (c : Nat) (s : State) : Same [.ports, .fc, .led, .twc, .sa, .mem, .vu, .hx, .ob] s (killPlans
    c s) := by
  unfold killPlans
  try dsimp only [-Nat.reducePow]
  repeat' first
    | with_reducible exact Same.refl _
    | with_reducible refine ((same_mLed _ _).mono (by decide)).after ?_
    | with_reducible refine ((same_mCtx ..).mono (by decide)).after ?_
    | with_reducible refine ((same_reportOrphans ..).mono (by decide)).after ?_
    | with_reducible refine ((same_moveBlock ..).mono (by decide)).after ?_
    | with_reducible refine ((same_giveUpPlan ..).mono (by decide)).after ?_
    | with_reducible refine ((same_dropStaging ..).mono (by decide)).after ?_
    | intro _
    | split

/-! ### Plans -/

theorem same_ingress (kind : Nat) (sub : Option Nat) (p : Ingress) (f : State → State) (s : State) {m : List Part}
    (hm : Part.within [.ports, .fc, .led, .vu, .hx, .ob] m = true) (hf : ∀ s, Same m s (f s)) : Same m s (ingress
      kind sub p f s) := by
  unfold ingress
  try dsimp only [-Nat.reducePow]
  repeat' first
    | with_reducible exact Same.refl _
    | with_reducible refine ((same_badMsg ..).mono (Part.within_trans (by decide) hm)).after ?_
    | with_reducible refine (hf ..).after ?_
    | intro _
    | split

theorem same_planPacket (sub : Nat) (p : Ingress) (f : State → State) (s : State) {m : List Part} (hm : Part.within
    [.ports, .fc, .led, .vu, .hx, .ob] m = true) (hf : ∀ s, Same m s (f s)) : Same m s (planPacket sub p f s) := by
  unfold planPacket
  try dsimp only [-Nat.reducePow]
  repeat' first
    | with_reducible exact Same.refl _
    | with_reducible refine ((same_bump ..).mono (Part.within_trans (by decide) hm)).after ?_
    | with_reducible refine ((same_reportUnit ..).mono (Part.within_trans (by decide) hm)).after ?_
    | with_reducible refine (same_ingress _ _ _ _ _ (Part.within_trans (by decide) hm) ?_).after ?_
    | with_reducible refine (hf ..).after ?_
    | intro _
    | split

theorem same_planOpen (p : Ingress) (s : State) : Same [.ports, .fc, .led, .mem, .vu, .hx, .ob] s (planOpen p s) := by
  unfold planOpen
  try dsimp only [-Nat.reducePow]
  repeat' first
    | with_reducible exact Same.refl _
    | with_reducible refine ((same_mLed _ _).mono (by decide)).after ?_
    | with_reducible refine ((same_tagAllocOp ..).mono (by decide)).after ?_
    | with_reducible refine ((same_planReply ..).mono (by decide)).after ?_
    | with_reducible refine (same_foldl _ ?_ _ _).after ?_
    | with_reducible refine (same_foldl2 _ ?_ _ _).after ?_
    | intro _
    | split

theorem same_planWord (off : Nat) (v : Bytes) (s : State) : Same [.led, .mem, .ob] s (planWord off v s) := by
  unfold planWord
  try dsimp only [-Nat.reducePow]
  repeat' first
    | with_reducible exact Same.refl _
    | with_reducible refine ((same_mLed _ _).mono (by decide)).after ?_
    | with_reducible refine ((same_bump ..).mono (by decide)).after ?_
    | with_reducible refine ((same_bumpCtx ..).mono (by decide)).after ?_
    | with_reducible refine ((same_loftWrite ..).mono (by decide)).after ?_
    | intro _
    | split

theorem same_planData (p : Ingress) (s : State) : Same [.led, .mem, .ob] s (planData p s) := by
  unfold planData
  try dsimp only [-Nat.reducePow]
  repeat' first
    | with_reducible exact Same.refl _
    | with_reducible refine ((same_planWord ..).mono (by decide)).after ?_
    | with_reducible refine (same_foldl _ ?_ _ _).after ?_
    | with_reducible refine (same_foldl2 _ ?_ _ _).after ?_
    | intro _

theorem same_openTimeout (s : State) : Same [.led, .mem] s (openTimeout s) := by
  unfold openTimeout
  try dsimp only [-Nat.reducePow]
  repeat' first
    | with_reducible exact Same.refl _
    | with_reducible refine ((same_dropStaging ..).mono (by decide)).after ?_
    | intro _
    | split

theorem same_retireAnswer (p : Ingress) (c plan code : Nat) (s : State) : Same [.ports, .led] s (retireAnswer p c
    plan code s) := by
  unfold retireAnswer
  try dsimp only [-Nat.reducePow]
  repeat' first
    | with_reducible exact Same.refl _
    | with_reducible refine ((same_planReply ..).mono (by decide)).after ?_
    | with_reducible refine ((same_ledAdmit ..).mono (by decide)).after ?_

theorem same_startRetire (c : Nat) (discard : Bool) (p : Ingress) (plan : Nat) (s : State) : Same [.ports, .fc,
    .led, .vu, .hx, .ob] s (startRetire c discard p plan s) := by
  unfold startRetire
  try dsimp only [-Nat.reducePow]
  repeat' first
    | with_reducible exact Same.refl _
    | with_reducible refine ((same_mCtx ..).mono (by decide)).after ?_
    | with_reducible refine ((same_reportOrphans ..).mono (by decide)).after ?_
    | with_reducible refine ((same_retireAnswer ..).mono (by decide)).after ?_
    | intro _
    | split

theorem same_planRetire (p : Ingress) (s : State) : Same [.ports, .fc, .led, .twc, .sa, .mem, .vu, .hx, .ob] s
    (planRetire p s) := by
  unfold planRetire
  try dsimp only [-Nat.reducePow]
  repeat' first
    | with_reducible exact Same.refl _
    | with_reducible refine ((same_bump ..).mono (by decide)).after ?_
    | with_reducible refine ((same_giveUpPlan ..).mono (by decide)).after ?_
    | with_reducible refine ((same_retireAnswer ..).mono (by decide)).after ?_
    | with_reducible refine ((same_startRetire ..).mono (by decide)).after ?_
    | intro _
    | split

theorem same_sendKey (label : Huid) (id : Nat) (key : W128) (s : State) : Same [.ports] s (sendKey label id key s)
    := by
  unfold sendKey
  try dsimp only [-Nat.reducePow]
  repeat' first
    | with_reducible exact Same.refl _
    | with_reducible refine ((same_sendCore ..).mono (by decide)).after ?_

theorem same_rejectPlan (t : Staging) (code table index : Nat) (s : State) : Same [.ports, .fc, .led, .mem, .vu,
    .hx, .ob] s (rejectPlan t code table index s) := by
  unfold rejectPlan
  try dsimp only [-Nat.reducePow]
  repeat' first
    | with_reducible exact Same.refl _
    | with_reducible refine ((same_bumpCtx ..).mono (by decide)).after ?_
    | with_reducible refine ((same_ringPush ..).mono (by decide)).after ?_
    | with_reducible refine ((same_reportSelf ..).mono (by decide)).after ?_
    | with_reducible refine ((same_planReply ..).mono (by decide)).after ?_
    | with_reducible refine ((same_ledAdmit ..).mono (by decide)).after ?_
    | with_reducible refine ((same_dropStaging ..).mono (by decide)).after ?_

theorem same_admitCounters (p : Plan) (c : Nat) (s : State) : Same [.ob] s (admitCounters p c s) := by
  unfold admitCounters
  try dsimp only [-Nat.reducePow]
  repeat' first
    | with_reducible exact Same.refl _
    | with_reducible refine ((same_bumpCtx ..).mono (by decide)).after ?_

theorem same_admitPlan (t : Staging) (n : Nat) (p : Plan) (img : Bytes) (s : State) : Same [.ports, .fc, .led, .mem,
    .vu, .hx, .ts, .sec, .ob] s (admitPlan t n p img s) := by
  unfold admitPlan
  try dsimp only [-Nat.reducePow]
  repeat' first
    | with_reducible exact Same.refl _
    | with_reducible refine ((same_mLed _ _).mono (by decide)).after ?_
    | with_reducible refine ((same_ringPush ..).mono (by decide)).after ?_
    | with_reducible refine ((same_mCtx ..).mono (by decide)).after ?_
    | with_reducible refine ((same_tagAllocOp ..).mono (by decide)).after ?_
    | with_reducible refine (same_eachSlot _ _ _ (by decide) ?_).after ?_
    | with_reducible refine ((same_requestDomain ..).mono (by decide)).after ?_
    | with_reducible refine ((same_reportOrphans ..).mono (by decide)).after ?_
    | with_reducible refine ((same_moveBlock ..).mono (by decide)).after ?_
    | with_reducible refine ((same_unbind ..).mono (by decide)).after ?_
    | with_reducible refine ((same_planReply ..).mono (by decide)).after ?_
    | with_reducible refine ((same_ledAdmit ..).mono (by decide)).after ?_
    | with_reducible refine ((same_sendKey ..).mono (by decide)).after ?_
    | with_reducible refine ((same_admitCounters ..).mono (by decide)).after ?_
    | with_reducible refine (same_foldl _ ?_ _ _).after ?_
    | with_reducible refine (same_foldl2 _ ?_ _ _).after ?_
    | intro _
    | split

theorem same_admission (s : State) : Same [.ports, .fc, .led, .mem, .vu, .hx, .ts, .sec, .ob] s (admission s) := by
  unfold admission
  try dsimp only [-Nat.reducePow]
  repeat' first
    | with_reducible exact Same.refl _
    | with_reducible refine ((same_requestDomain ..).mono (by decide)).after ?_
    | with_reducible refine ((same_rejectPlan ..).mono (by decide)).after ?_
    | with_reducible refine ((same_admitPlan ..).mono (by decide)).after ?_
    | with_reducible refine (same_foldl _ ?_ _ _).after ?_
    | with_reducible refine (same_foldl2 _ ?_ _ _).after ?_
    | intro _
    | split

/-! ### Capture -/

theorem same_steer (r : SteerSay) (c : Nat) (src : Huid) (f : Plan → Nat → State → State) (s : State) {m : List
    Part} (hm : Part.within [.ports, .fc, .led, .vu, .hx, .ob] m = true) (hf : ∀ a0 a1 s, Same m s (f a0 a1 s)) :
      Same m s (steer r c src f s) := by
  unfold steer
  try dsimp only [-Nat.reducePow]
  repeat' first
    | with_reducible exact Same.refl _
    | with_reducible refine ((same_bumpCtx ..).mono (Part.within_trans (by decide) hm)).after ?_
    | with_reducible refine ((same_haltWith ..).mono (Part.within_trans (by decide) hm)).after ?_
    | with_reducible refine (hf ..).after ?_
    | intro _
    | split

theorem same_bindSlots (c : Nat) (e : Bool) (n : Nat) (p : Plan) (t : TaskE) (s : State) : Same [.ports, .fc, .led,
    .mem, .vu, .hx, .ob] s (bindSlots c e n p t s) := by
  unfold bindSlots
  try dsimp only [-Nat.reducePow]
  repeat' first
    | with_reducible exact Same.refl _
    | with_reducible refine ((same_tagBindOp ..).mono (by decide)).after ?_
    | with_reducible refine (same_eachSlot _ _ _ (by decide) ?_).after ?_
    | intro _

theorem same_needInst (c : Nat) (e : Bool) (n task : Nat) (p : Plan) (s : State) : Same [.ports, .fc, .led, .mem,
    .vu, .hx, .ob] s (needInst c e n task p s) := by
  unfold needInst
  try dsimp only [-Nat.reducePow]
  repeat' first
    | with_reducible exact Same.refl _
    | with_reducible refine ((same_mLed _ _).mono (by decide)).after ?_
    | with_reducible refine ((same_noteStep ..).mono (by decide)).after ?_
    | with_reducible refine ((same_bindSlots ..).mono (by decide)).after ?_
    | intro _
    | split

theorem same_mGroup (c : Nat) (e : Bool) (n task input : Nat) (f : Group → Group) (s : State) : Same [.led] s
    (State.mGroup c e n task input f s) := by
  unfold State.mGroup
  try dsimp only [-Nat.reducePow]
  repeat' first
    | with_reducible exact Same.refl _
    | with_reducible refine ((same_mInst ..).mono (by decide)).after ?_

theorem same_capWrite (slot off : Nat) (b : Bytes) (s : State) : Same [.ports, .fc, .led, .mem, .vu, .hx, .ob] s
    (capWrite slot off b s) := by
  unfold capWrite
  try dsimp only [-Nat.reducePow]
  repeat' first
    | with_reducible exact Same.refl _
    | with_reducible refine ((same_lateWrite ..).mono (by decide)).after ?_
    | with_reducible refine ((same_loftWrite ..).mono (by decide)).after ?_
    | intro _
    | split

theorem same_slotOverrun (c : Nat) (src : Huid) (s : State) : Same [.ports, .fc, .led, .vu, .hx, .ob] s (slotOverrun
    c src s) := by
  unfold slotOverrun
  try dsimp only [-Nat.reducePow]
  repeat' first
    | with_reducible exact Same.refl _
    | with_reducible refine ((same_reportUnit ..).mono (by decide)).after ?_

theorem same_sendXdigest (c : Nat) (e : Bool) (n task : Nat) (p : Plan) (s : State) : Same [.ports, .hx, .ob] s
    (sendXdigest c e n task p s) := by
  unfold sendXdigest
  try dsimp only [-Nat.reducePow]
  repeat' first
    | with_reducible exact Same.refl _
    | with_reducible refine ((same_bumpCtx ..).mono (by decide)).after ?_
    | with_reducible refine ((same_hxSend ..).mono (by decide)).after ?_

theorem same_setGroupFull (c : Nat) (e : Bool) (n task input : Nat) (p : Plan) (s : State) : Same [.ports, .fc,
    .led, .twc, .per, .sa, .mem, .vu, .hx, .ts, .ob] s (setGroupFull c e n task input p s) := by
  unfold setGroupFull
  try dsimp only [-Nat.reducePow]
  repeat' first
    | with_reducible exact Same.refl _
    | with_reducible refine ((same_tagFullOp ..).mono (by decide)).after ?_
    | with_reducible refine (same_eachSlot _ _ _ (by decide) ?_).after ?_
    | with_reducible refine ((same_tryFire ..).mono (by decide)).after ?_
    | with_reducible refine ((same_mGroup ..).mono (by decide)).after ?_
    | with_reducible refine ((same_sendXdigest ..).mono (by decide)).after ?_
    | intro _
    | split

theorem same_addDigest (c : Nat) (e : Bool) (n task input : Nat) (p : Plan) (src : Huid) (value elems : Nat) (s :
    State) : Same [.ports, .fc, .led, .twc, .per, .sa, .mem, .vu, .hx, .ts, .ob] s (addDigest c e n task input p src
      value elems s) := by
  unfold addDigest
  try dsimp only [-Nat.reducePow]
  repeat' first
    | with_reducible exact Same.refl _
    | with_reducible refine ((same_mGroup ..).mono (by decide)).after ?_
    | with_reducible refine ((same_capWrite ..).mono (by decide)).after ?_
    | with_reducible refine ((same_slotOverrun ..).mono (by decide)).after ?_
    | with_reducible refine ((same_setGroupFull ..).mono (by decide)).after ?_
    | intro _
    | split

theorem same_digestRecord (p : Ingress) (s : State) : Same [.ports, .fc, .led, .twc, .per, .sa, .mem, .vu, .hx, .ts,
    .ob] s (digestRecord p s) := by
  unfold digestRecord
  try dsimp only [-Nat.reducePow]
  repeat' first
    | with_reducible exact Same.refl _
    | with_reducible refine ((same_haltWith ..).mono (by decide)).after ?_
    | with_reducible refine (same_steer _ _ _ _ _ (by decide) ?_).after ?_
    | with_reducible refine ((same_needInst ..).mono (by decide)).after ?_
    | with_reducible refine ((same_addDigest ..).mono (by decide)).after ?_
    | intro _
    | split

theorem same_recordPacket (kind : Nat) (p : Ingress) (f : State → State) (s : State) {m : List Part} (hm :
    Part.within [.ports, .fc, .led, .vu, .hx, .ob] m = true) (hf : ∀ s, Same m s (f s)) : Same m s (recordPacket
      kind p f s) := by
  unfold recordPacket
  try dsimp only [-Nat.reducePow]
  repeat' first
    | with_reducible exact Same.refl _
    | with_reducible refine ((same_bump ..).mono (Part.within_trans (by decide) hm)).after ?_
    | with_reducible refine (same_ingress _ _ _ _ _ (Part.within_trans (by decide) hm) ?_).after ?_
    | with_reducible refine (hf ..).after ?_
    | intro _
    | split

theorem same_residueReport (kind c : Nat) (e : Bool) (n tile : Nat) (src : Huid) (s : State) : Same [.ports, .fc,
    .led, .vu, .hx, .ob] s (residueReport kind c e n tile src s) := by
  unfold residueReport
  try dsimp only [-Nat.reducePow]
  repeat' first
    | with_reducible exact Same.refl _
    | with_reducible refine ((same_markStep ..).mono (by decide)).after ?_
    | with_reducible refine ((same_reportUnit ..).mono (by decide)).after ?_

theorem same_rawSettle (c : Nat) (e : Bool) (n task input : Nat) (p : Plan) (src : Huid) (s : State) : Same [.ports,
    .fc, .led, .twc, .per, .sa, .mem, .vu, .hx, .ts, .ob] s (rawSettle c e n task input p src s) := by
  unfold rawSettle
  try dsimp only [-Nat.reducePow]
  repeat' first
    | with_reducible exact Same.refl _
    | with_reducible refine ((same_mGroup ..).mono (by decide)).after ?_
    | with_reducible refine ((same_setGroupFull ..).mono (by decide)).after ?_
    | with_reducible refine ((same_residueReport ..).mono (by decide)).after ?_
    | intro _
    | split

theorem same_addRaw (c : Nat) (e : Bool) (n task input : Nat) (p : Plan) (src : Huid) (off : Nat) (data : Bytes)
    (token : Option Nat) (s : State) : Same [.ports, .fc, .led, .twc, .per, .sa, .mem, .vu, .hx, .ts, .ob] s (addRaw
      c e n task input p src off data token s) := by
  unfold addRaw
  try dsimp only [-Nat.reducePow]
  repeat' first
    | with_reducible exact Same.refl _
    | with_reducible refine ((same_mGroup ..).mono (by decide)).after ?_
    | with_reducible refine ((same_capWrite ..).mono (by decide)).after ?_
    | with_reducible refine ((same_slotOverrun ..).mono (by decide)).after ?_
    | with_reducible refine ((same_rawSettle ..).mono (by decide)).after ?_
    | intro _
    | split

theorem same_combineLpf (c : Nat) (e : Bool) (n task input : Nat) (p : Plan) (src : Huid) (b : Bytes) (s : State) :
    Same [.ports, .fc, .led, .twc, .per, .sa, .mem, .vu, .hx, .ts, .ob] s (combineLpf c e n task input p src b s) :=
      by
  unfold combineLpf
  try dsimp only [-Nat.reducePow]
  repeat' first
    | with_reducible exact Same.refl _
    | with_reducible refine ((same_haltWith ..).mono (by decide)).after ?_
    | with_reducible refine ((same_mGroup ..).mono (by decide)).after ?_
    | with_reducible refine ((same_capWrite ..).mono (by decide)).after ?_
    | with_reducible refine ((same_setGroupFull ..).mono (by decide)).after ?_
    | with_reducible refine ((same_residueReport ..).mono (by decide)).after ?_
    | intro _
    | split

theorem same_addLpf (c : Nat) (e : Bool) (n task input : Nat) (p : Plan) (src : Huid) (off : Nat) (data : Bytes)
    (token : Option Nat) (s : State) : Same [.ports, .fc, .led, .twc, .per, .sa, .mem, .vu, .hx, .ts, .ob] s (addLpf
      c e n task input p src off data token s) := by
  unfold addLpf
  try dsimp only [-Nat.reducePow]
  repeat' first
    | with_reducible exact Same.refl _
    | with_reducible refine ((same_mGroup ..).mono (by decide)).after ?_
    | with_reducible refine ((same_slotOverrun ..).mono (by decide)).after ?_
    | with_reducible refine ((same_combineLpf ..).mono (by decide)).after ?_
    | intro _
    | split

theorem same_dataRecord (pkt : Nat) (p : Ingress) (s : State) : Same [.ports, .fc, .led, .twc, .per, .sa, .mem, .vu,
    .hx, .ts, .ob] s (dataRecord pkt p s) := by
  unfold dataRecord
  try dsimp only [-Nat.reducePow]
  repeat' first
    | with_reducible exact Same.refl _
    | with_reducible refine ((same_mLed _ _).mono (by decide)).after ?_
    | with_reducible refine ((same_bumpCtx ..).mono (by decide)).after ?_
    | with_reducible refine (same_steer _ _ _ _ _ (by decide) ?_).after ?_
    | with_reducible refine ((same_needInst ..).mono (by decide)).after ?_
    | with_reducible refine ((same_addRaw ..).mono (by decide)).after ?_
    | with_reducible refine ((same_addLpf ..).mono (by decide)).after ?_
    | intro _
    | split

theorem same_resumeDeferred (s : State) : Same [.ports, .fc, .led, .twc, .per, .sa, .mem, .vu, .hx, .ts, .ob] s
    (resumeDeferred s) := by
  unfold resumeDeferred
  try dsimp only [-Nat.reducePow]
  repeat' first
    | with_reducible exact Same.refl _
    | with_reducible refine ((same_mLed _ _).mono (by decide)).after ?_
    | with_reducible refine ((same_dataRecord ..).mono (by decide)).after ?_
    | with_reducible refine (same_foldl _ ?_ _ _).after ?_
    | with_reducible refine (same_foldl2 _ ?_ _ _).after ?_
    | intro _
    | split

theorem same_stepDone (p : Ingress) (s : State) : Same [.ports, .fc, .led, .vu, .hx, .ob] s (stepDone p s) := by
  unfold stepDone
  try dsimp only [-Nat.reducePow]
  repeat' first
    | with_reducible exact Same.refl _
    | with_reducible refine ((same_mStep ..).mono (by decide)).after ?_
    | with_reducible refine ((same_noteStep ..).mono (by decide)).after ?_
    | with_reducible refine (same_steer _ _ _ _ _ (by decide) ?_).after ?_
    | intro _

/-! ### Clock -/

theorem same_tick (s : State) : Same [.now] s (tick s) := by
  unfold tick
  split
  · exact Same.refl _
  · exact ⟨rfl, fun x => (x (by decide)).elim, fun x => (x (by decide)).elim, fun _ => rfl, fun _ => rfl, fun _ =>
    rfl, fun _ => rfl, fun _ => rfl, fun _ => rfl, fun _ => rfl, fun _ => rfl, fun _ => rfl, fun _ => rfl, fun _ =>
      rfl, fun _ => rfl, fun _ => rfl, fun _ => rfl, fun _ => rfl, fun _ => rfl, fun _ => rfl, fun _ => rfl, fun _
        => rfl⟩

/-! ### HitchMap -/

theorem same_computeStandby (s : State) : Same [.ports, .hx, .ob] s (computeStandby s) := by
  unfold computeStandby
  try dsimp only [-Nat.reducePow]
  repeat' first
    | with_reducible exact Same.refl _
    | with_reducible refine ((same_mHx _ _).mono (by decide)).after ?_
    | with_reducible refine ((same_hxSend ..).mono (by decide)).after ?_

theorem same_timeLost (s : State) : Same [.ports, .fc, .led, .vu, .hx, .ob] s (timeLost s) := by
  unfold timeLost
  try dsimp only [-Nat.reducePow]
  repeat' first
    | with_reducible exact Same.refl _
    | with_reducible refine ((same_mHx _ _).mono (by decide)).after ?_
    | with_reducible refine ((same_bump ..).mono (by decide)).after ?_
    | with_reducible refine ((same_reportSelf ..).mono (by decide)).after ?_
    | intro _
    | split

theorem same_timeTree (s : State) : Same [.ports, .fc, .led, .vu, .hx, .ob] s (timeTree s) := by
  unfold timeTree
  try dsimp only [-Nat.reducePow]
  repeat' first
    | with_reducible exact Same.refl _
    | with_reducible refine ((same_mHx _ _).mono (by decide)).after ?_
    | with_reducible refine ((same_timeLost ..).mono (by decide)).after ?_
    | intro _
    | split

theorem same_mBarrier (b : Nat) (f : Barrier → Barrier) (s : State) : Same [.ports, .hx, .ob] s (State.mBarrier b f
    s) := by
  unfold State.mBarrier
  try dsimp only [-Nat.reducePow]
  repeat' first
    | with_reducible exact Same.refl _
    | with_reducible refine ((same_mHx _ _).mono (by decide)).after ?_
    | with_reducible refine ((same_stateChanged ..).mono (by decide)).after ?_

theorem same_sendArrive (b : Nat) (s : State) : Same [.ports, .hx, .ob] s (sendArrive b s) := by
  unfold sendArrive
  try dsimp only [-Nat.reducePow]
  repeat' first
    | with_reducible exact Same.refl _
    | with_reducible refine ((same_hxSend ..).mono (by decide)).after ?_

theorem same_barrierArrive (b : Nat) (mask : W64) (s : State) : Same [.ports, .hx, .ob] s (barrierArrive b mask s)
    := by
  unfold barrierArrive
  try dsimp only [-Nat.reducePow]
  repeat' first
    | with_reducible exact Same.refl _
    | with_reducible refine ((same_mHx _ _).mono (by decide)).after ?_
    | with_reducible refine ((same_mBarrier ..).mono (by decide)).after ?_
    | with_reducible refine ((same_sendArrive ..).mono (by decide)).after ?_

theorem same_mapChanged (old : List (Nat × Bool × Bool)) (coord : Nat) (s : State) : Same [.ports, .fc, .led, .vu,
    .hx, .ob] s (mapChanged old coord s) := by
  unfold mapChanged
  try dsimp only [-Nat.reducePow]
  repeat' first
    | with_reducible exact Same.refl _
    | with_reducible refine ((same_mHx _ _).mono (by decide)).after ?_
    | with_reducible refine ((same_computeStandby ..).mono (by decide)).after ?_
    | with_reducible refine ((same_timeTree ..).mono (by decide)).after ?_
    | with_reducible refine ((same_sendArrive ..).mono (by decide)).after ?_
    | with_reducible refine (same_foldl _ ?_ _ _).after ?_
    | with_reducible refine (same_foldl2 _ ?_ _ _).after ?_
    | intro _
    | split

theorem same_sendState (s : State) : Same [.ports, .hx, .ob] s (sendState s) := by
  unfold sendState
  try dsimp only [-Nat.reducePow]
  repeat' first
    | with_reducible exact Same.refl _
    | with_reducible refine ((same_mHx _ _).mono (by decide)).after ?_
    | with_reducible refine ((same_hxMulticast ..).mono (by decide)).after ?_
    | intro _
    | split

theorem same_stateChange (s : State) : Same [.ports, .fc, .led, .vu, .hx, .ob] s (stateChange s) := by
  unfold stateChange
  try dsimp only [-Nat.reducePow]
  repeat' first
    | with_reducible exact Same.refl _
    | with_reducible refine ((same_mHx _ _).mono (by decide)).after ?_
    | with_reducible refine ((same_mapChanged ..).mono (by decide)).after ?_
    | with_reducible refine ((same_sendState ..).mono (by decide)).after ?_
    | intro _
    | split

/-! ### Hrp -/

theorem same_answer (status : Nat) (rdata : W64) (s : State) : Same [.ports, .fc, .led, .vu, .hx, .ob] s (answer
    status rdata s) := by
  unfold answer
  try dsimp only [-Nat.reducePow]
  repeat' first
    | with_reducible exact Same.refl _
    | with_reducible refine ((same_mPorts _ _).mono (by decide)).after ?_
    | with_reducible refine ((same_mHx _ _).mono (by decide)).after ?_
    | with_reducible refine ((same_stateChange ..).mono (by decide)).after ?_
    | intro _
    | split

theorem same_secReport (kind : Nat) (s : State) : Same [.ports, .fc, .led, .vu, .hx, .ob] s (secReport kind s) := by
  unfold secReport
  try dsimp only [-Nat.reducePow]
  repeat' first
    | with_reducible exact Same.refl _
    | with_reducible refine ((same_reportSelf ..).mono (by decide)).after ?_

theorem same_denied (priv : BitVec 2) (s : State) : Same [.ports, .fc, .led, .vu, .hx, .sec, .ob] s (denied priv s)
    := by
  unfold denied
  try dsimp only [-Nat.reducePow]
  repeat' first
    | with_reducible exact Same.refl _
    | with_reducible refine ((same_mSec _ _).mono (by decide)).after ?_
    | with_reducible refine ((same_bump ..).mono (by decide)).after ?_
    | with_reducible refine ((same_answer ..).mono (by decide)).after ?_
    | with_reducible refine ((same_secReport ..).mono (by decide)).after ?_
    | intro _
    | split

theorem same_hrp (f : State → State) (s : State) {m : List Part} (hm : Part.within [] m = true) (hf : ∀ s, Same m s
    (f s)) : Same m s (hrp f s) := by
  unfold hrp
  try dsimp only [-Nat.reducePow]
  repeat' first
    | with_reducible exact Same.refl _
    | with_reducible refine (hf ..).after ?_
    | intro _
    | split

theorem same_operatorWrite (priv : BitVec 2) (f : State → State) (s : State) {m : List Part} (hm : Part.within
    [.ports, .fc, .led, .vu, .hx, .sec, .ob] m = true) (hf : ∀ s, Same m s (f s)) : Same m s (operatorWrite priv f
      s) := by
  unfold operatorWrite
  try dsimp only [-Nat.reducePow]
  repeat' first
    | with_reducible exact Same.refl _
    | with_reducible refine ((same_answer ..).mono (Part.within_trans (by decide) hm)).after ?_
    | with_reducible refine ((same_denied ..).mono (Part.within_trans (by decide) hm)).after ?_
    | with_reducible refine (same_hrp _ _ (Part.within_trans (by decide) hm) ?_).after ?_
    | with_reducible refine (hf ..).after ?_
    | intro _
    | split

/-! ### Snapshot -/

theorem same_snapNow (s : State) : Same [.ports, .hx, .ob] s (snapNow s) := by
  unfold snapNow
  try dsimp only [-Nat.reducePow]
  repeat' first
    | with_reducible exact Same.refl _
    | with_reducible refine ((same_mOb _ _).mono (by decide)).after ?_
    | with_reducible refine ((same_bump ..).mono (by decide)).after ?_
    | with_reducible refine ((same_ringPush ..).mono (by decide)).after ?_

theorem same_mDump (f : Ob → Ob) (s : State) : Same [.ports, .hx, .ob] s (State.mDump f s) := by
  unfold State.mDump
  try dsimp only [-Nat.reducePow]
  repeat' first
    | with_reducible exact Same.refl _
    | with_reducible refine ((same_mOb _ _).mono (by decide)).after ?_
    | with_reducible refine ((same_stateChanged ..).mono (by decide)).after ?_

theorem same_dumpStart (s : State) : Same [.ports, .hx, .ob] s (dumpStart s) := by
  unfold dumpStart
  try dsimp only [-Nat.reducePow]
  repeat' first
    | with_reducible exact Same.refl _
    | with_reducible refine ((same_bump ..).mono (by decide)).after ?_
    | with_reducible refine ((same_snapNow ..).mono (by decide)).after ?_
    | with_reducible refine ((same_mDump ..).mono (by decide)).after ?_
    | intro _
    | split

theorem same_dumpAbort (s : State) : Same [.ports, .fc, .led, .vu, .hx, .ob] s (dumpAbort s) := by
  unfold dumpAbort
  try dsimp only [-Nat.reducePow]
  repeat' first
    | with_reducible exact Same.refl _
    | with_reducible refine ((same_reportSelf ..).mono (by decide)).after ?_
    | with_reducible refine ((same_mDump ..).mono (by decide)).after ?_
    | intro _
    | split

theorem same_locusRecord (m loc : W128) (cls level : Nat) (time : Nat) (s : State) : Same [.ports, .ob] s
    (locusRecord m loc cls level time s) := by
  unfold locusRecord
  try dsimp only [-Nat.reducePow]
  repeat' first
    | with_reducible exact Same.refl _
    | with_reducible refine ((same_bump ..).mono (by decide)).after ?_
    | with_reducible refine ((same_tackWrite ..).mono (by decide)).after ?_
    | intro _
    | split

/-! ### Paddock -/

theorem same_sbPaddock (h : Huid) (st : PadSt) (reason : Nat) (s : State) : Same [.nv, .cfg, .ob] s (sbPaddock h st
    reason s) := by
  unfold sbPaddock
  try dsimp only [-Nat.reducePow]
  repeat' first
    | with_reducible exact Same.refl _
    | with_reducible refine ((same_sbWrite ..).mono (by decide)).after ?_

theorem same_setPad (h : Huid) (st : PadSt) (reason : Nat) (s : State) : Same [.nv, .ports, .cfg, .vu, .hx, .ob] s
    (setPad h st reason s) := by
  unfold setPad
  try dsimp only [-Nat.reducePow]
  repeat' first
    | with_reducible exact Same.refl _
    | with_reducible refine ((same_stateEvent ..).mono (by decide)).after ?_
    | with_reducible refine ((same_mPad ..).mono (by decide)).after ?_
    | with_reducible refine ((same_sbPaddock ..).mono (by decide)).after ?_
    | intro _
    | split

theorem same_noSpare (l h : Huid) (s : State) : Same [.ports, .fc, .led, .vu, .hx, .ob] s (noSpare l h s) := by
  unfold noSpare
  try dsimp only [-Nat.reducePow]
  repeat' first
    | with_reducible exact Same.refl _
    | with_reducible refine ((same_reportUnit ..).mono (by decide)).after ?_
    | with_reducible refine ((same_haltQuiet ..).mono (by decide)).after ?_
    | with_reducible refine (same_foldl _ ?_ _ _).after ?_
    | with_reducible refine (same_foldl2 _ ?_ _ _).after ?_
    | intro _

theorem same_remapFenced (h : Huid) (s : State) : Same [.nv, .ports, .cfg, .fc, .ct, .led, .vu, .ym, .hx, .ob] s
    (remapFenced h s) := by
  unfold remapFenced
  try dsimp only [-Nat.reducePow]
  repeat' first
    | with_reducible exact Same.refl _
    | with_reducible refine ((same_mYm _ _).mono (by decide)).after ?_
    | with_reducible refine ((same_remapLabel (by assumption)).mono (by decide)).after ?_
    | with_reducible refine ((same_noSpare ..).mono (by decide)).after ?_
    | intro _
    | split

theorem same_startFence (h : Huid) (s : State) : Same [.nv, .ports, .cfg, .fc, .ct, .led, .vu, .ym, .hx, .ob] s
    (startFence h s) := by
  unfold startFence
  try dsimp only [-Nat.reducePow]
  repeat' first
    | with_reducible exact Same.refl _
    | with_reducible refine ((same_mYm _ _).mono (by decide)).after ?_
    | with_reducible refine ((same_fenceOrder ..).mono (by decide)).after ?_
    | with_reducible refine ((same_remapFenced ..).mono (by decide)).after ?_
    | intro _
    | split

theorem same_enterFenced (h : Huid) (st : PadSt) (reason : Nat) (s : State) : Same [.nv, .ports, .cfg, .fc, .ct,
    .led, .vu, .ym, .hx, .ob] s (enterFenced h st reason s) := by
  unfold enterFenced
  try dsimp only [-Nat.reducePow]
  repeat' first
    | with_reducible exact Same.refl _
    | with_reducible refine ((same_setPad ..).mono (by decide)).after ?_
    | with_reducible refine ((same_startFence ..).mono (by decide)).after ?_
    | intro _
    | split

theorem same_reinstate (h : Huid) (reason : Nat) (s : State) : Same [.nv, .ports, .cfg, .ct, .vu, .hx, .ob] s
    (reinstate h reason s) := by
  unfold reinstate
  try dsimp only [-Nat.reducePow]
  repeat' first
    | with_reducible exact Same.refl _
    | with_reducible refine ((same_unfenceOrder ..).mono (by decide)).after ?_
    | with_reducible refine ((same_setPad ..).mono (by decide)).after ?_

theorem same_sdcEvent (h : Huid) (eligible : Bool) (s : State) : Same [.nv, .ports, .cfg, .fc, .ct, .led, .vu, .ym,
    .hx, .ob] s (sdcEvent h eligible s).2 := by
  unfold sdcEvent
  try dsimp only [-Nat.reducePow]
  repeat' first
    | with_reducible exact Same.refl _
    | with_reducible refine ((same_mPad ..).mono (by decide)).after ?_
    | with_reducible refine ((same_enterFenced ..).mono (by decide)).after ?_
    | intro _
    | split

theorem same_testEvent (h : Huid) (reason : Nat) (s : State) : Same [.nv, .ports, .cfg, .fc, .ct, .led, .vu, .ym,
    .hx, .ob] s (testEvent h reason s) := by
  unfold testEvent
  try dsimp only [-Nat.reducePow]
  repeat' first
    | with_reducible exact Same.refl _
    | with_reducible refine ((same_enterFenced ..).mono (by decide)).after ?_
    | intro _
    | split

theorem same_testFailed (h : Huid) (source : Nat) (s : State) : Same [.nv, .ports, .cfg, .fc, .ct, .led, .vu, .ym,
    .hx, .ob] s (testFailed h source s) := by
  unfold testFailed
  try dsimp only [-Nat.reducePow]
  repeat' first
    | with_reducible exact Same.refl _
    | with_reducible refine ((same_reportUnit ..).mono (by decide)).after ?_
    | with_reducible refine ((same_sbDefect ..).mono (by decide)).after ?_
    | with_reducible refine ((same_testEvent ..).mono (by decide)).after ?_

theorem same_cleanTest (h : Huid) (s : State) : Same [.nv, .ports, .cfg, .ct, .vu, .hx, .ob] s (cleanTest h s) := by
  unfold cleanTest
  try dsimp only [-Nat.reducePow]
  repeat' first
    | with_reducible exact Same.refl _
    | with_reducible refine ((same_bump ..).mono (by decide)).after ?_
    | with_reducible refine ((same_mPad ..).mono (by decide)).after ?_
    | with_reducible refine ((same_reinstate ..).mono (by decide)).after ?_
    | intro _
    | split

/-! ### Steps -/

theorem same_fireHeldRelease (lane : Nat) (s : State) : Same [.led, .sa] s (fireHeldRelease lane s) := by
  unfold fireHeldRelease
  try dsimp only [-Nat.reducePow]
  repeat' first
    | with_reducible exact Same.refl _
    | with_reducible refine ((same_mLed _ _).mono (by decide)).after ?_
    | with_reducible refine ((same_mLane ..).mono (by decide)).after ?_
    | intro _
    | split

theorem same_resGraceExpiry (c : Nat) (e : Bool) (step32 : Nat) (s : State) : Same [.led] s (resGraceExpiry c e
    step32 s) := by
  unfold resGraceExpiry
  try dsimp only [-Nat.reducePow]
  repeat' first
    | with_reducible exact Same.refl _
    | with_reducible refine ((same_mStep ..).mono (by decide)).after ?_
    | with_reducible refine same_withStep ?_ ?_
    | intro _
    | split

theorem same_abandonXtest (i : Inst) (s : State) : Same [.led, .mem, .ob] s (abandonXtest i s) := by
  unfold abandonXtest
  try dsimp only [-Nat.reducePow]
  repeat' first
    | with_reducible exact Same.refl _
    | with_reducible refine ((same_bumpCtx ..).mono (by decide)).after ?_
    | with_reducible refine ((same_dropInst ..).mono (by decide)).after ?_
    | intro _
    | split

theorem same_dropXhold (c : Nat) (e : Bool) (n : Nat) (s : State) : Same [.twc] s (dropXhold c e n s) := by
  unfold dropXhold
  try dsimp only [-Nat.reducePow]
  repeat' first
    | with_reducible exact Same.refl _
    | with_reducible refine ((same_mTwc _ _).mono (by decide)).after ?_

theorem same_doRelease (c : Nat) (p : Plan) (n : Nat) (s : State) : Same [.ports, .fc, .led, .twc, .per, .sa, .mem,
    .vu, .hx, .ts, .ob] s (doRelease c p n s) := by
  unfold doRelease
  try dsimp only [-Nat.reducePow]
  repeat' first
    | with_reducible exact Same.refl _
    | with_reducible refine ((same_mLed _ _).mono (by decide)).after ?_
    | with_reducible refine ((same_bumpCtx ..).mono (by decide)).after ?_
    | with_reducible refine ((same_traceStep ..).mono (by decide)).after ?_
    | with_reducible refine ((same_mCtx ..).mono (by decide)).after ?_
    | with_reducible refine ((same_sendCore ..).mono (by decide)).after ?_
    | with_reducible refine ((same_windowMoved ..).mono (by decide)).after ?_
    | with_reducible refine ((same_dropInst ..).mono (by decide)).after ?_
    | with_reducible refine ((same_mPlan ..).mono (by decide)).after ?_
    | with_reducible refine ((same_mLayerCounts ..).mono (by decide)).after ?_
    | with_reducible refine ((same_resumeDeferred ..).mono (by decide)).after ?_
    | with_reducible refine ((same_abandonXtest ..).mono (by decide)).after ?_
    | with_reducible refine ((same_dropXhold ..).mono (by decide)).after ?_
    | with_reducible refine (same_foldl _ ?_ _ _).after ?_
    | with_reducible refine (same_foldl2 _ ?_ _ _).after ?_
    | intro _
    | split

theorem same_release (c : Nat) (s : State) : Same [.ports, .fc, .led, .twc, .per, .sa, .mem, .vu, .hx, .ts, .ob] s
    (release c s) := by
  unfold release
  try dsimp only [-Nat.reducePow]
  repeat' first
    | with_reducible exact Same.refl _
    | with_reducible refine ((same_doRelease ..).mono (by decide)).after ?_
    | intro _
    | split

theorem same_stepTimeout (c : Nat) (e : Bool) (step32 : Nat) (s : State) : Same [.ports, .fc, .ct, .led, .twc, .vu,
    .hx, .ob] s (stepTimeout c e step32 s) := by
  unfold stepTimeout
  try dsimp only [-Nat.reducePow]
  repeat' first
    | with_reducible exact Same.refl _
    | with_reducible refine ((same_mStep ..).mono (by decide)).after ?_
    | with_reducible refine ((same_openDispute ..).mono (by decide)).after ?_
    | with_reducible refine ((same_reportCores ..).mono (by decide)).after ?_
    | with_reducible refine ((same_startChains ..).mono (by decide)).after ?_
    | with_reducible refine ((same_drainToDiscard ..).mono (by decide)).after ?_
    | with_reducible refine ((same_dropXhold ..).mono (by decide)).after ?_
    | with_reducible refine same_withStep ?_ ?_
    | intro _
    | split

/-! ### Engines -/

theorem same_voidTask (p : Plan) (t : Token) (s : State) : Same [.ports, .fc, .led, .mem, .vu, .hx, .ob] s (voidTask
    p t s) := by
  unfold voidTask
  try dsimp only [-Nat.reducePow]
  repeat' first
    | with_reducible exact Same.refl _
    | with_reducible refine ((same_loftUe ..).mono (by decide)).after ?_

theorem same_fencePaths (a b : Bool) (s : State) : Same [.ports, .fc, .led, .twc, .vu, .hx, .ob] s (fencePaths a b
    s) := by
  unfold fencePaths
  try dsimp only [-Nat.reducePow]
  repeat' first
    | with_reducible exact Same.refl _
    | with_reducible refine ((same_mTwc _ _).mono (by decide)).after ?_
    | with_reducible refine ((same_reportSelf ..).mono (by decide)).after ?_
    | intro _
    | split

theorem same_twcKat (passA passB : Bool) (s : State) : Same [.ports, .fc, .led, .twc, .vu, .hx, .ob] s (twcKat passA
    passB s) := by
  unfold twcKat
  try dsimp only [-Nat.reducePow]
  repeat' first
    | with_reducible exact Same.refl _
    | with_reducible refine ((same_reportSelf ..).mono (by decide)).after ?_
    | with_reducible refine ((same_fencePaths ..).mono (by decide)).after ?_
    | intro _
    | split

theorem same_fencePipe (k : Nat) (s : State) : Same [.nv, .ports, .cfg, .fc, .led, .per, .vu, .hx, .ob] s (fencePipe
    k s) := by
  unfold fencePipe
  try dsimp only [-Nat.reducePow]
  repeat' first
    | with_reducible exact Same.refl _
    | with_reducible refine ((same_mPer _ _).mono (by decide)).after ?_
    | with_reducible refine ((same_reportSelf ..).mono (by decide)).after ?_
    | with_reducible refine ((same_sbDefect ..).mono (by decide)).after ?_
    | intro _
    | split

theorem same_pipeKat (k : Nat) (pass : Bool) (s : State) : Same [.nv, .ports, .cfg, .fc, .led, .per, .vu, .hx, .ob]
    s (pipeKat k pass s) := by
  unfold pipeKat
  try dsimp only [-Nat.reducePow]
  repeat' first
    | with_reducible exact Same.refl _
    | with_reducible refine ((same_mPer _ _).mono (by decide)).after ?_
    | with_reducible refine ((same_bump ..).mono (by decide)).after ?_
    | with_reducible refine ((same_reportSelf ..).mono (by decide)).after ?_
    | with_reducible refine ((same_fencePipe ..).mono (by decide)).after ?_
    | intro _
    | split

theorem same_rehome (l : Nat) (toks : List Token) (s : State) : Same [.led, .sa, .vu, .ts, .ob] s (rehome l toks s)
    := by
  unfold rehome
  refine same_foldl _ (fun s t => ?_) _ _
  split
  · exact Same.refl _
  · split
    · exact ((same_laneEnqueue ..).mono (by decide)).after (((same_bumpCtx ..).mono (by decide)).after (Same.of_pair
      ((same_takeLane ..).mono (by decide)) (by assumption)))
    · exact ((same_noLane ..).mono (by decide)).after (Same.of_pair ((same_takeLane ..).mono (by decide)) (by
      assumption))

theorem same_fenceLane (l : Nat) (s : State) : Same [.nv, .ports, .cfg, .fc, .led, .sa, .vu, .hx, .ts, .ob] s
    (fenceLane l s) := by
  unfold fenceLane
  dsimp only
  split
  · exact Same.refl _
  refine ((same_rehome ..).mono (by decide)).after ?_
  repeat' first
    | with_reducible exact Same.refl _
    | with_reducible refine ((same_mLane ..).mono (by decide)).after ?_
    | with_reducible refine ((same_bumpCtx ..).mono (by decide)).after ?_
    | with_reducible refine ((same_noLane ..).mono (by decide)).after ?_
    | with_reducible refine (Same.of_pair ((same_takeLane ..).mono (by decide)) (by assumption)).after ?_
    | with_reducible refine ((same_reportSelf ..).mono (by decide)).after ?_
    | with_reducible refine ((same_sbDefect ..).mono (by decide)).after ?_
    | with_reducible refine ((same_mLed ..).mono (by decide)).after ?_
    | split

theorem same_laneKat (l : Nat) (pass : Bool) (s : State) : Same [.nv, .ports, .cfg, .fc, .led, .sa, .vu, .hx, .ts,
    .ob] s (laneKat l pass s) := by
  unfold laneKat
  try dsimp only [-Nat.reducePow]
  repeat' first
    | with_reducible exact Same.refl _
    | with_reducible refine ((same_bump ..).mono (by decide)).after ?_
    | with_reducible refine ((same_report ..).mono (by decide)).after ?_
    | with_reducible refine ((same_mLane ..).mono (by decide)).after ?_
    | with_reducible refine ((same_mCluster ..).mono (by decide)).after ?_
    | with_reducible refine ((same_fenceLane ..).mono (by decide)).after ?_
    | intro _
    | split

/-! ### Xdie -/

theorem same_consume (p : HxPkt) (s : State) : Same [.hx] s (consume p s) := by
  unfold consume
  try dsimp only [-Nat.reducePow]
  repeat' first
    | with_reducible exact Same.refl _
    | with_reducible refine ((same_mHx _ _).mono (by decide)).after ?_

theorem same_xdieBind (x : XDig) (own : Nat) (s : State) : Same [.ports, .fc, .led, .vu, .hx, .ob] s (xdieBind x own
    s) := by
  unfold xdieBind
  try dsimp only [-Nat.reducePow]
  repeat' first
    | with_reducible exact Same.refl _
    | with_reducible refine ((same_reportSelf ..).mono (by decide)).after ?_
    | with_reducible refine ((same_haltQuiet ..).mono (by decide)).after ?_

theorem same_xhold (p : HxPkt) (c : Nat) (s : State) : Same [.twc, .ob] s (xhold p c s) := by
  unfold xhold
  try dsimp only [-Nat.reducePow]
  repeat' first
    | with_reducible exact Same.refl _
    | with_reducible refine ((same_mTwc _ _).mono (by decide)).after ?_
    | with_reducible refine ((same_bumpCtx ..).mono (by decide)).after ?_
    | intro _
    | split

theorem same_xdigestTake (x : XDig) (p : Plan) (n : Nat) (s : State) : Same [.ports, .fc, .led, .twc, .per, .sa,
    .mem, .vu, .hx, .ts, .ob] s (xdigestTake x p n s) := by
  unfold xdigestTake
  try dsimp only [-Nat.reducePow]
  repeat' first
    | with_reducible exact Same.refl _
    | with_reducible refine ((same_bumpCtx ..).mono (by decide)).after ?_
    | with_reducible refine ((same_needInst ..).mono (by decide)).after ?_
    | with_reducible refine ((same_addDigest ..).mono (by decide)).after ?_
    | with_reducible refine ((same_xdieBind ..).mono (by decide)).after ?_
    | intro _
    | split

theorem same_xdigestSteer (p : HxPkt) (s : State) : Same [.ports, .fc, .led, .twc, .per, .sa, .mem, .vu, .hx, .ts,
    .ob] s (xdigestSteer p s) := by
  unfold xdigestSteer
  try dsimp only [-Nat.reducePow]
  repeat' first
    | with_reducible exact Same.refl _
    | with_reducible refine ((same_bumpCtx ..).mono (by decide)).after ?_
    | with_reducible refine ((same_xhold ..).mono (by decide)).after ?_
    | with_reducible refine ((same_xdigestTake ..).mono (by decide)).after ?_
    | intro _
    | split

theorem same_xholdSteer (c : Nat) (e : Bool) (n : Nat) (s : State) : Same [.ports, .fc, .led, .twc, .per, .sa, .mem,
    .vu, .hx, .ts, .ob] s (xholdSteer c e n s) := by
  unfold xholdSteer
  try dsimp only [-Nat.reducePow]
  repeat' first
    | with_reducible exact Same.refl _
    | with_reducible refine ((same_mTwc _ _).mono (by decide)).after ?_
    | with_reducible refine ((same_xdigestSteer ..).mono (by decide)).after ?_
    | with_reducible refine (same_foldl _ ?_ _ _).after ?_
    | with_reducible refine (same_foldl2 _ ?_ _ _).after ?_
    | intro _

end Sys2Proof.Machine
end

