-- ==== Sys2Proof/Laws/Units3.lean ====
section
/-!
SUPPORT. The units that the operations of these files of the machine may change: Verdict, Distil, Procedure, Testing,
MusterOps, Yard, Tracker.
-/
namespace Sys2Proof.Machine

/-! ### Verdict -/

theorem same_mProc (d : Dispute) (f : Proc → Proc) (s : State) : Same [.vu] s (State.mProc d f s) := by
  unfold State.mProc
  try dsimp only [-Nat.reducePow]
  repeat' first
    | with_reducible exact Same.refl _
    | with_reducible refine ((same_mVu _ _).mono (by decide)).after ?_

theorem same_endProc (d : Dispute) (s : State) : Same [.vu] s (endProc d s) := by
  unfold endProc
  try dsimp only [-Nat.reducePow]
  repeat' first
    | with_reducible exact Same.refl _
    | with_reducible refine ((same_mVu _ _).mono (by decide)).after ?_

theorem same_nextReq (s : State) : Same [.vu] s (nextReq s).2 := by
  unfold nextReq
  try dsimp only [-Nat.reducePow]
  repeat' first
    | with_reducible exact Same.refl _
    | with_reducible refine ((same_mVu _ _).mono (by decide)).after ?_

theorem same_sendSettle (sub c header elem : Nat) (partner : Huid) (payload : Bytes) (l : Huid) (s : State) : Same
    [.ports, .ob] s (sendSettle sub c header elem partner payload l s) := by
  unfold sendSettle
  try dsimp only [-Nat.reducePow]
  repeat' first
    | with_reducible exact Same.refl _
    | with_reducible refine ((same_bumpCtx ..).mono (by decide)).after ?_
    | with_reducible refine ((same_sendCore ..).mono (by decide)).after ?_

theorem same_askRound (d : Dispute) (ph : Phase) (sub lo width : Nat) (partner : Huid) (labels : List Huid) (s :
    State) : Same [.ports, .vu, .ob] s (askRound d ph sub lo width partner labels s) := by
  unfold askRound
  try dsimp only [-Nat.reducePow]
  repeat' first
    | with_reducible exact Same.refl _
    | with_reducible refine ((same_mProc ..).mono (by decide)).after ?_
    | with_reducible refine ((same_nextReq ..).mono (by decide)).after ?_
    | with_reducible refine ((same_sendSettle ..).mono (by decide)).after ?_
    | with_reducible refine (same_foldl _ ?_ _ _).after ?_
    | with_reducible refine (same_foldl2 _ ?_ _ _).after ?_
    | intro _

theorem same_recordVerdict (d : Dispute) (v : Nat) (named : Option (Nat × Huid)) (e : Nat) (s : State) : Same
    [.ports, .led, .vu, .hx, .ob] s (recordVerdict d v named e s) := by
  unfold recordVerdict
  try dsimp only [-Nat.reducePow]
  repeat' first
    | with_reducible exact Same.refl _
    | with_reducible refine ((same_mVu _ _).mono (by decide)).after ?_
    | with_reducible refine ((same_bumpCtx ..).mono (by decide)).after ?_
    | with_reducible refine ((same_tackWrite ..).mono (by decide)).after ?_
    | with_reducible refine ((same_ringPush ..).mono (by decide)).after ?_
    | with_reducible refine ((same_mLayerCounts ..).mono (by decide)).after ?_

theorem same_reportVerdict (d : Dispute) (v : Nat) (named : Option (Nat × Huid)) (s : State) : Same [.ports, .fc,
    .led, .vu, .hx, .ob] s (reportVerdict d v named s) := by
  unfold reportVerdict
  try dsimp only [-Nat.reducePow]
  repeat' first
    | with_reducible exact Same.refl _
    | with_reducible refine ((same_reportUnit ..).mono (by decide)).after ?_
    | with_reducible refine ((same_reportCores ..).mono (by decide)).after ?_
    | intro _
    | split

theorem same_tellPeer (d : Dispute) (v : Nat) (named : Option (Nat × Huid)) (e : Nat) (s : State) : Same [.ports,
    .vu, .hx, .ob] s (tellPeer d v named e s) := by
  unfold tellPeer
  try dsimp only [-Nat.reducePow]
  repeat' first
    | with_reducible exact Same.refl _
    | with_reducible refine ((same_mVu _ _).mono (by decide)).after ?_
    | with_reducible refine ((same_hxSend ..).mono (by decide)).after ?_
    | intro _
    | split

theorem same_conclude (d : Dispute) (v : Nat) (named : Option (Nat × Huid)) (e : Nat) (s : State) : Same [.ports,
    .fc, .led, .vu, .hx, .ob] s (conclude d v named e s) := by
  unfold conclude
  try dsimp only [-Nat.reducePow]
  repeat' first
    | with_reducible exact Same.refl _
    | with_reducible refine ((same_endProc ..).mono (by decide)).after ?_
    | with_reducible refine ((same_recordVerdict ..).mono (by decide)).after ?_
    | with_reducible refine ((same_reportVerdict ..).mono (by decide)).after ?_
    | with_reducible refine ((same_tellPeer ..).mono (by decide)).after ?_

theorem same_haltUnresolved (d : Dispute) (s : State) : Same [.ports, .fc, .led, .vu, .hx, .ob] s (haltUnresolved d
    s) := by
  unfold haltUnresolved
  try dsimp only [-Nat.reducePow]
  repeat' first
    | with_reducible exact Same.refl _
    | with_reducible refine ((same_mStep ..).mono (by decide)).after ?_
    | with_reducible refine ((same_haltQuiet ..).mono (by decide)).after ?_
    | with_reducible refine ((same_drainToDiscard ..).mono (by decide)).after ?_

theorem same_unresolved (d : Dispute) (s : State) : Same [.ports, .fc, .led, .vu, .hx, .ob] s (unresolved d s) := by
  unfold unresolved
  try dsimp only [-Nat.reducePow]
  repeat' first
    | with_reducible exact Same.refl _
    | with_reducible refine ((same_conclude ..).mono (by decide)).after ?_
    | with_reducible refine ((same_haltUnresolved ..).mono (by decide)).after ?_
    | intro _
    | split

theorem same_replayStep (k : StepKey) (s : State) : Same [.ports, .fc, .led, .twc, .per, .sa, .mem, .vu, .hx, .ts,
    .ob] s (replayStep k s) := by
  unfold replayStep
  try dsimp only [-Nat.reducePow]
  repeat' first
    | with_reducible exact Same.refl _
    | with_reducible refine ((same_bumpCtx ..).mono (by decide)).after ?_
    | with_reducible refine ((same_raiseAttempt ..).mono (by decide)).after ?_
    | with_reducible refine ((same_mLayerCounts ..).mono (by decide)).after ?_
    | with_reducible refine ((same_xholdSteer ..).mono (by decide)).after ?_

theorem same_orderReplay (d : Dispute) (cause : Nat) (s : State) : Same [.ports, .fc, .led, .twc, .per, .sa, .mem,
    .vu, .hx, .ts, .ob] s (orderReplay d cause s) := by
  unfold orderReplay
  try dsimp only [-Nat.reducePow]
  repeat' first
    | with_reducible exact Same.refl _
    | with_reducible refine ((same_mVu _ _).mono (by decide)).after ?_
    | with_reducible refine ((same_unresolved ..).mono (by decide)).after ?_
    | with_reducible refine ((same_replayStep ..).mono (by decide)).after ?_
    | with_reducible refine (same_foldl _ ?_ _ _).after ?_
    | with_reducible refine (same_foldl2 _ ?_ _ _).after ?_
    | intro _
    | split

theorem same_inputReplay (d : Dispute) (s : State) : Same [.ports, .fc, .led, .twc, .per, .sa, .mem, .vu, .hx, .ts,
    .ob] s (inputReplay d s) := by
  unfold inputReplay
  try dsimp only [-Nat.reducePow]
  repeat' first
    | with_reducible exact Same.refl _
    | with_reducible refine ((same_mStep ..).mono (by decide)).after ?_
    | with_reducible refine ((same_conclude ..).mono (by decide)).after ?_
    | with_reducible refine ((same_orderReplay ..).mono (by decide)).after ?_

theorem same_inputSuspect (d : Dispute) (s : State) : Same [.ports, .fc, .ct, .led, .twc, .per, .sa, .mem, .vu, .hx,
    .ts, .ob] s (inputSuspect d s) := by
  unfold inputSuspect
  try dsimp only [-Nat.reducePow]
  repeat' first
    | with_reducible exact Same.refl _
    | with_reducible refine ((same_scOrder ..).mono (by decide)).after ?_
    | with_reducible refine ((same_mProc ..).mono (by decide)).after ?_
    | with_reducible refine ((same_endProc ..).mono (by decide)).after ?_
    | with_reducible refine ((same_unresolved ..).mono (by decide)).after ?_
    | with_reducible refine ((same_inputReplay ..).mono (by decide)).after ?_
    | with_reducible refine (same_foldl _ ?_ _ _).after ?_
    | with_reducible refine (same_foldl2 _ ?_ _ _).after ?_
    | intro _
    | split

theorem same_scrubDone (w : W64) (n : Nat) (ok : Bool) (s : State) : Same [.ports, .fc, .led, .twc, .per, .sa, .mem,
    .vu, .hx, .ts, .ob] s (scrubDone w n ok s) := by
  unfold scrubDone
  try dsimp only [-Nat.reducePow]
  repeat' first
    | with_reducible exact Same.refl _
    | with_reducible refine ((same_mProc ..).mono (by decide)).after ?_
    | with_reducible refine ((same_unresolved ..).mono (by decide)).after ?_
    | with_reducible refine ((same_inputReplay ..).mono (by decide)).after ?_
    | intro _
    | split

theorem same_noCheckerCase (d : Dispute) (s : State) : Same [.ports, .fc, .led, .vu, .hx, .ob] s (noCheckerCase d s)
    := by
  unfold noCheckerCase
  try dsimp only [-Nat.reducePow]
  repeat' first
    | with_reducible exact Same.refl _
    | with_reducible refine ((same_bumpCtx ..).mono (by decide)).after ?_
    | with_reducible refine ((same_taskPassed ..).mono (by decide)).after ?_
    | with_reducible refine ((same_mLayerCounts ..).mono (by decide)).after ?_
    | with_reducible refine ((same_endProc ..).mono (by decide)).after ?_
    | with_reducible refine ((same_unresolved ..).mono (by decide)).after ?_
    | intro _
    | split

theorem same_awaitRedispatch (d : Dispute) (s : State) : Same [.vu] s (awaitRedispatch d s) := by
  unfold awaitRedispatch
  try dsimp only [-Nat.reducePow]
  repeat' first
    | with_reducible exact Same.refl _
    | with_reducible refine ((same_mProc ..).mono (by decide)).after ?_

theorem same_redispatch (d : Dispute) (t : TaskE) (p : Plan) (s : State) : Same [.ports, .fc, .led, .twc, .per, .sa,
    .vu, .hx, .ob] s (redispatch d t p s) := by
  unfold redispatch
  try dsimp only [-Nat.reducePow]
  repeat' first
    | with_reducible exact Same.refl _
    | with_reducible refine ((same_mTwc _ _).mono (by decide)).after ?_
    | with_reducible refine ((same_mPer _ _).mono (by decide)).after ?_
    | with_reducible refine ((same_laneEnqueue ..).mono (by decide)).after ?_
    | with_reducible refine ((same_noCheckerCase ..).mono (by decide)).after ?_
    | with_reducible refine ((same_awaitRedispatch ..).mono (by decide)).after ?_
    | intro _
    | split

theorem same_fenceChecker (d : Dispute) (t : TaskE) (s : State) : Same [.draws, .nv, .ports, .cfg, .fc, .led, .twc,
    .per, .sa, .vu, .hx, .ts, .ob] s (fenceChecker d t s) := by
  unfold fenceChecker
  try dsimp only [-Nat.reducePow]
  repeat' first
    | with_reducible exact Same.refl _
    | with_reducible refine ((same_draw _).mono (by decide)).after ?_
    | with_reducible refine ((same_fencePaths ..).mono (by decide)).after ?_
    | with_reducible refine ((same_fencePipe ..).mono (by decide)).after ?_
    | with_reducible refine ((same_fenceLane ..).mono (by decide)).after ?_
    | intro _
    | split

theorem same_checkerFault (d : Dispute) (s : State) : Same [.draws, .nv, .ports, .cfg, .fc, .led, .twc, .per, .sa,
    .vu, .hx, .ts, .ob] s (checkerFault d s) := by
  unfold checkerFault
  try dsimp only [-Nat.reducePow]
  repeat' first
    | with_reducible exact Same.refl _
    | with_reducible refine ((same_mInst ..).mono (by decide)).after ?_
    | with_reducible refine ((same_endProc ..).mono (by decide)).after ?_
    | with_reducible refine ((same_unresolved ..).mono (by decide)).after ?_
    | with_reducible refine ((same_redispatch ..).mono (by decide)).after ?_
    | with_reducible refine ((same_fenceChecker ..).mono (by decide)).after ?_
    | intro _
    | split

theorem same_redispatchReturned (t : Token) (s : State) : Same [.ports, .fc, .led, .vu, .hx, .ob] s
    (redispatchReturned t s) := by
  unfold redispatchReturned
  try dsimp only [-Nat.reducePow]
  repeat' first
    | with_reducible exact Same.refl _
    | with_reducible refine ((same_conclude ..).mono (by decide)).after ?_
    | intro _
    | split

theorem same_askFeed (d : Dispute) (third : Huid) (e lo terms : Nat) (l : LayerE) (s : State) : Same [.ports, .vu,
    .ob] s (askFeed d third e lo terms l s) := by
  unfold askFeed
  try dsimp only [-Nat.reducePow]
  repeat' first
    | with_reducible exact Same.refl _
    | with_reducible refine ((same_mVu _ _).mono (by decide)).after ?_
    | with_reducible refine ((same_nextReq ..).mono (by decide)).after ?_
    | with_reducible refine ((same_sendSettle ..).mono (by decide)).after ?_

theorem same_startDistil (d : Dispute) (h third : Huid) (e : Nat) (s : State) : Same [.ports, .vu, .hx, .ob] s
    (startDistil d h third e s) := by
  unfold startDistil
  try dsimp only [-Nat.reducePow]
  repeat' first
    | with_reducible exact Same.refl _
    | with_reducible refine ((same_mVu _ _).mono (by decide)).after ?_
    | with_reducible refine ((same_bumpCtx ..).mono (by decide)).after ?_
    | with_reducible refine ((same_stateEvent ..).mono (by decide)).after ?_
    | with_reducible refine ((same_askFeed ..).mono (by decide)).after ?_
    | intro _
    | split

theorem same_failCore (d : Dispute) (side : Nat) (h : Huid) (e : Option Nat) (third : Huid) (s : State) : Same [.nv,
    .ports, .cfg, .fc, .ct, .led, .twc, .per, .sa, .mem, .vu, .ym, .hx, .ts, .ob] s (failCore d side h e third s) :=
      by
  unfold failCore
  try dsimp only [-Nat.reducePow]
  repeat' first
    | with_reducible exact Same.refl _
    | with_reducible refine ((same_sbDefect ..).mono (by decide)).after ?_
    | with_reducible refine ((same_sdcEvent ..).mono (by decide)).after ?_
    | with_reducible refine ((same_testEvent ..).mono (by decide)).after ?_
    | with_reducible refine ((same_conclude ..).mono (by decide)).after ?_
    | with_reducible refine ((same_orderReplay ..).mono (by decide)).after ?_
    | with_reducible refine ((same_startDistil ..).mono (by decide)).after ?_
    | intro _
    | split

/-! ### Distil -/

theorem same_laneProbe (l : LayerE) (e : Nat) (a b : List (Nat × Nat)) (s : State) : Same [.draws] s (laneProbe l e
    a b s).2 := by
  unfold laneProbe
  try dsimp only [-Nat.reducePow]
  repeat' first
    | with_reducible exact Same.refl _
    | with_reducible refine ((same_draw _).mono (by decide)).after ?_
    | intro _
    | split

theorem same_mDistil (f : Distil → Distil) (s : State) : Same [.vu] s (State.mDistil f s) := by
  unfold State.mDistil
  try dsimp only [-Nat.reducePow]
  repeat' first
    | with_reducible exact Same.refl _
    | with_reducible refine ((same_mVu _ _).mono (by decide)).after ?_

theorem same_sendProbe (x : Distil) (lo w : Nat) (s : State) : Same [.ports, .vu, .ob] s (sendProbe x lo w s) := by
  unfold sendProbe
  try dsimp only [-Nat.reducePow]
  repeat' first
    | with_reducible exact Same.refl _
    | with_reducible refine ((same_nextReq ..).mono (by decide)).after ?_
    | with_reducible refine ((same_sendSettle ..).mono (by decide)).after ?_
    | with_reducible refine ((same_mDistil ..).mono (by decide)).after ?_

theorem same_endDistil (result : Nat) (s : State) : Same [.ports, .vu, .hx, .ob] s (endDistil result s) := by
  unfold endDistil
  try dsimp only [-Nat.reducePow]
  repeat' first
    | with_reducible exact Same.refl _
    | with_reducible refine ((same_mVu _ _).mono (by decide)).after ?_
    | with_reducible refine ((same_stateEvent ..).mono (by decide)).after ?_
    | with_reducible refine ((same_nextReq ..).mono (by decide)).after ?_
    | with_reducible refine ((same_sendSettle ..).mono (by decide)).after ?_
    | intro _
    | split

theorem same_abandonDistil (result : Nat) (s : State) : Same [.nv, .ports, .cfg, .vu, .hx, .ob] s (abandonDistil
    result s) := by
  unfold abandonDistil
  try dsimp only [-Nat.reducePow]
  repeat' first
    | with_reducible exact Same.refl _
    | with_reducible refine ((same_setPad ..).mono (by decide)).after ?_
    | with_reducible refine ((same_endDistil ..).mono (by decide)).after ?_
    | intro _
    | split

theorem same_signWith (slot : Nat) (b : Bytes) (s : State) : Same [.draws] s (signWith slot b s).2 := by
  unfold signWith
  try dsimp only [-Nat.reducePow]
  repeat' first
    | with_reducible exact Same.refl _
    | with_reducible refine ((same_draw _).mono (by decide)).after ?_

theorem same_makeRecord (x : Distil) (cand : Nat) (s : State) : Same [.draws, .nv, .cfg, .vu, .ob] s (makeRecord x
    cand s) := by
  unfold makeRecord
  try dsimp only [-Nat.reducePow]
  repeat' first
    | with_reducible exact Same.refl _
    | with_reducible refine ((same_mVu _ _).mono (by decide)).after ?_
    | with_reducible refine ((same_bumpCtx ..).mono (by decide)).after ?_
    | with_reducible refine ((same_sbWrite ..).mono (by decide)).after ?_
    | with_reducible refine ((same_signWith ..).mono (by decide)).after ?_
    | intro _
    | split

theorem same_searchOn (x : Distil) (n : Nat) (s : State) : Same [.ports, .vu, .hx, .ob] s (searchOn x n s) := by
  unfold searchOn
  try dsimp only [-Nat.reducePow]
  repeat' first
    | with_reducible exact Same.refl _
    | with_reducible refine ((same_nextReq ..).mono (by decide)).after ?_
    | with_reducible refine ((same_sendSettle ..).mono (by decide)).after ?_
    | with_reducible refine ((same_mDistil ..).mono (by decide)).after ?_
    | with_reducible refine ((same_endDistil ..).mono (by decide)).after ?_
    | intro _
    | split

theorem same_beginSearch (x : Distil) (s : State) : Same [.draws, .ports, .vu, .hx, .ob] s (beginSearch x s) := by
  unfold beginSearch
  try dsimp only [-Nat.reducePow]
  repeat' first
    | with_reducible exact Same.refl _
    | with_reducible refine ((same_mVu _ _).mono (by decide)).after ?_
    | with_reducible refine ((same_draw _).mono (by decide)).after ?_
    | with_reducible refine ((same_stateEvent ..).mono (by decide)).after ?_
    | with_reducible refine ((same_endDistil ..).mono (by decide)).after ?_
    | with_reducible refine ((same_searchOn ..).mono (by decide)).after ?_
    | intro _
    | split

theorem same_bisectOn (x : Distil) (s : State) : Same [.draws, .ports, .vu, .hx, .ob] s (bisectOn x s) := by
  unfold bisectOn
  try dsimp only [-Nat.reducePow]
  repeat' first
    | with_reducible exact Same.refl _
    | with_reducible refine ((same_mDistil ..).mono (by decide)).after ?_
    | with_reducible refine ((same_sendProbe ..).mono (by decide)).after ?_
    | with_reducible refine ((same_beginSearch ..).mono (by decide)).after ?_
    | intro _
    | split

theorem same_probeReply (x : Distil) (core : Nat) (s : State) : Same [.draws, .nv, .ports, .cfg, .vu, .hx, .ob] s
    (probeReply x core s) := by
  unfold probeReply
  try dsimp only [-Nat.reducePow]
  repeat' first
    | with_reducible exact Same.refl _
    | with_reducible refine ((same_mVu _ _).mono (by decide)).after ?_
    | with_reducible refine ((same_stateEvent ..).mono (by decide)).after ?_
    | with_reducible refine ((same_setPad ..).mono (by decide)).after ?_
    | with_reducible refine ((same_laneProbe ..).mono (by decide)).after ?_
    | with_reducible refine ((same_sendProbe ..).mono (by decide)).after ?_
    | with_reducible refine ((same_endDistil ..).mono (by decide)).after ?_
    | with_reducible refine ((same_makeRecord ..).mono (by decide)).after ?_
    | with_reducible refine ((same_searchOn ..).mono (by decide)).after ?_
    | with_reducible refine ((same_beginSearch ..).mono (by decide)).after ?_
    | with_reducible refine ((same_bisectOn ..).mono (by decide)).after ?_
    | intro _
    | split

theorem same_feedReply (x : Distil) (b : Bytes) (s : State) : Same [.ports, .vu, .hx, .ob] s (feedReply x b s) := by
  unfold feedReply
  try dsimp only [-Nat.reducePow]
  repeat' first
    | with_reducible exact Same.refl _
    | with_reducible refine ((same_mVu _ _).mono (by decide)).after ?_
    | with_reducible refine ((same_stateEvent ..).mono (by decide)).after ?_
    | with_reducible refine ((same_askFeed ..).mono (by decide)).after ?_
    | with_reducible refine ((same_sendProbe ..).mono (by decide)).after ?_
    | intro _
    | split

theorem same_distilReply (x : Distil) (b : Bytes) (s : State) : Same [.draws, .nv, .ports, .cfg, .vu, .hx, .ob] s
    (distilReply x b s) := by
  unfold distilReply
  try dsimp only [-Nat.reducePow]
  repeat' first
    | with_reducible exact Same.refl _
    | with_reducible refine ((same_probeReply ..).mono (by decide)).after ?_
    | with_reducible refine ((same_feedReply ..).mono (by decide)).after ?_
    | intro _
    | split

/-! ### Procedure -/

theorem same_sendXsettle (d : Dispute) (lo w : Nat) (s : State) : Same [.ports, .vu, .hx, .ob] s (sendXsettle d lo w
    s) := by
  unfold sendXsettle
  try dsimp only [-Nat.reducePow]
  repeat' first
    | with_reducible exact Same.refl _
    | with_reducible refine ((same_hxSend ..).mono (by decide)).after ?_
    | with_reducible refine ((same_mProc ..).mono (by decide)).after ?_
    | intro _
    | split

theorem same_bisectRound (d : Dispute) (lo w : Nat) (s : State) : Same [.ports, .vu, .hx, .ob] s (bisectRound d lo w
    s) := by
  unfold bisectRound
  try dsimp only [-Nat.reducePow]
  repeat' first
    | with_reducible exact Same.refl _
    | with_reducible refine ((same_endProc ..).mono (by decide)).after ?_
    | with_reducible refine ((same_askRound ..).mono (by decide)).after ?_
    | with_reducible refine ((same_sendXsettle ..).mono (by decide)).after ?_
    | intro _
    | split

theorem same_withThird (d : Dispute) (f : Huid → State → State) (s : State) {m : List Part} (hm : Part.within
    [.ports, .fc, .led, .vu, .hx, .ob] m = true) (hf : ∀ a0 s, Same m s (f a0 s)) : Same m s (withThird d f s) := by
  unfold withThird
  try dsimp only [-Nat.reducePow]
  repeat' first
    | with_reducible exact Same.refl _
    | with_reducible refine ((same_mProc ..).mono (Part.within_trans (by decide) hm)).after ?_
    | with_reducible refine ((same_endProc ..).mono (Part.within_trans (by decide) hm)).after ?_
    | with_reducible refine ((same_unresolved ..).mono (Part.within_trans (by decide) hm)).after ?_
    | with_reducible refine (hf ..).after ?_
    | intro _
    | split

theorem same_askThird (d : Dispute) (ph : Phase) (sub lo : Nat) (partner l : Huid) (s : State) : Same [.ports, .vu,
    .ob] s (askThird d ph sub lo partner l s) := by
  unfold askThird
  try dsimp only [-Nat.reducePow]
  repeat' first
    | with_reducible exact Same.refl _
    | with_reducible refine ((same_askRound ..).mono (by decide)).after ?_

theorem same_elementFound (pr : Proc) (e i : Nat) (s : State) : Same [.nv, .ports, .cfg, .fc, .ct, .led, .twc, .per,
    .sa, .mem, .vu, .ym, .hx, .ts, .ob] s (elementFound pr e i s) := by
  unfold elementFound
  try dsimp only [-Nat.reducePow]
  repeat' first
    | with_reducible exact Same.refl _
    | with_reducible refine ((same_mProc ..).mono (by decide)).after ?_
    | with_reducible refine ((same_endProc ..).mono (by decide)).after ?_
    | with_reducible refine ((same_inputSuspect ..).mono (by decide)).after ?_
    | with_reducible refine ((same_failCore ..).mono (by decide)).after ?_
    | with_reducible refine (same_withThird _ _ _ (by decide) ?_).after ?_
    | with_reducible refine ((same_askThird ..).mono (by decide)).after ?_
    | intro _
    | split

theorem same_coverName (pr : Proc) (side e i : Nat) (s : State) : Same [.draws, .nv, .ports, .cfg, .fc, .ct, .led,
    .twc, .per, .sa, .mem, .vu, .ym, .hx, .ts, .ob] s (coverName pr side e i s) := by
  unfold coverName
  try dsimp only [-Nat.reducePow]
  repeat' first
    | with_reducible exact Same.refl _
    | with_reducible refine ((same_draw _).mono (by decide)).after ?_
    | with_reducible refine ((same_inputSuspect ..).mono (by decide)).after ?_
    | with_reducible refine ((same_failCore ..).mono (by decide)).after ?_
    | intro _
    | split

theorem same_coverRound (pr : Proc) (lo w : Nat) (s : State) : Same [.draws, .nv, .ports, .cfg, .fc, .ct, .led,
    .twc, .per, .sa, .mem, .vu, .ym, .hx, .ts, .ob] s (coverRound pr lo w s) := by
  unfold coverRound
  try dsimp only [-Nat.reducePow]
  repeat' first
    | with_reducible exact Same.refl _
    | with_reducible refine ((same_unresolved ..).mono (by decide)).after ?_
    | with_reducible refine ((same_inputSuspect ..).mono (by decide)).after ?_
    | with_reducible refine ((same_bisectRound ..).mono (by decide)).after ?_
    | with_reducible refine (same_withThird _ _ _ (by decide) ?_).after ?_
    | with_reducible refine ((same_coverName ..).mono (by decide)).after ?_
    | intro _
    | split

theorem same_roundDone (pr : Proc) (lo w : Nat) (s : State) : Same [.draws, .nv, .ports, .cfg, .fc, .ct, .led, .twc,
    .per, .sa, .mem, .vu, .ym, .hx, .ts, .ob] s (roundDone pr lo w s) := by
  unfold roundDone
  try dsimp only [-Nat.reducePow]
  repeat' first
    | with_reducible exact Same.refl _
    | with_reducible refine ((same_inputSuspect ..).mono (by decide)).after ?_
    | with_reducible refine ((same_bisectRound ..).mono (by decide)).after ?_
    | with_reducible refine ((same_elementFound ..).mono (by decide)).after ?_
    | with_reducible refine ((same_coverRound ..).mono (by decide)).after ?_
    | intro _
    | split

theorem same_failNamed (pr : Proc) (side : Nat) (w : Option Huid) (s : State) : Same [.nv, .ports, .cfg, .fc, .ct,
    .led, .twc, .per, .sa, .mem, .vu, .ym, .hx, .ts, .ob] s (failNamed pr side w s) := by
  unfold failNamed
  try dsimp only [-Nat.reducePow]
  repeat' first
    | with_reducible exact Same.refl _
    | with_reducible refine ((same_inputSuspect ..).mono (by decide)).after ?_
    | with_reducible refine ((same_failCore ..).mono (by decide)).after ?_
    | intro _
    | split

theorem same_elementVote (pr : Proc) (s : State) : Same [.nv, .ports, .cfg, .fc, .ct, .led, .twc, .per, .sa, .mem,
    .vu, .ym, .hx, .ts, .ob] s (elementVote pr s) := by
  unfold elementVote
  try dsimp only [-Nat.reducePow]
  repeat' first
    | with_reducible exact Same.refl _
    | with_reducible refine ((same_inputSuspect ..).mono (by decide)).after ?_
    | with_reducible refine ((same_failNamed ..).mono (by decide)).after ?_
    | intro _
    | split

theorem same_askShare (pr : Proc) (i : Nat) (s : State) : Same [.ports, .fc, .ct, .led, .twc, .per, .sa, .mem, .vu,
    .hx, .ts, .ob] s (askShare pr i s) := by
  unfold askShare
  try dsimp only [-Nat.reducePow]
  repeat' first
    | with_reducible exact Same.refl _
    | with_reducible refine ((same_endProc ..).mono (by decide)).after ?_
    | with_reducible refine ((same_inputSuspect ..).mono (by decide)).after ?_
    | with_reducible refine ((same_askThird ..).mono (by decide)).after ?_
    | intro _
    | split

theorem same_faultyPartner (pr : Proc) (s : State) : Same [.nv, .ports, .cfg, .fc, .ct, .led, .twc, .per, .sa, .mem,
    .vu, .ym, .hx, .ts, .ob] s (faultyPartner pr s) := by
  unfold faultyPartner
  try dsimp only [-Nat.reducePow]
  repeat' first
    | with_reducible exact Same.refl _
    | with_reducible refine ((same_endProc ..).mono (by decide)).after ?_
    | with_reducible refine ((same_failCore ..).mono (by decide)).after ?_
    | with_reducible refine ((same_askShare ..).mono (by decide)).after ?_
    | intro _
    | split

theorem same_ownerRecord (pr : Proc) (s : State) : Same [.draws, .nv, .ports, .cfg, .fc, .ct, .led, .twc, .per, .sa,
    .mem, .vu, .ym, .hx, .ts, .ob] s (ownerRecord pr s) := by
  unfold ownerRecord
  try dsimp only [-Nat.reducePow]
  repeat' first
    | with_reducible exact Same.refl _
    | with_reducible refine ((same_endProc ..).mono (by decide)).after ?_
    | with_reducible refine ((same_inputSuspect ..).mono (by decide)).after ?_
    | with_reducible refine ((same_checkerFault ..).mono (by decide)).after ?_
    | with_reducible refine ((same_bisectRound ..).mono (by decide)).after ?_
    | with_reducible refine ((same_faultyPartner ..).mono (by decide)).after ?_
    | intro _
    | split

theorem same_shareCompared (pr : Proc) (i : Nat) (s : State) : Same [.nv, .ports, .cfg, .fc, .ct, .led, .twc, .per,
    .sa, .mem, .vu, .ym, .hx, .ts, .ob] s (shareCompared pr i s) := by
  unfold shareCompared
  try dsimp only [-Nat.reducePow]
  repeat' first
    | with_reducible exact Same.refl _
    | with_reducible refine ((same_endProc ..).mono (by decide)).after ?_
    | with_reducible refine ((same_failCore ..).mono (by decide)).after ?_
    | with_reducible refine ((same_askShare ..).mono (by decide)).after ?_
    | intro _
    | split

theorem same_writerKnown (pr : Proc) (e : Nat) (s : State) : Same [.ports, .fc, .ct, .led, .twc, .per, .sa, .mem,
    .vu, .hx, .ts, .ob] s (writerKnown pr e s) := by
  unfold writerKnown
  try dsimp only [-Nat.reducePow]
  repeat' first
    | with_reducible exact Same.refl _
    | with_reducible refine ((same_laneEnqueue ..).mono (by decide)).after ?_
    | with_reducible refine ((same_mProc ..).mono (by decide)).after ?_
    | with_reducible refine ((same_endProc ..).mono (by decide)).after ?_
    | with_reducible refine ((same_inputSuspect ..).mono (by decide)).after ?_
    | with_reducible refine ((same_noCheckerCase ..).mono (by decide)).after ?_
    | with_reducible refine ((same_awaitRedispatch ..).mono (by decide)).after ?_
    | intro _
    | split

theorem same_advance (pr : Proc) (s : State) : Same [.draws, .nv, .ports, .cfg, .fc, .ct, .led, .twc, .per, .sa,
    .mem, .vu, .ym, .hx, .ts, .ob] s (advance pr s) := by
  unfold advance
  try dsimp only [-Nat.reducePow]
  repeat' first
    | with_reducible exact Same.refl _
    | with_reducible refine ((same_roundDone ..).mono (by decide)).after ?_
    | with_reducible refine ((same_elementVote ..).mono (by decide)).after ?_
    | with_reducible refine ((same_ownerRecord ..).mono (by decide)).after ?_
    | with_reducible refine ((same_shareCompared ..).mono (by decide)).after ?_
    | with_reducible refine ((same_writerKnown ..).mono (by decide)).after ?_
    | intro _
    | split

theorem same_settleOn (d : Dispute) (s : State) : Same [.draws, .nv, .ports, .cfg, .fc, .ct, .led, .twc, .per, .sa,
    .mem, .vu, .ym, .hx, .ts, .ob] s (settleOn d s) := by
  unfold settleOn
  try dsimp only [-Nat.reducePow]
  repeat' first
    | with_reducible exact Same.refl _
    | with_reducible refine ((same_advance ..).mono (by decide)).after ?_
    | intro _
    | split

theorem same_takeReply (pr : Proc) (l : Huid) (void : Bool) (b : Bytes) (s : State) : Same [.draws, .nv, .ports,
    .cfg, .fc, .ct, .led, .twc, .per, .sa, .mem, .vu, .ym, .hx, .ts, .ob] s (takeReply pr l void b s) := by
  unfold takeReply
  try dsimp only [-Nat.reducePow]
  repeat' first
    | with_reducible exact Same.refl _
    | with_reducible refine ((same_mProc ..).mono (by decide)).after ?_
    | with_reducible refine ((same_settleOn ..).mono (by decide)).after ?_

theorem same_xsettleReply (die header status : Nat) (ents : List RangeEnt) (s : State) : Same [.ports, .hx, .ob] s
    (xsettleReply die header status ents s) := by
  unfold xsettleReply
  try dsimp only [-Nat.reducePow]
  repeat' first
    | with_reducible exact Same.refl _
    | with_reducible refine ((same_hxSend ..).mono (by decide)).after ?_

theorem same_takeXreply (x : XReq) (l : Huid) (void : Bool) (b : Bytes) (s : State) : Same [.ports, .vu, .hx, .ob] s
    (takeXreply x l void b s) := by
  unfold takeXreply
  try dsimp only [-Nat.reducePow]
  repeat' first
    | with_reducible exact Same.refl _
    | with_reducible refine ((same_mVu _ _).mono (by decide)).after ?_
    | with_reducible refine ((same_xsettleReply ..).mono (by decide)).after ?_
    | intro _
    | split

theorem same_settleAnswer (reqId : Nat) (l : Huid) (void : Bool) (b : Bytes) (s : State) : Same [.draws, .nv,
    .ports, .cfg, .fc, .ct, .led, .twc, .per, .sa, .mem, .vu, .ym, .hx, .ts, .ob] s (settleAnswer reqId l void b s)
      := by
  unfold settleAnswer
  try dsimp only [-Nat.reducePow]
  repeat' first
    | with_reducible exact Same.refl _
    | with_reducible refine ((same_abandonDistil ..).mono (by decide)).after ?_
    | with_reducible refine ((same_distilReply ..).mono (by decide)).after ?_
    | with_reducible refine ((same_takeReply ..).mono (by decide)).after ?_
    | with_reducible refine ((same_takeXreply ..).mono (by decide)).after ?_
    | intro _
    | split

theorem same_settleReply (p : Ingress) (s : State) : Same [.draws, .nv, .ports, .cfg, .fc, .ct, .led, .twc, .per,
    .sa, .mem, .vu, .ym, .hx, .ts, .ob] s (settleReply p s) := by
  unfold settleReply
  try dsimp only [-Nat.reducePow]
  repeat' first
    | with_reducible exact Same.refl _
    | with_reducible refine ((same_settleAnswer ..).mono (by decide)).after ?_
    | intro _
    | split

theorem same_settleTimeout (l : Huid) (s : State) : Same [.draws, .nv, .ports, .cfg, .fc, .ct, .led, .twc, .per,
    .sa, .mem, .vu, .ym, .hx, .ts, .ob] s (settleTimeout l s) := by
  unfold settleTimeout
  try dsimp only [-Nat.reducePow]
  repeat' first
    | with_reducible exact Same.refl _
    | with_reducible refine ((same_bumpCtx ..).mono (by decide)).after ?_
    | with_reducible refine ((same_reportUnit ..).mono (by decide)).after ?_
    | with_reducible refine ((same_settleAnswer ..).mono (by decide)).after ?_
    | intro _
    | split

theorem same_voidVote (l : Huid) (s : State) : Same [.draws, .nv, .ports, .cfg, .fc, .ct, .led, .twc, .per, .sa,
    .mem, .vu, .ym, .hx, .ts, .ob] s (voidVote l s) := by
  unfold voidVote
  try dsimp only [-Nat.reducePow]
  repeat' first
    | with_reducible exact Same.refl _
    | with_reducible refine ((same_settleAnswer ..).mono (by decide)).after ?_
    | intro _
    | split

theorem same_residueCase (d : Dispute) (s : State) : Same [.nv, .ports, .cfg, .fc, .ct, .led, .twc, .per, .sa, .mem,
    .vu, .ym, .hx, .ts, .ob] s (residueCase d s) := by
  unfold residueCase
  try dsimp only [-Nat.reducePow]
  repeat' first
    | with_reducible exact Same.refl _
    | with_reducible refine ((same_endProc ..).mono (by decide)).after ?_
    | with_reducible refine ((same_orderReplay ..).mono (by decide)).after ?_
    | with_reducible refine ((same_failCore ..).mono (by decide)).after ?_
    | intro _
    | split

theorem same_timeoutCase (d : Dispute) (s : State) : Same [.ports, .fc, .led, .twc, .per, .sa, .mem, .vu, .hx, .ts,
    .ob] s (timeoutCase d s) := by
  unfold timeoutCase
  try dsimp only [-Nat.reducePow]
  repeat' first
    | with_reducible exact Same.refl _
    | with_reducible refine ((same_endProc ..).mono (by decide)).after ?_
    | with_reducible refine ((same_unresolved ..).mono (by decide)).after ?_
    | with_reducible refine ((same_orderReplay ..).mono (by decide)).after ?_
    | intro _
    | split

theorem same_xtestCase (d : Dispute) (p : Plan) (t : TaskE) (s : State) : Same [.nv, .ports, .cfg, .fc, .ct, .led,
    .twc, .per, .sa, .mem, .vu, .ym, .hx, .ts, .ob] s (xtestCase d p t s) := by
  unfold xtestCase
  try dsimp only [-Nat.reducePow]
  repeat' first
    | with_reducible exact Same.refl _
    | with_reducible refine ((same_unresolved ..).mono (by decide)).after ?_
    | with_reducible refine ((same_noCheckerCase ..).mono (by decide)).after ?_
    | with_reducible refine ((same_failCore ..).mono (by decide)).after ?_
    | intro _
    | split

theorem same_checkerKat (d : Dispute) (t : TaskE) (pass : Bool) (s : State) : Same [.nv, .ports, .cfg, .fc, .led,
    .per, .sa, .vu, .hx, .ts, .ob] s (checkerKat d t pass s) := by
  unfold checkerKat
  try dsimp only [-Nat.reducePow]
  repeat' first
    | with_reducible exact Same.refl _
    | with_reducible refine ((same_reportSelf ..).mono (by decide)).after ?_
    | with_reducible refine ((same_pipeKat ..).mono (by decide)).after ?_
    | with_reducible refine ((same_laneKat ..).mono (by decide)).after ?_
    | intro _
    | split

theorem same_gather (d : Dispute) (p : Plan) (t : TaskE) (s : State) : Same [.ports, .fc, .ct, .led, .twc, .per,
    .sa, .mem, .vu, .hx, .ts, .ob] s (gather d p t s) := by
  unfold gather
  try dsimp only [-Nat.reducePow]
  repeat' first
    | with_reducible exact Same.refl _
    | with_reducible refine ((same_askRound ..).mono (by decide)).after ?_
    | with_reducible refine ((same_inputSuspect ..).mono (by decide)).after ?_
    | with_reducible refine ((same_bisectRound ..).mono (by decide)).after ?_
    | with_reducible refine (same_withThird _ _ _ (by decide) ?_).after ?_
    | with_reducible refine ((same_askThird ..).mono (by decide)).after ?_
    | intro _
    | split

theorem same_decideCase (d : Dispute) (katPass : Bool) (s : State) : Same [.draws, .nv, .ports, .cfg, .fc, .ct,
    .led, .twc, .per, .sa, .mem, .vu, .ym, .hx, .ts, .ob] s (decideCase d katPass s) := by
  unfold decideCase
  try dsimp only [-Nat.reducePow]
  repeat' first
    | with_reducible exact Same.refl _
    | with_reducible refine ((same_endProc ..).mono (by decide)).after ?_
    | with_reducible refine ((same_conclude ..).mono (by decide)).after ?_
    | with_reducible refine ((same_orderReplay ..).mono (by decide)).after ?_
    | with_reducible refine ((same_noCheckerCase ..).mono (by decide)).after ?_
    | with_reducible refine ((same_checkerFault ..).mono (by decide)).after ?_
    | with_reducible refine ((same_residueCase ..).mono (by decide)).after ?_
    | with_reducible refine ((same_timeoutCase ..).mono (by decide)).after ?_
    | with_reducible refine ((same_xtestCase ..).mono (by decide)).after ?_
    | with_reducible refine ((same_checkerKat ..).mono (by decide)).after ?_
    | with_reducible refine ((same_gather ..).mono (by decide)).after ?_
    | intro _
    | split

theorem same_procedureStart (katPass : Bool) (s : State) : Same [.draws, .nv, .ports, .cfg, .fc, .ct, .led, .twc,
    .per, .sa, .mem, .vu, .ym, .hx, .ts, .ob] s (procedureStart katPass s) := by
  unfold procedureStart
  try dsimp only [-Nat.reducePow]
  repeat' first
    | with_reducible exact Same.refl _
    | with_reducible refine ((same_mVu _ _).mono (by decide)).after ?_
    | with_reducible refine ((same_decideCase ..).mono (by decide)).after ?_
    | intro _
    | split

theorem same_lane2Returned (pr : Proc) (flagged : Bool) (h2 : Nat) (s : State) : Same [.nv, .ports, .cfg, .fc, .led,
    .sa, .vu, .hx, .ts, .ob] s (lane2Returned pr flagged h2 s).2 := by
  unfold lane2Returned
  try dsimp only [-Nat.reducePow]
  repeat' first
    | with_reducible exact Same.refl _
    | with_reducible refine ((same_fenceLane ..).mono (by decide)).after ?_
    | with_reducible refine ((same_conclude ..).mono (by decide)).after ?_
    | with_reducible refine (same_withThird _ _ _ (by decide) ?_).after ?_
    | with_reducible refine ((same_askThird ..).mono (by decide)).after ?_
    | intro _
    | split

theorem same_redispatchTimeout (c step32 task : Nat) (s : State) : Same [.ports, .fc, .led, .vu, .hx, .ob] s
    (redispatchTimeout c step32 task s) := by
  unfold redispatchTimeout
  try dsimp only [-Nat.reducePow]
  repeat' first
    | with_reducible exact Same.refl _
    | with_reducible refine ((same_unresolved ..).mono (by decide)).after ?_
    | intro _
    | split

theorem same_replaySend (c : Nat) (s : State) : Same [.ports, .vu, .hx, .ob] s (replaySend c s) := by
  unfold replaySend
  try dsimp only [-Nat.reducePow]
  repeat' first
    | with_reducible exact Same.refl _
    | with_reducible refine ((same_mVu _ _).mono (by decide)).after ?_
    | with_reducible refine ((same_traceStep ..).mono (by decide)).after ?_
    | with_reducible refine ((same_sendCore ..).mono (by decide)).after ?_
    | with_reducible refine (same_foldl _ ?_ _ _).after ?_
    | with_reducible refine (same_foldl2 _ ?_ _ _).after ?_
    | intro _
    | split

theorem same_xsettleAsk (die header : Nat) (s : State) : Same [.ports, .vu, .hx, .ob] s (xsettleAsk die header s) :=
    by
  unfold xsettleAsk
  try dsimp only [-Nat.reducePow]
  repeat' first
    | with_reducible exact Same.refl _
    | with_reducible refine ((same_mVu _ _).mono (by decide)).after ?_
    | with_reducible refine ((same_nextReq ..).mono (by decide)).after ?_
    | with_reducible refine ((same_sendSettle ..).mono (by decide)).after ?_
    | with_reducible refine ((same_xsettleReply ..).mono (by decide)).after ?_
    | with_reducible refine (same_foldl _ ?_ _ _).after ?_
    | with_reducible refine (same_foldl2 _ ?_ _ _).after ?_
    | with_reducible refine same_withStep ?_ ?_
    | intro _
    | split

theorem same_xsettleAnswer (die header : Nat) (b : Bytes) (s : State) : Same [.draws, .nv, .ports, .cfg, .fc, .ct,
    .led, .twc, .per, .sa, .mem, .vu, .ym, .hx, .ts, .ob] s (xsettleAnswer die header b s) := by
  unfold xsettleAnswer
  try dsimp only [-Nat.reducePow]
  repeat' first
    | with_reducible exact Same.refl _
    | with_reducible refine ((same_mProc ..).mono (by decide)).after ?_
    | with_reducible refine ((same_settleOn ..).mono (by decide)).after ?_
    | intro _
    | split

theorem same_xsettle (p : HxPkt) (s : State) : Same [.draws, .nv, .ports, .cfg, .fc, .ct, .led, .twc, .per, .sa,
    .mem, .vu, .ym, .hx, .ts, .ob] s (xsettle p s) := by
  unfold xsettle
  try dsimp only [-Nat.reducePow]
  repeat' first
    | with_reducible exact Same.refl _
    | with_reducible refine ((same_xsettleAsk ..).mono (by decide)).after ?_
    | with_reducible refine ((same_xsettleAnswer ..).mono (by decide)).after ?_
    | intro _
    | split

theorem same_ownCoreNamed (d : Dispute) (h : Huid) (e : Nat) (s : State) : Same [.nv, .ports, .cfg, .fc, .ct, .led,
    .vu, .ym, .hx, .ob] s (ownCoreNamed d h e s) := by
  unfold ownCoreNamed
  try dsimp only [-Nat.reducePow]
  repeat' first
    | with_reducible exact Same.refl _
    | with_reducible refine ((same_sbDefect ..).mono (by decide)).after ?_
    | with_reducible refine ((same_sdcEvent ..).mono (by decide)).after ?_
    | with_reducible refine ((same_startDistil ..).mono (by decide)).after ?_
    | intro _
    | split

theorem same_verdictFromLeader (p : HxPkt) (d : Dispute) (s : State) : Same [.nv, .ports, .cfg, .fc, .ct, .led,
    .twc, .per, .sa, .mem, .vu, .ym, .hx, .ts, .ob] s (verdictFromLeader p d s) := by
  unfold verdictFromLeader
  try dsimp only [-Nat.reducePow]
  repeat' first
    | with_reducible exact Same.refl _
    | with_reducible refine ((same_mVu _ _).mono (by decide)).after ?_
    | with_reducible refine ((same_recordVerdict ..).mono (by decide)).after ?_
    | with_reducible refine ((same_reportVerdict ..).mono (by decide)).after ?_
    | with_reducible refine ((same_unresolved ..).mono (by decide)).after ?_
    | with_reducible refine ((same_orderReplay ..).mono (by decide)).after ?_
    | with_reducible refine ((same_redispatch ..).mono (by decide)).after ?_
    | with_reducible refine ((same_ownCoreNamed ..).mono (by decide)).after ?_
    | intro _
    | split

theorem same_verdictFromPeer (d : Dispute) (s : State) : Same [.ports, .fc, .led, .vu, .hx, .ob] s (verdictFromPeer
    d s) := by
  unfold verdictFromPeer
  try dsimp only [-Nat.reducePow]
  repeat' first
    | with_reducible exact Same.refl _
    | with_reducible refine ((same_mVu _ _).mono (by decide)).after ?_
    | with_reducible refine ((same_unresolved ..).mono (by decide)).after ?_
    | intro _
    | split

theorem same_xverdict (p : HxPkt) (s : State) : Same [.nv, .ports, .cfg, .fc, .ct, .led, .twc, .per, .sa, .mem, .vu,
    .ym, .hx, .ts, .ob] s (xverdict p s) := by
  unfold xverdict
  try dsimp only [-Nat.reducePow]
  repeat' first
    | with_reducible exact Same.refl _
    | with_reducible refine ((same_verdictFromLeader ..).mono (by decide)).after ?_
    | with_reducible refine ((same_verdictFromPeer ..).mono (by decide)).after ?_
    | intro _
    | split

theorem same_xverdictWaitTimeout (c step32 task : Nat) (s : State) : Same [.ports, .fc, .led, .vu, .hx, .ob] s
    (xverdictWaitTimeout c step32 task s) := by
  unfold xverdictWaitTimeout
  try dsimp only [-Nat.reducePow]
  repeat' first
    | with_reducible exact Same.refl _
    | with_reducible refine ((same_mVu _ _).mono (by decide)).after ?_
    | with_reducible refine ((same_hxSend ..).mono (by decide)).after ?_
    | with_reducible refine ((same_unresolved ..).mono (by decide)).after ?_
    | intro _
    | split

theorem same_wantTest (h : Huid) (host : Bool) (s : State) : Same [.fr] s (wantTest h host s) := by
  unfold wantTest
  try dsimp only [-Nat.reducePow]
  repeat' first
    | with_reducible exact Same.refl _
    | with_reducible refine ((same_mFr _ _).mono (by decide)).after ?_

theorem same_turnoutSelect (h : Huid) (s : State) : Same [.nv, .ports, .cfg, .fc, .ct, .led, .vu, .ym, .hx, .fr,
    .ob] s (turnoutSelect h s) := by
  unfold turnoutSelect
  try dsimp only [-Nat.reducePow]
  repeat' first
    | with_reducible exact Same.refl _
    | with_reducible refine ((same_enterFenced ..).mono (by decide)).after ?_
    | with_reducible refine ((same_wantTest ..).mono (by decide)).after ?_
    | intro _
    | split

theorem same_suspectTest (h : Huid) (s : State) : Same [.fr] s (suspectTest h s) := by
  unfold suspectTest
  try dsimp only [-Nat.reducePow]
  repeat' first
    | with_reducible exact Same.refl _
    | with_reducible refine ((same_wantTest ..).mono (by decide)).after ?_
    | intro _
    | split

/-! ### Testing -/

theorem same_sendTest (sub : Nat) (h : Huid) (test desc : Nat) (payload : Bytes) (s : State) : Same [.ports] s
    (sendTest sub h test desc payload s) := by
  unfold sendTest
  try dsimp only [-Nat.reducePow]
  repeat' first
    | with_reducible exact Same.refl _
    | with_reducible refine ((same_sendCore ..).mono (by decide)).after ?_

theorem same_testPassed (h : Huid) (s : State) : Same [.nv, .ports, .cfg, .ct, .vu, .hx, .ob] s (testPassed h s) := by
  unfold testPassed
  try dsimp only [-Nat.reducePow]
  repeat' first
    | with_reducible exact Same.refl _
    | with_reducible refine ((same_bump ..).mono (by decide)).after ?_
    | with_reducible refine ((same_reinstate ..).mono (by decide)).after ?_
    | with_reducible refine ((same_cleanTest ..).mono (by decide)).after ?_
    | intro _
    | split

theorem same_testBad (h : Huid) (s : State) : Same [.nv, .ports, .cfg, .fc, .ct, .led, .vu, .ym, .hx, .ob] s
    (testBad h s) := by
  unfold testBad
  try dsimp only [-Nat.reducePow]
  repeat' first
    | with_reducible exact Same.refl _
    | with_reducible refine ((same_bump ..).mono (by decide)).after ?_
    | with_reducible refine ((same_reportUnit ..).mono (by decide)).after ?_
    | with_reducible refine ((same_testFailed ..).mono (by decide)).after ?_
    | intro _
    | split

theorem same_testVoid (h : Huid) (s : State) : Same [.fr] s (testVoid h s) := by
  unfold testVoid
  try dsimp only [-Nat.reducePow]
  repeat' first
    | with_reducible exact Same.refl _
    | with_reducible refine ((same_wantTest ..).mono (by decide)).after ?_
    | intro _
    | split

theorem same_endSession (x : Session) (result : Nat) (s : State) : Same [.nv, .ports, .cfg, .fc, .ct, .led, .vu,
    .ym, .hx, .fr, .ob] s (endSession x result s) := by
  unfold endSession
  try dsimp only [-Nat.reducePow]
  repeat' first
    | with_reducible exact Same.refl _
    | with_reducible refine ((same_mFr _ _).mono (by decide)).after ?_
    | with_reducible refine ((same_bump ..).mono (by decide)).after ?_
    | with_reducible refine ((same_sbWrite ..).mono (by decide)).after ?_
    | with_reducible refine ((same_mPad ..).mono (by decide)).after ?_
    | with_reducible refine ((same_sendTest ..).mono (by decide)).after ?_
    | with_reducible refine ((same_testPassed ..).mono (by decide)).after ?_
    | with_reducible refine ((same_testBad ..).mono (by decide)).after ?_
    | with_reducible refine ((same_testVoid ..).mono (by decide)).after ?_
    | intro _
    | split

theorem same_voidSession (h : Huid) (s : State) : Same [.nv, .ports, .cfg, .fc, .ct, .led, .vu, .ym, .hx, .fr, .ob]
    s (voidSession h s) := by
  unfold voidSession
  try dsimp only [-Nat.reducePow]
  repeat' first
    | with_reducible exact Same.refl _
    | with_reducible refine ((same_endSession ..).mono (by decide)).after ?_
    | intro _
    | split

theorem same_voidSessionsWhere (f : Huid → Bool) (s : State) : Same [.nv, .ports, .cfg, .fc, .ct, .led, .vu, .ym,
    .hx, .fr, .ob] s (voidSessionsWhere f s) := by
  unfold voidSessionsWhere
  try dsimp only [-Nat.reducePow]
  repeat' first
    | with_reducible exact Same.refl _
    | with_reducible refine ((same_voidSession ..).mono (by decide)).after ?_
    | with_reducible refine (same_foldl _ ?_ _ _).after ?_
    | with_reducible refine (same_foldl2 _ ?_ _ _).after ?_
    | intro _

/-! ### MusterOps -/

theorem same_mMuster (f : Muster → Muster) (s : State) : Same [.ports, .cfg, .hx, .ob] s (State.mMuster f s) := by
  unfold State.mMuster
  try dsimp only [-Nat.reducePow]
  repeat' first
    | with_reducible exact Same.refl _
    | with_reducible refine ((same_mCfg _ _).mono (by decide)).after ?_
    | with_reducible refine ((same_stateChanged ..).mono (by decide)).after ?_

theorem same_sendBlock (h : Huid) (b : Nat) (s : State) : Same [.ports] s (sendBlock h b s) := by
  unfold sendBlock
  try dsimp only [-Nat.reducePow]
  repeat' first
    | with_reducible exact Same.refl _
    | with_reducible refine ((same_sendCore ..).mono (by decide)).after ?_

theorem same_sendMuster (sub : Nat) (w : W64) (h : Huid) (s : State) : Same [.ports] s (sendMuster sub w h s) := by
  unfold sendMuster
  try dsimp only [-Nat.reducePow]
  repeat' first
    | with_reducible exact Same.refl _
    | with_reducible refine ((same_sendCore ..).mono (by decide)).after ?_

theorem same_queryAll (hs : List Huid) (s : State) : Same [.ports] s (queryAll hs s) := by
  unfold queryAll
  try dsimp only [-Nat.reducePow]
  repeat' first
    | with_reducible exact Same.refl _
    | with_reducible refine ((same_sendMuster ..).mono (by decide)).after ?_
    | with_reducible refine (same_foldl _ ?_ _ _).after ?_
    | with_reducible refine (same_foldl2 _ ?_ _ _).after ?_
    | intro _

theorem same_musterSend (s : State) : Same [.ports, .cfg, .hx, .ob] s (musterSend s) := by
  unfold musterSend
  try dsimp only [-Nat.reducePow]
  repeat' first
    | with_reducible exact Same.refl _
    | with_reducible refine ((same_bump ..).mono (by decide)).after ?_
    | with_reducible refine ((same_mMuster ..).mono (by decide)).after ?_
    | with_reducible refine ((same_sendBlock ..).mono (by decide)).after ?_
    | with_reducible refine ((same_queryAll ..).mono (by decide)).after ?_
    | with_reducible refine (same_foldl _ ?_ _ _).after ?_
    | with_reducible refine (same_foldl2 _ ?_ _ _).after ?_
    | intro _

theorem same_startMuster (scope : Bool) (sector : Nat) (targets : List Huid) (s : State) : Same [.ports, .cfg, .ct,
    .hx, .ob] s (startMuster scope sector targets s) := by
  unfold startMuster
  try dsimp only [-Nat.reducePow]
  repeat' first
    | with_reducible exact Same.refl _
    | with_reducible refine ((same_bump ..).mono (by decide)).after ?_
    | with_reducible refine ((same_scOrder ..).mono (by decide)).after ?_
    | with_reducible refine ((same_mMuster ..).mono (by decide)).after ?_
    | with_reducible refine (same_foldl _ ?_ _ _).after ?_
    | with_reducible refine (same_foldl2 _ ?_ _ _).after ?_
    | intro _
    | split

theorem same_musterUnfenced (s : State) : Same [.ports, .cfg, .hx, .ob] s (musterUnfenced s) := by
  unfold musterUnfenced
  try dsimp only [-Nat.reducePow]
  repeat' first
    | with_reducible exact Same.refl _
    | with_reducible refine ((same_musterSend ..).mono (by decide)).after ?_
    | intro _
    | split

theorem same_dropTargets (n : Nat) (s : State) : Same [.ports, .cfg, .hx, .ob] s (dropTargets n s) := by
  unfold dropTargets
  try dsimp only [-Nat.reducePow]
  repeat' first
    | with_reducible exact Same.refl _
    | with_reducible refine ((same_mMuster ..).mono (by decide)).after ?_
    | intro _
    | split

theorem same_orderSectorMuster (n : Nat) (s : State) : Same [.ports, .cfg, .ct, .hx, .ob] s (orderSectorMuster n s)
    := by
  unfold orderSectorMuster
  try dsimp only [-Nat.reducePow]
  repeat' first
    | with_reducible exact Same.refl _
    | with_reducible refine ((same_mCfg _ _).mono (by decide)).after ?_
    | with_reducible refine ((same_startMuster ..).mono (by decide)).after ?_
    | intro _
    | split

/-! ### Yard -/

theorem same_coreLost (h : Huid) (s : State) : Same [.nv, .ports, .cfg, .fc, .ct, .led, .vu, .ym, .hx, .ob] s
    (coreLost h s) := by
  unfold coreLost
  try dsimp only [-Nat.reducePow]
  repeat' first
    | with_reducible exact Same.refl _
    | with_reducible refine ((same_remapLabel (by assumption)).mono (by decide)).after ?_
    | with_reducible refine ((same_noSpare ..).mono (by decide)).after ?_
    | intro _
    | split

theorem same_reachUpdate (s : State) : Same [.nv, .ports, .cfg, .fc, .ct, .led, .vu, .ym, .hx, .ob] s (reachUpdate
    s) := by
  unfold reachUpdate
  try dsimp only [-Nat.reducePow]
  repeat' first
    | with_reducible exact Same.refl _
    | with_reducible refine ((same_mYm _ _).mono (by decide)).after ?_
    | with_reducible refine ((same_bump ..).mono (by decide)).after ?_
    | with_reducible refine ((same_ymReport ..).mono (by decide)).after ?_
    | with_reducible refine ((same_coreLost ..).mono (by decide)).after ?_
    | with_reducible refine (same_foldl _ ?_ _ _).after ?_
    | with_reducible refine (same_foldl2 _ ?_ _ _).after ?_
    | intro _
    | split

theorem same_meshChanged (removal : Bool) (s : State) : Same [.nv, .ports, .cfg, .fc, .ct, .led, .vu, .ym, .hx, .ob]
    s (meshChanged removal s) := by
  unfold meshChanged
  try dsimp only [-Nat.reducePow]
  repeat' first
    | with_reducible exact Same.refl _
    | with_reducible refine ((same_mYm _ _).mono (by decide)).after ?_
    | with_reducible refine ((same_computeInstall ..).mono (by decide)).after ?_
    | with_reducible refine ((same_reachUpdate ..).mono (by decide)).after ?_
    | intro _
    | split

theorem same_mLink (h : Huid) (f : Link → Link) (s : State) : Same [.ports, .ym, .hx, .ob] s (State.mLink h f s) := by
  unfold State.mLink
  try dsimp only [-Nat.reducePow]
  repeat' first
    | with_reducible exact Same.refl _
    | with_reducible refine ((same_mYm _ _).mono (by decide)).after ?_
    | with_reducible refine ((same_stateChanged ..).mono (by decide)).after ?_
    | intro _
    | split

theorem same_linkDown (h : Huid) (s : State) : Same [.ports, .ym, .hx, .ob] s (linkDown h s) := by
  unfold linkDown
  try dsimp only [-Nat.reducePow]
  repeat' first
    | with_reducible exact Same.refl _
    | with_reducible refine ((same_mLink ..).mono (by decide)).after ?_

theorem same_hlinkDown (h : Huid) (s : State) : Same [.nv, .ports, .cfg, .fc, .ct, .led, .vu, .ym, .hx, .ob] s
    (hlinkDown h s) := by
  unfold hlinkDown
  try dsimp only [-Nat.reducePow]
  repeat' first
    | with_reducible exact Same.refl _
    | with_reducible refine ((same_bump ..).mono (by decide)).after ?_
    | with_reducible refine ((same_meshChanged ..).mono (by decide)).after ?_
    | with_reducible refine ((same_linkDown ..).mono (by decide)).after ?_

theorem same_hlinkWidth (h : Huid) (t f : Nat) (s : State) : Same [.nv, .ports, .cfg, .fc, .ct, .led, .vu, .ym, .hx,
    .ob] s (hlinkWidth h t f s) := by
  unfold hlinkWidth
  try dsimp only [-Nat.reducePow]
  repeat' first
    | with_reducible exact Same.refl _
    | with_reducible refine ((same_bump ..).mono (by decide)).after ?_
    | with_reducible refine ((same_meshChanged ..).mono (by decide)).after ?_
    | with_reducible refine ((same_mLink ..).mono (by decide)).after ?_
    | with_reducible refine ((same_linkDown ..).mono (by decide)).after ?_
    | intro _
    | split

theorem same_dropRequests (r : Huid) (s : State) : Same [.ct, .ym] s (dropRequests r s) := by
  unfold dropRequests
  try dsimp only [-Nat.reducePow]
  repeat' first
    | with_reducible exact Same.refl _
    | with_reducible refine ((same_mYm _ _).mono (by decide)).after ?_
    | with_reducible refine ((same_dropEntry ..).mono (by decide)).after ?_
    | intro _
    | split

theorem same_routerFailed (r : Huid) (s : State) : Same [.nv, .ports, .cfg, .fc, .ct, .led, .vu, .ym, .hx, .ob] s
    (routerFailed r s) := by
  unfold routerFailed
  try dsimp only [-Nat.reducePow]
  repeat' first
    | with_reducible exact Same.refl _
    | with_reducible refine ((same_mYm _ _).mono (by decide)).after ?_
    | with_reducible refine ((same_meshChanged ..).mono (by decide)).after ?_
    | with_reducible refine ((same_linkDown ..).mono (by decide)).after ?_
    | with_reducible refine ((same_dropRequests ..).mono (by decide)).after ?_
    | with_reducible refine (same_foldl _ ?_ _ _).after ?_
    | with_reducible refine (same_foldl2 _ ?_ _ _).after ?_
    | intro _
    | split

theorem same_rerouteCtx (c : Nat) (p : Plan) (s : State) : Same [.ports, .fc, .led, .twc, .per, .sa, .mem, .vu, .hx,
    .ts, .ob] s (rerouteCtx c p s) := by
  unfold rerouteCtx
  try dsimp only [-Nat.reducePow]
  repeat' first
    | with_reducible exact Same.refl _
    | with_reducible refine ((same_orderReplay ..).mono (by decide)).after ?_
    | intro _
    | split

theorem same_rerouteReplay (sectors : List Nat) (s : State) : Same [.ports, .fc, .led, .twc, .per, .sa, .mem, .vu,
    .hx, .ts, .ob] s (rerouteReplay sectors s) := by
  unfold rerouteReplay
  try dsimp only [-Nat.reducePow]
  repeat' first
    | with_reducible exact Same.refl _
    | with_reducible refine ((same_rerouteCtx ..).mono (by decide)).after ?_
    | with_reducible refine (same_foldl _ ?_ _ _).after ?_
    | with_reducible refine (same_foldl2 _ ?_ _ _).after ?_
    | intro _
    | split

theorem same_installLive (s : State) : Same [.ports, .fc, .ct, .led, .twc, .per, .sa, .mem, .vu, .ym, .hx, .ts, .ob]
    s (installLive s) := by
  unfold installLive
  try dsimp only [-Nat.reducePow]
  repeat' first
    | with_reducible exact Same.refl _
    | with_reducible refine ((same_mYm _ _).mono (by decide)).after ?_
    | with_reducible refine ((same_bump ..).mono (by decide)).after ?_
    | with_reducible refine ((same_dropEntry ..).mono (by decide)).after ?_
    | with_reducible refine ((same_rerouteReplay ..).mono (by decide)).after ?_
    | intro _
    | split

theorem same_ymAdvance (s : State) : Same [.ports, .fc, .ct, .led, .twc, .per, .sa, .mem, .vu, .ym, .hx, .ts, .ob] s
    (ymAdvance s) := by
  unfold ymAdvance
  try dsimp only [-Nat.reducePow]
  repeat' first
    | with_reducible exact Same.refl _
    | with_reducible refine ((same_epochSet ..).mono (by decide)).after ?_
    | with_reducible refine ((same_installLive ..).mono (by decide)).after ?_
    | intro _
    | split

theorem same_pollDone (s : State) : Same [.ym] s (pollDone s) := by
  unfold pollDone
  try dsimp only [-Nat.reducePow]
  repeat' first
    | with_reducible exact Same.refl _
    | with_reducible refine ((same_mYm _ _).mono (by decide)).after ?_
    | intro _
    | split

theorem same_countReadPoll (s : State) : Same [.ct, .ym, .ob] s (countReadPoll s) := by
  unfold countReadPoll
  try dsimp only [-Nat.reducePow]
  repeat' first
    | with_reducible exact Same.refl _
    | with_reducible refine ((same_mYm _ _).mono (by decide)).after ?_
    | with_reducible refine ((same_pumpFcp ..).mono (by decide)).after ?_
    | with_reducible refine ((same_pollDone ..).mono (by decide)).after ?_
    | intro _
    | split

theorem same_retireTimeout (s : State) : Same [.ports, .fc, .led, .vu, .ym, .hx, .ob] s (retireTimeout s) := by
  unfold retireTimeout
  try dsimp only [-Nat.reducePow]
  repeat' first
    | with_reducible exact Same.refl _
    | with_reducible refine ((same_mYm _ _).mono (by decide)).after ?_
    | with_reducible refine ((same_bump ..).mono (by decide)).after ?_
    | with_reducible refine ((same_reportSelf ..).mono (by decide)).after ?_
    | intro _
    | split

theorem same_wordWritten (q : FcpReq) (s : State) : Same [.ym, .ob] s (wordWritten q s) := by
  unfold wordWritten
  try dsimp only [-Nat.reducePow]
  repeat' first
    | with_reducible exact Same.refl _
    | with_reducible refine ((same_mYm _ _).mono (by decide)).after ?_
    | with_reducible refine ((same_bump ..).mono (by decide)).after ?_

theorem same_fcpError (r : Huid) (s : State) : Same [.ports, .fc, .led, .vu, .ym, .hx, .ob] s (fcpError r s) := by
  unfold fcpError
  try dsimp only [-Nat.reducePow]
  repeat' first
    | with_reducible exact Same.refl _
    | with_reducible refine ((same_mYm _ _).mono (by decide)).after ?_
    | with_reducible refine ((same_ymReport ..).mono (by decide)).after ?_

theorem same_answered (q : FcpReq) (s : State) : Same [.ct, .ym] s (answered q s) := by
  unfold answered
  try dsimp only [-Nat.reducePow]
  repeat' first
    | with_reducible exact Same.refl _
    | with_reducible refine ((same_mYm _ _).mono (by decide)).after ?_
    | with_reducible refine ((same_dropEntry ..).mono (by decide)).after ?_
    | intro _
    | split

theorem same_fcpResponse (header data : W64) (s : State) : Same [.nv, .ports, .cfg, .fc, .ct, .led, .twc, .per, .sa,
    .mem, .vu, .ym, .hx, .ts, .ob] s (fcpResponse header data s) := by
  unfold fcpResponse
  try dsimp only [-Nat.reducePow]
  repeat' first
    | with_reducible exact Same.refl _
    | with_reducible refine ((same_mYm _ _).mono (by decide)).after ?_
    | with_reducible refine ((same_pumpFcp ..).mono (by decide)).after ?_
    | with_reducible refine ((same_routerFailed ..).mono (by decide)).after ?_
    | with_reducible refine ((same_ymAdvance ..).mono (by decide)).after ?_
    | with_reducible refine ((same_pollDone ..).mono (by decide)).after ?_
    | with_reducible refine ((same_wordWritten ..).mono (by decide)).after ?_
    | with_reducible refine ((same_fcpError ..).mono (by decide)).after ?_
    | with_reducible refine ((same_answered ..).mono (by decide)).after ?_
    | intro _
    | split

theorem same_fcpTimeout (target : Huid) (s : State) : Same [.nv, .ports, .cfg, .fc, .ct, .led, .twc, .per, .sa,
    .mem, .vu, .ym, .hx, .ts, .ob] s (fcpTimeout target s) := by
  unfold fcpTimeout
  try dsimp only [-Nat.reducePow]
  repeat' first
    | with_reducible exact Same.refl _
    | with_reducible refine ((same_bump ..).mono (by decide)).after ?_
    | with_reducible refine ((same_pumpFcp ..).mono (by decide)).after ?_
    | with_reducible refine ((same_routerFailed ..).mono (by decide)).after ?_
    | with_reducible refine ((same_ymAdvance ..).mono (by decide)).after ?_
    | with_reducible refine ((same_pollDone ..).mono (by decide)).after ?_
    | with_reducible refine ((same_fcpError ..).mono (by decide)).after ?_
    | with_reducible refine (same_foldl _ ?_ _ _).after ?_
    | with_reducible refine (same_foldl2 _ ?_ _ _).after ?_
    | intro _

theorem same_installStart (s : State) : Same [.nv, .ports, .cfg, .fc, .ct, .led, .twc, .per, .sa, .mem, .vu, .ym,
    .hx, .ts, .ob] s (installStart s) := by
  unfold installStart
  try dsimp only [-Nat.reducePow]
  repeat' first
    | with_reducible exact Same.refl _
    | with_reducible refine ((same_computeInstall ..).mono (by decide)).after ?_
    | with_reducible refine ((same_reachUpdate ..).mono (by decide)).after ?_
    | with_reducible refine ((same_ymAdvance ..).mono (by decide)).after ?_
    | intro _
    | split

theorem same_routeMiss (s : State) : Same [.ob] s (routeMiss s) := by
  unfold routeMiss
  try dsimp only [-Nat.reducePow]
  repeat' first
    | with_reducible exact Same.refl _
    | with_reducible refine ((same_bump ..).mono (by decide)).after ?_

/-! ### Tracker -/

theorem same_tryEntry (cls : Nat) (target : Huid) (s : State) : Same [.ct, .ob] s (tryEntry cls target s) := by
  unfold tryEntry
  try dsimp only [-Nat.reducePow]
  repeat' first
    | with_reducible exact Same.refl _
    | with_reducible refine ((same_takeEntry ..).mono (by decide)).after ?_
    | intro _
    | split

theorem same_chipReset (target : Huid) (s : State) : Same [.ct, .ob] s (chipReset target s) := by
  unfold chipReset
  try dsimp only [-Nat.reducePow]
  repeat' first
    | with_reducible exact Same.refl _
    | with_reducible refine ((same_mCt _ _).mono (by decide)).after ?_
    | with_reducible refine ((same_tryEntry ..).mono (by decide)).after ?_
    | intro _
    | split

theorem same_resetHang (n : Nat) (s : State) : Same [.ports, .fc, .ct, .led, .vu, .hx, .ob] s (resetHang n s) := by
  unfold resetHang
  try dsimp only [-Nat.reducePow]
  repeat' first
    | with_reducible exact Same.refl _
    | with_reducible refine ((same_reportUnit ..).mono (by decide)).after ?_
    | with_reducible refine ((same_chipReset ..).mono (by decide)).after ?_

theorem same_seqOrder (n op : Nat) (mask : W64) (s : State) : Same [.ct, .ob] s (seqOrder n op mask s) := by
  unfold seqOrder
  try dsimp only [-Nat.reducePow]
  repeat' first
    | with_reducible exact Same.refl _
    | with_reducible refine ((same_mSector ..).mono (by decide)).after ?_
    | with_reducible refine ((same_scStart ..).mono (by decide)).after ?_

theorem same_endOutranked (o : ScOrder) (s : State) : Same [.ct, .ob] s (endOutranked o s) := by
  unfold endOutranked
  try dsimp only [-Nat.reducePow]
  repeat' first
    | with_reducible exact Same.refl _
    | with_reducible refine ((same_bump ..).mono (by decide)).after ?_
    | with_reducible refine ((same_endHost ..).mono (by decide)).after ?_
    | intro _
    | split

theorem same_sectorReset (n : Nat) (purposes : List (Nat × W64)) (s : State) : Same [.nv, .ports, .cfg, .fc, .ct,
    .led, .vu, .ym, .hx, .fr, .ob] s (sectorReset n purposes s) := by
  unfold sectorReset
  try dsimp only [-Nat.reducePow]
  repeat' first
    | with_reducible exact Same.refl _
    | with_reducible refine ((same_mVu _ _).mono (by decide)).after ?_
    | with_reducible refine ((same_bump ..).mono (by decide)).after ?_
    | with_reducible refine ((same_mSector ..).mono (by decide)).after ?_
    | with_reducible refine ((same_haltQuiet ..).mono (by decide)).after ?_
    | with_reducible refine ((same_voidSessionsWhere ..).mono (by decide)).after ?_
    | with_reducible refine ((same_dropTargets ..).mono (by decide)).after ?_
    | with_reducible refine ((same_seqOrder ..).mono (by decide)).after ?_
    | with_reducible refine ((same_endOutranked ..).mono (by decide)).after ?_
    | with_reducible refine (same_foldl _ ?_ _ _).after ?_
    | with_reducible refine (same_foldl2 _ ?_ _ _).after ?_
    | intro _
    | split

theorem same_killCheck (s : State) : Same [.ct] s (killCheck s) := by
  unfold killCheck
  try dsimp only [-Nat.reducePow]
  repeat' first
    | with_reducible exact Same.refl _
    | with_reducible refine ((same_mCt _ _).mono (by decide)).after ?_
    | with_reducible refine ((same_hostDone ..).mono (by decide)).after ?_
    | with_reducible refine (same_foldl _ ?_ _ _).after ?_
    | with_reducible refine (same_foldl2 _ ?_ _ _).after ?_
    | intro _

theorem same_killSectorDone (f : Kill → Bool) (n : Nat) (s : State) : Same [.ct] s (killSectorDone f n s) := by
  unfold killSectorDone
  try dsimp only [-Nat.reducePow]
  repeat' first
    | with_reducible exact Same.refl _
    | with_reducible refine ((same_mCt _ _).mono (by decide)).after ?_
    | with_reducible refine ((same_killCheck ..).mono (by decide)).after ?_

theorem same_killErased (c : Nat) (s : State) : Same [.ct, .ob] s (killErased c s) := by
  unfold killErased
  try dsimp only [-Nat.reducePow]
  repeat' first
    | with_reducible exact Same.refl _
    | with_reducible refine ((same_mCt _ _).mono (by decide)).after ?_
    | with_reducible refine ((same_ctxFence ..).mono (by decide)).after ?_
    | with_reducible refine ((same_killCheck ..).mono (by decide)).after ?_
    | intro _
    | split

theorem same_kill (c master : Nat) (w : W64) (s : State) : Same [.nv, .ports, .cfg, .fc, .ct, .led, .twc, .sa, .mem,
    .vu, .hx, .ob] s (kill c master w s) := by
  unfold kill
  try dsimp only [-Nat.reducePow]
  repeat' first
    | with_reducible exact Same.refl _
    | with_reducible refine ((same_mCt _ _).mono (by decide)).after ?_
    | with_reducible refine ((same_bump ..).mono (by decide)).after ?_
    | with_reducible refine ((same_killPlans ..).mono (by decide)).after ?_
    | with_reducible refine ((same_abandonDistil ..).mono (by decide)).after ?_
    | with_reducible refine ((same_killErased ..).mono (by decide)).after ?_
    | intro _
    | split

theorem same_erasureComplete (c : Nat) (s : State) : Same [.ct, .mem, .ob] s (erasureComplete c s) := by
  unfold erasureComplete
  try dsimp only [-Nat.reducePow]
  repeat' first
    | with_reducible exact Same.refl _
    | with_reducible refine ((same_finishErasure ..).mono (by decide)).after ?_
    | with_reducible refine ((same_killErased ..).mono (by decide)).after ?_
    | intro _
    | split

theorem same_orderDone (p : Nat × W64) (s : State) : Same [.nv, .ports, .cfg, .fc, .ct, .led, .vu, .ym, .hx, .ob] s
    (orderDone p s) := by
  unfold orderDone
  try dsimp only [-Nat.reducePow]
  repeat' first
    | with_reducible exact Same.refl _
    | with_reducible refine ((same_hostDone ..).mono (by decide)).after ?_
    | with_reducible refine ((same_mPad ..).mono (by decide)).after ?_
    | with_reducible refine ((same_remapFenced ..).mono (by decide)).after ?_
    | intro _
    | split

theorem same_orderDones (o : ScOrder) (s : State) : Same [.nv, .ports, .cfg, .fc, .ct, .led, .vu, .ym, .hx, .ob] s
    (orderDones o s) := by
  unfold orderDones
  try dsimp only [-Nat.reducePow]
  repeat' first
    | with_reducible exact Same.refl _
    | with_reducible refine ((same_orderDone ..).mono (by decide)).after ?_
    | with_reducible refine (same_foldl _ ?_ _ _).after ?_
    | with_reducible refine (same_foldl2 _ ?_ _ _).after ?_
    | intro _

theorem same_resetEnd (n : Nat) (s : State) : Same [.nv, .ports, .cfg, .fc, .ct, .led, .vu, .ym, .hx, .ob] s
    (resetEnd n s) := by
  unfold resetEnd
  try dsimp only [-Nat.reducePow]
  repeat' first
    | with_reducible exact Same.refl _
    | with_reducible refine ((same_mSector ..).mono (by decide)).after ?_
    | with_reducible refine ((same_scStart ..).mono (by decide)).after ?_
    | with_reducible refine ((same_fenceOrder ..).mono (by decide)).after ?_
    | with_reducible refine ((same_remapFenced ..).mono (by decide)).after ?_
    | with_reducible refine ((same_killSectorDone ..).mono (by decide)).after ?_
    | with_reducible refine ((same_orderDone ..).mono (by decide)).after ?_
    | with_reducible refine (same_foldl _ ?_ _ _).after ?_
    | with_reducible refine (same_foldl2 _ ?_ _ _).after ?_
    | intro _
    | split

theorem same_seqNext (n : Nat) (s : State) : Same [.nv, .ports, .cfg, .fc, .ct, .led, .vu, .ym, .hx, .ob] s (seqNext
    n s) := by
  unfold seqNext
  try dsimp only [-Nat.reducePow]
  repeat' first
    | with_reducible exact Same.refl _
    | with_reducible refine ((same_mSector ..).mono (by decide)).after ?_
    | with_reducible refine ((same_seqOrder ..).mono (by decide)).after ?_
    | with_reducible refine ((same_resetEnd ..).mono (by decide)).after ?_
    | intro _
    | split

theorem same_deadlock (cycle : List (Huid × Nat)) (s : State) : Same [.ports, .fc, .ct, .led, .vu, .hx, .ob] s
    (deadlock cycle s) := by
  unfold deadlock
  try dsimp only [-Nat.reducePow]
  repeat' first
    | with_reducible exact Same.refl _
    | with_reducible refine ((same_mVu _ _).mono (by decide)).after ?_
    | with_reducible refine ((same_bump ..).mono (by decide)).after ?_
    | with_reducible refine ((same_raise ..).mono (by decide)).after ?_
    | with_reducible refine ((same_ctxFence ..).mono (by decide)).after ?_
    | with_reducible refine ((same_haltQuiet ..).mono (by decide)).after ?_
    | with_reducible refine (same_foldl _ ?_ _ _).after ?_
    | with_reducible refine (same_foldl2 _ ?_ _ _).after ?_
    | intro _
    | split

theorem same_chainStep (h : Huid) (r : W64) (c : Chain) (s : State) : Same [.ports, .fc, .ct, .led, .vu, .hx, .ob] s
    (chainStep h r c s) := by
  unfold chainStep
  try dsimp only [-Nat.reducePow]
  repeat' first
    | with_reducible exact Same.refl _
    | with_reducible refine ((same_mCt _ _).mono (by decide)).after ?_
    | with_reducible refine ((same_waitQuery ..).mono (by decide)).after ?_
    | with_reducible refine ((same_deadlock ..).mono (by decide)).after ?_
    | intro _
    | split

theorem same_waitAnswered (h : Huid) (r : W64) (s : State) : Same [.ports, .fc, .ct, .led, .vu, .hx, .ob] s
    (waitAnswered h r s) := by
  unfold waitAnswered
  try dsimp only [-Nat.reducePow]
  repeat' first
    | with_reducible exact Same.refl _
    | with_reducible refine ((same_chainStep ..).mono (by decide)).after ?_
    | with_reducible refine (same_foldl _ ?_ _ _).after ?_
    | with_reducible refine (same_foldl2 _ ?_ _ _).after ?_
    | intro _

theorem same_waitLost (h : Huid) (s : State) : Same [.ct] s (waitLost h s) := by
  unfold waitLost
  try dsimp only [-Nat.reducePow]
  repeat' first
    | with_reducible exact Same.refl _
    | with_reducible refine ((same_mCt _ _).mono (by decide)).after ?_

theorem same_requeueRun (l : Nat) (s : State) : Same [.sa] s (requeueRun l s) := by
  unfold requeueRun
  try dsimp only [-Nat.reducePow]
  repeat' first
    | with_reducible exact Same.refl _
    | with_reducible refine ((same_mLane ..).mono (by decide)).after ?_

theorem same_engineReset (h : Huid) (w : Option W64) (s : State) : Same [.ct, .sa, .ob] s (engineReset h w s) := by
  unfold engineReset
  try dsimp only [-Nat.reducePow]
  repeat' first
    | with_reducible exact Same.refl _
    | with_reducible refine ((same_mCt _ _).mono (by decide)).after ?_
    | with_reducible refine ((same_bump ..).mono (by decide)).after ?_
    | with_reducible refine ((same_tryEntry ..).mono (by decide)).after ?_
    | with_reducible refine ((same_requeueRun ..).mono (by decide)).after ?_
    | with_reducible refine (same_foldl _ ?_ _ _).after ?_
    | with_reducible refine (same_foldl2 _ ?_ _ _).after ?_
    | intro _
    | split

theorem same_clearCollectors (s : State) : Same [.fc, .ob] s (clearCollectors s) := by
  unfold clearCollectors
  try dsimp only [-Nat.reducePow]
  repeat' first
    | with_reducible exact Same.refl _
    | with_reducible refine ((same_mFc _ _).mono (by decide)).after ?_
    | with_reducible refine ((same_bump ..).mono (by decide)).after ?_
    | with_reducible refine (same_foldl _ ?_ _ _).after ?_
    | with_reducible refine (same_foldl2 _ ?_ _ _).after ?_
    | intro _
    | split

theorem same_partReset (words : List W64) (s : State) : Same [.nv, .ports, .cfg, .fc, .ct, .led, .vu, .ym, .hx, .fr,
    .ob] s (partReset words s) := by
  unfold partReset
  try dsimp only [-Nat.reducePow]
  repeat' first
    | with_reducible exact Same.refl _
    | with_reducible refine ((same_mCt _ _).mono (by decide)).after ?_
    | with_reducible refine ((same_mVu _ _).mono (by decide)).after ?_
    | with_reducible refine ((same_bump ..).mono (by decide)).after ?_
    | with_reducible refine ((same_hostDone ..).mono (by decide)).after ?_
    | with_reducible refine ((same_haltQuiet ..).mono (by decide)).after ?_
    | with_reducible refine ((same_abandonDistil ..).mono (by decide)).after ?_
    | with_reducible refine ((same_voidSessionsWhere ..).mono (by decide)).after ?_
    | with_reducible refine ((same_tryEntry ..).mono (by decide)).after ?_
    | with_reducible refine ((same_clearCollectors ..).mono (by decide)).after ?_
    | with_reducible refine (same_foldl _ ?_ _ _).after ?_
    | with_reducible refine (same_foldl2 _ ?_ _ _).after ?_
    | intro _
    | split

theorem same_partHang (s : State) : Same [.ports, .fc, .ct, .led, .vu, .hx, .ob] s (partHang s) := by
  unfold partHang
  try dsimp only [-Nat.reducePow]
  repeat' first
    | with_reducible exact Same.refl _
    | with_reducible refine ((same_mCt _ _).mono (by decide)).after ?_
    | with_reducible refine ((same_reportUnit ..).mono (by decide)).after ?_
    | with_reducible refine ((same_hostDone ..).mono (by decide)).after ?_
    | with_reducible refine ((same_dumpStart ..).mono (by decide)).after ?_
    | with_reducible refine (same_foldl _ ?_ _ _).after ?_
    | with_reducible refine (same_foldl2 _ ?_ _ _).after ?_
    | intro _

theorem same_orderFailed (n : Nat) (o : ScOrder) (s : State) : Same [.nv, .ports, .cfg, .fc, .ct, .led, .twc, .per,
    .sa, .mem, .vu, .ym, .hx, .fr, .ts, .ob] s (orderFailed n o s) := by
  unfold orderFailed
  try dsimp only [-Nat.reducePow]
  repeat' first
    | with_reducible exact Same.refl _
    | with_reducible refine ((same_mSector ..).mono (by decide)).after ?_
    | with_reducible refine ((same_endHost ..).mono (by decide)).after ?_
    | with_reducible refine ((same_scrubDone ..).mono (by decide)).after ?_
    | with_reducible refine ((same_musterUnfenced ..).mono (by decide)).after ?_
    | with_reducible refine ((same_resetHang ..).mono (by decide)).after ?_
    | with_reducible refine ((same_sectorReset ..).mono (by decide)).after ?_
    | with_reducible refine ((same_resetEnd ..).mono (by decide)).after ?_
    | with_reducible refine ((same_seqNext ..).mono (by decide)).after ?_
    | with_reducible refine ((same_waitLost ..).mono (by decide)).after ?_
    | with_reducible refine (same_foldl _ ?_ _ _).after ?_
    | with_reducible refine (same_foldl2 _ ?_ _ _).after ?_
    | intro _
    | split

theorem same_purposesDone (n : Nat) (o : ScOrder) (r : W64) (s : State) : Same [.nv, .ports, .cfg, .fc, .ct, .led,
    .twc, .per, .sa, .mem, .vu, .ym, .hx, .ts, .ob] s (purposesDone n o r s) := by
  unfold purposesDone
  try dsimp only [-Nat.reducePow]
  repeat' first
    | with_reducible exact Same.refl _
    | with_reducible refine ((same_remapFenced ..).mono (by decide)).after ?_
    | with_reducible refine ((same_scrubDone ..).mono (by decide)).after ?_
    | with_reducible refine ((same_musterUnfenced ..).mono (by decide)).after ?_
    | with_reducible refine ((same_killSectorDone ..).mono (by decide)).after ?_
    | with_reducible refine ((same_orderDones ..).mono (by decide)).after ?_
    | with_reducible refine ((same_seqNext ..).mono (by decide)).after ?_
    | with_reducible refine ((same_waitAnswered ..).mono (by decide)).after ?_
    | with_reducible refine (same_foldl _ ?_ _ _).after ?_
    | with_reducible refine (same_foldl2 _ ?_ _ _).after ?_
    | intro _
    | split

theorem same_dropOrderEntry (n : Nat) (o : ScOrder) (s : State) : Same [.ct] s (dropOrderEntry n o s) := by
  unfold dropOrderEntry
  try dsimp only [-Nat.reducePow]
  repeat' first
    | with_reducible exact Same.refl _
    | with_reducible refine ((same_dropEntry ..).mono (by decide)).after ?_
    | intro _
    | split

theorem same_portFree (n : Nat) (s : State) : Same [.ct] s (portFree n s) := by
  unfold portFree
  try dsimp only [-Nat.reducePow]
  repeat' first
    | with_reducible exact Same.refl _
    | with_reducible refine ((same_mSector ..).mono (by decide)).after ?_

theorem same_timedOut (c : Cmd) (s : State) : Same [.ports, .fc, .ct, .led, .vu, .hx, .ob] s (timedOut c s) := by
  unfold timedOut
  try dsimp only [-Nat.reducePow]
  repeat' first
    | with_reducible exact Same.refl _
    | with_reducible refine ((same_mCt _ _).mono (by decide)).after ?_
    | with_reducible refine ((same_bump ..).mono (by decide)).after ?_
    | with_reducible refine ((same_reportUnit ..).mono (by decide)).after ?_

theorem same_scAck (n status : Nat) (r : W64) (s : State) : Same [.nv, .ports, .cfg, .fc, .ct, .led, .twc, .per,
    .sa, .mem, .vu, .ym, .hx, .fr, .ts, .ob] s (scAck n status r s) := by
  unfold scAck
  try dsimp only [-Nat.reducePow]
  repeat' first
    | with_reducible exact Same.refl _
    | with_reducible refine ((same_mSector ..).mono (by decide)).after ?_
    | with_reducible refine ((same_dropEntry ..).mono (by decide)).after ?_
    | with_reducible refine ((same_scStart ..).mono (by decide)).after ?_
    | with_reducible refine ((same_orderFailed ..).mono (by decide)).after ?_
    | with_reducible refine ((same_purposesDone ..).mono (by decide)).after ?_
    | with_reducible refine ((same_dropOrderEntry ..).mono (by decide)).after ?_
    | with_reducible refine ((same_portFree ..).mono (by decide)).after ?_
    | with_reducible refine ((same_timedOut ..).mono (by decide)).after ?_
    | intro _
    | split

theorem same_chipFailed (target : Huid) (s : State) : Same [.nv, .ports, .cfg, .fc, .ct, .led, .vu, .ym, .hx, .ob] s
    (chipFailed target s) := by
  unfold chipFailed
  try dsimp only [-Nat.reducePow]
  repeat' first
    | with_reducible exact Same.refl _
    | with_reducible refine ((same_mCt _ _).mono (by decide)).after ?_
    | with_reducible refine ((same_reportUnit ..).mono (by decide)).after ?_
    | with_reducible refine ((same_mSector ..).mono (by decide)).after ?_
    | with_reducible refine ((same_reachUpdate ..).mono (by decide)).after ?_
    | intro _
    | split

theorem same_sectorTimeout (n : Nat) (s : State) : Same [.nv, .ports, .cfg, .fc, .ct, .led, .twc, .per, .sa, .mem,
    .vu, .ym, .hx, .fr, .ts, .ob] s (sectorTimeout n s) := by
  unfold sectorTimeout
  try dsimp only [-Nat.reducePow]
  repeat' first
    | with_reducible exact Same.refl _
    | with_reducible refine ((same_mSector ..).mono (by decide)).after ?_
    | with_reducible refine ((same_orderFailed ..).mono (by decide)).after ?_
    | intro _
    | split

theorem same_ctTimeout (k : Nat) (s : State) : Same [.nv, .ports, .cfg, .fc, .ct, .led, .twc, .per, .sa, .mem, .vu,
    .ym, .hx, .fr, .ts, .ob] s (ctTimeout k s) := by
  unfold ctTimeout
  try dsimp only [-Nat.reducePow]
  repeat' first
    | with_reducible exact Same.refl _
    | with_reducible refine ((same_mCt _ _).mono (by decide)).after ?_
    | with_reducible refine ((same_dropEntry ..).mono (by decide)).after ?_
    | with_reducible refine ((same_hostDone ..).mono (by decide)).after ?_
    | with_reducible refine ((same_fcpTimeout ..).mono (by decide)).after ?_
    | with_reducible refine ((same_partReset ..).mono (by decide)).after ?_
    | with_reducible refine ((same_partHang ..).mono (by decide)).after ?_
    | with_reducible refine ((same_timedOut ..).mono (by decide)).after ?_
    | with_reducible refine ((same_chipFailed ..).mono (by decide)).after ?_
    | with_reducible refine ((same_sectorTimeout ..).mono (by decide)).after ?_
    | with_reducible refine (same_foldl _ ?_ _ _).after ?_
    | with_reducible refine (same_foldl2 _ ?_ _ _).after ?_
    | intro _
    | split

theorem same_scWithdrawTimeout (n : Nat) (s : State) : Same [.ports, .fc, .ct, .led, .vu, .hx, .ob] s
    (scWithdrawTimeout n s) := by
  unfold scWithdrawTimeout
  try dsimp only [-Nat.reducePow]
  repeat' first
    | with_reducible exact Same.refl _
    | with_reducible refine ((same_mSector ..).mono (by decide)).after ?_
    | with_reducible refine ((same_resetHang ..).mono (by decide)).after ?_
    | intro _
    | split

theorem same_ctEntryFree (s : State) : Same [.ports, .fc, .ct, .led, .twc, .per, .sa, .mem, .vu, .ym, .hx, .ts, .ob]
    s (ctEntryFree s) := by
  unfold ctEntryFree
  try dsimp only [-Nat.reducePow]
  repeat' first
    | with_reducible exact Same.refl _
    | with_reducible refine ((same_mCt _ _).mono (by decide)).after ?_
    | with_reducible refine ((same_bump ..).mono (by decide)).after ?_
    | with_reducible refine ((same_mSector ..).mono (by decide)).after ?_
    | with_reducible refine ((same_scStart ..).mono (by decide)).after ?_
    | with_reducible refine ((same_pumpFcp ..).mono (by decide)).after ?_
    | with_reducible refine ((same_ymAdvance ..).mono (by decide)).after ?_
    | with_reducible refine (same_foldl _ ?_ _ _).after ?_
    | with_reducible refine (same_foldl2 _ ?_ _ _).after ?_
    | intro _
    | split

theorem same_orderEnds (who : Nat) (w : W64) (status : Nat) (s : State) : Same [.ct] s (orderEnds who w status s) :=
    by
  unfold orderEnds
  try dsimp only [-Nat.reducePow]
  repeat' first
    | with_reducible exact Same.refl _
    | with_reducible refine ((same_hostDone ..).mono (by decide)).after ?_
    | intro _
    | split

theorem same_killOrder (who : Nat) (w : W64) (s : State) : Same [.nv, .ports, .cfg, .fc, .ct, .led, .twc, .sa, .mem,
    .vu, .hx, .ob] s (killOrder who w s) := by
  unfold killOrder
  try dsimp only [-Nat.reducePow]
  repeat' first
    | with_reducible exact Same.refl _
    | with_reducible refine ((same_kill ..).mono (by decide)).after ?_

theorem same_outrankedOrder (who : Nat) (w : W64) (s : State) : Same [.ct, .ob] s (outrankedOrder who w s) := by
  unfold outrankedOrder
  try dsimp only [-Nat.reducePow]
  repeat' first
    | with_reducible exact Same.refl _
    | with_reducible refine ((same_bump ..).mono (by decide)).after ?_
    | with_reducible refine ((same_orderEnds ..).mono (by decide)).after ?_

theorem same_fenceCoreOrder (who : Nat) (w : W64) (s : State) : Same [.draws, .nv, .ports, .cfg, .fc, .ct, .led,
    .twc, .per, .sa, .mem, .vu, .ym, .hx, .fr, .ts, .ob] s (fenceCoreOrder who w s) := by
  unfold fenceCoreOrder
  try dsimp only [-Nat.reducePow]
  repeat' first
    | with_reducible exact Same.refl _
    | with_reducible refine ((same_mYm _ _).mono (by decide)).after ?_
    | with_reducible refine ((same_fenceOrder ..).mono (by decide)).after ?_
    | with_reducible refine ((same_mPad ..).mono (by decide)).after ?_
    | with_reducible refine ((same_voidVote ..).mono (by decide)).after ?_
    | with_reducible refine ((same_voidSession ..).mono (by decide)).after ?_
    | with_reducible refine ((same_orderDone ..).mono (by decide)).after ?_
    | with_reducible refine ((same_orderEnds ..).mono (by decide)).after ?_
    | with_reducible refine ((same_outrankedOrder ..).mono (by decide)).after ?_
    | intro _
    | split

theorem same_unfenceCoreOrder (who : Nat) (w : W64) (s : State) : Same [.nv, .ports, .cfg, .fc, .ct, .led, .vu, .ym,
    .hx, .ob] s (unfenceCoreOrder who w s) := by
  unfold unfenceCoreOrder
  try dsimp only [-Nat.reducePow]
  repeat' first
    | with_reducible exact Same.refl _
    | with_reducible refine ((same_unfenceOrder ..).mono (by decide)).after ?_
    | with_reducible refine ((same_orderDone ..).mono (by decide)).after ?_
    | with_reducible refine ((same_orderEnds ..).mono (by decide)).after ?_
    | with_reducible refine ((same_outrankedOrder ..).mono (by decide)).after ?_
    | intro _
    | split

theorem same_resetSectorOrder (who : Nat) (w : W64) (s : State) : Same [.nv, .ports, .cfg, .fc, .ct, .led, .vu, .ym,
    .hx, .fr, .ob] s (resetSectorOrder who w s) := by
  unfold resetSectorOrder
  try dsimp only [-Nat.reducePow]
  repeat' first
    | with_reducible exact Same.refl _
    | with_reducible refine ((same_sectorReset ..).mono (by decide)).after ?_
    | with_reducible refine ((same_orderEnds ..).mono (by decide)).after ?_
    | intro _
    | split

theorem same_scrubSectorOrder (who : Nat) (w : W64) (s : State) : Same [.ct, .ob] s (scrubSectorOrder who w s) := by
  unfold scrubSectorOrder
  try dsimp only [-Nat.reducePow]
  repeat' first
    | with_reducible exact Same.refl _
    | with_reducible refine ((same_scOrder ..).mono (by decide)).after ?_
    | with_reducible refine ((same_orderEnds ..).mono (by decide)).after ?_
    | intro _
    | split

theorem same_resetEngineOrder (who : Nat) (w : W64) (s : State) : Same [.ct, .sa, .ob] s (resetEngineOrder who w s)
    := by
  unfold resetEngineOrder
  try dsimp only [-Nat.reducePow]
  repeat' first
    | with_reducible exact Same.refl _
    | with_reducible refine ((same_engineReset ..).mono (by decide)).after ?_
    | with_reducible refine ((same_orderEnds ..).mono (by decide)).after ?_
    | with_reducible refine ((same_outrankedOrder ..).mono (by decide)).after ?_
    | intro _
    | split

theorem same_resetPartOrder (who : Nat) (w : W64) (s : State) : Same [.nv, .ports, .cfg, .fc, .ct, .led, .vu, .ym,
    .hx, .fr, .ob] s (resetPartOrder who w s) := by
  unfold resetPartOrder
  try dsimp only [-Nat.reducePow]
  repeat' first
    | with_reducible exact Same.refl _
    | with_reducible refine ((same_partReset ..).mono (by decide)).after ?_

theorem same_ctOrder (who : Nat) (w : W64) (s : State) : Same [.draws, .nv, .ports, .cfg, .fc, .ct, .led, .twc,
    .per, .sa, .mem, .vu, .ym, .hx, .fr, .ts, .ob] s (ctOrder who w s) := by
  unfold ctOrder
  try dsimp only [-Nat.reducePow]
  repeat' first
    | with_reducible exact Same.refl _
    | with_reducible refine ((same_reportSelf ..).mono (by decide)).after ?_
    | with_reducible refine ((same_killOrder ..).mono (by decide)).after ?_
    | with_reducible refine ((same_fenceCoreOrder ..).mono (by decide)).after ?_
    | with_reducible refine ((same_unfenceCoreOrder ..).mono (by decide)).after ?_
    | with_reducible refine ((same_resetSectorOrder ..).mono (by decide)).after ?_
    | with_reducible refine ((same_scrubSectorOrder ..).mono (by decide)).after ?_
    | with_reducible refine ((same_resetEngineOrder ..).mono (by decide)).after ?_
    | with_reducible refine ((same_resetPartOrder ..).mono (by decide)).after ?_
    | intro _
    | split

theorem same_ctOrderWrite (priv : BitVec 2) (w : W64) (f : State → State) (s : State) {m : List Part} (hm :
    Part.within [.ports, .fc, .ct, .led, .vu, .hx, .sec, .ob] m = true) (hf : ∀ s, Same m s (f s)) : Same m s
      (ctOrderWrite priv w f s) := by
  unfold ctOrderWrite
  try dsimp only [-Nat.reducePow]
  repeat' first
    | with_reducible exact Same.refl _
    | with_reducible refine ((same_reportSelf ..).mono (Part.within_trans (by decide) hm)).after ?_
    | with_reducible refine ((same_hostDone ..).mono (Part.within_trans (by decide) hm)).after ?_
    | with_reducible refine ((same_answer ..).mono (Part.within_trans (by decide) hm)).after ?_
    | with_reducible refine ((same_denied ..).mono (Part.within_trans (by decide) hm)).after ?_
    | with_reducible refine (same_hrp _ _ (Part.within_trans (by decide) hm) ?_).after ?_
    | with_reducible refine (hf ..).after ?_
    | intro _
    | split

theorem same_orderRow (op : Nat) (priv : BitVec 2) (w : W64) (f : Nat → W64 → State → State) (s : State) {m : List
    Part} (hm : Part.within [.ports, .fc, .ct, .led, .vu, .hx, .sec, .ob] m = true) (hf : ∀ a0 a1 s, Same m s (f a0
      a1 s)) : Same m s (orderRow op priv w f s) := by
  unfold orderRow
  try dsimp only [-Nat.reducePow]
  repeat' first
    | with_reducible exact Same.refl _
    | with_reducible refine (same_ctOrderWrite _ _ _ _ (Part.within_trans (by decide) hm) ?_).after ?_
    | with_reducible refine (hf ..).after ?_
    | intro _
    | split

end Sys2Proof.Machine
end

