-- ==== Sys2Proof/Laws/Units4.lean ====
section
/-!
SUPPORT. The units that the operations of these files of the machine may change: Twin, Perim, Shadow, Tick, ExpertMap,
Stages, Repair, Training, Hitch.
-/
namespace Sys2Proof.Machine

/-! ### Twin -/

theorem same_twLast (t : Token) (outcome elem : Nat) (s : State) : Same [.twc] s (twLast t outcome elem s) := by
  unfold twLast
  try dsimp only [-Nat.reducePow]
  repeat' first
    | with_reducible exact Same.refl _
    | with_reducible refine ((same_mTwc _ _).mono (by decide)).after ?_

theorem same_freeXtest (t : Token) (s : State) : Same [.ports, .fc, .led, .twc, .per, .sa, .mem, .vu, .hx, .ts, .ob]
    s (freeXtest t s) := by
  unfold freeXtest
  try dsimp only [-Nat.reducePow]
  repeat' first
    | with_reducible exact Same.refl _
    | with_reducible refine ((same_dropInst ..).mono (by decide)).after ?_
    | with_reducible refine ((same_resumeDeferred ..).mono (by decide)).after ?_
    | intro _
    | split

theorem same_xtestOutcome (p : Plan) (t : Token) (outcome : Nat) (s : State) : Same [.ports, .fc, .led, .twc, .per,
    .sa, .mem, .vu, .hx, .ts, .ob] s (xtestOutcome p t outcome s) := by
  unfold xtestOutcome
  try dsimp only [-Nat.reducePow]
  repeat' first
    | with_reducible exact Same.refl _
    | with_reducible refine ((same_bumpCtx ..).mono (by decide)).after ?_
    | with_reducible refine ((same_openDispute ..).mono (by decide)).after ?_
    | with_reducible refine ((same_reportCores ..).mono (by decide)).after ?_
    | with_reducible refine ((same_twLast ..).mono (by decide)).after ?_
    | with_reducible refine ((same_freeXtest ..).mono (by decide)).after ?_
    | intro _
    | split

theorem same_twinDone (p : Plan) (t : Token) (outcome : Nat) (s : State) : Same [.ports, .fc, .led, .twc, .vu, .hx,
    .ob] s (twinDone p t outcome s) := by
  unfold twinDone
  try dsimp only [-Nat.reducePow]
  repeat' first
    | with_reducible exact Same.refl _
    | with_reducible refine ((same_bumpCtx ..).mono (by decide)).after ?_
    | with_reducible refine ((same_openDispute ..).mono (by decide)).after ?_
    | with_reducible refine ((same_reportCores ..).mono (by decide)).after ?_
    | with_reducible refine ((same_taskPassed ..).mono (by decide)).after ?_
    | with_reducible refine ((same_twLast ..).mono (by decide)).after ?_
    | intro _
    | split

theorem same_twinDisagree (t : Token) (s : State) : Same [.ports, .fc, .led, .twc, .vu, .hx, .ob] s (twinDisagree t
    s) := by
  unfold twinDisagree
  try dsimp only [-Nat.reducePow]
  repeat' first
    | with_reducible exact Same.refl _
    | with_reducible refine ((same_mTwc _ _).mono (by decide)).after ?_
    | with_reducible refine ((same_bumpCtx ..).mono (by decide)).after ?_
    | with_reducible refine ((same_openDispute ..).mono (by decide)).after ?_
    | with_reducible refine ((same_reportSelf ..).mono (by decide)).after ?_
    | with_reducible refine ((same_twLast ..).mono (by decide)).after ?_
    | intro _
    | split

theorem same_twcCompare (a b : PathSay) (s : State) : Same [.ports, .fc, .led, .twc, .per, .sa, .mem, .vu, .hx, .ts,
    .ob] s (twcCompare a b s) := by
  unfold twcCompare
  try dsimp only [-Nat.reducePow]
  repeat' first
    | with_reducible exact Same.refl _
    | with_reducible refine ((same_mTwc _ _).mono (by decide)).after ?_
    | with_reducible refine ((same_bumpCtx ..).mono (by decide)).after ?_
    | with_reducible refine ((same_noChecker ..).mono (by decide)).after ?_
    | with_reducible refine ((same_countStale ..).mono (by decide)).after ?_
    | with_reducible refine ((same_voidTask ..).mono (by decide)).after ?_
    | with_reducible refine ((same_redispatchReturned ..).mono (by decide)).after ?_
    | with_reducible refine ((same_xtestOutcome ..).mono (by decide)).after ?_
    | with_reducible refine ((same_twinDone ..).mono (by decide)).after ?_
    | with_reducible refine ((same_twinDisagree ..).mono (by decide)).after ?_
    | intro _
    | split

/-! ### Perim -/

theorem same_peLast (p : Plan) (t : Token) (outcome mask loc column : Nat) (checker : Bool) (s : State) : Same
    [.per] s (peLast p t outcome mask loc column checker s) := by
  unfold peLast
  try dsimp only [-Nat.reducePow]
  repeat' first
    | with_reducible exact Same.refl _
    | with_reducible refine ((same_mPer _ _).mono (by decide)).after ?_

theorem same_peCount (outcome : Nat) (t : Token) (s : State) : Same [.ob] s (peCount outcome t s) := by
  unfold peCount
  try dsimp only [-Nat.reducePow]
  repeat' first
    | with_reducible exact Same.refl _
    | with_reducible refine ((same_bumpCtx ..).mono (by decide)).after ?_
    | intro _
    | split

theorem same_perimDispute (t : Token) (p1 p2 outcome column : Nat) (s : State) : Same [.vu, .ob] s (perimDispute t
    p1 p2 outcome column s) := by
  unfold perimDispute
  try dsimp only [-Nat.reducePow]
  repeat' first
    | with_reducible exact Same.refl _
    | with_reducible refine ((same_openDispute ..).mono (by decide)).after ?_

theorem same_perimDone (p : Plan) (t : Token) (p1 p2 outcome mask : Nat) (s : State) : Same [.ports, .fc, .led,
    .per, .vu, .hx, .ob] s (perimDone p t p1 p2 outcome mask s) := by
  unfold perimDone
  try dsimp only [-Nat.reducePow]
  repeat' first
    | with_reducible exact Same.refl _
    | with_reducible refine ((same_bumpCtx ..).mono (by decide)).after ?_
    | with_reducible refine ((same_reportCores ..).mono (by decide)).after ?_
    | with_reducible refine ((same_taskPassed ..).mono (by decide)).after ?_
    | with_reducible refine ((same_mLayerCounts ..).mono (by decide)).after ?_
    | with_reducible refine ((same_peLast ..).mono (by decide)).after ?_
    | with_reducible refine ((same_peCount ..).mono (by decide)).after ?_
    | with_reducible refine ((same_perimDispute ..).mono (by decide)).after ?_
    | intro _
    | split

theorem same_perimDisagree (p : Plan) (t : Token) (p1 p2 : Nat) (katA katB : Bool) (s : State) : Same [.nv, .ports,
    .cfg, .fc, .led, .per, .vu, .hx, .ob] s (perimDisagree p t p1 p2 katA katB s) := by
  unfold perimDisagree
  try dsimp only [-Nat.reducePow]
  repeat' first
    | with_reducible exact Same.refl _
    | with_reducible refine ((same_mPer _ _).mono (by decide)).after ?_
    | with_reducible refine ((same_bumpCtx ..).mono (by decide)).after ?_
    | with_reducible refine ((same_openDispute ..).mono (by decide)).after ?_
    | with_reducible refine ((same_reportSelf ..).mono (by decide)).after ?_
    | with_reducible refine ((same_pipeKat ..).mono (by decide)).after ?_
    | with_reducible refine ((same_peLast ..).mono (by decide)).after ?_
    | with_reducible refine ((same_peCount ..).mono (by decide)).after ?_
    | intro _
    | split

theorem same_perimHalt (p : Plan) (t : Token) (s : State) : Same [.ports, .fc, .led, .vu, .hx, .ob] s (perimHalt p t
    s) := by
  unfold perimHalt
  try dsimp only [-Nat.reducePow]
  repeat' first
    | with_reducible exact Same.refl _
    | with_reducible refine ((same_haltWith ..).mono (by decide)).after ?_

theorem same_perimRun (p : Plan) (t : Token) (p1 p2 : Nat) (a b : PathSay) (katA katB : Bool) (s : State) : Same
    [.nv, .ports, .cfg, .fc, .led, .per, .mem, .vu, .hx, .ob] s (perimRun p t p1 p2 a b katA katB s) := by
  unfold perimRun
  try dsimp only [-Nat.reducePow]
  repeat' first
    | with_reducible exact Same.refl _
    | with_reducible refine ((same_bumpCtx ..).mono (by decide)).after ?_
    | with_reducible refine ((same_voidTask ..).mono (by decide)).after ?_
    | with_reducible refine ((same_redispatchReturned ..).mono (by decide)).after ?_
    | with_reducible refine ((same_perimDone ..).mono (by decide)).after ?_
    | with_reducible refine ((same_perimDisagree ..).mono (by decide)).after ?_
    | with_reducible refine ((same_perimHalt ..).mono (by decide)).after ?_
    | intro _
    | split

theorem same_perimCommand (pipe : Nat) (a b : PathSay) (katA katB : Bool) (s : State) : Same [.nv, .ports, .cfg,
    .fc, .led, .per, .mem, .vu, .hx, .ob] s (perimCommand pipe a b katA katB s) := by
  unfold perimCommand
  try dsimp only [-Nat.reducePow]
  repeat' first
    | with_reducible exact Same.refl _
    | with_reducible refine ((same_mPer _ _).mono (by decide)).after ?_
    | with_reducible refine ((same_noChecker ..).mono (by decide)).after ?_
    | with_reducible refine ((same_countStale ..).mono (by decide)).after ?_
    | with_reducible refine ((same_peLast ..).mono (by decide)).after ?_
    | with_reducible refine ((same_perimRun ..).mono (by decide)).after ?_
    | intro _
    | split

theorem same_perKatPeriod (pass : BitVec 8) (s : State) : Same [.nv, .ports, .cfg, .fc, .led, .per, .vu, .hx, .ob] s
    (perKatPeriod pass s) := by
  unfold perKatPeriod
  try dsimp only [-Nat.reducePow]
  repeat' first
    | with_reducible exact Same.refl _
    | with_reducible refine ((same_pipeKat ..).mono (by decide)).after ?_
    | with_reducible refine (same_foldl _ ?_ _ _).after ?_
    | with_reducible refine (same_foldl2 _ ?_ _ _).after ?_
    | intro _
    | split

/-! ### Shadow -/

theorem same_cacheDesc (k plan desc : Nat) (s : State) : Same [.sa] s (cacheDesc k plan desc s) := by
  unfold cacheDesc
  try dsimp only [-Nat.reducePow]
  repeat' first
    | with_reducible exact Same.refl _
    | with_reducible refine ((same_mCluster ..).mono (by decide)).after ?_

theorem same_streamBlocks (lane n buf : Nat) (b : Bytes) (s : State) : Same [.mem] s (streamBlocks lane n buf b s)
    := by
  induction n generalizing buf b s with
  | zero => exact Same.refl s
  | succ n ih =>
    unfold streamBlocks
    split
    · exact Same.refl _
    · exact (ih ..).after ((same_mMem _ _).mono (by decide))

theorem same_stageOperands (lane : Nat) (w : Task) (s : State) : Same [.mem] s (stageOperands lane w s) := by
  unfold stageOperands
  try dsimp only [-Nat.reducePow]
  repeat' first
    | with_reducible exact Same.refl _
    | with_reducible refine ((same_mMem _ _).mono (by decide)).after ?_
    | with_reducible refine ((same_injectAt ..).mono (by decide)).after ?_
    | with_reducible refine ((same_dropFlips ..).mono (by decide)).after ?_
    | with_reducible refine ((same_streamBlocks ..).mono (by decide)).after ?_
    | intro _
    | split

theorem same_ccElem (lane count first : Nat) (s : State) : Same [.sa] s (ccElem lane count first s) := by
  unfold ccElem
  try dsimp only [-Nat.reducePow]
  repeat' first
    | with_reducible exact Same.refl _
    | with_reducible refine ((same_mCluster ..).mono (by decide)).after ?_

theorem same_shadowDiff (p : Plan) (t : Token) (s : State) : Same [.ports, .fc, .led, .vu, .hx, .ob] s (shadowDiff p
    t s) := by
  unfold shadowDiff
  try dsimp only [-Nat.reducePow]
  repeat' first
    | with_reducible exact Same.refl _
    | with_reducible refine ((same_reportCores ..).mono (by decide)).after ?_

theorem same_laneIdle (lane : Nat) (s : State) : Same [.sa] s (laneIdle lane s) := by
  unfold laneIdle
  try dsimp only [-Nat.reducePow]
  repeat' first
    | with_reducible exact Same.refl _
    | with_reducible refine ((same_mLane ..).mono (by decide)).after ?_

theorem same_shadowShape (p : Plan) (t : Token) (lane : Nat) (s : State) : Same [.ports, .fc, .led, .sa, .vu, .hx,
    .ob] s (shadowShape p t lane s) := by
  unfold shadowShape
  try dsimp only [-Nat.reducePow]
  repeat' first
    | with_reducible exact Same.refl _
    | with_reducible refine ((same_bumpCtx ..).mono (by decide)).after ?_
    | with_reducible refine ((same_openDispute ..).mono (by decide)).after ?_
    | with_reducible refine ((same_ccLast ..).mono (by decide)).after ?_
    | with_reducible refine ((same_redispatchReturned ..).mono (by decide)).after ?_
    | with_reducible refine ((same_shadowDiff ..).mono (by decide)).after ?_

theorem same_shadowTaskStart (lane : Nat) (s : State) : Same [.ports, .fc, .led, .sa, .mem, .vu, .hx, .ob] s
    (shadowTaskStart lane s) := by
  unfold shadowTaskStart
  try dsimp only [-Nat.reducePow]
  repeat' first
    | with_reducible exact Same.refl _
    | with_reducible refine ((same_mLane ..).mono (by decide)).after ?_
    | with_reducible refine ((same_countStale ..).mono (by decide)).after ?_
    | with_reducible refine ((same_cacheDesc ..).mono (by decide)).after ?_
    | with_reducible refine ((same_stageOperands ..).mono (by decide)).after ?_
    | with_reducible refine ((same_shadowShape ..).mono (by decide)).after ?_
    | intro _
    | split

theorem same_partialRecord (p : Plan) (t : Token) (part e : Nat) (r : Bytes) (s : State) : Same [.led, .mem] s
    (partialRecord p t part e r s) := by
  unfold partialRecord
  try dsimp only [-Nat.reducePow]
  repeat' first
    | with_reducible exact Same.refl _
    | with_reducible refine ((same_mInst ..).mono (by decide)).after ?_
    | with_reducible refine ((same_loftWrite ..).mono (by decide)).after ?_
    | intro _
    | split

theorem same_pushFailed (p : Plan) (m : Push) (t : Token) (s : State) : Same [.ports, .fc, .led, .sa, .vu, .hx, .ob]
    s (pushFailed p m t s) := by
  unfold pushFailed
  try dsimp only [-Nat.reducePow]
  repeat' first
    | with_reducible exact Same.refl _
    | with_reducible refine ((same_bumpCtx ..).mono (by decide)).after ?_
    | with_reducible refine ((same_report ..).mono (by decide)).after ?_
    | with_reducible refine ((same_ccLast ..).mono (by decide)).after ?_

theorem same_combinePush (m : Push) (s : State) : Same [.ports, .fc, .led, .twc, .per, .sa, .mem, .vu, .hx, .ts,
    .ob] s (combinePush m s) := by
  unfold combinePush
  try dsimp only [-Nat.reducePow]
  repeat' first
    | with_reducible exact Same.refl _
    | with_reducible refine ((same_bumpCtx ..).mono (by decide)).after ?_
    | with_reducible refine ((same_countStale ..).mono (by decide)).after ?_
    | with_reducible refine ((same_needInst ..).mono (by decide)).after ?_
    | with_reducible refine ((same_mGroup ..).mono (by decide)).after ?_
    | with_reducible refine ((same_setGroupFull ..).mono (by decide)).after ?_
    | with_reducible refine ((same_partialRecord ..).mono (by decide)).after ?_
    | with_reducible refine ((same_pushFailed ..).mono (by decide)).after ?_
    | with_reducible refine (same_foldl _ ?_ _ _).after ?_
    | with_reducible refine (same_foldl2 _ ?_ _ _).after ?_
    | intro _
    | split

theorem same_countProducts (t : Token) (n : Nat) (s : State) : Same [.sa, .ob] s (countProducts t n s) := by
  unfold countProducts
  try dsimp only [-Nat.reducePow]
  repeat' first
    | with_reducible exact Same.refl _
    | with_reducible refine ((same_mSa _ _).mono (by decide)).after ?_
    | with_reducible refine ((same_bumpCtx ..).mono (by decide)).after ?_

theorem same_laneSuspect (p : Plan) (t : Token) (lane outcome : Nat) (katPass : Bool) (s : State) : Same [.nv,
    .ports, .cfg, .fc, .led, .sa, .vu, .hx, .ts, .ob] s (laneSuspect p t lane outcome katPass s) := by
  unfold laneSuspect
  try dsimp only [-Nat.reducePow]
  repeat' first
    | with_reducible exact Same.refl _
    | with_reducible refine ((same_bumpCtx ..).mono (by decide)).after ?_
    | with_reducible refine ((same_openDispute ..).mono (by decide)).after ?_
    | with_reducible refine ((same_report ..).mono (by decide)).after ?_
    | with_reducible refine ((same_mLane ..).mono (by decide)).after ?_
    | with_reducible refine ((same_mCluster ..).mono (by decide)).after ?_
    | with_reducible refine ((same_ccLast ..).mono (by decide)).after ?_
    | with_reducible refine ((same_fenceLane ..).mono (by decide)).after ?_
    | with_reducible refine ((same_laneKat ..).mono (by decide)).after ?_
    | with_reducible refine ((same_redispatchReturned ..).mono (by decide)).after ?_
    | with_reducible refine ((same_lane2Returned ..).mono (by decide)).after ?_
    | with_reducible refine ((same_laneIdle ..).mono (by decide)).after ?_
    | intro _
    | split

theorem same_shadowOutcome (p : Plan) (t : Token) (lane count first : Nat) (out : List Nat) (s : State) : Same
    [.ports, .fc, .led, .sa, .vu, .hx, .ob] s (shadowOutcome p t lane count first out s) := by
  unfold shadowOutcome
  try dsimp only [-Nat.reducePow]
  repeat' first
    | with_reducible exact Same.refl _
    | with_reducible refine ((same_bumpCtx ..).mono (by decide)).after ?_
    | with_reducible refine ((same_openDispute ..).mono (by decide)).after ?_
    | with_reducible refine ((same_ccLast ..).mono (by decide)).after ?_
    | with_reducible refine ((same_taskPassed ..).mono (by decide)).after ?_
    | with_reducible refine ((same_ccElem ..).mono (by decide)).after ?_
    | with_reducible refine ((same_shadowDiff ..).mono (by decide)).after ?_
    | intro _
    | split

theorem same_watchTask (p : Plan) (t : Token) (s : State) : Same [.ob] s (watchTask p t s) := by
  unfold watchTask
  try dsimp only [-Nat.reducePow]
  repeat' first
    | with_reducible exact Same.refl _
    | with_reducible refine ((same_mOb _ _).mono (by decide)).after ?_
    | with_reducible refine (same_foldl _ ?_ _ _).after ?_
    | with_reducible refine (same_foldl2 _ ?_ _ _).after ?_
    | intro _
    | split

theorem same_shadowCompare (p : Plan) (t : Token) (lane : Nat) (wrong : Option (BitVec 40 × BitVec 32)) (b :
    PathSay) (katPass : Bool) (s : State) : Same [.nv, .ports, .cfg, .fc, .led, .sa, .mem, .vu, .hx, .ts, .ob] s
      (shadowCompare p t lane wrong b katPass s) := by
  unfold shadowCompare
  try dsimp only [-Nat.reducePow]
  repeat' first
    | with_reducible exact Same.refl _
    | with_reducible refine ((same_bumpCtx ..).mono (by decide)).after ?_
    | with_reducible refine ((same_voidTask ..).mono (by decide)).after ?_
    | with_reducible refine ((same_redispatchReturned ..).mono (by decide)).after ?_
    | with_reducible refine ((same_lane2Returned ..).mono (by decide)).after ?_
    | with_reducible refine ((same_laneIdle ..).mono (by decide)).after ?_
    | with_reducible refine ((same_countProducts ..).mono (by decide)).after ?_
    | with_reducible refine ((same_laneSuspect ..).mono (by decide)).after ?_
    | with_reducible refine ((same_shadowOutcome ..).mono (by decide)).after ?_
    | with_reducible refine ((same_watchTask ..).mono (by decide)).after ?_
    | intro _
    | split

theorem same_partDone (p : Plan) (t : Token) (lane : Nat) (r : Run) (s : State) : Same [.ports, .fc, .led, .twc,
    .per, .sa, .mem, .vu, .hx, .ts, .ob] s (partDone p t lane r s) := by
  unfold partDone
  try dsimp only [-Nat.reducePow]
  repeat' first
    | with_reducible exact Same.refl _
    | with_reducible refine ((same_taskPassed ..).mono (by decide)).after ?_
    | with_reducible refine ((same_laneIdle ..).mono (by decide)).after ?_
    | with_reducible refine ((same_combinePush ..).mono (by decide)).after ?_
    | with_reducible refine ((same_countProducts ..).mono (by decide)).after ?_
    | with_reducible refine (same_foldl _ ?_ _ _).after ?_
    | with_reducible refine (same_foldl2 _ ?_ _ _).after ?_
    | intro _
    | split

theorem same_laneEcc (array place inst ek : Nat) (lane : Nat) (s : State) : Same [.draws, .nv, .ports, .cfg, .fc,
    .led, .mem, .vu, .hx, .ob] s (laneEcc array place inst ek lane s).2 := by
  unfold laneEcc
  try dsimp only [-Nat.reducePow]
  repeat' first
    | with_reducible exact Same.refl _
    | with_reducible refine ((same_draw _).mono (by decide)).after ?_
    | with_reducible refine ((same_bump ..).mono (by decide)).after ?_
    | with_reducible refine ((same_sbSoftRepair ..).mono (by decide)).after ?_
    | with_reducible refine ((same_dropFlips ..).mono (by decide)).after ?_
    | with_reducible refine ((same_eccLast ..).mono (by decide)).after ?_
    | with_reducible refine ((same_eccReport ..).mono (by decide)).after ?_
    | intro _
    | split

theorem same_taskEcc (lane : Nat) (s : State) : Same [.draws, .nv, .ports, .cfg, .fc, .led, .mem, .vu, .hx, .ob] s
    (taskEcc lane s).2.2 := by
  unfold taskEcc
  try dsimp only [-Nat.reducePow]
  repeat' first
    | with_reducible exact Same.refl _
    | with_reducible refine ((same_laneEcc ..).mono (by decide)).after ?_

theorem same_shadowTaskDone (lane : Nat) (residueFails : Bool) (wrong : Option (BitVec 40 × BitVec 32)) (b :
    PathSay) (katPass : Bool) (s : State) : Same [.draws, .nv, .ports, .cfg, .fc, .led, .twc, .per, .sa, .mem, .vu,
      .hx, .ts, .ob] s (shadowTaskDone lane residueFails wrong b katPass s) := by
  unfold shadowTaskDone
  try dsimp only [-Nat.reducePow]
  repeat' first
    | with_reducible exact Same.refl _
    | with_reducible refine ((same_bumpCtx ..).mono (by decide)).after ?_
    | with_reducible refine ((same_fenceLane ..).mono (by decide)).after ?_
    | with_reducible refine ((same_laneIdle ..).mono (by decide)).after ?_
    | with_reducible refine ((same_laneSuspect ..).mono (by decide)).after ?_
    | with_reducible refine ((same_shadowCompare ..).mono (by decide)).after ?_
    | with_reducible refine ((same_partDone ..).mono (by decide)).after ?_
    | with_reducible refine ((same_taskEcc ..).mono (by decide)).after ?_
    | with_reducible refine (same_foldl _ ?_ _ _).after ?_
    | with_reducible refine (same_foldl2 _ ?_ _ _).after ?_
    | intro _
    | split

theorem same_partialPush (lane : Nat) (s : State) : Same [.sa] s (partialPush lane s) := by
  unfold partialPush
  try dsimp only [-Nat.reducePow]
  repeat' first
    | with_reducible exact Same.refl _
    | with_reducible refine ((same_mLane ..).mono (by decide)).after ?_
    | with_reducible refine ((same_mCluster ..).mono (by decide)).after ?_
    | intro _
    | split

theorem same_inboundCombine (k : Nat) (s : State) : Same [.ports, .fc, .led, .twc, .per, .sa, .mem, .vu, .hx, .ts,
    .ob] s (inboundCombine k s) := by
  unfold inboundCombine
  try dsimp only [-Nat.reducePow]
  repeat' first
    | with_reducible exact Same.refl _
    | with_reducible refine ((same_mCluster ..).mono (by decide)).after ?_
    | with_reducible refine ((same_combinePush ..).mono (by decide)).after ?_
    | intro _
    | split

theorem same_remoteRead (lane k off lines : Nat) (s : State) : Same [.mem, .ob] s (remoteRead lane k off lines s) :=
    by
  unfold remoteRead
  try dsimp only [-Nat.reducePow]
  repeat' first
    | with_reducible exact Same.refl _
    | with_reducible refine ((same_bump ..).mono (by decide)).after ?_
    | with_reducible refine ((same_busAnswer ..).mono (by decide)).after ?_
    | intro _
    | split

theorem same_saKatPeriod (pass : W64) (s : State) : Same [.nv, .ports, .cfg, .fc, .led, .sa, .vu, .hx, .ts, .ob] s
    (saKatPeriod pass s) := by
  unfold saKatPeriod
  try dsimp only [-Nat.reducePow]
  repeat' first
    | with_reducible exact Same.refl _
    | with_reducible refine ((same_laneKat ..).mono (by decide)).after ?_
    | with_reducible refine (same_foldl _ ?_ _ _).after ?_
    | with_reducible refine (same_foldl2 _ ?_ _ _).after ?_
    | intro _
    | split

theorem same_powerCycle (c : Nat) (s : State) : Same [.sa, .mem] s (powerCycle c s) := by
  unfold powerCycle
  try dsimp only [-Nat.reducePow]
  repeat' first
    | with_reducible exact Same.refl _
    | with_reducible refine ((same_mLane ..).mono (by decide)).after ?_
    | with_reducible refine ((same_zeroCluster ..).mono (by decide)).after ?_
    | with_reducible refine (same_foldl _ ?_ _ _).after ?_
    | with_reducible refine (same_foldl2 _ ?_ _ _).after ?_
    | intro _

theorem same_laneWipe (lane : Nat) (r r2 : WipeSay) (s : State) : Same [.draws, .nv, .ports, .cfg, .fc, .led, .sa,
    .mem, .vu, .hx, .ts, .ob] s (laneWipe lane r r2 s) := by
  unfold laneWipe
  try dsimp only [-Nat.reducePow]
  repeat' first
    | with_reducible exact Same.refl _
    | with_reducible refine ((same_mMem _ _).mono (by decide)).after ?_
    | with_reducible refine ((same_draw _).mono (by decide)).after ?_
    | with_reducible refine ((same_mLane ..).mono (by decide)).after ?_
    | with_reducible refine ((same_eraseFailed ..).mono (by decide)).after ?_
    | with_reducible refine ((same_zeroLane ..).mono (by decide)).after ?_
    | with_reducible refine ((same_fenceLane ..).mono (by decide)).after ?_
    | with_reducible refine ((same_powerCycle ..).mono (by decide)).after ?_
    | with_reducible refine (same_foldl _ ?_ _ _).after ?_
    | with_reducible refine (same_foldl2 _ ?_ _ _).after ?_
    | intro _
    | split

/-! ### Tick -/

theorem same_resetLanes (ls : List Nat) (s : State) : Same [.draws, .nv, .ports, .cfg, .fc, .led, .sa, .vu, .hx,
    .ts, .ob] s (resetLanes ls s) := by
  unfold resetLanes
  try dsimp only [-Nat.reducePow]
  repeat' first
    | with_reducible exact Same.refl _
    | with_reducible refine ((same_draw _).mono (by decide)).after ?_
    | with_reducible refine ((same_laneKat ..).mono (by decide)).after ?_
    | with_reducible refine (same_foldl _ ?_ _ _).after ?_
    | with_reducible refine (same_foldl2 _ ?_ _ _).after ?_
    | intro _

theorem same_resetPipes (s : State) : Same [.draws, .nv, .ports, .cfg, .fc, .led, .per, .vu, .hx, .ob] s (resetPipes
    s) := by
  unfold resetPipes
  try dsimp only [-Nat.reducePow]
  repeat' first
    | with_reducible exact Same.refl _
    | with_reducible refine ((same_draw _).mono (by decide)).after ?_
    | with_reducible refine ((same_pipeKat ..).mono (by decide)).after ?_
    | with_reducible refine (same_foldl _ ?_ _ _).after ?_
    | with_reducible refine (same_foldl2 _ ?_ _ _).after ?_
    | intro _

theorem same_resetPaths (s : State) : Same [.draws, .ports, .fc, .led, .twc, .vu, .hx, .ob] s (resetPaths s) := by
  unfold resetPaths
  try dsimp only [-Nat.reducePow]
  repeat' first
    | with_reducible exact Same.refl _
    | with_reducible refine ((same_draw _).mono (by decide)).after ?_
    | with_reducible refine ((same_twcKat ..).mono (by decide)).after ?_

theorem same_engineEffect (e : Nat × Nat) (s : State) : Same [.draws, .nv, .ports, .cfg, .fc, .ct, .led, .twc, .per,
    .sa, .mem, .vu, .ym, .hx, .fr, .ts, .ob] s (engineEffect e s) := by
  unfold engineEffect
  try dsimp only [-Nat.reducePow]
  repeat' first
    | with_reducible exact Same.refl _
    | with_reducible refine ((same_zeroCluster ..).mono (by decide)).after ?_
    | with_reducible refine ((same_voidSessionsWhere ..).mono (by decide)).after ?_
    | with_reducible refine ((same_resetLanes ..).mono (by decide)).after ?_
    | with_reducible refine ((same_resetPipes ..).mono (by decide)).after ?_
    | with_reducible refine ((same_resetPaths ..).mono (by decide)).after ?_
    | intro _
    | split

theorem same_engineDone (e : Huid × Option W64) (s : State) : Same [.ct] s (engineDone e s) := by
  unfold engineDone
  try dsimp only [-Nat.reducePow]
  repeat' first
    | with_reducible exact Same.refl _
    | with_reducible refine ((same_dropEntry ..).mono (by decide)).after ?_
    | with_reducible refine ((same_hostDone ..).mono (by decide)).after ?_
    | intro _
    | split

theorem same_enginesDone (s : State) : Same [.draws, .nv, .ports, .cfg, .fc, .ct, .led, .twc, .per, .sa, .mem, .vu,
    .ym, .hx, .fr, .ts, .ob] s (enginesDone s) := by
  unfold enginesDone
  try dsimp only [-Nat.reducePow]
  repeat' first
    | with_reducible exact Same.refl _
    | with_reducible refine ((same_mCt _ _).mono (by decide)).after ?_
    | with_reducible refine ((same_engineEffect ..).mono (by decide)).after ?_
    | with_reducible refine ((same_engineDone ..).mono (by decide)).after ?_
    | with_reducible refine (same_foldl _ ?_ _ _).after ?_
    | with_reducible refine (same_foldl2 _ ?_ _ _).after ?_
    | intro _

theorem same_clearPart (s : State) : Same [.led, .twc, .per, .sa, .mem, .fr, .ob] s (clearPart s) := by
  exact ⟨rfl, fun _ => rfl, fun _ => rfl, fun _ => rfl, fun _ => rfl, fun _ => rfl, fun _ => rfl, fun _ => rfl, fun
    _ => rfl, fun _ => rfl, fun x => (x (by decide)).elim, fun x => (x (by decide)).elim, fun x => (x (by
      decide)).elim, fun x => (x (by decide)).elim, fun x => (x (by decide)).elim, fun _ => rfl, fun _ => rfl, fun _
        => rfl, fun x => (x (by decide)).elim, fun _ => rfl, fun _ => rfl, fun x => (x (by decide)).elim⟩

theorem same_partResetDone (s : State) : Same [.draws, .nv, .ports, .cfg, .fc, .ct, .led, .twc, .per, .sa, .mem,
    .vu, .hx, .fr, .ts, .ob] s (partResetDone s) := by
  unfold partResetDone
  try dsimp only [-Nat.reducePow]
  repeat' first
    | with_reducible exact Same.refl _
    | with_reducible refine ((same_mCt _ _).mono (by decide)).after ?_
    | with_reducible refine ((same_dropEntry ..).mono (by decide)).after ?_
    | with_reducible refine ((same_hostDone ..).mono (by decide)).after ?_
    | with_reducible refine ((same_killErased ..).mono (by decide)).after ?_
    | with_reducible refine ((same_resetLanes ..).mono (by decide)).after ?_
    | with_reducible refine ((same_resetPipes ..).mono (by decide)).after ?_
    | with_reducible refine ((same_resetPaths ..).mono (by decide)).after ?_
    | with_reducible refine ((same_clearPart ..).mono (by decide)).after ?_
    | with_reducible refine (same_foldl _ ?_ _ _).after ?_
    | with_reducible refine (same_foldl2 _ ?_ _ _).after ?_
    | intro _
    | split

theorem same_idle (s : State) : Same [.now, .draws, .nv, .ports, .cfg, .fc, .ct, .led, .twc, .per, .sa, .mem, .vu,
    .ym, .hx, .fr, .ts, .ob] s (idle s) := by
  unfold idle
  try dsimp only [-Nat.reducePow]
  repeat' first
    | with_reducible exact Same.refl _
    | with_reducible refine ((same_tick ..).mono (by decide)).after ?_
    | with_reducible refine ((same_enginesDone ..).mono (by decide)).after ?_
    | with_reducible refine ((same_partResetDone ..).mono (by decide)).after ?_
    | intro _
    | split

/-! ### ExpertMap -/

theorem same_expertWrite (a : Nat) (w : W64) (s : State) : Same [.expert] s (expertWrite a w s) := by
  unfold expertWrite
  split
  · exact ⟨rfl, fun _ => rfl, fun _ => rfl, fun _ => rfl, fun _ => rfl, fun _ => rfl, fun x => (x (by decide)).elim,
    fun _ => rfl, fun _ => rfl, fun _ => rfl, fun _ => rfl, fun _ => rfl, fun _ => rfl, fun _ => rfl, fun _ => rfl,
      fun _ => rfl, fun _ => rfl, fun _ => rfl, fun _ => rfl, fun _ => rfl, fun _ => rfl, fun _ => rfl⟩
  · exact Same.refl _

/-! ### Stages -/

theorem same_tackStage (n : Nat) (s : State) : Same [.ports, .ob] s (tackStage n s) := by
  unfold tackStage
  try dsimp only [-Nat.reducePow]
  repeat' first
    | with_reducible exact Same.refl _
    | with_reducible refine ((same_tackWrite ..).mono (by decide)).after ?_
    | with_reducible refine (same_foldl _ ?_ _ _).after ?_
    | with_reducible refine (same_foldl2 _ ?_ _ _).after ?_
    | intro _

theorem same_sendBulk (die arg : Nat) (b : Bytes) (s : State) : Same [.ports, .hx, .ob] s (sendBulk die arg b s) := by
  unfold sendBulk
  try dsimp only [-Nat.reducePow]
  repeat' first
    | with_reducible exact Same.refl _
    | with_reducible refine ((same_mHx _ _).mono (by decide)).after ?_
    | with_reducible refine ((same_hxSend ..).mono (by decide)).after ?_
    | with_reducible refine (same_foldl _ ?_ _ _).after ?_
    | with_reducible refine (same_foldl2 _ ?_ _ _).after ?_
    | intro _

theorem same_sendReports (s : State) : Same [.ports, .cfg, .hx, .ob] s (sendReports s) := by
  unfold sendReports
  try dsimp only [-Nat.reducePow]
  repeat' first
    | with_reducible exact Same.refl _
    | with_reducible refine ((same_mCfg _ _).mono (by decide)).after ?_
    | with_reducible refine ((same_sendBulk ..).mono (by decide)).after ?_
    | with_reducible refine (same_foldl _ ?_ _ _).after ?_
    | with_reducible refine (same_foldl2 _ ?_ _ _).after ?_
    | intro _
    | split

theorem same_stageReport (n status : Nat) (loci : List W128) (detail : Nat) (s : State) : Same [.ports, .cfg, .hx,
    .ob] s (stageReport n status loci detail s) := by
  unfold stageReport
  try dsimp only [-Nat.reducePow]
  repeat' first
    | with_reducible exact Same.refl _
    | with_reducible refine ((same_mCfg _ _).mono (by decide)).after ?_
    | with_reducible refine ((same_tackStage ..).mono (by decide)).after ?_
    | with_reducible refine ((same_sendReports ..).mono (by decide)).after ?_
    | with_reducible refine (same_foldl _ ?_ _ _).after ?_
    | with_reducible refine (same_foldl2 _ ?_ _ _).after ?_
    | intro _
    | split

theorem same_stagePass (n status : Nat) (loci : List W128) (detail : Nat) (s : State) : Same [.ports, .cfg, .hx,
    .ob] s (stagePass n status loci detail s) := by
  unfold stagePass
  try dsimp only [-Nat.reducePow]
  repeat' first
    | with_reducible exact Same.refl _
    | with_reducible refine ((same_mCfg _ _).mono (by decide)).after ?_
    | with_reducible refine ((same_stageReport ..).mono (by decide)).after ?_

theorem same_arriveBarrier0 (s : State) : Same [.ports, .cfg, .hx, .ob] s (arriveBarrier0 s) := by
  unfold arriveBarrier0
  try dsimp only [-Nat.reducePow]
  repeat' first
    | with_reducible exact Same.refl _
    | with_reducible refine ((same_mCfg _ _).mono (by decide)).after ?_
    | with_reducible refine ((same_barrierArrive ..).mono (by decide)).after ?_

theorem same_stageFatal (n : Nat) (loci : List W128) (detail : Nat) (s : State) : Same [.ports, .cfg, .fc, .led,
    .vu, .hx, .ob] s (stageFatal n loci detail s) := by
  unfold stageFatal
  try dsimp only [-Nat.reducePow]
  repeat' first
    | with_reducible exact Same.refl _
    | with_reducible refine ((same_mCfg _ _).mono (by decide)).after ?_
    | with_reducible refine ((same_reportSelf ..).mono (by decide)).after ?_
    | with_reducible refine ((same_stageReport ..).mono (by decide)).after ?_
    | with_reducible refine ((same_arriveBarrier0 ..).mono (by decide)).after ?_
    | intro _
    | split

theorem same_enterService (status tries : Nat) (s : State) : Same [.nv, .ports, .cfg, .fc, .led, .vu, .hx, .ob] s
    (enterService status tries s) := by
  unfold enterService
  try dsimp only [-Nat.reducePow]
  repeat' first
    | with_reducible exact Same.refl _
    | with_reducible refine ((same_mCfg _ _).mono (by decide)).after ?_
    | with_reducible refine ((same_sbWrite ..).mono (by decide)).after ?_
    | with_reducible refine ((same_stateChange ..).mono (by decide)).after ?_
    | with_reducible refine ((same_stageReport ..).mono (by decide)).after ?_

theorem same_barrier0Released (s : State) : Same [.nv, .ports, .cfg, .fc, .led, .vu, .hx, .ob] s (barrier0Released
    s) := by
  unfold barrier0Released
  try dsimp only [-Nat.reducePow]
  repeat' first
    | with_reducible exact Same.refl _
    | with_reducible refine ((same_enterService ..).mono (by decide)).after ?_
    | intro _
    | split

theorem same_barrier0Aborted (s : State) : Same [.nv, .ports, .cfg, .fc, .led, .vu, .hx, .ob] s (barrier0Aborted s)
    := by
  unfold barrier0Aborted
  try dsimp only [-Nat.reducePow]
  repeat' first
    | with_reducible exact Same.refl _
    | with_reducible refine ((same_arriveBarrier0 ..).mono (by decide)).after ?_
    | with_reducible refine ((same_enterService ..).mono (by decide)).after ?_
    | intro _
    | split

/-! ### Repair -/

theorem same_frRefused (s : State) : Same [.ports, .fc, .led, .vu, .hx, .ob] s (frRefused s) := by
  unfold frRefused
  try dsimp only [-Nat.reducePow]
  repeat' first
    | with_reducible exact Same.refl _
    | with_reducible refine ((same_reportSelf ..).mono (by decide)).after ?_

theorem same_frWindow (s : State) : Same [.ports, .fc, .led, .vu, .hx, .ob] s (frWindow s) := by
  unfold frWindow
  try dsimp only [-Nat.reducePow]
  repeat' first
    | with_reducible exact Same.refl _
    | with_reducible refine ((same_reportSelf ..).mono (by decide)).after ?_

theorem same_addRowMap (m : RowMap) (s : State) : Same [.mem] s (addRowMap m s) := by
  unfold addRowMap
  try dsimp only [-Nat.reducePow]
  repeat' first
    | with_reducible exact Same.refl _
    | with_reducible refine ((same_mMem _ _).mono (by decide)).after ?_

theorem same_repairRow (m : RowMap) (s : State) : Same [.nv, .cfg, .mem, .ob] s (repairRow m s).2 := by
  unfold repairRow
  try dsimp only [-Nat.reducePow]
  repeat' first
    | with_reducible exact Same.refl _
    | with_reducible refine ((same_bump ..).mono (by decide)).after ?_
    | with_reducible refine ((same_sbSoftRepair ..).mono (by decide)).after ?_
    | with_reducible refine ((same_addRowMap ..).mono (by decide)).after ?_
    | intro _
    | split

theorem same_keepRow (m : RowMap) (s : State) : Same [.nv, .cfg, .mem, .ob] s (keepRow m s) := by
  unfold keepRow
  try dsimp only [-Nat.reducePow]
  repeat' first
    | with_reducible exact Same.refl _
    | with_reducible refine ((same_addRowMap ..).mono (by decide)).after ?_
    | with_reducible refine ((same_repairRow ..).mono (by decide)).after ?_
    | intro _
    | split

theorem same_buildRowMaps (s : State) : Same [.nv, .cfg, .mem, .ob] s (buildRowMaps s) := by
  unfold buildRowMaps
  try dsimp only [-Nat.reducePow]
  repeat' first
    | with_reducible exact Same.refl _
    | with_reducible refine ((same_mMem _ _).mono (by decide)).after ?_
    | with_reducible refine ((same_keepRow ..).mono (by decide)).after ?_
    | with_reducible refine (same_foldl _ ?_ _ _).after ?_
    | with_reducible refine (same_foldl2 _ ?_ _ _).after ?_
    | intro _

theorem same_withhold (slot : Nat) (s : State) : Same [.mem] s (withhold slot s) := by
  unfold withhold
  try dsimp only [-Nat.reducePow]
  repeat' first
    | with_reducible exact Same.refl _
    | with_reducible refine ((same_mMem _ _).mono (by decide)).after ?_

theorem same_unrepairable (k : Nat × Nat × Nat × Nat) (s : State) : Same [.nv, .ports, .cfg, .fc, .led, .sa, .mem,
    .vu, .hx, .ts, .ob] s (unrepairable k s) := by
  unfold unrepairable
  try dsimp only [-Nat.reducePow]
  repeat' first
    | with_reducible exact Same.refl _
    | with_reducible refine ((same_mHx _ _).mono (by decide)).after ?_
    | with_reducible refine ((same_report ..).mono (by decide)).after ?_
    | with_reducible refine ((same_fenceLane ..).mono (by decide)).after ?_
    | with_reducible refine ((same_withhold ..).mono (by decide)).after ?_
    | with_reducible refine (same_foldl _ ?_ _ _).after ?_
    | with_reducible refine (same_foldl2 _ ?_ _ _).after ?_
    | intro _
    | split

theorem same_repairAll (origin : Nat) (rows : List (Nat × Nat × Nat × Nat)) (s : State) : Same [.nv, .ports, .cfg,
    .fc, .led, .sa, .mem, .vu, .hx, .ts, .ob] s (repairAll origin rows s).2 := by
  unfold repairAll
  refine same_foldl2 _ (fun x k => ?_) rows ([], s)
  obtain ⟨acc, s⟩ := x
  obtain ⟨array, inst, bank, row⟩ := k
  have h : Same [.nv, .ports, .cfg, .fc, .led, .sa, .mem, .vu, .hx, .ts, .ob] s (if array ≤ 1 then
      repairRow { array := array, inst := inst, bank := bank, row := row, spare := 0, origin := origin } s
      else (false, s)).2 := by
    split
    · exact (same_repairRow ..).mono (by decide)
    · exact Same.refl _
  revert h
  dsimp only
  generalize (if array ≤ 1 then
      repairRow { array := array, inst := inst, bank := bank, row := row, spare := 0, origin := origin } s
      else (false, s)) = y
  obtain ⟨b, t⟩ := y
  intro h
  have h : Same [.nv, .ports, .cfg, .fc, .led, .sa, .mem, .vu, .hx, .ts, .ob] s t := h
  cases b
  · dsimp only
    exact h.trans ((same_unrepairable ..).mono (by decide))
  · dsimp only
    exact h.trans ((same_report ..).mono (by decide))

theorem same_bistLog (fails deadSpares : List FailEntry) (s : State) : Same [.mem, .fr, .ob] s (bistLog fails
    deadSpares s) := by
  unfold bistLog
  try dsimp only [-Nat.reducePow]
  repeat' first
    | with_reducible exact Same.refl _
    | with_reducible refine ((same_mMem _ _).mono (by decide)).after ?_
    | with_reducible refine ((same_mFr _ _).mono (by decide)).after ?_
    | with_reducible refine ((same_bump ..).mono (by decide)).after ?_

theorem same_zeroArrays (scope : Nat) (s : State) : Same [.mem] s (zeroArrays scope s) := by
  unfold zeroArrays
  try dsimp only [-Nat.reducePow]
  repeat' first
    | with_reducible exact Same.refl _
    | with_reducible refine ((same_mMem _ _).mono (by decide)).after ?_

theorem same_testOrder (allowed : Bool) (priv : BitVec 2) (f : State → State) (s : State) {m : List Part} (hm :
    Part.within [.ports, .fc, .led, .vu, .hx, .sec, .ob] m = true) (hf : ∀ s, Same m s (f s)) : Same m s (testOrder
      allowed priv f s) := by
  unfold testOrder
  try dsimp only [-Nat.reducePow]
  repeat' first
    | with_reducible exact Same.refl _
    | with_reducible refine (same_operatorWrite _ _ _ (Part.within_trans (by decide) hm) ?_).after ?_
    | with_reducible refine ((same_frRefused ..).mono (Part.within_trans (by decide) hm)).after ?_
    | with_reducible refine (hf ..).after ?_
    | intro _
    | split

theorem same_hostBist (w : W64) (s : State) : Same [.mem, .fr, .ts, .ob] s (hostBist w s) := by
  unfold hostBist
  try dsimp only [-Nat.reducePow]
  repeat' first
    | with_reducible exact Same.refl _
    | with_reducible refine ((same_mFr _ _).mono (by decide)).after ?_
    | with_reducible refine ((same_requestDomain ..).mono (by decide)).after ?_
    | with_reducible refine ((same_zeroArrays ..).mono (by decide)).after ?_
    | intro _
    | split

theorem same_bistDone (fails deadSpares : List FailEntry) (s : State) : Same [.nv, .ports, .cfg, .fc, .led, .sa,
    .mem, .vu, .hx, .fr, .ts, .ob] s (bistDone fails deadSpares s) := by
  unfold bistDone
  try dsimp only [-Nat.reducePow]
  repeat' first
    | with_reducible exact Same.refl _
    | with_reducible refine ((same_mFr _ _).mono (by decide)).after ?_
    | with_reducible refine ((same_frWindow ..).mono (by decide)).after ?_
    | with_reducible refine ((same_repairAll ..).mono (by decide)).after ?_
    | with_reducible refine ((same_bistLog ..).mono (by decide)).after ?_
    | with_reducible refine ((same_zeroArrays ..).mono (by decide)).after ?_
    | intro _
    | split

theorem same_fuseOne (m : RowMap) (ok : Bool) (s : State) : Same [.nv, .cfg, .mem, .ob] s (fuseOne m ok s) := by
  unfold fuseOne
  try dsimp only [-Nat.reducePow]
  repeat' first
    | with_reducible exact Same.refl _
    | with_reducible refine ((same_mNv _ _).mono (by decide)).after ?_
    | with_reducible refine ((same_mMem _ _).mono (by decide)).after ?_
    | with_reducible refine ((same_bump ..).mono (by decide)).after ?_
    | with_reducible refine ((same_sbWrite ..).mono (by decide)).after ?_
    | intro _
    | split

theorem same_fuseProgram (w : W64) (readBackOk : List Bool) (s : State) : Same [.nv, .cfg, .mem, .fr, .ob] s
    (fuseProgram w readBackOk s) := by
  unfold fuseProgram
  try dsimp only [-Nat.reducePow]
  repeat' first
    | with_reducible exact Same.refl _
    | with_reducible refine ((same_mFr _ _).mono (by decide)).after ?_
    | with_reducible refine ((same_fuseOne ..).mono (by decide)).after ?_
    | with_reducible refine (same_foldl _ ?_ _ _).after ?_
    | with_reducible refine (same_foldl2 _ ?_ _ _).after ?_
    | intro _
    | split

/-! ### Training -/

theorem same_portReport (kind p : Nat) (s : State) : Same [.ports, .fc, .led, .vu, .hx, .ob] s (portReport kind p s)
    := by
  unfold portReport
  try dsimp only [-Nat.reducePow]
  repeat' first
    | with_reducible exact Same.refl _
    | with_reducible refine ((same_reportUnit ..).mono (by decide)).after ?_

theorem same_diesReport (kind : Nat) (dies : List Nat) (s : State) : Same [.ports, .fc, .led, .vu, .hx, .ob] s
    (diesReport kind dies s) := by
  unfold diesReport
  try dsimp only [-Nat.reducePow]
  repeat' first
    | with_reducible exact Same.refl _
    | with_reducible refine ((same_raise ..).mono (by decide)).after ?_

theorem same_dropPort (p : Nat) (s : State) : Same [.hx] s (dropPort p s) := by
  unfold dropPort
  try dsimp only [-Nat.reducePow]
  repeat' first
    | with_reducible exact Same.refl _
    | with_reducible refine ((same_mHx _ _).mono (by decide)).after ?_
    | with_reducible refine ((same_mPort ..).mono (by decide)).after ?_
    | with_reducible refine ((same_freeBuffer ..).mono (by decide)).after ?_
    | with_reducible refine (same_foldl _ ?_ _ _).after ?_
    | with_reducible refine (same_foldl2 _ ?_ _ _).after ?_
    | intro _

theorem same_mTrain (p : Nat) (f : Port → Port) (s : State) : Same [.ports, .hx, .ob] s (State.mTrain p f s) := by
  unfold State.mTrain
  try dsimp only [-Nat.reducePow]
  repeat' first
    | with_reducible exact Same.refl _
    | with_reducible refine ((same_mPort ..).mono (by decide)).after ?_
    | with_reducible refine ((same_stateChanged ..).mono (by decide)).after ?_

theorem same_removePort (p : Nat) (s : State) : Same [.ports, .fc, .led, .vu, .hx, .ob] s (removePort p s) := by
  unfold removePort
  try dsimp only [-Nat.reducePow]
  repeat' first
    | with_reducible exact Same.refl _
    | with_reducible refine ((same_stateChange ..).mono (by decide)).after ?_
    | with_reducible refine ((same_portReport ..).mono (by decide)).after ?_
    | with_reducible refine ((same_dropPort ..).mono (by decide)).after ?_
    | with_reducible refine ((same_mTrain ..).mono (by decide)).after ?_

theorem same_startTraining (p : Nat) (s : State) : Same [.ports, .hx, .ob] s (startTraining p s) := by
  unfold startTraining
  try dsimp only [-Nat.reducePow]
  repeat' first
    | with_reducible exact Same.refl _
    | with_reducible refine ((same_mTrain ..).mono (by decide)).after ?_

theorem same_retrainPort (p : Nat) (s : State) : Same [.ports, .fc, .led, .vu, .hx, .ob] s (retrainPort p s) := by
  unfold retrainPort
  try dsimp only [-Nat.reducePow]
  repeat' first
    | with_reducible exact Same.refl _
    | with_reducible refine ((same_bump ..).mono (by decide)).after ?_
    | with_reducible refine ((same_stateChange ..).mono (by decide)).after ?_
    | with_reducible refine ((same_mTrain ..).mono (by decide)).after ?_

theorem same_resendFrames (p : Nat) (s : State) : Same [.ports, .ob] s (resendFrames p s) := by
  unfold resendFrames
  try dsimp only [-Nat.reducePow]
  repeat' first
    | with_reducible exact Same.refl _
    | with_reducible refine ((same_mPorts _ _).mono (by decide)).after ?_
    | with_reducible refine ((same_bump ..).mono (by decide)).after ?_
    | intro _
    | split

theorem same_replayPort (p : Nat) (s : State) : Same [.ports, .fc, .led, .vu, .hx, .ob] s (replayPort p s) := by
  unfold replayPort
  try dsimp only [-Nat.reducePow]
  repeat' first
    | with_reducible exact Same.refl _
    | with_reducible refine ((same_mTrain ..).mono (by decide)).after ?_
    | with_reducible refine ((same_retrainPort ..).mono (by decide)).after ?_
    | with_reducible refine ((same_resendFrames ..).mono (by decide)).after ?_
    | intro _
    | split

theorem same_portActivated (p : Nat) (s : State) : Same [.ports, .fc, .led, .vu, .hx, .ob] s (portActivated p s) := by
  unfold portActivated
  try dsimp only [-Nat.reducePow]
  repeat' first
    | with_reducible exact Same.refl _
    | with_reducible refine ((same_pumpAll ..).mono (by decide)).after ?_
    | with_reducible refine ((same_stateChange ..).mono (by decide)).after ?_
    | with_reducible refine ((same_portReport ..).mono (by decide)).after ?_
    | with_reducible refine ((same_mTrain ..).mono (by decide)).after ?_
    | with_reducible refine ((same_resendFrames ..).mono (by decide)).after ?_
    | intro _
    | split

theorem same_trainingAdvance (p : Nat) (t : TrainInfo) (s : State) : Same [.ports, .fc, .led, .vu, .hx, .ob] s
    (trainingAdvance p t s) := by
  unfold trainingAdvance
  try dsimp only [-Nat.reducePow]
  repeat' first
    | with_reducible exact Same.refl _
    | with_reducible refine ((same_portReport ..).mono (by decide)).after ?_
    | with_reducible refine ((same_mTrain ..).mono (by decide)).after ?_
    | with_reducible refine ((same_removePort ..).mono (by decide)).after ?_
    | with_reducible refine ((same_startTraining ..).mono (by decide)).after ?_
    | with_reducible refine ((same_portActivated ..).mono (by decide)).after ?_
    | intro _
    | split

theorem same_attemptTimeout (p : Nat) (s : State) : Same [.ports, .fc, .led, .vu, .hx, .ob] s (attemptTimeout p s)
    := by
  unfold attemptTimeout
  try dsimp only [-Nat.reducePow]
  repeat' first
    | with_reducible exact Same.refl _
    | with_reducible refine ((same_mTrain ..).mono (by decide)).after ?_
    | with_reducible refine ((same_removePort ..).mono (by decide)).after ?_
    | intro _
    | split

theorem same_rejoin (p : Nat) (s : State) : Same [.ports, .hx, .ob] s (rejoin p s) := by
  unfold rejoin
  try dsimp only [-Nat.reducePow]
  repeat' first
    | with_reducible exact Same.refl _
    | with_reducible refine ((same_startTraining ..).mono (by decide)).after ?_
    | intro _
    | split

theorem same_syncExchange (theta : Int) (s : State) : Same [.ports, .fc, .led, .vu, .hx, .ob] s (syncExchange theta
    s) := by
  unfold syncExchange
  try dsimp only [-Nat.reducePow]
  repeat' first
    | with_reducible exact Same.refl _
    | with_reducible refine ((same_mHx _ _).mono (by decide)).after ?_
    | with_reducible refine ((same_bump ..).mono (by decide)).after ?_
    | with_reducible refine ((same_timeLost ..).mono (by decide)).after ?_
    | intro _
    | split

theorem same_syncStamps (p : Nat) (f : Frame) (s : State) : Same [.ports, .fc, .led, .vu, .hx, .ob] s (syncStamps p
    f s) := by
  unfold syncStamps
  try dsimp only [-Nat.reducePow]
  repeat' first
    | with_reducible exact Same.refl _
    | with_reducible refine ((same_mPort ..).mono (by decide)).after ?_
    | with_reducible refine ((same_syncExchange ..).mono (by decide)).after ?_
    | intro _
    | split

theorem same_throttleUpdate (s : State) : Same [.hx, .ob] s (throttleUpdate s) := by
  unfold throttleUpdate
  try dsimp only [-Nat.reducePow]
  repeat' first
    | with_reducible exact Same.refl _
    | with_reducible refine ((same_mHx _ _).mono (by decide)).after ?_
    | with_reducible refine ((same_bump ..).mono (by decide)).after ?_
    | intro _
    | split

theorem same_congWindow (p : Nat) (congested : Bool) (s : State) : Same [.ports, .hx, .ob] s (congWindow p congested
    s) := by
  unfold congWindow
  try dsimp only [-Nat.reducePow]
  repeat' first
    | with_reducible exact Same.refl _
    | with_reducible refine ((same_mPort ..).mono (by decide)).after ?_
    | with_reducible refine ((same_pumpAll ..).mono (by decide)).after ?_
    | with_reducible refine ((same_throttleUpdate ..).mono (by decide)).after ?_
    | intro _
    | split

theorem same_uncorrectable (p n : Nat) (s : State) : Same [.ports, .fc, .led, .vu, .hx, .ob] s (uncorrectable p n s)
    := by
  unfold uncorrectable
  try dsimp only [-Nat.reducePow]
  repeat' first
    | with_reducible exact Same.refl _
    | with_reducible refine ((same_bump ..).mono (by decide)).after ?_
    | with_reducible refine ((same_mPort ..).mono (by decide)).after ?_
    | with_reducible refine ((same_retrainPort ..).mono (by decide)).after ?_
    | intro _
    | split

theorem same_takeAck (p ack : Nat) (s : State) : Same [.hx] s (takeAck p ack s) := by
  unfold takeAck
  try dsimp only [-Nat.reducePow]
  repeat' first
    | with_reducible exact Same.refl _
    | with_reducible refine ((same_mPort ..).mono (by decide)).after ?_
    | intro _
    | split

theorem same_takeNak (p : Nat) (nak : Bool) (ack : Nat) (s : State) : Same [.ports, .fc, .led, .vu, .hx, .ob] s
    (takeNak p nak ack s) := by
  unfold takeNak
  try dsimp only [-Nat.reducePow]
  repeat' first
    | with_reducible exact Same.refl _
    | with_reducible refine ((same_mPort ..).mono (by decide)).after ?_
    | with_reducible refine ((same_replayPort ..).mono (by decide)).after ?_
    | intro _
    | split

theorem same_takeCredits (p xy yx : Nat) (s : State) : Same [.hx, .ob] s (takeCredits p xy yx s) := by
  unfold takeCredits
  try dsimp only [-Nat.reducePow]
  repeat' first
    | with_reducible exact Same.refl _
    | with_reducible refine ((same_mPort ..).mono (by decide)).after ?_
    | with_reducible refine ((same_throttleUpdate ..).mono (by decide)).after ?_

theorem same_frameReceive (p : Nat) (f : Frame) (s : State) : Same [.ports, .fc, .led, .vu, .hx, .ob] s
    (frameReceive p f s) := by
  unfold frameReceive
  try dsimp only [-Nat.reducePow]
  repeat' first
    | with_reducible exact Same.refl _
    | with_reducible refine ((same_bump ..).mono (by decide)).after ?_
    | with_reducible refine ((same_mPort ..).mono (by decide)).after ?_
    | with_reducible refine ((same_pumpAll ..).mono (by decide)).after ?_
    | with_reducible refine ((same_packetArrive ..).mono (by decide)).after ?_
    | with_reducible refine ((same_syncStamps ..).mono (by decide)).after ?_
    | with_reducible refine ((same_uncorrectable ..).mono (by decide)).after ?_
    | with_reducible refine ((same_takeAck ..).mono (by decide)).after ?_
    | with_reducible refine ((same_takeNak ..).mono (by decide)).after ?_
    | with_reducible refine ((same_takeCredits ..).mono (by decide)).after ?_
    | with_reducible refine (same_foldl _ ?_ _ _).after ?_
    | with_reducible refine (same_foldl2 _ ?_ _ _).after ?_
    | intro _
    | split

theorem same_replayTimeout (p : Nat) (s : State) : Same [.ports, .fc, .led, .vu, .hx, .ob] s (replayTimeout p s) := by
  unfold replayTimeout
  try dsimp only [-Nat.reducePow]
  repeat' first
    | with_reducible exact Same.refl _
    | with_reducible refine ((same_replayPort ..).mono (by decide)).after ?_
    | intro _
    | split

theorem same_hxPacketArrive (p : Nat) (k : HxPkt) (s : State) : Same [.ports, .hx, .ob] s (hxPacketArrive p k s) := by
  unfold hxPacketArrive
  try dsimp only [-Nat.reducePow]
  repeat' first
    | with_reducible exact Same.refl _
    | with_reducible refine ((same_pumpAll ..).mono (by decide)).after ?_
    | with_reducible refine ((same_packetArrive ..).mono (by decide)).after ?_
    | intro _
    | split

/-! ### Hitch -/

theorem same_consumer (kind : Nat) (p : HxPkt) (f : State → State) (s : State) {m : List Part} (hm : Part.within
    [.hx] m = true) (hf : ∀ s, Same m s (f s)) : Same m s (consumer kind p f s) := by
  unfold consumer
  try dsimp only [-Nat.reducePow]
  repeat' first
    | with_reducible exact Same.refl _
    | with_reducible refine ((same_consume ..).mono (Part.within_trans (by decide) hm)).after ?_
    | with_reducible refine (hf ..).after ?_
    | intro _
    | split

theorem same_drainAll (die : Nat) (s : State) : Same [.ports, .hx, .ob] s (drainAll die s) := by
  unfold drainAll
  try dsimp only [-Nat.reducePow]
  repeat' first
    | with_reducible exact Same.refl _
    | with_reducible refine ((same_drainTx ..).mono (by decide)).after ?_
    | with_reducible refine ((same_drainMcast ..).mono (by decide)).after ?_

theorem same_e2eAck (p : HxPkt) (s : State) : Same [.ports, .hx, .ob] s (e2eAck p s) := by
  unfold e2eAck
  try dsimp only [-Nat.reducePow]
  repeat' first
    | with_reducible exact Same.refl _
    | with_reducible refine ((same_mTx ..).mono (by decide)).after ?_
    | with_reducible refine ((same_drainAll ..).mono (by decide)).after ?_

theorem same_resendTimeout (die : Nat) (space : Bool) (seq : Nat) (s : State) : Same [.ports, .fc, .led, .vu, .hx,
    .ob] s (resendTimeout die space seq s) := by
  unfold resendTimeout
  try dsimp only [-Nat.reducePow]
  repeat' first
    | with_reducible exact Same.refl _
    | with_reducible refine ((same_bump ..).mono (by decide)).after ?_
    | with_reducible refine ((same_mTx ..).mono (by decide)).after ?_
    | with_reducible refine ((same_injectCopy ..).mono (by decide)).after ?_
    | with_reducible refine ((same_diesReport ..).mono (by decide)).after ?_
    | with_reducible refine ((same_drainAll ..).mono (by decide)).after ?_
    | intro _
    | split

theorem same_ackDelay (die : Nat) (space : Bool) (s : State) : Same [.ports, .hx, .ob] s (ackDelay die space s) := by
  unfold ackDelay
  try dsimp only [-Nat.reducePow]
  repeat' first
    | with_reducible exact Same.refl _
    | with_reducible refine ((same_sendAck ..).mono (by decide)).after ?_
    | intro _
    | split

theorem same_peerRestarted (die : Nat) (s : State) : Same [.ports, .hx, .ob] s (peerRestarted die s) := by
  unfold peerRestarted
  try dsimp only [-Nat.reducePow]
  repeat' first
    | with_reducible exact Same.refl _
    | with_reducible refine ((same_mTx ..).mono (by decide)).after ?_
    | with_reducible refine ((same_drainAll ..).mono (by decide)).after ?_

theorem same_stateRecord (p : HxPkt) (s : State) : Same [.ports, .cfg, .fc, .led, .vu, .hx, .ob] s (stateRecord p s)
    := by
  unfold stateRecord
  try dsimp only [-Nat.reducePow]
  repeat' first
    | with_reducible exact Same.refl _
    | with_reducible refine ((same_mHx _ _).mono (by decide)).after ?_
    | with_reducible refine ((same_mapChanged ..).mono (by decide)).after ?_
    | with_reducible refine ((same_sendReports ..).mono (by decide)).after ?_
    | with_reducible refine ((same_peerRestarted ..).mono (by decide)).after ?_
    | intro _
    | split

theorem same_stateStale (die : Nat) (s : State) : Same [.ports, .cfg, .fc, .led, .vu, .hx, .ob] s (stateStale die s)
    := by
  unfold stateStale
  try dsimp only [-Nat.reducePow]
  repeat' first
    | with_reducible exact Same.refl _
    | with_reducible refine ((same_mHx _ _).mono (by decide)).after ?_
    | with_reducible refine ((same_mapChanged ..).mono (by decide)).after ?_
    | with_reducible refine ((same_sendReports ..).mono (by decide)).after ?_
    | intro _
    | split

theorem same_hostOkLapse (s : State) : Same [.ports, .fc, .led, .vu, .hx, .ob] s (hostOkLapse s) := by
  unfold hostOkLapse
  try dsimp only [-Nat.reducePow]
  repeat' first
    | with_reducible exact Same.refl _
    | with_reducible refine ((same_mHx _ _).mono (by decide)).after ?_
    | with_reducible refine ((same_stateChange ..).mono (by decide)).after ?_

theorem same_tblReady (p : HxPkt) (s : State) : Same [.ports, .hx, .ob] s (tblReady p s) := by
  unfold tblReady
  try dsimp only [-Nat.reducePow]
  repeat' first
    | with_reducible exact Same.refl _
    | with_reducible refine ((same_mHx _ _).mono (by decide)).after ?_
    | with_reducible refine ((same_hxMulticast ..).mono (by decide)).after ?_
    | intro _
    | split

theorem same_epochFlip (p : HxPkt) (s : State) : Same [.hx, .ob] s (epochFlip p s) := by
  unfold epochFlip
  try dsimp only [-Nat.reducePow]
  repeat' first
    | with_reducible exact Same.refl _
    | with_reducible refine ((same_mHx _ _).mono (by decide)).after ?_
    | with_reducible refine ((same_bump ..).mono (by decide)).after ?_

theorem same_pollPeriod (s : State) : Same [.ports, .hx, .ob] s (pollPeriod s) := by
  unfold pollPeriod
  try dsimp only [-Nat.reducePow]
  repeat' first
    | with_reducible exact Same.refl _
    | with_reducible refine ((same_mHx _ _).mono (by decide)).after ?_
    | with_reducible refine ((same_hxSend ..).mono (by decide)).after ?_
    | with_reducible refine (same_foldl _ ?_ _ _).after ?_
    | with_reducible refine (same_foldl2 _ ?_ _ _).after ?_
    | intro _
    | split

theorem same_sendRetire (s : State) : Same [.ports, .hx, .ob] s (sendRetire s) := by
  unfold sendRetire
  try dsimp only [-Nat.reducePow]
  repeat' first
    | with_reducible exact Same.refl _
    | with_reducible refine ((same_hxMulticast ..).mono (by decide)).after ?_

theorem same_countReply (p : HxPkt) (s : State) : Same [.ports, .hx, .ob] s (countReply p s) := by
  unfold countReply
  try dsimp only [-Nat.reducePow]
  repeat' first
    | with_reducible exact Same.refl _
    | with_reducible refine ((same_mHx _ _).mono (by decide)).after ?_
    | with_reducible refine ((same_sendRetire ..).mono (by decide)).after ?_
    | intro _
    | split

theorem same_countQuery (p : HxPkt) (s : State) : Same [.ports, .hx, .ob] s (countQuery p s) := by
  unfold countQuery
  try dsimp only [-Nat.reducePow]
  repeat' first
    | with_reducible exact Same.refl _
    | with_reducible refine ((same_hxSend ..).mono (by decide)).after ?_

theorem same_retireVersion (p : HxPkt) (s : State) : Same [.ports, .hx, .ob] s (retireVersion p s) := by
  unfold retireVersion
  try dsimp only [-Nat.reducePow]
  repeat' first
    | with_reducible exact Same.refl _
    | with_reducible refine ((same_mHx _ _).mono (by decide)).after ?_
    | with_reducible refine ((same_computeStandby ..).mono (by decide)).after ?_
    | intro _
    | split

theorem same_hxRetireTimeout (s : State) : Same [.ports, .fc, .led, .vu, .hx, .ob] s (hxRetireTimeout s) := by
  unfold hxRetireTimeout
  try dsimp only [-Nat.reducePow]
  repeat' first
    | with_reducible exact Same.refl _
    | with_reducible refine ((same_mHx _ _).mono (by decide)).after ?_
    | with_reducible refine ((same_reportSelf ..).mono (by decide)).after ?_
    | with_reducible refine ((same_sendRetire ..).mono (by decide)).after ?_
    | intro _
    | split

theorem same_sendRelease (b : Nat) (gen : BitVec 8) (aborted : Bool) (tRel : Nat) (members : List Nat) (s : State) :
    Same [.ports, .hx, .ob] s (sendRelease b gen aborted tRel members s) := by
  unfold sendRelease
  try dsimp only [-Nat.reducePow]
  repeat' first
    | with_reducible exact Same.refl _
    | with_reducible refine ((same_hxMulticast ..).mono (by decide)).after ?_

theorem same_ignored (s : State) : Same [.ob] s (ignored s) := by
  unfold ignored
  try dsimp only [-Nat.reducePow]
  repeat' first
    | with_reducible exact Same.refl _
    | with_reducible refine ((same_bump ..).mono (by decide)).after ?_

theorem same_coordArrive (b : Nat) (gen : BitVec 8) (mask : W64) (die : Nat) (s : State) : Same [.ports, .hx, .ob] s
    (coordArrive b gen mask die s) := by
  unfold coordArrive
  try dsimp only [-Nat.reducePow]
  repeat' first
    | with_reducible exact Same.refl _
    | with_reducible refine ((same_mBarrier ..).mono (by decide)).after ?_
    | with_reducible refine ((same_sendRelease ..).mono (by decide)).after ?_
    | with_reducible refine ((same_ignored ..).mono (by decide)).after ?_
    | intro _
    | split

theorem same_barrierArrived (p : HxPkt) (s : State) : Same [.ports, .hx, .ob] s (barrierArrived p s) := by
  unfold barrierArrived
  try dsimp only [-Nat.reducePow]
  repeat' first
    | with_reducible exact Same.refl _
    | with_reducible refine ((same_coordArrive ..).mono (by decide)).after ?_
    | intro _
    | split

theorem same_memberReleased (b : Nat) (s : State) : Same [.nv, .ports, .cfg, .fc, .led, .vu, .hx, .ob] s
    (memberReleased b s) := by
  unfold memberReleased
  try dsimp only [-Nat.reducePow]
  repeat' first
    | with_reducible exact Same.refl _
    | with_reducible refine ((same_mHx _ _).mono (by decide)).after ?_
    | with_reducible refine ((same_bump ..).mono (by decide)).after ?_
    | with_reducible refine ((same_mBarrier ..).mono (by decide)).after ?_
    | with_reducible refine ((same_barrier0Released ..).mono (by decide)).after ?_
    | intro _
    | split

theorem same_barrierReleased (p : HxPkt) (s : State) : Same [.nv, .ports, .cfg, .fc, .led, .vu, .hx, .ob] s
    (barrierReleased p s) := by
  unfold barrierReleased
  try dsimp only [-Nat.reducePow]
  repeat' first
    | with_reducible exact Same.refl _
    | with_reducible refine ((same_bump ..).mono (by decide)).after ?_
    | with_reducible refine ((same_mBarrier ..).mono (by decide)).after ?_
    | with_reducible refine ((same_barrier0Aborted ..).mono (by decide)).after ?_
    | with_reducible refine ((same_memberReleased ..).mono (by decide)).after ?_
    | intro _
    | split

theorem same_releaseTime (b : Nat) (s : State) : Same [.nv, .ports, .cfg, .fc, .led, .vu, .hx, .ob] s (releaseTime b
    s) := by
  unfold releaseTime
  try dsimp only [-Nat.reducePow]
  repeat' first
    | with_reducible exact Same.refl _
    | with_reducible refine ((same_memberReleased ..).mono (by decide)).after ?_
    | intro _
    | split

theorem same_barrTimeout (b : Nat) (s : State) : Same [.ports, .fc, .led, .vu, .hx, .ob] s (barrTimeout b s) := by
  unfold barrTimeout
  try dsimp only [-Nat.reducePow]
  repeat' first
    | with_reducible exact Same.refl _
    | with_reducible refine ((same_mBarrier ..).mono (by decide)).after ?_
    | with_reducible refine ((same_diesReport ..).mono (by decide)).after ?_
    | with_reducible refine ((same_sendRelease ..).mono (by decide)).after ?_
    | intro _
    | split

theorem same_hostBarrier (priv : BitVec 2) (w : W64) (s : State) : Same [.ports, .fc, .led, .vu, .hx, .sec, .ob] s
    (hostBarrier priv w s) := by
  unfold hostBarrier
  try dsimp only [-Nat.reducePow]
  repeat' first
    | with_reducible exact Same.refl _
    | with_reducible refine ((same_bump ..).mono (by decide)).after ?_
    | with_reducible refine ((same_barrierArrive ..).mono (by decide)).after ?_
    | with_reducible refine ((same_answer ..).mono (by decide)).after ?_
    | with_reducible refine ((same_denied ..).mono (by decide)).after ?_
    | intro _
    | split

theorem same_faultFwd (p : HxPkt) (s : State) : Same [.hx] s (faultFwd p s) := by
  unfold faultFwd
  try dsimp only [-Nat.reducePow]
  repeat' first
    | with_reducible exact Same.refl _
    | with_reducible refine ((same_mHx _ _).mono (by decide)).after ?_

theorem same_leaderOrder (p : HxPkt) (s : State) : Same [.draws, .nv, .ports, .cfg, .fc, .ct, .led, .twc, .per, .sa,
    .mem, .vu, .ym, .hx, .fr, .ts, .ob] s (leaderOrder p s) := by
  unfold leaderOrder
  try dsimp only [-Nat.reducePow]
  repeat' first
    | with_reducible exact Same.refl _
    | with_reducible refine ((same_ctOrder ..).mono (by decide)).after ?_
    | intro _
    | split

theorem same_traceIn (p : HxPkt) (s : State) : Same [.ports, .ob] s (traceIn p s) := by
  unfold traceIn
  try dsimp only [-Nat.reducePow]
  repeat' first
    | with_reducible exact Same.refl _
    | with_reducible refine ((same_tackPlace ..).mono (by decide)).after ?_
    | intro _
    | split

end Sys2Proof.Machine
end

