-- ==== Sys2Proof/Laws/Units5.lean ====
section
/-!
SUPPORT. The units that the operations of these files of the machine may change: Farrier, Power, Security, Image,
Start, MusterRun.
-/
namespace Sys2Proof.Machine

/-! ### Farrier -/

theorem same_reproOut (q : Pattern) (s : State) : Same [.draws] s (reproOut q s).2 := by
  unfold reproOut
  try dsimp only [-Nat.reducePow]
  repeat' first
    | with_reducible exact Same.refl _
    | with_reducible refine ((same_laneProbe ..).mono (by decide)).after ?_

theorem same_mSession (c : Nat) (f : Session → Session) (s : State) : Same [.fr] s (State.mSession c f s) := by
  unfold State.mSession
  try dsimp only [-Nat.reducePow]
  repeat' first
    | with_reducible exact Same.refl _
    | with_reducible refine ((same_mFr _ _).mono (by decide)).after ?_

theorem same_openTest (x : Session) (s : State) : Same [.ports] s (openTest x s) := by
  unfold openTest
  try dsimp only [-Nat.reducePow]
  repeat' first
    | with_reducible exact Same.refl _
    | with_reducible refine ((same_sendKey ..).mono (by decide)).after ?_
    | with_reducible refine ((same_sendTest ..).mono (by decide)).after ?_

theorem same_sessionMuster (h : Huid) (s : State) : Same [.ports, .ob] s (sessionMuster h s) := by
  unfold sessionMuster
  try dsimp only [-Nat.reducePow]
  repeat' first
    | with_reducible exact Same.refl _
    | with_reducible refine ((same_bump ..).mono (by decide)).after ?_
    | with_reducible refine ((same_sendBlock ..).mono (by decide)).after ?_
    | with_reducible refine ((same_sendMuster ..).mono (by decide)).after ?_
    | with_reducible refine (same_foldl _ ?_ _ _).after ?_
    | with_reducible refine (same_foldl2 _ ?_ _ _).after ?_
    | intro _

theorem same_verifyBank (ok : Bool) (s : State) : Same [.ports, .fc, .led, .vu, .hx, .fr, .ob] s (verifyBank ok s)
    := by
  unfold verifyBank
  try dsimp only [-Nat.reducePow]
  repeat' first
    | with_reducible exact Same.refl _
    | with_reducible refine ((same_mFr _ _).mono (by decide)).after ?_
    | with_reducible refine ((same_reportSelf ..).mono (by decide)).after ?_
    | intro _
    | split

theorem same_sessionOpen (h : Huid) (channelOk bankOk : Bool) (s : State) : Same [.nv, .ports, .cfg, .fc, .ct, .led,
    .vu, .ym, .hx, .fr, .ts, .ob] s (sessionOpen h channelOk bankOk s) := by
  unfold sessionOpen
  try dsimp only [-Nat.reducePow]
  repeat' first
    | with_reducible exact Same.refl _
    | with_reducible refine ((same_mFr _ _).mono (by decide)).after ?_
    | with_reducible refine ((same_bump ..).mono (by decide)).after ?_
    | with_reducible refine ((same_reportSelf ..).mono (by decide)).after ?_
    | with_reducible refine ((same_requestDomain ..).mono (by decide)).after ?_
    | with_reducible refine ((same_endSession ..).mono (by decide)).after ?_
    | with_reducible refine ((same_frWindow ..).mono (by decide)).after ?_
    | with_reducible refine ((same_openTest ..).mono (by decide)).after ?_
    | with_reducible refine ((same_sessionMuster ..).mono (by decide)).after ?_
    | with_reducible refine ((same_verifyBank ..).mono (by decide)).after ?_
    | intro _
    | split

theorem same_hostTest (w : W64) (s : State) : Same [.fr] s (hostTest w s) := by
  unfold hostTest
  try dsimp only [-Nat.reducePow]
  repeat' first
    | with_reducible exact Same.refl _
    | with_reducible refine ((same_wantTest ..).mono (by decide)).after ?_
    | intro _
    | split

theorem same_reproItem (x : Session) (i : Nat) (s : State) : Same [.nv, .ports, .cfg, .fc, .ct, .led, .vu, .ym, .hx,
    .fr, .ob] s (reproItem x i s) := by
  unfold reproItem
  try dsimp only [-Nat.reducePow]
  repeat' first
    | with_reducible exact Same.refl _
    | with_reducible refine ((same_bump ..).mono (by decide)).after ?_
    | with_reducible refine ((same_sendTest ..).mono (by decide)).after ?_
    | with_reducible refine ((same_endSession ..).mono (by decide)).after ?_
    | with_reducible refine ((same_mSession ..).mono (by decide)).after ?_
    | intro _
    | split

theorem same_scanItem (x : Session) (s : State) : Same [.nv, .ports, .cfg, .fc, .ct, .led, .vu, .ym, .hx, .fr, .ob]
    s (scanItem x s) := by
  unfold scanItem
  try dsimp only [-Nat.reducePow]
  repeat' first
    | with_reducible exact Same.refl _
    | with_reducible refine ((same_mSession ..).mono (by decide)).after ?_
    | with_reducible refine ((same_reproItem ..).mono (by decide)).after ?_
    | intro _
    | split

theorem same_xtestItem (x : Session) (d t : Nat) (s : State) : Same [.nv, .ports, .cfg, .fc, .ct, .led, .vu, .ym,
    .hx, .fr, .ob] s (xtestItem x d t s) := by
  unfold xtestItem
  try dsimp only [-Nat.reducePow]
  repeat' first
    | with_reducible exact Same.refl _
    | with_reducible refine ((same_bump ..).mono (by decide)).after ?_
    | with_reducible refine ((same_sendTest ..).mono (by decide)).after ?_
    | with_reducible refine ((same_mSession ..).mono (by decide)).after ?_
    | with_reducible refine ((same_scanItem ..).mono (by decide)).after ?_
    | intro _
    | split

theorem same_sessionReply (x : Session) (sub status : Nat) (body : Bytes) (s : State) : Same [.draws, .nv, .ports,
    .cfg, .fc, .ct, .led, .vu, .ym, .hx, .fr, .ob] s (sessionReply x sub status body s) := by
  unfold sessionReply
  try dsimp only [-Nat.reducePow]
  repeat' first
    | with_reducible exact Same.refl _
    | with_reducible refine ((same_endSession ..).mono (by decide)).after ?_
    | with_reducible refine ((same_reproOut ..).mono (by decide)).after ?_
    | with_reducible refine ((same_reproItem ..).mono (by decide)).after ?_
    | with_reducible refine ((same_xtestItem ..).mono (by decide)).after ?_
    | intro _
    | split

theorem same_testReply (p : Ingress) (s : State) : Same [.draws, .nv, .ports, .cfg, .fc, .ct, .led, .vu, .ym, .hx,
    .fr, .ob] s (testReply p s) := by
  unfold testReply
  try dsimp only [-Nat.reducePow]
  repeat' first
    | with_reducible exact Same.refl _
    | with_reducible refine ((same_sessionReply ..).mono (by decide)).after ?_
    | intro _
    | split

theorem same_scanBlockDone (c : Nat) (r : ScanSay) (s : State) : Same [.nv, .ports, .cfg, .fc, .ct, .led, .vu, .ym,
    .hx, .fr, .ob] s (scanBlockDone c r s) := by
  unfold scanBlockDone
  try dsimp only [-Nat.reducePow]
  repeat' first
    | with_reducible exact Same.refl _
    | with_reducible refine ((same_mFr _ _).mono (by decide)).after ?_
    | with_reducible refine ((same_bump ..).mono (by decide)).after ?_
    | with_reducible refine ((same_reportSelf ..).mono (by decide)).after ?_
    | with_reducible refine ((same_endSession ..).mono (by decide)).after ?_
    | with_reducible refine ((same_mSession ..).mono (by decide)).after ?_
    | with_reducible refine ((same_reproItem ..).mono (by decide)).after ?_
    | intro _
    | split

theorem same_testTimeout (c : Nat) (s : State) : Same [.nv, .ports, .cfg, .fc, .ct, .led, .vu, .ym, .hx, .fr, .ob] s
    (testTimeout c s) := by
  unfold testTimeout
  try dsimp only [-Nat.reducePow]
  repeat' first
    | with_reducible exact Same.refl _
    | with_reducible refine ((same_mFr _ _).mono (by decide)).after ?_
    | with_reducible refine ((same_reportUnit ..).mono (by decide)).after ?_
    | with_reducible refine ((same_mPad ..).mono (by decide)).after ?_
    | with_reducible refine ((same_testBad ..).mono (by decide)).after ?_
    | with_reducible refine ((same_endSession ..).mono (by decide)).after ?_
    | intro _
    | split

theorem same_mPkg (f : Fr → Fr) (s : State) : Same [.ports, .hx, .fr, .ob] s (State.mPkg f s) := by
  unfold State.mPkg
  try dsimp only [-Nat.reducePow]
  repeat' first
    | with_reducible exact Same.refl _
    | with_reducible refine ((same_mFr _ _).mono (by decide)).after ?_
    | with_reducible refine ((same_stateChanged ..).mono (by decide)).after ?_

theorem same_pkgReject (code : Nat) (s : State) : Same [.ports, .fc, .led, .vu, .hx, .fr, .ob] s (pkgReject code s)
    := by
  unfold pkgReject
  try dsimp only [-Nat.reducePow]
  repeat' first
    | with_reducible exact Same.refl _
    | with_reducible refine ((same_bump ..).mono (by decide)).after ?_
    | with_reducible refine ((same_reportSelf ..).mono (by decide)).after ?_
    | with_reducible refine ((same_mPkg ..).mono (by decide)).after ?_
    | intro _
    | split

theorem same_pkgStart (len : Nat) (s : State) : Same [.ports, .fc, .led, .vu, .hx, .fr, .ts, .ob] s (pkgStart len s)
    := by
  unfold pkgStart
  try dsimp only [-Nat.reducePow]
  repeat' first
    | with_reducible exact Same.refl _
    | with_reducible refine ((same_requestDomain ..).mono (by decide)).after ?_
    | with_reducible refine ((same_mPkg ..).mono (by decide)).after ?_
    | with_reducible refine ((same_pkgReject ..).mono (by decide)).after ?_
    | intro _
    | split

theorem same_setBank (b : Bool) (x : Bank) (s : State) : Same [.nv] s (setBank b x s) := by
  unfold setBank
  try dsimp only [-Nat.reducePow]
  repeat' first
    | with_reducible exact Same.refl _
    | with_reducible refine ((same_mNv _ _).mono (by decide)).after ?_

theorem same_pkgProgram (s : State) : Same [.nv] s (pkgProgram s) := by
  unfold pkgProgram
  try dsimp only [-Nat.reducePow]
  repeat' first
    | with_reducible exact Same.refl _
    | with_reducible refine ((same_setBank ..).mono (by decide)).after ?_
    | intro _
    | split

theorem same_pkgWord (w : W64) (s : State) : Same [.nv, .ports, .hx, .fr, .ob] s (pkgWord w s) := by
  unfold pkgWord
  try dsimp only [-Nat.reducePow]
  repeat' first
    | with_reducible exact Same.refl _
    | with_reducible refine ((same_mPkg ..).mono (by decide)).after ?_
    | with_reducible refine ((same_pkgProgram ..).mono (by decide)).after ?_
    | intro _
    | split

theorem same_pkgClose (s : State) : Same [.ports, .hx, .fr, .ob] s (pkgClose s) := by
  unfold pkgClose
  try dsimp only [-Nat.reducePow]
  repeat' first
    | with_reducible exact Same.refl _
    | with_reducible refine ((same_mPkg ..).mono (by decide)).after ?_
    | intro _
    | split

theorem same_pkgAbort (s : State) : Same [.ports, .hx, .fr, .ob] s (pkgAbort s) := by
  unfold pkgAbort
  try dsimp only [-Nat.reducePow]
  repeat' first
    | with_reducible exact Same.refl _
    | with_reducible refine ((same_mPkg ..).mono (by decide)).after ?_
    | intro _
    | split

theorem same_pkgRow (op : Nat) (priv : BitVec 2) (w : W64) (f : State → State) (s : State) {m : List Part} (hm :
    Part.within [.ports, .fc, .led, .vu, .hx, .sec, .ob] m = true) (hf : ∀ s, Same m s (f s)) : Same m s (pkgRow op
      priv w f s) := by
  unfold pkgRow
  try dsimp only [-Nat.reducePow]
  repeat' first
    | with_reducible exact Same.refl _
    | with_reducible refine (same_testOrder _ _ _ _ (Part.within_trans (by decide) hm) ?_).after ?_
    | with_reducible refine (hf ..).after ?_
    | intro _
    | split

theorem same_addPackagePattern (body : BitVec 512) (s : State) : Same [.nv, .cfg, .vu, .ob] s (addPackagePattern
    body s) := by
  unfold addPackagePattern
  try dsimp only [-Nat.reducePow]
  repeat' first
    | with_reducible exact Same.refl _
    | with_reducible refine ((same_mVu _ _).mono (by decide)).after ?_
    | with_reducible refine ((same_sbWrite ..).mono (by decide)).after ?_
    | intro _
    | split

theorem same_pkgInstall (b : Bank) (repros : List (BitVec 512)) (s : State) : Same [.nv, .ports, .cfg, .vu, .hx,
    .fr, .ob] s (pkgInstall b repros s) := by
  unfold pkgInstall
  try dsimp only [-Nat.reducePow]
  repeat' first
    | with_reducible exact Same.refl _
    | with_reducible refine ((same_mNv _ _).mono (by decide)).after ?_
    | with_reducible refine ((same_bump ..).mono (by decide)).after ?_
    | with_reducible refine ((same_sendBulk ..).mono (by decide)).after ?_
    | with_reducible refine ((same_mPkg ..).mono (by decide)).after ?_
    | with_reducible refine ((same_setBank ..).mono (by decide)).after ?_
    | with_reducible refine ((same_addPackagePattern ..).mono (by decide)).after ?_
    | with_reducible refine (same_foldl _ ?_ _ _).after ?_
    | with_reducible refine (same_foldl2 _ ?_ _ _).after ?_
    | intro _
    | split

theorem same_pkgVerify (readBackOk : Bool) (s : State) : Same [.nv, .ports, .cfg, .fc, .led, .vu, .hx, .fr, .ob] s
    (pkgVerify readBackOk s) := by
  unfold pkgVerify
  try dsimp only [-Nat.reducePow]
  repeat' first
    | with_reducible exact Same.refl _
    | with_reducible refine ((same_pkgReject ..).mono (by decide)).after ?_
    | with_reducible refine ((same_pkgInstall ..).mono (by decide)).after ?_
    | intro _
    | split

theorem same_bulkPacket (p : HxPkt) (s : State) : Same [.nv, .ports, .fc, .led, .vu, .hx, .fr, .ts, .ob] s
    (bulkPacket p s) := by
  unfold bulkPacket
  try dsimp only [-Nat.reducePow]
  repeat' first
    | with_reducible exact Same.refl _
    | with_reducible refine ((same_mHx _ _).mono (by decide)).after ?_
    | with_reducible refine ((same_mFr _ _).mono (by decide)).after ?_
    | with_reducible refine ((same_mPkg ..).mono (by decide)).after ?_
    | with_reducible refine ((same_pkgStart ..).mono (by decide)).after ?_
    | with_reducible refine ((same_pkgProgram ..).mono (by decide)).after ?_
    | intro _
    | split

theorem same_pkgResume (s : State) : Same [.nv, .ports, .hx, .fr, .ob] s (pkgResume s) := by
  unfold pkgResume
  try dsimp only [-Nat.reducePow]
  repeat' first
    | with_reducible exact Same.refl _
    | with_reducible refine ((same_mPkg ..).mono (by decide)).after ?_
    | with_reducible refine ((same_pkgProgram ..).mono (by decide)).after ?_
    | intro _
    | split

/-! ### Power -/

theorem same_domainPowerRequest (d : Nat) (s : State) : Same [.ts, .ob] s (domainPowerRequest d s) := by
  unfold domainPowerRequest
  try dsimp only [-Nat.reducePow]
  repeat' first
    | with_reducible exact Same.refl _
    | with_reducible refine ((same_requestDomain ..).mono (by decide)).after ?_
    | intro _
    | split

theorem same_powerGood (d : Nat) (s : State) : Same [.draws, .nv, .ports, .cfg, .fc, .led, .per, .sa, .mem, .vu,
    .hx, .ts, .ob] s (powerGood d s) := by
  unfold powerGood
  try dsimp only [-Nat.reducePow]
  repeat' first
    | with_reducible exact Same.refl _
    | with_reducible refine ((same_mMem _ _).mono (by decide)).after ?_
    | with_reducible refine ((same_bump ..).mono (by decide)).after ?_
    | with_reducible refine ((same_setDomain ..).mono (by decide)).after ?_
    | with_reducible refine ((same_setShed ..).mono (by decide)).after ?_
    | with_reducible refine ((same_zeroCluster ..).mono (by decide)).after ?_
    | with_reducible refine ((same_resetLanes ..).mono (by decide)).after ?_
    | with_reducible refine ((same_resetPipes ..).mono (by decide)).after ?_
    | intro _
    | split

theorem same_domainTimeout (d : Nat) (s : State) : Same [.nv, .ports, .cfg, .fc, .led, .per, .sa, .mem, .vu, .hx,
    .ts, .ob] s (domainTimeout d s) := by
  unfold domainTimeout
  try dsimp only [-Nat.reducePow]
  repeat' first
    | with_reducible exact Same.refl _
    | with_reducible refine ((same_mHx _ _).mono (by decide)).after ?_
    | with_reducible refine ((same_mTs _ _).mono (by decide)).after ?_
    | with_reducible refine ((same_reportUnit ..).mono (by decide)).after ?_
    | with_reducible refine ((same_setDomain ..).mono (by decide)).after ?_
    | with_reducible refine ((same_setShed ..).mono (by decide)).after ?_
    | with_reducible refine ((same_fencePipe ..).mono (by decide)).after ?_
    | with_reducible refine ((same_fenceLane ..).mono (by decide)).after ?_
    | with_reducible refine ((same_withhold ..).mono (by decide)).after ?_
    | with_reducible refine ((same_removePort ..).mono (by decide)).after ?_
    | with_reducible refine (same_foldl _ ?_ _ _).after ?_
    | with_reducible refine (same_foldl2 _ ?_ _ _).after ?_
    | intro _
    | split

theorem same_domainShutdown (d : Nat) (s : State) : Same [.ports, .sa, .mem, .hx, .ts, .ob] s (domainShutdown d s)
    := by
  unfold domainShutdown
  try dsimp only [-Nat.reducePow]
  repeat' first
    | with_reducible exact Same.refl _
    | with_reducible refine ((same_zeroCluster ..).mono (by decide)).after ?_
    | with_reducible refine ((same_domainOff ..).mono (by decide)).after ?_
    | with_reducible refine ((same_shedOff ..).mono (by decide)).after ?_
    | intro _
    | split

theorem same_mChan (n : Nat) (f : Chan → Chan) (s : State) : Same [.ts] s (State.mChan n f s) := by
  unfold State.mChan
  try dsimp only [-Nat.reducePow]
  repeat' first
    | with_reducible exact Same.refl _
    | with_reducible refine ((same_mTs _ _).mono (by decide)).after ?_

theorem same_pmbRead (n : Nat) (raw : Option (BitVec 16)) (s : State) : Same [.ports, .fc, .led, .vu, .hx, .ts, .ob]
    s (pmbRead n raw s) := by
  unfold pmbRead
  try dsimp only [-Nat.reducePow]
  repeat' first
    | with_reducible exact Same.refl _
    | with_reducible refine ((same_bump ..).mono (by decide)).after ?_
    | with_reducible refine ((same_reportSelf ..).mono (by decide)).after ?_
    | with_reducible refine ((same_mChan ..).mono (by decide)).after ?_
    | intro _
    | split

theorem same_pmbAlert (status : BitVec 16) (s : State) : Same [.ports, .fc, .led, .vu, .hx, .ts, .ob] s (pmbAlert
    status s) := by
  unfold pmbAlert
  try dsimp only [-Nat.reducePow]
  repeat' first
    | with_reducible exact Same.refl _
    | with_reducible refine ((same_mTs _ _).mono (by decide)).after ?_
    | with_reducible refine ((same_bump ..).mono (by decide)).after ?_
    | with_reducible refine ((same_reportSelf ..).mono (by decide)).after ?_
    | intro _
    | split

theorem same_coolant (s : State) : Same [.ports, .fc, .led, .vu, .hx, .ts, .ob] s (coolant s).2.2 := by
  unfold coolant
  try dsimp only [-Nat.reducePow]
  repeat' first
    | with_reducible exact Same.refl _
    | with_reducible refine ((same_mTs _ _).mono (by decide)).after ?_
    | with_reducible refine ((same_reportSelf ..).mono (by decide)).after ?_
    | intro _
    | split

theorem same_siliconPower (s : State) : Same [.draws] s (siliconPower s).2 := by
  unfold siliconPower
  try dsimp only [-Nat.reducePow]
  repeat' first
    | with_reducible exact Same.refl _
    | with_reducible refine ((same_draw _).mono (by decide)).after ?_
    | intro _
    | split

theorem same_setLevel (n lv : Nat) (s : State) : Same [.ports, .fc, .ct, .led, .vu, .hx, .ts, .ob] s (setLevel n lv
    s) := by
  unfold setLevel
  try dsimp only [-Nat.reducePow]
  repeat' first
    | with_reducible exact Same.refl _
    | with_reducible refine ((same_mTs _ _).mono (by decide)).after ?_
    | with_reducible refine ((same_bump ..).mono (by decide)).after ?_
    | with_reducible refine ((same_reportUnit ..).mono (by decide)).after ?_
    | with_reducible refine ((same_mSector ..).mono (by decide)).after ?_
    | intro _
    | split

theorem same_coolQueues (s : State) : Same [.led, .sa] s (coolQueues s) := by
  unfold coolQueues
  try dsimp only [-Nat.reducePow]
  repeat' first
    | with_reducible exact Same.refl _
    | with_reducible refine ((same_mLane ..).mono (by decide)).after ?_
    | with_reducible refine ((same_laneEnqueue ..).mono (by decide)).after ?_
    | with_reducible refine (same_foldl _ ?_ _ _).after ?_
    | with_reducible refine (same_foldl2 _ ?_ _ _).after ?_
    | intro _
    | split

theorem same_nodeRound (dt tin tcp ps : Rat) (first : Bool) (n : Nat) (s : State) : Same [.ports, .fc, .ct, .led,
    .vu, .hx, .ts, .ob] s (nodeRound dt tin tcp ps first n s) := by
  unfold nodeRound
  try dsimp only [-Nat.reducePow]
  repeat' first
    | with_reducible exact Same.refl _
    | with_reducible refine ((same_mTs _ _).mono (by decide)).after ?_
    | with_reducible refine ((same_setLevel ..).mono (by decide)).after ?_

theorem same_killSeed (s : State) : Same [.nv] s (killSeed s) := by
  unfold killSeed
  try dsimp only [-Nat.reducePow]
  repeat' first
    | with_reducible exact Same.refl _
    | with_reducible refine ((same_mNv _ _).mono (by decide)).after ?_

theorem same_slowRound (s : State) : Same [.draws, .nv, .ports, .cfg, .fc, .ct, .led, .sa, .vu, .ym, .hx, .fr, .ts,
    .sec, .ob] s (slowRound s) := by
  unfold slowRound
  try dsimp only [-Nat.reducePow]
  repeat' first
    | with_reducible exact Same.refl _
    | with_reducible refine ((same_mTs _ _).mono (by decide)).after ?_
    | with_reducible refine ((same_mSec _ _).mono (by decide)).after ?_
    | with_reducible refine ((same_bump ..).mono (by decide)).after ?_
    | with_reducible refine ((same_sbFlush ..).mono (by decide)).after ?_
    | with_reducible refine ((same_voidSessionsWhere ..).mono (by decide)).after ?_
    | with_reducible refine ((same_frWindow ..).mono (by decide)).after ?_
    | with_reducible refine ((same_pkgResume ..).mono (by decide)).after ?_
    | with_reducible refine ((same_coolant ..).mono (by decide)).after ?_
    | with_reducible refine ((same_siliconPower ..).mono (by decide)).after ?_
    | with_reducible refine ((same_coolQueues ..).mono (by decide)).after ?_
    | with_reducible refine ((same_nodeRound ..).mono (by decide)).after ?_
    | with_reducible refine ((same_killSeed ..).mono (by decide)).after ?_
    | with_reducible refine (same_foldl _ ?_ _ _).after ?_
    | with_reducible refine (same_foldl2 _ ?_ _ _).after ?_
    | intro _
    | split

/-! ### Security -/

theorem same_storeKey (slot : Nat) (k : KeySlot) (s : State) : Same [.sec] s (storeKey slot k s) := by
  unfold storeKey
  try dsimp only [-Nat.reducePow]
  repeat' first
    | with_reducible exact Same.refl _
    | with_reducible refine ((same_mSec _ _).mono (by decide)).after ?_

theorem same_plainKey (slot : Nat) (key : BitVec 384) (s : State) : Same [.sec] s (plainKey slot key s) := by
  unfold plainKey
  try dsimp only [-Nat.reducePow]
  repeat' first
    | with_reducible exact Same.refl _
    | with_reducible refine ((same_storeKey ..).mono (by decide)).after ?_

theorem same_dropKey (slot : Nat) (s : State) : Same [.sec] s (dropKey slot s) := by
  unfold dropKey
  try dsimp only [-Nat.reducePow]
  repeat' first
    | with_reducible exact Same.refl _
    | with_reducible refine ((same_mSec _ _).mono (by decide)).after ?_

theorem same_deriveIdentity (s : State) : Same [.sec] s (deriveIdentity s) := by
  unfold deriveIdentity
  try dsimp only [-Nat.reducePow]
  repeat' first
    | with_reducible exact Same.refl _
    | with_reducible refine ((same_plainKey ..).mono (by decide)).after ?_
    | intro _
    | split

theorem same_unwrapKeys (s : State) : Same [.sec] s (unwrapKeys s) := by
  unfold unwrapKeys
  try dsimp only [-Nat.reducePow]
  repeat' first
    | with_reducible exact Same.refl _
    | with_reducible refine ((same_plainKey ..).mono (by decide)).after ?_
    | intro _
    | split

theorem same_deriveS1 (s : State) : Same [.draws, .sec] s (deriveS1 s) := by
  unfold deriveS1
  try dsimp only [-Nat.reducePow]
  repeat' first
    | with_reducible exact Same.refl _
    | with_reducible refine ((same_draw _).mono (by decide)).after ?_
    | with_reducible refine ((same_plainKey ..).mono (by decide)).after ?_
    | with_reducible refine ((same_deriveIdentity ..).mono (by decide)).after ?_
    | with_reducible refine ((same_unwrapKeys ..).mono (by decide)).after ?_

theorem same_deriveS2 (s : State) : Same [.sec] s (deriveS2 s) := by
  unfold deriveS2
  try dsimp only [-Nat.reducePow]
  repeat' first
    | with_reducible exact Same.refl _
    | with_reducible refine ((same_mSec _ _).mono (by decide)).after ?_
    | with_reducible refine ((same_plainKey ..).mono (by decide)).after ?_
    | intro _
    | split

theorem same_mSar (f : Sec → Sec) (s : State) : Same [.ports, .hx, .sec, .ob] s (State.mSar f s) := by
  unfold State.mSar
  try dsimp only [-Nat.reducePow]
  repeat' first
    | with_reducible exact Same.refl _
    | with_reducible refine ((same_mSec _ _).mono (by decide)).after ?_
    | with_reducible refine ((same_stateChanged ..).mono (by decide)).after ?_

theorem same_abortReport (s : State) : Same [.ports, .hx, .sec, .ob] s (abortReport s) := by
  unfold abortReport
  try dsimp only [-Nat.reducePow]
  repeat' first
    | with_reducible exact Same.refl _
    | with_reducible refine ((same_mSar ..).mono (by decide)).after ?_
    | intro _
    | split

theorem same_lockEffects (s : State) : Same [.nv, .ports, .cfg, .fc, .ct, .led, .twc, .sa, .mem, .vu, .hx, .sec,
    .ob] s (lockEffects s) := by
  unfold lockEffects
  try dsimp only [-Nat.reducePow]
  repeat' first
    | with_reducible exact Same.refl _
    | with_reducible refine ((same_abandonDistil ..).mono (by decide)).after ?_
    | with_reducible refine ((same_kill ..).mono (by decide)).after ?_
    | with_reducible refine ((same_abortReport ..).mono (by decide)).after ?_
    | with_reducible refine (same_foldl _ ?_ _ _).after ?_
    | with_reducible refine (same_foldl2 _ ?_ _ _).after ?_
    | intro _

theorem same_zeroiseCheck (s : State) : Same [.draws, .nv, .ports, .cfg, .fc, .ct, .led, .vu, .ym, .hx, .fr, .ob] s
    (zeroiseCheck s) := by
  unfold zeroiseCheck
  try dsimp only [-Nat.reducePow]
  repeat' first
    | with_reducible exact Same.refl _
    | with_reducible refine ((same_mCt _ _).mono (by decide)).after ?_
    | with_reducible refine ((same_draw _).mono (by decide)).after ?_
    | with_reducible refine ((same_secReport ..).mono (by decide)).after ?_
    | with_reducible refine ((same_partReset ..).mono (by decide)).after ?_
    | intro _
    | split

theorem same_eraseEffects (s : State) : Same [.sec, .ob] s (eraseEffects s) := by
  unfold eraseEffects
  try dsimp only [-Nat.reducePow]
  repeat' first
    | with_reducible exact Same.refl _
    | with_reducible refine ((same_mSec _ _).mono (by decide)).after ?_
    | with_reducible refine ((same_mOb _ _).mono (by decide)).after ?_
    | with_reducible refine ((same_dropKey ..).mono (by decide)).after ?_
    | with_reducible refine (same_foldl _ ?_ _ _).after ?_
    | with_reducible refine (same_foldl2 _ ?_ _ _).after ?_
    | intro _

theorem same_eraseAllEffects (s : State) : Same [.nv, .sec] s (eraseAllEffects s) := by
  unfold eraseAllEffects
  try dsimp only [-Nat.reducePow]
  repeat' first
    | with_reducible exact Same.refl _
    | with_reducible refine ((same_mNv _ _).mono (by decide)).after ?_
    | with_reducible refine ((same_killSeed ..).mono (by decide)).after ?_
    | with_reducible refine ((same_dropKey ..).mono (by decide)).after ?_
    | with_reducible refine (same_foldl _ ?_ _ _).after ?_
    | with_reducible refine (same_foldl2 _ ?_ _ _).after ?_
    | intro _
    | split

theorem same_applyPolicy (p : Nat) (s : State) : Same [.draws, .nv, .ports, .cfg, .fc, .ct, .led, .twc, .sa, .mem,
    .vu, .ym, .hx, .fr, .sec, .ob] s (applyPolicy p s) := by
  unfold applyPolicy
  try dsimp only [-Nat.reducePow]
  repeat' first
    | with_reducible exact Same.refl _
    | with_reducible refine ((same_mSec _ _).mono (by decide)).after ?_
    | with_reducible refine ((same_dumpAbort ..).mono (by decide)).after ?_
    | with_reducible refine ((same_lockEffects ..).mono (by decide)).after ?_
    | with_reducible refine ((same_zeroiseCheck ..).mono (by decide)).after ?_
    | with_reducible refine ((same_eraseEffects ..).mono (by decide)).after ?_
    | with_reducible refine ((same_eraseAllEffects ..).mono (by decide)).after ?_
    | intro _
    | split

theorem same_raiseAlarm (src : Nat) (s : State) : Same [.draws, .nv, .ports, .cfg, .fc, .ct, .led, .twc, .sa, .mem,
    .vu, .ym, .hx, .fr, .sec, .ob] s (raiseAlarm src s) := by
  unfold raiseAlarm
  try dsimp only [-Nat.reducePow]
  repeat' first
    | with_reducible exact Same.refl _
    | with_reducible refine ((same_mSec _ _).mono (by decide)).after ?_
    | with_reducible refine ((same_bump ..).mono (by decide)).after ?_
    | with_reducible refine ((same_hxMulticast ..).mono (by decide)).after ?_
    | with_reducible refine ((same_reportSelf ..).mono (by decide)).after ?_
    | with_reducible refine ((same_applyPolicy ..).mono (by decide)).after ?_
    | intro _
    | split

theorem same_alarmPin (pin : Nat) (level : Bool) (s : State) : Same [.draws, .nv, .ports, .cfg, .fc, .ct, .led,
    .twc, .sa, .mem, .vu, .ym, .hx, .fr, .sec, .ob] s (alarmPin pin level s) := by
  unfold alarmPin
  try dsimp only [-Nat.reducePow]
  repeat' first
    | with_reducible exact Same.refl _
    | with_reducible refine ((same_mSec _ _).mono (by decide)).after ?_
    | with_reducible refine ((same_raiseAlarm ..).mono (by decide)).after ?_
    | intro _
    | split

theorem same_lockstep (s : State) : Same [.draws, .nv, .ports, .cfg, .fc, .ct, .led, .twc, .sa, .mem, .vu, .ym, .hx,
    .fr, .sec, .ob] s (lockstep s) := by
  unfold lockstep
  try dsimp only [-Nat.reducePow]
  repeat' first
    | with_reducible exact Same.refl _
    | with_reducible refine ((same_raiseAlarm ..).mono (by decide)).after ?_
    | intro _
    | split

theorem same_secArrived (s : State) : Same [.draws, .nv, .ports, .cfg, .fc, .ct, .led, .twc, .sa, .mem, .vu, .ym,
    .hx, .fr, .sec, .ob] s (secArrived s) := by
  unfold secArrived
  try dsimp only [-Nat.reducePow]
  repeat' first
    | with_reducible exact Same.refl _
    | with_reducible refine ((same_secReport ..).mono (by decide)).after ?_
    | with_reducible refine ((same_raiseAlarm ..).mono (by decide)).after ?_

theorem same_otpWindow (s : State) : Same [.draws] s (otpWindow s).2 := by
  unfold otpWindow
  try dsimp only [-Nat.reducePow]
  repeat' first
    | with_reducible exact Same.refl _
    | with_reducible refine ((same_draw _).mono (by decide)).after ?_
    | intro _
    | split

theorem same_mOtp (f : Otp → Otp) (s : State) : Same [.nv] s (State.mOtp f s) := by
  unfold State.mOtp
  try dsimp only [-Nat.reducePow]
  repeat' first
    | with_reducible exact Same.refl _
    | with_reducible refine ((same_mNv _ _).mono (by decide)).after ?_

theorem same_endOrder (status : Nat) (s : State) : Same [.ports, .fc, .led, .vu, .hx, .sec, .ob] s (endOrder status
    s) := by
  unfold endOrder
  try dsimp only [-Nat.reducePow]
  repeat' first
    | with_reducible exact Same.refl _
    | with_reducible refine ((same_mSec _ _).mono (by decide)).after ?_
    | with_reducible refine ((same_secReport ..).mono (by decide)).after ?_
    | intro _
    | split

theorem same_otpOrder (f : State → State) (s : State) {m : List Part} (hm : Part.within [.draws, .ports, .fc, .led,
    .vu, .hx, .sec, .ob] m = true) (hf : ∀ s, Same m s (f s)) : Same m s (otpOrder f s) := by
  unfold otpOrder
  try dsimp only [-Nat.reducePow]
  repeat' first
    | with_reducible exact Same.refl _
    | with_reducible refine ((same_otpWindow ..).mono (Part.within_trans (by decide) hm)).after ?_
    | with_reducible refine ((same_endOrder ..).mono (Part.within_trans (by decide) hm)).after ?_
    | with_reducible refine (hf ..).after ?_
    | intro _
    | split

theorem same_lcRow (op : Nat) (priv : BitVec 2) (w : W64) (f : State → State) (s : State) {m : List Part} (hm :
    Part.within [.ports, .fc, .led, .vu, .hx, .sec, .ob] m = true) (hf : ∀ s, Same m s (f s)) : Same m s (lcRow op
      priv w f s) := by
  unfold lcRow
  try dsimp only [-Nat.reducePow]
  repeat' first
    | with_reducible exact Same.refl _
    | with_reducible refine (same_operatorWrite _ _ _ (Part.within_trans (by decide) hm) ?_).after ?_
    | with_reducible refine ((same_endOrder ..).mono (Part.within_trans (by decide) hm)).after ?_
    | with_reducible refine (hf ..).after ?_
    | intro _
    | split

theorem same_programRoot (s : State) : Same [.draws, .nv, .ports, .fc, .led, .vu, .hx, .sec, .ob] s (programRoot s)
    := by
  unfold programRoot
  try dsimp only [-Nat.reducePow]
  repeat' first
    | with_reducible exact Same.refl _
    | with_reducible refine ((same_mOtp ..).mono (by decide)).after ?_
    | with_reducible refine ((same_endOrder ..).mono (by decide)).after ?_
    | with_reducible refine (same_otpOrder _ _ (by decide) ?_).after ?_
    | intro _
    | split

theorem same_advanceLc (target : Nat) (s : State) : Same [.draws, .nv, .ports, .cfg, .fc, .ct, .led, .twc, .sa,
    .mem, .vu, .ym, .hx, .fr, .sec, .ob] s (advanceLc target s) := by
  unfold advanceLc
  try dsimp only [-Nat.reducePow]
  repeat' first
    | with_reducible exact Same.refl _
    | with_reducible refine ((same_mSec _ _).mono (by decide)).after ?_
    | with_reducible refine ((same_applyPolicy ..).mono (by decide)).after ?_
    | with_reducible refine ((same_mOtp ..).mono (by decide)).after ?_
    | with_reducible refine ((same_endOrder ..).mono (by decide)).after ?_
    | with_reducible refine (same_otpOrder _ _ (by decide) ?_).after ?_
    | intro _
    | split

theorem same_genIdentity (s : State) : Same [.draws, .nv, .ports, .fc, .led, .vu, .hx, .sec, .ob] s (genIdentity s)
    := by
  unfold genIdentity
  try dsimp only [-Nat.reducePow]
  repeat' first
    | with_reducible exact Same.refl _
    | with_reducible refine ((same_mSec _ _).mono (by decide)).after ?_
    | with_reducible refine ((same_draw _).mono (by decide)).after ?_
    | with_reducible refine ((same_deriveIdentity ..).mono (by decide)).after ?_
    | with_reducible refine ((same_mOtp ..).mono (by decide)).after ?_
    | with_reducible refine ((same_endOrder ..).mono (by decide)).after ?_
    | with_reducible refine (same_otpOrder _ _ (by decide) ?_).after ?_
    | intro _
    | split

theorem same_installCert (s : State) : Same [.nv, .ports, .cfg, .fc, .led, .vu, .hx, .sec, .ob] s (installCert s) :=
    by
  unfold installCert
  try dsimp only [-Nat.reducePow]
  repeat' first
    | with_reducible exact Same.refl _
    | with_reducible refine ((same_sbWrite ..).mono (by decide)).after ?_
    | with_reducible refine ((same_endOrder ..).mono (by decide)).after ?_
    | with_reducible refine (same_foldl _ ?_ _ _).after ?_
    | with_reducible refine (same_foldl2 _ ?_ _ _).after ?_
    | intro _
    | split

theorem same_programWrapped (s : State) : Same [.draws, .nv, .ports, .fc, .led, .vu, .hx, .sec, .ob] s
    (programWrapped s) := by
  unfold programWrapped
  try dsimp only [-Nat.reducePow]
  repeat' first
    | with_reducible exact Same.refl _
    | with_reducible refine ((same_draw _).mono (by decide)).after ?_
    | with_reducible refine ((same_mOtp ..).mono (by decide)).after ?_
    | with_reducible refine ((same_endOrder ..).mono (by decide)).after ?_
    | with_reducible refine (same_otpOrder _ _ (by decide) ?_).after ?_
    | intro _
    | split

theorem same_setMinSeq (s : State) : Same [.draws, .nv, .ports, .fc, .led, .vu, .hx, .sec, .ob] s (setMinSeq s) := by
  unfold setMinSeq
  try dsimp only [-Nat.reducePow]
  repeat' first
    | with_reducible exact Same.refl _
    | with_reducible refine ((same_mOtp ..).mono (by decide)).after ?_
    | with_reducible refine ((same_endOrder ..).mono (by decide)).after ?_
    | with_reducible refine (same_otpOrder _ _ (by decide) ?_).after ?_
    | intro _
    | split

theorem same_unlockChallenge (s : State) : Same [.draws, .ports, .fc, .led, .vu, .hx, .sec, .ob] s (unlockChallenge
    s) := by
  unfold unlockChallenge
  try dsimp only [-Nat.reducePow]
  repeat' first
    | with_reducible exact Same.refl _
    | with_reducible refine ((same_mSec _ _).mono (by decide)).after ?_
    | with_reducible refine ((same_draw _).mono (by decide)).after ?_
    | with_reducible refine ((same_endOrder ..).mono (by decide)).after ?_
    | intro _
    | split

theorem same_unlockFailed (s : State) : Same [.draws, .nv, .ports, .cfg, .fc, .ct, .led, .twc, .sa, .mem, .vu, .ym,
    .hx, .fr, .sec, .ob] s (unlockFailed s) := by
  unfold unlockFailed
  try dsimp only [-Nat.reducePow]
  repeat' first
    | with_reducible exact Same.refl _
    | with_reducible refine ((same_mSec _ _).mono (by decide)).after ?_
    | with_reducible refine ((same_bump ..).mono (by decide)).after ?_
    | with_reducible refine ((same_secReport ..).mono (by decide)).after ?_
    | with_reducible refine ((same_raiseAlarm ..).mono (by decide)).after ?_
    | intro _
    | split

theorem same_unlockResponse (s : State) : Same [.draws, .nv, .ports, .cfg, .fc, .ct, .led, .twc, .sa, .mem, .vu,
    .ym, .hx, .fr, .sec, .ob] s (unlockResponse s) := by
  unfold unlockResponse
  try dsimp only [-Nat.reducePow]
  repeat' first
    | with_reducible exact Same.refl _
    | with_reducible refine ((same_mSec _ _).mono (by decide)).after ?_
    | with_reducible refine ((same_endOrder ..).mono (by decide)).after ?_
    | with_reducible refine ((same_unlockFailed ..).mono (by decide)).after ?_
    | intro _
    | split

theorem same_readNext (l : List W64) (f : List W64 → State → State) (s : State) {m : List Part} (hm : Part.within
    [.ports, .fc, .led, .vu, .hx, .ob] m = true) (hf : ∀ a0 s, Same m s (f a0 s)) : Same m s (readNext l f s) := by
  unfold readNext
  try dsimp only [-Nat.reducePow]
  repeat' first
    | with_reducible exact Same.refl _
    | with_reducible refine ((same_answer ..).mono (Part.within_trans (by decide) hm)).after ?_
    | with_reducible refine (hf ..).after ?_

theorem same_provOut (priv : BitVec 2) (s : State) : Same [.ports, .fc, .led, .vu, .hx, .sec, .ob] s (provOut priv
    s) := by
  unfold provOut
  try dsimp only [-Nat.reducePow]
  repeat' first
    | with_reducible exact Same.refl _
    | with_reducible refine ((same_mSec _ _).mono (by decide)).after ?_
    | with_reducible refine ((same_denied ..).mono (by decide)).after ?_
    | with_reducible refine (same_hrp _ _ (by decide) ?_).after ?_
    | with_reducible refine (same_readNext _ _ _ (by decide) ?_).after ?_
    | intro _
    | split

theorem same_klEnd (status : Nat) (s : State) : Same [.ports, .fc, .led, .vu, .hx, .sec, .ob] s (klEnd status s) := by
  unfold klEnd
  try dsimp only [-Nat.reducePow]
  repeat' first
    | with_reducible exact Same.refl _
    | with_reducible refine ((same_mSec _ _).mono (by decide)).after ?_
    | with_reducible refine ((same_bump ..).mono (by decide)).after ?_
    | with_reducible refine ((same_secReport ..).mono (by decide)).after ?_
    | intro _
    | split

theorem same_keyload (slot : Nat) (s : State) : Same [.ports, .fc, .led, .vu, .hx, .sec, .ob] s (keyload slot s) := by
  unfold keyload
  try dsimp only [-Nat.reducePow]
  repeat' first
    | with_reducible exact Same.refl _
    | with_reducible refine ((same_storeKey ..).mono (by decide)).after ?_
    | with_reducible refine ((same_klEnd ..).mono (by decide)).after ?_
    | intro _
    | split

theorem same_tenantWrite (priv : BitVec 2) (f : State → State) (s : State) {m : List Part} (hm : Part.within
    [.ports, .fc, .led, .vu, .hx, .sec, .ob] m = true) (hf : ∀ s, Same m s (f s)) : Same m s (tenantWrite priv f s)
      := by
  unfold tenantWrite
  try dsimp only [-Nat.reducePow]
  repeat' first
    | with_reducible exact Same.refl _
    | with_reducible refine ((same_answer ..).mono (Part.within_trans (by decide) hm)).after ?_
    | with_reducible refine ((same_denied ..).mono (Part.within_trans (by decide) hm)).after ?_
    | with_reducible refine (same_hrp _ _ (Part.within_trans (by decide) hm) ?_).after ?_
    | with_reducible refine (hf ..).after ?_
    | intro _
    | split

theorem same_tokenPresent (c : Nat) (s : State) : Same [.ports, .fc, .led, .vu, .hx, .sec, .ob] s (tokenPresent c s)
    := by
  unfold tokenPresent
  try dsimp only [-Nat.reducePow]
  repeat' first
    | with_reducible exact Same.refl _
    | with_reducible refine ((same_mSec _ _).mono (by decide)).after ?_
    | with_reducible refine ((same_bump ..).mono (by decide)).after ?_
    | with_reducible refine ((same_secReport ..).mono (by decide)).after ?_
    | intro _
    | split

theorem same_sarGo (c : Nat) (s : State) : Same [.ports, .hx, .sec, .ob] s (sarGo c s) := by
  unfold sarGo
  try dsimp only [-Nat.reducePow]
  repeat' first
    | with_reducible exact Same.refl _
    | with_reducible refine ((same_mSar ..).mono (by decide)).after ?_
    | intro _
    | split

theorem same_sarBuildDone (s : State) : Same [.draws, .ports, .hx, .sec, .ob] s (sarBuildDone s) := by
  unfold sarBuildDone
  try dsimp only [-Nat.reducePow]
  repeat' first
    | with_reducible exact Same.refl _
    | with_reducible refine ((same_draw _).mono (by decide)).after ?_
    | with_reducible refine ((same_bump ..).mono (by decide)).after ?_
    | with_reducible refine ((same_mSar ..).mono (by decide)).after ?_
    | intro _
    | split

theorem same_sarData (priv : BitVec 2) (s : State) : Same [.ports, .fc, .led, .vu, .hx, .sec, .ob] s (sarData priv
    s) := by
  unfold sarData
  try dsimp only [-Nat.reducePow]
  repeat' first
    | with_reducible exact Same.refl _
    | with_reducible refine ((same_mSec _ _).mono (by decide)).after ?_
    | with_reducible refine ((same_denied ..).mono (by decide)).after ?_
    | with_reducible refine (same_hrp _ _ (by decide) ?_).after ?_
    | with_reducible refine (same_readNext _ _ _ (by decide) ?_).after ?_
    | intro _
    | split

theorem same_certData (priv : BitVec 2) (s : State) : Same [.ports, .fc, .led, .vu, .hx, .sec, .ob] s (certData priv
    s) := by
  unfold certData
  try dsimp only [-Nat.reducePow]
  repeat' first
    | with_reducible exact Same.refl _
    | with_reducible refine ((same_mSec _ _).mono (by decide)).after ?_
    | with_reducible refine ((same_answer ..).mono (by decide)).after ?_
    | with_reducible refine ((same_denied ..).mono (by decide)).after ?_
    | with_reducible refine (same_hrp _ _ (by decide) ?_).after ?_
    | intro _
    | split

theorem same_wrapDumpKey (s : State) : Same [.draws] s (wrapDumpKey s).2 := by
  unfold wrapDumpKey
  try dsimp only [-Nat.reducePow]
  repeat' first
    | with_reducible exact Same.refl _
    | with_reducible refine ((same_draw _).mono (by decide)).after ?_
    | intro _
    | split

theorem same_dumpKey (priv : BitVec 2) (s : State) : Same [.draws, .ports, .fc, .led, .vu, .hx, .sec, .ob] s
    (dumpKey priv s) := by
  unfold dumpKey
  try dsimp only [-Nat.reducePow]
  repeat' first
    | with_reducible exact Same.refl _
    | with_reducible refine ((same_mSec _ _).mono (by decide)).after ?_
    | with_reducible refine ((same_denied ..).mono (by decide)).after ?_
    | with_reducible refine (same_hrp _ _ (by decide) ?_).after ?_
    | with_reducible refine (same_readNext _ _ _ (by decide) ?_).after ?_
    | with_reducible refine ((same_wrapDumpKey ..).mono (by decide)).after ?_
    | intro _
    | split

/-! ### Image -/

theorem same_applyExpert (b : Bytes) (s : State) : Same [.expert] s (applyExpert b s).2 := by
  unfold applyExpert
  try dsimp only [-Nat.reducePow]
  repeat' first
    | with_reducible exact Same.refl _
    | with_reducible refine ((same_expertWrite ..).mono (by decide)).after ?_
    | with_reducible refine (same_foldl _ ?_ _ _).after ?_
    | with_reducible refine (same_foldl2 _ ?_ _ _).after ?_
    | intro _
    | split

/-! ### Start -/

theorem same_rstNAssert (s : State) : Same [.now, .draws, .nv, .ports, .expert, .cfg, .fc, .ct, .led, .twc, .per,
    .sa, .mem, .vu, .ym, .hx, .fr, .ts, .sec, .ob] s (rstNAssert s) := by
  exact ⟨rfl, fun x => (x (by decide)).elim, fun x => (x (by decide)).elim, fun x => (x (by decide)).elim, fun x =>
    (x (by decide)).elim, fun x => (x (by decide)).elim, fun x => (x (by decide)).elim, fun x => (x (by
      decide)).elim, fun x => (x (by decide)).elim, fun x => (x (by decide)).elim, fun x => (x (by decide)).elim,
        fun x => (x (by decide)).elim, fun x => (x (by decide)).elim, fun x => (x (by decide)).elim, fun x => (x (by
          decide)).elim, fun x => (x (by decide)).elim, fun x => (x (by decide)).elim, fun x => (x (by
            decide)).elim, fun x => (x (by decide)).elim, fun x => (x (by decide)).elim, fun x => (x (by
              decide)).elim, fun x => (x (by decide)).elim⟩

theorem same_rstNRelease (dieId : BitVec 6) (s : State) : Same [.ports, .cfg, .hx, .ts, .ob] s (rstNRelease dieId s)
    := by
  unfold rstNRelease
  try dsimp only [-Nat.reducePow]
  repeat' first
    | with_reducible exact Same.refl _
    | with_reducible refine ((same_mPorts _ _).mono (by decide)).after ?_
    | with_reducible refine ((same_setDomain ..).mono (by decide)).after ?_
    | with_reducible refine ((same_stagePass ..).mono (by decide)).after ?_
    | intro _
    | split

theorem same_s1Reports (t : SelfTest) (s : State) : Same [.draws, .nv, .ports, .cfg, .fc, .ct, .led, .twc, .sa,
    .mem, .vu, .ym, .hx, .fr, .sec, .ob] s (s1Reports t s) := by
  unfold s1Reports
  try dsimp only [-Nat.reducePow]
  repeat' first
    | with_reducible exact Same.refl _
    | with_reducible refine ((same_reportSelf ..).mono (by decide)).after ?_
    | with_reducible refine ((same_raiseAlarm ..).mono (by decide)).after ?_
    | intro _
    | split

theorem same_returnEntry (s : State) : Same [.nv, .cfg, .ob] s (returnEntry s) := by
  unfold returnEntry
  try dsimp only [-Nat.reducePow]
  repeat' first
    | with_reducible exact Same.refl _
    | with_reducible refine ((same_sbWrite ..).mono (by decide)).after ?_
    | with_reducible refine ((same_sbPaddock ..).mono (by decide)).after ?_
    | with_reducible refine (same_foldl _ ?_ _ _).after ?_
    | with_reducible refine (same_foldl2 _ ?_ _ _).after ?_
    | intro _
    | split

theorem same_stageS1 (t : SelfTest) (s : State) : Same [.draws, .nv, .ports, .cfg, .fc, .ct, .led, .twc, .sa, .mem,
    .vu, .ym, .hx, .fr, .sec, .ob] s (stageS1 t s) := by
  unfold stageS1
  try dsimp only [-Nat.reducePow]
  repeat' first
    | with_reducible exact Same.refl _
    | with_reducible refine ((same_mCfg _ _).mono (by decide)).after ?_
    | with_reducible refine ((same_mSec _ _).mono (by decide)).after ?_
    | with_reducible refine ((same_stageReport ..).mono (by decide)).after ?_
    | with_reducible refine ((same_stagePass ..).mono (by decide)).after ?_
    | with_reducible refine ((same_stageFatal ..).mono (by decide)).after ?_
    | with_reducible refine ((same_deriveS1 ..).mono (by decide)).after ?_
    | with_reducible refine ((same_s1Reports ..).mono (by decide)).after ?_
    | intro _
    | split

theorem same_cfgExpert (n : Nat) (s : State) : Same [.ports, .fc, .led, .vu, .hx, .ob] s (cfgExpert n s) := by
  unfold cfgExpert
  try dsimp only [-Nat.reducePow]
  repeat' first
    | with_reducible exact Same.refl _
    | with_reducible refine ((same_reportSelf ..).mono (by decide)).after ?_
    | with_reducible refine (same_foldl _ ?_ _ _).after ?_
    | with_reducible refine (same_foldl2 _ ?_ _ _).after ?_
    | intro _

theorem same_readStud (s : State) : Same [.nv, .cfg, .vu, .ob] s (readStud s) := by
  unfold readStud
  try dsimp only [-Nat.reducePow]
  repeat' first
    | with_reducible exact Same.refl _
    | with_reducible refine ((same_mCfg _ _).mono (by decide)).after ?_
    | with_reducible refine ((same_mVu _ _).mono (by decide)).after ?_
    | with_reducible refine ((same_bump ..).mono (by decide)).after ?_
    | with_reducible refine ((same_sbWrite ..).mono (by decide)).after ?_
    | with_reducible refine ((same_returnEntry ..).mono (by decide)).after ?_

theorem same_loadSections (img : Bytes) (copy : Bool) (s : State) : Same [.expert, .cfg, .ts] s (loadSections img
    copy s) := by
  exact ⟨rfl, fun _ => rfl, fun _ => rfl, fun _ => rfl, fun _ => rfl, fun _ => rfl, fun x => (x (by decide)).elim,
    fun x => (x (by decide)).elim, fun _ => rfl, fun _ => rfl, fun _ => rfl, fun _ => rfl, fun _ => rfl, fun _ =>
      rfl, fun _ => rfl, fun _ => rfl, fun _ => rfl, fun _ => rfl, fun _ => rfl, fun x => (x (by decide)).elim, fun
        _ => rfl, fun _ => rfl⟩

theorem same_applySections (img : Bytes) (s : State) : Same [.ports, .expert, .cfg, .fc, .led, .vu, .hx, .ob] s
    (applySections img s).2 := by
  unfold applySections
  try dsimp only [-Nat.reducePow]
  repeat' first
    | with_reducible exact Same.refl _
    | with_reducible refine ((same_mCfg _ _).mono (by decide)).after ?_
    | with_reducible refine ((same_applyExpert ..).mono (by decide)).after ?_
    | with_reducible refine ((same_cfgExpert ..).mono (by decide)).after ?_
    | intro _
    | split

theorem same_s3Domains (s : State) : Same [.ts, .ob] s (s3Domains s) := by
  unfold s3Domains
  try dsimp only [-Nat.reducePow]
  repeat' first
    | with_reducible exact Same.refl _
    | with_reducible refine ((same_requestDomain ..).mono (by decide)).after ?_
    | with_reducible refine (same_foldl _ ?_ _ _).after ?_
    | with_reducible refine (same_foldl2 _ ?_ _ _).after ?_
    | intro _

theorem same_stageS2With (img : Bytes) (copy : Bool) (s : State) : Same [.nv, .ports, .expert, .cfg, .fc, .led, .vu,
    .hx, .ts, .sec, .ob] s (stageS2With img copy s) := by
  unfold stageS2With
  try dsimp only [-Nat.reducePow]
  repeat' first
    | with_reducible exact Same.refl _
    | with_reducible refine ((same_stagePass ..).mono (by decide)).after ?_
    | with_reducible refine ((same_stageFatal ..).mono (by decide)).after ?_
    | with_reducible refine ((same_deriveS2 ..).mono (by decide)).after ?_
    | with_reducible refine ((same_cfgExpert ..).mono (by decide)).after ?_
    | with_reducible refine ((same_readStud ..).mono (by decide)).after ?_
    | with_reducible refine ((same_loadSections ..).mono (by decide)).after ?_
    | with_reducible refine ((same_applySections ..).mono (by decide)).after ?_
    | with_reducible refine ((same_s3Domains ..).mono (by decide)).after ?_
    | intro _
    | split

theorem same_stageS2 (primary secondary : Bytes) (s : State) : Same [.nv, .ports, .expert, .cfg, .fc, .led, .vu,
    .hx, .ts, .sec, .ob] s (stageS2 primary secondary s) := by
  unfold stageS2
  try dsimp only [-Nat.reducePow]
  repeat' first
    | with_reducible exact Same.refl _
    | with_reducible refine ((same_reportSelf ..).mono (by decide)).after ?_
    | with_reducible refine ((same_stageFatal ..).mono (by decide)).after ?_
    | with_reducible refine ((same_stageS2With ..).mono (by decide)).after ?_
    | intro _
    | split

theorem same_s3Fail (loci : List W128) (rows : Nat) (s : State) : Same [.ports, .cfg, .fc, .led, .vu, .hx, .ob] s
    (s3Fail loci rows s) := by
  unfold s3Fail
  try dsimp only [-Nat.reducePow]
  repeat' first
    | with_reducible exact Same.refl _
    | with_reducible refine ((same_reportSelf ..).mono (by decide)).after ?_
    | with_reducible refine ((same_stageFatal ..).mono (by decide)).after ?_

theorem same_stageS3 (fails deadSpares : List FailEntry) (void : Bool) (s : State) : Same [.nv, .ports, .cfg, .fc,
    .led, .sa, .mem, .vu, .hx, .fr, .ts, .ob] s (stageS3 fails deadSpares void s) := by
  unfold stageS3
  try dsimp only [-Nat.reducePow]
  repeat' first
    | with_reducible exact Same.refl _
    | with_reducible refine ((same_stagePass ..).mono (by decide)).after ?_
    | with_reducible refine ((same_frWindow ..).mono (by decide)).after ?_
    | with_reducible refine ((same_buildRowMaps ..).mono (by decide)).after ?_
    | with_reducible refine ((same_repairAll ..).mono (by decide)).after ?_
    | with_reducible refine ((same_bistLog ..).mono (by decide)).after ?_
    | with_reducible refine ((same_zeroArrays ..).mono (by decide)).after ?_
    | with_reducible refine ((same_s3Fail ..).mono (by decide)).after ?_
    | intro _
    | split

theorem same_hitchStart (s : State) : Same [.draws, .ports, .fc, .led, .vu, .hx, .ts, .ob] s (hitchStart s) := by
  unfold hitchStart
  try dsimp only [-Nat.reducePow]
  repeat' first
    | with_reducible exact Same.refl _
    | with_reducible refine ((same_mHx _ _).mono (by decide)).after ?_
    | with_reducible refine ((same_draw _).mono (by decide)).after ?_
    | with_reducible refine ((same_requestDomain ..).mono (by decide)).after ?_
    | with_reducible refine ((same_removePort ..).mono (by decide)).after ?_
    | with_reducible refine ((same_startTraining ..).mono (by decide)).after ?_
    | with_reducible refine (same_foldl _ ?_ _ _).after ?_
    | with_reducible refine (same_foldl2 _ ?_ _ _).after ?_
    | intro _
    | split

theorem same_stepTime (s : State) : Same [.now, .hx, .fr] s (stepTime s) := by
  unfold stepTime
  split
  · exact Same.refl _
  · exact ⟨rfl, fun x => (x (by decide)).elim, fun x => (x (by decide)).elim, fun _ => rfl, fun _ => rfl, fun _ =>
    rfl, fun _ => rfl, fun _ => rfl, fun _ => rfl, fun _ => rfl, fun _ => rfl, fun _ => rfl, fun _ => rfl, fun _ =>
      rfl, fun _ => rfl, fun _ => rfl, fun _ => rfl, fun x => (x (by decide)).elim, fun x => (x (by decide)).elim,
        fun _ => rfl, fun _ => rfl, fun _ => rfl⟩

theorem same_s4End (s : State) : Same [.now, .ports, .cfg, .fc, .led, .vu, .hx, .fr, .ob] s (s4End s) := by
  unfold s4End
  try dsimp only [-Nat.reducePow]
  repeat' first
    | with_reducible exact Same.refl _
    | with_reducible refine ((same_mHx _ _).mono (by decide)).after ?_
    | with_reducible refine ((same_reportSelf ..).mono (by decide)).after ?_
    | with_reducible refine ((same_stageReport ..).mono (by decide)).after ?_
    | with_reducible refine ((same_stagePass ..).mono (by decide)).after ?_
    | with_reducible refine ((same_startTraining ..).mono (by decide)).after ?_
    | with_reducible refine ((same_stepTime ..).mono (by decide)).after ?_
    | with_reducible refine (same_foldl _ ?_ _ _).after ?_
    | with_reducible refine (same_foldl2 _ ?_ _ _).after ?_
    | intro _
    | split

theorem same_stageS4 (s : State) : Same [.now, .draws, .ports, .cfg, .fc, .led, .vu, .hx, .fr, .ts, .ob] s (stageS4
    s) := by
  unfold stageS4
  try dsimp only [-Nat.reducePow]
  repeat' first
    | with_reducible exact Same.refl _
    | with_reducible refine ((same_hitchStart ..).mono (by decide)).after ?_
    | with_reducible refine ((same_s4End ..).mono (by decide)).after ?_
    | intro _
    | split

theorem same_surveySector (ok : Bool) (t : SectorT) (s : State) : Same [.ports, .fc, .ct, .led, .vu, .hx, .ob] s
    (surveySector ok t s) := by
  unfold surveySector
  try dsimp only [-Nat.reducePow]
  repeat' first
    | with_reducible exact Same.refl _
    | with_reducible refine ((same_bump ..).mono (by decide)).after ?_
    | with_reducible refine ((same_mSector ..).mono (by decide)).after ?_
    | with_reducible refine ((same_timedOut ..).mono (by decide)).after ?_
    | intro _
    | split

theorem same_surveySectors (v : Survey) (s : State) : Same [.ports, .fc, .ct, .led, .vu, .hx, .ob] s (surveySectors
    v s) := by
  unfold surveySectors
  try dsimp only [-Nat.reducePow]
  repeat' first
    | with_reducible exact Same.refl _
    | with_reducible refine ((same_surveySector ..).mono (by decide)).after ?_
    | with_reducible refine (same_foldl _ ?_ _ _).after ?_
    | with_reducible refine (same_foldl2 _ ?_ _ _).after ?_
    | intro _

theorem same_surveyRouters (v : Survey) (s : State) : Same [.nv, .ports, .cfg, .fc, .ct, .led, .twc, .per, .sa,
    .mem, .vu, .ym, .hx, .ts, .ob] s (surveyRouters v s) := by
  unfold surveyRouters
  try dsimp only [-Nat.reducePow]
  repeat' first
    | with_reducible exact Same.refl _
    | with_reducible refine ((same_bump ..).mono (by decide)).after ?_
    | with_reducible refine ((same_fcpTimeout ..).mono (by decide)).after ?_
    | with_reducible refine ((same_timedOut ..).mono (by decide)).after ?_
    | with_reducible refine (same_foldl _ ?_ _ _).after ?_
    | with_reducible refine (same_foldl2 _ ?_ _ _).after ?_
    | intro _

theorem same_surveyLinks (v : Survey) (s : State) : Same [.nv, .ports, .cfg, .fc, .ct, .led, .vu, .ym, .hx, .ob] s
    (surveyLinks v s) := by
  unfold surveyLinks
  try dsimp only [-Nat.reducePow]
  repeat' first
    | with_reducible exact Same.refl _
    | with_reducible refine ((same_hlinkDown ..).mono (by decide)).after ?_
    | with_reducible refine ((same_hlinkWidth ..).mono (by decide)).after ?_
    | with_reducible refine (same_foldl _ ?_ _ _).after ?_
    | with_reducible refine (same_foldl2 _ ?_ _ _).after ?_
    | intro _
    | split

theorem same_applyStud (s : State) : Same [.vu, .ym] s (applyStud s) := by
  unfold applyStud
  try dsimp only [-Nat.reducePow]
  repeat' first
    | with_reducible exact Same.refl _
    | with_reducible refine ((same_mYm _ _).mono (by decide)).after ?_
    | with_reducible refine ((same_mPad ..).mono (by decide)).after ?_
    | with_reducible refine (same_foldl _ ?_ _ _).after ?_
    | with_reducible refine (same_foldl2 _ ?_ _ _).after ?_
    | intro _

theorem same_stageS5 (v : Survey) (s : State) : Same [.nv, .ports, .cfg, .fc, .ct, .led, .twc, .per, .sa, .mem, .vu,
    .ym, .hx, .ts, .ob] s (stageS5 v s) := by
  unfold stageS5
  try dsimp only [-Nat.reducePow]
  repeat' first
    | with_reducible exact Same.refl _
    | with_reducible refine ((same_mYm _ _).mono (by decide)).after ?_
    | with_reducible refine ((same_mOb _ _).mono (by decide)).after ?_
    | with_reducible refine ((same_reportUnit ..).mono (by decide)).after ?_
    | with_reducible refine ((same_stagePass ..).mono (by decide)).after ?_
    | with_reducible refine ((same_stageFatal ..).mono (by decide)).after ?_
    | with_reducible refine ((same_surveySectors ..).mono (by decide)).after ?_
    | with_reducible refine ((same_surveyRouters ..).mono (by decide)).after ?_
    | with_reducible refine ((same_surveyLinks ..).mono (by decide)).after ?_
    | with_reducible refine ((same_applyStud ..).mono (by decide)).after ?_
    | with_reducible refine (same_foldl _ ?_ _ _).after ?_
    | with_reducible refine (same_foldl2 _ ?_ _ _).after ?_
    | intro _
    | split

theorem same_s6Core (h : Huid) (r : Nat) (s : State) : Same [.nv, .ports, .cfg, .fc, .led, .vu, .hx, .ob] s (s6Core
    h r s) := by
  unfold s6Core
  try dsimp only [-Nat.reducePow]
  repeat' first
    | with_reducible exact Same.refl _
    | with_reducible refine ((same_bump ..).mono (by decide)).after ?_
    | with_reducible refine ((same_reportUnit ..).mono (by decide)).after ?_
    | with_reducible refine ((same_sbDefect ..).mono (by decide)).after ?_
    | with_reducible refine ((same_mPad ..).mono (by decide)).after ?_
    | with_reducible refine ((same_setPad ..).mono (by decide)).after ?_
    | intro _
    | split

theorem same_stageS6 (results : List PairSay) (void : Bool) (s : State) : Same [.nv, .ports, .cfg, .fc, .led, .vu,
    .hx, .ob] s (stageS6 results void s) := by
  unfold stageS6
  try dsimp only [-Nat.reducePow]
  repeat' first
    | with_reducible exact Same.refl _
    | with_reducible refine ((same_bump ..).mono (by decide)).after ?_
    | with_reducible refine ((same_stagePass ..).mono (by decide)).after ?_
    | with_reducible refine ((same_stageFatal ..).mono (by decide)).after ?_
    | with_reducible refine ((same_s6Core ..).mono (by decide)).after ?_
    | with_reducible refine (same_foldl _ ?_ _ _).after ?_
    | with_reducible refine (same_foldl2 _ ?_ _ _).after ?_
    | intro _
    | split

theorem same_remapAll (s : State) : Same [.nv, .cfg, .ct, .ym, .ob] s (remapAll s) := by
  unfold remapAll
  refine same_foldl _ (fun s a => ?_) _ _
  dsimp only
  split
  · exact Same.refl _
  · exact Same.getD (fun t h => (same_remapLabel h).mono (by decide)) (Same.refl _)

theorem same_firstTables (s : State) : Same [.ym, .ob] s (firstTables s) := by
  unfold firstTables
  try dsimp only [-Nat.reducePow]
  repeat' first
    | with_reducible exact Same.refl _
    | with_reducible refine ((same_mYm _ _).mono (by decide)).after ?_
    | with_reducible refine ((same_bump ..).mono (by decide)).after ?_

theorem same_stageS7 (routersAnswered : Bool) (s : State) : Same [.nv, .ports, .cfg, .fc, .ct, .led, .vu, .ym, .hx,
    .ob] s (stageS7 routersAnswered s) := by
  unfold stageS7
  try dsimp only [-Nat.reducePow]
  repeat' first
    | with_reducible exact Same.refl _
    | with_reducible refine ((same_reachUpdate ..).mono (by decide)).after ?_
    | with_reducible refine ((same_stagePass ..).mono (by decide)).after ?_
    | with_reducible refine ((same_stageFatal ..).mono (by decide)).after ?_
    | with_reducible refine ((same_remapAll ..).mono (by decide)).after ?_
    | with_reducible refine ((same_firstTables ..).mono (by decide)).after ?_
    | intro _
    | split

theorem same_stageS8 (s : State) : Same [.ports, .cfg, .fc, .ct, .led, .vu, .hx, .ob] s (stageS8 s) := by
  unfold stageS8
  try dsimp only [-Nat.reducePow]
  repeat' first
    | with_reducible exact Same.refl _
    | with_reducible refine ((same_startMuster ..).mono (by decide)).after ?_
    | with_reducible refine ((same_stageFatal ..).mono (by decide)).after ?_
    | intro _
    | split

theorem same_stageS9 (s : State) : Same [.nv, .ports, .cfg, .fc, .led, .vu, .hx, .ob] s (stageS9 s) := by
  unfold stageS9
  try dsimp only [-Nat.reducePow]
  repeat' first
    | with_reducible exact Same.refl _
    | with_reducible refine ((same_arriveBarrier0 ..).mono (by decide)).after ?_
    | with_reducible refine ((same_enterService ..).mono (by decide)).after ?_
    | intro _
    | split

/-! ### MusterRun -/

theorem same_sendCommit (h : Huid) (s : State) : Same [.ports] s (sendCommit h s) := by
  unfold sendCommit
  try dsimp only [-Nat.reducePow]
  repeat' first
    | with_reducible exact Same.refl _
    | with_reducible refine ((same_sendMuster ..).mono (by decide)).after ?_

theorem same_resend (h : Huid) (blocks : List Nat) (s : State) : Same [.ports, .ob] s (resend h blocks s) := by
  unfold resend
  try dsimp only [-Nat.reducePow]
  repeat' first
    | with_reducible exact Same.refl _
    | with_reducible refine ((same_bump ..).mono (by decide)).after ?_
    | with_reducible refine ((same_sendBlock ..).mono (by decide)).after ?_
    | with_reducible refine (same_foldl _ ?_ _ _).after ?_
    | with_reducible refine (same_foldl2 _ ?_ _ _).after ?_
    | intro _

theorem same_incompleteCore (h : Huid) (s : State) : Same [.nv, .ports, .cfg, .fc, .ct, .led, .vu, .ym, .hx, .ob] s
    (incompleteCore h s) := by
  unfold incompleteCore
  try dsimp only [-Nat.reducePow]
  repeat' first
    | with_reducible exact Same.refl _
    | with_reducible refine ((same_mPad ..).mono (by decide)).after ?_
    | with_reducible refine ((same_enterFenced ..).mono (by decide)).after ?_
    | with_reducible refine ((same_sendMuster ..).mono (by decide)).after ?_

theorem same_incompleteReport (hs : List Huid) (s : State) : Same [.ports, .fc, .led, .vu, .hx, .ob] s
    (incompleteReport hs s) := by
  unfold incompleteReport
  try dsimp only [-Nat.reducePow]
  repeat' first
    | with_reducible exact Same.refl _
    | with_reducible refine ((same_raise ..).mono (by decide)).after ?_

theorem same_nextOf (l : List Nat) (s : State) : Same [.nv, .ports, .cfg, .fc, .ct, .led, .vu, .ym, .hx, .ob] s
    (nextOf l s) := by
  induction l generalizing s with
  | nil => exact ((same_mCfg ..).mono (by decide))
  | cons n l ih =>
    unfold nextOf
    split
    · exact (ih _).after ((same_seqNext ..).mono (by decide))
    · exact ((same_startMuster ..).mono (by decide)).after ((same_mCfg ..).mono (by decide))

theorem same_nextMuster (s : State) : Same [.nv, .ports, .cfg, .fc, .ct, .led, .vu, .ym, .hx, .ob] s (nextMuster s)
    := by
  unfold nextMuster
  try dsimp only [-Nat.reducePow]
  repeat' first
    | with_reducible exact Same.refl _
    | with_reducible refine ((same_nextOf ..).mono (by decide)).after ?_

theorem same_stage8End (done left : List Huid) (s : State) : Same [.ports, .cfg, .fc, .led, .vu, .hx, .ob] s
    (stage8End done left s) := by
  unfold stage8End
  try dsimp only [-Nat.reducePow]
  repeat' first
    | with_reducible exact Same.refl _
    | with_reducible refine ((same_stagePass ..).mono (by decide)).after ?_
    | with_reducible refine ((same_stageFatal ..).mono (by decide)).after ?_
    | intro _
    | split

theorem same_musterEnd (s : State) : Same [.nv, .ports, .cfg, .fc, .ct, .led, .vu, .ym, .hx, .ob] s (musterEnd s) :=
    by
  unfold musterEnd
  try dsimp only [-Nat.reducePow]
  repeat' first
    | with_reducible exact Same.refl _
    | with_reducible refine ((same_bump ..).mono (by decide)).after ?_
    | with_reducible refine ((same_mMuster ..).mono (by decide)).after ?_
    | with_reducible refine ((same_seqNext ..).mono (by decide)).after ?_
    | with_reducible refine ((same_incompleteCore ..).mono (by decide)).after ?_
    | with_reducible refine ((same_incompleteReport ..).mono (by decide)).after ?_
    | with_reducible refine ((same_nextMuster ..).mono (by decide)).after ?_
    | with_reducible refine ((same_stage8End ..).mono (by decide)).after ?_
    | with_reducible refine (same_foldl _ ?_ _ _).after ?_
    | with_reducible refine (same_foldl2 _ ?_ _ _).after ?_
    | intro _
    | split

theorem same_musterNext (s : State) : Same [.nv, .ports, .cfg, .fc, .ct, .led, .vu, .ym, .hx, .ob] s (musterNext s)
    := by
  unfold musterNext
  try dsimp only [-Nat.reducePow]
  repeat' first
    | with_reducible exact Same.refl _
    | with_reducible refine ((same_mMuster ..).mono (by decide)).after ?_
    | with_reducible refine ((same_queryAll ..).mono (by decide)).after ?_
    | with_reducible refine ((same_sendCommit ..).mono (by decide)).after ?_
    | with_reducible refine ((same_resend ..).mono (by decide)).after ?_
    | with_reducible refine ((same_musterEnd ..).mono (by decide)).after ?_
    | with_reducible refine (same_foldl _ ?_ _ _).after ?_
    | with_reducible refine (same_foldl2 _ ?_ _ _).after ?_
    | intro _
    | split

theorem same_musterAnswered (s : State) : Same [.nv, .ports, .cfg, .fc, .ct, .led, .vu, .ym, .hx, .ob] s
    (musterAnswered s) := by
  unfold musterAnswered
  try dsimp only [-Nat.reducePow]
  repeat' first
    | with_reducible exact Same.refl _
    | with_reducible refine ((same_musterEnd ..).mono (by decide)).after ?_
    | with_reducible refine ((same_musterNext ..).mono (by decide)).after ?_
    | intro _
    | split

theorem same_musterBitmap (h : Huid) (map : Bytes) (s : State) : Same [.nv, .ports, .cfg, .fc, .ct, .led, .vu, .ym,
    .hx, .ob] s (musterBitmap h map s) := by
  unfold musterBitmap
  try dsimp only [-Nat.reducePow]
  repeat' first
    | with_reducible exact Same.refl _
    | with_reducible refine ((same_mMuster ..).mono (by decide)).after ?_
    | with_reducible refine ((same_musterAnswered ..).mono (by decide)).after ?_
    | intro _
    | split

theorem same_sessionBitmap (x : Session) (map : Bytes) (s : State) : Same [.nv, .ports, .cfg, .fc, .ct, .led, .vu,
    .ym, .hx, .fr, .ob] s (sessionBitmap x map s) := by
  unfold sessionBitmap
  try dsimp only [-Nat.reducePow]
  repeat' first
    | with_reducible exact Same.refl _
    | with_reducible refine ((same_endSession ..).mono (by decide)).after ?_
    | with_reducible refine ((same_sendMuster ..).mono (by decide)).after ?_
    | with_reducible refine ((same_mSession ..).mono (by decide)).after ?_
    | with_reducible refine ((same_sendCommit ..).mono (by decide)).after ?_
    | with_reducible refine ((same_resend ..).mono (by decide)).after ?_
    | intro _
    | split

theorem same_bitmapPacket (p : Ingress) (s : State) : Same [.nv, .ports, .cfg, .fc, .ct, .led, .vu, .ym, .hx, .fr,
    .ob] s (bitmapPacket p s) := by
  unfold bitmapPacket
  try dsimp only [-Nat.reducePow]
  repeat' first
    | with_reducible exact Same.refl _
    | with_reducible refine ((same_musterBitmap ..).mono (by decide)).after ?_
    | with_reducible refine ((same_sessionBitmap ..).mono (by decide)).after ?_
    | intro _
    | split

theorem same_sessionCommitted (x : Session) (s : State) : Same [.ports, .vu, .fr] s (sessionCommitted x s) := by
  unfold sessionCommitted
  try dsimp only [-Nat.reducePow]
  repeat' first
    | with_reducible exact Same.refl _
    | with_reducible refine ((same_mPad ..).mono (by decide)).after ?_
    | with_reducible refine ((same_mSession ..).mono (by decide)).after ?_
    | with_reducible refine ((same_openTest ..).mono (by decide)).after ?_

theorem same_musterCommitted (h : Huid) (s : State) : Same [.nv, .ports, .cfg, .fc, .ct, .led, .vu, .ym, .hx, .ob] s
    (musterCommitted h s) := by
  unfold musterCommitted
  try dsimp only [-Nat.reducePow]
  repeat' first
    | with_reducible exact Same.refl _
    | with_reducible refine ((same_mPad ..).mono (by decide)).after ?_
    | with_reducible refine ((same_mMuster ..).mono (by decide)).after ?_
    | with_reducible refine ((same_musterAnswered ..).mono (by decide)).after ?_
    | intro _
    | split

theorem same_commitPacket (p : Ingress) (s : State) : Same [.nv, .ports, .cfg, .fc, .ct, .led, .vu, .ym, .hx, .fr,
    .ob] s (commitPacket p s) := by
  unfold commitPacket
  try dsimp only [-Nat.reducePow]
  repeat' first
    | with_reducible exact Same.refl _
    | with_reducible refine ((same_sessionCommitted ..).mono (by decide)).after ?_
    | with_reducible refine ((same_musterCommitted ..).mono (by decide)).after ?_
    | intro _
    | split

theorem same_musterTimeout (s : State) : Same [.nv, .ports, .cfg, .fc, .ct, .led, .vu, .ym, .hx, .ob] s
    (musterTimeout s) := by
  unfold musterTimeout
  try dsimp only [-Nat.reducePow]
  repeat' first
    | with_reducible exact Same.refl _
    | with_reducible refine ((same_mMuster ..).mono (by decide)).after ?_
    | with_reducible refine ((same_musterEnd ..).mono (by decide)).after ?_
    | with_reducible refine ((same_musterNext ..).mono (by decide)).after ?_
    | with_reducible refine (same_foldl _ ?_ _ _).after ?_
    | with_reducible refine (same_foldl2 _ ?_ _ _).after ?_
    | intro _
    | split

theorem same_sectorMuster (n : Nat) (s : State) : Same [.nv, .ports, .cfg, .fc, .ct, .led, .vu, .ym, .hx, .ob] s
    (sectorMuster n s) := by
  unfold sectorMuster
  try dsimp only [-Nat.reducePow]
  repeat' first
    | with_reducible exact Same.refl _
    | with_reducible refine ((same_orderSectorMuster ..).mono (by decide)).after ?_
    | with_reducible refine ((same_seqNext ..).mono (by decide)).after ?_
    | intro _
    | split

end Sys2Proof.Machine
end

