-- ==== Sys2Proof/Laws/Units6.lean ====
section
/-!
SUPPORT. The units that the operations of these files of the machine may change: Watching, Faults, Dumps, HostPort,
Pins.
-/
namespace Sys2Proof.Machine

/-! ### Watching -/

theorem same_snapWrite (w : W64) (s : State) : Same [.ports, .hx, .ob] s (snapWrite w s) := by
  unfold snapWrite
  try dsimp only [-Nat.reducePow]
  repeat' first
    | with_reducible exact Same.refl _
    | with_reducible refine ((same_snapNow ..).mono (by decide)).after ?_
    | intro _
    | split

theorem same_snapPeriod (s : State) : Same [.ports, .hx, .ob] s (snapPeriod s) := by
  unfold snapPeriod
  try dsimp only [-Nat.reducePow]
  repeat' first
    | with_reducible exact Same.refl _
    | with_reducible refine ((same_snapNow ..).mono (by decide)).after ?_
    | intro _
    | split

theorem same_watchWrite (c : Nat) (w : W64) (s : State) : Same [.ob] s (watchWrite c w s) := by
  unfold watchWrite
  try dsimp only [-Nat.reducePow]
  repeat' first
    | with_reducible exact Same.refl _
    | with_reducible refine ((same_mOb _ _).mono (by decide)).after ?_
    | intro _
    | split

theorem same_tenantWatch (priv : BitVec 2) (f : Nat → State → State) (s : State) {m : List Part} (hm : Part.within
    [.ports, .fc, .led, .vu, .hx, .sec, .ob] m = true) (hf : ∀ a0 s, Same m s (f a0 s)) : Same m s (tenantWatch priv
      f s) := by
  unfold tenantWatch
  try dsimp only [-Nat.reducePow]
  repeat' first
    | with_reducible exact Same.refl _
    | with_reducible refine ((same_denied ..).mono (Part.within_trans (by decide) hm)).after ?_
    | with_reducible refine (same_hrp _ _ (Part.within_trans (by decide) hm) ?_).after ?_
    | with_reducible refine (hf ..).after ?_
    | intro _
    | split

theorem same_watchGo (priv : BitVec 2) (w : W64) (s : State) : Same [.ports, .fc, .led, .vu, .hx, .sec, .ob] s
    (watchGo priv w s) := by
  unfold watchGo
  try dsimp only [-Nat.reducePow]
  repeat' first
    | with_reducible exact Same.refl _
    | with_reducible refine ((same_answer ..).mono (by decide)).after ?_
    | with_reducible refine ((same_watchWrite ..).mono (by decide)).after ?_
    | with_reducible refine (same_tenantWatch _ _ _ (by decide) ?_).after ?_
    | intro _

theorem same_watchNext (c : Nat) (s : State) : Same [.ports, .fc, .led, .vu, .hx, .ob] s (watchNext c s) := by
  unfold watchNext
  try dsimp only [-Nat.reducePow]
  repeat' first
    | with_reducible exact Same.refl _
    | with_reducible refine ((same_mOb _ _).mono (by decide)).after ?_
    | with_reducible refine ((same_answer ..).mono (by decide)).after ?_
    | intro _
    | split

theorem same_watchData (priv : BitVec 2) (s : State) : Same [.ports, .fc, .led, .vu, .hx, .sec, .ob] s (watchData
    priv s) := by
  unfold watchData
  try dsimp only [-Nat.reducePow]
  repeat' first
    | with_reducible exact Same.refl _
    | with_reducible refine (same_tenantWatch _ _ _ (by decide) ?_).after ?_
    | with_reducible refine ((same_watchNext ..).mono (by decide)).after ?_
    | intro _

theorem same_dumpWrite (w : W64) (s : State) : Same [.ports, .hx, .ob] s (dumpWrite w s) := by
  unfold dumpWrite
  try dsimp only [-Nat.reducePow]
  repeat' first
    | with_reducible exact Same.refl _
    | with_reducible refine ((same_dumpStart ..).mono (by decide)).after ?_
    | intro _
    | split

theorem same_dumpGo (c : DumpCause) (s : State) : Same [.ports, .fc, .led, .vu, .hx, .sec, .ob] s (dumpGo c s) := by
  unfold dumpGo
  try dsimp only [-Nat.reducePow]
  repeat' first
    | with_reducible exact Same.refl _
    | with_reducible refine (same_operatorWrite _ _ _ (by decide) ?_).after ?_
    | with_reducible refine ((same_dumpStart ..).mono (by decide)).after ?_
    | with_reducible refine ((same_dumpWrite ..).mono (by decide)).after ?_
    | intro _
    | split

/-! ### Faults -/

theorem same_eventPortMessage (k0 : Bool) (d0 : W64) (k1 : Bool) (d1 : W64) (s : State) : Same [.ports, .fc, .led,
    .vu, .hx, .ob] s (eventPortMessage k0 d0 k1 d1 s) := by
  unfold eventPortMessage
  split
  · exact Same.refl _
  · split
    · exact (same_badMsg ..).mono (by decide)
    · have h : Same [.ports, .fc, .led, .vu, .hx, .ob] s _ := (same_validate 0 (d1 ++ d0) s).mono (by decide)
      dsimp only
      split
      · exact h
      · exact h.trans (Same.getD (fun t k => (same_placeRec k).mono (by decide)) ((same_mFc ..).mono (by decide)))

theorem same_validateAll (inst : Nat) (l : List W128) (s : State) : Same [.ports, .fc, .led, .vu, .hx, .ob] s
    (validateAll inst l s).2 := by
  induction l generalizing s with
  | nil => exact Same.refl s
  | cons m l ih => exact (ih _).after ((same_validate inst m s).mono (by decide))

theorem same_eventPacket (p : Ingress) (s : State) : Same [.ports, .fc, .led, .vu, .hx, .ob] s (eventPacket p s) := by
  unfold eventPacket
  dsimp only
  split
  · exact (same_badMsg ..).mono (by decide)
  · refine Same.trans (same_validateAll (1 + p.port.toNat) ((List.range (p.body.length / 16)).map
      fun i => BitVec.ofNat 128 (leAt p.body (16 * i) 16)) s) ?_
    (repeat' split) <;> first
      | exact Same.refl _
      | exact Same.getD (fun t h => (same_placeRec h).mono (by decide)) ((same_mFc ..).mono (by decide))
      | exact (same_mFc ..).mono (by decide)

theorem same_retryRun (rx : Nat) (l : List RingRec) (s : State) : Same [.fc, .led, .vu, .ob] s (retryRun rx l s).2
    := by
  induction l generalizing s with
  | nil => exact Same.refl s
  | cons r l ih =>
    unfold retryRun
    split
    · exact (((same_placeRec (by assumption)).mono (by decide)).trans ((same_waited ..).mono (by decide))).trans (ih
      _)
    · exact Same.refl s

theorem same_ringPlaceRetry (w : Writer) (s : State) : Same [.fc, .led, .vu, .ob] s (ringPlaceRetry w s) := by
  unfold ringPlaceRetry
  try dsimp only [-Nat.reducePow]
  repeat' first
    | with_reducible exact Same.refl _
    | with_reducible refine ((same_mFc _ _).mono (by decide)).after ?_
    | with_reducible refine ((same_mCollector ..).mono (by decide)).after ?_
    | with_reducible refine ((same_retryRun ..).mono (by decide)).after ?_
    | intro _
    | split

theorem same_mClass (c : Nat) (f : ClassSt → ClassSt) (s : State) : Same [.fc] s (State.mClass c f s) := by
  unfold State.mClass
  try dsimp only [-Nat.reducePow]
  repeat' first
    | with_reducible exact Same.refl _
    | with_reducible refine ((same_mFc _ _).mono (by decide)).after ?_

theorem same_evictSource {s t : State} (h : evictSource s = some t) : Same [.fc, .ob] s t := by
  unfold evictSource at h
  dsimp only at h
  split at h
  · cases h
    exact Same.refl _
  · split at h
    · cases h
    · cases h
      exact ((same_bump ..).mono (by decide)).after ((same_mFc ..).mono (by decide))

theorem same_countSource (c die : Nat) (key : W128) (now : Nat) (s : State) : Same [.fc, .ob] s (countSource c die
    key now s).2 := by
  unfold countSource
  try dsimp only [-Nat.reducePow]
  repeat' first
    | with_reducible exact Same.refl _
    | with_reducible refine ((same_mFc _ _).mono (by decide)).after ?_
    | with_reducible refine ((same_bump ..).mono (by decide)).after ?_
    | with_reducible refine ((same_evictSource (by assumption)).mono (by decide)).after ?_
    | intro _
    | split

theorem same_blockReset (h : Huid) (s : State) : Same [.nv, .ports, .cfg, .fc, .ct, .led, .vu, .ym, .hx, .fr, .ob] s
    (blockReset h s) := by
  unfold blockReset
  try dsimp only [-Nat.reducePow]
  repeat' first
    | with_reducible exact Same.refl _
    | with_reducible refine ((same_sectorReset ..).mono (by decide)).after ?_
    | with_reducible refine ((same_partReset ..).mono (by decide)).after ?_
    | intro _
    | split

theorem same_latchFirst (m : W128) (c level : Nat) (esc : Bool) (r : RingRec) (s : State) : Same [.fc] s (latchFirst
    m c level esc r s) := by
  unfold latchFirst
  try dsimp only [-Nat.reducePow]
  repeat' first
    | with_reducible exact Same.refl _
    | with_reducible refine ((same_mFc _ _).mono (by decide)).after ?_

theorem same_forwardFault (m : W128) (time : Nat) (s : State) : Same [.ports, .hx, .ob] s (forwardFault m time s) :=
    by
  unfold forwardFault
  try dsimp only [-Nat.reducePow]
  repeat' first
    | with_reducible exact Same.refl _
    | with_reducible refine ((same_hxSend ..).mono (by decide)).after ?_
    | intro _
    | split

theorem same_react (m loc : W128) (c level : Nat) (esc : Bool) (r : RingRec) (s : State) : Same [.nv, .ports, .cfg,
    .fc, .ct, .led, .vu, .ym, .hx, .fr, .ob] s (react m loc c level esc r s) := by
  unfold react
  try dsimp only [-Nat.reducePow]
  repeat' first
    | with_reducible exact Same.refl _
    | with_reducible refine ((same_dumpStart ..).mono (by decide)).after ?_
    | with_reducible refine ((same_locusRecord ..).mono (by decide)).after ?_
    | with_reducible refine ((same_chipReset ..).mono (by decide)).after ?_
    | with_reducible refine ((same_mClass ..).mono (by decide)).after ?_
    | with_reducible refine ((same_blockReset ..).mono (by decide)).after ?_
    | with_reducible refine ((same_latchFirst ..).mono (by decide)).after ?_
    | with_reducible refine ((same_forwardFault ..).mono (by decide)).after ?_
    | intro _
    | split

theorem same_processMsg (m loc : W128) (first : Bool) (r : RingRec) (s : State) : Same [.nv, .ports, .cfg, .fc, .ct,
    .led, .vu, .ym, .hx, .fr, .ob] s (processMsg m loc first r s) := by
  unfold processMsg
  try dsimp only [-Nat.reducePow]
  repeat' first
    | with_reducible exact Same.refl _
    | with_reducible refine ((same_mFc _ _).mono (by decide)).after ?_
    | with_reducible refine ((same_bump ..).mono (by decide)).after ?_
    | with_reducible refine ((same_countSource ..).mono (by decide)).after ?_
    | with_reducible refine ((same_react ..).mono (by decide)).after ?_
    | intro _
    | split

theorem same_yardMsg (m : W128) (s : State) : Same [.nv, .ports, .cfg, .fc, .ct, .led, .twc, .per, .sa, .mem, .vu,
    .ym, .hx, .ts, .ob] s (yardMsg m s) := by
  unfold yardMsg
  try dsimp only [-Nat.reducePow]
  repeat' first
    | with_reducible exact Same.refl _
    | with_reducible refine ((same_bump ..).mono (by decide)).after ?_
    | with_reducible refine ((same_pumpFcp ..).mono (by decide)).after ?_
    | with_reducible refine ((same_hlinkDown ..).mono (by decide)).after ?_
    | with_reducible refine ((same_hlinkWidth ..).mono (by decide)).after ?_
    | with_reducible refine ((same_routerFailed ..).mono (by decide)).after ?_
    | with_reducible refine ((same_ymAdvance ..).mono (by decide)).after ?_
    | with_reducible refine ((same_pollDone ..).mono (by decide)).after ?_
    | with_reducible refine ((same_routeMiss ..).mono (by decide)).after ?_
    | intro _
    | split

theorem same_dropRecord (r : RingRec) (s : State) : Same [.fc] s (dropRecord r s) := by
  unfold dropRecord
  try dsimp only [-Nat.reducePow]
  repeat' first
    | with_reducible exact Same.refl _
    | with_reducible refine ((same_mFc _ _).mono (by decide)).after ?_

theorem same_fcProcess (s : State) : Same [.nv, .ports, .cfg, .fc, .ct, .led, .twc, .per, .sa, .mem, .vu, .ym, .hx,
    .fr, .ts, .ob] s (fcProcess s) := by
  unfold fcProcess
  try dsimp only [-Nat.reducePow]
  repeat' first
    | with_reducible exact Same.refl _
    | with_reducible refine ((same_mFc _ _).mono (by decide)).after ?_
    | with_reducible refine ((same_processMsg ..).mono (by decide)).after ?_
    | with_reducible refine ((same_yardMsg ..).mono (by decide)).after ?_
    | with_reducible refine ((same_dropRecord ..).mono (by decide)).after ?_
    | intro _
    | split

theorem same_fcAck (w : W64) (s : State) : Same [.fc, .ob] s (fcAck w s) := by
  unfold fcAck
  try dsimp only [-Nat.reducePow]
  repeat' first
    | with_reducible exact Same.refl _
    | with_reducible refine ((same_mFc _ _).mono (by decide)).after ?_
    | with_reducible refine ((same_bump ..).mono (by decide)).after ?_
    | with_reducible refine ((same_mClass ..).mono (by decide)).after ?_
    | intro _
    | split

theorem same_levelLeaked (c die : Nat) (key : W128) (s : State) : Same [.fc] s (levelLeaked c die key s) := by
  unfold levelLeaked
  try dsimp only [-Nat.reducePow]
  repeat' first
    | with_reducible exact Same.refl _
    | with_reducible refine ((same_mFc _ _).mono (by decide)).after ?_

theorem same_injectWrite (priv : BitVec 2) (f : State → State) (s : State) {m : List Part} (hm : Part.within
    [.ports, .fc, .led, .vu, .hx, .sec, .ob] m = true) (hf : ∀ s, Same m s (f s)) : Same m s (injectWrite priv f s)
      := by
  unfold injectWrite
  try dsimp only [-Nat.reducePow]
  repeat' first
    | with_reducible exact Same.refl _
    | with_reducible refine ((same_reportSelf ..).mono (Part.within_trans (by decide) hm)).after ?_
    | with_reducible refine ((same_answer ..).mono (Part.within_trans (by decide) hm)).after ?_
    | with_reducible refine ((same_denied ..).mono (Part.within_trans (by decide) hm)).after ?_
    | with_reducible refine (same_hrp _ _ (Part.within_trans (by decide) hm) ?_).after ?_
    | with_reducible refine (hf ..).after ?_
    | intro _
    | split

theorem same_injectMessage (s : State) : Same [.ports, .fc, .led, .vu, .hx, .ob] s (injectMessage s) := by
  unfold injectMessage
  split
  · exact Same.refl _
  · have h : Same [.ports, .fc, .led, .vu, .hx, .ob] s _ := (same_validate 0 (s.fc.inj1 ++ s.fc.inj0) s).mono (by
    decide)
    dsimp only
    split
    · exact h
    · exact h.trans (Same.getD (fun t k => (same_placeRec k).mono (by decide)) ((same_mFc ..).mono (by decide)))

theorem same_injectLocal (w : W64) (s : State) : Same [.ports, .fc, .led, .vu, .hx, .ob] s (injectLocal w s) := by
  unfold injectLocal
  try dsimp only [-Nat.reducePow]
  repeat' first
    | with_reducible exact Same.refl _
    | with_reducible refine ((same_reportSelf ..).mono (by decide)).after ?_
    | intro _
    | split

theorem same_injectEcc (w : W64) (s : State) : Same [.mem] s (injectEcc w s) := by
  unfold injectEcc
  try dsimp only [-Nat.reducePow]
  repeat' first
    | with_reducible exact Same.refl _
    | with_reducible refine ((same_mMem _ _).mono (by decide)).after ?_
    | intro _
    | split

theorem same_injectGo (w : W64) (s : State) : Same [.ports, .fc, .led, .mem, .vu, .hx, .ob] s (injectGo w s) := by
  unfold injectGo
  try dsimp only [-Nat.reducePow]
  repeat' first
    | with_reducible exact Same.refl _
    | with_reducible refine ((same_injectMessage ..).mono (by decide)).after ?_
    | with_reducible refine ((same_injectLocal ..).mono (by decide)).after ?_
    | with_reducible refine ((same_injectEcc ..).mono (by decide)).after ?_
    | intro _
    | split

theorem same_injectRow (mode : Nat) (priv : BitVec 2) (w : W64) (f : State → State) (s : State) {m : List Part} (hm
    : Part.within [.ports, .fc, .led, .vu, .hx, .sec, .ob] m = true) (hf : ∀ s, Same m s (f s)) : Same m s
      (injectRow mode priv w f s) := by
  unfold injectRow
  try dsimp only [-Nat.reducePow]
  repeat' first
    | with_reducible exact Same.refl _
    | with_reducible refine (same_injectWrite _ _ _ (Part.within_trans (by decide) hm) ?_).after ?_
    | with_reducible refine (hf ..).after ?_
    | intro _
    | split

/-! ### Dumps -/

theorem same_writeSection (u status : Nat) (b : Bytes) (s : State) : Same [.ports, .ob] s (writeSection u status b
    s) := by
  unfold writeSection
  try dsimp only [-Nat.reducePow]
  repeat' first
    | with_reducible exact Same.refl _
    | with_reducible refine ((same_tackWrite ..).mono (by decide)).after ?_
    | with_reducible refine (same_foldl _ ?_ _ _).after ?_
    | with_reducible refine (same_foldl2 _ ?_ _ _).after ?_
    | intro _

theorem same_sectionEnd (u : Nat) (s : State) : Same [.ports, .hx, .ob] s (sectionEnd u s) := by
  unfold sectionEnd
  try dsimp only [-Nat.reducePow]
  repeat' first
    | with_reducible exact Same.refl _
    | with_reducible refine ((same_mDump ..).mono (by decide)).after ?_

theorem same_dumpSectionDone (s : State) : Same [.ports, .hx, .ob] s (dumpSectionDone s) := by
  unfold dumpSectionDone
  try dsimp only [-Nat.reducePow]
  repeat' first
    | with_reducible exact Same.refl _
    | with_reducible refine ((same_mOb _ _).mono (by decide)).after ?_
    | with_reducible refine ((same_writeSection ..).mono (by decide)).after ?_
    | with_reducible refine ((same_sectionEnd ..).mono (by decide)).after ?_
    | intro _
    | split

theorem same_dumpSectionTimeout (s : State) : Same [.ports, .fc, .led, .vu, .hx, .ob] s (dumpSectionTimeout s) := by
  unfold dumpSectionTimeout
  try dsimp only [-Nat.reducePow]
  repeat' first
    | with_reducible exact Same.refl _
    | with_reducible refine ((same_mOb _ _).mono (by decide)).after ?_
    | with_reducible refine ((same_reportSelf ..).mono (by decide)).after ?_
    | with_reducible refine ((same_writeSection ..).mono (by decide)).after ?_
    | with_reducible refine ((same_sectionEnd ..).mono (by decide)).after ?_
    | intro _
    | split

theorem same_tackRsp (p : Ingress) (s : State) : Same [.ports, .fc, .led, .vu, .hx, .ob] s (tackRsp p s) := by
  unfold tackRsp
  try dsimp only [-Nat.reducePow]
  repeat' first
    | with_reducible exact Same.refl _
    | with_reducible refine ((same_mOb _ _).mono (by decide)).after ?_
    | with_reducible refine ((same_reportSelf ..).mono (by decide)).after ?_
    | intro _
    | split

/-! ### HostPort -/

theorem same_writeLow (a : Nat) (w : W64) (s : State) : Same [.cfg, .fc, .ct, .led, .twc, .per, .sa, .mem] s
    (writeLow a w s) := by
  unfold writeLow
  try dsimp only [-Nat.reducePow]
  repeat' first
    | with_reducible exact Same.refl _
    | with_reducible refine ((same_mCfg _ _).mono (by decide)).after ?_
    | with_reducible refine ((same_mFc _ _).mono (by decide)).after ?_
    | with_reducible refine ((same_mCt _ _).mono (by decide)).after ?_
    | with_reducible refine ((same_mLed _ _).mono (by decide)).after ?_
    | with_reducible refine ((same_mTwc _ _).mono (by decide)).after ?_
    | with_reducible refine ((same_mPer _ _).mono (by decide)).after ?_
    | with_reducible refine ((same_mMem _ _).mono (by decide)).after ?_
    | with_reducible refine ((same_mCluster ..).mono (by decide)).after ?_
    | intro _
    | split

theorem same_writeHigh (a : Nat) (w : W64) (s : State) : Same [.vu, .ym, .hx, .fr, .ts, .sec, .ob] s (writeHigh a w
    s) := by
  unfold writeHigh
  try dsimp only [-Nat.reducePow]
  repeat' first
    | with_reducible exact Same.refl _
    | with_reducible refine ((same_mVu _ _).mono (by decide)).after ?_
    | with_reducible refine ((same_mYm _ _).mono (by decide)).after ?_
    | with_reducible refine ((same_mHx _ _).mono (by decide)).after ?_
    | with_reducible refine ((same_mFr _ _).mono (by decide)).after ?_
    | with_reducible refine ((same_mTs _ _).mono (by decide)).after ?_
    | with_reducible refine ((same_mSec _ _).mono (by decide)).after ?_
    | with_reducible refine ((same_mOb _ _).mono (by decide)).after ?_
    | intro _
    | split

theorem same_basicWrite (a : Nat) (w : W64) (s : State) : Same [.cfg, .fc, .ct, .led, .twc, .per, .sa, .mem, .vu,
    .ym, .hx, .fr, .ts, .sec, .ob] s (basicWrite a w s) := by
  unfold basicWrite
  try dsimp only [-Nat.reducePow]
  repeat' first
    | with_reducible exact Same.refl _
    | with_reducible refine ((same_writeLow ..).mono (by decide)).after ?_
    | with_reducible refine ((same_writeHigh ..).mono (by decide)).after ?_
    | intro _
    | split

theorem same_fuseBits (n : Nat) (s : State) : Same [.draws] s (fuseBits n s).2 := by
  induction n generalizing s with
  | zero => exact Same.refl s
  | succ n ih => exact (ih _).after ((same_draw s).mono (by decide))

theorem same_lcCtrl (priv : BitVec 2) (w : W64) (s : State) : Same [.draws, .nv, .ports, .cfg, .fc, .ct, .led, .twc,
    .sa, .mem, .vu, .ym, .hx, .fr, .sec, .ob] s (lcCtrl priv w s) := by
  unfold lcCtrl
  try dsimp only [-Nat.reducePow]
  repeat' first
    | with_reducible exact Same.refl _
    | with_reducible refine (same_operatorWrite _ _ _ (by decide) ?_).after ?_
    | with_reducible refine ((same_endOrder ..).mono (by decide)).after ?_
    | with_reducible refine (same_lcRow _ _ _ _ _ (by decide) ?_).after ?_
    | with_reducible refine ((same_programRoot ..).mono (by decide)).after ?_
    | with_reducible refine ((same_advanceLc ..).mono (by decide)).after ?_
    | with_reducible refine ((same_genIdentity ..).mono (by decide)).after ?_
    | with_reducible refine ((same_installCert ..).mono (by decide)).after ?_
    | with_reducible refine ((same_programWrapped ..).mono (by decide)).after ?_
    | with_reducible refine ((same_setMinSeq ..).mono (by decide)).after ?_
    | with_reducible refine ((same_unlockChallenge ..).mono (by decide)).after ?_
    | with_reducible refine ((same_unlockResponse ..).mono (by decide)).after ?_
    | intro _
    | split

theorem same_pkgCtrl (priv : BitVec 2) (w : W64) (s : State) : Same [.ports, .fc, .led, .vu, .hx, .fr, .ts, .sec,
    .ob] s (pkgCtrl priv w s) := by
  unfold pkgCtrl
  split
  · exact same_pkgRow _ _ _ _ _ (by decide) fun t => (same_pkgStart _ t).mono (by decide)
  · exact same_pkgRow _ _ _ _ _ (by decide) fun t => (same_pkgClose t).mono (by decide)
  · exact same_pkgRow _ _ _ _ _ (by decide) fun t => (same_pkgAbort t).mono (by decide)
  · exact same_testOrder _ _ _ _ (by decide) Same.refl

theorem same_sarCtrl (priv : BitVec 2) (w : W64) (s : State) : Same [.ports, .fc, .led, .vu, .hx, .sec, .ob] s
    (sarCtrl priv w s) := by
  unfold sarCtrl
  try dsimp only [-Nat.reducePow]
  repeat' first
    | with_reducible exact Same.refl _
    | with_reducible refine ((same_answer ..).mono (by decide)).after ?_
    | with_reducible refine ((same_denied ..).mono (by decide)).after ?_
    | with_reducible refine ((same_sarGo ..).mono (by decide)).after ?_
    | intro _
    | split

theorem same_orderReg {priv : BitVec 2} {a : Nat} {w : W64} {s t : State} (h : orderReg priv a w s = some t) :
    Same [.draws, .nv, .ports, .cfg, .fc, .ct, .led, .twc, .per, .sa, .mem, .vu, .ym, .hx, .fr, .ts, .sec, .ob] s t
      := by
  unfold orderReg at h
  dsimp only at h
  split at h <;> cases h
  all_goals
    repeat' first
      | with_reducible exact Same.refl _
      | with_reducible refine (same_operatorWrite _ _ _ (by decide) ?_).after ?_
      | with_reducible refine (same_injectWrite _ _ _ (by decide) ?_).after ?_
      | with_reducible refine (same_ctOrderWrite _ _ _ _ (by decide) ?_).after ?_
      | with_reducible refine ((same_hostBarrier ..).mono (by decide)).after ?_
      | with_reducible refine (same_testOrder _ _ _ _ (by decide) ?_).after ?_
      | with_reducible refine ((same_fcAck ..).mono (by decide)).after ?_
      | with_reducible refine ((same_injectGo ..).mono (by decide)).after ?_
      | with_reducible refine ((same_ctOrder ..).mono (by decide)).after ?_
      | with_reducible refine ((same_hostBist ..).mono (by decide)).after ?_
      | with_reducible refine ((same_hostTest ..).mono (by decide)).after ?_
      | with_reducible refine ((same_pkgCtrl ..).mono (by decide)).after ?_
      | with_reducible refine ((same_pkgWord ..).mono (by decide)).after ?_
      | with_reducible refine ((same_fuseProgram ..).mono (by decide)).after ?_
      | with_reducible refine ((same_lcCtrl ..).mono (by decide)).after ?_
      | with_reducible refine ((same_keyload ..).mono (by decide)).after ?_
      | with_reducible refine (same_tenantWrite _ _ _ (by decide) ?_).after ?_
      | with_reducible refine ((same_tokenPresent ..).mono (by decide)).after ?_
      | with_reducible refine ((same_sarCtrl ..).mono (by decide)).after ?_
      | with_reducible refine ((same_snapWrite ..).mono (by decide)).after ?_
      | with_reducible refine ((same_watchGo ..).mono (by decide)).after ?_
      | with_reducible refine ((same_dumpWrite ..).mono (by decide)).after ?_
      | with_reducible refine ((same_fuseBits ..).mono (by decide)).after ?_
      | intro _
      | split

theorem same_expertAccess (priv : BitVec 2) (a : Nat) (f : State → State) (s : State) {m : List Part} (hm :
    Part.within [.ports, .fc, .led, .vu, .hx, .sec, .ob] m = true) (hf : ∀ s, Same m s (f s)) : Same m s
      (expertAccess priv a f s) := by
  unfold expertAccess
  try dsimp only [-Nat.reducePow]
  repeat' first
    | with_reducible exact Same.refl _
    | with_reducible refine ((same_answer ..).mono (Part.within_trans (by decide) hm)).after ?_
    | with_reducible refine ((same_denied ..).mono (Part.within_trans (by decide) hm)).after ?_
    | with_reducible refine (hf ..).after ?_
    | intro _
    | split

theorem same_writeExpert (priv : BitVec 2) (a : Nat) (w : W64) (s : State) : Same [.ports, .expert, .fc, .led, .vu,
    .hx, .sec, .ob] s (writeExpert priv a w s) := by
  unfold writeExpert
  try dsimp only [-Nat.reducePow]
  repeat' first
    | with_reducible exact Same.refl _
    | with_reducible refine ((same_answer ..).mono (by decide)).after ?_
    | with_reducible refine ((same_denied ..).mono (by decide)).after ?_
    | with_reducible refine ((same_expertWrite ..).mono (by decide)).after ?_
    | with_reducible refine (same_expertAccess _ _ _ _ (by decide) ?_).after ?_
    | intro _
    | split

theorem same_writeBasic (priv : BitVec 2) (a : Nat) (w : W64) (s : State) : Same [.draws, .nv, .ports, .cfg, .fc,
    .ct, .led, .twc, .per, .sa, .mem, .vu, .ym, .hx, .fr, .ts, .sec, .ob] s (writeBasic priv a w s) := by
  unfold writeBasic
  split
  · exact (same_answer ..).mono (by decide)
  · split
    · exact (same_orderReg (by assumption)).mono (by decide)
    · split
      · exact ((same_basicWrite ..).mono (by decide)).after ((same_answer ..).mono (by decide))
      · exact (same_denied ..).mono (by decide)

theorem same_registerWrite (priv : BitVec 2) (addr : BitVec 22) (w : W64) (s : State) : Same [.draws, .nv, .ports,
    .expert, .cfg, .fc, .ct, .led, .twc, .per, .sa, .mem, .vu, .ym, .hx, .fr, .ts, .sec, .ob] s (registerWrite priv
      addr w s) := by
  unfold registerWrite
  try dsimp only [-Nat.reducePow]
  repeat' first
    | with_reducible exact Same.refl _
    | with_reducible refine ((same_answer ..).mono (by decide)).after ?_
    | with_reducible refine ((same_denied ..).mono (by decide)).after ?_
    | with_reducible refine (same_hrp _ _ (by decide) ?_).after ?_
    | with_reducible refine ((same_writeExpert ..).mono (by decide)).after ?_
    | with_reducible refine ((same_writeBasic ..).mono (by decide)).after ?_
    | intro _
    | split

theorem same_readClears (a : Nat) (s : State) : Same [.ct, .led, .twc, .per, .sa, .mem, .vu, .fr, .ob] s (readClears
    a s) := by
  unfold readClears
  try dsimp only [-Nat.reducePow]
  repeat' first
    | with_reducible exact Same.refl _
    | with_reducible refine ((same_mCt _ _).mono (by decide)).after ?_
    | with_reducible refine ((same_mLed _ _).mono (by decide)).after ?_
    | with_reducible refine ((same_mTwc _ _).mono (by decide)).after ?_
    | with_reducible refine ((same_mPer _ _).mono (by decide)).after ?_
    | with_reducible refine ((same_mMem _ _).mono (by decide)).after ?_
    | with_reducible refine ((same_mVu _ _).mono (by decide)).after ?_
    | with_reducible refine ((same_mFr _ _).mono (by decide)).after ?_
    | with_reducible refine ((same_mOb _ _).mono (by decide)).after ?_
    | with_reducible refine ((same_mCluster ..).mono (by decide)).after ?_
    | intro _
    | split

theorem same_wordReg {priv : BitVec 2} {a : Nat} {s t : State} (h : wordReg priv a s = some t) : Same [.draws,
    .ports, .fc, .led, .vu, .hx, .sec, .ob] s t := by
  unfold wordReg at h
  split at h <;> cases h
  · exact (same_provOut ..).mono (by decide)
  · exact (same_sarData ..).mono (by decide)
  · exact (same_certData ..).mono (by decide)
  · exact (same_dumpKey ..).mono (by decide)
  · exact (same_watchData ..).mono (by decide)

theorem same_readBasic (priv : BitVec 2) (a : Nat) (s : State) : Same [.draws, .ports, .fc, .ct, .led, .twc, .per,
    .sa, .mem, .vu, .hx, .fr, .sec, .ob] s (readBasic priv a s) := by
  unfold readBasic
  split
  · exact (same_answer ..).mono (by decide)
  · split
    · exact (same_wordReg (by assumption)).mono (by decide)
    · split
      · exact ((same_readClears ..).mono (by decide)).after ((same_answer ..).mono (by decide))
      · exact (same_denied ..).mono (by decide)

theorem same_raceMark (race : Bool) (s : State) : Same [.ob] s (raceMark race s) := by
  unfold raceMark
  try dsimp only [-Nat.reducePow]
  repeat' first
    | with_reducible exact Same.refl _
    | with_reducible refine ((same_mOb _ _).mono (by decide)).after ?_
    | intro _
    | split

theorem same_readWindow (priv : BitVec 2) (a : Nat) (race : Bool) (s : State) : Same [.ports, .fc, .led, .vu, .hx,
    .sec, .ob] s (readWindow priv a race s) := by
  unfold readWindow
  try dsimp only [-Nat.reducePow]
  repeat' first
    | with_reducible exact Same.refl _
    | with_reducible refine ((same_answer ..).mono (by decide)).after ?_
    | with_reducible refine ((same_denied ..).mono (by decide)).after ?_
    | with_reducible refine ((same_raceMark ..).mono (by decide)).after ?_
    | intro _
    | split

theorem same_readExpert (priv : BitVec 2) (a : Nat) (s : State) : Same [.ports, .fc, .led, .vu, .hx, .sec, .ob] s
    (readExpert priv a s) := by
  unfold readExpert
  try dsimp only [-Nat.reducePow]
  repeat' first
    | with_reducible exact Same.refl _
    | with_reducible refine ((same_answer ..).mono (by decide)).after ?_
    | with_reducible refine (same_expertAccess _ _ _ _ (by decide) ?_).after ?_
    | intro _

theorem same_registerRead (priv : BitVec 2) (addr : BitVec 22) (snapRace : Bool) (s : State) : Same [.draws, .ports,
    .fc, .ct, .led, .twc, .per, .sa, .mem, .vu, .hx, .fr, .sec, .ob] s (registerRead priv addr snapRace s) := by
  unfold registerRead
  try dsimp only [-Nat.reducePow]
  repeat' first
    | with_reducible exact Same.refl _
    | with_reducible refine (same_hrp _ _ (by decide) ?_).after ?_
    | with_reducible refine ((same_readBasic ..).mono (by decide)).after ?_
    | with_reducible refine ((same_readWindow ..).mono (by decide)).after ?_
    | with_reducible refine ((same_readExpert ..).mono (by decide)).after ?_
    | intro _
    | split

/-! ### Pins -/

theorem same_egressCredit (port cls ccnt : Nat) (s : State) : Same [.ports] s (egressCredit port cls ccnt s) := by
  unfold egressCredit
  try dsimp only [-Nat.reducePow]
  repeat' first
    | with_reducible exact Same.refl _
    | with_reducible refine ((same_mPorts _ _).mono (by decide)).after ?_
    | intro _
    | split

theorem same_nonIngressKind (p : Ingress) (s : State) : Same [.ports, .fc, .led, .vu, .hx, .ob] s (nonIngressKind p
    s) := by
  unfold nonIngressKind
  try dsimp only [-Nat.reducePow]
  repeat' first
    | with_reducible exact Same.refl _
    | with_reducible refine ((same_badMsg ..).mono (by decide)).after ?_
    | intro _
    | split

theorem same_wrstAssert (s : State) : Same [.ports] s (wrstAssert s) := by
  unfold wrstAssert
  try dsimp only [-Nat.reducePow]
  repeat' first
    | with_reducible exact Same.refl _
    | with_reducible refine ((same_mPorts _ _).mono (by decide)).after ?_

theorem same_wrstRelease (s : State) : Same [.nv, .ports, .cfg, .fc, .ct, .led, .vu, .ym, .hx, .fr, .ob] s
    (wrstRelease s) := by
  unfold wrstRelease
  try dsimp only [-Nat.reducePow]
  repeat' first
    | with_reducible exact Same.refl _
    | with_reducible refine ((same_mPorts _ _).mono (by decide)).after ?_
    | with_reducible refine ((same_partReset ..).mono (by decide)).after ?_
    | intro _
    | split

theorem same_suppliesFail (torn : Bool) (s : State) : Same [.now, .draws, .nv, .ports, .expert, .cfg, .fc, .ct,
    .led, .twc, .per, .sa, .mem, .vu, .ym, .hx, .fr, .ts, .sec, .ob] s (suppliesFail torn s) := by
  unfold suppliesFail
  try dsimp only [-Nat.reducePow]
  repeat' first
    | with_reducible exact Same.refl _
    | with_reducible refine ((same_mNv _ _).mono (by decide)).after ?_
    | with_reducible refine ((same_mPorts _ _).mono (by decide)).after ?_
    | with_reducible refine ((same_rstNAssert ..).mono (by decide)).after ?_
    | intro _
    | split

theorem same_eraseArray (a : Nat) (s : State) : Same [.mem] s (eraseArray a s) := by
  unfold eraseArray
  try dsimp only [-Nat.reducePow]
  repeat' first
    | with_reducible exact Same.refl _
    | with_reducible refine ((same_mMem _ _).mono (by decide)).after ?_

theorem same_tapInstruction (op : TapOp) (s : State) : Same [.ports, .mem] s (tapInstruction op s) := by
  unfold tapInstruction
  try dsimp only [-Nat.reducePow]
  repeat' first
    | with_reducible exact Same.refl _
    | with_reducible refine ((same_mPorts _ _).mono (by decide)).after ?_
    | with_reducible refine ((same_eraseArray ..).mono (by decide)).after ?_
    | intro _
    | split

end Sys2Proof.Machine
end

