-- ==== Sys2Proof/Laws/Frames.lean ====
section
/-!
SUPPORT. The units that a command may change that ends in a next state: one lemma per command.
-/
namespace Sys2Proof.Machine

/-! ### Memory -/

theorem same_execBankRead {slot : BitVec 15} {line : BitVec 5} {a : Access} {e : EccSay} {s t : State} (h :
    execBankRead slot line a e s = .next t) : Same [.draws, .ports, .fc, .led, .mem, .vu, .hx, .ob] s t := by
  unfold execBankRead onSlot at h
  split at h
  · cases h
    exact (same_bankRead ..).mono (by decide)
  · cases h

theorem same_execBankWrite {slot : BitVec 15} {line : BitVec 5} {mask : W64} {data : BitVec 512} {a : Access} {e :
    EccSay} {s t : State} (h : execBankWrite slot line mask data a e s = .next t) : Same [.draws, .ports, .fc, .led,
    .mem, .vu, .hx, .ob] s t := by
  unfold execBankWrite onSlot at h
  split at h
  · cases h
    exact (same_bankWrite ..).mono (by decide)
  · cases h

theorem same_execAdd64 {slot : BitVec 15} {w : BitVec 8} {v : W64} {a : Access} {e : EccSay} {s t : State} (h :
    execAdd64 slot w v a e s = .next t) : Same [.draws, .ports, .fc, .led, .mem, .vu, .hx, .ob] s t := by
  unfold execAdd64 onSlot at h
  split at h
  · cases h
    exact (same_bankAdd64 ..).mono (by decide)
  · cases h

theorem same_execLpfAdd {slot : BitVec 15} {off8 : BitVec 8} {rec : Bytes} {a : Access} {e : EccSay} {s t : State} (h
    : execLpfAdd slot off8 rec a e s = .next t) : Same [.draws, .ports, .fc, .led, .mem, .vu, .hx, .ob] s t := by
  unfold execLpfAdd onSlot at h
  split at h
  · cases h
  · split at h
    · cases h
      exact (same_bankLpfAdd ..).mono (by decide)
    · cases h

theorem same_execAlloc {slot : BitVec 15} {ctx : Ctx} {plan : BitVec 6} {epoch : Bool} {s t : State} (h : execAlloc
    slot ctx plan epoch s = .next t) : Same [.ports, .fc, .led, .mem, .vu, .hx, .ob] s t := by
  unfold execAlloc onSlot at h
  split at h
  · cases h
    exact (same_tagAllocOp ..).mono (by decide)
  · cases h

theorem same_execBind {slot : BitVec 15} {a : Access} {s t : State} (h : execBind slot a s = .next t) : Same [.ports,
    .fc, .led, .mem, .vu, .hx, .ob] s t := by
  unfold execBind onSlot at h
  split at h
  · cases h
    exact (same_tagBindOp ..).mono (by decide)
  · cases h

theorem same_execSetFull {slot : BitVec 15} {a : Access} {s t : State} (h : execSetFull slot a s = .next t) : Same
    [.ports, .fc, .led, .mem, .vu, .hx, .ob] s t := by
  unfold execSetFull onSlot at h
  split at h
  · cases h
    exact (same_tagFullOp ..).mono (by decide)
  · cases h

theorem same_execClear {slot : BitVec 15} {s t : State} (h : execClear slot s = .next t) : Same [.mem] s t := by
  unfold execClear onSlot at h
  split at h
  · cases h
    exact (same_tagClearOp ..).mono (by decide)
  · cases h

theorem same_execScrubSet {slot : BitVec 15} {s t : State} (h : execScrubSet slot s = .next t) : Same [.mem] s t := by
  unfold execScrubSet onSlot at h
  split at h
  · cases h
    exact (same_tagScrubOp ..).mono (by decide)
  · cases h

theorem same_execFree {slot : BitVec 15} {s t : State} (h : execFree slot s = .next t) : Same [.mem] s t := by
  unfold execFree onSlot at h
  split at h
  · cases h
    exact (same_tagFreeOp ..).mono (by decide)
  · cases h

theorem same_execRowmap {bank : BitVec 6} {row : BitVec 10} {s t : State} (h : execRowmap bank row s = .next t) : Same
    [.nv, .ports, .cfg, .fc, .led, .mem, .vu, .hx, .ob] s t := by
  unfold execRowmap at h
  split at h
  · cases h
  · split at h
    · cases h
      exact Same.refl _
    · cases h
      exact ((same_mapRow ..).mono (by decide)).after ((same_engTake ..).mono (by decide))

theorem same_execFill {slot count : BitVec 15} {pattern : W64} {s t : State} (h : execFill slot count pattern s =
    .next t) : Same [.ports, .fc, .led, .mem, .vu, .hx, .ob] s t := by
  unfold execFill at h
  split at h
  · cases h
    split
    · exact Same.refl _
    · exact (same_engFill ..).mono (by decide)
  · cases h

theorem same_execCopy {src count dst : BitVec 15} {lane : Option (BitVec 6)} {s t : State} (h : execCopy src count dst
    lane s = .next t) : Same [.ports, .fc, .led, .mem, .vu, .hx, .ob] s t := by
  unfold execCopy at h
  split at h
  · cases h
    split
    · exact Same.refl _
    · exact (same_engCopy ..).mono (by decide)
  · cases h

theorem same_execErase {ctx : Ctx} {r r2 : WipeSay} {s t : State} (h : execErase ctx r r2 s = .next t) : Same [.draws,
    .nv, .ports, .cfg, .fc, .led, .mem, .vu, .hx, .ob] s t := by
  obtain rfl := Host.Outcome.next.inj h
  repeat' first
    | with_reducible exact Same.refl _
    | with_reducible refine ((same_eraseRanges ..).mono (by decide)).after ?_
    | intro _
    | split

theorem same_execShedDrain {shed : BitVec 2} {s t : State} (h : execShedDrain shed s = .next t) : Same [.ports, .mem,
    .hx, .ts, .ob] s t := by
  obtain rfl := Host.Outcome.next.inj h
  exact (same_shedDrain ..).mono (by decide)

theorem same_execShedOff {shed : BitVec 2} {s t : State} (h : execShedOff shed s = .next t) : Same [.ports, .mem, .hx,
    .ts, .ob] s t := by
  obtain rfl := Host.Outcome.next.inj h
  exact (same_shedOff ..).mono (by decide)

theorem same_execDrainTimeout {shed : BitVec 2} {port : BitVec 6} {s t : State} (h : execDrainTimeout shed port s =
    .next t) : Same [.ports, .fc, .led, .mem, .vu, .hx, .ts, .ob] s t := by
  obtain rfl := Host.Outcome.next.inj h
  exact (same_drainTimeout ..).mono (by decide)

theorem same_execShedInitDone {shed : BitVec 2} {s t : State} (h : execShedInitDone shed s = .next t) : Same [.ports,
    .mem, .hx, .ts, .ob] s t := by
  obtain rfl := Host.Outcome.next.inj h
  exact (same_shedInitDone ..).mono (by decide)

/-! ### Ledger -/

theorem same_execPlanEpochFlip {ctx : Ctx} {s t : State} (h : execPlanEpochFlip ctx s = .next t) : Same [.ports, .led,
    .twc, .per, .sa, .mem, .vu, .hx, .ts, .sec, .ob] s t := by
  obtain rfl := Host.Outcome.next.inj h
  repeat' first
    | with_reducible exact Same.refl _
    | with_reducible refine ((same_planEpochFlip ..).mono (by decide)).after ?_
    | intro _
    | split

theorem same_execClusterReconfig {ctx : Ctx} {cluster : BitVec 4} {s t : State} (h : execClusterReconfig ctx cluster s
    = .next t) : Same [.ports, .led, .twc, .per, .sa, .vu, .hx, .ts, .ob] s t := by
  obtain rfl := Host.Outcome.next.inj h
  exact (same_clusterReconfig ..).mono (by decide)

/-! ### Plans -/

theorem same_execPlanOpen {p : Ingress} {s t : State} (h : execPlanOpen p s = .next t) : Same [.ports, .fc, .led,
    .mem, .vu, .hx, .ob] s t := by
  obtain rfl := Host.Outcome.next.inj h
  repeat' first
    | with_reducible exact Same.refl _
    | with_reducible refine (same_planPacket _ _ _ _ (by decide) ?_).after ?_
    | with_reducible refine ((same_planOpen ..).mono (by decide)).after ?_
    | intro _

theorem same_execPlanData {p : Ingress} {s t : State} (h : execPlanData p s = .next t) : Same [.ports, .fc, .led,
    .mem, .vu, .hx, .ob] s t := by
  obtain rfl := Host.Outcome.next.inj h
  repeat' first
    | with_reducible exact Same.refl _
    | with_reducible refine (same_planPacket _ _ _ _ (by decide) ?_).after ?_
    | with_reducible refine ((same_planData ..).mono (by decide)).after ?_
    | intro _

theorem same_execOpenTimeout  {s t : State} (h : execOpenTimeout s = .next t) : Same [.led, .mem] s t := by
  obtain rfl := Host.Outcome.next.inj h
  exact (same_openTimeout ..).mono (by decide)

theorem same_execPlanRetire {p : Ingress} {s t : State} (h : execPlanRetire p s = .next t) : Same [.ports, .fc, .led,
    .twc, .sa, .mem, .vu, .hx, .ob] s t := by
  obtain rfl := Host.Outcome.next.inj h
  repeat' first
    | with_reducible exact Same.refl _
    | with_reducible refine (same_planPacket _ _ _ _ (by decide) ?_).after ?_
    | with_reducible refine ((same_planRetire ..).mono (by decide)).after ?_
    | intro _

theorem same_execAdmission  {s t : State} (h : execAdmission s = .next t) : Same [.ports, .fc, .led, .mem, .vu, .hx,
    .ts, .sec, .ob] s t := by
  obtain rfl := Host.Outcome.next.inj h
  exact (same_admission ..).mono (by decide)

/-! ### Capture -/

theorem same_execDigest {p : Ingress} {s t : State} (h : execDigest p s = .next t) : Same [.ports, .fc, .led, .twc,
    .per, .sa, .mem, .vu, .hx, .ts, .ob] s t := by
  obtain rfl := Host.Outcome.next.inj h
  repeat' first
    | with_reducible exact Same.refl _
    | with_reducible refine ((same_digestRecord ..).mono (by decide)).after ?_
    | with_reducible refine (same_recordPacket _ _ _ _ (by decide) ?_).after ?_
    | intro _

theorem same_execPerim {p : Ingress} {s t : State} (h : execPerim p s = .next t) : Same [.ports, .fc, .led, .twc,
    .per, .sa, .mem, .vu, .hx, .ts, .ob] s t := by
  obtain rfl := Host.Outcome.next.inj h
  repeat' first
    | with_reducible exact Same.refl _
    | with_reducible refine (same_recordPacket _ _ _ _ (by decide) ?_).after ?_
    | with_reducible refine ((same_dataRecord ..).mono (by decide)).after ?_
    | intro _

theorem same_execCapture {p : Ingress} {s t : State} (h : execCapture p s = .next t) : Same [.ports, .fc, .led, .twc,
    .per, .sa, .mem, .vu, .hx, .ts, .ob] s t := by
  obtain rfl := Host.Outcome.next.inj h
  repeat' first
    | with_reducible exact Same.refl _
    | with_reducible refine (same_recordPacket _ _ _ _ (by decide) ?_).after ?_
    | with_reducible refine ((same_dataRecord ..).mono (by decide)).after ?_
    | intro _

theorem same_execStepDone {p : Ingress} {s t : State} (h : execStepDone p s = .next t) : Same [.ports, .fc, .led, .vu,
    .hx, .ob] s t := by
  obtain rfl := Host.Outcome.next.inj h
  repeat' first
    | with_reducible exact Same.refl _
    | with_reducible refine (same_recordPacket _ _ _ _ (by decide) ?_).after ?_
    | with_reducible refine ((same_stepDone ..).mono (by decide)).after ?_
    | intro _

/-! ### Steps -/

theorem same_execFireHeldRelease {lane : BitVec 6} {s t : State} (h : execFireHeldRelease lane s = .next t) : Same
    [.led, .sa] s t := by
  obtain rfl := Host.Outcome.next.inj h
  exact (same_fireHeldRelease ..).mono (by decide)

theorem same_execResGraceExpiry {ctx : Ctx} {epoch : Bool} {step : BitVec 32} {s t : State} (h : execResGraceExpiry
    ctx epoch step s = .next t) : Same [.led] s t := by
  obtain rfl := Host.Outcome.next.inj h
  exact (same_resGraceExpiry ..).mono (by decide)

theorem same_execRelease {ctx : Ctx} {s t : State} (h : execRelease ctx s = .next t) : Same [.ports, .fc, .led, .twc,
    .per, .sa, .mem, .vu, .hx, .ts, .ob] s t := by
  obtain rfl := Host.Outcome.next.inj h
  repeat' first
    | with_reducible exact Same.refl _
    | with_reducible refine ((same_release ..).mono (by decide)).after ?_
    | intro _
    | split

theorem same_execStepTimeout {ctx : Ctx} {epoch : Bool} {step : BitVec 32} {s t : State} (h : execStepTimeout ctx
    epoch step s = .next t) : Same [.ports, .fc, .ct, .led, .twc, .vu, .hx, .ob] s t := by
  obtain rfl := Host.Outcome.next.inj h
  repeat' first
    | with_reducible exact Same.refl _
    | with_reducible refine ((same_stepTimeout ..).mono (by decide)).after ?_
    | intro _
    | split

/-! ### Xdie -/

theorem same_execXdigest {p : HxPkt} {s t : State} (h : execXdigest p s = .next t) : Same [.ports, .fc, .led, .twc,
    .per, .sa, .mem, .vu, .hx, .ts, .ob] s t := by
  obtain rfl := Host.Outcome.next.inj h
  dsimp only
  repeat' first
    | with_reducible exact Same.refl _
    | with_reducible refine ((same_consume ..).mono (by decide)).after ?_
    | with_reducible refine ((same_xdigestSteer ..).mono (by decide)).after ?_
    | intro _
    | split

/-! ### Procedure -/

theorem same_execSettleReply {p : Ingress} {s t : State} (h : execSettleReply p s = .next t) : Same [.draws, .nv,
    .ports, .cfg, .fc, .ct, .led, .twc, .per, .sa, .mem, .vu, .ym, .hx, .ts, .ob] s t := by
  obtain rfl := Host.Outcome.next.inj h
  repeat' first
    | with_reducible exact Same.refl _
    | with_reducible refine (same_ingress _ _ _ _ _ (by decide) ?_).after ?_
    | with_reducible refine ((same_settleReply ..).mono (by decide)).after ?_
    | intro _
    | split

theorem same_execSettleTimeout {core : Huid} {s t : State} (h : execSettleTimeout core s = .next t) : Same [.draws,
    .nv, .ports, .cfg, .fc, .ct, .led, .twc, .per, .sa, .mem, .vu, .ym, .hx, .ts, .ob] s t := by
  obtain rfl := Host.Outcome.next.inj h
  exact (same_settleTimeout ..).mono (by decide)

theorem same_execProcedureStart {katPass : Bool} {s t : State} (h : execProcedureStart katPass s = .next t) : Same
    [.draws, .nv, .ports, .cfg, .fc, .ct, .led, .twc, .per, .sa, .mem, .vu, .ym, .hx, .ts, .ob] s t := by
  obtain rfl := Host.Outcome.next.inj h
  exact (same_procedureStart ..).mono (by decide)

theorem same_execRedispatchTimeout {ctx : Ctx} {step : BitVec 32} {task : BitVec 15} {s t : State} (h :
    execRedispatchTimeout ctx step task s = .next t) : Same [.ports, .fc, .led, .vu, .hx, .ob] s t := by
  obtain rfl := Host.Outcome.next.inj h
  exact (same_redispatchTimeout ..).mono (by decide)

theorem same_execReplaySend {ctx : Ctx} {s t : State} (h : execReplaySend ctx s = .next t) : Same [.ports, .vu, .hx,
    .ob] s t := by
  obtain rfl := Host.Outcome.next.inj h
  repeat' first
    | with_reducible exact Same.refl _
    | with_reducible refine ((same_replaySend ..).mono (by decide)).after ?_
    | intro _
    | split

theorem same_execXsettle {p : HxPkt} {s t : State} (h : execXsettle p s = .next t) : Same [.draws, .nv, .ports, .cfg,
    .fc, .ct, .led, .twc, .per, .sa, .mem, .vu, .ym, .hx, .ts, .ob] s t := by
  obtain rfl := Host.Outcome.next.inj h
  dsimp only
  repeat' first
    | with_reducible exact Same.refl _
    | with_reducible refine ((same_consume ..).mono (by decide)).after ?_
    | with_reducible refine ((same_xsettle ..).mono (by decide)).after ?_
    | intro _
    | split

theorem same_execXverdict {p : HxPkt} {s t : State} (h : execXverdict p s = .next t) : Same [.nv, .ports, .cfg, .fc,
    .ct, .led, .twc, .per, .sa, .mem, .vu, .ym, .hx, .ts, .ob] s t := by
  obtain rfl := Host.Outcome.next.inj h
  dsimp only
  repeat' first
    | with_reducible exact Same.refl _
    | with_reducible refine ((same_consume ..).mono (by decide)).after ?_
    | with_reducible refine ((same_xverdict ..).mono (by decide)).after ?_
    | intro _
    | split

theorem same_execXverdictWaitTimeout {ctx : Ctx} {step : BitVec 32} {task : BitVec 15} {s t : State} (h :
    execXverdictWaitTimeout ctx step task s = .next t) : Same [.ports, .fc, .led, .vu, .hx, .ob] s t := by
  obtain rfl := Host.Outcome.next.inj h
  exact (same_xverdictWaitTimeout ..).mono (by decide)

theorem same_execTurnoutSelect {core : Huid} {s t : State} (h : execTurnoutSelect core s = .next t) : Same [.nv,
    .ports, .cfg, .fc, .ct, .led, .vu, .ym, .hx, .fr, .ob] s t := by
  obtain rfl := Host.Outcome.next.inj h
  exact (same_turnoutSelect ..).mono (by decide)

theorem same_execSuspectTest {core : Huid} {s t : State} (h : execSuspectTest core s = .next t) : Same [.fr] s t := by
  obtain rfl := Host.Outcome.next.inj h
  exact (same_suspectTest ..).mono (by decide)

/-! ### Yard -/

theorem same_execHlinkDown {link : Huid} {s t : State} (h : execHlinkDown link s = .next t) : Same [.nv, .ports, .cfg,
    .fc, .ct, .led, .vu, .ym, .hx, .ob] s t := by
  obtain rfl := Host.Outcome.next.inj h
  exact (same_hlinkDown ..).mono (by decide)

theorem same_execHlinkWidth {link : Huid} {trained full : BitVec 4} {s t : State} (h : execHlinkWidth link trained
    full s = .next t) : Same [.nv, .ports, .cfg, .fc, .ct, .led, .vu, .ym, .hx, .ob] s t := by
  obtain rfl := Host.Outcome.next.inj h
  exact (same_hlinkWidth ..).mono (by decide)

theorem same_execHrouterFail {router : Huid} {s t : State} (h : execHrouterFail router s = .next t) : Same [.nv,
    .ports, .cfg, .fc, .ct, .led, .twc, .per, .sa, .mem, .vu, .ym, .hx, .ts, .ob] s t := by
  obtain rfl := Host.Outcome.next.inj h
  repeat' first
    | with_reducible exact Same.refl _
    | with_reducible refine ((same_bump ..).mono (by decide)).after ?_
    | with_reducible refine ((same_pumpFcp ..).mono (by decide)).after ?_
    | with_reducible refine ((same_routerFailed ..).mono (by decide)).after ?_
    | with_reducible refine ((same_ymAdvance ..).mono (by decide)).after ?_
    | with_reducible refine ((same_pollDone ..).mono (by decide)).after ?_

theorem same_execRouteMiss {_router : Huid} {_entry : BitVec 8} {s t : State} (h : execRouteMiss _router _entry s =
    .next t) : Same [.ob] s t := by
  obtain rfl := Host.Outcome.next.inj h
  exact (same_routeMiss ..).mono (by decide)

theorem same_execInstallStart  {s t : State} (h : execInstallStart s = .next t) : Same [.nv, .ports, .cfg, .fc, .ct,
    .led, .twc, .per, .sa, .mem, .vu, .ym, .hx, .ts, .ob] s t := by
  obtain rfl := Host.Outcome.next.inj h
  exact (same_installStart ..).mono (by decide)

theorem same_execFcpResponse {header data : W64} {s t : State} (h : execFcpResponse header data s = .next t) : Same
    [.nv, .ports, .cfg, .fc, .ct, .led, .twc, .per, .sa, .mem, .vu, .ym, .hx, .ts, .ob] s t := by
  obtain rfl := Host.Outcome.next.inj h
  exact (same_fcpResponse ..).mono (by decide)

theorem same_execCountReadPoll  {s t : State} (h : execCountReadPoll s = .next t) : Same [.ct, .ym, .ob] s t := by
  obtain rfl := Host.Outcome.next.inj h
  exact (same_countReadPoll ..).mono (by decide)

theorem same_execRetireTimeout  {s t : State} (h : execRetireTimeout s = .next t) : Same [.ports, .fc, .led, .vu, .ym,
    .hx, .ob] s t := by
  obtain rfl := Host.Outcome.next.inj h
  exact (same_retireTimeout ..).mono (by decide)

/-! ### Tracker -/

theorem same_execErasureComplete {ctx : Ctx} {s t : State} (h : execErasureComplete ctx s = .next t) : Same [.ct,
    .mem, .ob] s t := by
  obtain rfl := Host.Outcome.next.inj h
  exact (same_erasureComplete ..).mono (by decide)

theorem same_execScAck {sector : BitVec 6} {status : BitVec 2} {rdata : W64} {s t : State} (h : execScAck sector
    status rdata s = .next t) : Same [.nv, .ports, .cfg, .fc, .ct, .led, .twc, .per, .sa, .mem, .vu, .ym, .hx, .fr,
    .ts, .ob] s t := by
  obtain rfl := Host.Outcome.next.inj h
  exact (same_scAck ..).mono (by decide)

theorem same_execCtTimeout {entry : BitVec 11} {s t : State} (h : execCtTimeout entry s = .next t) : Same [.nv,
    .ports, .cfg, .fc, .ct, .led, .twc, .per, .sa, .mem, .vu, .ym, .hx, .fr, .ts, .ob] s t := by
  obtain rfl := Host.Outcome.next.inj h
  exact (same_ctTimeout ..).mono (by decide)

theorem same_execScWithdrawTimeout {sector : BitVec 6} {s t : State} (h : execScWithdrawTimeout sector s = .next t) :
    Same [.ports, .fc, .ct, .led, .vu, .hx, .ob] s t := by
  obtain rfl := Host.Outcome.next.inj h
  exact (same_scWithdrawTimeout ..).mono (by decide)

theorem same_execCtEntryFree  {s t : State} (h : execCtEntryFree s = .next t) : Same [.ports, .fc, .ct, .led, .twc,
    .per, .sa, .mem, .vu, .ym, .hx, .ts, .ob] s t := by
  obtain rfl := Host.Outcome.next.inj h
  exact (same_ctEntryFree ..).mono (by decide)

theorem same_execKillCtx {priv : BitVec 2} {w : W64} {s t : State} (h : execKillCtx priv w s = .next t) : Same [.nv,
    .ports, .cfg, .fc, .ct, .led, .twc, .sa, .mem, .vu, .hx, .sec, .ob] s t := by
  obtain rfl := Host.Outcome.next.inj h
  repeat' first
    | with_reducible exact Same.refl _
    | with_reducible refine ((same_killOrder ..).mono (by decide)).after ?_
    | with_reducible refine (same_orderRow _ _ _ _ _ (by decide) ?_).after ?_
    | intro _

theorem same_execFenceCore {priv : BitVec 2} {w : W64} {s t : State} (h : execFenceCore priv w s = .next t) : Same
    [.draws, .nv, .ports, .cfg, .fc, .ct, .led, .twc, .per, .sa, .mem, .vu, .ym, .hx, .fr, .ts, .sec, .ob] s t := by
  obtain rfl := Host.Outcome.next.inj h
  repeat' first
    | with_reducible exact Same.refl _
    | with_reducible refine ((same_fenceCoreOrder ..).mono (by decide)).after ?_
    | with_reducible refine (same_orderRow _ _ _ _ _ (by decide) ?_).after ?_
    | intro _

theorem same_execUnfenceCore {priv : BitVec 2} {w : W64} {s t : State} (h : execUnfenceCore priv w s = .next t) : Same
    [.nv, .ports, .cfg, .fc, .ct, .led, .vu, .ym, .hx, .sec, .ob] s t := by
  obtain rfl := Host.Outcome.next.inj h
  repeat' first
    | with_reducible exact Same.refl _
    | with_reducible refine ((same_unfenceCoreOrder ..).mono (by decide)).after ?_
    | with_reducible refine (same_orderRow _ _ _ _ _ (by decide) ?_).after ?_
    | intro _

theorem same_execResetSector {priv : BitVec 2} {w : W64} {s t : State} (h : execResetSector priv w s = .next t) : Same
    [.nv, .ports, .cfg, .fc, .ct, .led, .vu, .ym, .hx, .fr, .sec, .ob] s t := by
  obtain rfl := Host.Outcome.next.inj h
  repeat' first
    | with_reducible exact Same.refl _
    | with_reducible refine ((same_resetSectorOrder ..).mono (by decide)).after ?_
    | with_reducible refine (same_orderRow _ _ _ _ _ (by decide) ?_).after ?_
    | intro _

theorem same_execScrubSector {priv : BitVec 2} {w : W64} {s t : State} (h : execScrubSector priv w s = .next t) : Same
    [.ports, .fc, .ct, .led, .vu, .hx, .sec, .ob] s t := by
  obtain rfl := Host.Outcome.next.inj h
  repeat' first
    | with_reducible exact Same.refl _
    | with_reducible refine ((same_scrubSectorOrder ..).mono (by decide)).after ?_
    | with_reducible refine (same_orderRow _ _ _ _ _ (by decide) ?_).after ?_
    | intro _

theorem same_execResetEngine {priv : BitVec 2} {w : W64} {s t : State} (h : execResetEngine priv w s = .next t) : Same
    [.ports, .fc, .ct, .led, .sa, .vu, .hx, .sec, .ob] s t := by
  obtain rfl := Host.Outcome.next.inj h
  repeat' first
    | with_reducible exact Same.refl _
    | with_reducible refine ((same_resetEngineOrder ..).mono (by decide)).after ?_
    | with_reducible refine (same_orderRow _ _ _ _ _ (by decide) ?_).after ?_
    | intro _

theorem same_execResetPart {priv : BitVec 2} {w : W64} {s t : State} (h : execResetPart priv w s = .next t) : Same
    [.nv, .ports, .cfg, .fc, .ct, .led, .vu, .ym, .hx, .fr, .sec, .ob] s t := by
  obtain rfl := Host.Outcome.next.inj h
  repeat' first
    | with_reducible exact Same.refl _
    | with_reducible refine ((same_resetPartOrder ..).mono (by decide)).after ?_
    | with_reducible refine (same_orderRow _ _ _ _ _ (by decide) ?_).after ?_
    | intro _

/-! ### Twin -/

theorem same_execTwcCompare {a b : PathSay} {s t : State} (h : execTwcCompare a b s = .next t) : Same [.ports, .fc,
    .led, .twc, .per, .sa, .mem, .vu, .hx, .ts, .ob] s t := by
  obtain rfl := Host.Outcome.next.inj h
  repeat' first
    | with_reducible exact Same.refl _
    | with_reducible refine ((same_twcCompare ..).mono (by decide)).after ?_
    | intro _
    | split

theorem same_execTwcKat {passA passB : Bool} {s t : State} (h : execTwcKat passA passB s = .next t) : Same [.ports,
    .fc, .led, .twc, .vu, .hx, .ob] s t := by
  obtain rfl := Host.Outcome.next.inj h
  repeat' first
    | with_reducible exact Same.refl _
    | with_reducible refine ((same_twcKat ..).mono (by decide)).after ?_
    | intro _
    | split

/-! ### Perim -/

theorem same_execPerimCompare {pipe : BitVec 3} {a b : PathSay} {katA katB : Bool} {s t : State} (h : execPerimCompare
    pipe a b katA katB s = .next t) : Same [.nv, .ports, .cfg, .fc, .led, .per, .mem, .vu, .hx, .ob] s t := by
  obtain rfl := Host.Outcome.next.inj h
  repeat' first
    | with_reducible exact Same.refl _
    | with_reducible refine ((same_perimCommand ..).mono (by decide)).after ?_
    | intro _
    | split

theorem same_execPerKatPeriod {pass : BitVec 8} {s t : State} (h : execPerKatPeriod pass s = .next t) : Same [.nv,
    .ports, .cfg, .fc, .led, .per, .vu, .hx, .ob] s t := by
  obtain rfl := Host.Outcome.next.inj h
  repeat' first
    | with_reducible exact Same.refl _
    | with_reducible refine ((same_perKatPeriod ..).mono (by decide)).after ?_
    | intro _
    | split

/-! ### Shadow -/

theorem same_execShadowTaskStart {lane : BitVec 6} {s t : State} (h : execShadowTaskStart lane s = .next t) : Same
    [.ports, .fc, .led, .sa, .mem, .vu, .hx, .ob] s t := by
  obtain rfl := Host.Outcome.next.inj h
  repeat' first
    | with_reducible exact Same.refl _
    | with_reducible refine ((same_shadowTaskStart ..).mono (by decide)).after ?_
    | intro _
    | split

theorem same_execShadowTaskDone {lane : BitVec 6} {residueFails : Bool} {wrong : Option (BitVec 40 × BitVec 32)} {b :
    PathSay} {katPass : Bool} {s t : State} (h : execShadowTaskDone lane residueFails wrong b katPass s = .next t) :
    Same [.draws, .nv, .ports, .cfg, .fc, .led, .twc, .per, .sa, .mem, .vu, .hx, .ts, .ob] s t := by
  obtain rfl := Host.Outcome.next.inj h
  repeat' first
    | with_reducible exact Same.refl _
    | with_reducible refine ((same_shadowTaskDone ..).mono (by decide)).after ?_
    | intro _
    | split

theorem same_execPartialPush {lane : BitVec 6} {s t : State} (h : execPartialPush lane s = .next t) : Same [.sa] s t
    := by
  obtain rfl := Host.Outcome.next.inj h
  repeat' first
    | with_reducible exact Same.refl _
    | with_reducible refine ((same_partialPush ..).mono (by decide)).after ?_
    | intro _
    | split

theorem same_execInboundQueueCombine {cluster : BitVec 4} {s t : State} (h : execInboundQueueCombine cluster s = .next
    t) : Same [.ports, .fc, .led, .twc, .per, .sa, .mem, .vu, .hx, .ts, .ob] s t := by
  obtain rfl := Host.Outcome.next.inj h
  repeat' first
    | with_reducible exact Same.refl _
    | with_reducible refine ((same_inboundCombine ..).mono (by decide)).after ?_
    | intro _
    | split

theorem same_execRemoteRead {lane : BitVec 6} {cluster : BitVec 4} {offset : BitVec 19} {lines : BitVec 8} {s t :
    State} (h : execRemoteRead lane cluster offset lines s = .next t) : Same [.mem, .ob] s t := by
  obtain rfl := Host.Outcome.next.inj h
  repeat' first
    | with_reducible exact Same.refl _
    | with_reducible refine ((same_remoteRead ..).mono (by decide)).after ?_
    | intro _
    | split

theorem same_execSaKatPeriod {pass : W64} {s t : State} (h : execSaKatPeriod pass s = .next t) : Same [.nv, .ports,
    .cfg, .fc, .led, .sa, .vu, .hx, .ts, .ob] s t := by
  obtain rfl := Host.Outcome.next.inj h
  repeat' first
    | with_reducible exact Same.refl _
    | with_reducible refine ((same_saKatPeriod ..).mono (by decide)).after ?_
    | intro _
    | split

theorem same_execLaneWipe {lane : BitVec 6} {r r2 : WipeSay} {s t : State} (h : execLaneWipe lane r r2 s = .next t) :
    Same [.draws, .nv, .ports, .cfg, .fc, .led, .sa, .mem, .vu, .hx, .ts, .ob] s t := by
  obtain rfl := Host.Outcome.next.inj h
  exact (same_laneWipe ..).mono (by decide)

/-! ### Repair -/

theorem same_execHostBist {priv : BitVec 2} {w : W64} {s t : State} (h : execHostBist priv w s = .next t) : Same
    [.ports, .fc, .led, .mem, .vu, .hx, .fr, .ts, .sec, .ob] s t := by
  obtain rfl := Host.Outcome.next.inj h
  repeat' first
    | with_reducible exact Same.refl _
    | with_reducible refine (same_testOrder _ _ _ _ (by decide) ?_).after ?_
    | with_reducible refine ((same_hostBist ..).mono (by decide)).after ?_
    | intro _

theorem same_execBistDone {fails deadSpares : List FailEntry} {s t : State} (h : execBistDone fails deadSpares s =
    .next t) : Same [.nv, .ports, .cfg, .fc, .led, .sa, .mem, .vu, .hx, .fr, .ts, .ob] s t := by
  obtain rfl := Host.Outcome.next.inj h
  exact (same_bistDone ..).mono (by decide)

theorem same_execFuseProgram {priv : BitVec 2} {w : W64} {readBackOk : List Bool} {s t : State} (h : execFuseProgram
    priv w readBackOk s = .next t) : Same [.nv, .ports, .cfg, .fc, .led, .mem, .vu, .hx, .fr, .sec, .ob] s t := by
  obtain rfl := Host.Outcome.next.inj h
  repeat' first
    | with_reducible exact Same.refl _
    | with_reducible refine (same_testOrder _ _ _ _ (by decide) ?_).after ?_
    | with_reducible refine ((same_fuseProgram ..).mono (by decide)).after ?_
    | intro _

/-! ### Training -/

theorem same_execTrainingStateAdvance {port : BitVec 2} {t : TrainInfo} {s u : State} (h : execTrainingStateAdvance
    port t s = .next u) : Same [.ports, .fc, .led, .vu, .hx, .ob] s u := by
  obtain rfl := Host.Outcome.next.inj h
  exact (same_trainingAdvance ..).mono (by decide)

theorem same_execTrainingAttemptTimeout {port : BitVec 2} {s t : State} (h : execTrainingAttemptTimeout port s = .next
    t) : Same [.ports, .fc, .led, .vu, .hx, .ob] s t := by
  obtain rfl := Host.Outcome.next.inj h
  exact (same_attemptTimeout ..).mono (by decide)

theorem same_execRejoinPeriod {port : BitVec 2} {s t : State} (h : execRejoinPeriod port s = .next t) : Same [.ports,
    .hx, .ob] s t := by
  obtain rfl := Host.Outcome.next.inj h
  exact (same_rejoin ..).mono (by decide)

theorem same_execCongWindow {port : BitVec 2} {congested : Bool} {s t : State} (h : execCongWindow port congested s =
    .next t) : Same [.ports, .hx, .ob] s t := by
  obtain rfl := Host.Outcome.next.inj h
  exact (same_congWindow ..).mono (by decide)

theorem same_execHxFrameReceive {port : BitVec 2} {f : Frame} {s t : State} (h : execHxFrameReceive port f s = .next
    t) : Same [.ports, .fc, .led, .vu, .hx, .ob] s t := by
  obtain rfl := Host.Outcome.next.inj h
  exact (same_frameReceive ..).mono (by decide)

theorem same_execReplayTimeout {port : BitVec 2} {s t : State} (h : execReplayTimeout port s = .next t) : Same
    [.ports, .fc, .led, .vu, .hx, .ob] s t := by
  obtain rfl := Host.Outcome.next.inj h
  exact (same_replayTimeout ..).mono (by decide)

theorem same_execHxPacketArrive {port : BitVec 2} {p : HxPkt} {s t : State} (h : execHxPacketArrive port p s = .next
    t) : Same [.ports, .hx, .ob] s t := by
  obtain rfl := Host.Outcome.next.inj h
  exact (same_hxPacketArrive ..).mono (by decide)

/-! ### Hitch -/

theorem same_execE2eAck {p : HxPkt} {s t : State} (h : execE2eAck p s = .next t) : Same [.ports, .hx, .ob] s t := by
  obtain rfl := Host.Outcome.next.inj h
  repeat' first
    | with_reducible exact Same.refl _
    | with_reducible refine (same_consumer _ _ _ _ (by decide) ?_).after ?_
    | with_reducible refine ((same_e2eAck ..).mono (by decide)).after ?_
    | intro _

theorem same_execResendTimeout {die : BitVec 6} {space : Bool} {seq : BitVec 16} {s t : State} (h : execResendTimeout
    die space seq s = .next t) : Same [.ports, .fc, .led, .vu, .hx, .ob] s t := by
  obtain rfl := Host.Outcome.next.inj h
  repeat' first
    | with_reducible exact Same.refl _
    | with_reducible refine ((same_resendTimeout ..).mono (by decide)).after ?_
    | intro _
    | split

theorem same_execAckDelay {die : BitVec 6} {space : Bool} {s t : State} (h : execAckDelay die space s = .next t) :
    Same [.ports, .hx, .ob] s t := by
  obtain rfl := Host.Outcome.next.inj h
  exact (same_ackDelay ..).mono (by decide)

theorem same_execState {p : HxPkt} {s t : State} (h : execState p s = .next t) : Same [.ports, .cfg, .fc, .led, .vu,
    .hx, .ob] s t := by
  obtain rfl := Host.Outcome.next.inj h
  repeat' first
    | with_reducible exact Same.refl _
    | with_reducible refine (same_consumer _ _ _ _ (by decide) ?_).after ?_
    | with_reducible refine ((same_stateRecord ..).mono (by decide)).after ?_
    | intro _

theorem same_execStateRefresh  {s t : State} (h : execStateRefresh s = .next t) : Same [.ports, .hx, .ob] s t := by
  obtain rfl := Host.Outcome.next.inj h
  exact (same_sendState ..).mono (by decide)

theorem same_execStateStale {die : BitVec 6} {s t : State} (h : execStateStale die s = .next t) : Same [.ports, .cfg,
    .fc, .led, .vu, .hx, .ob] s t := by
  obtain rfl := Host.Outcome.next.inj h
  exact (same_stateStale ..).mono (by decide)

theorem same_execHostOkLapse  {s t : State} (h : execHostOkLapse s = .next t) : Same [.ports, .fc, .led, .vu, .hx,
    .ob] s t := by
  obtain rfl := Host.Outcome.next.inj h
  exact (same_hostOkLapse ..).mono (by decide)

theorem same_execTblReady {p : HxPkt} {s t : State} (h : execTblReady p s = .next t) : Same [.ports, .hx, .ob] s t :=
    by
  obtain rfl := Host.Outcome.next.inj h
  repeat' first
    | with_reducible exact Same.refl _
    | with_reducible refine (same_consumer _ _ _ _ (by decide) ?_).after ?_
    | with_reducible refine ((same_tblReady ..).mono (by decide)).after ?_
    | intro _

theorem same_execEpochFlip {p : HxPkt} {s t : State} (h : execEpochFlip p s = .next t) : Same [.hx, .ob] s t := by
  obtain rfl := Host.Outcome.next.inj h
  repeat' first
    | with_reducible exact Same.refl _
    | with_reducible refine (same_consumer _ _ _ _ (by decide) ?_).after ?_
    | with_reducible refine ((same_epochFlip ..).mono (by decide)).after ?_
    | intro _

theorem same_execPollPeriod  {s t : State} (h : execPollPeriod s = .next t) : Same [.ports, .hx, .ob] s t := by
  obtain rfl := Host.Outcome.next.inj h
  exact (same_pollPeriod ..).mono (by decide)

theorem same_execCount {p : HxPkt} {s t : State} (h : execCount p s = .next t) : Same [.ports, .hx, .ob] s t := by
  obtain rfl := Host.Outcome.next.inj h
  repeat' first
    | with_reducible exact Same.refl _
    | with_reducible refine (same_consumer _ _ _ _ (by decide) ?_).after ?_
    | with_reducible refine ((same_countReply ..).mono (by decide)).after ?_
    | with_reducible refine ((same_countQuery ..).mono (by decide)).after ?_
    | intro _
    | split

theorem same_execRetire {p : HxPkt} {s t : State} (h : execRetire p s = .next t) : Same [.ports, .hx, .ob] s t := by
  obtain rfl := Host.Outcome.next.inj h
  repeat' first
    | with_reducible exact Same.refl _
    | with_reducible refine (same_consumer _ _ _ _ (by decide) ?_).after ?_
    | with_reducible refine ((same_retireVersion ..).mono (by decide)).after ?_
    | intro _

theorem same_execHxRetireTimeout  {s t : State} (h : execHxRetireTimeout s = .next t) : Same [.ports, .fc, .led, .vu,
    .hx, .ob] s t := by
  obtain rfl := Host.Outcome.next.inj h
  exact (same_hxRetireTimeout ..).mono (by decide)

theorem same_execBarrierArrive {p : HxPkt} {s t : State} (h : execBarrierArrive p s = .next t) : Same [.ports, .hx,
    .ob] s t := by
  obtain rfl := Host.Outcome.next.inj h
  repeat' first
    | with_reducible exact Same.refl _
    | with_reducible refine (same_consumer _ _ _ _ (by decide) ?_).after ?_
    | with_reducible refine ((same_barrierArrived ..).mono (by decide)).after ?_
    | intro _

theorem same_execBarrierRelease {p : HxPkt} {s t : State} (h : execBarrierRelease p s = .next t) : Same [.nv, .ports,
    .cfg, .fc, .led, .vu, .hx, .ob] s t := by
  obtain rfl := Host.Outcome.next.inj h
  repeat' first
    | with_reducible exact Same.refl _
    | with_reducible refine (same_consumer _ _ _ _ (by decide) ?_).after ?_
    | with_reducible refine ((same_barrierReleased ..).mono (by decide)).after ?_
    | intro _

theorem same_execBarrierReleaseTime {barrier : BitVec 4} {s t : State} (h : execBarrierReleaseTime barrier s = .next
    t) : Same [.nv, .ports, .cfg, .fc, .led, .vu, .hx, .ob] s t := by
  obtain rfl := Host.Outcome.next.inj h
  exact (same_releaseTime ..).mono (by decide)

theorem same_execBarrTimeout {barrier : BitVec 4} {s t : State} (h : execBarrTimeout barrier s = .next t) : Same
    [.ports, .fc, .led, .vu, .hx, .ob] s t := by
  obtain rfl := Host.Outcome.next.inj h
  exact (same_barrTimeout ..).mono (by decide)

theorem same_execHostBarrierArrive {priv : BitVec 2} {w : W64} {s t : State} (h : execHostBarrierArrive priv w s =
    .next t) : Same [.ports, .fc, .led, .vu, .hx, .sec, .ob] s t := by
  obtain rfl := Host.Outcome.next.inj h
  repeat' first
    | with_reducible exact Same.refl _
    | with_reducible refine (same_hrp _ _ (by decide) ?_).after ?_
    | with_reducible refine ((same_hostBarrier ..).mono (by decide)).after ?_
    | intro _

theorem same_execFaultFwd {p : HxPkt} {s t : State} (h : execFaultFwd p s = .next t) : Same [.hx] s t := by
  obtain rfl := Host.Outcome.next.inj h
  repeat' first
    | with_reducible exact Same.refl _
    | with_reducible refine (same_consumer _ _ _ _ (by decide) ?_).after ?_
    | with_reducible refine ((same_faultFwd ..).mono (by decide)).after ?_
    | intro _

theorem same_execOrder {p : HxPkt} {s t : State} (h : execOrder p s = .next t) : Same [.draws, .nv, .ports, .cfg, .fc,
    .ct, .led, .twc, .per, .sa, .mem, .vu, .ym, .hx, .fr, .ts, .ob] s t := by
  obtain rfl := Host.Outcome.next.inj h
  repeat' first
    | with_reducible exact Same.refl _
    | with_reducible refine (same_consumer _ _ _ _ (by decide) ?_).after ?_
    | with_reducible refine ((same_leaderOrder ..).mono (by decide)).after ?_
    | intro _

theorem same_execTrace {p : HxPkt} {s t : State} (h : execTrace p s = .next t) : Same [.ports, .hx, .ob] s t := by
  obtain rfl := Host.Outcome.next.inj h
  repeat' first
    | with_reducible exact Same.refl _
    | with_reducible refine (same_consumer _ _ _ _ (by decide) ?_).after ?_
    | with_reducible refine ((same_traceIn ..).mono (by decide)).after ?_
    | intro _

/-! ### Farrier -/

theorem same_execTestSessionOpen {core : Huid} {channelOk bankOk : Bool} {s t : State} (h : execTestSessionOpen core
    channelOk bankOk s = .next t) : Same [.nv, .ports, .cfg, .fc, .ct, .led, .vu, .ym, .hx, .fr, .ts, .ob] s t := by
  obtain rfl := Host.Outcome.next.inj h
  repeat' first
    | with_reducible exact Same.refl _
    | with_reducible refine ((same_sessionOpen ..).mono (by decide)).after ?_
    | intro _
    | split

theorem same_execHostTestSession {priv : BitVec 2} {w : W64} {s t : State} (h : execHostTestSession priv w s = .next
    t) : Same [.ports, .fc, .led, .vu, .hx, .fr, .sec, .ob] s t := by
  obtain rfl := Host.Outcome.next.inj h
  repeat' first
    | with_reducible exact Same.refl _
    | with_reducible refine (same_testOrder _ _ _ _ (by decide) ?_).after ?_
    | with_reducible refine ((same_hostTest ..).mono (by decide)).after ?_
    | intro _

theorem same_execTestReply {p : Ingress} {s t : State} (h : execTestReply p s = .next t) : Same [.draws, .nv, .ports,
    .cfg, .fc, .ct, .led, .vu, .ym, .hx, .fr, .ob] s t := by
  obtain rfl := Host.Outcome.next.inj h
  repeat' first
    | with_reducible exact Same.refl _
    | with_reducible refine (same_ingress _ _ _ _ _ (by decide) ?_).after ?_
    | with_reducible refine ((same_testReply ..).mono (by decide)).after ?_
    | intro _

theorem same_execScanBlockDone {channel : BitVec 4} {r : ScanSay} {s t : State} (h : execScanBlockDone channel r s =
    .next t) : Same [.nv, .ports, .cfg, .fc, .ct, .led, .vu, .ym, .hx, .fr, .ob] s t := by
  obtain rfl := Host.Outcome.next.inj h
  repeat' first
    | with_reducible exact Same.refl _
    | with_reducible refine ((same_scanBlockDone ..).mono (by decide)).after ?_
    | intro _
    | split

theorem same_execTestTimeout {channel : BitVec 4} {s t : State} (h : execTestTimeout channel s = .next t) : Same [.nv,
    .ports, .cfg, .fc, .ct, .led, .vu, .ym, .hx, .fr, .ob] s t := by
  obtain rfl := Host.Outcome.next.inj h
  exact (same_testTimeout ..).mono (by decide)

theorem same_execPkgOpen {priv : BitVec 2} {w : W64} {s t : State} (h : execPkgOpen priv w s = .next t) : Same
    [.ports, .fc, .led, .vu, .hx, .fr, .ts, .sec, .ob] s t := by
  obtain rfl := Host.Outcome.next.inj h
  repeat' first
    | with_reducible exact Same.refl _
    | with_reducible refine ((same_pkgStart ..).mono (by decide)).after ?_
    | with_reducible refine (same_pkgRow _ _ _ _ _ (by decide) ?_).after ?_
    | intro _

theorem same_execPkgData {priv : BitVec 2} {w : W64} {s t : State} (h : execPkgData priv w s = .next t) : Same [.nv,
    .ports, .fc, .led, .vu, .hx, .fr, .sec, .ob] s t := by
  obtain rfl := Host.Outcome.next.inj h
  repeat' first
    | with_reducible exact Same.refl _
    | with_reducible refine (same_testOrder _ _ _ _ (by decide) ?_).after ?_
    | with_reducible refine ((same_pkgWord ..).mono (by decide)).after ?_
    | intro _

theorem same_execPkgClose {priv : BitVec 2} {w : W64} {s t : State} (h : execPkgClose priv w s = .next t) : Same
    [.ports, .fc, .led, .vu, .hx, .fr, .sec, .ob] s t := by
  obtain rfl := Host.Outcome.next.inj h
  repeat' first
    | with_reducible exact Same.refl _
    | with_reducible refine ((same_pkgClose ..).mono (by decide)).after ?_
    | with_reducible refine (same_pkgRow _ _ _ _ _ (by decide) ?_).after ?_
    | intro _

theorem same_execPkgAbort {priv : BitVec 2} {w : W64} {s t : State} (h : execPkgAbort priv w s = .next t) : Same
    [.ports, .fc, .led, .vu, .hx, .fr, .sec, .ob] s t := by
  obtain rfl := Host.Outcome.next.inj h
  repeat' first
    | with_reducible exact Same.refl _
    | with_reducible refine ((same_pkgAbort ..).mono (by decide)).after ?_
    | with_reducible refine (same_pkgRow _ _ _ _ _ (by decide) ?_).after ?_
    | intro _

theorem same_execPkgVerify {readBackOk : Bool} {s t : State} (h : execPkgVerify readBackOk s = .next t) : Same [.nv,
    .ports, .cfg, .fc, .led, .vu, .hx, .fr, .ob] s t := by
  obtain rfl := Host.Outcome.next.inj h
  exact (same_pkgVerify ..).mono (by decide)

theorem same_execBulk {p : HxPkt} {s t : State} (h : execBulk p s = .next t) : Same [.nv, .ports, .fc, .led, .vu, .hx,
    .fr, .ts, .ob] s t := by
  obtain rfl := Host.Outcome.next.inj h
  repeat' first
    | with_reducible exact Same.refl _
    | with_reducible refine (same_consumer _ _ _ _ (by decide) ?_).after ?_
    | with_reducible refine ((same_bulkPacket ..).mono (by decide)).after ?_
    | intro _

/-! ### Power -/

theorem same_execDomainPowerRequest {d : BitVec 5} {s t : State} (h : execDomainPowerRequest d s = .next t) : Same
    [.ts, .ob] s t := by
  obtain rfl := Host.Outcome.next.inj h
  exact (same_domainPowerRequest ..).mono (by decide)

theorem same_execPowerGood {d : BitVec 5} {s t : State} (h : execPowerGood d s = .next t) : Same [.draws, .nv, .ports,
    .cfg, .fc, .led, .per, .sa, .mem, .vu, .hx, .ts, .ob] s t := by
  obtain rfl := Host.Outcome.next.inj h
  exact (same_powerGood ..).mono (by decide)

theorem same_execDomainTimeout {d : BitVec 5} {s t : State} (h : execDomainTimeout d s = .next t) : Same [.nv, .ports,
    .cfg, .fc, .led, .per, .sa, .mem, .vu, .hx, .ts, .ob] s t := by
  obtain rfl := Host.Outcome.next.inj h
  exact (same_domainTimeout ..).mono (by decide)

theorem same_execDomainShutdown {d : BitVec 5} {s t : State} (h : execDomainShutdown d s = .next t) : Same [.ports,
    .sa, .mem, .hx, .ts, .ob] s t := by
  obtain rfl := Host.Outcome.next.inj h
  exact (same_domainShutdown ..).mono (by decide)

theorem same_execPmbRead {chan : BitVec 7} {raw : Option (BitVec 16)} {s t : State} (h : execPmbRead chan raw s =
    .next t) : Same [.ports, .fc, .led, .vu, .hx, .ts, .ob] s t := by
  obtain rfl := Host.Outcome.next.inj h
  exact (same_pmbRead ..).mono (by decide)

theorem same_execPmbAlert {_addr : BitVec 7} {status : BitVec 16} {s t : State} (h : execPmbAlert _addr status s =
    .next t) : Same [.ports, .fc, .led, .vu, .hx, .ts, .ob] s t := by
  obtain rfl := Host.Outcome.next.inj h
  exact (same_pmbAlert ..).mono (by decide)

theorem same_execSlowRound  {s t : State} (h : execSlowRound s = .next t) : Same [.draws, .nv, .ports, .cfg, .fc, .ct,
    .led, .sa, .vu, .ym, .hx, .fr, .ts, .sec, .ob] s t := by
  obtain rfl := Host.Outcome.next.inj h
  exact (same_slowRound ..).mono (by decide)

/-! ### Security -/

theorem same_execAlarmPin {pin : BitVec 3} {level : Bool} {s t : State} (h : execAlarmPin pin level s = .next t) :
    Same [.draws, .nv, .ports, .cfg, .fc, .ct, .led, .twc, .sa, .mem, .vu, .ym, .hx, .fr, .sec, .ob] s t := by
  obtain rfl := Host.Outcome.next.inj h
  exact (same_alarmPin ..).mono (by decide)

theorem same_execLockstep  {s t : State} (h : execLockstep s = .next t) : Same [.draws, .nv, .ports, .cfg, .fc, .ct,
    .led, .twc, .sa, .mem, .vu, .ym, .hx, .fr, .sec, .ob] s t := by
  obtain rfl := Host.Outcome.next.inj h
  exact (same_lockstep ..).mono (by decide)

theorem same_execSec {p : HxPkt} {s t : State} (h : execSec p s = .next t) : Same [.draws, .nv, .ports, .cfg, .fc,
    .ct, .led, .twc, .sa, .mem, .vu, .ym, .hx, .fr, .sec, .ob] s t := by
  obtain rfl := Host.Outcome.next.inj h
  repeat' first
    | with_reducible exact Same.refl _
    | with_reducible refine (same_consumer _ _ _ _ (by decide) ?_).after ?_
    | with_reducible refine ((same_secArrived ..).mono (by decide)).after ?_
    | intro _

theorem same_execProgramRoot {priv : BitVec 2} {w : W64} {s t : State} (h : execProgramRoot priv w s = .next t) : Same
    [.draws, .nv, .ports, .fc, .led, .vu, .hx, .sec, .ob] s t := by
  obtain rfl := Host.Outcome.next.inj h
  repeat' first
    | with_reducible exact Same.refl _
    | with_reducible refine (same_lcRow _ _ _ _ _ (by decide) ?_).after ?_
    | with_reducible refine ((same_programRoot ..).mono (by decide)).after ?_
    | intro _

theorem same_execAdvance {priv : BitVec 2} {w : W64} {s t : State} (h : execAdvance priv w s = .next t) : Same
    [.draws, .nv, .ports, .cfg, .fc, .ct, .led, .twc, .sa, .mem, .vu, .ym, .hx, .fr, .sec, .ob] s t := by
  obtain rfl := Host.Outcome.next.inj h
  repeat' first
    | with_reducible exact Same.refl _
    | with_reducible refine (same_lcRow _ _ _ _ _ (by decide) ?_).after ?_
    | with_reducible refine ((same_advanceLc ..).mono (by decide)).after ?_
    | intro _

theorem same_execGenIdentity {priv : BitVec 2} {w : W64} {s t : State} (h : execGenIdentity priv w s = .next t) : Same
    [.draws, .nv, .ports, .fc, .led, .vu, .hx, .sec, .ob] s t := by
  obtain rfl := Host.Outcome.next.inj h
  repeat' first
    | with_reducible exact Same.refl _
    | with_reducible refine (same_lcRow _ _ _ _ _ (by decide) ?_).after ?_
    | with_reducible refine ((same_genIdentity ..).mono (by decide)).after ?_
    | intro _

theorem same_execInstallCert {priv : BitVec 2} {w : W64} {s t : State} (h : execInstallCert priv w s = .next t) : Same
    [.nv, .ports, .cfg, .fc, .led, .vu, .hx, .sec, .ob] s t := by
  obtain rfl := Host.Outcome.next.inj h
  repeat' first
    | with_reducible exact Same.refl _
    | with_reducible refine (same_lcRow _ _ _ _ _ (by decide) ?_).after ?_
    | with_reducible refine ((same_installCert ..).mono (by decide)).after ?_
    | intro _

theorem same_execProgramWrapped {priv : BitVec 2} {w : W64} {s t : State} (h : execProgramWrapped priv w s = .next t)
    : Same [.draws, .nv, .ports, .fc, .led, .vu, .hx, .sec, .ob] s t := by
  obtain rfl := Host.Outcome.next.inj h
  repeat' first
    | with_reducible exact Same.refl _
    | with_reducible refine (same_lcRow _ _ _ _ _ (by decide) ?_).after ?_
    | with_reducible refine ((same_programWrapped ..).mono (by decide)).after ?_
    | intro _

theorem same_execSetMinSeq {priv : BitVec 2} {w : W64} {s t : State} (h : execSetMinSeq priv w s = .next t) : Same
    [.draws, .nv, .ports, .fc, .led, .vu, .hx, .sec, .ob] s t := by
  obtain rfl := Host.Outcome.next.inj h
  repeat' first
    | with_reducible exact Same.refl _
    | with_reducible refine (same_lcRow _ _ _ _ _ (by decide) ?_).after ?_
    | with_reducible refine ((same_setMinSeq ..).mono (by decide)).after ?_
    | intro _

theorem same_execUnlockChallenge {priv : BitVec 2} {w : W64} {s t : State} (h : execUnlockChallenge priv w s = .next
    t) : Same [.draws, .ports, .fc, .led, .vu, .hx, .sec, .ob] s t := by
  obtain rfl := Host.Outcome.next.inj h
  repeat' first
    | with_reducible exact Same.refl _
    | with_reducible refine (same_lcRow _ _ _ _ _ (by decide) ?_).after ?_
    | with_reducible refine ((same_unlockChallenge ..).mono (by decide)).after ?_
    | intro _

theorem same_execUnlockResponse {priv : BitVec 2} {w : W64} {s t : State} (h : execUnlockResponse priv w s = .next t)
    : Same [.draws, .nv, .ports, .cfg, .fc, .ct, .led, .twc, .sa, .mem, .vu, .ym, .hx, .fr, .sec, .ob] s t := by
  obtain rfl := Host.Outcome.next.inj h
  repeat' first
    | with_reducible exact Same.refl _
    | with_reducible refine (same_lcRow _ _ _ _ _ (by decide) ?_).after ?_
    | with_reducible refine ((same_unlockResponse ..).mono (by decide)).after ?_
    | intro _

theorem same_execProvOut {priv : BitVec 2} {s t : State} (h : execProvOut priv s = .next t) : Same [.ports, .fc, .led,
    .vu, .hx, .sec, .ob] s t := by
  obtain rfl := Host.Outcome.next.inj h
  exact (same_provOut ..).mono (by decide)

theorem same_execKeyload {priv : BitVec 2} {w : W64} {s t : State} (h : execKeyload priv w s = .next t) : Same
    [.ports, .fc, .led, .vu, .hx, .sec, .ob] s t := by
  obtain rfl := Host.Outcome.next.inj h
  repeat' first
    | with_reducible exact Same.refl _
    | with_reducible refine (same_operatorWrite _ _ _ (by decide) ?_).after ?_
    | with_reducible refine ((same_keyload ..).mono (by decide)).after ?_
    | intro _
    | split

theorem same_execTokenPresent {priv : BitVec 2} {w : W64} {s t : State} (h : execTokenPresent priv w s = .next t) :
    Same [.ports, .fc, .led, .vu, .hx, .sec, .ob] s t := by
  obtain rfl := Host.Outcome.next.inj h
  repeat' first
    | with_reducible exact Same.refl _
    | with_reducible refine (same_tenantWrite _ _ _ (by decide) ?_).after ?_
    | with_reducible refine ((same_tokenPresent ..).mono (by decide)).after ?_
    | intro _
    | split

theorem same_execTokenBindingLapse  {s t : State} (h : execTokenBindingLapse s = .next t) : Same [.sec] s t := by
  obtain rfl := Host.Outcome.next.inj h
  repeat' first
    | with_reducible exact Same.refl _
    | with_reducible refine ((same_mSec _ _).mono (by decide)).after ?_

theorem same_execSarGo {priv : BitVec 2} {w : W64} {s t : State} (h : execSarGo priv w s = .next t) : Same [.ports,
    .fc, .led, .vu, .hx, .sec, .ob] s t := by
  obtain rfl := Host.Outcome.next.inj h
  repeat' first
    | with_reducible exact Same.refl _
    | with_reducible refine ((same_answer ..).mono (by decide)).after ?_
    | with_reducible refine ((same_denied ..).mono (by decide)).after ?_
    | with_reducible refine (same_hrp _ _ (by decide) ?_).after ?_
    | with_reducible refine ((same_sarGo ..).mono (by decide)).after ?_
    | intro _
    | split

theorem same_execSarBuildDone  {s t : State} (h : execSarBuildDone s = .next t) : Same [.draws, .ports, .hx, .sec,
    .ob] s t := by
  obtain rfl := Host.Outcome.next.inj h
  exact (same_sarBuildDone ..).mono (by decide)

theorem same_execSarData {priv : BitVec 2} {s t : State} (h : execSarData priv s = .next t) : Same [.ports, .fc, .led,
    .vu, .hx, .sec, .ob] s t := by
  obtain rfl := Host.Outcome.next.inj h
  exact (same_sarData ..).mono (by decide)

theorem same_execCertData {priv : BitVec 2} {s t : State} (h : execCertData priv s = .next t) : Same [.ports, .fc,
    .led, .vu, .hx, .sec, .ob] s t := by
  obtain rfl := Host.Outcome.next.inj h
  exact (same_certData ..).mono (by decide)

theorem same_execDumpKey {priv : BitVec 2} {s t : State} (h : execDumpKey priv s = .next t) : Same [.draws, .ports,
    .fc, .led, .vu, .hx, .sec, .ob] s t := by
  obtain rfl := Host.Outcome.next.inj h
  exact (same_dumpKey ..).mono (by decide)

/-! ### Start -/

theorem same_execRstNAssert  {s t : State} (h : execRstNAssert s = .next t) : Same [.now, .draws, .nv, .ports,
    .expert, .cfg, .fc, .ct, .led, .twc, .per, .sa, .mem, .vu, .ym, .hx, .fr, .ts, .sec, .ob] s t := by
  obtain rfl := Host.Outcome.next.inj h
  exact (same_rstNAssert ..).mono (by decide)

theorem same_execRstNRelease {dieId : BitVec 6} {s t : State} (h : execRstNRelease dieId s = .next t) : Same [.ports,
    .cfg, .hx, .ts, .ob] s t := by
  obtain rfl := Host.Outcome.next.inj h
  exact (same_rstNRelease ..).mono (by decide)

theorem same_execStageS1 {t : SelfTest} {s u : State} (h : execStageS1 t s = .next u) : Same [.draws, .nv, .ports,
    .cfg, .fc, .ct, .led, .twc, .sa, .mem, .vu, .ym, .hx, .fr, .sec, .ob] s u := by
  obtain rfl := Host.Outcome.next.inj h
  exact (same_stageS1 ..).mono (by decide)

theorem same_execStageS2 {primary secondary : Bytes} {s t : State} (h : execStageS2 primary secondary s = .next t) :
    Same [.nv, .ports, .expert, .cfg, .fc, .led, .vu, .hx, .ts, .sec, .ob] s t := by
  obtain rfl := Host.Outcome.next.inj h
  exact (same_stageS2 ..).mono (by decide)

theorem same_execStageS3 {fails deadSpares : List FailEntry} {void : Bool} {s t : State} (h : execStageS3 fails
    deadSpares void s = .next t) : Same [.nv, .ports, .cfg, .fc, .led, .sa, .mem, .vu, .hx, .fr, .ts, .ob] s t := by
  obtain rfl := Host.Outcome.next.inj h
  exact (same_stageS3 ..).mono (by decide)

theorem same_execStageS4  {s t : State} (h : execStageS4 s = .next t) : Same [.now, .draws, .ports, .cfg, .fc, .led,
    .vu, .hx, .fr, .ts, .ob] s t := by
  obtain rfl := Host.Outcome.next.inj h
  exact (same_stageS4 ..).mono (by decide)

theorem same_execStageS5 {v : Survey} {s t : State} (h : execStageS5 v s = .next t) : Same [.nv, .ports, .cfg, .fc,
    .ct, .led, .twc, .per, .sa, .mem, .vu, .ym, .hx, .ts, .ob] s t := by
  obtain rfl := Host.Outcome.next.inj h
  exact (same_stageS5 ..).mono (by decide)

theorem same_execStageS6 {results : List PairSay} {void : Bool} {s t : State} (h : execStageS6 results void s = .next
    t) : Same [.nv, .ports, .cfg, .fc, .led, .vu, .hx, .ob] s t := by
  obtain rfl := Host.Outcome.next.inj h
  exact (same_stageS6 ..).mono (by decide)

theorem same_execStageS7 {routersAnswered : Bool} {s t : State} (h : execStageS7 routersAnswered s = .next t) : Same
    [.nv, .ports, .cfg, .fc, .ct, .led, .vu, .ym, .hx, .ob] s t := by
  obtain rfl := Host.Outcome.next.inj h
  exact (same_stageS7 ..).mono (by decide)

theorem same_execStageS8  {s t : State} (h : execStageS8 s = .next t) : Same [.ports, .cfg, .fc, .ct, .led, .vu, .hx,
    .ob] s t := by
  obtain rfl := Host.Outcome.next.inj h
  exact (same_stageS8 ..).mono (by decide)

theorem same_execStageS9  {s t : State} (h : execStageS9 s = .next t) : Same [.nv, .ports, .cfg, .fc, .led, .vu, .hx,
    .ob] s t := by
  obtain rfl := Host.Outcome.next.inj h
  exact (same_stageS9 ..).mono (by decide)

/-! ### MusterRun -/

theorem same_execBitmap {p : Ingress} {s t : State} (h : execBitmap p s = .next t) : Same [.nv, .ports, .cfg, .fc,
    .ct, .led, .vu, .ym, .hx, .fr, .ob] s t := by
  obtain rfl := Host.Outcome.next.inj h
  repeat' first
    | with_reducible exact Same.refl _
    | with_reducible refine (same_ingress _ _ _ _ _ (by decide) ?_).after ?_
    | with_reducible refine ((same_bitmapPacket ..).mono (by decide)).after ?_
    | intro _

theorem same_execCommitAck {p : Ingress} {s t : State} (h : execCommitAck p s = .next t) : Same [.nv, .ports, .cfg,
    .fc, .ct, .led, .vu, .ym, .hx, .fr, .ob] s t := by
  obtain rfl := Host.Outcome.next.inj h
  repeat' first
    | with_reducible exact Same.refl _
    | with_reducible refine (same_ingress _ _ _ _ _ (by decide) ?_).after ?_
    | with_reducible refine ((same_commitPacket ..).mono (by decide)).after ?_
    | intro _

theorem same_execMusterTimeout  {s t : State} (h : execMusterTimeout s = .next t) : Same [.nv, .ports, .cfg, .fc, .ct,
    .led, .vu, .ym, .hx, .ob] s t := by
  obtain rfl := Host.Outcome.next.inj h
  exact (same_musterTimeout ..).mono (by decide)

theorem same_execSectorMuster {sector : BitVec 6} {s t : State} (h : execSectorMuster sector s = .next t) : Same [.nv,
    .ports, .cfg, .fc, .ct, .led, .vu, .ym, .hx, .ob] s t := by
  obtain rfl := Host.Outcome.next.inj h
  exact (same_sectorMuster ..).mono (by decide)

/-! ### Watching -/

theorem same_execSnap {priv : BitVec 2} {w : W64} {s t : State} (h : execSnap priv w s = .next t) : Same [.ports, .fc,
    .led, .vu, .hx, .sec, .ob] s t := by
  obtain rfl := Host.Outcome.next.inj h
  repeat' first
    | with_reducible exact Same.refl _
    | with_reducible refine (same_operatorWrite _ _ _ (by decide) ?_).after ?_
    | with_reducible refine ((same_snapWrite ..).mono (by decide)).after ?_
    | intro _

theorem same_execSnapPeriod  {s t : State} (h : execSnapPeriod s = .next t) : Same [.ports, .hx, .ob] s t := by
  obtain rfl := Host.Outcome.next.inj h
  exact (same_snapPeriod ..).mono (by decide)

theorem same_execWatchGo {priv : BitVec 2} {w : W64} {s t : State} (h : execWatchGo priv w s = .next t) : Same
    [.ports, .fc, .led, .vu, .hx, .sec, .ob] s t := by
  obtain rfl := Host.Outcome.next.inj h
  exact (same_watchGo ..).mono (by decide)

theorem same_execWatchData {priv : BitVec 2} {s t : State} (h : execWatchData priv s = .next t) : Same [.ports, .fc,
    .led, .vu, .hx, .sec, .ob] s t := by
  obtain rfl := Host.Outcome.next.inj h
  exact (same_watchData ..).mono (by decide)

theorem same_execDumpGo {c : DumpCause} {s t : State} (h : execDumpGo c s = .next t) : Same [.ports, .fc, .led, .vu,
    .hx, .sec, .ob] s t := by
  obtain rfl := Host.Outcome.next.inj h
  exact (same_dumpGo ..).mono (by decide)

/-! ### Faults -/

theorem same_execEventPortMessage {k0 : Bool} {d0 : W64} {k1 : Bool} {d1 : W64} {s t : State} (h :
    execEventPortMessage k0 d0 k1 d1 s = .next t) : Same [.ports, .fc, .led, .vu, .hx, .ob] s t := by
  obtain rfl := Host.Outcome.next.inj h
  exact (same_eventPortMessage ..).mono (by decide)

theorem same_execEvent {p : Ingress} {s t : State} (h : execEvent p s = .next t) : Same [.ports, .fc, .led, .vu, .hx,
    .ob] s t := by
  obtain rfl := Host.Outcome.next.inj h
  repeat' first
    | with_reducible exact Same.refl _
    | with_reducible refine (same_ingress _ _ _ _ _ (by decide) ?_).after ?_
    | with_reducible refine ((same_eventPacket ..).mono (by decide)).after ?_
    | intro _

theorem same_execRingPlaceRetry {w : Writer} {s t : State} (h : execRingPlaceRetry w s = .next t) : Same [.fc, .led,
    .vu, .ob] s t := by
  obtain rfl := Host.Outcome.next.inj h
  exact (same_ringPlaceRetry ..).mono (by decide)

theorem same_execFcProcess  {s t : State} (h : execFcProcess s = .next t) : Same [.nv, .ports, .cfg, .fc, .ct, .led,
    .twc, .per, .sa, .mem, .vu, .ym, .hx, .fr, .ts, .ob] s t := by
  obtain rfl := Host.Outcome.next.inj h
  exact (same_fcProcess ..).mono (by decide)

theorem same_execFcAck {priv : BitVec 2} {w : W64} {s t : State} (h : execFcAck priv w s = .next t) : Same [.ports,
    .fc, .led, .vu, .hx, .sec, .ob] s t := by
  obtain rfl := Host.Outcome.next.inj h
  repeat' first
    | with_reducible exact Same.refl _
    | with_reducible refine (same_operatorWrite _ _ _ (by decide) ?_).after ?_
    | with_reducible refine ((same_fcAck ..).mono (by decide)).after ?_
    | intro _

theorem same_execLevelLeakedToZero {cls : BitVec 4} {die : BitVec 6} {loc : W128} {s t : State} (h :
    execLevelLeakedToZero cls die loc s = .next t) : Same [.fc] s t := by
  obtain rfl := Host.Outcome.next.inj h
  exact (same_levelLeaked ..).mono (by decide)

theorem same_execInjectMessage {priv : BitVec 2} {w : W64} {s t : State} (h : execInjectMessage priv w s = .next t) :
    Same [.ports, .fc, .led, .vu, .hx, .sec, .ob] s t := by
  obtain rfl := Host.Outcome.next.inj h
  repeat' first
    | with_reducible exact Same.refl _
    | with_reducible refine ((same_injectMessage ..).mono (by decide)).after ?_
    | with_reducible refine (same_injectRow _ _ _ _ _ (by decide) ?_).after ?_
    | intro _

theorem same_execInjectLocal {priv : BitVec 2} {w : W64} {s t : State} (h : execInjectLocal priv w s = .next t) : Same
    [.ports, .fc, .led, .vu, .hx, .sec, .ob] s t := by
  obtain rfl := Host.Outcome.next.inj h
  repeat' first
    | with_reducible exact Same.refl _
    | with_reducible refine ((same_injectLocal ..).mono (by decide)).after ?_
    | with_reducible refine (same_injectRow _ _ _ _ _ (by decide) ?_).after ?_
    | intro _

theorem same_execInjectEcc {priv : BitVec 2} {w : W64} {s t : State} (h : execInjectEcc priv w s = .next t) : Same
    [.ports, .fc, .led, .mem, .vu, .hx, .sec, .ob] s t := by
  obtain rfl := Host.Outcome.next.inj h
  repeat' first
    | with_reducible exact Same.refl _
    | with_reducible refine ((same_injectEcc ..).mono (by decide)).after ?_
    | with_reducible refine (same_injectRow _ _ _ _ _ (by decide) ?_).after ?_
    | intro _

/-! ### Dumps -/

theorem same_execDumpSectionDone  {s t : State} (h : execDumpSectionDone s = .next t) : Same [.ports, .hx, .ob] s t :=
    by
  obtain rfl := Host.Outcome.next.inj h
  exact (same_dumpSectionDone ..).mono (by decide)

theorem same_execDumpSectionTimeout  {s t : State} (h : execDumpSectionTimeout s = .next t) : Same [.ports, .fc, .led,
    .vu, .hx, .ob] s t := by
  obtain rfl := Host.Outcome.next.inj h
  exact (same_dumpSectionTimeout ..).mono (by decide)

theorem same_execTackRsp {p : Ingress} {s t : State} (h : execTackRsp p s = .next t) : Same [.ports, .fc, .led, .vu,
    .hx, .ob] s t := by
  obtain rfl := Host.Outcome.next.inj h
  repeat' first
    | with_reducible exact Same.refl _
    | with_reducible refine (same_ingress _ _ _ _ _ (by decide) ?_).after ?_
    | with_reducible refine ((same_tackRsp ..).mono (by decide)).after ?_
    | intro _

/-! ### HostPort -/

theorem same_execRegisterWrite {priv : BitVec 2} {addr : BitVec 22} {w : W64} {s t : State} (h : execRegisterWrite
    priv addr w s = .next t) : Same [.draws, .nv, .ports, .expert, .cfg, .fc, .ct, .led, .twc, .per, .sa, .mem, .vu,
    .ym, .hx, .fr, .ts, .sec, .ob] s t := by
  obtain rfl := Host.Outcome.next.inj h
  exact (same_registerWrite ..).mono (by decide)

theorem same_execRegisterRead {priv : BitVec 2} {addr : BitVec 22} {snapRace : Bool} {s t : State} (h :
    execRegisterRead priv addr snapRace s = .next t) : Same [.draws, .ports, .fc, .ct, .led, .twc, .per, .sa, .mem,
    .vu, .hx, .fr, .sec, .ob] s t := by
  obtain rfl := Host.Outcome.next.inj h
  exact (same_registerRead ..).mono (by decide)

/-! ### Pins -/

theorem same_execEgressCredit {port : BitVec 3} {cls : BitVec 2} {ccnt : BitVec 4} {s t : State} (h : execEgressCredit
    port cls ccnt s = .next t) : Same [.ports] s t := by
  obtain rfl := Host.Outcome.next.inj h
  exact (same_egressCredit ..).mono (by decide)

theorem same_execNonIngressKindPacket {p : Ingress} {s t : State} (h : execNonIngressKindPacket p s = .next t) : Same
    [.ports, .fc, .led, .vu, .hx, .ob] s t := by
  obtain rfl := Host.Outcome.next.inj h
  exact (same_nonIngressKind ..).mono (by decide)

theorem same_execWrstNAssert  {s t : State} (h : execWrstNAssert s = .next t) : Same [.ports] s t := by
  obtain rfl := Host.Outcome.next.inj h
  exact (same_wrstAssert ..).mono (by decide)

theorem same_execWrstNRelease  {s t : State} (h : execWrstNRelease s = .next t) : Same [.nv, .ports, .cfg, .fc, .ct,
    .led, .vu, .ym, .hx, .fr, .ob] s t := by
  obtain rfl := Host.Outcome.next.inj h
  exact (same_wrstRelease ..).mono (by decide)

theorem same_execSuppliesFail {torn : Bool} {s t : State} (h : execSuppliesFail torn s = .next t) : Same [.now,
    .draws, .nv, .ports, .expert, .cfg, .fc, .ct, .led, .twc, .per, .sa, .mem, .vu, .ym, .hx, .fr, .ts, .sec, .ob] s t
    := by
  obtain rfl := Host.Outcome.next.inj h
  exact (same_suppliesFail ..).mono (by decide)

theorem same_execTapInstruction {op : TapOp} {s t : State} (h : execTapInstruction op s = .next t) : Same [.ports,
    .mem] s t := by
  obtain rfl := Host.Outcome.next.inj h
  exact (same_tapInstruction ..).mono (by decide)

end Sys2Proof.Machine
end

