-- ==== Sys2Proof/Laws/State.lean ====
section
/-!
SUPPORT. What a change of one unit does to each field of the state.
-/
namespace Sys2Proof.Machine

/-! ### `State.mNv` -/

@[simp] theorem State.mNv_pending (f : Nv → Nv) (s : State) : (s.mNv f).pending = s.pending := rfl
@[simp] theorem State.mNv_now (f : Nv → Nv) (s : State) : (s.mNv f).now = s.now := rfl
@[simp] theorem State.mNv_nowFrac (f : Nv → Nv) (s : State) : (s.mNv f).nowFrac = s.nowFrac := rfl
@[simp] theorem State.mNv_draws (f : Nv → Nv) (s : State) : (s.mNv f).draws = s.draws := rfl
@[simp] theorem State.mNv_nv (f : Nv → Nv) (s : State) : (s.mNv f).nv = f s.nv := rfl
@[simp] theorem State.mNv_ports (f : Nv → Nv) (s : State) : (s.mNv f).ports = s.ports := rfl
@[simp] theorem State.mNv_expert (f : Nv → Nv) (s : State) : (s.mNv f).expert = s.expert := rfl
@[simp] theorem State.mNv_cfg (f : Nv → Nv) (s : State) : (s.mNv f).cfg = s.cfg := rfl
@[simp] theorem State.mNv_fc (f : Nv → Nv) (s : State) : (s.mNv f).fc = s.fc := rfl
@[simp] theorem State.mNv_ct (f : Nv → Nv) (s : State) : (s.mNv f).ct = s.ct := rfl
@[simp] theorem State.mNv_led (f : Nv → Nv) (s : State) : (s.mNv f).led = s.led := rfl
@[simp] theorem State.mNv_twc (f : Nv → Nv) (s : State) : (s.mNv f).twc = s.twc := rfl
@[simp] theorem State.mNv_per (f : Nv → Nv) (s : State) : (s.mNv f).per = s.per := rfl
@[simp] theorem State.mNv_sa (f : Nv → Nv) (s : State) : (s.mNv f).sa = s.sa := rfl
@[simp] theorem State.mNv_mem (f : Nv → Nv) (s : State) : (s.mNv f).mem = s.mem := rfl
@[simp] theorem State.mNv_vu (f : Nv → Nv) (s : State) : (s.mNv f).vu = s.vu := rfl
@[simp] theorem State.mNv_ym (f : Nv → Nv) (s : State) : (s.mNv f).ym = s.ym := rfl
@[simp] theorem State.mNv_hx (f : Nv → Nv) (s : State) : (s.mNv f).hx = s.hx := rfl
@[simp] theorem State.mNv_fr (f : Nv → Nv) (s : State) : (s.mNv f).fr = s.fr := rfl
@[simp] theorem State.mNv_ts (f : Nv → Nv) (s : State) : (s.mNv f).ts = s.ts := rfl
@[simp] theorem State.mNv_sec (f : Nv → Nv) (s : State) : (s.mNv f).sec = s.sec := rfl
@[simp] theorem State.mNv_ob (f : Nv → Nv) (s : State) : (s.mNv f).ob = s.ob := rfl

/-! ### `State.mPorts` -/

@[simp] theorem State.mPorts_pending (f : Ports → Ports) (s : State) : (s.mPorts f).pending = s.pending := rfl
@[simp] theorem State.mPorts_now (f : Ports → Ports) (s : State) : (s.mPorts f).now = s.now := rfl
@[simp] theorem State.mPorts_nowFrac (f : Ports → Ports) (s : State) : (s.mPorts f).nowFrac = s.nowFrac := rfl
@[simp] theorem State.mPorts_draws (f : Ports → Ports) (s : State) : (s.mPorts f).draws = s.draws := rfl
@[simp] theorem State.mPorts_nv (f : Ports → Ports) (s : State) : (s.mPorts f).nv = s.nv := rfl
@[simp] theorem State.mPorts_ports (f : Ports → Ports) (s : State) : (s.mPorts f).ports = f s.ports := rfl
@[simp] theorem State.mPorts_expert (f : Ports → Ports) (s : State) : (s.mPorts f).expert = s.expert := rfl
@[simp] theorem State.mPorts_cfg (f : Ports → Ports) (s : State) : (s.mPorts f).cfg = s.cfg := rfl
@[simp] theorem State.mPorts_fc (f : Ports → Ports) (s : State) : (s.mPorts f).fc = s.fc := rfl
@[simp] theorem State.mPorts_ct (f : Ports → Ports) (s : State) : (s.mPorts f).ct = s.ct := rfl
@[simp] theorem State.mPorts_led (f : Ports → Ports) (s : State) : (s.mPorts f).led = s.led := rfl
@[simp] theorem State.mPorts_twc (f : Ports → Ports) (s : State) : (s.mPorts f).twc = s.twc := rfl
@[simp] theorem State.mPorts_per (f : Ports → Ports) (s : State) : (s.mPorts f).per = s.per := rfl
@[simp] theorem State.mPorts_sa (f : Ports → Ports) (s : State) : (s.mPorts f).sa = s.sa := rfl
@[simp] theorem State.mPorts_mem (f : Ports → Ports) (s : State) : (s.mPorts f).mem = s.mem := rfl
@[simp] theorem State.mPorts_vu (f : Ports → Ports) (s : State) : (s.mPorts f).vu = s.vu := rfl
@[simp] theorem State.mPorts_ym (f : Ports → Ports) (s : State) : (s.mPorts f).ym = s.ym := rfl
@[simp] theorem State.mPorts_hx (f : Ports → Ports) (s : State) : (s.mPorts f).hx = s.hx := rfl
@[simp] theorem State.mPorts_fr (f : Ports → Ports) (s : State) : (s.mPorts f).fr = s.fr := rfl
@[simp] theorem State.mPorts_ts (f : Ports → Ports) (s : State) : (s.mPorts f).ts = s.ts := rfl
@[simp] theorem State.mPorts_sec (f : Ports → Ports) (s : State) : (s.mPorts f).sec = s.sec := rfl
@[simp] theorem State.mPorts_ob (f : Ports → Ports) (s : State) : (s.mPorts f).ob = s.ob := rfl

/-! ### `State.mExpert` -/

@[simp] theorem State.mExpert_pending (f : Expert → Expert) (s : State) : (s.mExpert f).pending = s.pending := rfl
@[simp] theorem State.mExpert_now (f : Expert → Expert) (s : State) : (s.mExpert f).now = s.now := rfl
@[simp] theorem State.mExpert_nowFrac (f : Expert → Expert) (s : State) : (s.mExpert f).nowFrac = s.nowFrac := rfl
@[simp] theorem State.mExpert_draws (f : Expert → Expert) (s : State) : (s.mExpert f).draws = s.draws := rfl
@[simp] theorem State.mExpert_nv (f : Expert → Expert) (s : State) : (s.mExpert f).nv = s.nv := rfl
@[simp] theorem State.mExpert_ports (f : Expert → Expert) (s : State) : (s.mExpert f).ports = s.ports := rfl
@[simp] theorem State.mExpert_expert (f : Expert → Expert) (s : State) : (s.mExpert f).expert = f s.expert := rfl
@[simp] theorem State.mExpert_cfg (f : Expert → Expert) (s : State) : (s.mExpert f).cfg = s.cfg := rfl
@[simp] theorem State.mExpert_fc (f : Expert → Expert) (s : State) : (s.mExpert f).fc = s.fc := rfl
@[simp] theorem State.mExpert_ct (f : Expert → Expert) (s : State) : (s.mExpert f).ct = s.ct := rfl
@[simp] theorem State.mExpert_led (f : Expert → Expert) (s : State) : (s.mExpert f).led = s.led := rfl
@[simp] theorem State.mExpert_twc (f : Expert → Expert) (s : State) : (s.mExpert f).twc = s.twc := rfl
@[simp] theorem State.mExpert_per (f : Expert → Expert) (s : State) : (s.mExpert f).per = s.per := rfl
@[simp] theorem State.mExpert_sa (f : Expert → Expert) (s : State) : (s.mExpert f).sa = s.sa := rfl
@[simp] theorem State.mExpert_mem (f : Expert → Expert) (s : State) : (s.mExpert f).mem = s.mem := rfl
@[simp] theorem State.mExpert_vu (f : Expert → Expert) (s : State) : (s.mExpert f).vu = s.vu := rfl
@[simp] theorem State.mExpert_ym (f : Expert → Expert) (s : State) : (s.mExpert f).ym = s.ym := rfl
@[simp] theorem State.mExpert_hx (f : Expert → Expert) (s : State) : (s.mExpert f).hx = s.hx := rfl
@[simp] theorem State.mExpert_fr (f : Expert → Expert) (s : State) : (s.mExpert f).fr = s.fr := rfl
@[simp] theorem State.mExpert_ts (f : Expert → Expert) (s : State) : (s.mExpert f).ts = s.ts := rfl
@[simp] theorem State.mExpert_sec (f : Expert → Expert) (s : State) : (s.mExpert f).sec = s.sec := rfl
@[simp] theorem State.mExpert_ob (f : Expert → Expert) (s : State) : (s.mExpert f).ob = s.ob := rfl

/-! ### `State.mCfg` -/

@[simp] theorem State.mCfg_pending (f : Cfg → Cfg) (s : State) : (s.mCfg f).pending = s.pending := rfl
@[simp] theorem State.mCfg_now (f : Cfg → Cfg) (s : State) : (s.mCfg f).now = s.now := rfl
@[simp] theorem State.mCfg_nowFrac (f : Cfg → Cfg) (s : State) : (s.mCfg f).nowFrac = s.nowFrac := rfl
@[simp] theorem State.mCfg_draws (f : Cfg → Cfg) (s : State) : (s.mCfg f).draws = s.draws := rfl
@[simp] theorem State.mCfg_nv (f : Cfg → Cfg) (s : State) : (s.mCfg f).nv = s.nv := rfl
@[simp] theorem State.mCfg_ports (f : Cfg → Cfg) (s : State) : (s.mCfg f).ports = s.ports := rfl
@[simp] theorem State.mCfg_expert (f : Cfg → Cfg) (s : State) : (s.mCfg f).expert = s.expert := rfl
@[simp] theorem State.mCfg_cfg (f : Cfg → Cfg) (s : State) : (s.mCfg f).cfg = f s.cfg := rfl
@[simp] theorem State.mCfg_fc (f : Cfg → Cfg) (s : State) : (s.mCfg f).fc = s.fc := rfl
@[simp] theorem State.mCfg_ct (f : Cfg → Cfg) (s : State) : (s.mCfg f).ct = s.ct := rfl
@[simp] theorem State.mCfg_led (f : Cfg → Cfg) (s : State) : (s.mCfg f).led = s.led := rfl
@[simp] theorem State.mCfg_twc (f : Cfg → Cfg) (s : State) : (s.mCfg f).twc = s.twc := rfl
@[simp] theorem State.mCfg_per (f : Cfg → Cfg) (s : State) : (s.mCfg f).per = s.per := rfl
@[simp] theorem State.mCfg_sa (f : Cfg → Cfg) (s : State) : (s.mCfg f).sa = s.sa := rfl
@[simp] theorem State.mCfg_mem (f : Cfg → Cfg) (s : State) : (s.mCfg f).mem = s.mem := rfl
@[simp] theorem State.mCfg_vu (f : Cfg → Cfg) (s : State) : (s.mCfg f).vu = s.vu := rfl
@[simp] theorem State.mCfg_ym (f : Cfg → Cfg) (s : State) : (s.mCfg f).ym = s.ym := rfl
@[simp] theorem State.mCfg_hx (f : Cfg → Cfg) (s : State) : (s.mCfg f).hx = s.hx := rfl
@[simp] theorem State.mCfg_fr (f : Cfg → Cfg) (s : State) : (s.mCfg f).fr = s.fr := rfl
@[simp] theorem State.mCfg_ts (f : Cfg → Cfg) (s : State) : (s.mCfg f).ts = s.ts := rfl
@[simp] theorem State.mCfg_sec (f : Cfg → Cfg) (s : State) : (s.mCfg f).sec = s.sec := rfl
@[simp] theorem State.mCfg_ob (f : Cfg → Cfg) (s : State) : (s.mCfg f).ob = s.ob := rfl

/-! ### `State.mFc` -/

@[simp] theorem State.mFc_pending (f : Fc → Fc) (s : State) : (s.mFc f).pending = s.pending := rfl
@[simp] theorem State.mFc_now (f : Fc → Fc) (s : State) : (s.mFc f).now = s.now := rfl
@[simp] theorem State.mFc_nowFrac (f : Fc → Fc) (s : State) : (s.mFc f).nowFrac = s.nowFrac := rfl
@[simp] theorem State.mFc_draws (f : Fc → Fc) (s : State) : (s.mFc f).draws = s.draws := rfl
@[simp] theorem State.mFc_nv (f : Fc → Fc) (s : State) : (s.mFc f).nv = s.nv := rfl
@[simp] theorem State.mFc_ports (f : Fc → Fc) (s : State) : (s.mFc f).ports = s.ports := rfl
@[simp] theorem State.mFc_expert (f : Fc → Fc) (s : State) : (s.mFc f).expert = s.expert := rfl
@[simp] theorem State.mFc_cfg (f : Fc → Fc) (s : State) : (s.mFc f).cfg = s.cfg := rfl
@[simp] theorem State.mFc_fc (f : Fc → Fc) (s : State) : (s.mFc f).fc = f s.fc := rfl
@[simp] theorem State.mFc_ct (f : Fc → Fc) (s : State) : (s.mFc f).ct = s.ct := rfl
@[simp] theorem State.mFc_led (f : Fc → Fc) (s : State) : (s.mFc f).led = s.led := rfl
@[simp] theorem State.mFc_twc (f : Fc → Fc) (s : State) : (s.mFc f).twc = s.twc := rfl
@[simp] theorem State.mFc_per (f : Fc → Fc) (s : State) : (s.mFc f).per = s.per := rfl
@[simp] theorem State.mFc_sa (f : Fc → Fc) (s : State) : (s.mFc f).sa = s.sa := rfl
@[simp] theorem State.mFc_mem (f : Fc → Fc) (s : State) : (s.mFc f).mem = s.mem := rfl
@[simp] theorem State.mFc_vu (f : Fc → Fc) (s : State) : (s.mFc f).vu = s.vu := rfl
@[simp] theorem State.mFc_ym (f : Fc → Fc) (s : State) : (s.mFc f).ym = s.ym := rfl
@[simp] theorem State.mFc_hx (f : Fc → Fc) (s : State) : (s.mFc f).hx = s.hx := rfl
@[simp] theorem State.mFc_fr (f : Fc → Fc) (s : State) : (s.mFc f).fr = s.fr := rfl
@[simp] theorem State.mFc_ts (f : Fc → Fc) (s : State) : (s.mFc f).ts = s.ts := rfl
@[simp] theorem State.mFc_sec (f : Fc → Fc) (s : State) : (s.mFc f).sec = s.sec := rfl
@[simp] theorem State.mFc_ob (f : Fc → Fc) (s : State) : (s.mFc f).ob = s.ob := rfl

/-! ### `State.mCt` -/

@[simp] theorem State.mCt_pending (f : Ct → Ct) (s : State) : (s.mCt f).pending = s.pending := rfl
@[simp] theorem State.mCt_now (f : Ct → Ct) (s : State) : (s.mCt f).now = s.now := rfl
@[simp] theorem State.mCt_nowFrac (f : Ct → Ct) (s : State) : (s.mCt f).nowFrac = s.nowFrac := rfl
@[simp] theorem State.mCt_draws (f : Ct → Ct) (s : State) : (s.mCt f).draws = s.draws := rfl
@[simp] theorem State.mCt_nv (f : Ct → Ct) (s : State) : (s.mCt f).nv = s.nv := rfl
@[simp] theorem State.mCt_ports (f : Ct → Ct) (s : State) : (s.mCt f).ports = s.ports := rfl
@[simp] theorem State.mCt_expert (f : Ct → Ct) (s : State) : (s.mCt f).expert = s.expert := rfl
@[simp] theorem State.mCt_cfg (f : Ct → Ct) (s : State) : (s.mCt f).cfg = s.cfg := rfl
@[simp] theorem State.mCt_fc (f : Ct → Ct) (s : State) : (s.mCt f).fc = s.fc := rfl
@[simp] theorem State.mCt_ct (f : Ct → Ct) (s : State) : (s.mCt f).ct = f s.ct := rfl
@[simp] theorem State.mCt_led (f : Ct → Ct) (s : State) : (s.mCt f).led = s.led := rfl
@[simp] theorem State.mCt_twc (f : Ct → Ct) (s : State) : (s.mCt f).twc = s.twc := rfl
@[simp] theorem State.mCt_per (f : Ct → Ct) (s : State) : (s.mCt f).per = s.per := rfl
@[simp] theorem State.mCt_sa (f : Ct → Ct) (s : State) : (s.mCt f).sa = s.sa := rfl
@[simp] theorem State.mCt_mem (f : Ct → Ct) (s : State) : (s.mCt f).mem = s.mem := rfl
@[simp] theorem State.mCt_vu (f : Ct → Ct) (s : State) : (s.mCt f).vu = s.vu := rfl
@[simp] theorem State.mCt_ym (f : Ct → Ct) (s : State) : (s.mCt f).ym = s.ym := rfl
@[simp] theorem State.mCt_hx (f : Ct → Ct) (s : State) : (s.mCt f).hx = s.hx := rfl
@[simp] theorem State.mCt_fr (f : Ct → Ct) (s : State) : (s.mCt f).fr = s.fr := rfl
@[simp] theorem State.mCt_ts (f : Ct → Ct) (s : State) : (s.mCt f).ts = s.ts := rfl
@[simp] theorem State.mCt_sec (f : Ct → Ct) (s : State) : (s.mCt f).sec = s.sec := rfl
@[simp] theorem State.mCt_ob (f : Ct → Ct) (s : State) : (s.mCt f).ob = s.ob := rfl

/-! ### `State.mLed` -/

@[simp] theorem State.mLed_pending (f : Led → Led) (s : State) : (s.mLed f).pending = s.pending := rfl
@[simp] theorem State.mLed_now (f : Led → Led) (s : State) : (s.mLed f).now = s.now := rfl
@[simp] theorem State.mLed_nowFrac (f : Led → Led) (s : State) : (s.mLed f).nowFrac = s.nowFrac := rfl
@[simp] theorem State.mLed_draws (f : Led → Led) (s : State) : (s.mLed f).draws = s.draws := rfl
@[simp] theorem State.mLed_nv (f : Led → Led) (s : State) : (s.mLed f).nv = s.nv := rfl
@[simp] theorem State.mLed_ports (f : Led → Led) (s : State) : (s.mLed f).ports = s.ports := rfl
@[simp] theorem State.mLed_expert (f : Led → Led) (s : State) : (s.mLed f).expert = s.expert := rfl
@[simp] theorem State.mLed_cfg (f : Led → Led) (s : State) : (s.mLed f).cfg = s.cfg := rfl
@[simp] theorem State.mLed_fc (f : Led → Led) (s : State) : (s.mLed f).fc = s.fc := rfl
@[simp] theorem State.mLed_ct (f : Led → Led) (s : State) : (s.mLed f).ct = s.ct := rfl
@[simp] theorem State.mLed_led (f : Led → Led) (s : State) : (s.mLed f).led = f s.led := rfl
@[simp] theorem State.mLed_twc (f : Led → Led) (s : State) : (s.mLed f).twc = s.twc := rfl
@[simp] theorem State.mLed_per (f : Led → Led) (s : State) : (s.mLed f).per = s.per := rfl
@[simp] theorem State.mLed_sa (f : Led → Led) (s : State) : (s.mLed f).sa = s.sa := rfl
@[simp] theorem State.mLed_mem (f : Led → Led) (s : State) : (s.mLed f).mem = s.mem := rfl
@[simp] theorem State.mLed_vu (f : Led → Led) (s : State) : (s.mLed f).vu = s.vu := rfl
@[simp] theorem State.mLed_ym (f : Led → Led) (s : State) : (s.mLed f).ym = s.ym := rfl
@[simp] theorem State.mLed_hx (f : Led → Led) (s : State) : (s.mLed f).hx = s.hx := rfl
@[simp] theorem State.mLed_fr (f : Led → Led) (s : State) : (s.mLed f).fr = s.fr := rfl
@[simp] theorem State.mLed_ts (f : Led → Led) (s : State) : (s.mLed f).ts = s.ts := rfl
@[simp] theorem State.mLed_sec (f : Led → Led) (s : State) : (s.mLed f).sec = s.sec := rfl
@[simp] theorem State.mLed_ob (f : Led → Led) (s : State) : (s.mLed f).ob = s.ob := rfl

/-! ### `State.mTwc` -/

@[simp] theorem State.mTwc_pending (f : Twc → Twc) (s : State) : (s.mTwc f).pending = s.pending := rfl
@[simp] theorem State.mTwc_now (f : Twc → Twc) (s : State) : (s.mTwc f).now = s.now := rfl
@[simp] theorem State.mTwc_nowFrac (f : Twc → Twc) (s : State) : (s.mTwc f).nowFrac = s.nowFrac := rfl
@[simp] theorem State.mTwc_draws (f : Twc → Twc) (s : State) : (s.mTwc f).draws = s.draws := rfl
@[simp] theorem State.mTwc_nv (f : Twc → Twc) (s : State) : (s.mTwc f).nv = s.nv := rfl
@[simp] theorem State.mTwc_ports (f : Twc → Twc) (s : State) : (s.mTwc f).ports = s.ports := rfl
@[simp] theorem State.mTwc_expert (f : Twc → Twc) (s : State) : (s.mTwc f).expert = s.expert := rfl
@[simp] theorem State.mTwc_cfg (f : Twc → Twc) (s : State) : (s.mTwc f).cfg = s.cfg := rfl
@[simp] theorem State.mTwc_fc (f : Twc → Twc) (s : State) : (s.mTwc f).fc = s.fc := rfl
@[simp] theorem State.mTwc_ct (f : Twc → Twc) (s : State) : (s.mTwc f).ct = s.ct := rfl
@[simp] theorem State.mTwc_led (f : Twc → Twc) (s : State) : (s.mTwc f).led = s.led := rfl
@[simp] theorem State.mTwc_twc (f : Twc → Twc) (s : State) : (s.mTwc f).twc = f s.twc := rfl
@[simp] theorem State.mTwc_per (f : Twc → Twc) (s : State) : (s.mTwc f).per = s.per := rfl
@[simp] theorem State.mTwc_sa (f : Twc → Twc) (s : State) : (s.mTwc f).sa = s.sa := rfl
@[simp] theorem State.mTwc_mem (f : Twc → Twc) (s : State) : (s.mTwc f).mem = s.mem := rfl
@[simp] theorem State.mTwc_vu (f : Twc → Twc) (s : State) : (s.mTwc f).vu = s.vu := rfl
@[simp] theorem State.mTwc_ym (f : Twc → Twc) (s : State) : (s.mTwc f).ym = s.ym := rfl
@[simp] theorem State.mTwc_hx (f : Twc → Twc) (s : State) : (s.mTwc f).hx = s.hx := rfl
@[simp] theorem State.mTwc_fr (f : Twc → Twc) (s : State) : (s.mTwc f).fr = s.fr := rfl
@[simp] theorem State.mTwc_ts (f : Twc → Twc) (s : State) : (s.mTwc f).ts = s.ts := rfl
@[simp] theorem State.mTwc_sec (f : Twc → Twc) (s : State) : (s.mTwc f).sec = s.sec := rfl
@[simp] theorem State.mTwc_ob (f : Twc → Twc) (s : State) : (s.mTwc f).ob = s.ob := rfl

/-! ### `State.mPer` -/

@[simp] theorem State.mPer_pending (f : Per → Per) (s : State) : (s.mPer f).pending = s.pending := rfl
@[simp] theorem State.mPer_now (f : Per → Per) (s : State) : (s.mPer f).now = s.now := rfl
@[simp] theorem State.mPer_nowFrac (f : Per → Per) (s : State) : (s.mPer f).nowFrac = s.nowFrac := rfl
@[simp] theorem State.mPer_draws (f : Per → Per) (s : State) : (s.mPer f).draws = s.draws := rfl
@[simp] theorem State.mPer_nv (f : Per → Per) (s : State) : (s.mPer f).nv = s.nv := rfl
@[simp] theorem State.mPer_ports (f : Per → Per) (s : State) : (s.mPer f).ports = s.ports := rfl
@[simp] theorem State.mPer_expert (f : Per → Per) (s : State) : (s.mPer f).expert = s.expert := rfl
@[simp] theorem State.mPer_cfg (f : Per → Per) (s : State) : (s.mPer f).cfg = s.cfg := rfl
@[simp] theorem State.mPer_fc (f : Per → Per) (s : State) : (s.mPer f).fc = s.fc := rfl
@[simp] theorem State.mPer_ct (f : Per → Per) (s : State) : (s.mPer f).ct = s.ct := rfl
@[simp] theorem State.mPer_led (f : Per → Per) (s : State) : (s.mPer f).led = s.led := rfl
@[simp] theorem State.mPer_twc (f : Per → Per) (s : State) : (s.mPer f).twc = s.twc := rfl
@[simp] theorem State.mPer_per (f : Per → Per) (s : State) : (s.mPer f).per = f s.per := rfl
@[simp] theorem State.mPer_sa (f : Per → Per) (s : State) : (s.mPer f).sa = s.sa := rfl
@[simp] theorem State.mPer_mem (f : Per → Per) (s : State) : (s.mPer f).mem = s.mem := rfl
@[simp] theorem State.mPer_vu (f : Per → Per) (s : State) : (s.mPer f).vu = s.vu := rfl
@[simp] theorem State.mPer_ym (f : Per → Per) (s : State) : (s.mPer f).ym = s.ym := rfl
@[simp] theorem State.mPer_hx (f : Per → Per) (s : State) : (s.mPer f).hx = s.hx := rfl
@[simp] theorem State.mPer_fr (f : Per → Per) (s : State) : (s.mPer f).fr = s.fr := rfl
@[simp] theorem State.mPer_ts (f : Per → Per) (s : State) : (s.mPer f).ts = s.ts := rfl
@[simp] theorem State.mPer_sec (f : Per → Per) (s : State) : (s.mPer f).sec = s.sec := rfl
@[simp] theorem State.mPer_ob (f : Per → Per) (s : State) : (s.mPer f).ob = s.ob := rfl

/-! ### `State.mSa` -/

@[simp] theorem State.mSa_pending (f : Sa → Sa) (s : State) : (s.mSa f).pending = s.pending := rfl
@[simp] theorem State.mSa_now (f : Sa → Sa) (s : State) : (s.mSa f).now = s.now := rfl
@[simp] theorem State.mSa_nowFrac (f : Sa → Sa) (s : State) : (s.mSa f).nowFrac = s.nowFrac := rfl
@[simp] theorem State.mSa_draws (f : Sa → Sa) (s : State) : (s.mSa f).draws = s.draws := rfl
@[simp] theorem State.mSa_nv (f : Sa → Sa) (s : State) : (s.mSa f).nv = s.nv := rfl
@[simp] theorem State.mSa_ports (f : Sa → Sa) (s : State) : (s.mSa f).ports = s.ports := rfl
@[simp] theorem State.mSa_expert (f : Sa → Sa) (s : State) : (s.mSa f).expert = s.expert := rfl
@[simp] theorem State.mSa_cfg (f : Sa → Sa) (s : State) : (s.mSa f).cfg = s.cfg := rfl
@[simp] theorem State.mSa_fc (f : Sa → Sa) (s : State) : (s.mSa f).fc = s.fc := rfl
@[simp] theorem State.mSa_ct (f : Sa → Sa) (s : State) : (s.mSa f).ct = s.ct := rfl
@[simp] theorem State.mSa_led (f : Sa → Sa) (s : State) : (s.mSa f).led = s.led := rfl
@[simp] theorem State.mSa_twc (f : Sa → Sa) (s : State) : (s.mSa f).twc = s.twc := rfl
@[simp] theorem State.mSa_per (f : Sa → Sa) (s : State) : (s.mSa f).per = s.per := rfl
@[simp] theorem State.mSa_sa (f : Sa → Sa) (s : State) : (s.mSa f).sa = f s.sa := rfl
@[simp] theorem State.mSa_mem (f : Sa → Sa) (s : State) : (s.mSa f).mem = s.mem := rfl
@[simp] theorem State.mSa_vu (f : Sa → Sa) (s : State) : (s.mSa f).vu = s.vu := rfl
@[simp] theorem State.mSa_ym (f : Sa → Sa) (s : State) : (s.mSa f).ym = s.ym := rfl
@[simp] theorem State.mSa_hx (f : Sa → Sa) (s : State) : (s.mSa f).hx = s.hx := rfl
@[simp] theorem State.mSa_fr (f : Sa → Sa) (s : State) : (s.mSa f).fr = s.fr := rfl
@[simp] theorem State.mSa_ts (f : Sa → Sa) (s : State) : (s.mSa f).ts = s.ts := rfl
@[simp] theorem State.mSa_sec (f : Sa → Sa) (s : State) : (s.mSa f).sec = s.sec := rfl
@[simp] theorem State.mSa_ob (f : Sa → Sa) (s : State) : (s.mSa f).ob = s.ob := rfl

/-! ### `State.mMem` -/

@[simp] theorem State.mMem_pending (f : MemSt → MemSt) (s : State) : (s.mMem f).pending = s.pending := rfl
@[simp] theorem State.mMem_now (f : MemSt → MemSt) (s : State) : (s.mMem f).now = s.now := rfl
@[simp] theorem State.mMem_nowFrac (f : MemSt → MemSt) (s : State) : (s.mMem f).nowFrac = s.nowFrac := rfl
@[simp] theorem State.mMem_draws (f : MemSt → MemSt) (s : State) : (s.mMem f).draws = s.draws := rfl
@[simp] theorem State.mMem_nv (f : MemSt → MemSt) (s : State) : (s.mMem f).nv = s.nv := rfl
@[simp] theorem State.mMem_ports (f : MemSt → MemSt) (s : State) : (s.mMem f).ports = s.ports := rfl
@[simp] theorem State.mMem_expert (f : MemSt → MemSt) (s : State) : (s.mMem f).expert = s.expert := rfl
@[simp] theorem State.mMem_cfg (f : MemSt → MemSt) (s : State) : (s.mMem f).cfg = s.cfg := rfl
@[simp] theorem State.mMem_fc (f : MemSt → MemSt) (s : State) : (s.mMem f).fc = s.fc := rfl
@[simp] theorem State.mMem_ct (f : MemSt → MemSt) (s : State) : (s.mMem f).ct = s.ct := rfl
@[simp] theorem State.mMem_led (f : MemSt → MemSt) (s : State) : (s.mMem f).led = s.led := rfl
@[simp] theorem State.mMem_twc (f : MemSt → MemSt) (s : State) : (s.mMem f).twc = s.twc := rfl
@[simp] theorem State.mMem_per (f : MemSt → MemSt) (s : State) : (s.mMem f).per = s.per := rfl
@[simp] theorem State.mMem_sa (f : MemSt → MemSt) (s : State) : (s.mMem f).sa = s.sa := rfl
@[simp] theorem State.mMem_mem (f : MemSt → MemSt) (s : State) : (s.mMem f).mem = f s.mem := rfl
@[simp] theorem State.mMem_vu (f : MemSt → MemSt) (s : State) : (s.mMem f).vu = s.vu := rfl
@[simp] theorem State.mMem_ym (f : MemSt → MemSt) (s : State) : (s.mMem f).ym = s.ym := rfl
@[simp] theorem State.mMem_hx (f : MemSt → MemSt) (s : State) : (s.mMem f).hx = s.hx := rfl
@[simp] theorem State.mMem_fr (f : MemSt → MemSt) (s : State) : (s.mMem f).fr = s.fr := rfl
@[simp] theorem State.mMem_ts (f : MemSt → MemSt) (s : State) : (s.mMem f).ts = s.ts := rfl
@[simp] theorem State.mMem_sec (f : MemSt → MemSt) (s : State) : (s.mMem f).sec = s.sec := rfl
@[simp] theorem State.mMem_ob (f : MemSt → MemSt) (s : State) : (s.mMem f).ob = s.ob := rfl

/-! ### `State.mVu` -/

@[simp] theorem State.mVu_pending (f : Vu → Vu) (s : State) : (s.mVu f).pending = s.pending := rfl
@[simp] theorem State.mVu_now (f : Vu → Vu) (s : State) : (s.mVu f).now = s.now := rfl
@[simp] theorem State.mVu_nowFrac (f : Vu → Vu) (s : State) : (s.mVu f).nowFrac = s.nowFrac := rfl
@[simp] theorem State.mVu_draws (f : Vu → Vu) (s : State) : (s.mVu f).draws = s.draws := rfl
@[simp] theorem State.mVu_nv (f : Vu → Vu) (s : State) : (s.mVu f).nv = s.nv := rfl
@[simp] theorem State.mVu_ports (f : Vu → Vu) (s : State) : (s.mVu f).ports = s.ports := rfl
@[simp] theorem State.mVu_expert (f : Vu → Vu) (s : State) : (s.mVu f).expert = s.expert := rfl
@[simp] theorem State.mVu_cfg (f : Vu → Vu) (s : State) : (s.mVu f).cfg = s.cfg := rfl
@[simp] theorem State.mVu_fc (f : Vu → Vu) (s : State) : (s.mVu f).fc = s.fc := rfl
@[simp] theorem State.mVu_ct (f : Vu → Vu) (s : State) : (s.mVu f).ct = s.ct := rfl
@[simp] theorem State.mVu_led (f : Vu → Vu) (s : State) : (s.mVu f).led = s.led := rfl
@[simp] theorem State.mVu_twc (f : Vu → Vu) (s : State) : (s.mVu f).twc = s.twc := rfl
@[simp] theorem State.mVu_per (f : Vu → Vu) (s : State) : (s.mVu f).per = s.per := rfl
@[simp] theorem State.mVu_sa (f : Vu → Vu) (s : State) : (s.mVu f).sa = s.sa := rfl
@[simp] theorem State.mVu_mem (f : Vu → Vu) (s : State) : (s.mVu f).mem = s.mem := rfl
@[simp] theorem State.mVu_vu (f : Vu → Vu) (s : State) : (s.mVu f).vu = f s.vu := rfl
@[simp] theorem State.mVu_ym (f : Vu → Vu) (s : State) : (s.mVu f).ym = s.ym := rfl
@[simp] theorem State.mVu_hx (f : Vu → Vu) (s : State) : (s.mVu f).hx = s.hx := rfl
@[simp] theorem State.mVu_fr (f : Vu → Vu) (s : State) : (s.mVu f).fr = s.fr := rfl
@[simp] theorem State.mVu_ts (f : Vu → Vu) (s : State) : (s.mVu f).ts = s.ts := rfl
@[simp] theorem State.mVu_sec (f : Vu → Vu) (s : State) : (s.mVu f).sec = s.sec := rfl
@[simp] theorem State.mVu_ob (f : Vu → Vu) (s : State) : (s.mVu f).ob = s.ob := rfl

/-! ### `State.mYm` -/

@[simp] theorem State.mYm_pending (f : Ym → Ym) (s : State) : (s.mYm f).pending = s.pending := rfl
@[simp] theorem State.mYm_now (f : Ym → Ym) (s : State) : (s.mYm f).now = s.now := rfl
@[simp] theorem State.mYm_nowFrac (f : Ym → Ym) (s : State) : (s.mYm f).nowFrac = s.nowFrac := rfl
@[simp] theorem State.mYm_draws (f : Ym → Ym) (s : State) : (s.mYm f).draws = s.draws := rfl
@[simp] theorem State.mYm_nv (f : Ym → Ym) (s : State) : (s.mYm f).nv = s.nv := rfl
@[simp] theorem State.mYm_ports (f : Ym → Ym) (s : State) : (s.mYm f).ports = s.ports := rfl
@[simp] theorem State.mYm_expert (f : Ym → Ym) (s : State) : (s.mYm f).expert = s.expert := rfl
@[simp] theorem State.mYm_cfg (f : Ym → Ym) (s : State) : (s.mYm f).cfg = s.cfg := rfl
@[simp] theorem State.mYm_fc (f : Ym → Ym) (s : State) : (s.mYm f).fc = s.fc := rfl
@[simp] theorem State.mYm_ct (f : Ym → Ym) (s : State) : (s.mYm f).ct = s.ct := rfl
@[simp] theorem State.mYm_led (f : Ym → Ym) (s : State) : (s.mYm f).led = s.led := rfl
@[simp] theorem State.mYm_twc (f : Ym → Ym) (s : State) : (s.mYm f).twc = s.twc := rfl
@[simp] theorem State.mYm_per (f : Ym → Ym) (s : State) : (s.mYm f).per = s.per := rfl
@[simp] theorem State.mYm_sa (f : Ym → Ym) (s : State) : (s.mYm f).sa = s.sa := rfl
@[simp] theorem State.mYm_mem (f : Ym → Ym) (s : State) : (s.mYm f).mem = s.mem := rfl
@[simp] theorem State.mYm_vu (f : Ym → Ym) (s : State) : (s.mYm f).vu = s.vu := rfl
@[simp] theorem State.mYm_ym (f : Ym → Ym) (s : State) : (s.mYm f).ym = f s.ym := rfl
@[simp] theorem State.mYm_hx (f : Ym → Ym) (s : State) : (s.mYm f).hx = s.hx := rfl
@[simp] theorem State.mYm_fr (f : Ym → Ym) (s : State) : (s.mYm f).fr = s.fr := rfl
@[simp] theorem State.mYm_ts (f : Ym → Ym) (s : State) : (s.mYm f).ts = s.ts := rfl
@[simp] theorem State.mYm_sec (f : Ym → Ym) (s : State) : (s.mYm f).sec = s.sec := rfl
@[simp] theorem State.mYm_ob (f : Ym → Ym) (s : State) : (s.mYm f).ob = s.ob := rfl

/-! ### `State.mHx` -/

@[simp] theorem State.mHx_pending (f : Hx → Hx) (s : State) : (s.mHx f).pending = s.pending := rfl
@[simp] theorem State.mHx_now (f : Hx → Hx) (s : State) : (s.mHx f).now = s.now := rfl
@[simp] theorem State.mHx_nowFrac (f : Hx → Hx) (s : State) : (s.mHx f).nowFrac = s.nowFrac := rfl
@[simp] theorem State.mHx_draws (f : Hx → Hx) (s : State) : (s.mHx f).draws = s.draws := rfl
@[simp] theorem State.mHx_nv (f : Hx → Hx) (s : State) : (s.mHx f).nv = s.nv := rfl
@[simp] theorem State.mHx_ports (f : Hx → Hx) (s : State) : (s.mHx f).ports = s.ports := rfl
@[simp] theorem State.mHx_expert (f : Hx → Hx) (s : State) : (s.mHx f).expert = s.expert := rfl
@[simp] theorem State.mHx_cfg (f : Hx → Hx) (s : State) : (s.mHx f).cfg = s.cfg := rfl
@[simp] theorem State.mHx_fc (f : Hx → Hx) (s : State) : (s.mHx f).fc = s.fc := rfl
@[simp] theorem State.mHx_ct (f : Hx → Hx) (s : State) : (s.mHx f).ct = s.ct := rfl
@[simp] theorem State.mHx_led (f : Hx → Hx) (s : State) : (s.mHx f).led = s.led := rfl
@[simp] theorem State.mHx_twc (f : Hx → Hx) (s : State) : (s.mHx f).twc = s.twc := rfl
@[simp] theorem State.mHx_per (f : Hx → Hx) (s : State) : (s.mHx f).per = s.per := rfl
@[simp] theorem State.mHx_sa (f : Hx → Hx) (s : State) : (s.mHx f).sa = s.sa := rfl
@[simp] theorem State.mHx_mem (f : Hx → Hx) (s : State) : (s.mHx f).mem = s.mem := rfl
@[simp] theorem State.mHx_vu (f : Hx → Hx) (s : State) : (s.mHx f).vu = s.vu := rfl
@[simp] theorem State.mHx_ym (f : Hx → Hx) (s : State) : (s.mHx f).ym = s.ym := rfl
@[simp] theorem State.mHx_hx (f : Hx → Hx) (s : State) : (s.mHx f).hx = f s.hx := rfl
@[simp] theorem State.mHx_fr (f : Hx → Hx) (s : State) : (s.mHx f).fr = s.fr := rfl
@[simp] theorem State.mHx_ts (f : Hx → Hx) (s : State) : (s.mHx f).ts = s.ts := rfl
@[simp] theorem State.mHx_sec (f : Hx → Hx) (s : State) : (s.mHx f).sec = s.sec := rfl
@[simp] theorem State.mHx_ob (f : Hx → Hx) (s : State) : (s.mHx f).ob = s.ob := rfl

/-! ### `State.mFr` -/

@[simp] theorem State.mFr_pending (f : Fr → Fr) (s : State) : (s.mFr f).pending = s.pending := rfl
@[simp] theorem State.mFr_now (f : Fr → Fr) (s : State) : (s.mFr f).now = s.now := rfl
@[simp] theorem State.mFr_nowFrac (f : Fr → Fr) (s : State) : (s.mFr f).nowFrac = s.nowFrac := rfl
@[simp] theorem State.mFr_draws (f : Fr → Fr) (s : State) : (s.mFr f).draws = s.draws := rfl
@[simp] theorem State.mFr_nv (f : Fr → Fr) (s : State) : (s.mFr f).nv = s.nv := rfl
@[simp] theorem State.mFr_ports (f : Fr → Fr) (s : State) : (s.mFr f).ports = s.ports := rfl
@[simp] theorem State.mFr_expert (f : Fr → Fr) (s : State) : (s.mFr f).expert = s.expert := rfl
@[simp] theorem State.mFr_cfg (f : Fr → Fr) (s : State) : (s.mFr f).cfg = s.cfg := rfl
@[simp] theorem State.mFr_fc (f : Fr → Fr) (s : State) : (s.mFr f).fc = s.fc := rfl
@[simp] theorem State.mFr_ct (f : Fr → Fr) (s : State) : (s.mFr f).ct = s.ct := rfl
@[simp] theorem State.mFr_led (f : Fr → Fr) (s : State) : (s.mFr f).led = s.led := rfl
@[simp] theorem State.mFr_twc (f : Fr → Fr) (s : State) : (s.mFr f).twc = s.twc := rfl
@[simp] theorem State.mFr_per (f : Fr → Fr) (s : State) : (s.mFr f).per = s.per := rfl
@[simp] theorem State.mFr_sa (f : Fr → Fr) (s : State) : (s.mFr f).sa = s.sa := rfl
@[simp] theorem State.mFr_mem (f : Fr → Fr) (s : State) : (s.mFr f).mem = s.mem := rfl
@[simp] theorem State.mFr_vu (f : Fr → Fr) (s : State) : (s.mFr f).vu = s.vu := rfl
@[simp] theorem State.mFr_ym (f : Fr → Fr) (s : State) : (s.mFr f).ym = s.ym := rfl
@[simp] theorem State.mFr_hx (f : Fr → Fr) (s : State) : (s.mFr f).hx = s.hx := rfl
@[simp] theorem State.mFr_fr (f : Fr → Fr) (s : State) : (s.mFr f).fr = f s.fr := rfl
@[simp] theorem State.mFr_ts (f : Fr → Fr) (s : State) : (s.mFr f).ts = s.ts := rfl
@[simp] theorem State.mFr_sec (f : Fr → Fr) (s : State) : (s.mFr f).sec = s.sec := rfl
@[simp] theorem State.mFr_ob (f : Fr → Fr) (s : State) : (s.mFr f).ob = s.ob := rfl

/-! ### `State.mTs` -/

@[simp] theorem State.mTs_pending (f : Ts → Ts) (s : State) : (s.mTs f).pending = s.pending := rfl
@[simp] theorem State.mTs_now (f : Ts → Ts) (s : State) : (s.mTs f).now = s.now := rfl
@[simp] theorem State.mTs_nowFrac (f : Ts → Ts) (s : State) : (s.mTs f).nowFrac = s.nowFrac := rfl
@[simp] theorem State.mTs_draws (f : Ts → Ts) (s : State) : (s.mTs f).draws = s.draws := rfl
@[simp] theorem State.mTs_nv (f : Ts → Ts) (s : State) : (s.mTs f).nv = s.nv := rfl
@[simp] theorem State.mTs_ports (f : Ts → Ts) (s : State) : (s.mTs f).ports = s.ports := rfl
@[simp] theorem State.mTs_expert (f : Ts → Ts) (s : State) : (s.mTs f).expert = s.expert := rfl
@[simp] theorem State.mTs_cfg (f : Ts → Ts) (s : State) : (s.mTs f).cfg = s.cfg := rfl
@[simp] theorem State.mTs_fc (f : Ts → Ts) (s : State) : (s.mTs f).fc = s.fc := rfl
@[simp] theorem State.mTs_ct (f : Ts → Ts) (s : State) : (s.mTs f).ct = s.ct := rfl
@[simp] theorem State.mTs_led (f : Ts → Ts) (s : State) : (s.mTs f).led = s.led := rfl
@[simp] theorem State.mTs_twc (f : Ts → Ts) (s : State) : (s.mTs f).twc = s.twc := rfl
@[simp] theorem State.mTs_per (f : Ts → Ts) (s : State) : (s.mTs f).per = s.per := rfl
@[simp] theorem State.mTs_sa (f : Ts → Ts) (s : State) : (s.mTs f).sa = s.sa := rfl
@[simp] theorem State.mTs_mem (f : Ts → Ts) (s : State) : (s.mTs f).mem = s.mem := rfl
@[simp] theorem State.mTs_vu (f : Ts → Ts) (s : State) : (s.mTs f).vu = s.vu := rfl
@[simp] theorem State.mTs_ym (f : Ts → Ts) (s : State) : (s.mTs f).ym = s.ym := rfl
@[simp] theorem State.mTs_hx (f : Ts → Ts) (s : State) : (s.mTs f).hx = s.hx := rfl
@[simp] theorem State.mTs_fr (f : Ts → Ts) (s : State) : (s.mTs f).fr = s.fr := rfl
@[simp] theorem State.mTs_ts (f : Ts → Ts) (s : State) : (s.mTs f).ts = f s.ts := rfl
@[simp] theorem State.mTs_sec (f : Ts → Ts) (s : State) : (s.mTs f).sec = s.sec := rfl
@[simp] theorem State.mTs_ob (f : Ts → Ts) (s : State) : (s.mTs f).ob = s.ob := rfl

/-! ### `State.mSec` -/

@[simp] theorem State.mSec_pending (f : Sec → Sec) (s : State) : (s.mSec f).pending = s.pending := rfl
@[simp] theorem State.mSec_now (f : Sec → Sec) (s : State) : (s.mSec f).now = s.now := rfl
@[simp] theorem State.mSec_nowFrac (f : Sec → Sec) (s : State) : (s.mSec f).nowFrac = s.nowFrac := rfl
@[simp] theorem State.mSec_draws (f : Sec → Sec) (s : State) : (s.mSec f).draws = s.draws := rfl
@[simp] theorem State.mSec_nv (f : Sec → Sec) (s : State) : (s.mSec f).nv = s.nv := rfl
@[simp] theorem State.mSec_ports (f : Sec → Sec) (s : State) : (s.mSec f).ports = s.ports := rfl
@[simp] theorem State.mSec_expert (f : Sec → Sec) (s : State) : (s.mSec f).expert = s.expert := rfl
@[simp] theorem State.mSec_cfg (f : Sec → Sec) (s : State) : (s.mSec f).cfg = s.cfg := rfl
@[simp] theorem State.mSec_fc (f : Sec → Sec) (s : State) : (s.mSec f).fc = s.fc := rfl
@[simp] theorem State.mSec_ct (f : Sec → Sec) (s : State) : (s.mSec f).ct = s.ct := rfl
@[simp] theorem State.mSec_led (f : Sec → Sec) (s : State) : (s.mSec f).led = s.led := rfl
@[simp] theorem State.mSec_twc (f : Sec → Sec) (s : State) : (s.mSec f).twc = s.twc := rfl
@[simp] theorem State.mSec_per (f : Sec → Sec) (s : State) : (s.mSec f).per = s.per := rfl
@[simp] theorem State.mSec_sa (f : Sec → Sec) (s : State) : (s.mSec f).sa = s.sa := rfl
@[simp] theorem State.mSec_mem (f : Sec → Sec) (s : State) : (s.mSec f).mem = s.mem := rfl
@[simp] theorem State.mSec_vu (f : Sec → Sec) (s : State) : (s.mSec f).vu = s.vu := rfl
@[simp] theorem State.mSec_ym (f : Sec → Sec) (s : State) : (s.mSec f).ym = s.ym := rfl
@[simp] theorem State.mSec_hx (f : Sec → Sec) (s : State) : (s.mSec f).hx = s.hx := rfl
@[simp] theorem State.mSec_fr (f : Sec → Sec) (s : State) : (s.mSec f).fr = s.fr := rfl
@[simp] theorem State.mSec_ts (f : Sec → Sec) (s : State) : (s.mSec f).ts = s.ts := rfl
@[simp] theorem State.mSec_sec (f : Sec → Sec) (s : State) : (s.mSec f).sec = f s.sec := rfl
@[simp] theorem State.mSec_ob (f : Sec → Sec) (s : State) : (s.mSec f).ob = s.ob := rfl

/-! ### `State.mOb` -/

@[simp] theorem State.mOb_pending (f : Ob → Ob) (s : State) : (s.mOb f).pending = s.pending := rfl
@[simp] theorem State.mOb_now (f : Ob → Ob) (s : State) : (s.mOb f).now = s.now := rfl
@[simp] theorem State.mOb_nowFrac (f : Ob → Ob) (s : State) : (s.mOb f).nowFrac = s.nowFrac := rfl
@[simp] theorem State.mOb_draws (f : Ob → Ob) (s : State) : (s.mOb f).draws = s.draws := rfl
@[simp] theorem State.mOb_nv (f : Ob → Ob) (s : State) : (s.mOb f).nv = s.nv := rfl
@[simp] theorem State.mOb_ports (f : Ob → Ob) (s : State) : (s.mOb f).ports = s.ports := rfl
@[simp] theorem State.mOb_expert (f : Ob → Ob) (s : State) : (s.mOb f).expert = s.expert := rfl
@[simp] theorem State.mOb_cfg (f : Ob → Ob) (s : State) : (s.mOb f).cfg = s.cfg := rfl
@[simp] theorem State.mOb_fc (f : Ob → Ob) (s : State) : (s.mOb f).fc = s.fc := rfl
@[simp] theorem State.mOb_ct (f : Ob → Ob) (s : State) : (s.mOb f).ct = s.ct := rfl
@[simp] theorem State.mOb_led (f : Ob → Ob) (s : State) : (s.mOb f).led = s.led := rfl
@[simp] theorem State.mOb_twc (f : Ob → Ob) (s : State) : (s.mOb f).twc = s.twc := rfl
@[simp] theorem State.mOb_per (f : Ob → Ob) (s : State) : (s.mOb f).per = s.per := rfl
@[simp] theorem State.mOb_sa (f : Ob → Ob) (s : State) : (s.mOb f).sa = s.sa := rfl
@[simp] theorem State.mOb_mem (f : Ob → Ob) (s : State) : (s.mOb f).mem = s.mem := rfl
@[simp] theorem State.mOb_vu (f : Ob → Ob) (s : State) : (s.mOb f).vu = s.vu := rfl
@[simp] theorem State.mOb_ym (f : Ob → Ob) (s : State) : (s.mOb f).ym = s.ym := rfl
@[simp] theorem State.mOb_hx (f : Ob → Ob) (s : State) : (s.mOb f).hx = s.hx := rfl
@[simp] theorem State.mOb_fr (f : Ob → Ob) (s : State) : (s.mOb f).fr = s.fr := rfl
@[simp] theorem State.mOb_ts (f : Ob → Ob) (s : State) : (s.mOb f).ts = s.ts := rfl
@[simp] theorem State.mOb_sec (f : Ob → Ob) (s : State) : (s.mOb f).sec = s.sec := rfl
@[simp] theorem State.mOb_ob (f : Ob → Ob) (s : State) : (s.mOb f).ob = f s.ob := rfl

/-! ### `State.draw` -/

@[simp] theorem State.draw_pending (s : State) : s.draw.2.pending = s.pending := rfl
@[simp] theorem State.draw_now (s : State) : s.draw.2.now = s.now := rfl
@[simp] theorem State.draw_nowFrac (s : State) : s.draw.2.nowFrac = s.nowFrac := rfl
@[simp] theorem State.draw_draws (s : State) : s.draw.2.draws = s.draws + 1 := rfl
@[simp] theorem State.draw_nv (s : State) : s.draw.2.nv = s.nv := rfl
@[simp] theorem State.draw_ports (s : State) : s.draw.2.ports = s.ports := rfl
@[simp] theorem State.draw_expert (s : State) : s.draw.2.expert = s.expert := rfl
@[simp] theorem State.draw_cfg (s : State) : s.draw.2.cfg = s.cfg := rfl
@[simp] theorem State.draw_fc (s : State) : s.draw.2.fc = s.fc := rfl
@[simp] theorem State.draw_ct (s : State) : s.draw.2.ct = s.ct := rfl
@[simp] theorem State.draw_led (s : State) : s.draw.2.led = s.led := rfl
@[simp] theorem State.draw_twc (s : State) : s.draw.2.twc = s.twc := rfl
@[simp] theorem State.draw_per (s : State) : s.draw.2.per = s.per := rfl
@[simp] theorem State.draw_sa (s : State) : s.draw.2.sa = s.sa := rfl
@[simp] theorem State.draw_mem (s : State) : s.draw.2.mem = s.mem := rfl
@[simp] theorem State.draw_vu (s : State) : s.draw.2.vu = s.vu := rfl
@[simp] theorem State.draw_ym (s : State) : s.draw.2.ym = s.ym := rfl
@[simp] theorem State.draw_hx (s : State) : s.draw.2.hx = s.hx := rfl
@[simp] theorem State.draw_fr (s : State) : s.draw.2.fr = s.fr := rfl
@[simp] theorem State.draw_ts (s : State) : s.draw.2.ts = s.ts := rfl
@[simp] theorem State.draw_sec (s : State) : s.draw.2.sec = s.sec := rfl
@[simp] theorem State.draw_ob (s : State) : s.draw.2.ob = s.ob := rfl

@[simp] theorem State.draw_value (s : State) : s.draw.1 = s.draws := rfl

end Sys2Proof.Machine
end

