-- ==== Sys2Proof/Laws/Accept.lean ====
section
/-!
SUPPORT. What comes before a command's own effect: a packet that R511 lets pass, a write that the privilege allows, a slot
that exists.
-/
namespace Sys2Proof.Machine

theorem ingress_arrives {kind : Nat} {sub : Option Nat} {p : Ingress} {s : State} (f : State → State)
    (h : Arrives kind p s) (hs : sub = none ∨ sub = some p.sub) : ingress kind sub p f s = f s := by
  obtain ⟨h1, h2, h3⟩ := h
  unfold ingress
  rw [h1, h2, if_neg (by decide), if_neg (by decide), if_pos ⟨h3, hs⟩]

theorem recordPacket_arrives {kind : Nat} {p : Ingress} {s : State} (f : State → State) (h : Arrives kind p s)
    (hp : partDown s = false) : recordPacket kind p f s = f s := by
  unfold recordPacket
  rw [ingress_arrives _ h (.inl rfl), if_neg (by rw [hp]; decide)]

theorem planPacket_arrives {sub : Nat} {p : Ingress} {s : State} (f : State → State) (h : Arrives 6 p s) (hs : p.sub = sub)
    (hl : isLoader s p.src = true) (hp : partDown s = false) : planPacket sub p f s = f s := by
  unfold planPacket
  rw [ingress_arrives _ h (.inr (by rw [hs])), hl, if_neg (by decide), if_neg (by rw [hp]; decide)]

theorem hrp_up {s : State} (f : State → State) (h : s.ports.rstLow = false) : hrp f s = f s := by
  unfold hrp
  rw [if_neg (by rw [h]; decide)]

theorem operatorWrite_allowed {priv : BitVec 2} {s : State} (f : State → State) (h : s.ports.rstLow = false)
    (hp : isOperator s priv = true) : operatorWrite priv f s = f (answer hsOK 0 s) := by
  unfold operatorWrite
  rw [hrp_up _ h, if_pos hp]

theorem onSlot_exists {slot : Nat} {s : State} (h : slot < 24576) : onSlot slot s = .next s := if_pos h

/-- A completed access answers. -/
theorem answer_hrp (status : Nat) (rdata : W64) (s : State) :
    (answer status rdata s).ports.rstLow = s.ports.rstLow ∧ (s.hx.hostOk = true → (answer status rdata s).ports.hrp =
      { status := BitVec.ofNat 2 status, rdata := rdata }) := by
  constructor
  · exact congrArg Root.rstLow (steady_answer status rdata s).root
  · intro h
    simp only [answer, State.mPorts_hx, h, if_true]
    rfl

end Sys2Proof.Machine
end

