-- ==== Sys2Proof/Laws/Answer.lean ====
section
/-!
SUPPORT. The response of the Host Register Port (R507) stands: counting, recording, reporting and what they send leave it as it is.
-/
namespace Sys2Proof.Machine

/-- The response of the Host Register Port has not changed. -/
def HrpKept (s t : State) : Prop := t.ports.hrp = s.ports.hrp

theorem HrpKept.refl (s : State) : HrpKept s s := rfl
theorem HrpKept.trans {s t u : State} (h : HrpKept s t) (k : HrpKept t u) : HrpKept s u := Eq.trans k h
theorem HrpKept.after {s t u : State} (k : HrpKept t u) (h : HrpKept s t) : HrpKept s u := h.trans k
theorem HrpKept.of_eq {s t : State} (h : t.ports = s.ports) : HrpKept s t := congrArg Ports.hrp h
theorem ans_mPorts (f : Ports → Ports) (s : State) (h : ∀ x, (f x).hrp = x.hrp) : HrpKept s (s.mPorts f) := h s.ports
theorem ans_mHx (f : Hx → Hx) (s : State) : HrpKept s (s.mHx f) := rfl
theorem ans_mPort (p : Nat) (f : Port → Port) (s : State) : HrpKept s (s.mPort p f) := rfl
theorem ans_mOb (f : Ob → Ob) (s : State) : HrpKept s (s.mOb f) := rfl
theorem ans_mFc (f : Fc → Fc) (s : State) : HrpKept s (s.mFc f) := rfl
theorem ans_mLed (f : Led → Led) (s : State) : HrpKept s (s.mLed f) := rfl
theorem ans_mVu (f : Vu → Vu) (s : State) : HrpKept s (s.mVu f) := rfl

theorem ans_foldl {α : Type} (f : State → α → State) (h : ∀ s a, HrpKept s (f s a)) (l : List α) (s : State) :
    HrpKept s (l.foldl f s) := by
  induction l generalizing s with
  | nil => exact HrpKept.refl s
  | cons a l ih => exact (h s a).trans (ih _)

theorem ans_foldl2 {α β : Type} (f : β × State → α → β × State) (h : ∀ x a, HrpKept x.2 (f x a).2)
    (l : List α) (x : β × State) : HrpKept x.2 (l.foldl f x).2 := by
  induction l generalizing x with
  | nil => exact HrpKept.refl _
  | cons a l ih => exact (h x a).trans (ih _)

theorem send_hrp (p : Ports) (e : Egress) : (p.send e).hrp = p.hrp := by
  unfold Ports.send trySend
  dsimp only
  split <;> rfl

theorem ans_bump (k n : Nat) (s : State) : HrpKept s (bump k n s) := by
  unfold bump
  try dsimp only [-Nat.reducePow]
  repeat' first
    | with_reducible exact HrpKept.refl _
    | with_reducible refine (ans_mOb _ _).after ?_

theorem ans_bumpPlan (plan j n : Nat) (s : State) : HrpKept s (bumpPlan plan j n s) := by
  unfold bumpPlan
  try dsimp only [-Nat.reducePow]
  repeat' first
    | with_reducible exact HrpKept.refl _
    | with_reducible refine (ans_mOb _ _).after ?_

theorem ans_bumpCtx (k j ctx n : Nat) (s : State) : HrpKept s (bumpCtx k j ctx n s) := by
  unfold bumpCtx
  try dsimp only [-Nat.reducePow]
  repeat' first
    | with_reducible exact HrpKept.refl _
    | with_reducible refine (ans_bump ..).after ?_
    | with_reducible refine (ans_bumpPlan ..).after ?_
    | intro _
    | split

theorem ans_send (port kind sub : Nat) (dst : Huid) (pre : List W64) (payload : Bytes) (s : State) : HrpKept
    s (send port kind sub dst pre payload s) := by
  unfold send
  try dsimp only [-Nat.reducePow]
  repeat' first
    | with_reducible exact HrpKept.refl _
    | with_reducible refine (ans_mPorts _ _ ?_).after ?_
    | exact fun _ => rfl
    | exact fun _ => send_hrp ..

theorem ans_freeBuffer (e : QEnt) (s : State) : HrpKept s (freeBuffer e s) := by
  unfold freeBuffer
  try dsimp only [-Nat.reducePow]
  repeat' first
    | with_reducible exact HrpKept.refl _
    | with_reducible refine (ans_mPort ..).after ?_
    | intro _
    | split

theorem ans_sendFrame (n : Nat) (e : QEnt) (s : State) : HrpKept s (sendFrame n e s) := by
  unfold sendFrame
  try dsimp only [-Nat.reducePow]
  repeat' first
    | with_reducible exact HrpKept.refl _
    | with_reducible refine (ans_mPorts _ _ ?_).after ?_
    | exact fun _ => rfl
    | exact fun _ => send_hrp ..
    | with_reducible refine (ans_bump ..).after ?_
    | with_reducible refine (ans_mPort ..).after ?_
    | with_reducible refine (ans_freeBuffer ..).after ?_
    | intro _
    | split

theorem ans_pumpPort (n k sh : Nat) (s : State) : HrpKept s (pumpPort n k sh s) := by
  induction k generalizing sh s with
  | zero => exact HrpKept.refl s
  | succ k ih =>
    unfold pumpPort
    dsimp only [-Nat.reducePow]
    repeat' first
      | with_reducible exact HrpKept.refl _
      | with_reducible refine (ih ..).after ?_
      | with_reducible refine (ans_mPort ..).after ?_
      | with_reducible refine (ans_sendFrame ..).after ?_
      | with_reducible refine (ans_freeBuffer ..).after ?_
      | with_reducible refine (ans_bump ..).after ?_
      | split

theorem ans_pumpAll (s : State) : HrpKept s (pumpAll s) := by
  unfold pumpAll
  try dsimp only [-Nat.reducePow]
  repeat' first
    | with_reducible exact HrpKept.refl _
    | with_reducible refine (ans_pumpPort ..).after ?_
    | with_reducible refine (ans_foldl _ ?_ _ _).after ?_
    | with_reducible refine (ans_foldl2 _ ?_ _ _).after ?_
    | intro _

theorem ans_enqueue (n : Nat) (src : Option Nat) (enter : Bool) (p : HxPkt) (s : State) : HrpKept s (enqueue n
    src enter p s) := by
  unfold enqueue
  try dsimp only [-Nat.reducePow]
  repeat' first
    | with_reducible exact HrpKept.refl _
    | with_reducible refine (ans_mPort ..).after ?_

theorem ans_deliver (p : HxPkt) (s : State) : HrpKept s (deliver p s) := by
  unfold deliver
  try dsimp only [-Nat.reducePow]
  repeat' first
    | with_reducible exact HrpKept.refl _
    | with_reducible refine (ans_mHx _ _).after ?_

theorem ans_injectRouted (p : HxPkt) (s : State) : HrpKept s (injectRouted p s) := by
  unfold injectRouted
  try dsimp only [-Nat.reducePow]
  repeat' first
    | with_reducible exact HrpKept.refl _
    | with_reducible refine (ans_mHx _ _).after ?_
    | with_reducible refine (ans_pumpPort ..).after ?_
    | with_reducible refine (ans_enqueue ..).after ?_
    | intro _
    | split

theorem ans_injectLive (p : HxPkt) (s : State) : HrpKept s (injectLive p s) := by
  unfold injectLive
  try dsimp only [-Nat.reducePow]
  repeat' first
    | with_reducible exact HrpKept.refl _
    | with_reducible refine (ans_injectRouted ..).after ?_

theorem ans_mTx (k : Nat) (f : TxSt → TxSt) (s : State) : HrpKept s (State.mTx k f s) := by
  unfold State.mTx
  try dsimp only [-Nat.reducePow]
  repeat' first
    | with_reducible exact HrpKept.refl _
    | with_reducible refine (ans_mHx _ _).after ?_

theorem ans_hxSend (die : Nat) (p : HxPkt) (s : State) : HrpKept s (hxSend die p s) := by
  unfold hxSend
  try dsimp only [-Nat.reducePow]
  repeat' first
    | with_reducible exact HrpKept.refl _
    | with_reducible refine (ans_deliver ..).after ?_
    | with_reducible refine (ans_injectLive ..).after ?_
    | with_reducible refine (ans_mTx ..).after ?_
    | intro _
    | split

theorem ans_mcastForward (src : Option Nat) (dir : Option Nat) (eject : Bool) (p : HxPkt) (s : State) : HrpKept s (mcastForward src dir eject p s) := by
  unfold mcastForward
  try dsimp only [-Nat.reducePow]
  repeat' first
    | with_reducible exact HrpKept.refl _
    | with_reducible refine (ans_mHx _ _).after ?_
    | with_reducible refine (ans_pumpAll ..).after ?_
    | with_reducible refine (ans_enqueue ..).after ?_
    | with_reducible refine (ans_foldl _ ?_ _ _).after ?_
    | with_reducible refine (ans_foldl2 _ ?_ _ _).after ?_
    | intro _

theorem ans_injectCopy (p : HxPkt) (s : State) : HrpKept s (injectCopy p s) := by
  unfold injectCopy
  try dsimp only [-Nat.reducePow]
  repeat' first
    | with_reducible exact HrpKept.refl _
    | with_reducible refine (ans_mHx _ _).after ?_
    | with_reducible refine (ans_injectLive ..).after ?_
    | with_reducible refine (ans_mcastForward ..).after ?_
    | intro _
    | split

theorem ans_mcastSendNow (members : List Nat) (p : HxPkt) (s : State) : HrpKept s (mcastSendNow
    members p s) := by
  unfold mcastSendNow
  try dsimp only [-Nat.reducePow]
  repeat' first
    | with_reducible exact HrpKept.refl _
    | with_reducible refine (ans_mHx _ _).after ?_
    | with_reducible refine (ans_injectLive ..).after ?_
    | with_reducible refine (ans_mTx ..).after ?_
    | with_reducible refine (ans_mcastForward ..).after ?_
    | with_reducible refine (ans_injectCopy ..).after ?_
    | with_reducible refine (ans_foldl _ ?_ _ _).after ?_
    | with_reducible refine (ans_foldl2 _ ?_ _ _).after ?_
    | intro _
    | split

theorem ans_hxMulticast (members : List Nat) (p : HxPkt) (s : State) : HrpKept s (hxMulticast
    members p s) := by
  unfold hxMulticast
  try dsimp only [-Nat.reducePow]
  repeat' first
    | with_reducible exact HrpKept.refl _
    | with_reducible refine (ans_deliver ..).after ?_
    | with_reducible refine (ans_mTx ..).after ?_
    | with_reducible refine (ans_mcastSendNow ..).after ?_
    | intro _
    | split

theorem ans_tackPacket (off : Nat) (body : Bytes) (s : State) : HrpKept s (tackPacket off body s) := by
  unfold tackPacket
  try dsimp only [-Nat.reducePow]
  repeat' first
    | with_reducible exact HrpKept.refl _
    | with_reducible refine (ans_send ..).after ?_

theorem ans_tackPlace (stream : Nat) (body : Bytes) (s : State) : HrpKept s (tackPlace stream body s) :=
    by
  unfold tackPlace
  try dsimp only [-Nat.reducePow]
  repeat' first
    | with_reducible exact HrpKept.refl _
    | with_reducible refine (ans_mOb _ _).after ?_
    | with_reducible refine (ans_bump ..).after ?_
    | with_reducible refine (ans_tackPacket ..).after ?_
    | intro _
    | split

theorem ans_tackWrite (stream type : Nat) (body : Bytes) (s : State) : HrpKept s (tackWrite stream type
    body s) := by
  unfold tackWrite
  try dsimp only [-Nat.reducePow]
  repeat' first
    | with_reducible exact HrpKept.refl _
    | with_reducible refine (ans_mOb _ _).after ?_
    | with_reducible refine (ans_bump ..).after ?_
    | with_reducible refine (ans_tackPlace ..).after ?_
    | intro _
    | split

theorem ans_traceEmit (body : Bytes) (s : State) : HrpKept s (traceEmit body s) := by
  unfold traceEmit
  try dsimp only [-Nat.reducePow]
  repeat' first
    | with_reducible exact HrpKept.refl _
    | with_reducible refine (ans_mOb _ _).after ?_
    | with_reducible refine (ans_bump ..).after ?_
    | with_reducible refine (ans_hxSend ..).after ?_
    | with_reducible refine (ans_tackWrite ..).after ?_
    | intro _
    | split

theorem ans_traceEntry (e : W128) (s : State) : HrpKept s (traceEntry e s) := by
  unfold traceEntry
  try dsimp only [-Nat.reducePow]
  repeat' first
    | with_reducible exact HrpKept.refl _
    | with_reducible refine (ans_mOb _ _).after ?_
    | with_reducible refine (ans_bump ..).after ?_
    | with_reducible refine (ans_traceEmit ..).after ?_
    | intro _
    | split

theorem ans_ringPush (u : Nat) (event : Bool) (code cls : Nat) (ctx : Option Nat) (arg : Nat) (s : State) : HrpKept s (ringPush u event code cls ctx arg s) := by
  unfold ringPush
  try dsimp only [-Nat.reducePow]
  repeat' first
    | with_reducible exact HrpKept.refl _
    | with_reducible refine (ans_mOb _ _).after ?_
    | with_reducible refine (ans_traceEntry ..).after ?_
    | intro _
    | split

theorem ans_mStep (c : Nat) (e : Bool) (n : Nat) (f : StepSt → StepSt) (s : State) : HrpKept s (State.mStep c e
    n f s) := by
  unfold State.mStep
  try dsimp only [-Nat.reducePow]
  repeat' first
    | with_reducible exact HrpKept.refl _
    | with_reducible refine (ans_mLed _ _).after ?_

theorem ans_openDispute (d : Dispute) (s : State) : HrpKept s (openDispute d s) := by
  unfold openDispute
  try dsimp only [-Nat.reducePow]
  repeat' first
    | with_reducible exact HrpKept.refl _
    | with_reducible refine (ans_mVu _ _).after ?_
    | with_reducible refine (ans_bumpCtx ..).after ?_
    | intro _
    | split

theorem ans_markStep (c : Nat) (e : Bool) (n : Nat) (by_ : Huid) (s : State) : HrpKept s (markStep c
    e n by_ s) := by
  unfold markStep
  try dsimp only [-Nat.reducePow]
  repeat' first
    | with_reducible exact HrpKept.refl _
    | with_reducible refine (ans_mStep ..).after ?_
    | with_reducible refine (ans_openDispute ..).after ?_
    | intro _
    | split

theorem ans_residueMark (m : W128) (s : State) : HrpKept s (residueMark m s) := by
  unfold residueMark
  try dsimp only [-Nat.reducePow]
  repeat' first
    | with_reducible exact HrpKept.refl _
    | with_reducible refine (ans_markStep ..).after ?_
    | intro _
    | split

theorem ans_placeRec {r : RingRec} {rx : Nat} {s t : State} (h : placeRec r rx s = some t) : HrpKept s t := by
  unfold placeRec at h
  dsimp only at h
  cases k : ringPlace r rx s.fc with
  | none => rw [k] at h; cases h
  | some f =>
    rw [k] at h
    cases h
    refine (ans_foldl _ (fun s m => ans_residueMark m s) _ _).after
      ((ans_bump ..).after ?_)
    have e : HrpKept s { s with fc := f } := HrpKept.of_eq rfl
    split
    · exact (ans_bump ..).after e
    · exact e

theorem ans_placeRun (rx : Nat) (l : List RingRec) (s : State) : HrpKept s (placeRun rx l s).2
    := by
  induction l generalizing s with
  | nil => exact HrpKept.refl s
  | cons r l ih =>
    unfold placeRun
    split
    · exact (ans_placeRec (by assumption)).trans (ih _)
    · exact HrpKept.refl s

theorem ans_mCollector (u : Nat) (rs : List RingRec) (s : State) : HrpKept s (State.mCollector u rs s) := by
  unfold State.mCollector
  try dsimp only [-Nat.reducePow]
  repeat' first
    | with_reducible exact HrpKept.refl _
    | with_reducible refine (ans_mFc _ _).after ?_

theorem ans_raise (u : Nat) (ms : List (W128 × W128)) (s : State) : HrpKept s
    (raise u ms s) := by
  unfold raise
  try dsimp only [-Nat.reducePow]
  repeat' first
    | with_reducible exact HrpKept.refl _
    | with_reducible refine (ans_mFc _ _).after ?_
    | with_reducible refine (ans_ringPush ..).after ?_
    | with_reducible refine (ans_placeRun ..).after ?_
    | with_reducible refine (ans_mCollector ..).after ?_
    | intro _
    | split

theorem ans_report (u kind addr : Nat) (ctx : Option Nat) (h : Huid) (loc : W128) (s : State) : HrpKept s (report u kind addr ctx h loc s) := by
  unfold report
  try dsimp only [-Nat.reducePow]
  repeat' first
    | with_reducible exact HrpKept.refl _
    | with_reducible refine (ans_raise ..).after ?_

theorem ans_reportSelf (u inst kind addr : Nat) (ctx : Option Nat) (s : State) : HrpKept s (reportSelf u inst kind addr ctx s) := by
  unfold reportSelf
  try dsimp only [-Nat.reducePow]
  repeat' first
    | with_reducible exact HrpKept.refl _
    | with_reducible refine (ans_report ..).after ?_

theorem ans_computeStandby (s : State) : HrpKept s (computeStandby s) := by
  unfold computeStandby
  try dsimp only [-Nat.reducePow]
  repeat' first
    | with_reducible exact HrpKept.refl _
    | with_reducible refine (ans_mHx _ _).after ?_
    | with_reducible refine (ans_hxSend ..).after ?_

theorem ans_timeLost (s : State) : HrpKept s (timeLost s) := by
  unfold timeLost
  try dsimp only [-Nat.reducePow]
  repeat' first
    | with_reducible exact HrpKept.refl _
    | with_reducible refine (ans_mHx _ _).after ?_
    | with_reducible refine (ans_bump ..).after ?_
    | with_reducible refine (ans_reportSelf ..).after ?_
    | intro _
    | split

theorem ans_timeTree (s : State) : HrpKept s (timeTree s) := by
  unfold timeTree
  try dsimp only [-Nat.reducePow]
  repeat' first
    | with_reducible exact HrpKept.refl _
    | with_reducible refine (ans_mHx _ _).after ?_
    | with_reducible refine (ans_timeLost ..).after ?_
    | intro _
    | split

theorem ans_sendArrive (b : Nat) (s : State) : HrpKept s (sendArrive b s) := by
  unfold sendArrive
  try dsimp only [-Nat.reducePow]
  repeat' first
    | with_reducible exact HrpKept.refl _
    | with_reducible refine (ans_hxSend ..).after ?_

theorem ans_mapChanged (old : List (Nat × Bool × Bool)) (coord : Nat) (s : State) : HrpKept s (mapChanged old coord s) := by
  unfold mapChanged
  try dsimp only [-Nat.reducePow]
  repeat' first
    | with_reducible exact HrpKept.refl _
    | with_reducible refine (ans_mHx _ _).after ?_
    | with_reducible refine (ans_computeStandby ..).after ?_
    | with_reducible refine (ans_timeTree ..).after ?_
    | with_reducible refine (ans_sendArrive ..).after ?_
    | with_reducible refine (ans_foldl _ ?_ _ _).after ?_
    | with_reducible refine (ans_foldl2 _ ?_ _ _).after ?_
    | intro _
    | split

theorem ans_sendState (s : State) : HrpKept s (sendState s) := by
  unfold sendState
  try dsimp only [-Nat.reducePow]
  repeat' first
    | with_reducible exact HrpKept.refl _
    | with_reducible refine (ans_mHx _ _).after ?_
    | with_reducible refine (ans_hxMulticast ..).after ?_
    | intro _
    | split

theorem ans_stateChange (s : State) : HrpKept s (stateChange s) := by
  unfold stateChange
  try dsimp only [-Nat.reducePow]
  repeat' first
    | with_reducible exact HrpKept.refl _
    | with_reducible refine (ans_mHx _ _).after ?_
    | with_reducible refine (ans_mapChanged ..).after ?_
    | with_reducible refine (ans_sendState ..).after ?_
    | intro _
    | split

theorem ans_denied (priv : BitVec 2) (s : State) : (denied priv s).ports.hrp = ⟨BitVec.ofNat 2 hsDENIED, 0⟩ := by
  have a : ∀ u : State, (answer hsDENIED 0 u).ports.hrp = ⟨BitVec.ofNat 2 hsDENIED, 0⟩ := by
    intro u
    unfold answer
    dsimp only
    split
    · rfl
    · exact ans_stateChange _
  unfold denied
  dsimp only
  split
  · unfold secReport
    exact Eq.trans (ans_reportSelf ..) (a _)
  · exact a _

end Sys2Proof.Machine
end

