-- ==== Sys2Proof/Laws/Effects.lean ====
section
/-!
SUPPORT. What the shared operations store: one lemma per operation, for the field that it is there to change.
-/
namespace Sys2Proof.Machine

/-! ### Arrays and tags of the Loft -/

theorem injectAt_arrays (array target place : Nat) (s : State) : (injectAt array target place s).arrays = s.arrays :=
  (steady_injectAt ..).arrays

theorem dropFlips_arrays (array lo n : Nat) (s : State) : (dropFlips array lo n s).arrays = s.arrays :=
  (steady_dropFlips ..).arrays

theorem loftWrite_loft (a : Nat) (b : Bytes) (s : State) : (loftWrite a b s).mem.loft = Mem.write s.mem.loft a b := by
  have h : (loftWrite a b s).arrays.loft = Mem.write s.mem.loft a b := by
    unfold loftWrite
    rw [injectAt_arrays, dropFlips_arrays]
    rfl
  exact h

theorem loftWrite_tags (a : Nat) (b : Bytes) (s : State) : (loftWrite a b s).mem.tags = s.mem.tags := by
  have h : (loftWrite a b s).arrays.tags = s.mem.tags := by
    unfold loftWrite
    rw [injectAt_arrays, dropFlips_arrays]
    rfl
  exact h

theorem setTag_tags (slot : Nat) (w : W64) (s : State) :
    (setTag slot w s).mem.tags = if w = 0 then Tab.del s.mem.tags slot else Tab.set s.mem.tags slot w := by
  have h : (setTag slot w s).arrays.tags = if w = 0 then Tab.del s.mem.tags slot else Tab.set s.mem.tags slot w := by
    unfold setTag
    rw [injectAt_arrays, dropFlips_arrays]
    rfl
  exact h

theorem setTag_loft (slot : Nat) (w : W64) (s : State) : (setTag slot w s).mem.loft = s.mem.loft := by
  have h : (setTag slot w s).arrays.loft = s.mem.loft := by
    unfold setTag
    rw [injectAt_arrays, dropFlips_arrays]
    rfl
  exact h

theorem State.canonical_iff (s : State) : s.canonical = true ↔
    Mem.wf s.mem.loft = true ∧ Mem.wf s.mem.cm = true ∧ Mem.wf s.mem.opbuf = true ∧ Tab.wf s.mem.tags = true ∧
      ∀ t ∈ s.mem.tags, t.2 ≠ 0 := Arrays.canonical_iff s.arrays

/-- A tag operation writes the whole tag word of its slot and of no other. -/
theorem tagOf_setTag (slot : Nat) (w : W64) (s : State) (h : s.canonical = true) : tagOf (setTag slot w s) slot = w := by
  have k := ((State.canonical_iff s).mp h).2.2.2.1
  unfold tagOf Tab.getD
  rw [setTag_tags]
  split
  · rename_i e
    rw [Tab.get_del_same _ k, e]
    rfl
  · rw [Tab.get_set_same]
    rfl

theorem tagOf_setTag_other {slot k : Nat} (w : W64) (s : State) (h : k ≠ slot) : tagOf (setTag slot w s) k = tagOf s k := by
  unfold tagOf Tab.getD
  rw [setTag_tags]
  split
  · rw [Tab.get_del_other _ h]
  · rw [Tab.get_set_other _ _ h]

/-- The bytes written read back, and no other byte changes. -/
theorem loftWrite_read (a : Nat) (b : Bytes) (s : State) (h : s.canonical = true) :
    Mem.read (loftWrite a b s).mem.loft a b.length = b := by
  rw [loftWrite_loft]
  have k := ((State.canonical_iff s).mp h).1
  apply List.ext_getElem
  · simp [Mem.read]
  · intro i h1 h2
    simp only [Mem.read, List.getElem_map, List.getElem_range]
    exact Mem.get_write a b i h2 k

theorem loftWrite_other {a k : Nat} (b : Bytes) (s : State) (h : k < a ∨ a + b.length ≤ k) :
    Mem.get (loftWrite a b s).mem.loft k = Mem.get s.mem.loft k := by
  rw [loftWrite_loft]
  exact Mem.get_write_other _ b h

/-! ### Plan Store pages -/

theorem freePages_loft_zero (pages : List Nat) (s : State) :
    ∀ g ∈ pages, ∀ k, k < 2048 → Mem.get (freePages pages s).mem.loft (slotAddr (planStore + g) + k) = 0 := by
  have keep : ∀ (l : List Nat) (u : State) (a : Nat), Mem.get u.mem.loft a = 0 → Mem.get (freePages l u).mem.loft a = 0 := by
    intro l
    induction l with
    | nil => exact fun u a h => h
    | cons g l ih =>
      intro u a h
      refine ih _ a ?_
      rw [setTag_loft]
      by_cases c : slotAddr (planStore + g) ≤ a ∧ a < slotAddr (planStore + g) + 2048
      · exact Mem.get_zero _ c.1 c.2
      · exact (Mem.get_zero_other _ (by omega)).trans h
  induction pages generalizing s with
  | nil => exact fun g h => (List.not_mem_nil h).elim
  | cons x l ih =>
    intro g hg k hk
    rcases List.mem_cons.mp hg with e | e
    · subst e
      refine keep l _ _ ?_
      rw [setTag_loft]
      exact Mem.get_zero _ (Nat.le_add_right ..) (by omega)
    · exact ih _ g e k hk

theorem freePages_tags (pages : List Nat) (s : State) (h : s.canonical = true) :
    ∀ g ∈ pages, tagOf (freePages pages s) (planStore + g) = 0 := by
  have keep : ∀ (l : List Nat) (u : State) (a : Nat), u.canonical = true → tagOf u a = 0 → tagOf (freePages l u) a = 0 := by
    intro l
    induction l with
    | nil => exact fun u a _ h => h
    | cons g l ih =>
      intro u a hc h
      have hz : (u.mMem fun m => { m with loft := Mem.zero m.loft (slotAddr (planStore + g)) 2048 }).canonical = true := by
        have k := (State.canonical_iff u).mp hc
        exact (State.canonical_iff _).mpr ⟨Mem.wf_zero _ _ k.1, k.2⟩
      refine ih _ a ((sound_setTag ..).canonical hz) ?_
      by_cases c : a = planStore + g
      · rw [c]
        exact tagOf_setTag _ _ _ hz
      · exact (tagOf_setTag_other _ _ c).trans h
  induction pages generalizing s with
  | nil => exact fun g h => (List.not_mem_nil h).elim
  | cons x l ih =>
    intro g hg
    have hz : (s.mMem fun m => { m with loft := Mem.zero m.loft (slotAddr (planStore + x)) 2048 }).canonical = true := by
      have k := (State.canonical_iff s).mp h
      exact (State.canonical_iff _).mpr ⟨Mem.wf_zero _ _ k.1, k.2⟩
    rcases List.mem_cons.mp hg with e | e
    · subst e
      exact keep l _ _ ((sound_setTag ..).canonical hz) (tagOf_setTag _ _ _ hz)
    · exact ih _ ((sound_setTag ..).canonical hz) g e

/-! ### PLAN DATA -/

/-- A word that has not arrived yet is stored. -/
theorem planWord_new {off : Nat} (v : Bytes) (s : State) {t : Staging} (h : s.led.staging = some t) (hw : off < t.words)
    (hg : off ∉ t.got) : planWord off v s = (loftWrite (stagedAddr t off) v s).mLed fun l =>
      { l with staging := some { t with got := t.got ++ [off] } } := by
  unfold planWord
  rw [h]
  dsimp only
  rw [if_neg]
  simp only [List.contains_iff_mem, not_or, Nat.not_le]
  exact ⟨hw, hg⟩

theorem planWords_staging (off : Nat) (v : Nat → Bytes) (s : State) {t : Staging} (h : s.led.staging = some t) (n : Nat)
    (hw : ∀ i < n, off + i < t.words) (hg : ∀ i < n, off + i ∉ t.got) :
    ((List.range n).foldl (fun s i => planWord (off + i) (v i) s) s).led.staging =
      some { t with got := t.got ++ range' off n } := by
  induction n with
  | zero => simp [range', h]
  | succ n ih =>
    rw [List.range_succ, List.foldl_append]
    have k := ih (fun i hi => hw i (by omega)) (fun i hi => hg i (by omega))
    simp only [List.foldl_cons, List.foldl_nil]
    rw [planWord_new _ _ k (hw n (by omega)) ?_]
    · simp [range', List.range_succ, List.append_assoc]
    · simp only [List.mem_append, not_or]
      refine ⟨hg n (by omega), ?_⟩
      simp [range']

/-! ### Steps, task instances and groups -/

theorem mCtx_led (c : Nat) (f : CtxSt → CtxSt) (s : State) :
    (s.mCtx c f).led = { s.led with ctxs := Tab.set s.led.ctxs c (f (ctxOf s c)) } := by
  unfold State.mCtx
  dsimp only
  rw [(same_stateChanged ..).led (by decide)]
  rfl

theorem noteStep_insts (c : Nat) (e : Bool) (n : Nat) (s : State) : (noteStep c e n s).led.insts = s.led.insts := by
  unfold noteStep
  dsimp only
  split
  · rfl
  · split
    · rw [(same_bumpCtx ..).led (by decide), mCtx_led]
      rfl
    · rfl

theorem instOf_noteStep (c d : Nat) (e f : Bool) (n m t : Nat) (s : State) :
    instOf (noteStep c e n s) d f m t = instOf s d f m t := by
  unfold instOf
  rw [noteStep_insts]

/-- An instance whose group has begun stays as it is when a record arrives. -/
theorem needInst_begun {c : Nat} {e : Bool} {n task : Nat} (p : Plan) {s : State} {input : Nat}
    (h : 0 < (groupOf s c e n task input).count) : needInst c e n task p s = noteStep c e n s := by
  unfold needInst
  dsimp only
  unfold groupOf at h
  rw [instOf_noteStep]
  cases k : instOf s c e n task with
  | none => rw [k] at h; exact (Nat.lt_irrefl 0 h).elim
  | some i =>
    rw [k] at h
    dsimp only at h ⊢
    rw [if_neg]
    simp only [List.all_eq_true, Bool.and_eq_true, decide_eq_true_eq]
    intro x
    by_cases l : input < i.groups.length
    · have := x _ (List.getElem_mem l)
      rw [List.getD_eq_getElem?_getD, List.getElem?_eq_getElem l] at h
      simp only [Option.getD_some] at h
      omega
    · rw [List.getD_eq_getElem?_getD, List.getElem?_eq_none (by omega)] at h
      exact (Nat.lt_irrefl 0 h).elim

theorem groupOf_noteStep (c d : Nat) (e f : Bool) (n m t input : Nat) (s : State) :
    groupOf (noteStep c e n s) d f m t input = groupOf s d f m t input := by
  unfold groupOf
  rw [instOf_noteStep]

theorem groupOf_congr {s t : State} (h : t.led.insts = s.led.insts) (c : Nat) (e : Bool) (n k input : Nat) :
    groupOf t c e n k input = groupOf s c e n k input := by
  unfold groupOf instOf
  rw [h]

/-- A group of an instance that exists takes the change made to it. -/
theorem groupOf_mGroup {c : Nat} {e : Bool} {n task input : Nat} (f : Group → Group) {s : State} {i : Inst}
    (h : instOf s c e n task = some i) (hl : input < i.groups.length) :
    groupOf (s.mGroup c e n task input f) c e n task input = f (groupOf s c e n task input) := by
  have key : ∀ l : List Inst, l.find? (isInst c e n task) = some i →
      (l.map fun x => if isInst c e n task x then { x with groups := x.groups.modify input f } else x).find?
        (isInst c e n task) = some { i with groups := i.groups.modify input f } := by
    intro l
    induction l with
    | nil => exact fun h => by cases h
    | cons x l ih =>
      intro h
      rw [List.find?_cons] at h
      rw [List.map_cons, List.find?_cons]
      by_cases g : isInst c e n task x = true
      · rw [g] at h
        obtain rfl : x = i := Option.some.inj h
        have : isInst c e n task { x with groups := x.groups.modify input f } = true := g
        rw [if_pos g, this]
      · rw [Bool.not_eq_true] at g
        rw [g] at h
        rw [if_neg (by rw [g]; decide), g]
        exact ih h
  unfold groupOf
  rw [h]
  have k : instOf (s.mGroup c e n task input f) c e n task = some { i with groups := i.groups.modify input f } := key _ h
  rw [k]
  dsimp only
  rw [List.getD_eq_getElem?_getD, List.getD_eq_getElem?_getD, List.getElem?_modify, List.getElem?_eq_getElem hl]
  simp

theorem group_in_inst {s : State} {c : Nat} {e : Bool} {n task input : Nat} (h : 0 < (groupOf s c e n task input).count) :
    ∃ i, instOf s c e n task = some i ∧ input < i.groups.length := by
  unfold groupOf at h
  cases k : instOf s c e n task with
  | none => rw [k] at h; exact (Nat.lt_irrefl 0 h).elim
  | some i =>
    rw [k] at h
    refine ⟨i, rfl, Nat.lt_of_not_le fun l => ?_⟩
    dsimp only at h
    rw [List.getD_eq_getElem?_getD, List.getElem?_eq_none l] at h
    exact (Nat.lt_irrefl 0 h).elim

theorem capWrite_up {slot off : Nat} (b : Bytes) {s : State} (h : shedDown s slot = false) :
    capWrite slot off b s = loftWrite (slotAddr slot + off) b s := by
  unfold capWrite
  rw [if_neg (by rw [h]; decide)]

/-- A digest that does not fill its group is added modulo 2^64 to the sum at the group's address (R127). -/
theorem addDigest_more {c : Nat} {e : Bool} {n task input : Nat} {p : Plan} (src : Huid) (value elems : Nat) {s : State}
    (h1 : (groupOf s c e n task input).full = false) (h2 : 0 < (groupOf s c e n task input).count)
    (h3 : (groupOf s c e n task input).count + 1 < (groupRule p (planTask p task) input).2)
    (h4 : shedDown s (groupSlot p (planTask p task) input (roundOfStep p n)) = false) :
    (addDigest c e n task input p src value elems s).mem.loft = Mem.write s.mem.loft (groupAddr p (planTask p task) input n)
      (leBytes 8 (groupDigest s p (planTask p task) input n + value)) ∧
    groupOf (addDigest c e n task input p src value elems s) c e n task input =
      { groupOf s c e n task input with
        count := (groupOf s c e n task input).count + 1
        elems := (groupOf s c e n task input).elems + elems
        bytes := 8
        senders := (groupOf s c e n task input).senders ++ [src] } := by
  unfold addDigest
  dsimp only
  rw [if_neg (by rw [h1]; simp only [Bool.false_eq_true, false_or]; omega), if_neg (by omega), if_neg (by omega),
    capWrite_up _ h4]
  have k : ∀ a b, (loftWrite a b s).led.insts = s.led.insts := fun a b => by rw [(same_loftWrite ..).led (by decide)]
  obtain ⟨i, hi, hl⟩ := group_in_inst h2
  constructor
  · rw [(same_mGroup ..).mem (by decide), loftWrite_loft, Nat.add_zero, groupAddr]
  · rw [groupOf_mGroup _ (i := i) (by unfold instOf; rw [k]; exact hi) hl, groupOf_congr (k ..)]

/-- Data that does not complete its RAW group is stored at its offset, and its bytes and token are counted (R101). -/
theorem addRaw_more {c : Nat} {e : Bool} {n task input : Nat} {p : Plan} (src : Huid) (off : Nat) (data : Bytes)
    (token : Option Nat) {s : State} (h0 : data ≠ []) (h1 : (groupOf s c e n task input).full = false)
    (h2 : 0 < (groupOf s c e n task input).count)
    (h3 : (groupOf s c e n task input).count + token.isSome.toNat < (groupRule p (planTask p task) input).2)
    (h4 : shedDown s (groupSlot p (planTask p task) input (roundOfStep p n)) = false) :
    (addRaw c e n task input p src off data token s).mem.loft =
      Mem.write s.mem.loft (groupAddr p (planTask p task) input n + off) data ∧
    groupOf (addRaw c e n task input p src off data token s) c e n task input =
      { groupOf s c e n task input with
        bytes := (groupOf s c e n task input).bytes + data.length
        count := (groupOf s c e n task input).count + token.isSome.toNat
        declared := (groupOf s c e n task input).declared + token.getD 0
        senders := if token.isSome then (groupOf s c e n task input).senders ++ [src]
                   else (groupOf s c e n task input).senders } := by
  have k : ∀ a b, (loftWrite a b s).led.insts = s.led.insts := fun a b => by rw [(same_loftWrite ..).led (by decide)]
  obtain ⟨i, hi, hl⟩ := group_in_inst h2
  have hd : data.isEmpty = false := by
    cases data with
    | nil => exact absurd rfl h0
    | cons => rfl
  have e1 : ¬ ((groupOf s c e n task input).full = true ∨
      (token.isSome = true ∧ (groupRule p (planTask p task) input).2 ≤ (groupOf s c e n task input).count) ∨
      ¬ data.isEmpty = true ∧ (groupOf s c e n task input).count + token.isSome.toNat =
        (groupRule p (planTask p task) input).2 ∧
        (groupOf s c e n task input).declared + token.getD 0 < (groupOf s c e n task input).bytes + data.length) := by
    rw [h1]
    rintro (x | x | x)
    · cases x
    · omega
    · omega
  have key : ∀ u : State, u.led.insts = s.led.insts →
      ∀ f : Group → Group, (f (groupOf s c e n task input)).full = false →
      (f (groupOf s c e n task input)).count ≠ (groupRule p (planTask p task) input).2 →
      (rawSettle c e n task input p src (u.mGroup c e n task input f)) = u.mGroup c e n task input f ∧
        groupOf (u.mGroup c e n task input f) c e n task input = f (groupOf s c e n task input) := by
    intro u hu f f1 f2
    have g : groupOf (u.mGroup c e n task input f) c e n task input = f (groupOf s c e n task input) := by
      rw [groupOf_mGroup f (i := i) (by unfold instOf; rw [hu]; exact hi) hl, groupOf_congr hu]
    refine ⟨?_, g⟩
    unfold rawSettle
    dsimp only
    rw [if_pos]
    rw [g]
    exact .inr (.inl f2)
  unfold addRaw
  dsimp only
  rw [if_neg e1, hd, if_neg (by decide), capWrite_up _ h4]
  obtain ⟨r, g⟩ := key _ (k (slotAddr (groupSlot p (planTask p task) input (roundOfStep p n)) + off) data)
    (fun g => { g with
      bytes := g.bytes + data.length
      count := g.count + token.isSome.toNat
      declared := g.declared + token.getD 0
      senders := if token.isSome then g.senders ++ [src] else g.senders }) h1 (Nat.ne_of_lt h3)
  rw [r, g]
  exact ⟨loftWrite_loft _ _ s, rfl⟩

/-- A contribution to an LPF_SUM group that is not complete is kept by its sender (R158, R513). -/
theorem addLpf_more {c : Nat} {e : Bool} {n task input : Nat} {p : Plan} (src : Huid) (off : Nat) (data : Bytes) {s : State}
    {i : Inst} (hi : instOf s c e n task = some i) (hl : input < i.groups.length)
    (h1 : (groupOf s c e n task input).full = false)
    (h2 : (groupOf s c e n task input).count < (groupRule p (planTask p task) input).2)
    (h3 : ∀ x ∈ (groupOf s c e n task input).partials, x.sender ≠ src) :
    groupOf (addLpf c e n task input p src off data none s) c e n task input =
      { groupOf s c e n task input with
        partials := (groupOf s c e n task input).partials ++
          [{ sender := src, data := placeBytes [] off data, got := data.length, length := none }] } := by
  have f : ((groupOf s c e n task input).partials.find? fun x => decide (x.sender = src)) = none := by
    rw [List.find?_eq_none]
    intro x hx
    simpa using h3 x hx
  have g : (groupOf s c e n task input).partials.filter (fun y => decide (y.sender ≠ src)) =
      (groupOf s c e n task input).partials := by
    rw [List.filter_eq_self]
    intro x hx
    simpa using h3 x hx
  have k : addLpf c e n task input p src off data none s = s.mGroup c e n task input fun y => { y with
      partials := (groupOf s c e n task input).partials ++
        [{ sender := src, data := placeBytes [] off data, got := data.length, length := none }] } := by
    unfold addLpf
    dsimp only
    rw [if_neg (by rw [h1]; simp only [Bool.false_eq_true, false_or]; omega), f, g]
    simp
  have m := groupOf_mGroup (fun y : Group => { y with
      partials := (groupOf s c e n task input).partials ++
        [{ sender := src, data := placeBytes [] off data, got := data.length, length := none }] }) hi hl
  rw [k, m]

/-! ### Steps -/

theorem stepOf_mStep {c : Nat} {e : Bool} {n : Nat} (f : StepSt → StepSt) {s : State} {x : StepSt}
    (h : stepOf s c e n = some x) (hf : isStep c e n (f x) = true) : stepOf (s.mStep c e n f) c e n = some (f x) := by
  have key : ∀ l : List StepSt, l.find? (isStep c e n) = some x →
      (l.map fun y => if isStep c e n y then f y else y).find? (isStep c e n) = some (f x) := by
    intro l
    induction l with
    | nil => exact fun h => by cases h
    | cons y l ih =>
      intro h
      rw [List.find?_cons] at h
      rw [List.map_cons, List.find?_cons]
      by_cases g : isStep c e n y = true
      · rw [g] at h
        obtain rfl : y = x := Option.some.inj h
        rw [if_pos g, hf]
      · rw [Bool.not_eq_true] at g
        rw [g] at h
        rw [if_neg (by rw [g]; decide), g]
        exact ih h
  have a : s.led.steps.any (isStep c e n) = true := List.any_eq_true.mpr ⟨x, List.mem_of_find?_eq_some h, List.find?_some h⟩
  unfold stepOf State.mStep
  rw [State.mLed_led]
  dsimp only
  rw [if_pos a]
  exact key _ h

theorem noteStep_steps (c : Nat) (e : Bool) (n : Nat) (s : State) :
    (noteStep c e n s).led.steps = (s.mStep c e n id).led.steps := by
  unfold noteStep
  dsimp only
  split
  · rfl
  · split
    · rw [(same_bumpCtx ..).led (by decide), mCtx_led]
    · rfl

theorem stepOf_noteStep {c : Nat} {e : Bool} {n : Nat} {s : State} {x : StepSt} (h : stepOf s c e n = some x) :
    stepOf (noteStep c e n s) c e n = some x := by
  unfold stepOf
  rw [noteStep_steps]
  exact stepOf_mStep id h (List.find?_some (p := isStep c e n) h)

/-! ### What firing leaves of the Ledger -/

theorem laneEnqueue_ctxs (l : Nat) (t : Token) (s : State) : (laneEnqueue l t s).led.ctxs = s.led.ctxs := by
  unfold laneEnqueue
  split <;> rfl

theorem laneEnqueueFirst_ctxs (l : Nat) (t : Token) (s : State) : (laneEnqueueFirst l t s).led.ctxs = s.led.ctxs := by
  unfold laneEnqueueFirst
  split <;> rfl

theorem dispatchToken_ctxs (p : Plan) (t : Token) (s : State) : (dispatchToken p t s).led.ctxs = s.led.ctxs := by
  unfold dispatchToken
  dsimp only
  split
  · rfl
  · split
    · split
      · have h := (Same.of_pair (same_takeLane _ _ s) (by assumption)).led (by decide)
        split <;> split <;>
          simp only [laneEnqueue_ctxs, laneEnqueueFirst_ctxs, (same_bumpCtx ..).led (show Part.led ∉ [Part.ob] by decide), h]
      · have h := (Same.of_pair (same_takeLane _ _ s) (by assumption)).led (by decide)
        rw [(same_noLane ..).led (by decide), h]
    · rfl

theorem tryFire_ctxs (c : Nat) (e : Bool) (n t : Nat) (s : State) : (tryFire c e n t s).led.ctxs = s.led.ctxs := by
  unfold tryFire
  split
  · split
    · rfl
    · dsimp only
      rw [dispatchToken_ctxs, (same_traceStep ..).led (by decide), (same_bumpCtx ..).led (by decide)]
      rfl
  · rfl

theorem fireAll_ctxs (c : Nat) (s : State) : (fireAll c s).led.ctxs = s.led.ctxs := by
  unfold fireAll
  generalize s.led.insts.filter _ = l
  induction l generalizing s with
  | nil => rfl
  | cons i l ih => rw [List.foldl_cons, ih, tryFire_ctxs]

theorem ctxOf_mCtx (c : Nat) (f : CtxSt → CtxSt) (s : State) : ctxOf (s.mCtx c f) c = f (ctxOf s c) := by
  unfold ctxOf
  rw [mCtx_led]
  dsimp only
  rw [Tab.getD, Tab.get_set_same]
  rfl

theorem ctxOf_led {s t : State} (h : t.led.ctxs = s.led.ctxs) (c : Nat) : ctxOf t c = ctxOf s c := by
  unfold ctxOf
  rw [h]

/-- The base of a context's window, its epoch and its plan stay when the window moves. -/
theorem windowMoved_ctx (c : Nat) (s : State) : (ctxOf (windowMoved c s) c).base = (ctxOf s c).base ∧
    (ctxOf (windowMoved c s) c).epoch = (ctxOf s c).epoch ∧ (ctxOf (windowMoved c s) c).plan = (ctxOf s c).plan := by
  unfold windowMoved
  split
  · exact ⟨rfl, rfl, rfl⟩
  · rw [ctxOf_led (t := bumpCtx _ _ _ _ _) (s := s.mCtx c fun x => { x with fullSince := none }) (by
      rw [(same_bumpCtx ..).led (by decide)]), ctxOf_mCtx]
    exact ⟨rfl, rfl, rfl⟩

theorem windowMoved_led (c : Nat) (s : State) : ∃ l, (windowMoved c s).led = { s.led with ctxs := l } := by
  unfold windowMoved
  split
  · exact ⟨_, rfl⟩
  · rw [(same_bumpCtx ..).led (by decide), mCtx_led]
    exact ⟨_, rfl⟩

theorem dropEpoch_ctxs (c : Nat) (e : Bool) (s : State) : (dropEpoch c e s).led.ctxs = s.led.ctxs := rfl

theorem giveUpPlan_ctxs (c n : Nat) (p : Plan) (k : Bool) (s : State) : (giveUpPlan c n p k s).led.ctxs = s.led.ctxs := by
  unfold giveUpPlan
  dsimp only
  rw [(same_startErasure ..).led (by decide)]
  rfl

/-- The old plan's erasure is the last that begins. -/
theorem giveUpPlan_erasure (c n : Nat) (p : Plan) (k : Bool) (s : State) : ∃ e ∈ (giveUpPlan c n p k s).mem.erasures,
    e.ctx = c ∧ e.plan = n ∧ e.kill = k ∧ e.rangesLeft = true :=
  ⟨_, List.mem_append_right _ (List.mem_singleton.mpr rfl), rfl, rfl, rfl, rfl⟩

/-! ### Instances that go -/

theorem dropInst_led (i : Inst) (s : State) : (dropInst i s).led =
    { s.led with insts := s.led.insts.filter fun x => !isInst i.ctx i.epoch i.step i.task x } := by
  unfold dropInst
  dsimp only
  rw [State.mLed_led, (same_eachSlot _ _ _ (m := [.mem]) (by decide) fun k s => same_tagClearOp k s).led
    (by decide)]

theorem abandonXtest_led (i : Inst) (s : State) : ∃ l, (abandonXtest i s).led = { s.led with insts := l } := by
  unfold abandonXtest
  split
  · exact ⟨_, rfl⟩
  · rw [(same_bumpCtx ..).led (by decide), dropInst_led]
    exact ⟨_, rfl⟩

/-! ### Orders keep the chains -/

theorem scStart_chains (n : Nat) (s : State) : (scStart n s).ct.chains = s.ct.chains := by
  unfold scStart
  dsimp only
  split
  · rfl
  · split <;> rfl

theorem hostDone_chains (w : W64) (k : Nat) (s : State) : (hostDone w k s).ct.chains = s.ct.chains := by
  rw [hostDone, State.mCt_ct]

theorem endHost_chains (o : ScOrder) (k : Nat) (s : State) : (endHost o k s).ct.chains = s.ct.chains := by
  unfold endHost
  generalize o.purposes.filter _ = l
  induction l generalizing s with
  | nil => rfl
  | cons x l ih => rw [List.foldl_cons, ih, hostDone_chains]

theorem scOrder_chains (n : Nat) (o : ScOrder) (s : State) : (scOrder n o s).ct.chains = s.ct.chains := by
  have lost : ∀ (l : List ScOrder) (s : State),
      (l.foldl (fun s a => endHost a stSUPERSEDED (bump 729 1 s)) s).ct.chains = s.ct.chains := by
    intro l
    induction l with
    | nil => exact fun s => rfl
    | cons x l ih => intro s; rw [List.foldl_cons, ih, endHost_chains]; rfl
  unfold scOrder
  dsimp only
  split
  · rfl
  · split
    · rw [endHost_chains]
      rfl
    · split
      · rw [scStart_chains]
        exact lost _ _
      · exact lost _ _

/-- A chain begins at each core named. -/
theorem startChains_at (c n : Nat) (cores : List Huid) (s : State) (l : Huid) (h : l ∈ sortBy BitVec.toNat (dedup cores)) :
    ∃ x ∈ (startChains c n cores s).ct.chains, x.ctx = c ∧ x.step = n ∧ x.next = physOf s l := by
  have hw : ∀ h s, (waitQuery h s).ct.chains = s.ct.chains := fun h s => scOrder_chains _ _ _
  have hy : ∀ h s, (waitQuery h s).ym = s.ym := fun h s => (same_waitQuery h s).ym (by decide)
  unfold startChains
  generalize sortBy BitVec.toNat (dedup cores) = ls at h ⊢
  have keep : ∀ (ls : List Huid) (s : State) (x : Chain), x ∈ s.ct.chains → x ∈ (ls.foldl (fun s l =>
      let h := physOf s l
      waitQuery h (s.mCt fun t => { t with chains := t.chains ++ [{ ctx := c, step := n, cores := [], next := h }] })) s).ct.chains := by
    intro ls
    induction ls with
    | nil => exact fun s x h => h
    | cons a ls ih =>
      intro s x h
      refine ih _ _ ?_
      rw [hw]
      exact List.mem_append_left _ h
  induction ls generalizing s with
  | nil => exact (List.not_mem_nil h).elim
  | cons a ls ih =>
    rw [List.foldl_cons]
    rcases List.mem_cons.mp h with e | e
    · subst e
      refine ⟨{ ctx := c, step := n, cores := [], next := physOf s l }, keep ls _ _ ?_, rfl, rfl, rfl⟩
      rw [hw]
      exact List.mem_append_right _ (List.mem_singleton.mpr rfl)
    · obtain ⟨x, hx, h1, h2, h3⟩ := ih (waitQuery (physOf s a) (s.mCt fun t => { t with
        chains := t.chains ++ [{ ctx := c, step := n, cores := [], next := physOf s a }] })) e
      refine ⟨x, hx, h1, h2, h3.trans ?_⟩
      unfold physOf
      rw [hy]
      rfl

/-! ### Release -/

theorem doRelease_base (c : Nat) (p : Plan) (n : Nat) (s : State) (h : s.led.deferred = []) :
    (ctxOf (doRelease c p n s) c).base = n + 1 ∧ stepOf (doRelease c p n s) c p.epoch n = none := by
  have fold : ∀ (l : List Inst) (s : State), ∃ i, (l.foldl (fun s i => if isXtest s i then abandonXtest i s else
      dropInst i s) s).led = { s.led with insts := i } := by
    intro l
    induction l with
    | nil => exact fun s => ⟨_, rfl⟩
    | cons x l ih =>
      intro s
      rw [List.foldl_cons]
      obtain ⟨i, hi⟩ := ih (if isXtest s x then abandonXtest x s else dropInst x s)
      refine ⟨i, hi.trans ?_⟩
      split
      · obtain ⟨j, hj⟩ := abandonXtest_led x s
        rw [hj]
      · rw [dropInst_led]
  have cores : ∀ (l : List Huid) (s : State), (l.foldl (fun s l => sendCore 0x10 0 l [releasePre c p.epoch n] [] s) s).led =
      s.led := by
    intro l
    induction l with
    | nil => exact fun s => rfl
    | cons x l ih => intro s; rw [List.foldl_cons, ih, (same_sendCore ..).led (by decide)]
  have done : ∀ s : State, s.led.deferred = [] → resumeDeferred s = s.mLed fun l => { l with deferred := [] } := by
    intro s h
    unfold resumeDeferred
    rw [h]
    rfl
  have counts : ∀ s : State, ∃ l, (mLayerCounts c p.epoch n (fun k => { k with released := k.released + 1 }) s).led =
      { s.led with plans := l } := by
    intro s
    unfold mLayerCounts
    split <;> exact ⟨_, rfl⟩
  unfold doRelease
  dsimp only
  generalize e1 : mLayerCounts c p.epoch n (fun k => { k with released := k.released + 1 }) s = s1
  generalize e2 : bumpCtx 1 1 c 1 (traceStep 3 c n s1) = s2
  generalize e3 : (stepInsts s2 c p.epoch n).foldl (fun s i => if isXtest s i then abandonXtest i s else dropInst i s) s2 = s3
  generalize e4 : ((dropXhold c p.epoch n s3).mLed fun l => { l with steps := l.steps.filter fun x => !isStep c p.epoch n x }) = s4
  generalize e5 : windowMoved c (s4.mCtx c fun x => { x with base := n + 1 }) = s5
  obtain ⟨i1, l1⟩ := counts s
  rw [e1] at l1
  have l2 : s2.led = s1.led := by rw [← e2, (same_bumpCtx ..).led (by decide), (same_traceStep ..).led (by decide)]
  obtain ⟨i3, l3⟩ := fold (stepInsts s2 c p.epoch n) s2
  rw [e3] at l3
  have l4 : s4.led = { s3.led with steps := s3.led.steps.filter fun x => !isStep c p.epoch n x } := by rw [← e4]; rfl
  obtain ⟨i5, l5⟩ := windowMoved_led c (s4.mCtx c fun x => { x with base := n + 1 })
  rw [e5, mCtx_led] at l5
  have b5 : (ctxOf s5 c).base = n + 1 := by rw [← e5, (windowMoved_ctx c _).1, ctxOf_mCtx]
  have d5 : s5.led.deferred = [] := by rw [l5, l4, l3, l2, l1]; exact h
  have t5 : s5.led.steps = s3.led.steps.filter fun x => !isStep c p.epoch n x := by rw [l5, l4]
  have key : ∀ s6 : State, (∃ l, s6.led = { s5.led with plans := l }) →
      (ctxOf (resumeDeferred (p.roster.foldl (fun s l => sendCore 0x10 0 l [releasePre c p.epoch n] [] s) s6)) c).base = n + 1 ∧
        stepOf (resumeDeferred (p.roster.foldl (fun s l => sendCore 0x10 0 l [releasePre c p.epoch n] [] s) s6)) c p.epoch n =
          none := by
    rintro s6 ⟨i6, l6⟩
    have l7 := cores p.roster s6
    rw [done _ (by rw [l7, l6]; exact d5)]
    constructor
    · rw [ctxOf_led (s := s5) (by rw [State.mLed_led]; dsimp only; rw [l7, l6])]
      exact b5
    · unfold stepOf
      rw [State.mLed_led]
      dsimp only
      rw [l7, l6]
      dsimp only
      rw [t5, List.find?_eq_none]
      intro x hx
      have := (List.mem_filter.mp hx).2
      simpa using this
  split
  · exact key (s5.mPlan _ fun q => { q with lastStep := n }) ⟨_, rfl⟩
  · exact key s5 ⟨_, rfl⟩

theorem stepOf_isStep {s : State} {c : Nat} {e : Bool} {n : Nat} {x : StepSt} (h : stepOf s c e n = some x) :
    isStep c e n x = true := List.find?_some (p := isStep c e n) h

/-- The epoch flips, the window starts at 0 and the context is not halted (R114). -/
theorem flipEpoch_ctx (c : Nat) (w : Switch) (s : State) {n : Nat} {p : Plan} (h : planOf s c = some (n, p)) :
    (ctxOf (flipEpoch c w s) c).epoch = !(ctxOf s c).epoch ∧ (ctxOf (flipEpoch c w s) c).base = 0 ∧
    (ctxOf (flipEpoch c w s) c).halted = false ∧
    (∃ e ∈ (flipEpoch c w s).mem.erasures, e.ctx = c ∧ e.plan = n ∧ e.kill = false ∧ e.rangesLeft = true) := by
  unfold flipEpoch
  rw [h]
  dsimp only
  rw [ctxOf_led (fireAll_ctxs ..), ctxOf_mCtx]
  dsimp only
  refine ⟨?_, rfl, rfl, ?_⟩
  · congr 1
    have k : ∀ d, (giveUpPlan c n p false (moveBlock n d (windowMoved c s))).led.ctxs = (windowMoved c s).led.ctxs := fun d => by
      rw [giveUpPlan_ctxs, (same_moveBlock ..).led (by decide)]
    split
    all_goals
      rw [ctxOf_led (s := windowMoved c s)]
      · exact (windowMoved_ctx c s).2.1
      · split
        · rw [State.mLed_led]
          dsimp only
          rw [k]
        · rw [(same_unbind ..).led (by decide), k]
  · rw [(same_fireAll ..).mem (by decide), (same_mCtx ..).mem (by decide)]
    split
    all_goals
      split
      · rw [State.mLed_mem]
        exact giveUpPlan_erasure c n p false _
      · rw [(same_unbind ..).mem (by decide)]
        exact giveUpPlan_erasure c n p false _

end Sys2Proof.Machine
end

