-- ==== Sys2Proof/Laws/Net.lean ====
section
/-!
SUPPORT. What the traffic of the Hitch leaves alone: sending, forwarding and delivering packets, and the reports and events
whose records travel there, keep every field of the Hitch but the traffic's own.
-/
namespace Sys2Proof.Machine

/-- A port without what its traffic changes. -/
def portCore (p : Port) : Port :=
  { p with replay := [], txNext := 0, txBytes := 0, credXY := 0, credYX := 0, queue := [], freedXY := 0, freedYX := 0, tDep := 0 }

/-- The Hitch without what its traffic changes. -/
def netCore (h : Hx) : Hx :=
  { h with
    ports := h.ports.map portCore
    tx := [], rx := [], inj0 := 0, inj1 := 0, ej0 := 0, ej1 := 0, relay := [], delivered := [], sprayed := [] }

/-- Only the traffic's own state of the Hitch may differ. -/
def NetKept (s t : State) : Prop := netCore t.hx = netCore s.hx

theorem NetKept.refl (s : State) : NetKept s s := rfl
theorem NetKept.trans {s t u : State} (h : NetKept s t) (k : NetKept t u) : NetKept s u := Eq.trans k h
theorem NetKept.after {s t u : State} (k : NetKept t u) (h : NetKept s t) : NetKept s u := h.trans k
theorem NetKept.of_eq {s t : State} (h : t.hx = s.hx) : NetKept s t := congrArg netCore h
theorem net_mHx (f : Hx → Hx) (s : State) (h : ∀ x, netCore (f x) = netCore x) : NetKept s (s.mHx f) := h s.hx
theorem net_mPorts (f : Ports → Ports) (s : State) : NetKept s (s.mPorts f) := rfl
theorem net_mOb (f : Ob → Ob) (s : State) : NetKept s (s.mOb f) := rfl
theorem net_mFc (f : Fc → Fc) (s : State) : NetKept s (s.mFc f) := rfl
theorem net_mLed (f : Led → Led) (s : State) : NetKept s (s.mLed f) := rfl
theorem net_mVu (f : Vu → Vu) (s : State) : NetKept s (s.mVu f) := rfl


theorem portCore_modify (f : Port → Port) (h : ∀ x, portCore (f x) = portCore x) (l : List Port) (n : Nat) :
    (l.modify n f).map portCore = l.map portCore := by
  refine List.ext_getElem? fun i => ?_
  rw [List.getElem?_map, List.getElem?_map, List.getElem?_modify]
  cases l[i]? with
  | none => rfl
  | some x =>
    by_cases e : n = i
    · simp [e, h]
    · simp [e]

theorem net_mPort (p : Nat) (f : Port → Port) (s : State) (h : ∀ x, portCore (f x) = portCore x) : NetKept s (s.mPort p f) :=
  net_mHx _ _ fun x => by
    show netCore { x with ports := x.ports.modify p f } = netCore x
    unfold netCore
    rw [portCore_modify f h]

theorem netCore_countInj (e : Bool) (n : Nat) (h : Hx) : netCore (countInj e n h) = netCore h := by cases e <;> rfl
theorem netCore_countEj (e : Bool) (n : Nat) (h : Hx) : netCore (countEj e n h) = netCore h := by cases e <;> rfl

theorem net_foldl {α : Type} (f : State → α → State) (h : ∀ s a, NetKept s (f s a)) (l : List α) (s : State) :
    NetKept s (l.foldl f s) := by
  induction l generalizing s with
  | nil => exact NetKept.refl s
  | cons a l ih => exact (h s a).trans (ih _)

theorem net_foldl2 {α β : Type} (f : β × State → α → β × State) (h : ∀ x a, NetKept x.2 (f x a).2)
    (l : List α) (x : β × State) : NetKept x.2 (l.foldl f x).2 := by
  induction l generalizing x with
  | nil => exact NetKept.refl _
  | cons a l ih => exact (h x a).trans (ih _)

theorem net_bump (k n : Nat) (s : State) : NetKept s (bump k n s) := by
  unfold bump
  try dsimp only [-Nat.reducePow]
  repeat' first
    | with_reducible exact NetKept.refl _
    | with_reducible refine (net_mOb _ _).after ?_

theorem net_bumpPlan (plan j n : Nat) (s : State) : NetKept s (bumpPlan plan j n s) := by
  unfold bumpPlan
  try dsimp only [-Nat.reducePow]
  repeat' first
    | with_reducible exact NetKept.refl _
    | with_reducible refine (net_mOb _ _).after ?_

theorem net_bumpCtx (k j ctx n : Nat) (s : State) : NetKept s (bumpCtx k j ctx n s) := by
  unfold bumpCtx
  try dsimp only [-Nat.reducePow]
  repeat' first
    | with_reducible exact NetKept.refl _
    | with_reducible refine (net_bump ..).after ?_
    | with_reducible refine (net_bumpPlan ..).after ?_
    | intro _
    | split

theorem net_send (port kind sub : Nat) (dst : Huid) (pre : List W64) (payload : Bytes) (s : State) : NetKept
    s (send port kind sub dst pre payload s) := by
  unfold send
  try dsimp only [-Nat.reducePow]
  repeat' first
    | with_reducible exact NetKept.refl _
    | with_reducible refine (net_mPorts _ _).after ?_

theorem net_freeBuffer (e : QEnt) (s : State) : NetKept s (freeBuffer e s) := by
  unfold freeBuffer
  try dsimp only [-Nat.reducePow]
  repeat' first
    | with_reducible exact NetKept.refl _
    | with_reducible refine (net_mPort _ _ _ ?_).after ?_
    | exact fun _ => rfl
    | exact fun x => by split <;> rfl
    | intro _
    | split

theorem net_sendFrame (n : Nat) (e : QEnt) (s : State) : NetKept s (sendFrame n e s) := by
  unfold sendFrame
  try dsimp only [-Nat.reducePow]
  repeat' first
    | with_reducible exact NetKept.refl _
    | with_reducible refine (net_mPorts _ _).after ?_
    | with_reducible refine (net_bump ..).after ?_
    | with_reducible refine (net_mPort _ _ _ ?_).after ?_
    | exact fun _ => rfl
    | exact fun x => by split <;> rfl
    | with_reducible refine (net_freeBuffer ..).after ?_
    | intro _
    | split

theorem net_pumpPort (n k sh : Nat) (s : State) : NetKept s (pumpPort n k sh s) := by
  induction k generalizing sh s with
  | zero => exact NetKept.refl s
  | succ k ih =>
    unfold pumpPort
    dsimp only [-Nat.reducePow]
    repeat' first
      | with_reducible exact NetKept.refl _
      | with_reducible refine (ih ..).after ?_
      | with_reducible refine (net_mPort _ _ _ ?_).after ?_
      | exact fun _ => rfl
      | with_reducible refine (net_sendFrame ..).after ?_
      | with_reducible refine (net_freeBuffer ..).after ?_
      | with_reducible refine (net_bump ..).after ?_
      | split

theorem net_pumpAll (s : State) : NetKept s (pumpAll s) := by
  unfold pumpAll
  try dsimp only [-Nat.reducePow]
  repeat' first
    | with_reducible exact NetKept.refl _
    | with_reducible refine (net_pumpPort ..).after ?_
    | with_reducible refine (net_foldl _ ?_ _ _).after ?_
    | with_reducible refine (net_foldl2 _ ?_ _ _).after ?_
    | intro _

theorem net_enqueue (n : Nat) (src : Option Nat) (enter : Bool) (p : HxPkt) (s : State) : NetKept s (enqueue n
    src enter p s) := by
  unfold enqueue
  try dsimp only [-Nat.reducePow]
  repeat' first
    | with_reducible exact NetKept.refl _
    | with_reducible refine (net_mPort _ _ _ ?_).after ?_
    | exact fun _ => rfl

theorem net_deliver (p : HxPkt) (s : State) : NetKept s (deliver p s) := by
  unfold deliver
  try dsimp only [-Nat.reducePow]
  repeat' first
    | with_reducible exact NetKept.refl _
    | with_reducible refine (net_mHx _ _ ?_).after ?_
    | exact fun _ => netCore_countInj ..
    | exact fun _ => netCore_countEj ..
    | exact fun _ => rfl

theorem net_injectRouted (p : HxPkt) (s : State) : NetKept s (injectRouted p s) := by
  unfold injectRouted
  try dsimp only [-Nat.reducePow]
  repeat' first
    | with_reducible exact NetKept.refl _
    | with_reducible refine (net_mHx _ _ ?_).after ?_
    | exact fun _ => netCore_countInj ..
    | exact fun _ => netCore_countEj ..
    | exact fun _ => rfl
    | with_reducible refine (net_pumpPort ..).after ?_
    | with_reducible refine (net_enqueue ..).after ?_
    | intro _
    | split

theorem net_injectLive (p : HxPkt) (s : State) : NetKept s (injectLive p s) := by
  unfold injectLive
  try dsimp only [-Nat.reducePow]
  repeat' first
    | with_reducible exact NetKept.refl _
    | with_reducible refine (net_injectRouted ..).after ?_

theorem net_mTx (k : Nat) (f : TxSt → TxSt) (s : State) : NetKept s (State.mTx k f s) := by
  unfold State.mTx
  try dsimp only [-Nat.reducePow]
  repeat' first
    | with_reducible exact NetKept.refl _
    | with_reducible refine (net_mHx _ _ ?_).after ?_
    | exact fun _ => netCore_countInj ..
    | exact fun _ => netCore_countEj ..
    | exact fun _ => rfl

theorem net_hxSend (die : Nat) (p : HxPkt) (s : State) : NetKept s (hxSend die p s) := by
  unfold hxSend
  try dsimp only [-Nat.reducePow]
  repeat' first
    | with_reducible exact NetKept.refl _
    | with_reducible refine (net_deliver ..).after ?_
    | with_reducible refine (net_injectLive ..).after ?_
    | with_reducible refine (net_mTx ..).after ?_
    | intro _
    | split

theorem net_drainTx (d n : Nat) (s : State) : NetKept s (drainTx d n s) := by
  induction n generalizing s with
  | zero => exact NetKept.refl s
  | succ n ih =>
    unfold drainTx
    dsimp only [-Nat.reducePow]
    split
    · exact NetKept.refl _
    · split
      · exact NetKept.refl _
      · exact (ih _).after ((net_injectLive ..).after (net_mTx ..))

theorem net_mcastForward (src : Option Nat) (dir : Option Nat) (eject : Bool) (p : HxPkt) (s : State) :
    NetKept s (mcastForward src dir eject p s) := by
  unfold mcastForward
  try dsimp only [-Nat.reducePow]
  repeat' first
    | with_reducible exact NetKept.refl _
    | with_reducible refine (net_mHx _ _ ?_).after ?_
    | exact fun _ => netCore_countInj ..
    | exact fun _ => netCore_countEj ..
    | exact fun _ => rfl
    | with_reducible refine (net_pumpAll ..).after ?_
    | with_reducible refine (net_enqueue ..).after ?_
    | with_reducible refine (net_foldl _ ?_ _ _).after ?_
    | with_reducible refine (net_foldl2 _ ?_ _ _).after ?_
    | intro _

theorem net_injectCopy (p : HxPkt) (s : State) : NetKept s (injectCopy p s) := by
  unfold injectCopy
  try dsimp only [-Nat.reducePow]
  repeat' first
    | with_reducible exact NetKept.refl _
    | with_reducible refine (net_mHx _ _ ?_).after ?_
    | exact fun _ => netCore_countInj ..
    | exact fun _ => netCore_countEj ..
    | exact fun _ => rfl
    | with_reducible refine (net_injectLive ..).after ?_
    | with_reducible refine (net_mcastForward ..).after ?_
    | intro _
    | split

theorem net_mcastSendNow (members : List Nat) (p : HxPkt) (s : State) : NetKept s (mcastSendNow
    members p s) := by
  unfold mcastSendNow
  try dsimp only [-Nat.reducePow]
  repeat' first
    | with_reducible exact NetKept.refl _
    | with_reducible refine (net_mHx _ _ ?_).after ?_
    | exact fun _ => netCore_countInj ..
    | exact fun _ => netCore_countEj ..
    | exact fun _ => rfl
    | with_reducible refine (net_injectLive ..).after ?_
    | with_reducible refine (net_mTx ..).after ?_
    | with_reducible refine (net_mcastForward ..).after ?_
    | with_reducible refine (net_injectCopy ..).after ?_
    | with_reducible refine (net_foldl _ ?_ _ _).after ?_
    | with_reducible refine (net_foldl2 _ ?_ _ _).after ?_
    | intro _
    | split

theorem net_hxMulticast (members : List Nat) (p : HxPkt) (s : State) : NetKept s (hxMulticast
    members p s) := by
  unfold hxMulticast
  try dsimp only [-Nat.reducePow]
  repeat' first
    | with_reducible exact NetKept.refl _
    | with_reducible refine (net_deliver ..).after ?_
    | with_reducible refine (net_mTx ..).after ?_
    | with_reducible refine (net_mcastSendNow ..).after ?_
    | intro _
    | split

theorem net_drainMcast (n : Nat) (s : State) : NetKept s (drainMcast n s) := by
  induction n generalizing s with
  | zero => exact NetKept.refl s
  | succ n ih =>
    unfold drainMcast
    dsimp only
    split
    · exact NetKept.refl _
    · split
      · exact NetKept.refl _
      · exact (ih _).after ((net_mcastSendNow ..).after (net_mTx ..))

theorem net_mRx (k : Nat) (f : RxSt → RxSt) (s : State) : NetKept s (State.mRx k f s) := by
  unfold State.mRx
  try dsimp only [-Nat.reducePow]
  repeat' first
    | with_reducible exact NetKept.refl _
    | with_reducible refine (net_mHx _ _ ?_).after ?_
    | exact fun _ => netCore_countInj ..
    | exact fun _ => netCore_countEj ..
    | exact fun _ => rfl

theorem net_sendAck (die : Nat) (space : Bool) (s : State) : NetKept s (sendAck die space s) := by
  unfold sendAck
  try dsimp only [-Nat.reducePow]
  repeat' first
    | with_reducible exact NetKept.refl _
    | with_reducible refine (net_injectLive ..).after ?_
    | with_reducible refine (net_mRx ..).after ?_

theorem net_tackPacket (off : Nat) (body : Bytes) (s : State) : NetKept s (tackPacket off body s) := by
  unfold tackPacket
  try dsimp only [-Nat.reducePow]
  repeat' first
    | with_reducible exact NetKept.refl _
    | with_reducible refine (net_send ..).after ?_

theorem net_tackPlace (stream : Nat) (body : Bytes) (s : State) : NetKept s (tackPlace stream body s) :=
    by
  unfold tackPlace
  try dsimp only [-Nat.reducePow]
  repeat' first
    | with_reducible exact NetKept.refl _
    | with_reducible refine (net_mOb _ _).after ?_
    | with_reducible refine (net_bump ..).after ?_
    | with_reducible refine (net_tackPacket ..).after ?_
    | intro _
    | split

theorem net_tackWrite (stream type : Nat) (body : Bytes) (s : State) : NetKept s (tackWrite stream type
    body s) := by
  unfold tackWrite
  try dsimp only [-Nat.reducePow]
  repeat' first
    | with_reducible exact NetKept.refl _
    | with_reducible refine (net_mOb _ _).after ?_
    | with_reducible refine (net_bump ..).after ?_
    | with_reducible refine (net_tackPlace ..).after ?_
    | intro _
    | split

theorem net_traceEmit (body : Bytes) (s : State) : NetKept s (traceEmit body s) := by
  unfold traceEmit
  try dsimp only [-Nat.reducePow]
  repeat' first
    | with_reducible exact NetKept.refl _
    | with_reducible refine (net_mOb _ _).after ?_
    | with_reducible refine (net_bump ..).after ?_
    | with_reducible refine (net_hxSend ..).after ?_
    | with_reducible refine (net_tackWrite ..).after ?_
    | intro _
    | split

theorem net_traceEntry (e : W128) (s : State) : NetKept s (traceEntry e s) := by
  unfold traceEntry
  try dsimp only [-Nat.reducePow]
  repeat' first
    | with_reducible exact NetKept.refl _
    | with_reducible refine (net_mOb _ _).after ?_
    | with_reducible refine (net_bump ..).after ?_
    | with_reducible refine (net_traceEmit ..).after ?_
    | intro _
    | split

theorem net_ringPush (u : Nat) (event : Bool) (code cls : Nat) (ctx : Option Nat) (arg : Nat) (s : State) :
    NetKept s (ringPush u event code cls ctx arg s) := by
  unfold ringPush
  try dsimp only [-Nat.reducePow]
  repeat' first
    | with_reducible exact NetKept.refl _
    | with_reducible refine (net_mOb _ _).after ?_
    | with_reducible refine (net_traceEntry ..).after ?_
    | intro _
    | split

theorem net_stateEvent (u off v : Nat) (s : State) : NetKept s (stateEvent u off v s) := by
  unfold stateEvent
  try dsimp only [-Nat.reducePow]
  repeat' first
    | with_reducible exact NetKept.refl _
    | with_reducible refine (net_ringPush ..).after ?_

theorem net_stateChanged (u off old new : Nat) (s : State) : NetKept s (stateChanged u off old new
    s) := by
  unfold stateChanged
  try dsimp only [-Nat.reducePow]
  repeat' first
    | with_reducible exact NetKept.refl _
    | with_reducible refine (net_stateEvent ..).after ?_
    | intro _
    | split

theorem net_mStep (c : Nat) (e : Bool) (n : Nat) (f : StepSt → StepSt) (s : State) : NetKept s (State.mStep c e
    n f s) := by
  unfold State.mStep
  try dsimp only [-Nat.reducePow]
  repeat' first
    | with_reducible exact NetKept.refl _
    | with_reducible refine (net_mLed _ _).after ?_

theorem net_sendCore (kind sub : Nat) (label : Huid) (pre : List W64) (payload : Bytes) (s : State) : NetKept
    s (sendCore kind sub label pre payload s) := by
  unfold sendCore
  try dsimp only [-Nat.reducePow]
  repeat' first
    | with_reducible exact NetKept.refl _
    | with_reducible refine (net_send ..).after ?_

theorem net_openDispute (d : Dispute) (s : State) : NetKept s (openDispute d s) := by
  unfold openDispute
  try dsimp only [-Nat.reducePow]
  repeat' first
    | with_reducible exact NetKept.refl _
    | with_reducible refine (net_mVu _ _).after ?_
    | with_reducible refine (net_bumpCtx ..).after ?_
    | intro _
    | split

theorem net_markStep (c : Nat) (e : Bool) (n : Nat) (by_ : Huid) (s : State) : NetKept s (markStep c
    e n by_ s) := by
  unfold markStep
  try dsimp only [-Nat.reducePow]
  repeat' first
    | with_reducible exact NetKept.refl _
    | with_reducible refine (net_mStep ..).after ?_
    | with_reducible refine (net_openDispute ..).after ?_
    | intro _
    | split

theorem net_residueMark (m : W128) (s : State) : NetKept s (residueMark m s) := by
  unfold residueMark
  try dsimp only [-Nat.reducePow]
  repeat' first
    | with_reducible exact NetKept.refl _
    | with_reducible refine (net_markStep ..).after ?_
    | intro _
    | split

theorem net_placeRec {r : RingRec} {rx : Nat} {s t : State} (h : placeRec r rx s = some t) : NetKept s t := by
  unfold placeRec at h
  dsimp only at h
  cases k : ringPlace r rx s.fc with
  | none => rw [k] at h; cases h
  | some f =>
    rw [k] at h
    cases h
    refine (net_foldl _ (fun s m => net_residueMark m s) _ _).after
      ((net_bump ..).after ?_)
    have e : NetKept s { s with fc := f } := NetKept.of_eq rfl
    split
    · exact (net_bump ..).after e
    · exact e

theorem net_placeRun (rx : Nat) (l : List RingRec) (s : State) : NetKept s (placeRun rx l s).2
    := by
  induction l generalizing s with
  | nil => exact NetKept.refl s
  | cons r l ih =>
    unfold placeRun
    split
    · exact (net_placeRec (by assumption)).trans (ih _)
    · exact NetKept.refl s

theorem net_mCollector (u : Nat) (rs : List RingRec) (s : State) : NetKept s (State.mCollector u rs s) := by
  unfold State.mCollector
  try dsimp only [-Nat.reducePow]
  repeat' first
    | with_reducible exact NetKept.refl _
    | with_reducible refine (net_mFc _ _).after ?_

theorem net_raise (u : Nat) (ms : List (W128 × W128)) (s : State) : NetKept s
    (raise u ms s) := by
  unfold raise
  try dsimp only [-Nat.reducePow]
  repeat' first
    | with_reducible exact NetKept.refl _
    | with_reducible refine (net_mFc _ _).after ?_
    | with_reducible refine (net_ringPush ..).after ?_
    | with_reducible refine (net_placeRun ..).after ?_
    | with_reducible refine (net_mCollector ..).after ?_
    | intro _
    | split

theorem net_report (u kind addr : Nat) (ctx : Option Nat) (h : Huid) (loc : W128) (s : State) :
    NetKept s (report u kind addr ctx h loc s) := by
  unfold report
  try dsimp only [-Nat.reducePow]
  repeat' first
    | with_reducible exact NetKept.refl _
    | with_reducible refine (net_raise ..).after ?_

theorem net_reportSelf (u inst kind addr : Nat) (ctx : Option Nat) (s : State) :
    NetKept s (reportSelf u inst kind addr ctx s) := by
  unfold reportSelf
  try dsimp only [-Nat.reducePow]
  repeat' first
    | with_reducible exact NetKept.refl _
    | with_reducible refine (net_report ..).after ?_

theorem net_reportUnit (u kind addr : Nat) (ctx : Option Nat) (h : Huid) (s : State) :
    NetKept s (reportUnit u kind addr ctx h s) := by
  unfold reportUnit
  try dsimp only [-Nat.reducePow]
  repeat' first
    | with_reducible exact NetKept.refl _
    | with_reducible refine (net_report ..).after ?_

theorem net_reportCores (u kind addr : Nat) (ctx : Option Nat) (labels : List Huid) (s : State) :
    NetKept s (reportCores u kind addr ctx labels s) := by
  unfold reportCores
  try dsimp only [-Nat.reducePow]
  repeat' first
    | with_reducible exact NetKept.refl _
    | with_reducible refine (net_raise ..).after ?_
    | with_reducible refine (net_reportSelf ..).after ?_
    | intro _
    | split

theorem net_consume (p : HxPkt) (s : State) : NetKept s (consume p s) := by
  unfold consume
  try dsimp only [-Nat.reducePow]
  repeat' first
    | with_reducible exact NetKept.refl _
    | with_reducible refine (net_mHx _ _ ?_).after ?_
    | exact fun _ => netCore_countInj ..
    | exact fun _ => netCore_countEj ..
    | exact fun _ => rfl

theorem net_resendFrames (p : Nat) (s : State) : NetKept s (resendFrames p s) := by
  unfold resendFrames
  try dsimp only [-Nat.reducePow]
  repeat' first
    | with_reducible exact NetKept.refl _
    | with_reducible refine (net_mPorts _ _).after ?_
    | with_reducible refine (net_bump ..).after ?_
    | intro _
    | split

theorem net_drainAll (die : Nat) (s : State) : NetKept s (drainAll die s) := by
  unfold drainAll
  try dsimp only [-Nat.reducePow]
  repeat' first
    | with_reducible exact NetKept.refl _
    | with_reducible refine (net_drainTx ..).after ?_
    | with_reducible refine (net_drainMcast ..).after ?_


theorem NetKept.live {s t : State} (h : NetKept s t) : t.hx.live = s.hx.live := by
  have k : (netCore t.hx).live = (netCore s.hx).live := by rw [show netCore t.hx = netCore s.hx from h]
  exact k
theorem NetKept.standby {s t : State} (h : NetKept s t) : t.hx.standby = s.hx.standby := by
  have k : (netCore t.hx).standby = (netCore s.hx).standby := by rw [show netCore t.hx = netCore s.hx from h]
  exact k
theorem NetKept.map {s t : State} (h : NetKept s t) : t.hx.map = s.hx.map := by
  have k : (netCore t.hx).map = (netCore s.hx).map := by rw [show netCore t.hx = netCore s.hx from h]
  exact k
theorem NetKept.ready {s t : State} (h : NetKept s t) : t.hx.ready = s.hx.ready := by
  have k : (netCore t.hx).ready = (netCore s.hx).ready := by rw [show netCore t.hx = netCore s.hx from h]
  exact k
theorem NetKept.counts {s t : State} (h : NetKept s t) : t.hx.counts = s.hx.counts := by
  have k : (netCore t.hx).counts = (netCore s.hx).counts := by rw [show netCore t.hx = netCore s.hx from h]
  exact k
theorem NetKept.base0 {s t : State} (h : NetKept s t) : t.hx.base0 = s.hx.base0 := by
  have k : (netCore t.hx).base0 = (netCore s.hx).base0 := by rw [show netCore t.hx = netCore s.hx from h]
  exact k
theorem NetKept.base1 {s t : State} (h : NetKept s t) : t.hx.base1 = s.hx.base1 := by
  have k : (netCore t.hx).base1 = (netCore s.hx).base1 := by rw [show netCore t.hx = netCore s.hx from h]
  exact k
theorem NetKept.forced {s t : State} (h : NetKept s t) : t.hx.forced = s.hx.forced := by
  have k : (netCore t.hx).forced = (netCore s.hx).forced := by rw [show netCore t.hx = netCore s.hx from h]
  exact k
theorem NetKept.barriers {s t : State} (h : NetKept s t) : t.hx.barriers = s.hx.barriers := by
  have k : (netCore t.hx).barriers = (netCore s.hx).barriers := by rw [show netCore t.hx = netCore s.hx from h]
  exact k
theorem NetKept.down {s t : State} (h : NetKept s t) : t.hx.down = s.hx.down := by
  have k : (netCore t.hx).down = (netCore s.hx).down := by rw [show netCore t.hx = netCore s.hx from h]
  exact k
theorem NetKept.hostOk {s t : State} (h : NetKept s t) : t.hx.hostOk = s.hx.hostOk := by
  have k : (netCore t.hx).hostOk = (netCore s.hx).hostOk := by rw [show netCore t.hx = netCore s.hx from h]
  exact k
theorem NetKept.lastBarrier {s t : State} (h : NetKept s t) : t.hx.lastBarrier = s.hx.lastBarrier := by
  have k : (netCore t.hx).lastBarrier = (netCore s.hx).lastBarrier := by rw [show netCore t.hx = netCore s.hx from h]
  exact k
theorem NetKept.barrierOut {s t : State} (h : NetKept s t) : t.hx.barrierOut = s.hx.barrierOut := by
  have k : (netCore t.hx).barrierOut = (netCore s.hx).barrierOut := by rw [show netCore t.hx = netCore s.hx from h]
  exact k

/-- The link's own state of a port: its training, widths, sequence of arrivals, errors and stalls. -/
theorem NetKept.port {s t : State} (h : NetKept s t) (p : Nat) : portCore (hxPort t p) = portCore (hxPort s p) := by
  have k : (netCore t.hx).ports = (netCore s.hx).ports := by rw [show netCore t.hx = netCore s.hx from h]
  have k : t.hx.ports.map portCore = s.hx.ports.map portCore := k
  have e := congrArg (fun l => l[p]?) k
  simp only [List.getElem?_map] at e
  unfold hxPort
  rw [List.getD_eq_getElem?_getD, List.getD_eq_getElem?_getD]
  cases a : t.hx.ports[p]? with
  | none =>
    cases b : s.hx.ports[p]? with
    | none => rfl
    | some y => rw [a, b] at e; cases e
  | some x =>
    cases b : s.hx.ports[p]? with
    | none => rw [a, b] at e; cases e
    | some y => rw [a, b] at e; exact Option.some.inj e

end Sys2Proof.Machine
end

