-- ==== Sys2Proof/Laws/Obs.lean ====
section
/-!
SUPPORT. What the records of OB leave alone: counting, ring entries, trace records, Tack Room writes and reports change neither
the completed counters, nor the Watch blocks, nor the state of a dump.
-/
namespace Sys2Proof.Machine

/-- OB without what counting and recording change. -/
def obCore (o : Ob) : Ob :=
  { o with active := [], ctxActive := [], rings := [], traceBuf := [], traceDropped := 0, traceWindow := 0, traceBytes := 0,
           rctr := [], tackPos := [], written := [], tackBytes := 0 }

/-- Only what counting and recording change may differ in OB. -/
def ObKept (s t : State) : Prop := obCore t.ob = obCore s.ob

theorem ObKept.refl (s : State) : ObKept s s := rfl
theorem ObKept.trans {s t u : State} (h : ObKept s t) (k : ObKept t u) : ObKept s u := Eq.trans k h
theorem ObKept.after {s t u : State} (k : ObKept t u) (h : ObKept s t) : ObKept s u := h.trans k
theorem ObKept.of_eq {s t : State} (h : t.ob = s.ob) : ObKept s t := congrArg obCore h
theorem ObKept.completed {s t : State} (h : ObKept s t) : t.ob.completed = s.ob.completed := by
  exact (congrArg Ob.completed h : (obCore t.ob).completed = (obCore s.ob).completed)
theorem ObKept.ctxCompleted {s t : State} (h : ObKept s t) : t.ob.ctxCompleted = s.ob.ctxCompleted := by
  exact (congrArg Ob.ctxCompleted h : (obCore t.ob).ctxCompleted = (obCore s.ob).ctxCompleted)
theorem ObKept.snapSeq {s t : State} (h : ObKept s t) : t.ob.snapSeq = s.ob.snapSeq := by
  exact (congrArg Ob.snapSeq h : (obCore t.ob).snapSeq = (obCore s.ob).snapSeq)
theorem ObKept.sampleRace {s t : State} (h : ObKept s t) : t.ob.sampleRace = s.ob.sampleRace := by
  exact (congrArg Ob.sampleRace h : (obCore t.ob).sampleRace = (obCore s.ob).sampleRace)
theorem ObKept.ringSel {s t : State} (h : ObKept s t) : t.ob.ringSel = s.ob.ringSel := by
  exact (congrArg Ob.ringSel h : (obCore t.ob).ringSel = (obCore s.ob).ringSel)
theorem ObKept.traceCtrl {s t : State} (h : ObKept s t) : t.ob.traceCtrl = s.ob.traceCtrl := by
  exact (congrArg Ob.traceCtrl h : (obCore t.ob).traceCtrl = (obCore s.ob).traceCtrl)
theorem ObKept.watch {s t : State} (h : ObKept s t) : t.ob.watch = s.ob.watch := by
  exact (congrArg Ob.watch h : (obCore t.ob).watch = (obCore s.ob).watch)
theorem ObKept.tackOk {s t : State} (h : ObKept s t) : t.ob.tackOk = s.ob.tackOk := by
  exact (congrArg Ob.tackOk h : (obCore t.ob).tackOk = (obCore s.ob).tackOk)
theorem ObKept.tackStopped {s t : State} (h : ObKept s t) : t.ob.tackStopped = s.ob.tackStopped := by
  exact (congrArg Ob.tackStopped h : (obCore t.ob).tackStopped = (obCore s.ob).tackStopped)
theorem ObKept.writeFault {s t : State} (h : ObKept s t) : t.ob.writeFault = s.ob.writeFault := by
  exact (congrArg Ob.writeFault h : (obCore t.ob).writeFault = (obCore s.ob).writeFault)
theorem ObKept.dumpState {s t : State} (h : ObKept s t) : t.ob.dumpState = s.ob.dumpState := by
  exact (congrArg Ob.dumpState h : (obCore t.ob).dumpState = (obCore s.ob).dumpState)
theorem ObKept.dumpSlot {s t : State} (h : ObKept s t) : t.ob.dumpSlot = s.ob.dumpSlot := by
  exact (congrArg Ob.dumpSlot h : (obCore t.ob).dumpSlot = (obCore s.ob).dumpSlot)
theorem ObKept.dumpUnread {s t : State} (h : ObKept s t) : t.ob.dumpUnread = s.ob.dumpUnread := by
  exact (congrArg Ob.dumpUnread h : (obCore t.ob).dumpUnread = (obCore s.ob).dumpUnread)
theorem ObKept.dumpOff {s t : State} (h : ObKept s t) : t.ob.dumpOff = s.ob.dumpOff := by
  exact (congrArg Ob.dumpOff h : (obCore t.ob).dumpOff = (obCore s.ob).dumpOff)
theorem ObKept.dumpSeq {s t : State} (h : ObKept s t) : t.ob.dumpSeq = s.ob.dumpSeq := by
  exact (congrArg Ob.dumpSeq h : (obCore t.ob).dumpSeq = (obCore s.ob).dumpSeq)
theorem ObKept.dumpNext {s t : State} (h : ObKept s t) : t.ob.dumpNext = s.ob.dumpNext := by
  exact (congrArg Ob.dumpNext h : (obCore t.ob).dumpNext = (obCore s.ob).dumpNext)

theorem obs_mOb (f : Ob → Ob) (s : State) (h : ∀ x, obCore (f x) = obCore x) : ObKept s (s.mOb f) := h s.ob
theorem obs_mHx (f : Hx → Hx) (s : State) : ObKept s (s.mHx f) := rfl
theorem obs_mPort (p : Nat) (f : Port → Port) (s : State) : ObKept s (s.mPort p f) := rfl
theorem obs_mPorts (f : Ports → Ports) (s : State) : ObKept s (s.mPorts f) := rfl
theorem obs_mFc (f : Fc → Fc) (s : State) : ObKept s (s.mFc f) := rfl
theorem obs_mLed (f : Led → Led) (s : State) : ObKept s (s.mLed f) := rfl
theorem obs_mVu (f : Vu → Vu) (s : State) : ObKept s (s.mVu f) := rfl

theorem obs_foldl {α : Type} (f : State → α → State) (h : ∀ s a, ObKept s (f s a)) (l : List α) (s : State) :
    ObKept s (l.foldl f s) := by
  induction l generalizing s with
  | nil => exact ObKept.refl s
  | cons a l ih => exact (h s a).trans (ih _)

theorem obs_foldl2 {α β : Type} (f : β × State → α → β × State) (h : ∀ x a, ObKept x.2 (f x a).2)
    (l : List α) (x : β × State) : ObKept x.2 (l.foldl f x).2 := by
  induction l generalizing x with
  | nil => exact ObKept.refl _
  | cons a l ih => exact (h x a).trans (ih _)

theorem obs_bump (k n : Nat) (s : State) : ObKept s (bump k n s) := by
  unfold bump
  try dsimp only [-Nat.reducePow]
  repeat' first
    | with_reducible exact ObKept.refl _
    | with_reducible refine (obs_mOb _ _ ?_).after ?_
    | exact fun _ => rfl

theorem obs_bumpPlan (plan j n : Nat) (s : State) : ObKept s (bumpPlan plan j n s) := by
  unfold bumpPlan
  try dsimp only [-Nat.reducePow]
  repeat' first
    | with_reducible exact ObKept.refl _
    | with_reducible refine (obs_mOb _ _ ?_).after ?_
    | exact fun _ => rfl

theorem obs_bumpCtx (k j ctx n : Nat) (s : State) : ObKept s (bumpCtx k j ctx n s) := by
  unfold bumpCtx
  try dsimp only [-Nat.reducePow]
  repeat' first
    | with_reducible exact ObKept.refl _
    | with_reducible refine (obs_bump ..).after ?_
    | with_reducible refine (obs_bumpPlan ..).after ?_
    | intro _
    | split

theorem obs_send (port kind sub : Nat) (dst : Huid) (pre : List W64) (payload : Bytes) (s : State) : ObKept
    s (send port kind sub dst pre payload s) := by
  unfold send
  try dsimp only [-Nat.reducePow]
  repeat' first
    | with_reducible exact ObKept.refl _
    | with_reducible refine (obs_mPorts _ _).after ?_

theorem obs_freeBuffer (e : QEnt) (s : State) : ObKept s (freeBuffer e s) := by
  unfold freeBuffer
  try dsimp only [-Nat.reducePow]
  repeat' first
    | with_reducible exact ObKept.refl _
    | with_reducible refine (obs_mPort ..).after ?_
    | intro _
    | split

theorem obs_sendFrame (n : Nat) (e : QEnt) (s : State) : ObKept s (sendFrame n e s) := by
  unfold sendFrame
  try dsimp only [-Nat.reducePow]
  repeat' first
    | with_reducible exact ObKept.refl _
    | with_reducible refine (obs_mPorts _ _).after ?_
    | with_reducible refine (obs_bump ..).after ?_
    | with_reducible refine (obs_mPort ..).after ?_
    | with_reducible refine (obs_freeBuffer ..).after ?_
    | intro _
    | split

theorem obs_pumpPort (n k sh : Nat) (s : State) : ObKept s (pumpPort n k sh s) := by
  induction k generalizing sh s with
  | zero => exact ObKept.refl s
  | succ k ih =>
    unfold pumpPort
    dsimp only [-Nat.reducePow]
    repeat' first
      | with_reducible exact ObKept.refl _
      | with_reducible refine (ih ..).after ?_
      | with_reducible refine (obs_mPort ..).after ?_
      | with_reducible refine (obs_sendFrame ..).after ?_
      | with_reducible refine (obs_freeBuffer ..).after ?_
      | with_reducible refine (obs_bump ..).after ?_
      | split

theorem obs_enqueue (n : Nat) (src : Option Nat) (enter : Bool) (p : HxPkt) (s : State) : ObKept s (enqueue n
    src enter p s) := by
  unfold enqueue
  try dsimp only [-Nat.reducePow]
  repeat' first
    | with_reducible exact ObKept.refl _
    | with_reducible refine (obs_mPort ..).after ?_

theorem obs_deliver (p : HxPkt) (s : State) : ObKept s (deliver p s) := by
  unfold deliver
  try dsimp only [-Nat.reducePow]
  repeat' first
    | with_reducible exact ObKept.refl _
    | with_reducible refine (obs_mHx _ _).after ?_

theorem obs_injectRouted (p : HxPkt) (s : State) : ObKept s (injectRouted p s) := by
  unfold injectRouted
  try dsimp only [-Nat.reducePow]
  repeat' first
    | with_reducible exact ObKept.refl _
    | with_reducible refine (obs_mHx _ _).after ?_
    | with_reducible refine (obs_pumpPort ..).after ?_
    | with_reducible refine (obs_enqueue ..).after ?_
    | intro _
    | split

theorem obs_injectLive (p : HxPkt) (s : State) : ObKept s (injectLive p s) := by
  unfold injectLive
  try dsimp only [-Nat.reducePow]
  repeat' first
    | with_reducible exact ObKept.refl _
    | with_reducible refine (obs_injectRouted ..).after ?_

theorem obs_mTx (k : Nat) (f : TxSt → TxSt) (s : State) : ObKept s (State.mTx k f s) := by
  unfold State.mTx
  try dsimp only [-Nat.reducePow]
  repeat' first
    | with_reducible exact ObKept.refl _
    | with_reducible refine (obs_mHx _ _).after ?_

theorem obs_hxSend (die : Nat) (p : HxPkt) (s : State) : ObKept s (hxSend die p s) := by
  unfold hxSend
  try dsimp only [-Nat.reducePow]
  repeat' first
    | with_reducible exact ObKept.refl _
    | with_reducible refine (obs_deliver ..).after ?_
    | with_reducible refine (obs_injectLive ..).after ?_
    | with_reducible refine (obs_mTx ..).after ?_
    | intro _
    | split

theorem obs_tackPacket (off : Nat) (body : Bytes) (s : State) : ObKept s (tackPacket off body s) := by
  unfold tackPacket
  try dsimp only [-Nat.reducePow]
  repeat' first
    | with_reducible exact ObKept.refl _
    | with_reducible refine (obs_send ..).after ?_

theorem obs_tackPlace (stream : Nat) (body : Bytes) (s : State) : ObKept s (tackPlace stream body s) :=
    by
  unfold tackPlace
  try dsimp only [-Nat.reducePow]
  repeat' first
    | with_reducible exact ObKept.refl _
    | with_reducible refine (obs_mOb _ _ ?_).after ?_
    | exact fun _ => rfl
    | with_reducible refine (obs_bump ..).after ?_
    | with_reducible refine (obs_tackPacket ..).after ?_
    | intro _
    | split

theorem obs_tackWrite (stream type : Nat) (body : Bytes) (s : State) : ObKept s (tackWrite stream type
    body s) := by
  unfold tackWrite
  try dsimp only [-Nat.reducePow]
  repeat' first
    | with_reducible exact ObKept.refl _
    | with_reducible refine (obs_mOb _ _ ?_).after ?_
    | exact fun _ => rfl
    | with_reducible refine (obs_bump ..).after ?_
    | with_reducible refine (obs_tackPlace ..).after ?_
    | intro _
    | split

theorem obs_traceEmit (body : Bytes) (s : State) : ObKept s (traceEmit body s) := by
  unfold traceEmit
  try dsimp only [-Nat.reducePow]
  repeat' first
    | with_reducible exact ObKept.refl _
    | with_reducible refine (obs_mOb _ _ ?_).after ?_
    | exact fun _ => rfl
    | with_reducible refine (obs_bump ..).after ?_
    | with_reducible refine (obs_hxSend ..).after ?_
    | with_reducible refine (obs_tackWrite ..).after ?_
    | intro _
    | split

theorem obs_traceEntry (e : W128) (s : State) : ObKept s (traceEntry e s) := by
  unfold traceEntry
  try dsimp only [-Nat.reducePow]
  repeat' first
    | with_reducible exact ObKept.refl _
    | with_reducible refine (obs_mOb _ _ ?_).after ?_
    | exact fun _ => rfl
    | with_reducible refine (obs_bump ..).after ?_
    | with_reducible refine (obs_traceEmit ..).after ?_
    | intro _
    | split

theorem obs_ringPush (u : Nat) (event : Bool) (code cls : Nat) (ctx : Option Nat) (arg : Nat) (s : State) : ObKept s (ringPush u event code cls ctx arg s) := by
  unfold ringPush
  try dsimp only [-Nat.reducePow]
  repeat' first
    | with_reducible exact ObKept.refl _
    | with_reducible refine (obs_mOb _ _ ?_).after ?_
    | exact fun _ => rfl
    | with_reducible refine (obs_traceEntry ..).after ?_
    | intro _
    | split

theorem obs_stateEvent (u off v : Nat) (s : State) : ObKept s (stateEvent u off v s) := by
  unfold stateEvent
  try dsimp only [-Nat.reducePow]
  repeat' first
    | with_reducible exact ObKept.refl _
    | with_reducible refine (obs_ringPush ..).after ?_

theorem obs_stateChanged (u off old new : Nat) (s : State) : ObKept s (stateChanged u off old new
    s) := by
  unfold stateChanged
  try dsimp only [-Nat.reducePow]
  repeat' first
    | with_reducible exact ObKept.refl _
    | with_reducible refine (obs_stateEvent ..).after ?_
    | intro _
    | split

theorem obs_mStep (c : Nat) (e : Bool) (n : Nat) (f : StepSt → StepSt) (s : State) : ObKept s (State.mStep c e
    n f s) := by
  unfold State.mStep
  try dsimp only [-Nat.reducePow]
  repeat' first
    | with_reducible exact ObKept.refl _
    | with_reducible refine (obs_mLed _ _).after ?_

theorem obs_openDispute (d : Dispute) (s : State) : ObKept s (openDispute d s) := by
  unfold openDispute
  try dsimp only [-Nat.reducePow]
  repeat' first
    | with_reducible exact ObKept.refl _
    | with_reducible refine (obs_mVu _ _).after ?_
    | with_reducible refine (obs_bumpCtx ..).after ?_
    | intro _
    | split

theorem obs_markStep (c : Nat) (e : Bool) (n : Nat) (by_ : Huid) (s : State) : ObKept s (markStep c
    e n by_ s) := by
  unfold markStep
  try dsimp only [-Nat.reducePow]
  repeat' first
    | with_reducible exact ObKept.refl _
    | with_reducible refine (obs_mStep ..).after ?_
    | with_reducible refine (obs_openDispute ..).after ?_
    | intro _
    | split

theorem obs_residueMark (m : W128) (s : State) : ObKept s (residueMark m s) := by
  unfold residueMark
  try dsimp only [-Nat.reducePow]
  repeat' first
    | with_reducible exact ObKept.refl _
    | with_reducible refine (obs_markStep ..).after ?_
    | intro _
    | split

theorem obs_placeRec {r : RingRec} {rx : Nat} {s t : State} (h : placeRec r rx s = some t) : ObKept s t := by
  unfold placeRec at h
  dsimp only at h
  cases k : ringPlace r rx s.fc with
  | none => rw [k] at h; cases h
  | some f =>
    rw [k] at h
    cases h
    refine (obs_foldl _ (fun s m => obs_residueMark m s) _ _).after
      ((obs_bump ..).after ?_)
    have e : ObKept s { s with fc := f } := ObKept.of_eq rfl
    split
    · exact (obs_bump ..).after e
    · exact e

theorem obs_placeRun (rx : Nat) (l : List RingRec) (s : State) : ObKept s (placeRun rx l s).2
    := by
  induction l generalizing s with
  | nil => exact ObKept.refl s
  | cons r l ih =>
    unfold placeRun
    split
    · exact (obs_placeRec (by assumption)).trans (ih _)
    · exact ObKept.refl s

theorem obs_mCollector (u : Nat) (rs : List RingRec) (s : State) : ObKept s (State.mCollector u rs s) := by
  unfold State.mCollector
  try dsimp only [-Nat.reducePow]
  repeat' first
    | with_reducible exact ObKept.refl _
    | with_reducible refine (obs_mFc _ _).after ?_

theorem obs_raise (u : Nat) (ms : List (W128 × W128)) (s : State) : ObKept s
    (raise u ms s) := by
  unfold raise
  try dsimp only [-Nat.reducePow]
  repeat' first
    | with_reducible exact ObKept.refl _
    | with_reducible refine (obs_mFc _ _).after ?_
    | with_reducible refine (obs_ringPush ..).after ?_
    | with_reducible refine (obs_placeRun ..).after ?_
    | with_reducible refine (obs_mCollector ..).after ?_
    | intro _
    | split

theorem obs_report (u kind addr : Nat) (ctx : Option Nat) (h : Huid) (loc : W128) (s : State) : ObKept s (report u kind addr ctx h loc s) := by
  unfold report
  try dsimp only [-Nat.reducePow]
  repeat' first
    | with_reducible exact ObKept.refl _
    | with_reducible refine (obs_raise ..).after ?_

theorem obs_reportSelf (u inst kind addr : Nat) (ctx : Option Nat) (s : State) : ObKept s (reportSelf u inst kind addr ctx s) := by
  unfold reportSelf
  try dsimp only [-Nat.reducePow]
  repeat' first
    | with_reducible exact ObKept.refl _
    | with_reducible refine (obs_report ..).after ?_

theorem obs_reportUnit (u kind addr : Nat) (ctx : Option Nat) (h : Huid) (s : State) : ObKept s (reportUnit u kind addr ctx h s) := by
  unfold reportUnit
  try dsimp only [-Nat.reducePow]
  repeat' first
    | with_reducible exact ObKept.refl _
    | with_reducible refine (obs_report ..).after ?_


/-- The bank of counters that SNAP completes (R483). -/
theorem snapNow_ob (s : State) : (snapNow s).ob.snapSeq = s.ob.snapSeq + 1 ∧ (snapNow s).ob.completed = s.ob.active ∧
    (snapNow s).ob.ctxCompleted = s.ob.ctxActive := by
  unfold snapNow
  dsimp only
  generalize e : State.mOb _ s = s0
  have k : ObKept s0 (ringPush uOB true 0x07 0 none s0.ob.snapSeq.toNat (bump 1152 1 s0)) := (obs_ringPush ..).after (obs_bump ..)
  rw [k.snapSeq, k.completed, k.ctxCompleted, ← e]
  exact ⟨rfl, rfl, rfl⟩

theorem ob_mDump (f : Ob → Ob) (s : State) : obCore (s.mDump f).ob = obCore (f s.ob) := by
  unfold State.mDump
  exact (obs_stateChanged ..)

/-- A dump that starts (R493). -/
theorem dumpStart_ob {s : State} (h1 : obOn s = true) (h2 : s.ob.dumpState ≠ dsRUNNING) :
    (dumpStart s).ob.dumpState = dsRUNNING ∧ (dumpStart s).ob.dumpSeq = s.ob.dumpSeq + 1 ∧ (dumpStart s).ob.dumpNext = 0 ∧
      (dumpStart s).ob.dumpSlot = !s.ob.dumpSlot := by
  unfold dumpStart
  rw [if_neg (fun z => z h1), if_neg h2]
  generalize e : State.mDump _ s = s0
  have k0 : obCore s0.ob = obCore { s.ob with
      dumpState := dsRUNNING
      dumpSlot := !s.ob.dumpSlot
      dumpUnread := 0
      dumpOff := 0
      dumpSeq := s.ob.dumpSeq + 1
      dumpNext := 0
      tackPos := s.ob.tackPos.set 4 0 } := by
    rw [← e]
    exact ob_mDump _ s
  unfold snapNow
  dsimp only
  generalize e1 : State.mOb _ s0 = s1
  have k : ObKept s1 (bump 1156 1 (ringPush uOB true 0x07 0 none s1.ob.snapSeq.toNat (bump 1152 1 s1))) :=
    (obs_bump ..).after ((obs_ringPush ..).after (obs_bump ..))
  rw [k.dumpState, k.dumpSeq, k.dumpNext, k.dumpSlot, ← e1]
  exact ⟨(congrArg Ob.dumpState k0 :), (congrArg Ob.dumpSeq k0 :), (congrArg Ob.dumpNext k0 :), (congrArg Ob.dumpSlot k0 :)⟩

end Sys2Proof.Machine
end

