-- ==== Sys2Proof/Laws/Outcomes.lean ====
section
/-!
SUPPORT. What the checkers and lanes store: instances that pass, tokens that leave a queue, and what a state reads as after
a change of other units.
-/
namespace Sys2Proof.Machine

/-! ### Counters and instances -/

theorem bumpCtx_led (k j c n : Nat) (s : State) : (bumpCtx k j c n s).led = s.led := (same_bumpCtx ..).led (by decide)

theorem instOf_congr {s t : State} (h : t.led.insts = s.led.insts) (c : Nat) (e : Bool) (n k : Nat) :
    instOf t c e n k = instOf s c e n k := by
  unfold instOf
  rw [h]

theorem instOf_bumpCtx (k j d m : Nat) (s : State) (c : Nat) (e : Bool) (n t : Nat) :
    instOf (bumpCtx k j d m s) c e n t = instOf s c e n t := instOf_congr (by rw [bumpCtx_led]) ..

theorem instOf_loftWrite (a : Nat) (b : Bytes) (s : State) (c : Nat) (e : Bool) (n t : Nat) :
    instOf (loftWrite a b s) c e n t = instOf s c e n t := instOf_congr (by rw [(same_loftWrite ..).led (by decide)]) ..

/-- An instance takes the change made to it, when the change leaves its name. -/
theorem instOf_mInst {c : Nat} {e : Bool} {n task : Nat} (f : Inst → Inst) {s : State} {i : Inst}
    (h : instOf s c e n task = some i) (hf : ∀ x, isInst c e n task (f x) = isInst c e n task x) :
    instOf (s.mInst c e n task f) c e n task = some (f i) := by
  have key : ∀ l : List Inst, l.find? (isInst c e n task) = some i →
      (l.map fun x => if isInst c e n task x then f x else x).find? (isInst c e n task) = some (f i) := by
    intro l
    induction l with
    | nil => exact fun h => by cases h
    | cons x l ih =>
      intro h
      rw [List.find?_cons] at h
      rw [List.map_cons, List.find?_cons]
      by_cases g : isInst c e n task x = true
      · rw [g] at h
        obtain rfl : x = i := Option.some.inj h
        rw [if_pos g, hf, g]
      · rw [Bool.not_eq_true] at g
        rw [g] at h
        rw [if_neg (by rw [g]; decide), g]
        exact ih h
  exact key _ h

/-- An instance that passed. -/
theorem taskPassed_inst (t : Token) {s : State} {i : Inst} (h : tokInst s t = some i) :
    tokInst (taskPassed t s) t = some { i with passed := true } :=
  instOf_mInst (fun i => { i with passed := true }) h fun _ => rfl

theorem redispatchReturned_first {t : Token} (s : State) (h : t.redispatched = false) : redispatchReturned t s = s := by
  unfold redispatchReturned
  rw [h]
  rfl

/-! ### What a checker reads -/

theorem groupData_congr {s t : State} (h : t.led = s.led) (k : t.mem.loft = s.mem.loft) (p : Plan) (x : Token) (i : Nat) :
    groupData t p x i = groupData s p x i := by
  unfold groupData groupOf instOf
  rw [h, k]

theorem groupDigest_congr {s t : State} (k : t.mem.loft = s.mem.loft) (p : Plan) (x : TaskE) (i n : Nat) :
    groupDigest t p x i n = groupDigest s p x i n := by
  unfold groupDigest
  rw [k]

theorem twinOutcome_congr {s t : State} (h : t.led = s.led) (k : t.mem.loft = s.mem.loft) (p : Plan) (x : Token) :
    twinOutcome t p x = twinOutcome s p x := by
  unfold twinOutcome groupOf instOf
  rw [h, groupData_congr h k, groupData_congr h k]
  dsimp only
  rw [groupDigest_congr k, groupDigest_congr k]

theorem tokWork_congr {s t : State} (h : t.led = s.led) (k : t.mem.loft = s.mem.loft) (p : Plan) (x : Token) :
    tokWork t p x = tokWork s p x := by
  unfold tokWork
  dsimp only
  congr 1
  exact List.map_congr_left fun i _ => groupData_congr h k p x i

theorem shapeWrong_congr {s t : State} (h : t.led = s.led) (k : t.mem.loft = s.mem.loft) (p : Plan) (x : Token) :
    shapeWrong t p x = shapeWrong s p x := by
  unfold shapeWrong groupOf instOf
  rw [h, tokWork_congr h k]

theorem tokTask_congr {s t : State} (h : t.led = s.led) (x : Token) : tokTask t x = tokTask s x := by
  unfold tokTask planTaskOf planOfEpoch planOf standbyOf planAt ctxOf
  rw [h]

theorem tokenStale_congr {s t : State} (h : t.led = s.led) (x : Token) : tokenStale t x = tokenStale s x := by
  unfold tokenStale planOfEpoch planOf standbyOf planAt attemptOf instOf stepOf ctxOf
  rw [h]

/-! ### Lanes and clusters -/

theorem State.mLane_led (n : Nat) (f : Lane → Lane) (s : State) : (s.mLane n f).led = s.led := rfl
theorem State.mLane_mem (n : Nat) (f : Lane → Lane) (s : State) : (s.mLane n f).mem = s.mem := rfl
theorem State.mCluster_led (n : Nat) (f : Cluster → Cluster) (s : State) : (s.mCluster n f).led = s.led := rfl
theorem State.mCluster_mem (n : Nat) (f : Cluster → Cluster) (s : State) : (s.mCluster n f).mem = s.mem := rfl


theorem laneOf_congr {s t : State} (h : t.sa = s.sa) (l : Nat) : laneOf t l = laneOf s l := by
  unfold laneOf
  rw [h]

theorem laneOf_mLane {n : Nat} (f : Lane → Lane) {s : State} (h : n < s.sa.lanes.length) :
    laneOf (s.mLane n f) n = f (laneOf s n) := by
  unfold laneOf State.mLane
  rw [State.mSa_sa, List.getD_eq_getElem?_getD, List.getD_eq_getElem?_getD, List.getElem?_modify, List.getElem?_eq_getElem h]
  simp

theorem laneOf_mLane_other {n l : Nat} (f : Lane → Lane) (s : State) (h : l ≠ n) :
    laneOf (s.mLane n f) l = laneOf s l := by
  unfold laneOf State.mLane
  rw [State.mSa_sa, List.getD_eq_getElem?_getD, List.getD_eq_getElem?_getD, List.getElem?_modify]
  cases s.sa.lanes[l]? with
  | none => rfl
  | some x => simp [Ne.symm h]

theorem clusterOf_mCluster {n : Nat} (f : Cluster → Cluster) {s : State} (h : n < s.sa.clusters.length) :
    clusterOf (s.mCluster n f) n = f (clusterOf s n) := by
  unfold clusterOf State.mCluster
  rw [State.mSa_sa, List.getD_eq_getElem?_getD, List.getD_eq_getElem?_getD, List.getElem?_modify, List.getElem?_eq_getElem h]
  simp

/-! ### Bank operations -/

theorem tagEcc_sound {slot : Nat} {s : State} (h : flipsAt s 3 slot 1 = 0) : tagEcc slot .clean s = (false, s) := by
  unfold tagEcc
  dsimp only
  rw [h]
  rfl

theorem dataEcc_sound {slot byte n : Nat} (i : Ident) {s : State} (h : flipsAt s 0 (slot * 256 + byte / 8) ((n + 7) / 8) = 0) :
    dataEcc slot byte n i .clean s = (false, s) := by
  unfold dataEcc
  dsimp only
  rw [h]
  rfl

/-- A store that the tag check accepts and no error touches. -/
theorem bankStore_accepts {slot byte n : Nat} (partly : Bool) {a : Access} (f : State → State) {s : State}
    (h1 : shedDown s slot = false) (h2 : flipsAt s 3 slot 1 = 0) (h3 : slot < planStore) (h4 : tagMatch (tagOf s slot) (identOf a) = true)
    (h5 : tagScrub (tagOf s slot) = false) (h6 : tagFull (tagOf s slot) = false)
    (h7 : flipsAt s 0 (slot * 256 + byte / 8) ((n + 7) / 8) = 0) :
    bankStore slot byte n partly a .clean f s = busAnswer bsOK [] (f s) := by
  unfold bankStore
  dsimp only
  rw [h1, tagEcc_sound h2, if_neg (show ¬ false = true by decide)]
  have k : writeCheck slot (identOf a) false s = (bsOK, s) := by
    unfold writeCheck
    dsimp only
    rw [if_neg (Nat.not_le.mpr h3), h4, h5, h6]
    rfl
  dsimp only
  rw [k]
  dsimp only
  rw [if_neg (show ¬ bsOK ≠ bsOK from fun z => z rfl), dataEcc_sound _ h7]
  cases partly <;> rfl

/-- One tag is written and no other changes. -/
theorem setTag_only (slot : Nat) (w : W64) {s : State} (h : s.canonical = true) :
    tagOf (setTag slot w s) slot = w ∧ (∀ k, k ≠ slot → tagOf (setTag slot w s) k = tagOf s k) ∧
      (setTag slot w s).mem.loft = s.mem.loft :=
  ⟨tagOf_setTag _ _ _ h, fun _ k => tagOf_setTag_other _ _ k, setTag_loft ..⟩

theorem shedDown_congr {s t : State} (h : t.mem.sheds = s.mem.sheds) (slot : Nat) : shedDown t slot = shedDown s slot := by
  unfold shedDown shedState
  rw [h]

theorem injectAt_mem (array target place : Nat) (s : State) :
    ∃ a f, (injectAt array target place s).mem = { s.mem with armed := a, flips := f } := by
  unfold injectAt takeInjection
  cases s.mem.armed.find? fun x => x.1 = array && x.2.1 = target with
  | none => exact ⟨_, _, rfl⟩
  | some x =>
    dsimp only
    cases x.2.2 with
    | zero => exact ⟨_, _, rfl⟩
    | succ n => exact ⟨_, _, rfl⟩

theorem injectAt_sheds (array target place : Nat) (s : State) : (injectAt array target place s).mem.sheds = s.mem.sheds := by
  obtain ⟨a, f, h⟩ := injectAt_mem array target place s
  rw [h]

theorem injectAt_erasures (array target place : Nat) (s : State) :
    (injectAt array target place s).mem.erasures = s.mem.erasures := by
  obtain ⟨a, f, h⟩ := injectAt_mem array target place s
  rw [h]

theorem setTag_erasures (slot : Nat) (w : W64) (s : State) : (setTag slot w s).mem.erasures = s.mem.erasures := by
  unfold setTag
  rw [injectAt_erasures]
  rfl

theorem loftWrite_sheds (a : Nat) (b : Bytes) (s : State) : (loftWrite a b s).mem.sheds = s.mem.sheds := by
  unfold loftWrite
  rw [injectAt_sheds]
  rfl

/-- The same bytes to every slot of a range. -/
theorem fillSlots_read (b : Bytes) (port : Nat → Nat) (hb : b.length = 2048) (l : List Nat) (s : State) (hc : s.canonical = true)
    (hu : ∀ x ∈ l, shedDown s x = false) :
    let t := l.foldl (fun s x => if shedDown s x then lateWrite (port x) s else loftWrite (slotAddr x) b s) s
    t.canonical = true ∧ (∀ x, x ∈ l ∨ Mem.read s.mem.loft (slotAddr x) 2048 = b → Mem.read t.mem.loft (slotAddr x) 2048 = b) ∧
      ∀ x, x ∉ l → Mem.read t.mem.loft (slotAddr x) 2048 = Mem.read s.mem.loft (slotAddr x) 2048 := by
  induction l generalizing s with
  | nil => exact ⟨hc, fun x h => h.elim (fun z => (List.not_mem_nil z).elim) id, fun _ _ => rfl⟩
  | cons y l ih =>
    dsimp only at ih ⊢
    rw [List.foldl_cons, hu y List.mem_cons_self, if_neg (by decide)]
    have k := ih (loftWrite (slotAddr y) b s) ((sound_loftWrite ..).canonical hc) fun x hx => by
      rw [shedDown_congr (loftWrite_sheds ..)]
      exact hu x (List.mem_cons_of_mem _ hx)
    have same : Mem.read (loftWrite (slotAddr y) b s).mem.loft (slotAddr y) 2048 = b := hb ▸ loftWrite_read _ b s hc
    have other : ∀ x, x ≠ y → Mem.read (loftWrite (slotAddr y) b s).mem.loft (slotAddr x) 2048 = Mem.read s.mem.loft (slotAddr x) 2048 := by
      intro x hx
      refine List.map_congr_left fun i hi => ?_
      have := List.mem_range.mp hi
      refine loftWrite_other b s ?_
      rw [hb]
      unfold slotAddr
      omega
    refine ⟨k.1, fun x h => k.2.1 x ?_, fun x h => (k.2.2 x fun z => h (List.mem_cons_of_mem _ z)).trans (other x fun z => h (z ▸ List.mem_cons_self))⟩
    by_cases e : x = y
    · rw [e]
      exact .inr same
    · rcases h with h | h
      · exact .inl ((List.mem_cons.mp h).resolve_left e)
      · exact .inr ((other x e).trans h)

/-- Zeroed ranges read zero. -/
theorem zeroRanges_get (ranges : List (Nat × Nat)) (m : Mem) :
    ∀ g ∈ ranges, ∀ k < 2048 * g.2, Mem.get (ranges.foldl (fun l g => Mem.zero l (slotAddr g.1) (2048 * g.2)) m) (slotAddr g.1 + k) = 0 := by
  have keep : ∀ (l : List (Nat × Nat)) (m : Mem) (a : Nat), Mem.get m a = 0 →
      Mem.get (l.foldl (fun l g => Mem.zero l (slotAddr g.1) (2048 * g.2)) m) a = 0 := by
    intro l
    induction l with
    | nil => exact fun _ _ h => h
    | cons g l ih =>
      intro m a h
      refine ih _ a ?_
      by_cases c : slotAddr g.1 ≤ a ∧ a < slotAddr g.1 + 2048 * g.2
      · exact Mem.get_zero _ c.1 c.2
      · exact (Mem.get_zero_other _ (by omega)).trans h
  induction ranges generalizing m with
  | nil => exact fun g h => (List.not_mem_nil h).elim
  | cons x l ih =>
    intro g hg k hk
    rcases List.mem_cons.mp hg with e | e
    · subst e
      exact keep l _ _ (Mem.get_zero _ (Nat.le_add_right ..) (by omega))
    · exact ih _ g e k hk

theorem rangesPass_clean (key : W128) (ranges : List (Nat × Nat)) {r : WipeSay} (h : r.bad = []) : rangesPass key ranges r = true := by
  unfold rangesPass zeroDigest badIn
  rw [h, List.all_eq_true]
  exact fun _ _ => rfl

/-! ### Sheds and power domains -/

theorem shedState_setShed {n : Nat} (x : ShedSt) {s : State} (h : n < s.mem.sheds.length) : shedState (setShed n x s) n = x := by
  unfold shedState setShed
  rw [(same_stateChanged ..).mem (by decide), State.mMem_mem]
  dsimp only
  rw [List.getElem?_modify, List.getElem?_eq_getElem h]
  simp

theorem domainOf_setDomain {d : Nat} (x : DomSt) {s : State} (h : d < s.ts.domains.length) : domainOf (setDomain d x s) d = x := by
  unfold domainOf setDomain
  rw [State.mTs_ts]
  dsimp only
  rw [List.getD_eq_getElem?_getD, List.getElem?_set_self h]
  rfl

theorem leBytes_length (n v : Nat) : (leBytes n v).length = n := by
  induction n generalizing v with
  | zero => rfl
  | succ n ih => exact congrArg Nat.succ (ih _)

theorem fillBytes_length (v : Nat) : ((List.replicate 256 (leBytes 8 v)).flatten).length = 2048 := by
  rw [List.length_flatten, List.map_replicate, leBytes_length, List.sum_replicate]
  rfl

/-! ### What a report leaves of the Verdict Unit -/

/-- The Verdict Unit is as it was, but for the disputes that wait. -/
def VuKept (s t : State) : Prop := ∃ w, t.vu = { s.vu with waiting := w }

theorem VuKept.refl (s : State) : VuKept s s := ⟨s.vu.waiting, rfl⟩

theorem VuKept.of_eq {s t : State} (h : t.vu = s.vu) : VuKept s t := ⟨s.vu.waiting, h⟩

theorem VuKept.trans {s t u : State} (h : VuKept s t) (k : VuKept t u) : VuKept s u := by
  obtain ⟨v, h⟩ := h
  obtain ⟨w, k⟩ := k
  exact ⟨w, by rw [k, h]⟩

theorem VuKept.after {s t u : State} (k : VuKept t u) (h : VuKept s t) : VuKept s u := h.trans k

theorem kept_mFc (f : Fc → Fc) (s : State) : VuKept s (s.mFc f) := .of_eq rfl

theorem kept_mLed (f : Led → Led) (s : State) : VuKept s (s.mLed f) := .of_eq rfl

theorem kept_mCollector (u : Nat) (l : List RingRec) (s : State) : VuKept s (s.mCollector u l) := .of_eq rfl

theorem kept_ringPush (u : Nat) (e : Bool) (code cls : Nat) (c : Option Nat) (arg : Nat) (s : State) :
    VuKept s (ringPush u e code cls c arg s) := .of_eq ((same_ringPush ..).vu (by decide))

theorem openDispute_vu (d : Dispute) (s : State) : VuKept s (openDispute d s) := by
  unfold openDispute
  split
  · exact .refl _
  · refine ⟨s.vu.waiting ++ [d], ?_⟩
    rw [State.mVu_vu, (same_bumpCtx ..).vu (by decide)]

theorem markStep_vu (c : Nat) (e : Bool) (n : Nat) (h : Huid) (s : State) : VuKept s (markStep c e n h s) := by
  unfold markStep
  split
  · exact .refl _
  · dsimp only
    split
    · exact .refl _
    · exact openDispute_vu ..

theorem residueMark_vu (m : W128) (s : State) : VuKept s (residueMark m s) := by
  unfold residueMark
  split
  · split
    · exact .refl _
    · exact (markStep_vu ..).trans (markStep_vu ..)
  · exact .refl _

theorem placeRec_vu {r : RingRec} {rx : Nat} {s t : State} (h : placeRec r rx s = some t) : VuKept s t := by
  have fold : ∀ (l : List W128) (s : State), VuKept s (l.foldl (fun s m => residueMark m s) s) := by
    intro l
    induction l with
    | nil => exact fun _ => .refl _
    | cons m l ih => exact fun s => (residueMark_vu ..).trans (ih _)
  unfold placeRec at h
  cases k : ringPlace r rx s.fc with
  | none => rw [k] at h; cases h
  | some f =>
    rw [k] at h
    obtain rfl := Option.some.inj h
    refine .trans (.of_eq ?_) (fold ..)
    rw [(same_bump ..).vu (by decide)]
    split
    · exact (same_bump ..).vu (by decide)
    · rfl

theorem placeRun_vu (rx : Nat) (l : List RingRec) (s : State) : VuKept s (placeRun rx l s).2 := by
  induction l generalizing s with
  | nil => exact .refl _
  | cons r l ih =>
    unfold placeRun
    split
    · rename_i t h
      exact (placeRec_vu h).trans (ih _)
    · exact .refl _

theorem raise_vu (u : Nat) (ms : List (W128 × W128)) (s : State) : VuKept s (raise u ms s) := by
  unfold raise
  dsimp only [-Nat.reducePow]
  repeat' first
    | with_reducible exact VuKept.refl _
    | with_reducible refine (kept_mFc ..).after ?_
    | with_reducible refine (kept_ringPush ..).after ?_
    | with_reducible refine (placeRun_vu ..).after ?_
    | with_reducible refine (kept_mCollector ..).after ?_
    | intro _
    | split

theorem report_vu (u kind addr : Nat) (ctx : Option Nat) (h : Huid) (loc : W128) (s : State) :
    VuKept s (report u kind addr ctx h loc s) := raise_vu ..

theorem reportUnit_vu (u kind addr : Nat) (ctx : Option Nat) (h : Huid) (s : State) :
    VuKept s (reportUnit u kind addr ctx h s) := raise_vu ..

theorem reportSelf_vu (u inst kind addr : Nat) (ctx : Option Nat) (s : State) :
    VuKept s (reportSelf u inst kind addr ctx s) := raise_vu ..

theorem reportCores_vu (u kind addr : Nat) (ctx : Option Nat) (l : List Huid) (s : State) :
    VuKept s (reportCores u kind addr ctx l s) := by
  unfold reportCores
  split
  · exact reportSelf_vu ..
  · exact raise_vu ..

theorem reportVerdict_vu (d : Dispute) (v : Nat) (named : Option (Nat × Huid)) (s : State) :
    VuKept s (reportVerdict d v named s) := by
  unfold reportVerdict
  dsimp only
  split
  · split
    · split
      · exact reportUnit_vu ..
      · exact .refl _
    · exact .refl _
  · split
    · exact reportUnit_vu ..
    · exact reportCores_vu ..

theorem drainToDiscard_vu (c : Nat) (s : State) : VuKept s (drainToDiscard c s) := by
  unfold drainToDiscard
  split
  · split
    · exact .refl _
    · have fold : ∀ (l : List Nat) (s : State), VuKept s (l.foldl (fun s d => if s.led.orphans.contains (d, c) then s else
          reportSelf uLED 0 0x34 c (some d) (s.mLed fun l => { l with orphans := l.orphans ++ [(d, c)] })) s) := by
        intro l
        induction l with
        | nil => exact fun _ => .refl _
        | cons d l ih =>
          intro s
          rw [List.foldl_cons]
          refine .trans ?_ (ih _)
          split
          · exact .refl _
          · with_reducible exact (reportSelf_vu ..).after (kept_mLed ..)
      exact .trans (.of_eq ((same_mCtx ..).vu (by decide))) (fold ..)
  · exact .refl _

/-! ### Procedures -/

/-- A running procedure takes the change made to it. -/
theorem procOf_mProc {d : Dispute} (f : Proc → Proc) {s : State} {q : Proc} (h : procOf s d = some q)
    (hf : ∀ x, (f x).d = x.d) : procOf (s.mProc d f) d = some (f q) := by
  have key : ∀ l : List Proc, l.find? (fun p => sameDispute p.d d) = some q →
      (l.map fun p => if sameDispute p.d d then f p else p).find? (fun p => sameDispute p.d d) = some (f q) := by
    intro l
    induction l with
    | nil => exact fun h => by cases h
    | cons x l ih =>
      intro h
      rw [List.find?_cons] at h
      rw [List.map_cons, List.find?_cons]
      by_cases g : sameDispute x.d d = true
      · rw [g] at h
        obtain rfl : x = q := Option.some.inj h
        rw [if_pos g, hf, g]
      · rw [Bool.not_eq_true] at g
        rw [g] at h
        rw [if_neg (by rw [g]; decide), g]
        exact ih h
  exact key _ h

theorem procOf_congr {s t : State} (h : t.vu.procs = s.vu.procs) (d : Dispute) : procOf t d = procOf s d := by
  unfold procOf
  rw [h]

/-- Requests to cores change nothing of the Verdict Unit. -/
theorem sendSettles_vu (sub c header elem : Nat) (partner : Huid) (l : List Huid) (s : State) :
    (l.foldl (fun s x => sendSettle sub c header elem partner [] x s) s).vu = s.vu := by
  induction l generalizing s with
  | nil => rfl
  | cons x l ih => rw [List.foldl_cons, ih, (same_sendSettle ..).vu (by decide)]

/-- A round asks its labels under a fresh request number. -/
theorem askRound_proc {d : Dispute} (ph : Phase) (sub lo width : Nat) (partner : Huid) (labels : List Huid) {s : State} {q : Proc}
    (h : procOf s d = some q) : procOf (askRound d ph sub lo width partner labels s) d = some { q with
      phase := ph, asked := labels, ranges := [], voided := false, reqId := s.vu.reqSeq % 2 ^ 16, xwait := false } := by
  unfold askRound nextReq
  dsimp only
  rw [procOf_congr (s := State.mProc d _ _) (by rw [sendSettles_vu])]
  exact procOf_mProc (fun p => { p with
    phase := ph, asked := labels, ranges := [], voided := false, reqId := s.vu.reqSeq % 2 ^ 16, xwait := false }) h fun _ => rfl

theorem recordVerdict_vu (d : Dispute) (v : Nat) (named : Option (Nat × Huid)) (e : Nat) (s : State) :
    (recordVerdict d v named e s).vu.lastVerdict = verdictWord d v named ∧ (recordVerdict d v named e s).vu.procs = s.vu.procs ∧
      (recordVerdict d v named e s).vu.xwaits = s.vu.xwaits := by
  unfold recordVerdict
  dsimp only
  rw [(same_tackWrite ..).vu (by decide), State.mVu_vu, (same_mLayerCounts ..).vu (by decide), (same_ringPush ..).vu (by decide),
    (same_bumpCtx ..).vu (by decide)]
  exact ⟨rfl, rfl, rfl⟩

/-- A verdict ends its procedure and stands in `VU.LAST_VERDICT`. -/
theorem conclude_vu (d : Dispute) (v : Nat) (named : Option (Nat × Huid)) (e : Nat) (s : State) :
    (conclude d v named e s).vu.lastVerdict = verdictWord d v named ∧
      (conclude d v named e s).vu.procs = s.vu.procs.filter (fun p => !sameDispute p.d d) ∧
      (conclude d v named e s).vu.xwaits = s.vu.xwaits := by
  have k := recordVerdict_vu d v named e s
  have tell : ∀ u : State, (tellPeer d v named e u).vu.lastVerdict = u.vu.lastVerdict ∧ (tellPeer d v named e u).vu.procs = u.vu.procs ∧
      (tellPeer d v named e u).vu.xwaits = u.vu.xwaits := by
    intro u
    unfold tellPeer
    split
    · exact ⟨rfl, rfl, rfl⟩
    · split
      · exact ⟨rfl, rfl, rfl⟩
      · dsimp only
        rw [(same_hxSend ..).vu (by decide)]
        exact ⟨rfl, rfl, rfl⟩
  unfold conclude endProc
  rw [State.mVu_vu]
  dsimp only
  obtain ⟨w, hw⟩ := reportVerdict_vu d v named (recordVerdict d v named e s)
  rw [(tell _).1, (tell _).2.1, (tell _).2.2, hw]
  exact ⟨k.1, congrArg _ k.2.1, k.2.2⟩

theorem unresolved_vu (d : Dispute) (s : State) :
    (unresolved d s).vu.lastVerdict = verdictWord d vUNRESOLVED none ∧
      (unresolved d s).vu.procs = s.vu.procs.filter (fun p => !sameDispute p.d d) ∧ (unresolved d s).vu.xwaits = s.vu.xwaits := by
  have k := conclude_vu d vUNRESOLVED none 0 s
  unfold unresolved
  dsimp only
  split
  · exact k
  · unfold haltUnresolved
    dsimp only
    rw [(same_haltQuiet ..).vu (by decide)]
    generalize ew : State.mStep _ _ _ _ _ = x
    obtain ⟨w, hw⟩ := drainToDiscard_vu d.ctx x
    rw [hw, ← ew, (same_mStep ..).vu (by decide)]
    exact k

/-! ### The Fabric Control port -/

/-- Requests that may go are issued: they leave the list to send and are outstanding; nothing else of the Yard Master
changes. -/
theorem fcpPump_ym (n : Nat) (s : State) : ∃ a b, (fcpPump n s).ym = { s.ym with toSend := a, outstanding := s.ym.outstanding ++ b } ∧
    a.length + b.length = s.ym.toSend.length := by
  induction n generalizing s with
  | zero => exact ⟨s.ym.toSend, [], by rw [List.append_nil]; rfl, rfl⟩
  | succ n ih =>
    unfold fcpPump
    split
    · rename_i q k h _
      obtain ⟨a, b, h1, h2⟩ := ih (takeEntry k { cls := clFCP, target := q.target, ctx := 0, ctxValid := false }
        (s.mYm fun y => { y with toSend := y.toSend.erase q, outstanding := y.outstanding ++ [q] }))
      rw [(same_takeEntry ..).ym (by decide)] at h1 h2
      refine ⟨a, q :: b, ?_, ?_⟩
      · rw [h1, State.mYm_ym]
        dsimp only
        rw [List.append_assoc]
        rfl
      · have m : q ∈ s.ym.toSend := List.mem_of_find?_eq_some h
        rw [State.mYm_ym] at h2
        dsimp only at h2
        rw [List.length_erase_of_mem m] at h2
        have := List.length_pos_of_mem m
        simp only [List.length_cons]
        omega
    · exact ⟨s.ym.toSend, [], by rw [List.append_nil], rfl⟩

theorem pumpFcp_ym (s : State) : ∃ a b, (pumpFcp s).ym = { s.ym with toSend := a, outstanding := s.ym.outstanding ++ b } ∧
    a.length + b.length = s.ym.toSend.length := fcpPump_ym ..

theorem ymAdvance_waits {s : State} (h : s.ym.outstanding ≠ [] ∨ s.ym.toSend ≠ []) : ymAdvance s = s := by
  unfold ymAdvance
  rw [if_pos]
  rcases h with h | h
  · exact .inl (by simpa using h)
  · exact .inr (by simpa using h)

theorem pollDone_waits {s : State} (h : s.ym.outstanding ≠ [] ∨ s.ym.toSend ≠ []) : pollDone s = s := by
  unfold pollDone
  rw [if_pos]
  rcases h with h | h
  · exact .inr (.inl (by simpa using h))
  · exact .inr (.inr (.inl (by simpa using h)))

theorem mLink_ym {h : Huid} (f : Link → Link) {s : State} {p : PortT} {r : List PortT} (k : linkPorts s h = p :: r) :
    (s.mLink h f).ym = { s.ym with links := Tab.set s.ym.links h.toNat (f (linkSt s p)) } := by
  unfold State.mLink
  rw [k]
  dsimp only
  rw [(same_stateChanged ..).ym (by decide)]
  rfl

theorem linkDowns_ym (l : List Huid) (s : State) : ∃ x, (l.foldl (fun s h => linkDown h s) s).ym = { s.ym with links := x } := by
  induction l generalizing s with
  | nil => exact ⟨_, rfl⟩
  | cons h l ih =>
    obtain ⟨x, hx⟩ := ih (linkDown h s)
    refine ⟨x, hx.trans ?_⟩
    unfold linkDown State.mLink
    split
    · rfl
    · dsimp only
      rw [(same_stateChanged ..).ym (by decide)]
      rfl

theorem meshChanged_idle (removal : Bool) {s : State} (h : s.ym.standby ≠ .writing) :
    meshChanged removal s = s.mYm fun y => { y with pending := true, reroute := y.reroute || removal } := by
  unfold meshChanged
  dsimp only
  rw [State.mYm_ym, if_neg h]

/-! ### The host's accesses, and room in the Intake Ring -/

/-- A die that has HOST_OK answers an access and does nothing else. -/
theorem answer_ok (status : Nat) (rdata : W64) {s : State} (h : s.hx.hostOk = true) :
    answer status rdata s = s.mPorts fun p => { p with hrp := { status := BitVec.ofNat 2 status, rdata := rdata } } := by
  unfold answer
  dsimp only
  rw [if_pos (show (State.mPorts _ s).hx.hostOk = true from h)]

/-- A record that fits before the end of the buffer, with the reserve left free, is placed at WR. -/
theorem placeRec_room {r : RingRec} {rx : Nat} {s : State} (h1 : r.units ≤ ringTail s.fc) (h2 : r.units + rx ≤ ringFree s.fc) :
    ∃ t, placeRec r rx s = some t ∧ t.fc = { s.fc with ring := s.fc.ring ++ [r], wr := s.fc.wr + BitVec.ofNat 13 r.units } := by
  have e : ringPlace r rx s.fc = some { s.fc with ring := s.fc.ring ++ [r], wr := s.fc.wr + BitVec.ofNat 13 r.units } := by
    unfold ringPlace
    dsimp only
    rw [if_pos h1, if_pos h2]
  have fold : ∀ (l : List W128) (u : State), (l.foldl (fun s m => residueMark m s) u).fc = u.fc := by
    intro l
    induction l with
    | nil => exact fun _ => rfl
    | cons m l ih => exact fun u => (ih _).trans ((same_residueMark ..).fc (by decide))
  unfold placeRec
  rw [e]
  refine ⟨_, rfl, ?_⟩
  rw [fold, (same_bump ..).fc (by decide)]
  split
  · rw [(same_bump ..).fc (by decide)]
  · rfl

/-- A message that R293 admits, the first of its source. -/
theorem validate_first (inst : Nat) {m : W128} {s : State} (h1 : acceptable s m = true)
    (h2 : Tab.get s.fc.seqs (msgHuid m).toNat = none) : validate inst m s = (true, s.mFc fun f =>
      { f with seqs := Tab.set f.seqs (msgHuid m).toNat (msgSeq m, msgKind m, s.now.toNat) }) := by
  have k : filterSeq m s = some (s.mFc fun f =>
      { f with seqs := Tab.set f.seqs (msgHuid m).toNat (msgSeq m, msgKind m, s.now.toNat) }) := by
    unfold filterSeq
    dsimp only
    rw [h2]
  unfold validate
  rw [h1, k]
  rfl

theorem countSource_fc (c die : Nat) (key : W128) (now : Nat) (s : State) :
    ∃ x, (countSource c die key now s).2.fc = { s.fc with sources := x } := by
  have room : ∀ u, evictSource s = some u → ∃ x, u.fc = { s.fc with sources := x } := by
    intro u h
    unfold evictSource at h
    split at h
    · obtain rfl := Option.some.inj h
      exact ⟨_, rfl⟩
    · dsimp only at h
      split at h
      · cases h
      · obtain rfl := Option.some.inj h
        exact ⟨_, (same_bump ..).fc (by decide)⟩
  unfold countSource
  split
  · split
    · exact ⟨_, rfl⟩
    · dsimp only
      split
      · exact ⟨_, by rw [State.mFc_fc, (same_bump ..).fc (by decide)]⟩
      · exact ⟨_, rfl⟩
  · dsimp only
    split
    · exact ⟨_, (same_bump ..).fc (by decide)⟩
    · rename_i u h
      obtain ⟨x, hx⟩ := room u h
      have k : ∀ (b : Bool) (y : Source), ∃ x, ((if b = true then bump (668 + c) 1 u else u).mFc fun f =>
          { f with sources := f.sources ++ [y] }).fc = { s.fc with sources := x } := by
        intro b y
        refine ⟨x ++ [y], ?_⟩
        rw [State.mFc_fc]
        cases b
        · rw [if_neg Bool.false_ne_true, hx]
        · rw [if_pos rfl, (same_bump ..).fc (by decide), hx]
      exact k _ _

theorem classSt_congr {s t : State} (h : t.fc.classes = s.fc.classes) (c : Nat) : classSt t c = classSt s c := by
  unfold classSt
  rw [h]

theorem classSt_mClass {c : Nat} (f : ClassSt → ClassSt) {s : State} (h : c < s.fc.classes.length) :
    classSt (s.mClass c f) c = f (classSt s c) := by
  unfold classSt State.mClass
  rw [State.mFc_fc, List.getD_eq_getElem?_getD, List.getD_eq_getElem?_getD, List.getElem?_modify, List.getElem?_eq_getElem h]
  simp

/-! ### Sectors and their orders -/

theorem sectorSt_mSector (n : Nat) (f : SectorSt → SectorSt) (s : State) : sectorSt (s.mSector n f) n = f (sectorSt s n) := by
  unfold sectorSt State.mSector
  rw [State.mCt_ct]
  dsimp only
  rw [Tab.getD, Tab.upd, Tab.get_set_same]
  rfl

theorem sectorSt_congr {s t : State} (h : t.ct.sectors = s.ct.sectors) (n : Nat) : sectorSt t n = sectorSt s n := by
  unfold sectorSt
  rw [h]

theorem takeEntry_ct (k : Nat) (c : Cmd) (s : State) :
    (takeEntry k c s).ct = { s.ct with cmds := Tab.set s.ct.cmds k c } := rfl

theorem tryEntry_ct (cls : Nat) (h : Huid) (s : State) : ∃ x, (tryEntry cls h s).ct = { s.ct with cmds := x } := by
  unfold tryEntry
  split
  · exact ⟨_, takeEntry_ct ..⟩
  · exact ⟨_, rfl⟩

theorem scStart_rst (n : Nat) (s : State) : (sectorSt (scStart n s) n).rstStep = (sectorSt s n).rstStep ∧
    (sectorSt (scStart n s) n).rstFor = (sectorSt s n).rstFor := by
  unfold scStart
  dsimp only
  split
  · exact ⟨rfl, rfl⟩
  · split
    · rename_i o r k _ _
      rw [sectorSt_congr (s := s.mSector n fun y => { y with cur := some o, queue := r }) (by rw [takeEntry_ct]), sectorSt_mSector]
      exact ⟨rfl, rfl⟩
    · exact ⟨rfl, rfl⟩

theorem scStart_empty {n : Nat} {s : State} (h : (sectorSt s n).queue = []) : scStart n s = s := by
  unfold scStart
  dsimp only
  split
  · rfl
  · rw [h]

theorem scStart_waiting (n : Nat) (s : State) : (scStart n s).ct.waiting = s.ct.waiting := by
  unfold scStart
  dsimp only
  split
  · rfl
  · split <;> rfl

/-- An order for a sector that has none starts at once. -/
theorem scOrder_idle {n : Nat} (o : ScOrder) {s : State} {k : Nat} (h1 : (sectorSt s n).cur = none) (h2 : (sectorSt s n).queue = [])
    (h3 : (sectorSt s n).rstStep = 0) (h4 : (sectorSt s n).dead = false) (h5 : freeEntry s = some k) :
    sectorSt (scOrder n o s) n = { sectorSt s n with cur := some o } ∧
      Tab.get (scOrder n o s).ct.cmds k = some (orderCmd n o) := by
  unfold scOrder
  dsimp only
  rw [h1, h2, h3]
  simp only [Option.toList, List.append_nil, List.any_nil, List.filter_nil, List.foldl_nil, Bool.false_eq_true, if_false, false_and, and_false, or_self, ne_eq, not_true_eq_false]
  generalize e0 : (s.mSector n fun y => { y with
    queue := y.queue.filter fun a => !losesTo o a, cur := y.cur.map fun a => if losesTo o a then { a with purposes := [] } else a }) = s0
  have k0 : sectorSt s0 n = sectorSt s n := by
    rw [← e0, sectorSt_mSector, h1, h2]
    show { sectorSt s n with queue := [], cur := none } = sectorSt s n
    rw [← h1, ← h2]
  rw [k0, h2, if_pos (by decide)]
  generalize e1 : (s0.mSector n fun y => { y with queue := y.queue ++ [o] }) = s1
  have k1 : sectorSt s1 n = { sectorSt s n with queue := [o] } := by
    rw [← e1, sectorSt_mSector, k0, h2]
    rfl
  have f1 : freeEntry s1 = some k := by rw [← h5, ← e1, ← e0]; rfl
  unfold scStart
  dsimp only
  rw [k1, f1]
  dsimp only
  rw [h1, h4, if_neg (by decide), sectorSt_congr (s := s1.mSector n fun y => { y with cur := some o, queue := [] }) (by rw [takeEntry_ct]),
    sectorSt_mSector, k1, takeEntry_ct]
  dsimp only
  rw [Tab.get_set_same]
  exact ⟨by simp only [h3, h4], rfl⟩

theorem ymAdvance_standing {s : State} (h : s.ym.standby = .retired ∨ s.ym.standby = .draining) : ymAdvance s = s := by
  unfold ymAdvance
  split
  · rfl
  · rcases h with h | h <;> rw [h]


theorem planOf_led {s t : State} (h : t.led = s.led) (c : Nat) : planOf t c = planOf s c := by
  unfold planOf planAt ctxOf
  rw [h]

/-- A killed context has neither a plan in force nor one waiting. -/
theorem killPlans_ctx (c : Nat) (s : State) : (ctxOf (killPlans c s) c).switch = none ∧ planOf (killPlans c s) c = none := by
  have key : ∀ (u : State) (g : Nat → Plan → State) (e : Bool → Bool) (r : State), (match planOf u c with
      | none => u.mCtx c fun x => { x with switch := none }
      | some (n, p) => (g n p).mCtx c fun x =>
          { x with plan := none, epoch := e x.epoch, halted := false, switch := none, base := 0, fullSince := none }) = r →
      (ctxOf r c).switch = none ∧ planOf r c = none := by
    intro u g e r h
    have p : ∀ v : State, v.led.plans = u.led.plans → ∀ n, planAt v n = planAt u n := fun v h n => congrArg (Tab.get · n) h
    cases k : planOf u c with
    | none =>
      rw [k] at h
      subst h
      refine ⟨by rw [ctxOf_mCtx], ?_⟩
      refine Eq.trans (b := planOf u c) ?_ k
      show planOf (u.mCtx c fun x => { x with switch := none }) c = planOf u c
      unfold planOf
      rw [ctxOf_mCtx]
      have q := p (u.mCtx c fun x => { x with switch := none }) (by unfold State.mCtx; rw [(same_stateChanged ..).led (by decide), State.mLed_led])
      simp only [q]
    | some y =>
      rw [k] at h
      subst h
      refine ⟨by rw [ctxOf_mCtx], ?_⟩
      unfold planOf
      rw [ctxOf_mCtx]
  unfold killPlans
  dsimp only
  exact key _ _ not _ rfl

theorem timedOut_ct (c : Cmd) (s : State) : ∃ x, (timedOut c s).ct = { s.ct with timeouts := s.ct.timeouts + 1, lastTimeout := x } := by
  unfold timedOut
  dsimp only
  exact ⟨_, ((same_reportUnit ..).ct (by decide)).trans ((same_bump ..).ct (by decide))⟩

theorem hostDone_ct (w : W64) (st : Nat) (s : State) : ∃ x, (hostDone w st s).ct = { s.ct with orderStatus := x } := by
  unfold hostDone
  exact ⟨_, State.mCt_ct _ _⟩

theorem hostDones_ct (st : Nat) (l : List W64) (s : State) :
    ∃ x, (l.foldl (fun s w => hostDone w st s) s).ct = { s.ct with orderStatus := x } := by
  induction l generalizing s with
  | nil => exact ⟨s.ct.orderStatus, rfl⟩
  | cons w l ih =>
    obtain ⟨y, hy⟩ := hostDone_ct w st s
    obtain ⟨x, hx⟩ := ih (hostDone w st s)
    exact ⟨x, by rw [List.foldl_cons, hx, hy]⟩

end Sys2Proof.Machine
end

