-- ==== Sys2Proof/Laws/Outcomes2.lean ====
section
/-!
SUPPORT. What single operations answer, continued: the Hitch, the Farrier, the start sequence, power, security, the watch and
the host port.
-/
namespace Sys2Proof.Machine

/-! ### The Hitch -/

theorem consumer_own {kind : Nat} {p : HxPkt} {s : State} (f : State → State) (h1 : hxKind p = kind) (h2 : s.hx.down = false) :
    consumer kind p f s = f (consume p s) := by
  unfold consumer
  rw [if_neg (by rw [h1, h2]; rintro (z | z); exacts [z rfl, Bool.false_ne_true z])]

theorem consume_hx (p : HxPkt) (s : State) : (consume p s).hx = { s.hx with delivered := s.hx.delivered.erase p } := rfl

theorem hxPort_mPort {p : Nat} (f : Port → Port) {s : State} (h : p < s.hx.ports.length) :
    hxPort (s.mPort p f) p = f (hxPort s p) := by
  unfold hxPort State.mPort
  rw [State.mHx_hx, List.getD_eq_getElem?_getD, List.getD_eq_getElem?_getD, List.getElem?_modify, List.getElem?_eq_getElem h]
  simp

theorem hxPort_congr {s t : State} (h : t.hx.ports = s.hx.ports) (p : Nat) : hxPort t p = hxPort s p := by
  unfold hxPort
  rw [h]

/-- A change of a port's training writes the port; the event it records travels as traffic. -/
theorem hxPort_mTrain {p : Nat} (f : Port → Port) {s : State} (h : p < s.hx.ports.length) :
    portCore (hxPort (s.mTrain p f) p) = portCore (f (hxPort s p)) := by
  unfold State.mTrain
  dsimp only
  rw [(net_stateChanged ..).port, hxPort_mPort f h]

theorem stateChanged_same (u off v : Nat) (s : State) : stateChanged u off v v s = s := by
  unfold stateChanged
  rw [if_pos rfl]

theorem barrierOf_congr {s t : State} (h : t.hx.barriers = s.hx.barriers) (b : Nat) : barrierOf t b = barrierOf s b := by
  unfold barrierOf
  rw [h]

theorem barrierOf_mBarrier {b : Nat} (f : Barrier → Barrier) {s : State} (h : b < s.hx.barriers.length) :
    barrierOf (s.mBarrier b f) b = f (barrierOf s b) := by
  have k : barrierOf (s.mHx fun h => { h with barriers := h.barriers.modify b f }) b = f (barrierOf s b) := by
    unfold barrierOf
    rw [State.mHx_hx, List.getD_eq_getElem?_getD, List.getD_eq_getElem?_getD, List.getElem?_modify, List.getElem?_eq_getElem h]
    simp
  unfold State.mBarrier
  dsimp only
  rw [barrierOf_congr (net_stateChanged ..).barriers, k]

theorem net_diesReport (kind : Nat) (dies : List Nat) (s : State) : NetKept s (diesReport kind dies s) := net_raise ..

theorem net_sendRelease (b : Nat) (gen : BitVec 8) (a : Bool) (t : Nat) (l : List Nat) (s : State) :
    NetKept s (sendRelease b gen a t l s) := net_hxMulticast ..

theorem net_sendArrive (b : Nat) (s : State) : NetKept s (sendArrive b s) := net_hxSend ..

/-- The map of the network and HOST_OK keep their values. -/
def MapKept (s t : State) : Prop := t.hx.map = s.hx.map ∧ t.hx.hostOk = s.hx.hostOk

theorem MapKept.refl (s : State) : MapKept s s := ⟨rfl, rfl⟩
theorem MapKept.trans {s t u : State} (h : MapKept s t) (k : MapKept t u) : MapKept s u := ⟨k.1.trans h.1, k.2.trans h.2⟩
theorem NetKept.mapKept {s t : State} (h : NetKept s t) : MapKept s t := ⟨h.map, h.hostOk⟩

theorem timeLost_map (s : State) : MapKept s (timeLost s) := by
  have first : MapKept s (if s.hx.locked then bump 814 1 s else s) := by
    split
    · exact (net_bump ..).mapKept
    · exact .refl s
  unfold timeLost
  dsimp only
  generalize (if s.hx.locked then bump 814 1 s else s : State) = u at first ⊢
  refine first.trans (MapKept.trans ?_ (net_reportSelf ..).mapKept)
  exact ⟨rfl, rfl⟩

theorem timeTree_map (s : State) : MapKept s (timeTree s) := by
  have first : ∀ b : Bool, MapKept s (if b then timeLost s else s) := by
    intro b
    cases b
    · exact .refl s
    · exact timeLost_map s
  unfold timeTree
  dsimp only
  generalize e : (s.hx.stepped && _ && _ && _ : Bool) = b
  have l := first b
  generalize (if b = true then timeLost s else s) = u at l ⊢
  refine l.trans ?_
  cases parentPortOf u
  · exact ⟨rfl, rfl⟩
  · exact ⟨rfl, rfl⟩

theorem computeStandby_map (s : State) : MapKept s (computeStandby s) := by
  unfold computeStandby
  dsimp only
  exact MapKept.trans (t := State.mHx _ s) ⟨rfl, rfl⟩ (net_hxSend ..).mapKept

theorem mapChanged_map (old : List (Nat × Bool × Bool)) (c : Nat) (s : State) : MapKept s (mapChanged old c s) := by
  unfold mapChanged
  split
  · exact .refl s
  · dsimp only
    have k : ∀ u : State, MapKept u (if u.hx.standby = .draining then u.mHx fun h => { h with pendingMap := true } else computeStandby u) := by
      intro u
      split
      · exact ⟨rfl, rfl⟩
      · exact computeStandby_map u
    have l := timeTree_map s
    generalize timeTree s = u at l ⊢
    have m := l.trans (k u)
    generalize (if u.hx.standby = .draining then u.mHx fun h => { h with pendingMap := true } else computeStandby u : State) = v at m ⊢
    split
    · exact m
    · refine m.trans (NetKept.mapKept (net_foldl _ (fun u b => ?_) _ v))
      split
      · exact net_sendArrive ..
      · exact .refl _

theorem sendBulk_map (die arg : Nat) (b : Bytes) (s : State) : MapKept s (sendBulk die arg b s) := by
  unfold sendBulk
  dsimp only
  exact (net_foldl _ (fun u x => net_hxSend ..) _ s).mapKept.trans ⟨rfl, rfl⟩

theorem sendReports_map (s : State) : MapKept s (sendReports s) := by
  unfold sendReports
  split
  · exact .refl s
  · dsimp only
    split
    · exact ⟨rfl, rfl⟩
    · have fold : ∀ (l : List Nat) (d : Nat) (u : State), MapKept u (l.foldl (fun s n =>
          sendBulk d 1 (leBytes 8 (stageWord s n).toNat ++ lociBytes (stageRep s n).loci) s) u) := by
        intro l d
        induction l with
        | nil => exact fun u => .refl u
        | cons n l ih => exact fun u => (sendBulk_map ..).trans (ih _)
      exact MapKept.trans (t := State.mCfg _ s) ⟨rfl, rfl⟩ (fold ..)

theorem sendState_hostOk (s : State) : (sendState s).hx.hostOk = s.hx.hostOk := by
  unfold sendState
  split
  · rfl
  · exact (net_hxMulticast ..).hostOk

theorem stateChange_hostOk (s : State) : (stateChange s).hx.hostOk = s.hx.hostOk := by
  unfold stateChange
  split
  · rfl
  · dsimp only
    split
    · rfl
    · rw [(mapChanged_map ..).2, sendState_hostOk]
      rfl

theorem throttleUpdate_ports (s : State) : (throttleUpdate s).hx.ports = s.hx.ports := by
  unfold throttleUpdate
  dsimp only
  split
  · split <;> rfl
  · split
    · rfl
    · rw [(same_bump ..).hx (by decide)]
      rfl

/-- A change that leaves the training state alone records no event. -/
theorem mTrain_still {p : Nat} (f : Port → Port) {s : State} (h : (f (hxPort s p)).st = (hxPort s p).st) :
    s.mTrain p f = s.mPort p f := by
  unfold State.mTrain
  dsimp only
  rw [h, stateChanged_same]

theorem mBarrier_still {b : Nat} (f : Barrier → Barrier) {s : State} (h : (f (barrierOf s b)).st = (barrierOf s b).st) :
    s.mBarrier b f = s.mHx fun h => { h with barriers := h.barriers.modify b f } := by
  unfold State.mBarrier
  dsimp only
  rw [h, stateChanged_same]

theorem txOf_mTx (k j : Nat) (f : TxSt → TxSt) (s : State) :
    txOf (s.mTx k f) j = if j = k then f (txOf s k) else txOf s j := by
  unfold txOf State.mTx
  rw [State.mHx_hx]
  dsimp only
  split
  · rename_i h
    rw [h, Tab.getD, Tab.upd, Tab.get_set_same]
    rfl
  · rename_i h
    rw [Tab.getD, Tab.upd, Tab.get_set_other _ _ h]
    rfl

theorem drainAll_idle {die : Nat} {s : State} (h1 : (txOf s (txKey die false)).waiting = []) (h2 : (txOf s mcastKey).waiting = []) :
    drainAll die s = s := by
  unfold drainAll
  dsimp only
  have a : drainTx die ((txOf s (txKey die false)).waiting.length + 1) s = s := by
    rw [drainTx]
    dsimp only
    rw [h1]
  rw [a, drainMcast, h2]

theorem spread_congr {t : Topo} {g h : Hx} (e : g.map = h.map) (n : Nat) (l : List Nat) : spread t g n l = spread t h n l := by
  have k : ∀ d, linkUsable t g d = linkUsable t h d := by
    intro d
    funext p
    unfold linkUsable portActive
    rw [e]
  induction n generalizing l with
  | zero => rfl
  | succ n ih =>
    unfold spread
    simp only [k]
    exact ih _

/-- The live dies follow from the map, the topology and the die's own number. -/
theorem liveDies_congr {s t : State} (h1 : t.hx.map = s.hx.map) (h2 : t.cfg.topo = s.cfg.topo) (h3 : dieNat t = dieNat s) :
    liveDies t = liveDies s := by
  unfold liveDies component
  rw [h1, h2, h3]
  split
  · rw [spread_congr h1]
  · rfl

/-! ### The start sequence and the Farrier -/

/-- Stage Reports that are due leave `CFG` alone but for the list of those due. -/
theorem sendReports_cfg (s : State) : ∃ l, (sendReports s).cfg = { s.cfg with reportsDue := l } := by
  unfold sendReports
  split
  · exact ⟨_, rfl⟩
  · dsimp only
    split
    · exact ⟨_, rfl⟩
    · refine ⟨[], ?_⟩
      have fold : ∀ (l : List Nat) (d : Nat) (u : State), (l.foldl (fun s n =>
          sendBulk d 1 (leBytes 8 (stageWord s n).toNat ++ lociBytes (stageRep s n).loci) s) u).cfg = u.cfg := by
        intro l d
        induction l with
        | nil => exact fun u => rfl
        | cons n l ih => exact fun u => (ih _).trans ((same_sendBulk ..).cfg (by decide))
      rw [fold]
      rfl

theorem stageReport_cfg (n st : Nat) (loci : List W128) (d : Nat) (s : State) :
    (stageReport n st loci d s).cfg.stage = s.cfg.stage ∧ (stageReport n st loci d s).cfg.lastStatus = st ∧
      (stageReport n st loci d s).cfg.inService = s.cfg.inService ∧ (stageReport n st loci d s).cfg.heldAt = s.cfg.heldAt ∧
      (stageReport n st loci d s).cfg.topo = s.cfg.topo := by
  unfold stageReport
  dsimp only
  generalize e : State.mCfg _ s = u
  have k : u.cfg.stage = s.cfg.stage ∧ u.cfg.lastStatus = st ∧ u.cfg.inService = s.cfg.inService ∧ u.cfg.heldAt = s.cfg.heldAt ∧
      u.cfg.topo = s.cfg.topo := by
    rw [← e]
    exact ⟨rfl, rfl, rfl, rfl, rfl⟩
  have fold : ∀ (l : List Nat) (v : State), (l.foldl (fun s k => tackStage k s) v).cfg = v.cfg := by
    intro l
    induction l with
    | nil => exact fun u => rfl
    | cons n l ih => exact fun u => (ih _).trans ((same_tackStage ..).cfg (by decide))
  have m : (if n = 5 then (List.range 6).foldl (fun s k => tackStage k s) u else if 5 < n then tackStage n u else u).cfg = u.cfg := by
    split
    · exact fold _ _
    · split
      · exact (same_tackStage ..).cfg (by decide)
      · rfl
  generalize (if n = 5 then (List.range 6).foldl (fun s k => tackStage k s) u else if 5 < n then tackStage n u else u : State) = v at m ⊢
  obtain ⟨l, h⟩ := sendReports_cfg v
  rw [h, m]
  exact k

/-- A stage that passes is over: the next one runs, and its status is the last. -/
theorem stagePass_cfg (n st : Nat) (loci : List W128) (d : Nat) (s : State) :
    (stagePass n st loci d s).cfg.stage = n + 1 ∧ (stagePass n st loci d s).cfg.lastStatus = st := by
  unfold stagePass
  rw [State.mCfg_cfg]
  exact ⟨rfl, (stageReport_cfg ..).2.1⟩

theorem padOf_mPad (h : Huid) (f : Pad → Pad) (s : State) : padOf (s.mPad h f) h = f (padOf s h) := by
  unfold padOf State.mPad
  rw [State.mVu_vu]
  dsimp only
  rw [Tab.getD, Tab.upd, Tab.get_set_same]
  rfl

theorem pkgBytes_mPkg (f : Fr → Fr) (s : State) : (s.mPkg f).fr = f s.fr := by
  unfold State.mPkg
  rw [(same_stateChanged ..).fr (by decide), State.mFr_fr]

theorem deriveS1_lc (s : State) : (deriveS1 s).sec.lc = s.sec.lc := by
  have st : ∀ (n : Nat) (k : BitVec 384) (u : State), (plainKey n k u).sec.lc = u.sec.lc := fun _ _ _ => rfl
  have un : ∀ u : State, (unwrapKeys u).sec.lc = u.sec.lc := by
    intro u
    unfold unwrapKeys
    split
    · rfl
    · dsimp only
      split
      · split <;> rfl
      · rfl
  have di : ∀ u : State, (deriveIdentity u).sec.lc = u.sec.lc := by
    intro u
    unfold deriveIdentity
    split <;> rfl
  unfold deriveS1
  dsimp only
  rw [un, di, st]
  rfl

/-! ### Rounds of TS -/

theorem setLevel_rounds (n lv : Nat) (s : State) : (setLevel n lv s).ts.rounds = s.ts.rounds := by
  unfold setLevel
  dsimp only
  split
  · rfl
  · generalize e : State.mTs _ s = s0
    have r0 : s0.ts.rounds = s.ts.rounds := by rw [← e]; rfl
    have r1 : ∀ u : State, u.ts = s0.ts → u.ts.rounds = s.ts.rounds := fun u h => by rw [h, r0]
    have r2 : (if n < 64 ∧ (sectorT s0 n).isSome then bump 1053 1 (s0.mSector n fun x => { x with throttle := lv }) else s0).ts = s0.ts := by
      split
      · exact (same_bump ..).ts (by decide)
      · rfl
    generalize (if n < 64 ∧ (sectorT s0 n).isSome then bump 1053 1 (s0.mSector n fun x => { x with throttle := lv }) else s0) = s1 at r2 ⊢
    split
    · exact r1 _ r2
    · have r3 : (if 2 ≤ lv ∧ ((s.ts.nodes[n]?).map (·.level)).getD 0 < 2 then reportUnit uTS 0x9C 0 none (nodeHuid n) s1 else s1).ts = s0.ts := by
        split
        · exact ((same_reportUnit ..).ts (by decide)).trans r2
        · exact r2
      split
      · exact r1 _ (((same_reportUnit ..).ts (by decide)).trans r3)
      · exact r1 _ r3

theorem nodeRounds (dt tin tcp ps : Rat) (first : State → Bool) (l : List Nat) (s : State) :
    (l.foldl (fun s n => nodeRound dt tin tcp ps (first s) n s) s).ts.rounds = s.ts.rounds := by
  induction l generalizing s with
  | nil => rfl
  | cons n l ih =>
    rw [List.foldl_cons, ih]
    unfold nodeRound
    exact setLevel_rounds ..

theorem coolant_rounds (s : State) : (coolant s).2.2.ts.rounds = s.ts.rounds := by
  unfold coolant
  dsimp only
  have r1 : (if ((readingOf s 4).isNone || (readingOf s 5).isNone) = true ∧ ¬ s.ts.coolWarned = true then
      reportSelf uTS 0 0x9C 0 none (s.mTs fun t => { t with coolWarned := true }) else s).ts.rounds = s.ts.rounds := by
    split
    · rw [(same_reportSelf ..).ts (by decide)]; rfl
    · rfl
  generalize (if ((readingOf s 4).isNone || (readingOf s 5).isNone) = true ∧ ¬ s.ts.coolWarned = true then
      reportSelf uTS 0 0x9C 0 none (s.mTs fun t => { t with coolWarned := true }) else s) = u at r1 ⊢
  rw [← r1]
  split
  · rw [(same_reportSelf ..).ts (by decide)]
  · rfl

theorem siliconPower_ts (s : State) : (siliconPower s).2.ts = s.ts := (same_siliconPower ..).ts (by decide)

/-! ### Orders of SEC that are done -/

theorem endOrder_done (s : State) : (endOrder lsDONE s).sec.lcStatus = lsDONE ∧ (endOrder lsDONE s).sec.provData = [] ∧
    (endOrder lsDONE s).nv = s.nv := by
  unfold endOrder
  dsimp only
  rw [if_neg (by decide)]
  exact ⟨rfl, rfl, rfl⟩

theorem endOrder_nextLc (s : State) : (endOrder lsDONE s).sec.nextLc = s.sec.nextLc := by
  unfold endOrder
  dsimp only
  rw [if_neg (by decide)]
  rfl

end Sys2Proof.Machine
end

