-- ==== Sys2Proof/Laws/Tenant.lean ====
section
/-!
SUPPORT. A TENANT's request of the Host Register Port (R457, R458): what a TENANT may not do is denied, and nothing that few
commands change is within its reach.
-/
namespace Sys2Proof.Machine

theorem tenant_noOperator (s : State) : isOperator s 0 = false := rfl

/-- Without the right, a write is denied. -/
theorem operatorWrite_denied {priv : BitVec 2} {s : State} (f : State → State) (h : isOperator s priv = false) :
    operatorWrite priv f s = hrp (denied priv) s := by
  unfold operatorWrite hrp
  dsimp only
  rw [h, if_neg (show ¬ false = true from Bool.false_ne_true)]

theorem steady_hrpDenied (priv : BitVec 2) (s : State) : Steady s (hrp (denied priv) s) := steady_hrp _ _ fun _ => steady_denied ..

theorem tenant_operatorWrite (f : State → State) (s : State) : Steady s (operatorWrite 0 f s) := by
  rw [operatorWrite_denied f (tenant_noOperator s)]
  exact steady_hrpDenied ..

theorem tenant_ctOrderWrite (w : W64) (f : State → State) (s : State) : Steady s (ctOrderWrite 0 w f s) := by
  unfold ctOrderWrite
  refine steady_hrp _ _ fun u => ?_
  dsimp only
  rw [if_pos (by rw [tenant_noOperator]; exact Bool.false_ne_true)]
  exact (steady_reportSelf ..).after (steady_denied ..)

theorem tenant_injectWrite (f : State → State) (s : State) : Steady s (injectWrite 0 f s) := by
  unfold injectWrite
  refine steady_hrp _ _ fun u => ?_
  rw [if_pos (by rw [tenant_noOperator]; exact Bool.false_ne_true)]
  exact steady_denied ..

theorem tenant_testOrder (b : Bool) (f : State → State) (s : State) : Steady s (testOrder b 0 f s) := tenant_operatorWrite ..

theorem tenant_orderRow (op : Nat) (w : W64) (f : Nat → W64 → State → State) (s : State) : Steady s (orderRow op 0 w f s) := by
  unfold orderRow
  split
  · exact tenant_ctOrderWrite ..
  · exact Steady.refl _

theorem tenant_lcRow (op : Nat) (w : W64) (f : State → State) (s : State) : Steady s (lcRow op 0 w f s) := by
  unfold lcRow
  split
  · exact Steady.refl _
  · exact tenant_operatorWrite ..

theorem tenant_pkgRow (op : Nat) (w : W64) (f : State → State) (s : State) : Steady s (pkgRow op 0 w f s) := by
  unfold pkgRow
  split
  · exact tenant_testOrder ..
  · exact Steady.refl _

theorem tenant_lcCtrl (w : W64) (s : State) : Steady s (lcCtrl 0 w s) := by
  unfold lcCtrl
  split <;> first | exact tenant_lcRow .. | exact tenant_operatorWrite ..

theorem tenant_pkgCtrl (w : W64) (s : State) : Steady s (pkgCtrl 0 w s) := by
  unfold pkgCtrl
  split <;> first | exact tenant_pkgRow .. | exact tenant_testOrder ..

theorem tenant_orderReg {a : Nat} {w : W64} {s t : State} (h : orderReg 0 a w s = some t) : Steady s t := by
  unfold orderReg at h
  split at h <;> first | (cases h; done) | skip
  all_goals (obtain rfl := Option.some.inj h)
  all_goals first
    | exact tenant_operatorWrite ..
    | exact tenant_injectWrite ..
    | exact tenant_ctOrderWrite ..
    | exact tenant_testOrder ..
    | exact tenant_pkgCtrl ..
    | exact tenant_lcCtrl ..
    | exact (tenant_testOrder ..).after (steady_fuseBits ..)
    | exact steady_hostBarrier ..
    | exact steady_sarCtrl ..
    | exact steady_watchGo ..
    | exact steady_tenantWrite _ _ _ fun _ => by split <;> first | exact steady_tokenPresent .. | exact Steady.refl _

theorem tenant_expertAccess (a : Nat) (f : State → State) (s : State) : Steady s (expertAccess 0 a f s) := by
  unfold expertAccess
  rw [if_pos (by rw [tenant_noOperator]; exact Bool.false_ne_true)]
  exact steady_denied ..

theorem tenant_registerWrite (addr : BitVec 22) (w : W64) (s : State) : Steady s (registerWrite 0 addr w s) := by
  unfold registerWrite
  refine steady_hrp _ _ fun u => ?_
  split
  · unfold writeBasic
    split
    · exact steady_answer ..
    · split
      · exact tenant_orderReg (by assumption)
      · split
        · exact (steady_basicWrite ..).after (steady_answer ..)
        · exact steady_denied ..
  · split
    · split
      · exact steady_answer ..
      · exact steady_denied ..
    · exact tenant_expertAccess ..

theorem tenant_hostBist (b : Bool) (w : W64) (s : State) : Steady s (testOrder b 0 (hostBist w) s) := tenant_testOrder ..

end Sys2Proof.Machine
end

section
/-!
The law of the byte memory (00_scope.md), from the laws of the sparse arrays.
-/
namespace Sys2Proof.Machine

/-- Settles O51, by the induction over the written bytes in `Mem.get_write`, `Mem.get_write_other` and `Mem.wf_write`.
The canonical form is what lets a zero byte read back: writing it removes the one entry of its address. -/
theorem bytesReadAsWritten : Obligations.BytesReadAsWritten := by
  intro m a b hm
  refine ⟨fun i hi => ?readsBack, fun k hk => ?elsewhere, ?canonical⟩
  case readsBack => exact Mem.get_write a b i hi hm
  case elsewhere => exact Mem.get_write_other m b hk
  case canonical => exact Mem.wf_write a b hm

end Sys2Proof.Machine
end

section
/-!
What every command keeps and which units it may change, from the lemma of each command, and what a step keeps. In service
the expert registers stay (R10, R518).
-/
namespace Sys2Proof.Machine

/-! ### The numbers of the units -/

theorem exec_lawful {c : Instr} {s t : State} (h : exec c s = .next t) : Lawful s t := by
  cases c with
  | planOpen => exact (sound_execPlanOpen h).lawful
  | planData => exact (sound_execPlanData h).lawful
  | planRetire => exact (sound_execPlanRetire h).lawful
  | openTimeout => exact (sound_execOpenTimeout h).lawful
  | admission => exact (sound_execAdmission h).lawful
  | digest => exact (sound_execDigest h).lawful
  | perim => exact (sound_execPerim h).lawful
  | capture => exact (sound_execCapture h).lawful
  | stepDone => exact (steady_execStepDone h).lawful
  | fireHeldRelease => exact (steady_execFireHeldRelease h).lawful
  | resGraceExpiry => exact (steady_execResGraceExpiry h).lawful
  | release => exact (sound_execRelease h).lawful
  | stepTimeout => exact (steady_execStepTimeout h).lawful
  | planEpochFlip => exact (sound_execPlanEpochFlip h).lawful
  | clusterReconfig => exact (steady_execClusterReconfig h).lawful
  | twcCompare => exact (sound_execTwcCompare h).lawful
  | xdigest => exact (sound_execXdigest h).lawful
  | twcKat => exact (steady_execTwcKat h).lawful
  | perimCompare => exact (steady_execPerimCompare h).lawful
  | perKatPeriod => exact (steady_execPerKatPeriod h).lawful
  | shadowTaskStart => exact (sound_execShadowTaskStart h).lawful
  | shadowTaskDone => exact (sound_execShadowTaskDone h).lawful
  | partialPush => exact (steady_execPartialPush h).lawful
  | inboundQueueCombine => exact (sound_execInboundQueueCombine h).lawful
  | remoteRead => exact (steady_execRemoteRead h).lawful
  | saKatPeriod => exact (steady_execSaKatPeriod h).lawful
  | bankRead => exact (steady_execBankRead h).lawful
  | bankWrite => exact (sound_execBankWrite h).lawful
  | add64 => exact (sound_execAdd64 h).lawful
  | lpfAdd => exact (sound_execLpfAdd h).lawful
  | alloc => exact (sound_execAlloc h).lawful
  | bind => exact (sound_execBind h).lawful
  | setFull => exact (sound_execSetFull h).lawful
  | clear => exact (sound_execClear h).lawful
  | scrubSet => exact (sound_execScrubSet h).lawful
  | free => exact (sound_execFree h).lawful
  | rowmap => exact (sound_execRowmap h).lawful
  | fill => exact (sound_execFill h).lawful
  | copy => exact (sound_execCopy h).lawful
  | erase => exact (sound_execErase h).lawful
  | laneWipe => exact (sound_execLaneWipe h).lawful
  | erasureComplete => exact (sound_execErasureComplete h).lawful
  | shedDrain => exact (steady_execShedDrain h).lawful
  | shedOff => exact (sound_execShedOff h).lawful
  | drainTimeout => exact (steady_execDrainTimeout h).lawful
  | shedInitDone => exact (steady_execShedInitDone h).lawful
  | procedureStart => exact (sound_execProcedureStart h).lawful
  | settleReply => exact (sound_execSettleReply h).lawful
  | settleTimeout => exact (sound_execSettleTimeout h).lawful
  | redispatchTimeout => exact (steady_execRedispatchTimeout h).lawful
  | replaySend => exact (steady_execReplaySend h).lawful
  | xsettle => exact (sound_execXsettle h).lawful
  | xverdict => exact (sound_execXverdict h).lawful
  | xverdictWaitTimeout => exact (steady_execXverdictWaitTimeout h).lawful
  | turnoutSelect => exact (steady_execTurnoutSelect h).lawful
  | suspectTest => exact (steady_execSuspectTest h).lawful
  | hlinkDown => exact (steady_execHlinkDown h).lawful
  | hlinkWidth => exact (steady_execHlinkWidth h).lawful
  | hrouterFail => exact (sound_execHrouterFail h).lawful
  | routeMiss router entry => exact (@steady_execRouteMiss router entry s t h).lawful
  | installStart => exact (sound_execInstallStart h).lawful
  | fcpResponse => exact (sound_execFcpResponse h).lawful
  | countReadPoll => exact (steady_execCountReadPoll h).lawful
  | retireTimeout => exact (steady_execRetireTimeout h).lawful
  | eventPortMessage => exact (steady_execEventPortMessage h).lawful
  | event => exact (steady_execEvent h).lawful
  | ringPlaceRetry => exact (steady_execRingPlaceRetry h).lawful
  | fcProcess => exact (sound_execFcProcess h).lawful
  | fcAck => exact (steady_execFcAck h).lawful
  | injectMessage => exact (steady_execInjectMessage h).lawful
  | injectLocal => exact (steady_execInjectLocal h).lawful
  | injectEcc => exact (steady_execInjectEcc h).lawful
  | ctTimeout => exact (sound_execCtTimeout h).lawful
  | scAck => exact (sound_execScAck h).lawful
  | scWithdrawTimeout => exact (steady_execScWithdrawTimeout h).lawful
  | ctEntryFree => exact (sound_execCtEntryFree h).lawful
  | killCtx => exact (sound_execKillCtx h).lawful
  | fenceCore => exact (sound_execFenceCore h).lawful
  | unfenceCore => exact (steady_execUnfenceCore h).lawful
  | resetSector => exact (steady_execResetSector h).lawful
  | scrubSector => exact (steady_execScrubSector h).lawful
  | resetEngine => exact (steady_execResetEngine h).lawful
  | resetPart => exact (steady_execResetPart h).lawful
  | trainingStateAdvance => exact (steady_execTrainingStateAdvance h).lawful
  | trainingAttemptTimeout => exact (steady_execTrainingAttemptTimeout h).lawful
  | rejoinPeriod => exact (steady_execRejoinPeriod h).lawful
  | hxFrameReceive => exact (steady_execHxFrameReceive h).lawful
  | replayTimeout => exact (steady_execReplayTimeout h).lawful
  | hxPacketArrive => exact (steady_execHxPacketArrive h).lawful
  | e2eAck => exact (steady_execE2eAck h).lawful
  | state => exact (steady_execState h).lawful
  | tblReady => exact (steady_execTblReady h).lawful
  | epochFlip => exact (steady_execEpochFlip h).lawful
  | count => exact (steady_execCount h).lawful
  | retire => exact (steady_execRetire h).lawful
  | barrierArrive => exact (steady_execBarrierArrive h).lawful
  | barrierRelease => exact (steady_execBarrierRelease h).lawful
  | barrierReleaseTime => exact (steady_execBarrierReleaseTime h).lawful
  | barrTimeout => exact (steady_execBarrTimeout h).lawful
  | hostBarrierArrive => exact (steady_execHostBarrierArrive h).lawful
  | faultFwd => exact (steady_execFaultFwd h).lawful
  | order => exact (sound_execOrder h).lawful
  | bulk => exact lawful_execBulk h
  | trace => exact (steady_execTrace h).lawful
  | sec => exact lawful_execSec h
  | resendTimeout => exact (steady_execResendTimeout h).lawful
  | ackDelay => exact (steady_execAckDelay h).lawful
  | stateRefresh => exact (steady_execStateRefresh h).lawful
  | stateStale => exact (steady_execStateStale h).lawful
  | hostOkLapse => exact (steady_execHostOkLapse h).lawful
  | pollPeriod => exact (steady_execPollPeriod h).lawful
  | hxRetireTimeout => exact (steady_execHxRetireTimeout h).lawful
  | congWindow => exact (steady_execCongWindow h).lawful
  | hostBist => exact (sound_execHostBist h).lawful
  | bistDone => exact (sound_execBistDone h).lawful
  | fuseProgram => exact lawful_execFuseProgram h
  | testSessionOpen => exact (steady_execTestSessionOpen h).lawful
  | hostTestSession => exact (steady_execHostTestSession h).lawful
  | testReply => exact (steady_execTestReply h).lawful
  | testTimeout => exact (steady_execTestTimeout h).lawful
  | pkgOpen => exact (steady_execPkgOpen h).lawful
  | pkgData => exact lawful_execPkgData h
  | pkgClose => exact (steady_execPkgClose h).lawful
  | pkgAbort => exact (steady_execPkgAbort h).lawful
  | pkgVerify => exact lawful_execPkgVerify h
  | rstNRelease => exact lawful_execRstNRelease h
  | rstNAssert => exact lawful_execRstNAssert h
  | stageS1 => exact lawful_execStageS1 h
  | stageS2 => exact lawful_execStageS2 h
  | stageS3 => exact (sound_execStageS3 h).lawful
  | stageS4 => exact (steady_execStageS4 h).lawful
  | stageS5 => exact (sound_execStageS5 h).lawful
  | stageS6 => exact (steady_execStageS6 h).lawful
  | stageS7 => exact (steady_execStageS7 h).lawful
  | stageS8 => exact (steady_execStageS8 h).lawful
  | stageS9 => exact (steady_execStageS9 h).lawful
  | bitmap => exact (steady_execBitmap h).lawful
  | commitAck => exact (steady_execCommitAck h).lawful
  | musterTimeout => exact (steady_execMusterTimeout h).lawful
  | sectorMuster => exact (steady_execSectorMuster h).lawful
  | domainPowerRequest => exact (steady_execDomainPowerRequest h).lawful
  | powerGood => exact (sound_execPowerGood h).lawful
  | domainTimeout => exact (steady_execDomainTimeout h).lawful
  | domainShutdown => exact (sound_execDomainShutdown h).lawful
  | slowRound => exact lawful_execSlowRound h
  | pmbRead => exact (steady_execPmbRead h).lawful
  | pmbAlert addr status => exact (@steady_execPmbAlert addr status s t h).lawful
  | programRoot => exact lawful_execProgramRoot h
  | advance => exact lawful_execAdvance h
  | genIdentity => exact lawful_execGenIdentity h
  | installCert => exact (steady_execInstallCert h).lawful
  | programWrapped => exact lawful_execProgramWrapped h
  | setMinSeq => exact lawful_execSetMinSeq h
  | unlockChallenge => exact (steady_execUnlockChallenge h).lawful
  | unlockResponse => exact lawful_execUnlockResponse h
  | keyload => exact lawful_execKeyload h
  | tokenPresent => exact (steady_execTokenPresent h).lawful
  | tokenBindingLapse => exact (steady_execTokenBindingLapse h).lawful
  | sarGo => exact (steady_execSarGo h).lawful
  | sarBuildDone => exact (steady_execSarBuildDone h).lawful
  | sarData => exact (steady_execSarData h).lawful
  | certData => exact (steady_execCertData h).lawful
  | provOut => exact (steady_execProvOut h).lawful
  | dumpKey => exact (steady_execDumpKey h).lawful
  | alarmPin => exact lawful_execAlarmPin h
  | lockstep => exact lawful_execLockstep h
  | snap => exact (steady_execSnap h).lawful
  | snapPeriod => exact (steady_execSnapPeriod h).lawful
  | watchGo => exact (steady_execWatchGo h).lawful
  | watchData => exact (steady_execWatchData h).lawful
  | dumpGo => exact (steady_execDumpGo h).lawful
  | dumpSectionDone => exact (steady_execDumpSectionDone h).lawful
  | dumpSectionTimeout => exact (steady_execDumpSectionTimeout h).lawful
  | tackRsp => exact (steady_execTackRsp h).lawful
  | egressCredit => exact (steady_execEgressCredit h).lawful
  | wrstNAssert => exact lawful_execWrstNAssert h
  | wrstNRelease => exact lawful_execWrstNRelease h
  | registerWrite => exact lawful_execRegisterWrite h
  | registerRead => exact (steady_execRegisterRead h).lawful
  | suppliesFail => exact lawful_execSuppliesFail h
  | scanBlockDone => exact (steady_execScanBlockDone h).lawful
  | levelLeakedToZero => exact (steady_execLevelLeakedToZero h).lawful
  | nonIngressKindPacket => exact (steady_execNonIngressKindPacket h).lawful
  | tapInstruction => exact lawful_execTapInstruction h

/-- What a step does: one idle period with an empty queue, else the front command on the state with the rest queued. -/
theorem step_cases {s t : State} (h : step s = .next t) : (s.pending = [] ∧ t = idle s) ∨
    ∃ c rest, s.pending = c :: rest ∧ exec c { s with pending := rest } = .next t := by
  unfold step at h
  split at h
  next hp => exact .inl ⟨hp, (Host.Outcome.next.inj h).symm⟩
  next c rest hp => exact .inr ⟨c, rest, hp, h⟩

/-- Settles O41: an idle period is lawful, and so is every command; the queue is none of the numbers. -/
theorem stepKeepsNumbers : Obligations.StepKeepsNumbers := by
  intro s t hs h
  obtain ⟨-, rfl⟩ | ⟨c, rest, -, hc⟩ := step_cases h
  · exact (lawful_idle s).shaped hs
  · exact (exec_lawful hc).shaped hs

/-- O41 at work: the state after reset has the numbers, and so has the one after an idle period. -/
theorem reset_idle_shaped : State.reset.shaped = true ∧ (idle State.reset).shaped = true :=
  have h : State.reset.shaped = true := by decide
  ⟨h, stepKeepsNumbers _ _ h rfl⟩

/-! ### The units of each command -/

theorem exec_same {c : Instr} {s t : State} (h : exec c s = .next t) : Same (unitsOf c) s t := by
  cases c with
  | planOpen => exact same_execPlanOpen h
  | planData => exact same_execPlanData h
  | planRetire => exact same_execPlanRetire h
  | openTimeout => exact same_execOpenTimeout h
  | admission => exact same_execAdmission h
  | digest => exact same_execDigest h
  | perim => exact same_execPerim h
  | capture => exact same_execCapture h
  | stepDone => exact same_execStepDone h
  | fireHeldRelease => exact same_execFireHeldRelease h
  | resGraceExpiry => exact same_execResGraceExpiry h
  | release => exact same_execRelease h
  | stepTimeout => exact same_execStepTimeout h
  | planEpochFlip => exact same_execPlanEpochFlip h
  | clusterReconfig => exact same_execClusterReconfig h
  | twcCompare => exact same_execTwcCompare h
  | xdigest => exact same_execXdigest h
  | twcKat => exact same_execTwcKat h
  | perimCompare => exact same_execPerimCompare h
  | perKatPeriod => exact same_execPerKatPeriod h
  | shadowTaskStart => exact same_execShadowTaskStart h
  | shadowTaskDone => exact same_execShadowTaskDone h
  | partialPush => exact same_execPartialPush h
  | inboundQueueCombine => exact same_execInboundQueueCombine h
  | remoteRead => exact same_execRemoteRead h
  | saKatPeriod => exact same_execSaKatPeriod h
  | bankRead => exact same_execBankRead h
  | bankWrite => exact same_execBankWrite h
  | add64 => exact same_execAdd64 h
  | lpfAdd => exact same_execLpfAdd h
  | alloc => exact same_execAlloc h
  | bind => exact same_execBind h
  | setFull => exact same_execSetFull h
  | clear => exact same_execClear h
  | scrubSet => exact same_execScrubSet h
  | free => exact same_execFree h
  | rowmap => exact same_execRowmap h
  | fill => exact same_execFill h
  | copy => exact same_execCopy h
  | erase => exact same_execErase h
  | laneWipe => exact same_execLaneWipe h
  | erasureComplete => exact same_execErasureComplete h
  | shedDrain => exact same_execShedDrain h
  | shedOff => exact same_execShedOff h
  | drainTimeout => exact same_execDrainTimeout h
  | shedInitDone => exact same_execShedInitDone h
  | procedureStart => exact same_execProcedureStart h
  | settleReply => exact same_execSettleReply h
  | settleTimeout => exact same_execSettleTimeout h
  | redispatchTimeout => exact same_execRedispatchTimeout h
  | replaySend => exact same_execReplaySend h
  | xsettle => exact same_execXsettle h
  | xverdict => exact same_execXverdict h
  | xverdictWaitTimeout => exact same_execXverdictWaitTimeout h
  | turnoutSelect => exact same_execTurnoutSelect h
  | suspectTest => exact same_execSuspectTest h
  | hlinkDown => exact same_execHlinkDown h
  | hlinkWidth => exact same_execHlinkWidth h
  | hrouterFail => exact same_execHrouterFail h
  | routeMiss router entry => exact @same_execRouteMiss router entry s t h
  | installStart => exact same_execInstallStart h
  | fcpResponse => exact same_execFcpResponse h
  | countReadPoll => exact same_execCountReadPoll h
  | retireTimeout => exact same_execRetireTimeout h
  | eventPortMessage => exact same_execEventPortMessage h
  | event => exact same_execEvent h
  | ringPlaceRetry => exact same_execRingPlaceRetry h
  | fcProcess => exact same_execFcProcess h
  | fcAck => exact same_execFcAck h
  | injectMessage => exact same_execInjectMessage h
  | injectLocal => exact same_execInjectLocal h
  | injectEcc => exact same_execInjectEcc h
  | ctTimeout => exact same_execCtTimeout h
  | scAck => exact same_execScAck h
  | scWithdrawTimeout => exact same_execScWithdrawTimeout h
  | ctEntryFree => exact same_execCtEntryFree h
  | killCtx => exact same_execKillCtx h
  | fenceCore => exact same_execFenceCore h
  | unfenceCore => exact same_execUnfenceCore h
  | resetSector => exact same_execResetSector h
  | scrubSector => exact same_execScrubSector h
  | resetEngine => exact same_execResetEngine h
  | resetPart => exact same_execResetPart h
  | trainingStateAdvance => exact same_execTrainingStateAdvance h
  | trainingAttemptTimeout => exact same_execTrainingAttemptTimeout h
  | rejoinPeriod => exact same_execRejoinPeriod h
  | hxFrameReceive => exact same_execHxFrameReceive h
  | replayTimeout => exact same_execReplayTimeout h
  | hxPacketArrive => exact same_execHxPacketArrive h
  | e2eAck => exact same_execE2eAck h
  | state => exact same_execState h
  | tblReady => exact same_execTblReady h
  | epochFlip => exact same_execEpochFlip h
  | count => exact same_execCount h
  | retire => exact same_execRetire h
  | barrierArrive => exact same_execBarrierArrive h
  | barrierRelease => exact same_execBarrierRelease h
  | barrierReleaseTime => exact same_execBarrierReleaseTime h
  | barrTimeout => exact same_execBarrTimeout h
  | hostBarrierArrive => exact same_execHostBarrierArrive h
  | faultFwd => exact same_execFaultFwd h
  | order => exact same_execOrder h
  | bulk => exact same_execBulk h
  | trace => exact same_execTrace h
  | sec => exact same_execSec h
  | resendTimeout => exact same_execResendTimeout h
  | ackDelay => exact same_execAckDelay h
  | stateRefresh => exact same_execStateRefresh h
  | stateStale => exact same_execStateStale h
  | hostOkLapse => exact same_execHostOkLapse h
  | pollPeriod => exact same_execPollPeriod h
  | hxRetireTimeout => exact same_execHxRetireTimeout h
  | congWindow => exact same_execCongWindow h
  | hostBist => exact same_execHostBist h
  | bistDone => exact same_execBistDone h
  | fuseProgram => exact same_execFuseProgram h
  | testSessionOpen => exact same_execTestSessionOpen h
  | hostTestSession => exact same_execHostTestSession h
  | testReply => exact same_execTestReply h
  | testTimeout => exact same_execTestTimeout h
  | pkgOpen => exact same_execPkgOpen h
  | pkgData => exact same_execPkgData h
  | pkgClose => exact same_execPkgClose h
  | pkgAbort => exact same_execPkgAbort h
  | pkgVerify => exact same_execPkgVerify h
  | rstNRelease => exact same_execRstNRelease h
  | rstNAssert => exact same_execRstNAssert h
  | stageS1 => exact same_execStageS1 h
  | stageS2 => exact same_execStageS2 h
  | stageS3 => exact same_execStageS3 h
  | stageS4 => exact same_execStageS4 h
  | stageS5 => exact same_execStageS5 h
  | stageS6 => exact same_execStageS6 h
  | stageS7 => exact same_execStageS7 h
  | stageS8 => exact same_execStageS8 h
  | stageS9 => exact same_execStageS9 h
  | bitmap => exact same_execBitmap h
  | commitAck => exact same_execCommitAck h
  | musterTimeout => exact same_execMusterTimeout h
  | sectorMuster => exact same_execSectorMuster h
  | domainPowerRequest => exact same_execDomainPowerRequest h
  | powerGood => exact same_execPowerGood h
  | domainTimeout => exact same_execDomainTimeout h
  | domainShutdown => exact same_execDomainShutdown h
  | slowRound => exact same_execSlowRound h
  | pmbRead => exact same_execPmbRead h
  | pmbAlert addr status => exact @same_execPmbAlert addr status s t h
  | programRoot => exact same_execProgramRoot h
  | advance => exact same_execAdvance h
  | genIdentity => exact same_execGenIdentity h
  | installCert => exact same_execInstallCert h
  | programWrapped => exact same_execProgramWrapped h
  | setMinSeq => exact same_execSetMinSeq h
  | unlockChallenge => exact same_execUnlockChallenge h
  | unlockResponse => exact same_execUnlockResponse h
  | keyload => exact same_execKeyload h
  | tokenPresent => exact same_execTokenPresent h
  | tokenBindingLapse => exact same_execTokenBindingLapse h
  | sarGo => exact same_execSarGo h
  | sarBuildDone => exact same_execSarBuildDone h
  | sarData => exact same_execSarData h
  | certData => exact same_execCertData h
  | provOut => exact same_execProvOut h
  | dumpKey => exact same_execDumpKey h
  | alarmPin => exact same_execAlarmPin h
  | lockstep => exact same_execLockstep h
  | snap => exact same_execSnap h
  | snapPeriod => exact same_execSnapPeriod h
  | watchGo => exact same_execWatchGo h
  | watchData => exact same_execWatchData h
  | dumpGo => exact same_execDumpGo h
  | dumpSectionDone => exact same_execDumpSectionDone h
  | dumpSectionTimeout => exact same_execDumpSectionTimeout h
  | tackRsp => exact same_execTackRsp h
  | egressCredit => exact same_execEgressCredit h
  | wrstNAssert => exact same_execWrstNAssert h
  | wrstNRelease => exact same_execWrstNRelease h
  | registerWrite => exact same_execRegisterWrite h
  | registerRead => exact same_execRegisterRead h
  | suppliesFail => exact same_execSuppliesFail h
  | scanBlockDone => exact same_execScanBlockDone h
  | levelLeakedToZero => exact same_execLevelLeakedToZero h
  | nonIngressKindPacket => exact same_execNonIngressKindPacket h
  | tapInstruction => exact same_execTapInstruction h

/-- Settles O45: the units that the lemma of each command names are those that `unitsOf` lists for it. -/
theorem commandChangesItsUnits : Obligations.CommandChangesItsUnits := fun _ _ _ h => exec_same h

/-! ### The expert registers in service -/

theorem expert_mem_unitsOf {c : Instr} (h : .expert ∈ unitsOf c) : c = .rstNAssert ∨ (∃ b, c = .suppliesFail b) ∨
    (∃ a b, c = .stageS2 a b) ∨ ∃ priv addr w, c = .registerWrite priv addr w := by
  cases c with
  | rstNAssert => exact .inl rfl
  | suppliesFail b => exact .inr (.inl ⟨b, rfl⟩)
  | stageS2 a b => exact .inr (.inr (.inl ⟨a, b, rfl⟩))
  | registerWrite priv addr w => exact .inr (.inr (.inr ⟨priv, addr, w, rfl⟩))
  | _ => exact absurd h (of_decide_eq_false rfl)

/-- The write is refused before it reaches `expertWrite`: it ends DENIED or UNMAPPED (R10, R518). -/
theorem writeExpert_expert (priv : BitVec 2) (a : Nat) (w : W64) {s : State} (hs : s.cfg.inService = true) :
    (writeExpert priv a w s).expert = s.expert := by
  unfold writeExpert expertAccess
  split
  · exact (same_denied ..).expert (by decide)
  · split
    · exact (same_answer ..).expert (by decide)
    · dsimp only
      rw [if_pos hs]
      exact (same_denied ..).expert (by decide)

theorem registerWrite_expert (priv : BitVec 2) (addr : BitVec 22) (w : W64) {s : State} (hs : s.cfg.inService = true) :
    (registerWrite priv addr w s).expert = s.expert := by
  unfold registerWrite hrp
  split
  case isTrue => rfl
  case isFalse =>
    dsimp only
    split
    case isTrue => exact (same_writeBasic ..).expert (by decide)
    case isFalse =>
      split
      case isTrue =>
        split
        · exact (same_answer ..).expert (by decide)
        · exact (same_denied ..).expert (by decide)
      case isFalse => exact writeExpert_expert priv _ w hs

/-- Settles O49: of the four commands whose units include the expert registers, only REGISTER_WRITE runs here, and it
writes none of them in service. -/
theorem expertRegistersHoldInService : Obligations.ExpertRegistersHoldInService := by
  intro c s t hs hrst hfail hs2 h
  by_cases hx : .expert ∈ unitsOf c
  · obtain rfl | ⟨b, rfl⟩ | ⟨a, b, rfl⟩ | ⟨priv, addr, w, rfl⟩ := expert_mem_unitsOf hx
    · exact absurd rfl hrst
    · exact absurd rfl (hfail b)
    · exact absurd rfl (hs2 a b)
    · obtain rfl := Host.Outcome.next.inj h
      exact registerWrite_expert priv addr w hs
  · exact (exec_same h).expert hx

/-- A part out of reset and in service, with access to the expert registers enabled. -/
def servingState : State :=
  (State.reset.mPorts fun p => { p with rstLow := false }).mCfg fun c => { c with inService := true, expertEn := true }

/-- O49 at work: in service an operator's write of the expert register at 0x250000 ends DENIED, and the register stays. -/
theorem servingState_keeps_expert :
    (registerWrite 1 0x250000 1 servingState).ports.hrp = ⟨BitVec.ofNat 2 hsDENIED, 0⟩ ∧
    (registerWrite 1 0x250000 1 servingState).expert = servingState.expert :=
  ⟨by decide, expertRegistersHoldInService (.registerWrite 1 0x250000 1) _ _ rfl nofun nofun nofun rfl⟩

end Sys2Proof.Machine
end

section
/-!
The residue of R60 as arithmetic modulo 255: each rule of R60 is the rule of congruences of the same name.
-/
namespace Sys2Proof.Machine

theorem residue_cast (x : Int) : (residue x : Int) = x % 255 :=
  Int.toNat_of_nonneg (Int.emod_nonneg x (by decide))

theorem residue_le (x : Int) : residue x ≤ 254 := by
  have := residue_cast x
  omega

theorem residue_modEq (x : Int) : (residue x : Int) ≡ x [ZMOD 255] := by
  rw [residue_cast]
  exact Int.mod_modEq x 255

theorem residue_eq_residue_iff {x y : Int} : residue x = residue y ↔ x ≡ y [ZMOD 255] := by
  rw [← Int.natCast_inj, residue_cast, residue_cast, Int.ModEq]

theorem residue_eq_of_modEq {x : Int} {n : Nat} (h : x ≡ n [ZMOD 255]) : residue x = n % 255 := by
  rw [← Int.natCast_inj, residue_cast]
  exact_mod_cast h

theorem residue_neg (x : Int) : residue (-x) = (255 - residue x) % 255 := by
  refine residue_eq_of_modEq ?_
  have hle := residue_le x
  rw [Nat.cast_sub (by omega)]
  calc -x ≡ -(residue x : Int) [ZMOD 255] := (residue_modEq x).symm.neg
    _ ≡ 255 - residue x [ZMOD 255] := by
      rw [sub_eq_neg_add]
      exact Int.add_modEq_right.symm

theorem residue_mul (x y : Int) : residue (x * y) = residue x * residue y % 255 := by
  refine residue_eq_of_modEq ?_
  rw [Nat.cast_mul]
  exact ((residue_modEq x).mul (residue_modEq y)).symm

theorem residue_add (x y : Int) : residue (x + y) = (residue x + residue y) % 255 := by
  refine residue_eq_of_modEq ?_
  rw [Nat.cast_add]
  exact ((residue_modEq x).add (residue_modEq y)).symm

/-- 2^8 ≡ 1 modulo 255, so a shift counts only modulo 8 (R60). -/
theorem two_pow_modEq_two_pow_mod_eight (s : Nat) : (2 : Int) ^ s ≡ 2 ^ (s % 8) [ZMOD 255] := by
  have hbyte : (2 : Int) ^ 8 ≡ 1 [ZMOD 255] := by decide
  calc (2 : Int) ^ s = 2 ^ (s % 8) * (2 ^ 8) ^ (s / 8) := by rw [← pow_mul, ← pow_add, Nat.mod_add_div]
    _ ≡ 2 ^ (s % 8) * 1 ^ (s / 8) [ZMOD 255] := (hbyte.pow _).mul_left _
    _ = 2 ^ (s % 8) := by rw [one_pow, mul_one]

theorem residue_shift (x : Int) (s : Nat) : residue (x * 2 ^ s) = residue x * 2 ^ (s % 8) % 255 := by
  refine residue_eq_of_modEq ?_
  push_cast
  exact (residue_modEq x).symm.mul (two_pow_modEq_two_pow_mod_eight s)

/-- 2 is invertible modulo 255, so a shift loses nothing of the residue (R60). -/
theorem residue_of_residue_shift {x y : Int} {s : Nat} (h : residue (x * 2 ^ s) = residue (y * 2 ^ s)) :
    residue x = residue y := by
  have hcoprime : Int.gcd 255 (2 ^ s) = 1 := Int.isCoprime_iff_gcd_eq_one.mp (IsCoprime.pow_right (by decide))
  have hcancel := (residue_eq_residue_iff.mp h).cancel_right_div_gcd (by decide)
  rw [hcoprime] at hcancel
  exact residue_eq_residue_iff.mpr hcancel

/-- Settles O52, from the rule of congruences modulo 255 behind each rule of R60. -/
theorem residueRules : Obligations.ResidueRules := fun x y s =>
  ⟨residue_cast x, residue_le x, residue_neg x, residue_mul x y, residue_add x y, residue_shift x s,
    residue_of_residue_shift⟩

end Sys2Proof.Machine
end

section
/-!
Combination of LPF records (R47) is associative, and commutative but for two records of no terms with different ALLNEGZ,
so a sum of partials does not depend on the order of their arrival (R187).
-/
namespace Sys2Proof.Machine

theorem Acc.combine_assoc (x y z : Acc) : (x.combine y).combine z = x.combine (y.combine z) := by
  simp only [Acc.combine, Acc.mk.injEq, add_assoc, Bool.or_assoc, true_and, and_true, Nat.add_eq_zero_iff]
  by_cases hx : x.terms = 0
  case pos => simp [hx]
  by_cases hy : y.terms = 0
  case pos => simp [hx, hy]
  by_cases hz : z.terms = 0
  case pos => simp [hx, hy, hz]
  simp [hx, hy, hz, Bool.and_assoc]

theorem Acc.combine_comm {x y : Acc} (h : x.terms = 0 → y.terms = 0 → x.allNegZ = y.allNegZ) :
    x.combine y = y.combine x := by
  simp only [Acc.combine, Acc.mk.injEq, add_comm, Bool.or_comm, true_and, and_true]
  by_cases hx : x.terms = 0
  case neg => simp [hx, Bool.and_comm]
  by_cases hy : y.terms = 0
  case neg => simp [hx, hy]
  simp [hx, hy, h hx hy]

/-- Two records change places after any partial sum `z`, whatever ALLNEGZ an empty `z` holds. -/
theorem Acc.combine_right_comm {x y : Acc} (h : x.terms = 0 → y.terms = 0 → x.allNegZ = y.allNegZ) (z : Acc) :
    (z.combine x).combine y = (z.combine y).combine x := by
  rw [combine_assoc, combine_comm h, ← combine_assoc]

/-- Settles O53: any two records of the list change places, since those of no terms agree in ALLNEGZ, and so a
rearrangement leaves the fold as it is. -/
theorem partialsCombineInAnyOrder : Obligations.PartialsCombineInAnyOrder := by
  intro l m hclear hperm
  refine hperm.foldl_eq' (fun x hx y hy z => Acc.combine_right_comm (fun hxt hyt => ?_) z) Acc.zero
  rw [hclear x hx hxt, hclear y hy hyt]

/-- A record of two terms, both negative zeros. -/
def negZeroRecord : Acc := { Acc.zero with allNegZ := true, terms := 2 }

/-- A record of one term of value 3 * 2^-320. -/
def threeRecord : Acc := { Acc.zero with a := 3, terms := 1 }

/-- O53 at work: a record of no terms, one of negative zeros and one of a nonzero term, last to first. The negative
zeros stand against the nonzero term, so ALLNEGZ is clear in both orders; with the empty record alone it stays set. -/
theorem records_combine_in_either_order :
    [Acc.zero, negZeroRecord, threeRecord].foldl Acc.combine Acc.zero =
      [threeRecord, negZeroRecord, Acc.zero].foldl Acc.combine Acc.zero ∧
    [threeRecord, negZeroRecord, Acc.zero].foldl Acc.combine Acc.zero = { Acc.zero with a := 3, terms := 3 } ∧
    [negZeroRecord, Acc.zero].foldl Acc.combine Acc.zero = negZeroRecord :=
  ⟨partialsCombineInAnyOrder _ _ (by decide) (List.reverse_perm _).symm, rfl, rfl⟩

end Sys2Proof.Machine
end

section
/-!
Images of plans: their PLAN packets, their admission and the end of a plan (R94 to R96, R117).
-/
namespace Sys2Proof.Machine

/-! ### What leaves the Ledger as it is -/

theorem planReply_led (port : Nat) (dst : Huid) (kind plan c code : Nat) (s : State) :
    (planReply port dst kind plan c code s).led = s.led := (same_planReply ..).led (by decide)

theorem ledAdmit_ctxs (code c plan table index : Nat) (s : State) :
    (ledAdmit code c plan table index s).led.ctxs = s.led.ctxs := by
  unfold ledAdmit
  rw [State.mLed_led]

/-! ### PLAN_OPEN -/

theorem planOpen_stages {p : Ingress} {s : State} (hb : openBarred s = false)
    (hpages : (fld (p.pre 0) 29 12 + 255) / 256 ≤ (freePageList s).length) (hnum : (residents s).length < 64)
    (hst : s.led.staging = none) :
    (planOpen p s).led.staging = some
      { ctx := fld (p.pre 0) 11 0, words := fld (p.pre 0) 29 12, loader := p.src, port := p.port.toNat,
        pages := (freePageList s).take ((fld (p.pre 0) 29 12 + 255) / 256), got := [] } := by
  unfold planOpen
  dsimp only
  rw [if_pos ⟨by rw [hb]; decide, hpages, hnum, by rw [hst]; rfl⟩, planReply_led]
  rfl

/-! ### PLAN_DATA -/

/-- A packet with no fewer payload bytes than its words take brings every word. -/
theorem planData_words {p : Ingress} (s : State) (hlen : 8 * fld (p.pre 0) 22 17 ≤ (payloadAfter p 8).length) :
    planData p s = (List.range (fld (p.pre 0) 22 17)).foldl
      (fun s i => planWord (fld (p.pre 0) 16 0 + i) (slice (payloadAfter p 8) (8 * i) 8) s) s := by
  unfold planData
  dsimp only
  rw [Nat.min_eq_left (by omega)]

theorem slice_length {b : Bytes} {off n : Nat} : (slice b off n).length = n := by
  simp only [slice, List.length_append, List.length_take, List.length_drop, List.length_replicate]
  omega

theorem planWord_loft {off : Nat} (v : Bytes) {s : State} {t : Staging} (h : s.led.staging = some t) (hw : off < t.words)
    (hg : off ∉ t.got) : (planWord off v s).mem.loft = (loftWrite (stagedAddr t off) v s).mem.loft := by
  rw [planWord_new v s h hw hg, State.mLed_mem]

/-- A word that has not arrived yet stands at its place, and no other byte changes. -/
theorem planWord_placed {off : Nat} (v : Bytes) {s : State} {t : Staging} (h : s.led.staging = some t) (hw : off < t.words)
    (hg : off ∉ t.got) (hc : s.canonical = true) :
    Mem.read (planWord off v s).mem.loft (stagedAddr t off) v.length = v ∧
    ∀ a, a < stagedAddr t off ∨ stagedAddr t off + v.length ≤ a →
      Mem.get (planWord off v s).mem.loft a = Mem.get s.mem.loft a := by
  rw [planWord_loft v h hw hg]
  exact ⟨loftWrite_read _ _ s hc, fun a ha => loftWrite_other _ s ha⟩

/-! ### OPEN_TIMEOUT -/

theorem openTimeout_drops {s : State} {t : Staging} (h : s.led.staging = some t) (hc : stagingComplete t = false) :
    openTimeout s = freePages t.pages (s.mLed fun l => { l with staging := none }) := by
  unfold openTimeout dropStaging
  rw [h]
  dsimp only
  rw [hc, if_neg Bool.false_ne_true]

/-! ### ADMISSION -/

theorem planReply_admitReg (port : Nat) (dst : Huid) (kind plan c code r table index : Nat) (s : State) :
    (planReply port dst kind plan c code (ledAdmit r c plan table index s)).led.admitReg =
      word [put 63 56 r, put 55 44 c, put 43 38 plan, put 37 35 table, put 34 20 index, 1] := by
  rw [planReply_led]
  unfold ledAdmit
  rw [State.mLed_led]

/-- What the rules of admission look at for a staged image. -/
def stagedAdm (s : State) (t : Staging) : Adm :=
  { img := stagedImage s t, p := parsePlan (stagedImage s t), ctx := t.ctx, words := t.words, s := s }

theorem admission_rejects {s : State} {t : Staging} {code table index : Nat} (h : s.led.staging = some t)
    (hc : stagingComplete t = true) (hp : partDown s = false)
    (hr : admissionResult (stagedAdm s t) = some (code, table, index)) : admission s = rejectPlan t code table index s := by
  unfold stagedAdm at hr
  unfold admission
  rw [h]
  dsimp only
  rw [if_neg (by simp [hc, hp]), hr]

theorem admission_admits {s : State} {t : Staging} {n : Nat} (h : s.led.staging = some t) (hc : stagingComplete t = true)
    (hp : partDown s = false)
    (hr : admissionResult (stagedAdm s t) = none)
    (hsheds : ∀ d ∈ planSheds (parsePlan (stagedImage s t)), shedState s d = .on)
    (hn : (List.range 64).find? (planFree s) = some n) :
    admission s = admitPlan t n (parsePlan (stagedImage s t)) (stagedImage s t) s := by
  unfold stagedAdm at hr
  unfold admission
  rw [h]
  dsimp only
  rw [if_neg (by simp [hc, hp]), hr]
  dsimp only
  rw [if_neg, hn]
  intro hany
  obtain ⟨d, hd, hoff⟩ := List.any_eq_true.mp hany
  exact of_decide_eq_true hoff (hsheds d hd)

/-! ### PLAN_RETIRE -/

theorem planRetire_starts {p : Ingress} {s : State} {n : Nat} {q : Plan} (hq : planOf s (fld (p.pre 0) 11 0) = some (n, q))
    (hkill : (s.ct.kills.any fun k => k.ctx = fld (p.pre 0) 11 0) = false)
    (hwait : bit (p.pre 0) 12 = true ∨ waitsOn s (fld (p.pre 0) 11 0) = [])
    (hsw : (ctxOf s (fld (p.pre 0) 11 0)).switch = none) :
    planRetire p s = startRetire (fld (p.pre 0) 11 0) (bit (p.pre 0) 12) p n s := by
  unfold planRetire
  dsimp only
  rw [hq]
  dsimp only
  rw [hkill, if_neg Bool.false_ne_true, if_neg ?waits, hsw]
  case waits => obtain h | h := hwait <;> simp [h]

theorem retireAnswer_led (p : Ingress) (c plan code : Nat) (s : State) :
    (retireAnswer p c plan code s).led = (ledAdmit code c plan 0 0 s).led := planReply_led ..

theorem startRetire_admitReg (c : Nat) (discard : Bool) (p : Ingress) (n : Nat) (s : State) :
    (startRetire c discard p n s).led.admitReg = word [put 63 56 acADMITTED, put 55 44 c, put 43 38 n, put 37 35 0,
      put 34 20 0, 1] := planReply_admitReg ..

/-- Without DISCARD nothing is reported, and the context switches to no plan (R117). -/
theorem startRetire_switch (c : Nat) (p : Ingress) (n : Nat) (s : State) : (ctxOf (startRetire c false p n s) c).switch =
    some { discard := false, next := none, flipped := false, clusters := [], asker := some (p.src, p.port.toNat, n) } := by
  unfold startRetire
  dsimp only
  rw [if_neg Bool.false_ne_true, ctxOf_led ((congrArg Led.ctxs (retireAnswer_led ..)).trans (ledAdmit_ctxs ..)), ctxOf_mCtx]

/-- Settles O5: a clause for each PLAN packet and for each end of a staged image. -/
theorem planImagesLoad : Obligations.PlanImagesLoad := by
  refine ⟨?opens, ?data, ?timeout, ?admits, ?rejects, ?retires⟩
  case opens =>
    intro p s ha hl hp hs hb hpages hnum hst
    refine ⟨_, rfl, ?_⟩
    rw [planPacket_arrives _ ha hs hl hp]
    exact planOpen_stages hb hpages hnum hst
  case data =>
    intro p s t ha hl hp hs hst hlen hw hg hc
    refine ⟨_, rfl, ?_⟩
    rw [planPacket_arrives _ ha hs hl hp, planData_words s hlen]
    refine ⟨planWords_staging _ _ s hst _ (fun i hi => by omega) hg, fun hone => ?_⟩
    rw [hone] at hw hg ⊢
    have hword := planWord_placed (slice (payloadAfter p 8) 0 8) hst (by omega) (hg 0 Nat.one_pos) hc
    rw [slice_length] at hword
    exact hword
  case timeout =>
    intro s t hst hinc hc
    refine ⟨_, rfl, ?_⟩
    rw [openTimeout_drops hst hinc]
    exact ⟨(same_freePages ..).led (by decide), freePages_tags _ _ hc, freePages_loft_zero _ _⟩
  case admits =>
    intro s t n hst hcomp hp hr hsheds hn
    refine ⟨_, rfl, ?_⟩
    rw [admission_admits hst hcomp hp hr hsheds hn]
    exact planReply_admitReg ..
  case rejects =>
    intro s t code table index hst hcomp hp hr
    refine ⟨_, rfl, ?_⟩
    rw [admission_rejects hst hcomp hp hr]
    exact planReply_admitReg ..
  case retires =>
    intro p s n q ha hl hp hs hq hkill hwait hsw
    refine ⟨_, rfl, ?_⟩
    rw [planPacket_arrives _ ha hs hl hp, planRetire_starts hq hkill hwait hsw]
    refine ⟨startRetire_admitReg .., fun hdrain => ?_⟩
    rw [hdrain]
    exact startRetire_switch ..

/-! ### The clauses at work -/

/-- A part in service whose one job loader is the unit 0x41. -/
def loaderState : State :=
  (State.reset.mPorts fun p => { p with rstLow := false, slnUp := true }).mCfg fun c =>
    { c with inService := true, topo := { c.topo with loaders := [0x41] } }

/-- A PLAN packet of that loader at port 1: its subkind, its first word and its payload. -/
def loaderPacket (sub firstWord : Nat) (payload : Bytes) : Ingress :=
  { port := 1, cls := 3, flits := 1, body := leBytes 8 firstWord ++ payload,
    header := word [put 63 58 6, put 57 54 sub, put 53 38 0x41, put 37 22 0xF000, put 15 0 (8 + payload.length)] }

/-- It asks for an image of two words for context 5. -/
def openPacket : Ingress := loaderPacket 0 (2 * 2 ^ 12 + 5) []

/-- It brings one word, for place 1. -/
def wordPacket : Ingress := loaderPacket 1 (1 * 2 ^ 17 + 1) (leBytes 8 0x0123)

/-- An image of two words for context 5, on page 0. -/
def twoWords : Staging := { ctx := 5, words := 2, loader := 0x41, port := 1, pages := [0], got := [] }

def stagedState (t : Staging) : State := loaderState.mLed fun l => { l with staging := some t }

theorem loaderState_firstPage : (freePageList loaderState).take 1 = [0] := by
  have hpage : pageFree loaderState 0 = true := by decide
  unfold freePageList
  rw [List.range_succ_eq_map, List.filter_cons_of_pos hpage, List.take_succ_cons, List.take_zero]

/-- O5 at work: the loader opens an image of two words and sends the second word, and the timeout drops the image. -/
theorem loaderState_stages_and_drops :
    (∃ t, exec (.planOpen openPacket) loaderState = .next t ∧ t.led.staging = some twoWords) ∧
    (∃ t, exec (.planData wordPacket) (stagedState twoWords) = .next t ∧
      t.led.staging = some { twoWords with got := [1] } ∧
      Mem.read t.mem.loft (2048 * planStore + 8) 8 = leBytes 8 0x0123) ∧
    (∃ t, exec .openTimeout (stagedState { twoWords with got := [1] }) = .next t ∧ t.led.staging = none) := by
  obtain ⟨opens, data, timeout, -⟩ := planImagesLoad
  refine ⟨?opening, ?word, ?drop⟩
  case opening =>
    have hneed : (fld (openPacket.pre 0) 29 12 + 255) / 256 = 1 := by decide
    have hpages : 1 ≤ (freePageList loaderState).length := by
      have h := congrArg List.length loaderState_firstPage
      simp only [List.length_take, List.length_singleton] at h
      omega
    obtain ⟨t, ht, hs⟩ := opens openPacket loaderState (by decide) (by decide) (by decide) (by decide) (by decide)
      (hneed.trans_le hpages) (by decide) rfl
    rw [hneed, loaderState_firstPage] at hs
    exact ⟨t, ht, hs⟩
  case word =>
    obtain ⟨t, ht, hs, hone⟩ := data wordPacket (stagedState twoWords) twoWords (by decide) (by decide) (by decide)
      (by decide) rfl (by decide) (by decide) (by decide) (by decide)
    exact ⟨t, ht, hs, (hone (by decide)).1⟩
  case drop =>
    obtain ⟨t, ht, hs, -⟩ := timeout (stagedState { twoWords with got := [1] }) _ rfl (by decide) (by decide)
    exact ⟨t, ht, congrArg Led.staging hs⟩

/-- A plan of one roster core, with a hold window of four steps and no tasks. -/
def onePlan : Plan :=
  { hdr := { magic := 0x56504C4E, planFmt := 2, ctx := 5, switch := 0, imageWords := 17, layers := 1, tasks := 0,
             slotRanges := 0, pairs := 0, edges := 0, holdWindow := 4, quota := 0, keyId := 0, stepTimeout := 1000,
             descs := 0, crc := 0, roster := 1, vareoId := 0 }
    num := 0, layers := [{ Plan.noLayer with doneCount := 1 }], tasks := [], ranges := [], pairs := [], edges := [],
    roster := [0x41], descs := [], pages := [0], meas := 0, epoch := false, counts := [], served := [(0x41, 0x41)],
    firstStep := 0, lastStep := 0, tAdmit := 0 }

/-- Context 5 runs that plan under the number 0. -/
def residentState : State := loaderState.mLed fun l =>
  { l with plans := [(0, onePlan)], ctxs := [(5, { CtxSt.reset with plan := some 0 })] }

/-- O5 at work: a complete image of zeros is refused for its header by the first rule, and a plan that nothing waits on
retires. -/
theorem loaderState_refuses_and_retires :
    (∃ t, exec .admission (stagedState { twoWords with got := [0, 1] }) = .next t ∧
      t.led.admitReg = word [put 63 56 1, put 55 44 5, put 43 38 0, put 37 35 tbHeader, put 34 20 0, 1]) ∧
    (∃ t, exec (.planRetire (loaderPacket 2 5 [])) residentState = .next t ∧
      t.led.admitReg = word [put 63 56 acADMITTED, put 55 44 5, put 43 38 0, put 37 35 0, put 34 20 0, 1] ∧
      (ctxOf t 5).switch = some
        { discard := false, next := none, flipped := false, clusters := [], asker := some (0x41, 1, 0) }) := by
  obtain ⟨-, -, -, -, rejects, retires⟩ := planImagesLoad
  constructor
  · have hbad : admissionResult (stagedAdm (stagedState { twoWords with got := [0, 1] }) { twoWords with got := [0, 1] }) =
        some (1, tbHeader, 0) := by decide +kernel
    obtain ⟨t, ht, hr⟩ := rejects (stagedState { twoWords with got := [0, 1] }) _ _ _ _ rfl (by decide) (by decide) hbad
    exact ⟨t, ht, hr⟩
  · obtain ⟨t, ht, hr, hs⟩ := retires (loaderPacket 2 5 []) residentState 0 onePlan (by decide) (by decide) (by decide)
      (by decide) rfl rfl (.inr rfl) rfl
    exact ⟨t, ht, hr, hs (by decide)⟩

end Sys2Proof.Machine
end

section
/-!
Steps of the hold window (R107, R113), the tokens held for a lane (R181), and the switch of a context to another plan
(R114, R115).
-/
namespace Sys2Proof.Machine

/-! ### STEP_DONE, the grace and RELEASE -/

theorem stepDone_counts {p : Ingress} {s : State} {q : Plan} {n : Nat} {x : StepSt}
    (hw : steerWindow s (steerOf p).ctx (steerOf p).epoch (steerOf p).step32 (steerOf p).attempt = .take q n)
    (ht : (steerOf p).task = 0x7FFF) (hr : p.src ∈ q.roster)
    (hx : stepOf s (steerOf p).ctx (steerOf p).epoch n = some x) :
    stepOf (stepDone p s) (steerOf p).ctx (steerOf p).epoch n = some { x with
      doneCount := x.doneCount + 1, doneBy := x.doneBy ++ [p.src], graceOver := false } := by
  unfold stepDone
  dsimp only
  rw [hw]
  dsimp only
  rw [if_pos ⟨ht, List.contains_iff_mem.mpr hr⟩]
  exact stepOf_mStep _ (stepOf_noteStep hx) (stepOf_isStep hx :)

theorem resGraceExpiry_marks {c : Nat} {e : Bool} {step32 n : Nat} {s : State} {x : StepSt}
    (hn : fullStep (baseOf s c e) step32 = some n) (hx : stepOf s c e n = some x) :
    stepOf (resGraceExpiry c e step32 s) c e n = some { x with graceOver := true } := by
  unfold resGraceExpiry
  rw [hn]
  dsimp only [withStep]
  rw [hx, if_neg (nomatch ·)]
  exact stepOf_mStep _ hx (stepOf_isStep hx :)

theorem release_moves_base {c m : Nat} {s : State} {q : Plan} (hq : planOf s c = some (m, q))
    (hr : mayRelease s c q (ctxOf s c).base = true) (hd : s.led.deferred = []) :
    (ctxOf (release c s) c).base = (ctxOf s c).base + 1 ∧ stepOf (release c s) c q.epoch (ctxOf s c).base = none := by
  unfold release
  rw [hq]
  dsimp only
  rw [if_pos hr]
  exact doRelease_base c q _ s hd

/-! ### STEP_TIMEOUT -/

theorem physOf_reportCores (u kind addr : Nat) (ctx : Option Nat) (labels : List Huid) (s : State) (l : Huid) :
    physOf (reportCores u kind addr ctx labels s) l = physOf s l := by
  unfold physOf
  rw [(same_reportCores ..).ym (by decide)]

/-- Neither the dispute nor the DRAIN switch that becomes DISCARD (R116) touches the chains or the held XDIGESTs. -/
theorem same_timeoutDispute (c : Nat) (e : Bool) (d : Dispute) (s : State) : Same [.ports, .fc, .led, .vu, .hx, .ob] s
    (if e = (ctxOf (openDispute d s) c).epoch then drainToDiscard c (openDispute d s) else openDispute d s) := by
  have h : Same [.ports, .fc, .led, .vu, .hx, .ob] s (openDispute d s) := (same_openDispute ..).mono (by decide)
  split
  · exact h.trans (same_drainToDiscard ..)
  · exact h

/-- The cores that owe the step a contribution or a STEP_DONE. -/
def lateCores (s : State) (c : Nat) (q : Plan) (x : StepSt) (n : Nat) : List Huid := dedup (owing s c q n ++ notDone q x n)

theorem stepTimeout_ct_twc {c : Nat} {e : Bool} {step32 m n : Nat} {s : State} {q : Plan} {x : StepSt}
    (hq : planOfEpoch s c e = some (m, q)) (hn : fullStep (baseOf s c e) step32 = some n) (hx : stepOf s c e n = some x)
    (hh : stepHeld s c q n = false) :
    (stepTimeout c e step32 s).ct = (startChains c n (lateCores s c q x n)
      (reportCores uLED 0x33 (n % 2 ^ 16 * 2 ^ 32) (some c) (lateCores s c q x n) s)).ct ∧
    (stepTimeout c e step32 s).twc = (dropXhold c e n s).twc := by
  unfold stepTimeout
  rw [hq]
  dsimp only
  rw [hn]
  dsimp only [withStep]
  rw [hx]
  dsimp only
  rw [hh, if_neg Bool.false_ne_true]
  constructor
  · rw [(same_timeoutDispute ..).ct (by decide), (same_dropXhold ..).ct (by decide)]
    exact (same_mStep ..).ct (by decide)
  · rw [(same_timeoutDispute ..).twc (by decide)]
    unfold dropXhold
    rw [State.mTwc_twc, State.mTwc_twc, (same_mStep ..).twc (by decide), (same_startChains ..).twc (by decide),
      (same_reportCores ..).twc (by decide)]

theorem stepTimeout_starts_chain {c : Nat} {e : Bool} {step32 m n : Nat} {s : State} {q : Plan} {x : StepSt} {l : Huid}
    (hq : planOfEpoch s c e = some (m, q)) (hn : fullStep (baseOf s c e) step32 = some n) (hx : stepOf s c e n = some x)
    (hh : stepHeld s c q n = false) (hl : l ∈ sortBy BitVec.toNat (dedup (lateCores s c q x n))) :
    ∃ y ∈ (stepTimeout c e step32 s).ct.chains, y.ctx = c ∧ y.step = n ∧ y.next = physOf s l := by
  rw [(stepTimeout_ct_twc hq hn hx hh).1, ← physOf_reportCores]
  exact startChains_at c n _ _ l hl

/-! ### A token held for a lane -/

theorem fireHeldRelease_moves {lane : Nat} {s : State} {k : Token}
    (hk : (s.led.held.find? fun h => decide (h.1 = lane)) = some (lane, k)) (hroom : (laneOf s lane).queue.length < 32)
    (hlane : lane < s.sa.lanes.length) :
    (fireHeldRelease lane s).led.held = s.led.held.erase (lane, k) ∧
      (laneOf (fireHeldRelease lane s) lane).queue = (laneOf s lane).queue ++ [k] := by
  unfold fireHeldRelease
  rw [hk]
  dsimp only
  rw [if_neg (Nat.not_le.mpr hroom)]
  refine ⟨rfl, ?_⟩
  rw [laneOf_mLane _ (by exact hlane)]
  rfl

/-! ### The switch of a plan -/

theorem ctxOf_fireAll (c d : Nat) (s : State) : ctxOf (fireAll c s) d = ctxOf s d := ctxOf_led (fireAll_ctxs c s) d

theorem planEpochFlip_flips {c : Nat} {s : State} {w : Switch} (hw : (ctxOf s c).switch = some w) (hf : w.flipped = false)
    (hd : w.discard = true ∨ drained s c = true) : planEpochFlip c s = flipEpoch c w s := by
  unfold planEpochFlip
  rw [hw]
  dsimp only
  rw [if_neg]
  rintro (h | h)
  · exact Bool.false_ne_true (hf.symm.trans h)
  · exact h hd

/-- R115: the cluster leaves the switch, and the switch ends with the last one. -/
theorem clusterReconfig_switch {c k : Nat} {s : State} {w : Switch} (hw : (ctxOf s c).switch = some w)
    (hf : w.flipped = true) (hk : k ∈ w.clusters)
    (hidle : ∀ l ∈ range' (k * 4) 4, ∀ r, (laneOf s l).run = some r → oldToken s c r.tok = false) :
    (ctxOf (clusterReconfig c k s) c).switch = if (w.clusters.filter (· ≠ k)).isEmpty then none
      else some { w with clusters := w.clusters.filter (· ≠ k) } := by
  unfold clusterReconfig
  rw [hw]
  dsimp only
  rw [if_neg ?busy, apply_ite (ctxOf · c), ctxOf_fireAll, ite_self, ctxOf_mCtx]
  case busy =>
    rintro (h | h | h)
    · exact h hf
    · exact h (List.contains_iff_mem.mpr hk)
    · obtain ⟨l, hl, hold⟩ := List.any_eq_true.mp h
      split at hold
      case h_1 r hr => exact Bool.false_ne_true ((hidle l hl r hr).symm.trans hold)
      case h_2 => exact Bool.false_ne_true hold

/-- Settles O7: a clause for each command of the steps and of a switch. -/
theorem stepsAdvance : Obligations.StepsAdvance := by
  refine ⟨?stepDone, ?grace, ?release, ?timeout, ?held, ?flip, ?cluster⟩
  case stepDone =>
    rintro p s q n _ x ha hp rfl hw ht hr hx
    exact ⟨_, rfl, by rw [recordPacket_arrives _ ha hp]; exact stepDone_counts hw ht hr hx⟩
  case grace =>
    intro ctx epoch step s n x hn hx
    exact ⟨_, rfl, resGraceExpiry_marks hn hx⟩
  case release =>
    rintro ctx s m _ q hp hq rfl hr hd
    refine ⟨_, rfl, ?_⟩
    rw [hp, if_neg Bool.false_ne_true]
    exact release_moves_base hq hr hd
  case timeout =>
    intro ctx epoch step s m n q x l hp hq hn hx hh hl
    refine ⟨_, rfl, ?_⟩
    rw [hp, if_neg Bool.false_ne_true]
    exact ⟨stepTimeout_starts_chain hq hn hx hh hl, congrArg Twc.xhold (stepTimeout_ct_twc hq hn hx hh).2⟩
  case held =>
    intro lane s k _ hk hroom hlane
    exact ⟨_, rfl, fireHeldRelease_moves hk hroom hlane⟩
  case flip =>
    intro ctx s w n q hp hw hf hd hq
    refine ⟨_, rfl, ?_⟩
    rw [hp, if_neg Bool.false_ne_true, planEpochFlip_flips hw hf hd]
    exact flipEpoch_ctx ctx.toNat w s hq
  case cluster =>
    intro ctx cluster s w hw hf hk hidle
    exact ⟨_, rfl, clusterReconfig_switch hw hf hk hidle⟩

/-! ### The clauses at work -/

/-- A STEP_DONE of the one core of the roster for step 0 of context 5. -/
def donePacket : Ingress :=
  { port := 1, cls := 0, flits := 1, body := leBytes 16 (5 * 2 ^ 116 + 0x7FFF * 2 ^ 98),
    header := word [put 63 58 4, put 53 38 0x41, put 37 22 0xF000, put 15 0 16] }

/-- Context 5 runs `onePlan` and has started step 0, which waits for the one core of the roster. -/
def stepState (x : StepSt) : State := residentState.mLed fun l => { l with steps := [x] }

def startedStep : StepSt := StepSt.fresh 5 false 0 0

/-- Step 0 with its one STEP_DONE. -/
def doneStep : StepSt := { startedStep with doneCount := 1, doneBy := [0x41] }

/-- O7 at work: the STEP_DONE of the core, the grace and the release of step 0; without the STEP_DONE, a
chain for the core. -/
theorem stepState_advances :
    (∃ t, exec (.stepDone donePacket) (stepState startedStep) = .next t ∧ stepOf t 5 false 0 = some doneStep) ∧
    (∃ t, exec (.resGraceExpiry 5 false 0) (stepState doneStep) = .next t ∧
      stepOf t 5 false 0 = some { doneStep with graceOver := true }) ∧
    (∃ t, exec (.release 5) (stepState { doneStep with graceOver := true }) = .next t ∧ (ctxOf t 5).base = 1 ∧
      stepOf t 5 false 0 = none) ∧
    (∃ t, exec (.stepTimeout 5 false 0) (stepState startedStep) = .next t ∧
      ∃ y ∈ t.ct.chains, y.ctx = 5 ∧ y.step = 0 ∧ y.next = 0x41) := by
  obtain ⟨stepDone, grace, release, timeout, -⟩ := stepsAdvance
  refine ⟨?done, ?grace, ?release, ?timeout⟩
  case done =>
    exact stepDone donePacket (stepState startedStep) onePlan 0 _ startedStep (by decide) (by decide) rfl
      (by decide +kernel) (by decide) (by decide) (by decide)
  case grace => exact grace 5 false 0 (stepState doneStep) 0 doneStep (by decide) (by decide)
  case release =>
    exact release 5 (stepState { doneStep with graceOver := true }) 0 0 onePlan (by decide) rfl rfl (by decide) rfl
  case timeout =>
    obtain ⟨t, ht, hchain, -⟩ := timeout 5 false 0 (stepState startedStep) 0 0 onePlan startedStep 0x41 (by decide) rfl
      (by decide) (by decide) (by decide) (by decide)
    exact ⟨t, ht, hchain⟩

/-- Task 0 of step 0 of context 5, held for lane 9 of cluster 2. -/
def heldToken : Token :=
  { ctx := 5, epoch := false, attempt := 0, step := 0, task := 0, reruns := 0, redispatched := false }

def heldState : State := residentState.mLed fun l => { l with held := [(9, heldToken)] }

/-- A RETIRE of context 5 in progress. -/
def retireSwitch : Switch := { discard := false, next := none, flipped := false, clusters := [], asker := none }

/-- Context 5 in a switch. -/
def switchState (w : Switch) : State := residentState.mLed fun l =>
  { l with ctxs := [(5, { CtxSt.reset with plan := some 0, switch := some w })] }

/-- O7 at work: the held token enters its lane; a context with no started step flips, and its switch ends with
cluster 2. -/
theorem switchState_ends :
    (∃ t, exec (.fireHeldRelease 9) heldState = .next t ∧ t.led.held = [] ∧ (laneOf t 9).queue = [heldToken]) ∧
    (∃ t, exec (.planEpochFlip 5) (switchState retireSwitch) = .next t ∧ (ctxOf t 5).epoch = true ∧
      ∃ e ∈ t.mem.erasures, e.ctx = 5 ∧ e.plan = 0 ∧ e.kill = false) ∧
    (∃ t, exec (.clusterReconfig 5 2) (switchState { retireSwitch with flipped := true, clusters := [2] }) = .next t ∧
      (ctxOf t 5).switch = none) := by
  obtain ⟨-, -, -, -, held, flip, cluster⟩ := stepsAdvance
  refine ⟨?held, ?flip, ?cluster⟩
  case held =>
    exact held 9 heldState heldToken (by decide) (by decide) (by decide) (by decide)
  case flip =>
    obtain ⟨t, ht, hepoch, -, -, e, he, hctx, hplan, hkill, -⟩ := flip 5 (switchState retireSwitch) retireSwitch 0
      onePlan (by decide) rfl rfl (.inr (by decide)) rfl
    exact ⟨t, ht, hepoch, e, he, hctx, hplan, hkill⟩
  case cluster =>
    have hidle : ∀ l ∈ range' (2 * 4) 4,
        (laneOf (switchState { retireSwitch with flipped := true, clusters := [2] }) l).run = none := by decide
    exact cluster 5 2 _ { retireSwitch with flipped := true, clusters := [2] } rfl rfl (by decide)
      fun l hl r hr => absurd ((hidle l hl).symm.trans hr) nofun

end Sys2Proof.Machine
end

section
/-!
The comparison of a twin on two paths (R129, R130), and the known-answer test of the paths (R242).
-/
namespace Sys2Proof.Machine

/-! ### The token under comparison -/

theorem bumpCtx_mem (k j c n : Nat) (s : State) : (bumpCtx k j c n s).mem = s.mem :=
  (same_bumpCtx ..).mem (by decide)

theorem bumpCtx_twc (k j c n : Nat) (s : State) : (bumpCtx k j c n s).twc = s.twc := (same_bumpCtx ..).twc (by decide)

theorem reportSelf_twc (u inst kind addr : Nat) (ctx : Option Nat) (s : State) :
    (reportSelf u inst kind addr ctx s).twc = s.twc := (same_reportSelf ..).twc (by decide)

/-- The token at the head has left the queue, and its comparison is counted by the kind of its task. -/
def twcTaken (x : Token) (rest : List Token) (k : TaskE) (s : State) : State :=
  let s := s.mTwc fun q => { q with queue := rest }
  if k.kind = ktXTEST then bumpCtx 72 19 x.ctx 1 s else bumpCtx 64 11 x.ctx 1 s

section
variable (x : Token) (rest : List Token) (k : TaskE) (s : State)

theorem twcTaken_led : (twcTaken x rest k s).led = s.led := by
  unfold twcTaken
  split <;> exact bumpCtx_led ..

theorem twcTaken_mem : (twcTaken x rest k s).mem = s.mem := by
  unfold twcTaken
  split <;> exact bumpCtx_mem ..

theorem twcTaken_twc : (twcTaken x rest k s).twc = { s.twc with queue := rest } := by
  unfold twcTaken
  split <;> exact bumpCtx_twc ..

theorem tokInst_twcTaken : tokInst (twcTaken x rest k s) x = tokInst s x :=
  instOf_congr (congrArg Led.insts (twcTaken_led x rest k s)) ..

theorem twinOutcome_twcTaken (p : Plan) : twinOutcome (twcTaken x rest k s) p x = twinOutcome s p x :=
  twinOutcome_congr (twcTaken_led ..) (congrArg MemSt.loft (twcTaken_mem ..)) p x

end

/-! ### The outcome of two paths -/

/-- A current token, with a path in service and an answer of each path: R130 where they differ, else their outcome. -/
theorem twcCompare_answered {s : State} {x : Token} {rest : List Token} {p : Plan} {k : TaskE} {a b : PathSay} {m n : Nat}
    (hq : s.twc.queue = x :: rest) (hk : tokTask s x = some (p, k)) (hs : tokenStale s x = 0) (hp : twcPaths s ≠ 0)
    (ha : pathOutcome (twinOutcome s p x) a = some m) (hb : pathOutcome (twinOutcome s p x) b = some n) :
    twcCompare a b s =
      if m ≠ n then twinDisagree x (twcTaken x rest k s)
      else if k.kind = ktXTEST then xtestOutcome p x m (redispatchReturned x (twcTaken x rest k s))
      else twinDone p x m (redispatchReturned x (twcTaken x rest k s)) := by
  have outcome := twinOutcome_twcTaken x rest k s p
  unfold twcCompare
  rw [hq]
  dsimp only
  rw [tokTask_congr (State.mTwc_led _ s), hk]
  dsimp only
  rw [tokenStale_congr (State.mTwc_led _ s), hs, if_neg (not_not_intro rfl),
    if_neg (show ¬ twcPaths (s.mTwc fun q => { q with queue := rest }) = 0 from hp)]
  unfold twcTaken at outcome ⊢
  dsimp only at outcome ⊢
  rw [outcome, ha, hb]

/-- R129: MATCH passes the instance, and TWC keeps its queue. -/
theorem twinDone_match {t : Token} {s : State} {i : Inst} (p : Plan) (hi : tokInst s t = some i) :
    (twinDone p t twMATCH s).twc = s.twc ∧ tokInst (twinDone p t twMATCH s) t = some { i with passed := true } := by
  rw [show twinDone p t twMATCH s = taskPassed t s from if_pos rfl]
  exact ⟨(same_taskPassed ..).twc (by decide), taskPassed_inst t hi⟩

/-- R130: the first disagreement is noted, and the token stands at the head again. -/
theorem twinDisagree_first {t : Token} (s : State) (h : t.reruns = 0) :
    (twinDisagree t s).twc.queue = { t with reruns := 1 } :: s.twc.queue ∧ (twinDisagree t s).twc.pathFault = true := by
  unfold twinDisagree twLast
  dsimp only
  rw [if_pos h]
  simp only [State.mTwc_twc, reportSelf_twc, bumpCtx_twc, and_self]

/-! ### The known-answer test -/

theorem fencePaths_twc (a b : Bool) (s : State) :
    (fencePaths a b s).twc = { s.twc with pathA := s.twc.pathA && !a, pathB := s.twc.pathB && !b } := by
  unfold fencePaths
  dsimp only
  split
  case isTrue => exact reportSelf_twc ..
  case isFalse => rfl

/-- R242: a path stays in service when it passes. -/
theorem twcKat_twc (passA passB : Bool) (s : State) :
    (twcKat passA passB s).twc = { s.twc with pathA := s.twc.pathA && passA, pathB := s.twc.pathB && passB } := by
  have keep : ∀ path pass : Bool, (path && !(path && !pass)) = (path && pass) := by decide
  have passed : ∀ path pass : Bool, ¬ (path && !pass) = true → (path && pass) = path := by decide
  unfold twcKat
  dsimp only
  split
  case isTrue => rw [fencePaths_twc, reportSelf_twc, keep, keep]
  case isFalse h =>
    obtain ⟨ha, hb⟩ := not_or.mp h
    rw [passed _ _ ha, passed _ _ hb]

/-- Settles O8: the agreed MATCH, the first disagreement and the known-answer test. -/
theorem twinsCompared : Obligations.TwinsCompared := by
  refine ⟨?agree, ?disagree, ?kat⟩
  case agree =>
    intro s x rest p k i he hq hk hs hp hx hi hr ho
    refine ⟨_, rfl, ?_⟩
    obtain ⟨htwc, hinst⟩ := twinDone_match (s := twcTaken x rest k s) p ((tokInst_twcTaken x rest k s).trans hi)
    rw [he, if_neg Bool.false_ne_true, twcCompare_answered hq hk hs hp rfl rfl, if_neg (not_not_intro rfl), if_neg hx,
      redispatchReturned_first _ hr, ho]
    exact ⟨by rw [htwc, twcTaken_twc], hinst⟩
  case disagree =>
    intro s x rest p k o m he hq hk hs hp ho hx
    refine ⟨_, rfl, ?_⟩
    obtain ⟨hqueue, hfault⟩ := twinDisagree_first (twcTaken x rest k s) hx
    rw [he, if_neg Bool.false_ne_true, twcCompare_answered hq hk hs hp rfl rfl, if_pos ho.symm]
    exact ⟨by rw [hqueue, twcTaken_twc], hfault⟩
  case kat =>
    intro passA passB s he
    refine ⟨_, rfl, ?_⟩
    rw [he, if_neg Bool.false_ne_true]
    exact twcKat_twc passA passB s

/-! ### The clauses at work -/

/-- A TWIN task of layer 0, with a slot for each of its two sides. -/
def twinTask : TaskE :=
  { kind := ktTWIN, layerIdx := 0, engine := 0, desc := 0, pair := 0, pairCount := 1, succ := noTask,
    inputs := [{ slot := 0, cnt := 1 }, { slot := 1, cnt := 1 }], tile0 := 0, tileStep := 0 }

/-- A plan whose one layer has four elements, and whose one task is that twin. -/
def twinPlan : Plan := { onePlan with layers := [{ Plan.noLayer with elements := 4, doneCount := 1 }], tasks := [twinTask] }

/-- A side that brought the digest of four elements. -/
def twinGroup : Group := { Group.empty with count := 1, bytes := 8, declared := 8, elems := 4, full := true }

def twinInst : Inst := { Inst.fresh 5 false 0 0 2 with groups := [twinGroup, twinGroup], fired := true }

/-- Context 5 with that instance fired; `heldToken` is its token. Both digests of the Loft read zero. -/
def twinState : State := (residentState.mLed fun l => { l with plans := [(0, twinPlan)], insts := [twinInst] }).mTwc
  fun q => { q with queue := [heldToken] }

/-- O8 at work: both paths say MATCH; path B says DIGEST_DIFF; path B fails its known-answer test. -/
theorem twinState_compares :
    (∃ t, exec (.twcCompare .exact .exact) twinState = .next t ∧ t.twc.queue = [] ∧
      tokInst t heldToken = some { twinInst with passed := true }) ∧
    (∃ t, exec (.twcCompare .exact (.other 1 0)) twinState = .next t ∧
      t.twc.queue = [{ heldToken with reruns := 1 }] ∧ t.twc.pathFault = true) ∧
    (∃ t, exec (.twcKat true false) twinState = .next t ∧ t.twc = { twinState.twc with pathB := false }) := by
  obtain ⟨agree, disagree, kat⟩ := twinsCompared
  have hmatch : twinOutcome twinState twinPlan heldToken = twMATCH := by decide +kernel
  refine ⟨?agree, ?disagree, kat true false twinState (by decide)⟩
  case agree =>
    exact agree twinState heldToken [] twinPlan twinTask twinInst (by decide) rfl rfl (by decide) (by decide) (by decide)
      rfl rfl hmatch
  case disagree =>
    exact disagree twinState heldToken [] twinPlan twinTask 1 0 (by decide) rfl rfl (by decide) (by decide)
      (by rw [hmatch]; decide) rfl

end Sys2Proof.Machine
end

section
/-!
The comparison of a perimeter on two pipelines (R159, R162), and the known-answer test of the pipelines (R163).
-/
namespace Sys2Proof.Machine

/-! ### The token under comparison -/

theorem bumpCtx_per (k j c n : Nat) (s : State) : (bumpCtx k j c n s).per = s.per := (same_bumpCtx ..).per (by decide)

theorem perimRecs_congr {s t : State} (h : t.led = s.led) (k : t.mem.loft = s.mem.loft) (p : Plan) (x : Token) :
    perimRecs t p x = perimRecs s p x := by
  unfold perimRecs
  rw [groupData_congr h k, groupData_congr h k]

/-- What an undisturbed pipeline computes from the two records of a token. -/
def perimOutcome (s : State) (p : Plan) (x : Token) : PerimSay :=
  perimCompare (perimRecs s p x).1 (perimRecs s p x).2 (tokLayer p x) (tokTile p x)

theorem perimOutcome_congr {s t : State} (h : t.led = s.led) (k : t.mem.loft = s.mem.loft) (p : Plan) (x : Token) :
    perimOutcome t p x = perimOutcome s p x := by
  unfold perimOutcome
  rw [perimRecs_congr h k]

/-- Every queued token has its pipelines in service (R164), and one entry has left the queue. -/
def perTaken (e : Token × Nat × Nat) (s : State) : State :=
  s.mPer fun q => { q with queue := (q.queue.map (repipe s)).erase e }

/-- With two pipelines in service, the oldest token of both of its pipelines runs on them when it is current. -/
theorem perimCommand_runs {s : State} {pipe p1 p2 : Nat} {x : Token} {p : Plan} {k : TaskE} (a b : PathSay)
    (katA katB : Bool) (hup : 2 ≤ (pipesUp s).length) (hq : pipeHead (s.per.queue.map (repipe s)) pipe = some (x, p1, p2))
    (hk : tokTask s x = some (p, k)) (hs : tokenStale s x = 0) :
    perimCommand pipe a b katA katB s = perimRun p x p1 p2 a b katA katB (perTaken (x, p1, p2) s) := by
  have hdown : ¬ (pipesUp (s.mPer fun q => { q with queue := q.queue.map (repipe s) })).length < 2 := Nat.not_lt.mpr hup
  unfold perimCommand
  dsimp only
  rw [if_neg hdown, State.mPer_per, hq]
  dsimp only
  rw [tokTask_congr (State.mPer_led ..), tokTask_congr (State.mPer_led ..), hk]
  dsimp only
  rw [tokenStale_congr (State.mPer_led ..), tokenStale_congr (State.mPer_led ..), hs, if_neg (not_not_intro rfl),
    if_neg hdown]
  rfl

/-- An outcome that both pipelines answer is the outcome of the run. -/
theorem perimRun_agreed {s : State} {p : Plan} {x : Token} {a b : PathSay} {o m : Nat} (p1 p2 : Nat) (katA katB : Bool)
    (ha : pipeSay (perimOutcome s p x) a = some (.out o m)) (hb : pipeSay (perimOutcome s p x) b = some (.out o m))
    (hr : x.redispatched = false) :
    perimRun p x p1 p2 a b katA katB s = perimDone p x p1 p2 o m (bumpCtx 128 23 x.ctx 1 s) := by
  have outcome : perimOutcome (bumpCtx 128 23 x.ctx 1 s) p x = perimOutcome s p x :=
    perimOutcome_congr (bumpCtx_led ..) (congrArg MemSt.loft (bumpCtx_mem ..)) p x
  rw [← outcome] at ha hb
  unfold perimOutcome at ha hb
  unfold perimRun
  dsimp only
  rw [ha, hb]
  dsimp only
  rw [if_neg (not_not_intro rfl), redispatchReturned_first _ hr]

/-- R159: MATCH passes the instance, and PER keeps its queue. -/
theorem perimDone_match {t : Token} {s : State} {i : Inst} (p : Plan) (p1 p2 m : Nat) (hi : tokInst s t = some i) :
    (perimDone p t p1 p2 peMATCH m s).per = s.per ∧
      tokInst (perimDone p t p1 p2 peMATCH m s) t = some { i with passed := true } := by
  rw [show perimDone p t p1 p2 peMATCH m s = taskPassed t (bumpCtx 129 24 t.ctx 1 s) from rfl]
  exact ⟨by rw [(same_taskPassed ..).per (by decide), bumpCtx_per], taskPassed_inst t ((instOf_bumpCtx ..).trans hi)⟩

/-! ### The known-answer test -/

/-- A pipeline that passes counts its run, and no pipeline leaves service. -/
theorem pipeKat_pass (k : Nat) (s : State) :
    (pipeKat k true s).per = { s.per with runs := s.per.runs + 1, lastPass := s.per.lastPass ||| (1#8 <<< k) } := by
  unfold pipeKat
  dsimp only
  rw [if_pos rfl, (same_bump ..).per (by decide), State.mPer_per, if_pos rfl]

theorem foldl_pipeKat_pass {pass : BitVec 8} (l : List Nat) (h : ∀ k ∈ l, bit pass k = true) (s : State) :
    (l.foldl (fun s k => pipeKat k (bit pass k) s) s).per.runs = s.per.runs + l.length ∧
      (l.foldl (fun s k => pipeKat k (bit pass k) s) s).per.inService = s.per.inService := by
  induction l generalizing s with
  | nil => exact ⟨(BitVec.add_zero _).symm, rfl⟩
  | cons k l ih =>
    obtain ⟨hk, hl⟩ := List.forall_mem_cons.mp h
    obtain ⟨hruns, hservice⟩ := ih hl (pipeKat k true s)
    rw [List.foldl_cons, hk]
    constructor
    · rw [hruns, pipeKat_pass, List.length_cons, Nat.cast_succ]
      ring
    · rw [hservice, pipeKat_pass]

/-- Settles O9: the agreed MATCH and the known-answer test that every pipeline passes. -/
theorem perimetersCompared : Obligations.PerimetersCompared := by
  refine ⟨?agree, ?kat⟩
  case agree =>
    intro pipe katA katB s x p1 p2 q k i he hup hq hk hs hi hr ho
    refine ⟨_, rfl, ?_⟩
    have agreed : pipeSay (perimOutcome (perTaken (x, p1, p2) s) q x) .exact = some (.out peMATCH 0) := congrArg some ho
    have inst : tokInst (bumpCtx 128 23 x.ctx 1 (perTaken (x, p1, p2) s)) x = some i := (instOf_bumpCtx ..).trans hi
    obtain ⟨hper, hinst⟩ := perimDone_match q p1 p2 0 inst
    rw [he, if_neg Bool.false_ne_true, perimCommand_runs _ _ katA katB hup hq hk hs,
      perimRun_agreed p1 p2 katA katB agreed agreed hr]
    exact ⟨by rw [hper, bumpCtx_per]; rfl, hinst⟩
  case kat =>
    intro pass s he hperiod hdom hpass
    refine ⟨_, rfl, ?_⟩
    rw [he, if_neg Bool.false_ne_true]
    unfold perKatPeriod
    rw [if_neg (not_or_intro hperiod (not_not_intro hdom))]
    exact foldl_pipeKat_pass _ hpass s

/-! ### The clauses at work -/

/-- A PERIM task on the pipelines 2 and 3, with a slot for the record of each side. -/
def perimTask : TaskE := { twinTask with kind := ktPERIM, engine := 2 * 8 + 3 }

/-- A record of a tile of one element, all of whose sums are zero: its header, and its LPF records in the short form. -/
def zeroPerim (role nlpf : Nat) : Bytes :=
  leBytes 16 (put 95 94 role + put 86 84 nlpf) ++
    (List.replicate nlpf (lpfBytes { Acc.zero with terms := 1 })).flatten

/-- A side that brought its whole record. -/
def perimGroup (bytes : Nat) : Group := { Group.empty with count := 1, bytes := bytes, declared := bytes, full := true }

def perimInst : Inst := { Inst.fresh 5 false 0 0 2 with groups := [perimGroup 64, perimGroup 48], fired := true }

/-- A plan whose one task is that PERIM. -/
def perimPlan : Plan := { twinPlan with tasks := [perimTask] }

/-- Context 5 with that instance fired, both records in the Loft, and the domain of PER powered. -/
def perimState : State :=
  (((residentState.mLed fun l => { l with plans := [(0, perimPlan)], insts := [perimInst] }).mPer
    fun q => { q with queue := [(heldToken, 2, 3)] }).mMem
    fun m => { m with loft := Mem.write (Mem.write m.loft (slotAddr 0) (zeroPerim 0 6)) (slotAddr 1) (zeroPerim 1 4) }).mTs
    fun t => { t with domains := t.domains.set 20 .on }

/-- O9 at work: pipelines 2 and 3 both say MATCH; all eight pipelines pass their known-answer tests. -/
theorem perimState_compares :
    (∃ t, exec (.perimCompare 2 .exact .exact true true) perimState = .next t ∧ t.per.queue = [] ∧
      tokInst t heldToken = some { perimInst with passed := true }) ∧
    (∃ t, exec (.perKatPeriod 0xFF) perimState = .next t ∧ t.per.runs = 8 ∧ t.per.inService = 0xFF) := by
  obtain ⟨agree, kat⟩ := perimetersCompared
  have hmatch : perimOutcome perimState perimPlan heldToken = .out peMATCH 0 := by decide +kernel
  constructor
  · exact agree 2 true true perimState heldToken 2 3 perimPlan perimTask perimInst (by decide) (by decide) (by decide) rfl
      (by decide) (by decide) rfl hmatch
  · exact kat 0xFF perimState (by decide) (by decide) (by decide) (by decide)

end Sys2Proof.Machine
end

section
/-!
The lanes of SA: the start and the end of a task (R181, R183), the partial sums of a chain (R185 to R187), remote reads
(R188) and the known-answer test of the lanes (R192).
-/
namespace Sys2Proof.Machine

/-! ### The start of a task -/

theorem planOfEpoch_congr {s t : State} (h : t.led = s.led) (c : Nat) (e : Bool) :
    planOfEpoch t c e = planOfEpoch s c e := by
  unfold planOfEpoch planOf standbyOf planAt ctxOf
  rw [h]

/-- The head of the lane's queue has left it, and its descriptor is in the cluster's cache (R181). -/
def laneTaken (lane plan desc : Nat) (rest : List Token) (s : State) : State :=
  cacheDesc (lane / 4) plan desc (s.mLane lane fun y => { y with queue := rest })

/-- An idle lane stages the operands of the token at the head of its queue and runs it; without PART nothing is pushed. -/
theorem shadowTaskStart_runs {lane n : Nat} {s : State} {x : Token} {rest : List Token} {p : Plan}
    (hup : laneUp s lane = true) (hidle : (laneOf s lane).run = none) (hinq : (clusterOf s (lane / 4)).inq = [])
    (hdom : domainOf s (lane / 4) = .on) (hq : (laneOf s lane).queue = x :: rest)
    (hp : planOfEpoch s x.ctx x.epoch = some (n, p)) (hs : tokenStale s x = 0) (hw : shapeWrong s p x = false)
    (hr : (taskDesc p (planTask p x.task)).role ≠ rolePART) :
    shadowTaskStart lane s =
      (stageOperands lane (tokWork s p x) (laneTaken lane n (planTask p x.task).desc rest s)).mLane lane fun y =>
        { y with run := some { tok := x, desc := p.descs.getD (planTask p x.task).desc 0, out := [] } } := by
  have hled : (laneTaken lane n (planTask p x.task).desc rest s).led = s.led := rfl
  have hloft : (laneTaken lane n (planTask p x.task).desc rest s).mem.loft = s.mem.loft := rfl
  have work := tokWork_congr hled hloft p x
  have shape := shapeWrong_congr hled hloft p x
  unfold laneTaken at work shape ⊢
  unfold shadowTaskStart
  dsimp only
  rw [if_neg (by simp [hup, hidle, hinq, hdom]), hq]
  dsimp only
  rw [planOfEpoch_congr (State.mLane_led ..), hp]
  dsimp only
  rw [tokenStale_congr (State.mLane_led ..), hs, if_neg (not_not_intro rfl), shape, hw, if_neg Bool.false_ne_true, work,
    if_neg fun h => hr h.1]

/-! ### The end of a task -/

theorem laneEcc_clean {array place : Nat} (inst ek lane : Nat) {s : State} (h : flipsAt s array place 1 = 0) :
    laneEcc array place inst ek lane s = (false, s) := by
  unfold laneEcc
  rw [h]
  rfl

theorem taskEcc_clean {lane : Nat} {s : State} (hbuf : flipsAt s 2 lane 1 = 0) (hcm : flipsAt s 1 (lane / 4) 1 = 0) :
    taskEcc lane s = (false, false, s) := by
  unfold taskEcc
  rw [laneEcc_clean _ _ _ hbuf]
  dsimp only
  rw [laneEcc_clean _ _ _ hcm]

/-- A task whose data no error touched comes to the comparison when its token is current. -/
theorem shadowTaskDone_compares {lane : Nat} {s : State} {r : Run} {p : Plan} {k : TaskE}
    (wrong : Option (BitVec 40 × BitVec 32)) (b : PathSay) (katPass : Bool) (hrun : (laneOf s lane).run = some r)
    (hbuf : flipsAt s 2 lane 1 = 0) (hcm : flipsAt s 1 (lane / 4) 1 = 0) (hk : tokTask s r.tok = some (p, k))
    (hs : tokenStale s r.tok = 0) (hr : (taskDesc p k).role ≠ rolePART) :
    shadowTaskDone lane false wrong b katPass s = shadowCompare p r.tok lane wrong b katPass s := by
  unfold shadowTaskDone
  rw [hrun]
  dsimp only
  rw [taskEcc_clean hbuf hcm]
  dsimp only
  rw [if_neg Bool.false_ne_true, hk]
  dsimp only
  rw [if_neg (not_not_intro hs), if_neg (by decide), if_neg hr]

/-- The comparison has run: its products are counted (R199), and the lane is idle. -/
def laneCompared (p : Plan) (t : Token) (lane : Nat) (s : State) : State :=
  laneIdle lane (bumpCtx 192 34 t.ctx 1 (countProducts t (tokWork s p t).products (watchTask p t s)))

section
variable (p : Plan) (t : Token) (lane : Nat) (s : State)

theorem laneCompared_led : (laneCompared p t lane s).led = s.led := by
  unfold laneCompared
  rw [(same_laneIdle ..).led (by decide), bumpCtx_led, (same_countProducts ..).led (by decide),
    (same_watchTask ..).led (by decide)]

theorem countProducts_lanes (n : Nat) : (countProducts t n s).sa.lanes = s.sa.lanes := by
  unfold countProducts
  dsimp only
  rw [(same_bumpCtx ..).sa (by decide)]
  rfl

theorem laneCompared_lane (h : lane < s.sa.lanes.length) :
    laneOf (laneCompared p t lane s) lane = { laneOf s lane with run := none } := by
  have lanes : (bumpCtx 192 34 t.ctx 1 (countProducts t (tokWork s p t).products (watchTask p t s))).sa.lanes =
      s.sa.lanes := by
    rw [(same_bumpCtx ..).sa (by decide), countProducts_lanes, (same_watchTask ..).sa (by decide)]
  unfold laneCompared laneIdle
  rw [laneOf_mLane _ (by rw [lanes]; exact h)]
  unfold laneOf
  rw [lanes]

end

/-- R183: an output of which no element differs passes the instance. -/
theorem shadowCompare_match {p : Plan} {t : Token} {s : State} (lane : Nat) (katPass : Bool)
    (hr : t.redispatched = false)
    (hc : ((tokWork s p t).compare (laneOut (tokWork s p t)) (tokRef s p t)).1 = 0) :
    shadowCompare p t lane none .exact katPass s = taskPassed t (bumpCtx 193 35 t.ctx 1 (laneCompared p t lane s)) := by
  have first : ∀ u, secondRun u t = none := fun u => by
    unfold secondRun
    rw [hr]
    rfl
  unfold shadowCompare laneOutput
  dsimp only
  rw [first]
  dsimp only
  rw [redispatchReturned_first _ hr]
  exact if_pos hc

/-! ### The partial sums of a chain -/

theorem partialPush_moves {lane k : Nat} {s : State} {r : Run} {m : Push} {rest : List Push}
    (hrun : (laneOf s lane).run = some r) (hout : r.out = m :: rest) (hk : pushTarget s m = some k)
    (hroom : (clusterOf s k).inq.length < 15) :
    partialPush lane s = (s.mCluster k fun x => { x with inq := x.inq ++ [m] }).mLane lane fun x =>
      { x with run := some { r with out := rest } } := by
  unfold partialPush
  rw [hrun]
  dsimp only
  rw [hout]
  dsimp only
  rw [hk]
  exact if_neg (Nat.not_le.mpr hroom)

/-- The first record for an element is written as it came (R186). -/
theorem partialRecord_first {p : Plan} {t : Token} {part e : Nat} (r : Bytes) {s : State} {i : Inst}
    (hi : tokInst s t = some i) (hnew : pushed i part e = false)
    (halone : (i.pushes.any fun x => decide (x.2.1 ≤ e ∧ e < x.2.1 + x.2.2)) = false) :
    partialRecord p t part e r s =
      (loftWrite (groupAddr p (planTask p t.task) 0 t.step + 88 * e) (lpf88 (parseLpf r).acc) s).mInst t.ctx t.epoch t.step
        t.task fun x => { x with pushes := x.pushes ++ [(part, e, 1)] } := by
  unfold partialRecord
  rw [hi]
  dsimp only
  rw [hnew, if_neg Bool.false_ne_true, halone, if_neg Bool.false_ne_true]

/-- The FINAL task that a message is for, as a token. -/
def finalToken (m : Push) : Token :=
  { ctx := m.ctx, epoch := m.epoch, attempt := m.attempt, step := m.step, task := m.task, reruns := 0,
    redispatched := false }

/-- A free lane takes the message at the head of the inbound queue. -/
theorem inboundCombine_takes {k : Nat} {s : State} {m : Push} {rest : List Push}
    (hfree : ((range' (4 * k) 4).any (fun l => laneUp s l && (laneOf s l).run.isNone) = true))
    (hq : (clusterOf s k).inq = m :: rest) :
    inboundCombine k s = combinePush m (s.mCluster k fun x => { x with inq := rest }) := by
  unfold inboundCombine
  rw [if_neg (not_not_intro hfree), hq]

/-- The instance of a current message exists (R103), and the message is counted (R199). -/
def pushTaken (p : Plan) (m : Push) (s : State) : State :=
  bumpCtx 198 40 m.ctx 1 (needInst m.ctx m.epoch m.step m.task p s)

/-- A current message of one sound record that leaves the chain incomplete does what its record does. -/
theorem combinePush_record {m : Push} {s : State} {n : Nat} {p : Plan} {r : Bytes} {i : Inst}
    (hp : planOfEpoch s m.ctx m.epoch = some (n, p)) (he : (ctxOf s m.ctx).epoch = m.epoch)
    (ha : attemptOf s m.ctx m.epoch m.step = m.attempt) (hb : baseOf s m.ctx m.epoch ≤ m.step) (hrec : m.recs = [r])
    (hok : lpfOk (parseLpf r) = true)
    (hi : tokInst (partialRecord p (finalToken m) m.part m.first r (pushTaken p m s)) (finalToken m) = some i)
    (hchain : chainWhole p m.task (tileElems (taskDesc p (planTask p m.task)) (tokTile p (finalToken m))) i = false) :
    combinePush m s = partialRecord p (finalToken m) m.part m.first r (pushTaken p m s) := by
  have sound : [r].all (fun r => lpfOk (parseLpf r)) = true := by rw [List.all_cons, hok]; rfl
  unfold finalToken at hi hchain ⊢
  unfold pushTaken at hi ⊢
  unfold combinePush
  dsimp only
  rw [hp]
  dsimp only
  rw [if_neg (not_not_intro he), if_neg (by omega), hrec, if_neg (not_not_intro sound)]
  simp only [List.zipIdx_cons, List.zipIdx_nil, List.foldl_cons, List.foldl_nil, Nat.add_zero]
  rw [hi]
  dsimp only
  rw [if_pos (.inl (by rw [hchain]; decide))]

theorem pushTaken_inst (p : Plan) {m : Push} {s : State} {i : Inst} {input : Nat}
    (hi : instOf s m.ctx m.epoch m.step m.task = some i) (hbegun : 0 < (groupOf s m.ctx m.epoch m.step m.task input).count) :
    instOf (pushTaken p m s) m.ctx m.epoch m.step m.task = some i := by
  unfold pushTaken
  rw [instOf_bumpCtx, needInst_begun p hbegun, instOf_noteStep, hi]

theorem pushTaken_mem_sa (p : Plan) {m : Push} {s : State} {input : Nat}
    (hbegun : 0 < (groupOf s m.ctx m.epoch m.step m.task input).count) :
    (pushTaken p m s).mem = s.mem ∧ (pushTaken p m s).sa = s.sa := by
  unfold pushTaken
  rw [needInst_begun p hbegun]
  constructor
  · rw [bumpCtx_mem, (same_noteStep ..).mem (by decide)]
  · rw [(same_bumpCtx ..).sa (by decide), (same_noteStep ..).sa (by decide)]

/-- R186: the first record of an element stands in the partial group, and its push is in the list. -/
theorem combinePush_first {m : Push} {s : State} {n j : Nat} {p : Plan} {r : Bytes} {i : Inst}
    (hp : planOfEpoch s m.ctx m.epoch = some (n, p)) (he : (ctxOf s m.ctx).epoch = m.epoch)
    (ha : attemptOf s m.ctx m.epoch m.step = m.attempt) (hb : baseOf s m.ctx m.epoch ≤ m.step) (hrec : m.recs = [r])
    (hok : lpfOk (parseLpf r) = true) (hi : instOf s m.ctx m.epoch m.step m.task = some i)
    (hbegun : 0 < (groupOf s m.ctx m.epoch m.step m.task j).count) (hnew : pushed i m.part m.first = false)
    (halone : (i.pushes.any fun x => decide (x.2.1 ≤ m.first ∧ m.first < x.2.1 + x.2.2)) = false)
    (hchain : chainWhole p m.task (tileElems (taskDesc p (planTask p m.task)) (tokTile p (finalToken m)))
      { i with pushes := i.pushes ++ [(m.part, m.first, 1)] } = false) :
    (combinePush m s).sa = s.sa ∧
      (combinePush m s).mem.loft =
        Mem.write s.mem.loft (groupAddr p (planTask p m.task) 0 m.step + 88 * m.first) (lpf88 (parseLpf r).acc) ∧
      instOf (combinePush m s) m.ctx m.epoch m.step m.task =
        some { i with pushes := i.pushes ++ [(m.part, m.first, 1)] } := by
  have taken := pushTaken_inst p hi hbegun
  obtain ⟨hmem, hsa⟩ := pushTaken_mem_sa p hbegun
  have record := partialRecord_first (p := p) (t := finalToken m) r taken hnew halone
  have inst : tokInst (partialRecord p (finalToken m) m.part m.first r (pushTaken p m s)) (finalToken m) =
      some { i with pushes := i.pushes ++ [(m.part, m.first, 1)] } := by
    rw [record]
    exact instOf_mInst (fun x => { x with pushes := x.pushes ++ [(m.part, m.first, 1)] })
      ((instOf_loftWrite ..).trans taken) fun _ => rfl
  rw [combinePush_record hp he ha hb hrec hok inst hchain]
  refine ⟨?_, ?_, inst⟩
  · rw [(same_partialRecord ..).sa (by decide), hsa]
  · rw [record, (same_mInst ..).mem (by decide), loftWrite_loft, hmem]
    rfl

/-! ### Remote reads -/

theorem remoteRead_answers {lane k off lines : Nat} {s : State} (hother : lane / 4 ≠ k) (hend : off + 64 * lines ≤ 393216) :
    (remoteRead lane k off lines s).mem.busStatus = bsOK ∧
      (remoteRead lane k off lines s).mem.busData = Mem.read s.mem.cm (cmAddr k off) (64 * lines) := by
  unfold remoteRead
  rw [if_neg (not_or_intro hother (Nat.not_lt.mpr hend))]
  exact ⟨rfl, rfl⟩

/-! ### The known-answer test -/

/-- R192: a lane that passes notes it, and no other lane changes. -/
theorem laneOf_laneKat_pass {k l : Nat} {s : State} (hl : l < s.sa.lanes.length) :
    laneOf (laneKat k true s) l = if l = k then { laneOf s l with lastPass := true } else laneOf s l := by
  unfold laneKat
  dsimp only
  rw [if_pos rfl, laneOf_congr ((same_bump ..).sa (by decide))]
  split
  case isTrue h =>
    subst h
    exact laneOf_mLane _ hl
  case isFalse h => exact laneOf_mLane_other _ _ h

theorem laneKat_pass_lanes_length (k : Nat) (s : State) : (laneKat k true s).sa.lanes.length = s.sa.lanes.length := by
  unfold laneKat
  dsimp only
  rw [if_pos rfl, (same_bump ..).sa (by decide)]
  exact List.length_modify ..

theorem laneOf_foldl_laneKat_pass {pass : W64} {ks : List Nat} {l : Nat} {s : State} (hpass : ∀ k ∈ ks, bit pass k = true)
    (hl : l < s.sa.lanes.length) :
    laneOf (ks.foldl (fun s k => laneKat k (bit pass k) s) s) l =
      if l ∈ ks then { laneOf s l with lastPass := true } else laneOf s l := by
  induction ks generalizing s with
  | nil => rfl
  | cons k ks ih =>
    obtain ⟨hk, hks⟩ := List.forall_mem_cons.mp hpass
    rw [List.foldl_cons, hk, ih hks (by rw [laneKat_pass_lanes_length]; exact hl), laneOf_laneKat_pass hl]
    by_cases h : l = k <;> simp [h]

/-- Settles O10: a clause for each command of SA, from the lemma of the command above. -/
theorem shadowArrayRuns : Obligations.ShadowArrayRuns := by
  refine ⟨?start, ?done, ?push, ?combine, ?remote, ?kat⟩
  case start =>
    intro lane s x rest n p he hup hidle hinq hdom hq hp hs hw hr hlane
    refine ⟨_, rfl, ?_⟩
    have staged : (stageOperands lane.toNat (tokWork s p x) (laneTaken lane.toNat n (planTask p x.task).desc rest s)).sa =
        (laneTaken lane.toNat n (planTask p x.task).desc rest s).sa := (same_stageOperands ..).sa (by decide)
    have length : (laneTaken lane.toNat n (planTask p x.task).desc rest s).sa.lanes.length = s.sa.lanes.length :=
      List.length_modify ..
    rw [he, if_neg Bool.false_ne_true, shadowTaskStart_runs hup hidle hinq hdom hq hp hs hw hr,
      laneOf_mLane _ (by rw [staged, length]; exact hlane), laneOf_congr staged]
    exact ⟨congrArg Lane.queue (laneOf_mLane _ hlane), rfl⟩
  case done =>
    intro lane katPass s r p k i hp hrun hbuf hcm hk hs hr hi hred hc hlane
    refine ⟨_, rfl, ?_⟩
    rw [hp, if_neg Bool.false_ne_true, shadowTaskDone_compares none .exact katPass hrun hbuf hcm hk hs hr,
      shadowCompare_match _ katPass hred hc]
    have inst : tokInst (bumpCtx 193 35 r.tok.ctx 1 (laneCompared p r.tok lane.toNat s)) r.tok = some i :=
      (instOf_congr (by rw [bumpCtx_led, laneCompared_led]) ..).trans hi
    refine ⟨?_, taskPassed_inst r.tok inst⟩
    rw [laneOf_congr ((same_taskPassed ..).sa (by decide)), laneOf_congr ((same_bumpCtx ..).sa (by decide)),
      laneCompared_lane _ _ _ _ hlane]
  case push =>
    intro lane s r m rest k hp hrun hout hk hroom hlane hcluster
    refine ⟨_, rfl, ?_⟩
    rw [hp, if_neg Bool.false_ne_true, partialPush_moves hrun hout hk hroom, laneOf_mLane _ (by exact hlane)]
    exact ⟨rfl, congrArg Cluster.inq (clusterOf_mCluster _ hcluster)⟩
  case combine =>
    intro cluster s m rest n p i r j he hfree hq hcluster hp hepoch ha hb hrec hok hi hbegun hnew halone hchain
    refine ⟨_, rfl, ?_⟩
    rw [he, if_neg Bool.false_ne_true, inboundCombine_takes hfree hq]
    obtain ⟨hsa, hloft, hinst⟩ := combinePush_first (s := s.mCluster cluster.toNat fun x => { x with inq := rest })
      hp hepoch ha hb hrec hok hi hbegun hnew halone hchain
    refine ⟨?_, hloft, hinst⟩
    unfold clusterOf
    rw [hsa]
    exact congrArg Cluster.inq (clusterOf_mCluster _ hcluster)
  case remote =>
    intro lane cluster offset lines s hp hother hend
    refine ⟨_, rfl, ?_⟩
    rw [hp, if_neg Bool.false_ne_true]
    exact remoteRead_answers hother hend
  case kat =>
    intro pass s hp hperiod hpass hlanes
    refine ⟨_, rfl, fun l hl => ?_⟩
    rw [hp, if_neg Bool.false_ne_true]
    unfold saKatPeriod
    rw [if_neg hperiod, laneOf_foldl_laneKat_pass ?passes (by omega)]
    case passes =>
      intro k hk
      exact hpass k (List.mem_range.mp (List.mem_filter.mp hk).1)
    split
    case isTrue => exact ⟨rfl, fun _ _ => rfl⟩
    case isFalse h =>
      refine ⟨rfl, fun hup hdom => absurd (List.mem_filter.mpr ⟨List.mem_range.mpr hl, ?_⟩) h⟩
      simp [hup, hdom]

/-! ### The clauses at work -/

/-- A descriptor with a tile of `n` INT8 elements: its opcode, its role and its K (R175). -/
def tileDesc (op role n k : Nat) : BitVec 512 :=
  BitVec.ofNat 512 (put 511 506 op + put 505 501 8 + put 500 496 8 + put 478 477 role + put 455 432 n + put 431 408 1 +
    put 407 392 1 + put 391 376 1 + put 375 352 n + put 351 328 1 + put 327 312 1 + put 311 296 1 + put 295 264 k +
    put 191 160 n)

/-- A SHADOW task of a lane, with the slots of its groups. -/
def laneTask (lane desc succ : Nat) (slots : List Nat) : TaskE :=
  { kind := ktSHADOW, layerIdx := 0, engine := lane, desc := desc, pair := 0, pairCount := 1, succ := succ,
    inputs := slots.map fun x => { slot := x, cnt := 1 }, tile0 := 0, tileStep := 0 }

/-- A FULL CONVERT of one element on lane 9; and a chain for a tile of two sums, with the FINAL on lane 13 of cluster 3 and
its PART on lane 9. -/
def lanePlan : Plan :=
  { onePlan with
    tasks := [laneTask 9 0 noTask [0, 1], laneTask 13 1 noTask [2, 3], laneTask 9 2 1 [4]]
    descs := [tileDesc 0x1B roleFULL 1 1, tileDesc 0x07 roleFINAL 2 4, tileDesc 0x07 rolePART 2 4] }

/-- The operand and the REF of the CONVERT are there. -/
def fullInst : Inst := { Inst.fresh 5 false 0 0 2 with groups := [perimGroup 1, perimGroup 1], fired := true }

/-- The FINAL has its REF, and waits for its partial sums. -/
def finalInst : Inst := { Inst.fresh 5 false 0 1 2 with groups := [Group.empty, perimGroup 2] }

/-- Context 5 with both instances; the element and its REF are 7, and clusters 2 and 3 are powered. -/
def laneState : State :=
  ((residentState.mLed fun l => { l with plans := [(0, lanePlan)], insts := [fullInst, finalInst] }).mMem
    fun m => { m with loft := Mem.write (Mem.write m.loft (slotAddr 0) [7]) (slotAddr 1) [7]
                      cm := Mem.write m.cm (cmAddr 3 0) [1, 2] }).mTs
    fun t => { t with domains := (t.domains.set 2 .on).set 3 .on }

/-- Lane 9 runs a token, with messages still to push. -/
def runningState (x : Token) (desc : BitVec 512) (out : List Push) : State :=
  laneState.mLane 9 fun y => { y with run := some { tok := x, desc := desc, out := out } }

/-- The PART's first sum, for the FINAL. -/
def firstPush : Push :=
  { ctx := 5, epoch := false, attempt := 0, step := 0, task := 1, part := 2, first := 0, recs := [lpfBytes threeRecord],
    last := false, lane := 9 }

/-- O10 at work on a FULL task: lane 9 takes the token from its queue, and its output compares equal. -/
theorem laneState_runs :
    (∃ t, exec (.shadowTaskStart 9) (laneState.mLane 9 fun y => { y with queue := [heldToken] }) = .next t ∧
      (laneOf t 9).queue = [] ∧
      (laneOf t 9).run = some { tok := heldToken, desc := tileDesc 0x1B roleFULL 1 1, out := [] }) ∧
    (∃ t, exec (.shadowTaskDone 9 false none .exact true) (runningState heldToken (tileDesc 0x1B roleFULL 1 1) []) =
        .next t ∧
      (laneOf t 9).run = none ∧ tokInst t heldToken = some { fullInst with passed := true }) := by
  obtain ⟨start, done, -⟩ := shadowArrayRuns
  constructor
  · exact start 9 (laneState.mLane 9 fun y => { y with queue := [heldToken] }) heldToken [] 0 lanePlan (by decide)
      (by decide) (by decide) (by decide) (by decide) (by decide) rfl (by decide) (by decide +kernel)
      (by decide +kernel) (by decide)
  · exact done 9 true (runningState heldToken (tileDesc 0x1B roleFULL 1 1) []) _ lanePlan (laneTask 9 0 noTask [0, 1])
      fullInst (by decide) rfl (by decide) (by decide) rfl (by decide) (by decide +kernel) (by decide) (by decide)
      (by decide +kernel) (by decide)

/-- O10 at work on the chain: the PART pushes its first sum to cluster 3, and a lane of cluster 3 stores it. -/
theorem laneState_chains :
    (∃ t, exec (.partialPush 9) (runningState { heldToken with task := 2 } (tileDesc 0x07 rolePART 2 4) [firstPush]) =
        .next t ∧
      (laneOf t 9).run = some { tok := { heldToken with task := 2 }, desc := tileDesc 0x07 rolePART 2 4, out := [] } ∧
      (clusterOf t 3).inq = [firstPush]) ∧
    (∃ t, exec (.inboundQueueCombine 3) (laneState.mCluster 3 fun x => { x with inq := [firstPush] }) = .next t ∧
      (clusterOf t 3).inq = [] ∧ t.mem.loft = Mem.write laneState.mem.loft (slotAddr 2) (lpf88 threeRecord) ∧
      instOf t 5 false 0 1 = some { finalInst with pushes := [(2, 0, 1)] }) := by
  obtain ⟨-, -, push, combine, -⟩ := shadowArrayRuns
  constructor
  · exact push 9 (runningState { heldToken with task := 2 } (tileDesc 0x07 rolePART 2 4) [firstPush]) _ firstPush [] 3
      (by decide) rfl rfl (by decide) (by decide) (by decide) (by decide)
  · have hacc : (parseLpf (lpfBytes threeRecord)).acc = threeRecord := by decide +kernel
    obtain ⟨t, ht, hinq, hloft, hinst⟩ := combine 3 (laneState.mCluster 3 fun x => { x with inq := [firstPush] })
      firstPush [] 0 lanePlan finalInst _ 1 (by decide) (by decide) rfl (by decide) rfl (by decide)
      (by decide) (by decide) rfl (by decide +kernel) (by decide) (by decide) (by decide) (by decide) (by decide +kernel)
    rw [hacc] at hloft
    exact ⟨t, ht, hinq, hloft, hinst⟩

/-- O10 at work on the array: lane 9 reads the first line of cluster 3, and it passes its known-answer test. -/
theorem laneState_reads_and_tests :
    (∃ t, exec (.remoteRead 9 3 0 1) laneState = .next t ∧ t.mem.busStatus = bsOK ∧
      t.mem.busData = [1, 2] ++ List.replicate 62 0) ∧
    (∃ t, exec (.saKatPeriod (BitVec.allOnes 64)) laneState = .next t ∧ (laneOf t 9).inService = true ∧
      (laneOf t 9).lastPass = true) := by
  obtain ⟨-, -, -, -, remote, kat⟩ := shadowArrayRuns
  constructor
  · have hline : Mem.read laneState.mem.cm (cmAddr 3 0) 64 = [1, 2] ++ List.replicate 62 0 := by decide +kernel
    obtain ⟨t, ht, hstatus, hdata⟩ := remote 9 3 0 1 laneState (by decide) (by decide) (by decide)
    exact ⟨t, ht, hstatus, hdata.trans hline⟩
  · obtain ⟨t, ht, hlanes⟩ := kat (BitVec.allOnes 64) laneState (by decide) (by decide) (by decide) (by decide)
    obtain ⟨hservice, hpass⟩ := hlanes 9 (by decide)
    exact ⟨t, ht, hservice.trans (by decide), hpass (by decide) (by decide)⟩

end Sys2Proof.Machine
end

section
/-!
The arrays over a step: their canonical form, which every step keeps, what the state after reset holds, and the bytes
and tags that a command which stores nothing leaves alone (R202, R205, R226).
-/
namespace Sys2Proof.Machine

/-! ### The canonical form -/

/-- Settles O4: an idle period is lawful, and so is every command; the queue is none of the arrays. -/
theorem stepKeepsArrays : Obligations.StepKeepsArrays := by
  intro s t hs h
  obtain ⟨-, rfl⟩ | ⟨c, rest, -, hc⟩ := step_cases h
  · exact (lawful_idle s).canonical hs
  · exact (exec_lawful hc).canonical hs

/-- Settles O3: the fields of the state after reset, each of which is a literal of the model; an array that lists
nothing reads zero at every address. -/
theorem resetState : Obligations.ResetState := by
  refine ⟨by decide, by decide, by decide, rfl, rfl, rfl, rfl, rfl, fun a => ?zeroBytes, fun n => ?zeroTags⟩
  case zeroBytes => exact ⟨rfl, rfl, rfl⟩
  case zeroTags => rfl

/-- A part whose first slot is allocated and whose queue sends it a CLEAR. -/
def clearingState : State :=
  { State.reset.mMem fun m => { m with tags := [(0, 0x8000000000000000)] } with pending := [.clear 0] }

/-- O4 at work: CLEAR rewrites the one tag, and the arrays stay in canonical form. -/
theorem clearingState_stays_canonical : ∃ t, step clearingState = .next t ∧ tagOf t 0 = 0x8000000000000000 ∧
    t.canonical = true :=
  ⟨_, rfl, by decide, stepKeepsArrays clearingState _ (by decide) rfl⟩

/-! ### Commands that store nothing -/

/-- The commands that reach MEM without storing touch its queues, status registers and power states only. -/
theorem steady_of_not_mayStore {c : Instr} {s t : State} (hc : mayStore c = false) (hm : .mem ∈ unitsOf c)
    (h : exec c s = .next t) : Steady s t := by
  cases c with
  | perimCompare => exact steady_execPerimCompare h
  | remoteRead => exact steady_execRemoteRead h
  | bankRead => exact steady_execBankRead h
  | shedDrain => exact steady_execShedDrain h
  | drainTimeout => exact steady_execDrainTimeout h
  | shedInitDone => exact steady_execShedInitDone h
  | injectEcc => exact steady_execInjectEcc h
  | domainTimeout => exact steady_execDomainTimeout h
  | registerRead => exact steady_execRegisterRead h
  | _ => exact absurd (And.intro hc hm) (of_decide_eq_false rfl)

theorem exec_arrays {c : Instr} {s t : State} (hc : mayStore c = false) (h : exec c s = .next t) :
    t.arrays = s.arrays := by
  by_cases hm : .mem ∈ unitsOf c
  case pos => exact (steady_of_not_mayStore hc hm h).arrays
  case neg =>
    unfold State.arrays
    rw [(exec_same h).mem hm]

/-- Settles O46: a command that stores nothing leaves the arrays as they are, and so every byte and every tag. -/
theorem arraysChangeOnlyByTheirCommands : Obligations.ArraysChangeOnlyByTheirCommands := by
  intro c s t hc h
  obtain ⟨hloft, hcm, hopbuf, htags⟩ := Arrays.mk.inj (exec_arrays hc h)
  refine ⟨fun a => ⟨by rw [hloft], by rw [hcm], by rw [hopbuf]⟩, fun n => ?_⟩
  unfold tagOf
  rw [htags]

/-- O46 at work: a read of the allocated slot, which its tag does not match, completes, and the tag stays. -/
theorem clearingState_read_keeps_tag :
    ∃ t, exec (.bankRead 0 0 ⟨0, false, 0, 0, 0⟩ .clean) clearingState = .next t ∧ tagOf t 0 = 0x8000000000000000 :=
  ⟨_, rfl, ((arraysChangeOnlyByTheirCommands (.bankRead 0 0 _ .clean) clearingState _ rfl rfl).2 0).trans (by decide)⟩

/-! ### Commands that complete and commands that fault -/

/-- The outcome is a next state where `b` holds, and where not a fault that names what does not exist. -/
def CompletesWhere (b : Bool) (o : Host.Outcome State Fault Refusal) : Prop :=
  (b = true → ∃ t, o = .next t) ∧
    (b = false → o = .fault .noSuchSlot ∨ o = .fault .noSuchRow ∨ o = .fault .outsideSlot)

theorem CompletesWhere.always (t : State) : CompletesWhere true (.next t) := ⟨fun _ => ⟨t, rfl⟩, nofun⟩

theorem CompletesWhere.never {f : Fault} (hf : f = .noSuchSlot ∨ f = .noSuchRow ∨ f = .outsideSlot) :
    CompletesWhere false (.fault f) :=
  ⟨nofun, fun _ => hf.imp (congrArg _) (Or.imp (congrArg _) (congrArg _))⟩

/-- A command that faults with one reason unless its operands are in range. -/
theorem CompletesWhere.ite {p : Prop} [Decidable p] (t : State) {f : Fault}
    (hf : f = .noSuchSlot ∨ f = .noSuchRow ∨ f = .outsideSlot) :
    CompletesWhere (decide p) (if p then .next t else .fault f) := by
  by_cases hp : p
  · rw [decide_eq_true hp, if_pos hp]
    exact .always t
  · rw [decide_eq_false hp, if_neg hp]
    exact .never hf

theorem onSlot_completes (slot : Nat) (t : State) : CompletesWhere (decide (slot < 24576)) (onSlot slot t) :=
  .ite t (.inl rfl)

theorem execLpfAdd_completes (slot : BitVec 15) (off8 : BitVec 8) (rec : Bytes) (a : Access) (e : EccSay) (s : State) :
    CompletesWhere (decide (8 * off8.toNat ≤ 1960) && decide (slot.toNat < 24576))
      (execLpfAdd slot off8 rec a e s) := by
  unfold execLpfAdd
  by_cases h : 8 * off8.toNat ≤ 1960
  · rw [decide_eq_true h, Bool.true_and, if_neg (Nat.not_lt.mpr h)]
    exact onSlot_completes ..
  · rw [decide_eq_false h, if_pos (Nat.not_le.mp h)]
    exact .never (.inr (.inr rfl))

theorem execRowmap_completes (bank : BitVec 6) (row : BitVec 10) (s : State) :
    CompletesWhere (decide (row.toNat < 768)) (execRowmap bank row s) := by
  unfold execRowmap
  by_cases h : row.toNat < 768
  · rw [decide_eq_true h, if_neg (Nat.not_le.mpr h), ← apply_ite Host.Outcome.next]
    exact .always _
  · rw [decide_eq_false h, if_pos (Nat.not_lt.mp h)]
    exact .never (.inr (.inl rfl))

theorem execCopy_completes (src count dst : BitVec 15) (lane : Option (BitVec 6)) (s : State) :
    CompletesWhere (decide (src.toNat + count.toNat ≤ 24576) &&
      (lane.isSome || decide (dst.toNat + count.toNat ≤ 24576))) (execCopy src count dst lane s) := by
  rw [← Bool.decide_coe lane.isSome, ← Bool.decide_or, ← Bool.decide_and]
  exact .ite _ (.inl rfl)

/-- Only the commands that name a slot or a row can miss it; every other command answers a next state. -/
theorem exec_completes (c : Instr) (s : State) : CompletesWhere (inRange c) (exec c s) := by
  cases c with
  | bankRead | bankWrite | add64 | alloc | bind | setFull | clear | scrubSet | free => exact onSlot_completes ..
  | lpfAdd => exact execLpfAdd_completes ..
  | rowmap => exact execRowmap_completes ..
  | fill => exact .ite _ (.inl rfl)
  | copy => exact execCopy_completes ..
  | _ => exact .always _

/-- Settles O50: the statement says `CompletesWhere` of every command, by the cases of `exec_completes`. -/
theorem inRangeCompletes : Obligations.InRangeCompletes := exec_completes

/-- O50 at work: the last slot of the Loft is cleared, and there is no slot, row or record after the last. -/
theorem lastSlot_completes : (∃ t, exec (.clear 24575) State.reset = .next t) ∧
    exec (.clear 24576) State.reset = .fault .noSuchSlot ∧ exec (.rowmap 0 768) State.reset = .fault .noSuchRow ∧
    exec (.lpfAdd 0 246 [] ⟨0, false, 0, 0, 0⟩ .clean) State.reset = .fault .outsideSlot :=
  ⟨(inRangeCompletes _ _).1 (by decide), rfl, rfl, rfl⟩

end Sys2Proof.Machine
end

section
/-!
The tag word of a slot through ALLOC, BIND, SETFULL, CLEAR, SCRUBSET and FREE (R205, R206).
-/
namespace Sys2Proof.Machine

/-! ### Tag operations that are accepted -/

theorem tagAllocOp_accepts {slot ctx plan : Nat} {epoch : Bool} {s : State}
    (hw : s.mem.withheld.contains slot = false) (ha : tagAlloc (tagOf s slot) = false) :
    tagAllocOp slot ctx plan epoch s =
      setTag slot (word [put 63 63 1, put 59 59 epoch.toNat, put 56 45 ctx, put 44 39 plan]) s := by
  unfold tagAllocOp
  rw [hw, if_neg Bool.false_ne_true, ha, if_neg Bool.false_ne_true]

theorem tagBindOp_accepts {slot : Nat} (i : Ident) {s : State} (ha : tagAlloc (tagOf s slot) = true)
    (hs : tagScrub (tagOf s slot) = false) (hf : tagFull (tagOf s slot) = false) :
    tagBindOp slot i s = setTag slot (word [put 63 63 1, put 61 61 1, put 59 59 i.epoch.toNat, put 58 57 i.attempt,
      put 56 45 (fld (tagOf s slot) 56 45), put 44 39 (fld (tagOf s slot) 44 39), put 31 0 i.step]) s := by
  unfold tagBindOp
  dsimp only
  rw [ha, hs, hf]
  exact if_pos rfl

theorem tagFullOp_accepts {slot : Nat} {i : Ident} {s : State} (hecc : flipsAt s 3 slot 1 = 0)
    (hm : tagMatch (tagOf s slot) i = true) : tagFullOp slot i s = setTag slot (setFld (tagOf s slot) 60 60 1) s := by
  unfold tagFullOp
  rw [tagEcc_sound hecc]
  dsimp only
  rw [if_neg Bool.false_ne_true, if_pos hm]

theorem tagScrubOp_accepts {slot : Nat} {s : State} (ha : tagAlloc (tagOf s slot) = true) :
    tagScrubOp slot s = setTag slot (setFld (tagOf s slot) 62 62 1) s := if_pos ha

theorem tagFreeOp_accepts {slot : Nat} {s : State} (hs : tagScrub (tagOf s slot) = true) :
    tagFreeOp slot s = setTag slot 0 s := if_pos hs

/-! ### The commands -/

/-- A tag operation that is accepted on a slot that exists writes one tag word and nothing else of the Loft. -/
theorem onSlot_writes_one_tag {slot : Nat} {w : W64} {s u : State} (hc : s.canonical = true) (he : slot < 24576)
    (hu : u = setTag slot w s) : ∃ t, onSlot slot u = .next t ∧ tagOf t slot = w ∧
      (∀ k, k ≠ slot → tagOf t k = tagOf s k) ∧ t.mem.loft = s.mem.loft :=
  ⟨u, onSlot_exists he, hu ▸ setTag_only slot w hc⟩

/-- Settles O12: a clause for each command, from the word that the accepted operation writes. -/
theorem slotTagsMove : Obligations.SlotTagsMove := by
  refine ⟨?alloc, ?bind, ?setFull, ?clear, ?scrubSet, ?free⟩
  case alloc =>
    intro slot ctx plan epoch s hc he hw ha
    exact onSlot_writes_one_tag hc he (tagAllocOp_accepts hw ha)
  case bind =>
    intro slot a s hc he ha hs hf
    exact onSlot_writes_one_tag hc he (tagBindOp_accepts (identOf a) ha hs hf)
  case setFull =>
    intro slot a s hc he hecc hm
    exact onSlot_writes_one_tag hc he (tagFullOp_accepts hecc hm)
  case clear =>
    intro slot s hc he
    exact onSlot_writes_one_tag hc he rfl
  case scrubSet =>
    intro slot s hc he ha
    exact onSlot_writes_one_tag hc he (tagScrubOp_accepts ha)
  case free =>
    intro slot s hc he hs
    exact onSlot_writes_one_tag hc he (tagFreeOp_accepts hs)

/-! ### The clauses at work -/

/-- An access of context 5 at step 3, attempt 1. -/
def slotAccess : Access := { ctx := 5, epoch := true, step := 3, attempt := 1, port := 0 }

/-- The tag of a slot that context 5 holds under plan 2 in epoch 1: allocated, with `more` besides. -/
def heldTag (more : List Nat) : W64 := word ([put 63 63 1, put 59 59 1, put 56 45 5, put 44 39 2] ++ more)

/-- What a BIND by that access adds. -/
def boundTag : W64 := heldTag [put 61 61 1, put 58 57 1, put 31 0 3]

/-- Slot 7 has that tag, and no other slot has one. -/
def slotState (w : W64) : State := State.reset.mMem fun m => { m with tags := [(7, w)] }

/-- O12 at work: a free slot is allocated, bound, filled and cleared. -/
theorem slotState_fills :
    (∃ t, exec (.alloc 7 5 2 true) State.reset = .next t ∧ tagOf t 7 = heldTag []) ∧
    (∃ t, exec (.bind 7 slotAccess) (slotState (heldTag [])) = .next t ∧ tagOf t 7 = boundTag) ∧
    (∃ t, exec (.setFull 7 slotAccess) (slotState boundTag) = .next t ∧ tagFull (tagOf t 7) = true) ∧
    (∃ t, exec (.clear 7) (slotState boundTag) = .next t ∧ tagBound (tagOf t 7) = false) := by
  obtain ⟨alloc, bind, full, clear, -⟩ := slotTagsMove
  refine ⟨?_, ?_, ?_, ?_⟩
  · obtain ⟨t, ht, hw, -⟩ := alloc 7 5 2 true State.reset (by decide) (by decide) (by decide) (by decide)
    exact ⟨t, ht, hw.trans (by decide)⟩
  · obtain ⟨t, ht, hw, -⟩ := bind 7 slotAccess (slotState (heldTag [])) (by decide) (by decide) (by decide) (by decide)
      (by decide)
    exact ⟨t, ht, hw.trans (by decide)⟩
  · obtain ⟨t, ht, hw, -⟩ := full 7 slotAccess (slotState boundTag) (by decide) (by decide) (by decide) (by decide)
    exact ⟨t, ht, hw ▸ by decide⟩
  · obtain ⟨t, ht, hw, -⟩ := clear 7 (slotState boundTag) (by decide) (by decide)
    exact ⟨t, ht, hw ▸ by decide⟩

/-- O12 at work: an allocated slot takes the scrub mark, and only then is freed. -/
theorem slotState_frees :
    (∃ t, exec (.scrubSet 7) (slotState (heldTag [])) = .next t ∧ tagScrub (tagOf t 7) = true) ∧
    (∃ t, exec (.free 7) (slotState (heldTag [put 62 62 1])) = .next t ∧ tagOf t 7 = 0) := by
  obtain ⟨-, -, -, -, scrub, free⟩ := slotTagsMove
  constructor
  · obtain ⟨t, ht, hw, -⟩ := scrub 7 (slotState (heldTag [])) (by decide) (by decide) (by decide)
    exact ⟨t, ht, hw ▸ by decide⟩
  · obtain ⟨t, ht, hw, -⟩ := free 7 (slotState (heldTag [put 62 62 1])) (by decide) (by decide) (by decide)
    exact ⟨t, ht, hw⟩

end Sys2Proof.Machine
end

section
/-!
The engines of MEM (R214 to R217) and the erasure of a context (R218 to R221).
-/
namespace Sys2Proof.Machine

/-! ### Row maps, fills and copies -/

/-- A spare that is free takes the row; the queues of the engine stay (R214). -/
theorem mapRow_spare {bank k : Nat} (row : Nat) {s : State} (h : freeSpare s 0 bank 0 16 = some k) :
    (mapRow bank row s).mem.rowMaps =
      s.mem.rowMaps ++ [{ array := 0, inst := bank, bank := 0, row := row, spare := k, origin := 1 }] ∧
    (mapRow bank row s).mem.fieldMaps = s.mem.fieldMaps + 1 ∧ (mapRow bank row s).mem.eng = s.mem.eng := by
  unfold mapRow
  rw [h]
  dsimp only
  rw [(same_sbSoftRepair ..).mem (by decide)]
  exact ⟨rfl, rfl, rfl⟩

theorem engTake_canonical (op : EngOp) {s : State} (h : s.canonical = true) : (engTake op s).canonical = true :=
  (steady_engTake op s).sound.canonical h

theorem engFill_reads {slot count : Nat} (pattern : W64) {s : State} (hc : s.canonical = true)
    (hup : ∀ x ∈ range' slot count, shedDown s x = false) :
    (∀ x ∈ range' slot count, Mem.read (engFill slot count pattern s).mem.loft (slotAddr x) 2048 =
      (List.replicate 256 (leBytes 8 pattern.toNat)).flatten) ∧
    ∀ x ∉ range' slot count, Mem.read (engFill slot count pattern s).mem.loft (slotAddr x) 2048 =
      Mem.read s.mem.loft (slotAddr x) 2048 := by
  obtain ⟨-, hin, hout⟩ := fillSlots_read _ (fun x => 41 + shedOf x) (fillBytes_length pattern.toNat)
    (range' slot count) (engTake (.fill slot count pattern) s) (engTake_canonical _ hc) hup
  exact ⟨fun x hx => hin x (.inl hx), hout⟩

theorem Mem.read_length (m : Mem) (a n : Nat) : (Mem.read m a n).length = n := by
  rw [Mem.read, List.length_map, List.length_range]

/-- A copy within one context stores at the destination what the source held when the copy began (R217). -/
theorem engCopy_same_ctx {src count dst c : Nat} {s : State} (hsrc : rangeCtx s src count = some c)
    (hdst : rangeCtx s dst count = some c)
    (hup : (range' src count ++ range' dst count).any (shedDown s) = false) :
    engCopy src count dst none s = loftWrite (slotAddr dst) (Mem.read s.mem.loft (slotAddr src) (2048 * count))
      (engTake (.copy src count dst none) s) := by
  have hsrc' : rangeCtx (engTake (.copy src count dst none) s) src count = some c := hsrc
  unfold engCopy
  dsimp only
  rw [hsrc']
  dsimp only
  exact (if_pos hdst).trans (if_neg (Bool.not_eq_true _ ▸ hup))

theorem engCopy_reads {src count dst c : Nat} {s : State} (hc : s.canonical = true)
    (hsrc : rangeCtx s src count = some c) (hdst : rangeCtx s dst count = some c)
    (hup : (range' src count ++ range' dst count).any (shedDown s) = false) :
    Mem.read (engCopy src count dst none s).mem.loft (slotAddr dst) (2048 * count) =
      Mem.read s.mem.loft (slotAddr src) (2048 * count) ∧
    ∀ a, a < slotAddr dst ∨ slotAddr dst + 2048 * count ≤ a →
      Mem.get (engCopy src count dst none s).mem.loft a = Mem.get s.mem.loft a := by
  have hlen := Mem.read_length s.mem.loft (slotAddr src) (2048 * count)
  rw [engCopy_same_ctx hsrc hdst hup]
  constructor
  · have h := loftWrite_read (slotAddr dst) (Mem.read s.mem.loft (slotAddr src) (2048 * count))
      (engTake (.copy src count dst none) s) (engTake_canonical _ hc)
    rwa [hlen] at h
  · intro a ha
    exact loftWrite_other _ _ (by rwa [hlen])

/-! ### Erasure -/

/-- R219 step 4 where every word reads back zero: the ranges are zero and count as done. -/
theorem eraseRanges_clean {c : Nat} {r : WipeSay} (r2 : WipeSay) {s : State} {e : Erasure}
    (he : (s.mem.erasures.find? fun e => e.ctx = c && e.rangesLeft) = some e) (hr : r.bad = []) :
    (eraseRanges c r r2 s).mem.loft =
      e.ranges.foldl (fun l g => Mem.zero l (slotAddr g.1) (2048 * g.2)) s.mem.loft ∧
    (eraseRanges c r r2 s).mem.erasures =
      s.mem.erasures.map fun x => if x.ctx = c && x.plan = e.plan then { x with rangesLeft := false } else x := by
  unfold eraseRanges
  rw [he]
  dsimp only
  rw [if_pos (rangesPass_clean _ _ hr)]
  exact ⟨rfl, rfl⟩

/-- R219 step 5 where every word reads back zero: the lane's buffers and share are zero, and it owes no wipe. -/
theorem laneWipe_clean {lane : Nat} {r : WipeSay} (r2 : WipeSay) {s : State} (hrun : (laneOf s lane).run = none)
    (hwipes : (laneOf s lane).wipes ≠ []) (hshare : shareInUse s lane = false) (hr : r.bad = [])
    (hlane : lane < s.sa.lanes.length) :
    (laneOf (laneWipe lane r r2 s) lane).wipes = [] ∧
    (laneWipe lane r r2 s).mem.opbuf = Mem.zero s.mem.opbuf (opbufAddr lane 0) 32768 ∧
    (laneWipe lane r r2 s).mem.cm = Mem.zero s.mem.cm (laneShare lane) 65536 ∧
    (laneWipe lane r r2 s).mem.erasures = s.mem.erasures.map fun e => if e.lanesLeft.contains lane then
      { e with lanesLeft := e.lanesLeft.erase lane, lanesDone := e.lanesDone + 1 } else e := by
  unfold laneWipe
  dsimp only
  rw [if_neg ?owed, if_pos ?pass]
  case owed =>
    rw [hrun, hshare, List.isEmpty_iff]
    rintro (h | h | h)
    · exact Bool.false_ne_true h
    · exact hwipes h
    · exact Bool.false_ne_true h
  case pass =>
    unfold zeroDigest badIn
    rw [hr]
    exact decide_eq_true rfl
  refine ⟨?_, rfl, rfl, rfl⟩
  have h := laneOf_mLane (n := lane) (fun x => { x with wipes := [] }) (s := zeroLane lane s.draw.2) (by exact hlane)
  exact congrArg Lane.wipes h

theorem foldl_keeps {α β : Type} (g : State → β) {f : State → α → State} (h : ∀ s a, g (f s a) = g s) (l : List α)
    (s : State) : g (l.foldl f s) = g s :=
  (List.foldl_hom g (g₂ := fun b _ => b) fun s a => (h s a).symm).symm.trans (List.foldl_fixed ..)

theorem tagFreeOp_erasures (slot : Nat) (s : State) : (tagFreeOp slot s).mem.erasures = s.mem.erasures := by
  unfold tagFreeOp
  split
  · exact setTag_erasures ..
  · rfl

theorem eachSlot_tagFreeOp_erasures (slots : List (Nat × Nat)) (s : State) :
    (eachSlot tagFreeOp slots s).mem.erasures = s.mem.erasures :=
  foldl_keeps (·.mem.erasures) (fun s _ => foldl_keeps (·.mem.erasures) (fun s x => tagFreeOp_erasures x s) _ s) slots s

theorem freePages_erasures (pages : List Nat) (s : State) : (freePages pages s).mem.erasures = s.mem.erasures := by
  unfold freePages
  refine foldl_keeps (·.mem.erasures) (fun s p => ?_) pages s
  exact setTag_erasures ..

/-- R219 step 6: the erasure goes and its status word stands. -/
theorem finishErasure_ends (e : Erasure) (s : State) :
    (finishErasure e s).mem.erasures = s.mem.erasures.erase e ∧
    (finishErasure e s).mem.eraseStatus = word [put 63 52 e.ctx, put 51 46 e.plan,
      put 45 44 (if e.failed then 3 else if e.remapped then 2 else 1), put 43 29 (slotTotal e.ranges),
      put 28 22 e.lanesDone, 1] := by
  unfold finishErasure
  dsimp only
  rw [State.mMem_mem]
  dsimp only
  rw [(same_bump 359 1 _).mem (by decide), apply_ite State.mem, (same_bump 361 1 _).mem (by decide), ite_self,
    freePages_erasures, eachSlot_tagFreeOp_erasures]
  exact ⟨rfl, rfl⟩

theorem erasureComplete_ends {c : Nat} {s : State} {e : Erasure}
    (he : (s.mem.erasures.find? fun e => e.ctx = c && erasureReady e) = some e) :
    (erasureComplete c s).mem = (finishErasure e s).mem := by
  unfold erasureComplete
  rw [he]
  exact (same_killErased ..).mem (by decide)

/-- Settles O13: a clause for each command of the engines. -/
theorem memoryEnginesWork : Obligations.MemoryEnginesWork := by
  refine ⟨?rowmap, ?fill, ?copy, ?erase, ?laneWipe, ?complete⟩
  case rowmap =>
    intro bank row s k hrow hheld hfree
    obtain ⟨hmaps, hcount, heng⟩ := mapRow_spare (s := engTake (.rowmap bank.toNat row.toNat) s) row.toNat hfree
    refine ⟨_, ?_, hmaps, hcount, heng⟩
    exact (if_neg (Nat.not_le.mpr hrow)).trans (if_neg (Bool.not_eq_true _ ▸ hheld))
  case fill =>
    intro slot count pattern s hrange hheld hc hup
    refine ⟨_, if_pos hrange, ?_⟩
    rw [hheld, if_neg Bool.false_ne_true]
    exact engFill_reads pattern hc hup
  case copy =>
    intro src count dst s c hrange hrange' hheld hc hsrc hdst hup
    refine ⟨_, if_pos ⟨hrange, .inr hrange'⟩, ?_⟩
    rw [hheld, if_neg Bool.false_ne_true]
    exact engCopy_reads hc hsrc hdst hup
  case erase =>
    intro ctx r r2 s e hdown he hr
    obtain ⟨hloft, herasures⟩ := eraseRanges_clean r2 he hr
    refine ⟨_, rfl, ?_⟩
    rw [hdown, if_neg Bool.false_ne_true, hloft]
    exact ⟨zeroRanges_get e.ranges s.mem.loft, herasures⟩
  case laneWipe =>
    intro lane r r2 s hrun hwipes hshare hr hlane
    exact ⟨_, rfl, laneWipe_clean r2 hrun hwipes hshare hr hlane⟩
  case complete =>
    intro ctx s e he
    exact ⟨_, rfl, erasureComplete_ends he ▸ finishErasure_ends e s⟩

/-! ### The clauses at work -/

/-- Every shed is on, context 5 holds slots 0 and 1 under plan 2, and slot 0 begins with the byte 7. -/
def engineState : State := State.reset.mMem fun m =>
  { m with
    sheds := List.replicate 4 { st := .on, inFlight := 0, pendingEnable := false }
    tags := [(0, heldTag []), (1, heldTag [])]
    loft := [(0, 7)] }

/-- O13 at work: row 3 of bank 0 goes to a spare, slot 1 is filled, and slot 1 takes a copy of slot 0. -/
theorem engineState_maps_fills_copies :
    (∃ t, exec (.rowmap 0 3) engineState = .next t ∧
      t.mem.rowMaps = [{ array := 0, inst := 0, bank := 0, row := 3, spare := 0, origin := 1 }] ∧ t.mem.fieldMaps = 1) ∧
    (∃ t, exec (.fill 1 1 0x0123) engineState = .next t ∧
      Mem.read t.mem.loft 2048 2048 = (List.replicate 256 (leBytes 8 0x0123)).flatten ∧
      Mem.read t.mem.loft 0 2048 = Mem.read engineState.mem.loft 0 2048) ∧
    (∃ t, exec (.copy 0 1 1 none) engineState = .next t ∧
      Mem.read t.mem.loft 2048 2048 = Mem.read engineState.mem.loft 0 2048) := by
  obtain ⟨rowmap, fill, copy, -⟩ := memoryEnginesWork
  refine ⟨?_, ?_, ?_⟩
  · obtain ⟨t, ht, hmaps, hcount, -⟩ := rowmap 0 3 engineState 0 (by decide) (by decide) (by decide)
    exact ⟨t, ht, hmaps, hcount⟩
  · obtain ⟨t, ht, hin, hout⟩ := fill 1 1 0x0123 engineState (by decide) (by decide) (by decide) (by decide)
    exact ⟨t, ht, hin 1 (by decide), hout 0 (by decide)⟩
  · obtain ⟨t, ht, hdata, -⟩ := copy 0 1 1 engineState 5 (by decide) (by decide) (by decide) (by decide) (by decide)
      (by decide) (by decide)
    exact ⟨t, ht, hdata⟩

/-- The erasure of plan 2 of context 5: slot 0 and lane 9. -/
def slotErasure : Erasure :=
  { ctx := 5, plan := 2, ranges := [(0, 1)], pages := [], quota := 0, rangesLeft := true, lanesLeft := [9],
    lanesDone := 0, remapped := false, failed := false, kill := false }

/-- The same erasure once slot 0 is erased. -/
def erasedErasure : Erasure := { slotErasure with rangesLeft := false }

/-- The same erasure once lane 9 is wiped too. -/
def wipedErasure : Erasure := { erasedErasure with lanesLeft := [], lanesDone := 1 }

/-- The erasure has come as far as `e`, and lane 9 owes its wipe. -/
def erasingState (e : Erasure) : State :=
  (engineState.mMem fun m => { m with erasures := [e] }).mLane 9 fun l => { l with wipes := [5] }

/-- O13 at work: the range of the erasure is erased, the lane wiped, and the erasure complete. -/
theorem erasingState_erases :
    (∃ t, exec (.erase 5 ⟨[]⟩ ⟨[]⟩) (erasingState slotErasure) = .next t ∧ Mem.get t.mem.loft 0 = 0 ∧
      t.mem.erasures = [erasedErasure]) ∧
    (∃ t, exec (.laneWipe 9 ⟨[]⟩ ⟨[]⟩) (erasingState erasedErasure) = .next t ∧
      t.mem.erasures = [wipedErasure]) ∧
    (∃ t, exec (.erasureComplete 5) (erasingState wipedErasure) = .next t ∧
      t.mem.erasures = [] ∧ t.mem.eraseStatus =
        word [put 63 52 5, put 51 46 2, put 45 44 1, put 43 29 1, put 28 22 1, 1]) := by
  obtain ⟨-, -, -, erase, wipe, complete⟩ := memoryEnginesWork
  refine ⟨?_, ?_, ?_⟩
  · obtain ⟨t, ht, hzero, hleft⟩ := erase 5 ⟨[]⟩ ⟨[]⟩ (erasingState slotErasure) slotErasure (by decide) (by decide) rfl
    exact ⟨t, ht, hzero (0, 1) (by decide) 0 (by decide), hleft⟩
  · obtain ⟨t, ht, -, -, -, hleft⟩ := wipe 9 ⟨[]⟩ ⟨[]⟩ (erasingState erasedErasure)
      (by decide) (by decide) (by decide) rfl (by decide)
    exact ⟨t, ht, hleft⟩
  · obtain ⟨t, ht, hgone, hstatus⟩ := complete 5 (erasingState wipedErasure) _ rfl
    exact ⟨t, ht, hgone, hstatus⟩

end Sys2Proof.Machine
end

section
/-!
The power of the sheds of the Loft and of their domains (R222 to R225).
-/
namespace Sys2Proof.Machine

/-! ### The state of a shed -/

/-- A change of a shed that leaves its power state alone. -/
theorem shedState_of_modify {n : Nat} {f : Shed → Shed} {s t : State} (hf : ∀ x, (f x).st = x.st)
    (h : t.mem.sheds = s.mem.sheds.modify n f) : shedState t n = shedState s n := by
  have hst : (fun x : Shed => x.st) ∘ f = fun x => x.st := funext hf
  unfold shedState
  rw [h, List.getElem?_modify_eq, Option.map_eq_map, Option.map_map, hst]

theorem shedState_of_getElem? {n : Nat} {s : State} {x : Shed} (h : s.mem.sheds[n]? = some x) :
    shedState s n = x.st := by
  unfold shedState
  rw [h]
  rfl

theorem lt_sheds_of_getElem? {n : Nat} {s : State} {x : Shed} (h : s.mem.sheds[n]? = some x) : n < s.mem.sheds.length :=
  (List.getElem?_eq_some_iff.mp h).1

theorem setShed_ts (n : Nat) (x : ShedSt) (s : State) : (setShed n x s).ts = s.ts := (same_setShed ..).ts (by decide)

theorem domainOf_congr {s t : State} (h : t.ts = s.ts) (d : Nat) : domainOf t d = domainOf s d := by
  unfold domainOf
  rw [h]

/-! ### Drain, off, timeout and initialisation -/

theorem shedDrain_drains {n : Nat} {s : State} (hm : mayDrain s n = true) (hn : n < s.mem.sheds.length)
    (hd : 16 + n < s.ts.domains.length) :
    shedState (shedDrain n s) n = .drain ∧ domainOf (shedDrain n s) (16 + n) = .shuttingDown := by
  unfold shedDrain
  rw [if_pos hm]
  refine ⟨?_, domainOf_setDomain _ ?_⟩
  · refine Eq.trans (shedState_of_modify (f := fun x => { x with inFlight := 0 }) (fun _ => rfl) rfl) ?_
    exact shedState_setShed .drain hn
  · rwa [State.mMem_ts, setShed_ts]

/-- What the banks of a drained shed held is gone, and no enable waits that would start its domain again (R223,
R440). -/
theorem shedOff_off {n : Nat} {s : State} {x : Shed} (hx : s.mem.sheds[n]? = some x) (hst : x.st = .drain)
    (hidle : x.inFlight = 0) (hpend : bit s.ts.pending (16 + n) = false) (hd : 16 + n < s.ts.domains.length) :
    shedState (shedOff n s) n = .off ∧ domainOf (shedOff n s) (16 + n) = .off ∧
      (shedOff n s).mem.loft = Mem.zero s.mem.loft (slotAddr (6144 * n)) (2048 * 6144) ∧
      (shedOff n s).mem.tags = s.mem.tags.filter fun t => shedOf t.1 ≠ n := by
  obtain ⟨hloft, -, -, htags⟩ := Arrays.mk.inj (steady_setShed n .off s).arrays
  unfold shedOff
  rw [if_pos ?drained]
  case drained =>
    refine ⟨(shedState_of_getElem? hx).trans hst, ?_⟩
    rw [hx]
    exact congrArg some hidle
  dsimp only
  unfold domainOff
  dsimp only
  rw [State.mMem_ts, setShed_ts, hpend, if_neg Bool.false_ne_true]
  refine ⟨?_, domainOf_setDomain _ ?_, congrArg (Mem.zero · _ _) hloft, congrArg (List.filter _) htags⟩
  · refine Eq.trans (shedState_of_modify (f := fun x => { x with pendingEnable := false }) (fun _ => rfl) rfl) ?_
    exact shedState_setShed .off (lt_sheds_of_getElem? hx)
  · rwa [State.mTs_ts, State.mMem_ts, setShed_ts]

theorem drainTimeout_on {n : Nat} (port : Nat) {s : State} {x : Shed} (hx : s.mem.sheds[n]? = some x)
    (hst : x.st = .drain) (hd : 16 + n < s.ts.domains.length) :
    shedState (drainTimeout n port s) n = .on ∧ domainOf (drainTimeout n port s) (16 + n) = .on := by
  unfold drainTimeout
  rw [if_pos ((shedState_of_getElem? hx).trans hst)]
  dsimp only
  constructor
  · refine Eq.trans (shedState_of_modify (f := fun x => { x with inFlight := 1 }) (fun _ => rfl)
      (congrArg MemSt.sheds ((same_reportUnit ..).mem (by decide)))) ?_
    exact shedState_setShed .on (lt_sheds_of_getElem? hx)
  · rw [domainOf_congr ((same_reportUnit ..).ts (by decide))]
    refine domainOf_setDomain _ ?_
    rwa [State.mMem_ts, setShed_ts]

theorem shedInitDone_on {n : Nat} {s : State} {x : Shed} (hx : s.mem.sheds[n]? = some x) (hst : x.st = .init)
    (hd : 16 + n < s.ts.domains.length) :
    shedState (shedInitDone n s) n = .on ∧ domainOf (shedInitDone n s) (16 + n) = .on := by
  unfold shedInitDone
  rw [if_pos ((shedState_of_getElem? hx).trans hst)]
  refine ⟨shedState_setShed .on (lt_sheds_of_getElem? hx), domainOf_setDomain _ ?_⟩
  rwa [setShed_ts]

/-- Settles O14: a clause for each command of the power of a shed. -/
theorem shedsPower : Obligations.ShedsPower := by
  refine ⟨?drain, ?off, ?timeout, ?init⟩
  case drain =>
    intro shed s hm hn hd
    exact ⟨_, rfl, shedDrain_drains hm hn hd⟩
  case off =>
    intro shed s x hx hst hidle hpend hd
    obtain ⟨hshed, hdomain, hloft, htags⟩ := shedOff_off hx hst hidle hpend hd
    exact ⟨_, rfl, hshed, hdomain, fun a hlo hhi => hloft ▸ Mem.get_zero _ hlo hhi, htags⟩
  case timeout =>
    intro shed port s x hx hst hd
    exact ⟨_, rfl, drainTimeout_on port.toNat hx hst hd⟩
  case init =>
    intro shed s x hx hst hd
    exact ⟨_, rfl, shedInitDone_on hx hst hd⟩

/-! ### The clauses at work -/

/-- Shed 1 and its domain stand as given, shed gating is enabled, and slot 6144 of shed 1 holds one byte. -/
def shedPowerState (st : ShedSt) (d : DomSt) : State :=
  ((State.reset.mMem fun m =>
      { m with
        sheds := m.sheds.set 1 { st := st, inFlight := 0, pendingEnable := false }
        loft := [(slotAddr 6144, 7)] }).mTs fun t =>
    { t with domains := t.domains.set 17 d }).mExpert fun e => { e with memConfig := 1#64 <<< 32 }

/-- O14 at work: shed 1 drains and goes off with what it held. -/
theorem shedPowerState_goes_off :
    (∃ t, exec (.shedDrain 1) (shedPowerState .on .on) = .next t ∧ shedState t 1 = .drain ∧
      domainOf t 17 = .shuttingDown) ∧
    (∃ t, exec (.shedOff 1) (shedPowerState .drain .shuttingDown) = .next t ∧ shedState t 1 = .off ∧
      domainOf t 17 = .off ∧ Mem.get t.mem.loft (slotAddr 6144) = 0) := by
  obtain ⟨drain, off, -⟩ := shedsPower
  constructor
  · exact drain 1 (shedPowerState .on .on) (by decide) (by decide) (by decide)
  · obtain ⟨t, ht, hshed, hdomain, hzero, -⟩ := off 1 (shedPowerState .drain .shuttingDown) _ rfl rfl rfl (by decide)
      (by decide)
    exact ⟨t, ht, hshed, hdomain, hzero _ (by decide) (by decide)⟩

/-- O14 at work: shed 1 returns when its drain takes too long, and comes on after its initialisation. -/
theorem shedPowerState_comes_on :
    (∃ t, exec (.drainTimeout 1 40) (shedPowerState .drain .shuttingDown) = .next t ∧ shedState t 1 = .on ∧
      domainOf t 17 = .on) ∧
    (∃ t, exec (.shedInitDone 1) (shedPowerState .init .poweringUp) = .next t ∧ shedState t 1 = .on ∧
      domainOf t 17 = .on) := by
  obtain ⟨-, -, timeout, init⟩ := shedsPower
  exact ⟨timeout 1 40 (shedPowerState .drain .shuttingDown) _ rfl rfl (by decide),
    init 1 (shedPowerState .init .poweringUp) _ rfl rfl (by decide)⟩

end Sys2Proof.Machine
end

section
/-!
The disputes of the Verdict Unit: the first round of a twin dispute (R233, R240), the answers of its cores and their timeouts
(R239), the redispatch timeout (R247), REPLAY (R250), and what another die asks and decides (R252, R355).
-/
namespace Sys2Proof.Machine

/-! ### The task of a dispute -/

theorem disputeTask_congr {s t : State} (h : t.led = s.led) (d : Dispute) : disputeTask t d = disputeTask s d := by
  unfold disputeTask planTaskOf
  rw [planOfEpoch_congr h]

theorem planTask_of_disputeTask {s : State} {d : Dispute} {q : Plan} {k : TaskE} (h : disputeTask s d = some (q, k)) :
    planTask q d.task = k := by
  obtain ⟨x, -, hx⟩ := Option.map_eq_some_iff.mp h
  obtain ⟨rfl, rfl⟩ := Prod.mk.inj hx
  rfl

/-- A task with no side on another die concerns this die alone. -/
theorem peerDie_none {s : State} {d : Dispute} {q : Plan} {k : TaskE} (h : disputeTask s d = some (q, k))
    (hk : k.kind ≠ ktXDIE) : peerDie s d = none := by
  unfold peerDie
  rw [h]
  exact if_neg hk

theorem followsPeer_alone {s : State} {d : Dispute} (h : peerDie s d = none) : followsPeer s d = false := by
  unfold followsPeer
  rw [h, Bool.and_false]

/-! ### The round that a procedure asks -/

theorem sameDispute_self (d : Dispute) : sameDispute d d = true := by simp [sameDispute]

/-- A procedure of a dispute that no other procedure treats is the dispute's own. -/
theorem procOf_append {s : State} {d : Dispute} {q : Proc} (hq : q.d = d)
    (h : (s.vu.procs.any fun x => sameDispute x.d d) = false) :
    procOf (s.mVu fun v => { v with procs := v.procs ++ [q] }) d = some q := by
  have hnone : (s.vu.procs.find? fun x => sameDispute x.d d) = none := by
    rw [List.find?_eq_none]
    exact List.any_eq_false.mp h
  unfold procOf
  rw [State.mVu_vu, List.find?_append, hnone, Option.none_or, List.find?_cons_of_pos (hq ▸ sameDispute_self d)]

theorem askRound_waiting (d : Dispute) (ph : Phase) (sub lo width : Nat) (partner : Huid) (labels : List Huid) (s : State) :
    (askRound d ph sub lo width partner labels s).vu.waiting = s.vu.waiting := by
  unfold askRound nextReq
  dsimp only
  rw [sendSettles_vu]
  rfl

/-- A round of a twin on this die asks the labels of both sides. -/
theorem bisectRound_twin {s : State} {d : Dispute} {q : Plan} {k : TaskE} {pr : Proc} (lo w : Nat)
    (hd : disputeTask s d = some (q, k)) (hk : k.kind = ktTWIN) (hp : procOf s d = some pr) :
    bisectRound d lo w s =
      askRound d (.bisect lo w) ssRANGE lo w 0 (sideLabels s q d.task 0 ++ sideLabels s q d.task 1) s := by
  have hlabels : roundLabels s q d pr.third = sideLabels s q d.task 0 ++ sideLabels s q d.task 1 := by
    unfold roundLabels
    rw [planTask_of_disputeTask hd, hk]
    exact if_neg (by decide)
  have hpeer : peerDie (askRound d (.bisect lo w) ssRANGE lo w 0 (sideLabels s q d.task 0 ++ sideLabels s q d.task 1) s) d =
      none :=
    peerDie_none ((disputeTask_congr ((same_askRound ..).led (by decide)) d).trans hd) (by rw [hk]; decide)
  unfold bisectRound
  rw [hd, hp]
  dsimp only
  rw [hlabels]
  unfold sendXsettle
  rw [hpeer]

/-! ### The start of a procedure -/

/-- The digests of a twin differ, and the comparison passed its known-answer test: a bisection over the layer (R240). -/
theorem decideCase_twin {s : State} {d : Dispute} {q : Plan} {k : TaskE} (hc : d.cause = dTWINDIGEST)
    (hd : disputeTask s d = some (q, k)) (hk : k.kind = ktTWIN) :
    decideCase d true s = bisectRound d 0 (planLayer q k.layerIdx).elements s := by
  have hkat : checkerKat d k true s = s := by
    unfold checkerKat
    rw [hk, if_neg (by decide), if_neg (by decide), if_pos rfl]
  unfold decideCase
  rw [hc, if_neg (by decide), if_neg (by decide), if_neg (by decide), hd]
  dsimp only
  rw [if_neg (by decide), if_neg (by decide), if_neg (by decide), if_pos rfl, hkat]
  unfold gather
  rw [hk, if_neg (by decide), if_neg (by decide)]

/-- A dispute that leaves the waiting ones and becomes a procedure. -/
def disputeStarted (d : Dispute) (s : State) : State :=
  (s.mVu fun v => { v with waiting := v.waiting.erase d }).mVu fun v => { v with procs := v.procs ++ [newProc d] }

/-- The oldest dispute that is ready, which no other die leads, is decided here (R233). -/
theorem procedureStart_own {s : State} {d : Dispute} (katPass : Bool) (hroom : s.vu.procs.length < 64)
    (hup : partDown s = false) (hd : s.vu.waiting.find? (disputeReady s) = some d) (hown : followsPeer s d = false) :
    procedureStart katPass s = decideCase d katPass (disputeStarted d s) := by
  unfold procedureStart
  rw [if_neg (not_or.mpr ⟨Nat.not_le.mpr hroom, ne_true_of_eq_false hup⟩), hd]
  exact if_neg (ne_true_of_eq_false hown)

theorem procedureStart_twin {s : State} {d : Dispute} {q : Plan} {k : TaskE} (hroom : s.vu.procs.length < 64)
    (hup : partDown s = false) (hw : s.vu.waiting.find? (disputeReady s) = some d) (hc : d.cause = dTWINDIGEST)
    (hd : disputeTask s d = some (q, k)) (hk : k.kind = ktTWIN) (hnew : (s.vu.procs.any fun x => sameDispute x.d d) = false) :
    (procedureStart true s).vu.waiting = s.vu.waiting.erase d ∧
      procOf (procedureStart true s) d = some { newProc d with
        phase := .bisect 0 (planLayer q k.layerIdx).elements
        asked := sideLabels s q d.task 0 ++ sideLabels s q d.task 1
        reqId := s.vu.reqSeq % 2 ^ 16 } := by
  have hown : followsPeer s d = false := followsPeer_alone (peerDie_none hd (by rw [hk]; decide))
  have hproc : procOf (disputeStarted d s) d = some (newProc d) :=
    procOf_append (s := s.mVu fun v => { v with waiting := v.waiting.erase d }) rfl hnew
  have htask : disputeTask (disputeStarted d s) d = some (q, k) := (disputeTask_congr rfl d).trans hd
  rw [procedureStart_own true hroom hup hw hown, decideCase_twin hc htask hk, bisectRound_twin _ _ htask hk hproc]
  exact ⟨askRound_waiting .., askRound_proc _ _ _ _ _ _ hproc⟩

/-! ### Answers and timeouts of a round -/

/-- A round goes on only with its last answer. -/
theorem settleOn_waits {s : State} {d : Dispute} {pr : Proc} (h : procOf s d = some pr) (hleft : pr.asked ≠ []) :
    settleOn d s = s := by
  unfold settleOn
  rw [h]
  exact if_neg fun hdone => hleft (List.isEmpty_iff.mp hdone.1)

/-- A change of the state of a procedure that some labels have yet to answer. -/
theorem settleOn_mProc {s : State} {q q' : Proc} (f : Proc → Proc) (hq : procOf s q.d = some q) (hf : ∀ x, (f x).d = x.d)
    (hto : f q = q') (hleft : q'.asked ≠ []) : procOf (settleOn q.d (s.mProc q.d f)) q.d = some q' := by
  have h := (procOf_mProc f hq hf).trans (congrArg some hto)
  rw [settleOn_waits h hleft]
  exact h

theorem takeReply_void {s : State} {q : Proc} {l : Huid} (b : Bytes) (hq : procOf s q.d = some q)
    (hleft : q.asked.erase l ≠ []) :
    procOf (takeReply q l true b s) q.d = some { q with asked := q.asked.erase l, voided := true } :=
  settleOn_mProc (fun x => { x with asked := x.asked.erase l, voided := true }) hq (fun _ => rfl) rfl hleft

/-- In a bisection the 16 entries of an answer stand under the label and its side (R240). -/
theorem takeReply_bisect {s : State} {q : Proc} {l : Huid} {lo w : Nat} (b : Bytes) (hq : procOf s q.d = some q)
    (hph : q.phase = .bisect lo w) (hleft : q.asked.erase l ≠ []) :
    procOf (takeReply q l false b s) q.d = some { q with
      asked := q.asked.erase l
      ranges := q.ranges ++ [{ core := l, side := sideOfLabel s q.d l, ents := rangeEnts b (some (physOf s l)) }] } := by
  unfold takeReply
  dsimp only
  refine settleOn_mProc _ hq ?named ?taken hleft
  case named =>
    intro x
    rw [if_neg Bool.false_ne_true]
    split <;> rfl
  case taken => rw [if_neg Bool.false_ne_true, hph]

theorem settleAnswer_proc {s : State} {reqId : Nat} {l : Huid} {q : Proc} (void : Bool) (b : Bytes)
    (h : (s.vu.procs.find? fun x => x.reqId = reqId && x.asked.contains l) = some q) :
    settleAnswer reqId l void b s = takeReply q l void b s := by
  unfold settleAnswer
  rw [h]

/-- A sound SETTLE reply goes to the procedure that awaits it. -/
theorem settleReply_proc {p : Ingress} {s : State} {q : Proc} (hreply : nf (leAt p.body 0 32) 97 97 = 1)
    (hsound : nf (leAt p.body 0 32) 96 94 = 0)
    (h : (s.vu.procs.find? fun x => x.reqId = nf (leAt p.body 0 32) 193 178 && x.asked.contains p.src) = some q) :
    settleReply p s = takeReply q p.src false (payloadAfter p 40) s := by
  unfold settleReply
  dsimp only
  rw [if_pos hreply, settleAnswer_proc _ _ h, hsound]
  rfl

/-- A label that does not answer in time voids the phase; the report of it leaves the procedures alone (R239). -/
theorem settleTimeout_voids {s : State} {core : Huid} {q : Proc}
    (hopen : (s.vu.procs.find? fun x => x.asked.contains core) = some q)
    (hreq : (s.vu.procs.find? fun x => x.reqId = q.reqId && x.asked.contains core) = some q) (hq : procOf s q.d = some q)
    (hleft : q.asked.erase core ≠ []) :
    procOf (settleTimeout core s) q.d = some { q with asked := q.asked.erase core, voided := true } := by
  have hrequest : openRequest s core = some (q.reqId, q.d.ctx) := by
    unfold openRequest
    rw [hopen]
  unfold settleTimeout
  rw [hrequest]
  dsimp only
  generalize ht : reportUnit uVU 0x65 0 (some q.d.ctx) (physOf s core) (bumpCtx 520 57 q.d.ctx 1 s) = t
  have hprocs : t.vu.procs = s.vu.procs := by
    obtain ⟨w, hw⟩ := reportUnit_vu uVU 0x65 0 (some q.d.ctx) (physOf s core) (bumpCtx 520 57 q.d.ctx 1 s)
    rw [← ht, hw, (same_bumpCtx ..).vu (by decide)]
  rw [settleAnswer_proc _ _ (by rw [hprocs]; exact hreq)]
  exact takeReply_void _ ((procOf_congr hprocs _).trans hq) hleft

/-! ### Redispatch and replay -/

theorem redispatchTimeout_unresolved {s : State} {c step32 task : Nat} {q : Proc}
    (h : (s.vu.procs.find? fun p => p.d.ctx = c && p.d.step % 2 ^ 32 = step32 && p.d.task = task && p.phase = .redispatch) =
      some q) : redispatchTimeout c step32 task s = unresolved q.d s := by
  unfold redispatchTimeout
  rw [h]

theorem sendCores_vu (kind sub : Nat) (pre : List W64) (payload : Bytes) (l : List Huid) (s : State) :
    (l.foldl (fun s x => sendCore kind sub x pre payload s) s).vu = s.vu := by
  induction l generalizing s with
  | nil => rfl
  | cons x l ih => rw [List.foldl_cons, ih, (same_sendCore ..).vu (by decide)]

/-- With no label waiting, every core of the roster that is due has its REPLAY, and the order is done (R250). -/
theorem replaySend_done {s : State} {c n : Nat} {r : Replay} {q : Plan}
    (hr : (s.vu.replays.find? fun r => r.ctx = c && replayReady s r) = some r)
    (hq : planOfEpoch s c r.epoch = some (n, q)) (hnow : ∀ l ∈ q.roster, labelWaits s l = false) :
    (replaySend c s).vu.replays = s.vu.replays.erase r := by
  have hall : ((q.roster.filter fun l => !r.sentTo.contains l).filter fun l => !labelWaits s l) =
      q.roster.filter fun l => !r.sentTo.contains l := by
    rw [List.filter_eq_self]
    intro l hl
    rw [hnow l (List.mem_filter.mp hl).1, Bool.not_false]
  unfold replaySend
  rw [hr]
  dsimp only
  rw [hq]
  dsimp only
  rw [hall, State.mVu_vu, sendCores_vu]
  dsimp only
  rw [if_pos rfl]
  split
  · rw [(same_traceStep ..).vu (by decide)]
  · rfl

/-- Settles O15: a clause for each command of a dispute. -/
theorem disputesSettle : Obligations.DisputesSettle := by
  refine ⟨?start, ?reply, ?timeout, ?redispatch, ?replay⟩
  case start =>
    intro s d q k hroom hup hw hc hd hk hnew
    exact ⟨_, rfl, procedureStart_twin hroom hup hw hc hd hk hnew⟩
  case reply =>
    intro p s q lo w ha hup hreply hsound hfind hq hph hleft
    refine ⟨_, rfl, ?_⟩
    rw [ingress_arrives _ ha (.inl rfl), hup, if_neg Bool.false_ne_true, settleReply_proc hreply hsound hfind]
    exact takeReply_bisect _ hq hph hleft
  case timeout =>
    intro core s q hopen hreq hq hleft
    exact ⟨_, rfl, settleTimeout_voids hopen hreq hq hleft⟩
  case redispatch =>
    intro ctx step task s q h
    obtain ⟨hword, hprocs, -⟩ := unresolved_vu q.d s
    exact ⟨_, rfl, by rw [redispatchTimeout_unresolved h]; exact ⟨hword, hprocs⟩⟩
  case replay =>
    intro ctx s r n q hup hr hq hnow
    refine ⟨_, rfl, ?_⟩
    rw [hup, if_neg Bool.false_ne_true]
    exact replaySend_done hr hq hnow

/-! ### What another die asks and decides -/

/-- An XSETTLE request of an instance whose attempt it names: the labels of side 0 are asked (R355). -/
theorem xsettleAsk_records {s : State} {header m n : Nat} {q : Plan} (die : Nat)
    (hq : planOfEpoch s (nf header 255 244) (nf header 243 243 = 1) = some (m, q))
    (hn : fullStep (baseOf s (nf header 255 244) (nf header 243 243 = 1)) (nf header 225 194) = some n)
    (hi : (instOf s (nf header 255 244) (nf header 243 243 = 1) n (nf header 240 226)).isSome = true)
    (ha : attemptOf s (nf header 255 244) (nf header 243 243 = 1) n = nf header 242 241) :
    (xsettleAsk die header s).vu.xreqs = s.vu.xreqs ++ [{
      die := die, header := header, asked := sideLabels s q (nf header 240 226) 0, ranges := [],
      reqId := s.vu.reqSeq % 2 ^ 16 }] := by
  unfold xsettleAsk
  dsimp only
  rw [hq]
  dsimp only
  rw [hn, withStep, if_neg (not_or.mpr ⟨by rw [Option.isNone_iff_eq_none]; exact Option.isSome_iff_ne_none.mp hi,
    not_not_intro ha⟩), sendSettles_vu]
  rfl

/-- UNRESOLVED from the leading die, of a step that is not yet, ends the dispute here (R252). -/
theorem verdictFromLeader_unresolved {p : HxPkt} {s : State} {d : Dispute} {n : Nat} {q : Plan}
    (hv : fld p.ext 129 127 = vUNRESOLVED) (hq : planOfEpoch s d.ctx d.epoch = some (n, q))
    (hnew : ((stepOf s d.ctx d.epoch d.step).map (·.unresolved)).getD false = false) :
    verdictFromLeader p d s =
      unresolved d (s.mVu fun w => { w with xwaits := w.xwaits.filter fun x => !sameDispute d x }) := by
  have hlive : ¬ (vUNRESOLVED = vPASS ∨ (planOfEpoch s d.ctx d.epoch).isNone = true) :=
    not_or.mpr ⟨by decide, by rw [hq]; exact Bool.false_ne_true⟩
  unfold verdictFromLeader
  dsimp only
  rw [hv, if_neg hlive, hnew, if_neg (by decide), if_neg Bool.false_ne_true, if_pos rfl]

/-- A die of a lower number leads. -/
theorem xverdict_leader {p : HxPkt} {s : State} (h : hxSrc p < dieNat s) :
    xverdict p s = verdictFromLeader p (xverdictDispute p s) s := if_pos h

theorem execXsettle_up {p : HxPkt} {s : State} (h : partDown s = false) :
    execXsettle p s = .next (xsettle p (consume p s)) := congrArg _ (if_neg (ne_true_of_eq_false h))

theorem execXverdict_up {p : HxPkt} {s : State} (h : partDown s = false) :
    execXverdict p s = .next (xverdict p (consume p s)) := congrArg _ (if_neg (ne_true_of_eq_false h))

/-- The wait ends UNRESOLVED; telling the other die changes nothing of the Verdict Unit. -/
theorem xverdictWaitTimeout_vu {s : State} {c step32 task : Nat} {d : Dispute}
    (h : (s.vu.xwaits.find? fun d => d.ctx = c && d.step % 2 ^ 32 = step32 && d.task = task) = some d) :
    (xverdictWaitTimeout c step32 task s).vu = (unresolved d (s.mVu fun v => { v with xwaits := v.xwaits.erase d })).vu := by
  unfold xverdictWaitTimeout
  rw [h]
  dsimp only
  split
  · rw [(same_hxSend ..).vu (by decide)]
  · rfl

/-- Settles O16: a clause for each of the packet of a request, the packet of a verdict and the wait for one. -/
theorem crossDieVerdicts : Obligations.CrossDieVerdicts := by
  refine ⟨?request, ?verdict, ?timeout⟩
  case request =>
    rintro p s _ m n q hup rfl hreq hq hn hi ha
    refine ⟨_, execXsettle_up hup, ?_⟩
    unfold xsettle
    dsimp only
    rw [if_pos hreq]
    exact xsettleAsk_records (s := consume p s) (hxSrc p) hq hn hi ha
  case verdict =>
    rintro p s _ n q hup rfl hlead hv hq hnew
    refine ⟨_, execXverdict_up hup, ?_⟩
    rw [xverdict_leader (s := consume p s) hlead,
      verdictFromLeader_unresolved (s := consume p s) (d := xverdictDispute p (consume p s)) hv hq hnew]
    obtain ⟨hword, hprocs, hwaits⟩ := unresolved_vu (xverdictDispute p s)
      ((consume p s).mVu fun w => { w with xwaits := w.xwaits.filter fun x => !sameDispute (xverdictDispute p s) x })
    exact ⟨hword, hwaits, hprocs⟩
  case timeout =>
    intro ctx step task s d h
    refine ⟨_, rfl, ?_⟩
    rw [xverdictWaitTimeout_vu h]
    obtain ⟨hword, -, hwaits⟩ := unresolved_vu d (s.mVu fun v => { v with xwaits := v.xwaits.erase d })
    exact ⟨hword, hwaits⟩

/-! ### The clauses at work -/

/-- `twinPlan` with a core on each side of its task. -/
def disputePlan : Plan := { twinPlan with
  tasks := [{ twinTask with pairCount := 2 }]
  pairs := [{ side := 0, die := 0, huid := 0x41 }, { side := 1, die := 0, huid := 0x42 }] }

/-- The digests of that task differ in step 0 of context 5. -/
def twinDispute : Dispute := Dispute.mk' 5 false 0 0 0 dTWINDIGEST

/-- Context 5 runs that plan on die `die` with the task's instance fired, and the Verdict Unit is as given. -/
def disputedState (die : BitVec 6) (f : Vu → Vu) : State :=
  ((residentState.mLed fun l => { l with plans := [(0, disputePlan)], insts := [twinInst] }).mPorts fun p =>
    { p with dieId := die }).mVu f

/-- The bisection over the four elements of the layer, which both cores have yet to answer. -/
def bisection : Proc := { newProc twinDispute with phase := .bisect 0 4, asked := [0x41, 0x42], reqId := 0 }

def bisectingState : State := disputedState 0 fun v => { v with procs := [bisection] }

/-- The answer of core 0x42 to that request, with 16 empty entries. -/
def rangeReply : Ingress :=
  { port := 1, cls := 2, flits := 5,
    body := leBytes 32 (settleHeader 5 false 0 0 0 0 0 4 true 0) ++ List.replicate 264 0,
    header := word [put 63 58 7, put 53 38 0x42, put 37 22 0xF000, put 15 0 296] }

/-- O15 at work: the dispute starts a bisection of both cores; core 0x42 answers, or does not in time. -/
theorem twinDispute_bisects :
    (∃ t, exec (.procedureStart true) (disputedState 0 fun v => { v with waiting := [twinDispute] }) = .next t ∧
      t.vu.waiting = [] ∧ procOf t twinDispute = some bisection) ∧
    (∃ t, exec (.settleReply rangeReply) bisectingState = .next t ∧ procOf t twinDispute = some { bisection with
      asked := [0x41], ranges := [{ core := 0x42, side := 1, ents := List.replicate 16 ⟨0, 0, 0xFFFF⟩ }] }) ∧
    (∃ t, exec (.settleTimeout 0x42) bisectingState = .next t ∧
      procOf t twinDispute = some { bisection with asked := [0x41], voided := true }) := by
  obtain ⟨start, reply, timeout, -⟩ := disputesSettle
  refine ⟨?starts, ?answered, ?late⟩
  case starts =>
    exact start (disputedState 0 fun v => { v with waiting := [twinDispute] }) twinDispute disputePlan
      { twinTask with pairCount := 2 } (by decide) rfl (by decide) rfl rfl rfl (by decide)
  case answered =>
    have hside : sideOfLabel bisectingState twinDispute 0x42 = 1 := by decide
    have hents : rangeEnts (payloadAfter rangeReply 40) (some (physOf bisectingState 0x42)) =
        List.replicate 16 ⟨0, 0, 0xFFFF⟩ := by decide +kernel
    have hsrc : rangeReply.src = 0x42 := by decide
    obtain ⟨t, ht, hproc⟩ := reply rangeReply bisectingState bisection 0 4 (by decide +kernel) (by decide)
      (by decide +kernel) (by decide +kernel) (by decide +kernel) (by decide) rfl (by decide)
    rw [hsrc, hents] at hproc
    exact ⟨t, ht, hside ▸ hproc⟩
  case late =>
    exact timeout 0x42 bisectingState bisection (by decide) (by decide) (by decide) (by decide)

/-- An order to replay step 0 of context 5. -/
def stepReplay : Replay := { ctx := 5, epoch := false, first := 0, count := 1, cause := dTWINDIGEST, sentTo := [] }

/-- O15 at work: a procedure whose token does not return ends UNRESOLVED; REPLAY goes to the one core of the roster. -/
theorem twinDispute_ends :
    (∃ t, exec (.redispatchTimeout 5 0 0) (disputedState 0 fun v => { v with procs := [newProc twinDispute] }) = .next t ∧
      t.vu.lastVerdict = verdictWord twinDispute vUNRESOLVED none ∧ t.vu.procs = []) ∧
    (∃ t, exec (.replaySend 5) (disputedState 0 fun v => { v with replays := [stepReplay] }) = .next t ∧
      t.vu.replays = []) := by
  obtain ⟨-, -, -, redispatch, replay⟩ := disputesSettle
  constructor
  · exact redispatch 5 0 0 (disputedState 0 fun v => { v with procs := [newProc twinDispute] }) (newProc twinDispute)
      (by decide)
  · exact replay 5 (disputedState 0 fun v => { v with replays := [stepReplay] }) stepReplay 0 disputePlan rfl
      (by decide) rfl fun _ _ => rfl

/-- Die 1 asks for request 7 about the elements of that task. -/
def askingPacket : HxPkt :=
  { header := word [put 43 38 1], ext := 0, payload := leBytes 32 (settleHeader 5 false 0 0 0 7 0 4 false 0) }

/-- Die 0 found nothing that names a core. -/
def verdictPacket : HxPkt :=
  { header := 0, ext := BitVec.ofNat 192 (xverdictBody twinDispute vUNRESOLVED dTWINDIGEST none 0), payload := [] }

/-- O16 at work: die 0 records the request of die 1; die 1 hears the verdict of die 0, or waits for it in vain. -/
theorem disputedState_hears :
    (∃ t, exec (.xsettle askingPacket) (disputedState 0 id) = .next t ∧ t.vu.xreqs = [{
      die := 1, header := settleHeader 5 false 0 0 0 7 0 4 false 0, asked := [0x41], ranges := [], reqId := 0 }]) ∧
    (∃ t, exec (.xverdict verdictPacket) (disputedState 1 fun v => { v with xwaits := [twinDispute] }) = .next t ∧
      t.vu.lastVerdict = verdictWord { twinDispute with cause := dPEER } vUNRESOLVED none ∧ t.vu.xwaits = []) ∧
    (∃ t, exec (.xverdictWaitTimeout 5 0 0) (disputedState 1 fun v => { v with xwaits := [twinDispute] }) = .next t ∧
      t.vu.lastVerdict = verdictWord twinDispute vUNRESOLVED none ∧ t.vu.xwaits = []) := by
  obtain ⟨request, verdict, timeout⟩ := crossDieVerdicts
  have hheader : leAt askingPacket.payload 0 32 = settleHeader 5 false 0 0 0 7 0 4 false 0 := by decide +kernel
  refine ⟨?request, ?verdict, ?timeout⟩
  case request =>
    exact request askingPacket (disputedState 0 id) (settleHeader 5 false 0 0 0 7 0 4 false 0) 0 0 disputePlan rfl
      hheader.symm (by decide +kernel) rfl (by decide +kernel) (by decide +kernel) (by decide +kernel)
  case verdict =>
    obtain ⟨t, ht, hword, hwaits, -⟩ := verdict verdictPacket
      (disputedState 1 fun v => { v with xwaits := [twinDispute] }) { twinDispute with cause := dPEER } 0 disputePlan
      rfl (by decide +kernel) (by decide) (by decide +kernel) rfl (by decide)
    exact ⟨t, ht, hword, hwaits⟩
  case timeout =>
    exact timeout 5 0 0 (disputedState 1 fun v => { v with xwaits := [twinDispute] }) twinDispute (by decide)

end Sys2Proof.Machine
end

section
/-!
The mesh and its destination tables: links and routers that fail (R275, R276), the install of a version (R280, R283), the
answers of the Fabric Control port (R508), the poll of the counters and the retirement by force (R281, R282).
-/
namespace Sys2Proof.Machine

/-! ### Links and routers -/

theorem hlinkDown_ym {h : Huid} {s : State} {p : PortT} {r : List PortT} (hidle : s.ym.standby ≠ .writing)
    (hp : linkPorts s h = p :: r) : (hlinkDown h s).ym = { s.ym with
      links := Tab.set s.ym.links h.toNat { linkSt s p with st := .removed, trained := 0 }
      pending := true
      reroute := true } := by
  have hlink := mLink_ym (s := bump 579 1 s) (fun l => { l with st := .removed, trained := 0 }) hp
  unfold hlinkDown linkDown
  rw [meshChanged_idle true (by rw [hlink]; exact hidle), State.mYm_ym, hlink, Bool.or_true]
  rfl

theorem hlinkWidth_ym {h : Huid} {t f : Nat} {s : State} {p : PortT} {r : List PortT}
    (hidle : s.ym.standby ≠ .writing) (hp : linkPorts s h = p :: r) (ht : t ≠ 0) : (hlinkWidth h t f s).ym = { s.ym with
      links := Tab.set s.ym.links h.toNat { full := f, trained := t, st := if f ≤ t then .up else .reduced }
      pending := true } := by
  have hlink := mLink_ym (s := bump 579 1 s)
    (fun _ => { full := f, trained := t, st := if f ≤ t then .up else .reduced }) hp
  unfold hlinkWidth
  dsimp only
  rw [if_neg ht, meshChanged_idle false (by rw [hlink]; exact hidle), State.mYm_ym, hlink, Bool.or_false]
  rfl

theorem dropRequests_ym (r : Huid) (s : State) : (dropRequests r s).ym = { s.ym with
    outstanding := s.ym.outstanding.filter fun q => q.target ≠ r
    toSend := s.ym.toSend.filter fun q => q.target ≠ r
    polled := s.ym.polled.filter fun x => x.1 ≠ r } := by
  unfold dropRequests
  cases entryOf s clFCP r <;> rfl

/-- A router that had not failed before is dead, and an install with rerouting is due. -/
theorem routerFailed_idle {r : Huid} {s : State} (hnew : s.ym.deadRouters.contains r = false)
    (hidle : s.ym.standby ≠ .writing) :
    (routerFailed r s).ym.standby = s.ym.standby ∧ (routerFailed r s).ym.deadRouters = s.ym.deadRouters ++ [r] ∧
      (routerFailed r s).ym.pending = true ∧ (routerFailed r s).ym.reroute = true := by
  obtain ⟨links, hlinks⟩ := linkDowns_ym (routerLinks s r) s
  unfold routerFailed
  rw [hnew, if_neg Bool.false_ne_true]
  dsimp only
  rw [meshChanged_idle true (by rw [dropRequests_ym, State.mYm_ym, hlinks]; exact hidle), State.mYm_ym, dropRequests_ym,
    State.mYm_ym, hlinks]
  exact ⟨rfl, rfl, rfl, Bool.or_true _⟩

/-! ### The requests of the Fabric Control port -/

/-- With no install, flip or drain under way, nothing follows from the requests. -/
theorem pollDone_ymAdvance_retired {s : State} (h : s.ym.standby = .retired) : pollDone (ymAdvance s) = s := by
  rw [ymAdvance_standing (.inl h)]
  unfold pollDone
  rw [if_pos (.inr (.inr (.inr (by rw [h]; decide))))]

/-- Pumping loses no request. -/
theorem pumpFcp_requests {s : State} (h : s.ym.outstanding ≠ [] ∨ s.ym.toSend ≠ []) :
    (pumpFcp s).ym.outstanding ≠ [] ∨ (pumpFcp s).ym.toSend ≠ [] := by
  obtain ⟨a, b, hym, hlen⟩ := pumpFcp_ym s
  rw [hym]
  rcases h with hout | hsend
  · exact .inl (List.append_ne_nil_of_left_ne_nil hout b)
  · by_cases ha : a = []
    · refine .inl (List.append_ne_nil_of_right_ne_nil _ ?_)
      rw [← List.length_pos_iff] at hsend ⊢
      rw [ha, List.length_nil] at hlen
      omega
    · exact .inr ha

theorem computeInstall_ym (s : State) :
    (computeInstall s).ym.standby = .writing ∧ (computeInstall s).ym.pending = false ∧
      (computeInstall s).ym.invalidate = false ∧ (computeInstall s).ym.next = newTables s := by
  unfold computeInstall
  dsimp only
  generalize hs : State.mYm _ s = u
  obtain ⟨a, b, hym, -⟩ := pumpFcp_ym u
  rw [hym, ← hs]
  exact ⟨rfl, rfl, rfl, rfl⟩

theorem answered_ym (q : FcpReq) (s : State) :
    (answered q s).ym = { s.ym with outstanding := s.ym.outstanding.erase q } := by
  unfold answered
  dsimp only
  split
  · rfl
  · split <;> rfl

theorem wordWritten_ym (q : FcpReq) (s : State) : (wordWritten q s).ym = { s.ym with
    tables := Tab.set s.ym.tables (tableKey q.version q.target) ((tableOf s q.version q.target).set q.word q.data.toNat)
    wordRest := (s.ym.wordRest + 1) % 2 ^ 10 } := by
  unfold wordWritten
  dsimp only
  rw [(same_bump ..).ym (by decide)]
  rfl

/-- The router says that it wrote the word, while other requests are still outstanding. -/
theorem fcpResponse_tables {header : W64} (data : W64) {s : State} {q : FcpReq} (hop : fld header 63 60 = 1)
    (hstatus : fld header 43 40 = 0)
    (hq : (s.ym.outstanding.find? fun q => q.op = 1 && q.target = BitVec.ofNat 16 (fld header 59 44)) = some q)
    (hmore : s.ym.outstanding.erase q ≠ []) : (fcpResponse header data s).ym.tables =
      Tab.set s.ym.tables (tableKey q.version q.target) ((tableOf s q.version q.target).set q.word q.data.toNat) := by
  have hym := wordWritten_ym q (answered q s)
  rw [answered_ym] at hym
  have hwait := pumpFcp_requests (s := wordWritten q (answered q s)) (.inl (by rw [hym]; exact hmore))
  unfold fcpResponse
  dsimp only
  rw [hop, hq]
  dsimp only
  rw [if_neg (not_not.mpr hstatus), if_pos rfl, ymAdvance_waits hwait, pollDone_waits hwait]
  obtain ⟨a, b, hpump, -⟩ := pumpFcp_ym (wordWritten q (answered q s))
  rw [hpump, hym]
  dsimp only
  unfold tableOf
  rw [answered_ym]

/-! ### The poll and the forced retirement -/

/-- A request for every router in service waits or is outstanding. -/
theorem countReadPoll_asks {s : State} (hdrain : s.ym.standby = .draining) (hpoll : s.ym.polling = false)
    (hout : s.ym.outstanding = []) (hlive : liveRouters s ≠ []) :
    (countReadPoll s).ym.polling = true ∧ (countReadPoll s).ym.polled = [] ∧
      (countReadPoll s).ym.toSend.length + (countReadPoll s).ym.outstanding.length = (liveRouters s).length := by
  unfold countReadPoll
  rw [hdrain, hpoll, hout, if_neg (by decide)]
  dsimp only
  generalize hs : State.mYm _ s = u
  obtain ⟨a, b, hym, hlen⟩ := pumpFcp_ym u
  rw [pollDone_waits (pumpFcp_requests (.inr ?send)), hym, ← hs]
  case send =>
    rw [← hs]
    exact fun h => hlive (List.map_eq_nil_iff.mp h)
  refine ⟨rfl, rfl, ?_⟩
  rw [← hs] at hlen
  dsimp only [State.mYm_ym] at hlen ⊢
  rw [hout, List.nil_append, hlen, List.length_map]

/-- The version is free, to be written invalid first, and the last difference read is its baseline. -/
theorem retireTimeout_forced {s : State} (hdrain : s.ym.standby = .draining) :
    (retireTimeout s).ym.standby = .retired ∧ (retireTimeout s).ym.invalidate = true ∧
      (retireTimeout s).ym.forced = true ∧ (retireTimeout s).ym.polling = false ∧
      (if s.ym.live then (retireTimeout s).ym.baseline0 else (retireTimeout s).ym.baseline1) =
        s.ym.lastInj - (s.ym.lastEj - drainBase s) := by
  unfold retireTimeout
  rw [if_neg (not_not.mpr hdrain)]
  dsimp only
  rw [(same_reportSelf ..).ym (by decide), (same_bump ..).ym (by decide), State.mYm_ym, State.mYm_ym]
  cases hlive : s.ym.live <;> exact ⟨rfl, rfl, rfl, rfl, rfl⟩

/-- Settles O17: a clause for each command of the mesh and its tables. -/
theorem meshReroutes : Obligations.MeshReroutes := by
  refine ⟨?down, ?width, ?router, ?miss, ?install, ?written, ?poll, ?retire⟩
  case down =>
    intro link s p r hidle hp
    exact ⟨_, rfl, hlinkDown_ym hidle hp⟩
  case width =>
    intro link trained full s p r hidle hp ht
    exact ⟨_, rfl, hlinkWidth_ym hidle hp fun h => ht (BitVec.eq_of_toNat_eq h)⟩
  case router =>
    intro router s hnew hretired _ _
    obtain ⟨hstandby, hdead, hpending, hreroute⟩ := routerFailed_idle (s := bump 579 1 s) hnew (by
      rw [(same_bump ..).ym (by decide), hretired]
      decide)
    obtain ⟨a, b, hpump, -⟩ := pumpFcp_ym (routerFailed router (bump 579 1 s))
    refine ⟨_, rfl, ?_⟩
    rw [pollDone_ymAdvance_retired (by rw [hpump]; exact hstandby.trans hretired), hpump]
    exact ⟨hdead, hpending, hreroute⟩
  case miss =>
    intro router entry s
    rfl
  case install =>
    intro s hretired hpending
    refine ⟨computeInstall (reachUpdate s), ?_, computeInstall_ym (reachUpdate s)⟩
    refine congrArg Host.Outcome.next (if_neg ?_)
    rw [hretired, hpending]
    decide
  case written =>
    intro header data s q hop hstatus hq hmore
    exact ⟨_, rfl, fcpResponse_tables data hop hstatus hq hmore⟩
  case poll =>
    intro s hdrain hpoll hout hlive
    exact ⟨_, rfl, countReadPoll_asks hdrain hpoll hout hlive⟩
  case retire =>
    intro s hdrain
    exact ⟨_, rfl, retireTimeout_forced hdrain⟩

/-! ### The clauses at work -/

/-- Sector 0 with routers 0 and 1, joined by link 0 of four lanes at port 0 of each. -/
def pairSector : SectorT :=
  { num := 0, spares := 0, channels := 0, routers := 2, model := 0, present := 0, routerOf := [], chanRouter := [],
    ports := [[{ nbr := 0x1001, link := 0, home := 0, width := 4 }], [{ nbr := 0x1000, link := 0, home := 0, width := 4 }]] }

/-- A die of that sector whose Mesh Attach port is at router 0, with the Yard Master as given. -/
def meshState (f : Ym → Ym) : State :=
  (State.reset.mCfg fun c =>
    { c with topo := { c.topo with sectors := [pairSector], maRouters := [0x1000] } }).mYm f

/-- O17 at work: the link goes down, or trains at two lanes of four; router 1 fails. -/
theorem meshState_changes :
    (∃ t, exec (.hlinkDown 0x3000) (meshState id) = .next t ∧
      t.ym.links = [(0x3000, { full := 4, trained := 0, st := .removed })] ∧ t.ym.reroute = true) ∧
    (∃ t, exec (.hlinkWidth 0x3000 2 4) (meshState id) = .next t ∧
      t.ym.links = [(0x3000, { full := 4, trained := 2, st := .reduced })] ∧ t.ym.pending = true) ∧
    (∃ t, exec (.hrouterFail 0x1001) (meshState id) = .next t ∧ t.ym.deadRouters = [0x1001] ∧ t.ym.pending = true ∧
      t.ym.reroute = true) := by
  obtain ⟨down, width, router, -⟩ := meshReroutes
  have hports : linkPorts (meshState id) 0x3000 = pairSector.ports.flatten := by decide
  refine ⟨?down, ?width, router 0x1001 (meshState id) (by decide) rfl rfl rfl⟩
  case down =>
    obtain ⟨t, ht, hym⟩ := down 0x3000 (meshState id) _ _ (by decide) hports
    exact ⟨t, ht, by rw [hym]; decide, by rw [hym]⟩
  case width =>
    obtain ⟨t, ht, hym⟩ := width 0x3000 2 4 (meshState id) _ _ (by decide) hports (by decide)
    exact ⟨t, ht, by rw [hym]; decide, by rw [hym]⟩

/-- Entry 136 alone: the way to the Mesh Attach port (R272). -/
def attachTable (entry : Nat) : List Nat := zeroTable.set 17 entry

/-- O17 at work: the install routes both routers to the Mesh Attach port; router 1 writes a word while router 0 has yet to
answer. -/
theorem meshState_installs :
    (∃ u, exec .installStart (meshState fun y => { y with pending := true }) = .next (ymAdvance u) ∧
      u.ym.standby = .writing ∧ u.ym.next = [(0x1000, attachTable 0x88), (0x1001, attachTable 0x80)]) ∧
    (∃ t, exec (.fcpResponse (word [put 63 60 1, put 59 44 0x1001]) 0) (meshState fun y =>
        { y with standby := .writing, outstanding := [writeReq true 0x1000 17 0x88, writeReq true 0x1001 17 0x80] }) =
          .next t ∧ tableOf t true 0x1001 = attachTable 0x80) := by
  obtain ⟨-, -, -, -, install, written, -⟩ := meshReroutes
  constructor
  · obtain ⟨u, hu, hstandby, -, -, hnext⟩ := install (meshState fun y => { y with pending := true }) rfl rfl
    exact ⟨u, hu, hstandby, hnext.trans (by decide +kernel)⟩
  · obtain ⟨t, ht, htables⟩ := written (word [put 63 60 1, put 59 44 0x1001]) 0 (meshState fun y =>
        { y with standby := .writing, outstanding := [writeReq true 0x1000 17 0x88, writeReq true 0x1001 17 0x80] })
      (writeReq true 0x1001 17 0x80) (by decide) (by decide) (by decide) (by decide)
    refine ⟨t, ht, ?_⟩
    unfold tableOf
    rw [htables]
    decide

/-- Version 1 drains; the last poll read seven packets injected and five ejected. -/
def drainingState : State := meshState fun y => { y with standby := .draining, lastInj := 7, lastEj := 5 }

/-- O17 at work: both routers are asked for their counters; the time to retire runs out with two packets missing. -/
theorem drainingState_retires :
    (∃ t, exec .countReadPoll drainingState = .next t ∧ t.ym.polling = true ∧ t.ym.polled = [] ∧
      t.ym.toSend.length + t.ym.outstanding.length = 2) ∧
    (∃ t, exec .retireTimeout drainingState = .next t ∧ t.ym.standby = .retired ∧ t.ym.invalidate = true ∧
      t.ym.forced = true ∧ t.ym.polling = false ∧ t.ym.baseline1 = 2) := by
  obtain ⟨-, -, -, -, -, -, poll, retire⟩ := meshReroutes
  exact ⟨poll drainingState rfl rfl rfl (by decide), retire drainingState rfl⟩

end Sys2Proof.Machine
end

section
/-!
The ends of faults in FC: the acknowledgement of a class (R309, R304), the three injections of R312, and the leak of a source's
level (R304).
-/
namespace Sys2Proof.Machine

/-! ### The acknowledgement of a class -/

section Acknowledged
variable {w : W64} {s : State} (hclass : fld w 63 60 < 10) (hcount : (classSt s (fld w 63 60)).cnt.toNat = fld w 59 44)
include hclass hcount

theorem fcAck_fc : (fcAck w s).fc = { s.fc with
    classes := s.fc.classes.modify (fld w 63 60) fun x => { x with pending := false, nmt := false }
    first := s.fc.first.bind fun x => if x.cls = fld w 63 60 then none else some x
    sources := s.fc.sources.map (ackSource s (fld w 63 60) s.now.toNat) } := by
  unfold fcAck State.mClass
  dsimp only
  rw [if_neg (Nat.not_le.mpr hclass), if_neg (not_not.mpr hcount)]
  dsimp only [State.mFc_fc]
  cases s.fc.first <;> rfl

/-- The class is pending no more; its count and level stay. -/
theorem fcAck_classSt (hlen : fld w 63 60 < s.fc.classes.length) : classSt (fcAck w s) (fld w 63 60) =
    { classSt s (fld w 63 60) with pending := false, nmt := false } := by
  rw [classSt_congr (t := fcAck w s) (s := s.mClass (fld w 63 60) fun x => { x with pending := false, nmt := false })
    (by rw [fcAck_fc hclass hcount]; rfl), classSt_mClass _ hlen]

end Acknowledged

/-! ### Injection -/

/-- A write of FC.INJECT with GO by the operator, in FACTORY, is answered and then injects. -/
theorem injectRow_go {mode : Nat} {priv : BitVec 2} {w : W64} {s : State} (f : State → State)
    (hup : s.ports.rstLow = false) (hop : isOperator s priv = true) (hmode : fld w 63 62 = mode) (hgo : bit w 61 = true)
    (hlc : s.sec.lc = lcFACTORY) : injectRow mode priv w f s = f (answer hsOK 0 s) := by
  unfold injectRow injectWrite
  rw [if_pos hmode, hrp_up _ hup, if_neg (not_not.mpr hop), if_neg (not_not.mpr hlc)]
  exact if_pos hgo

/-- The record is marked as injected and placed at WR, and its message is the first known of its source. -/
theorem injectMessage_fc {s : State} {m : W128} {r : RingRec} (hwait : s.fc.injectWait = none)
    (hm : m = s.fc.inj1 ++ s.fc.inj0) (hok : acceptable s m = true) (hfirst : Tab.get s.fc.seqs (msgHuid m).toNat = none)
    (hr : r = extRec rtEVENT 0 true [m] s) (htail : r.units ≤ ringTail s.fc) (hfree : r.units + ringReserve s ≤ ringFree s.fc) :
    (injectMessage s).fc = { s.fc with
      ring := s.fc.ring ++ [r]
      wr := s.fc.wr + BitVec.ofNat 13 r.units
      seqs := Tab.set s.fc.seqs (msgHuid m).toNat (msgSeq m, msgKind m, s.now.toNat) } := by
  unfold injectMessage
  rw [hwait, if_neg (show ¬ Option.isSome none = true from Bool.false_ne_true)]
  dsimp only
  rw [← hm, validate_first 0 hok hfirst]
  dsimp only
  rw [if_neg (not_not.mpr rfl)]
  generalize hs : State.mFc _ s = u
  have hrec : extRec rtEVENT 0 true [m] u = r := by rw [hr, ← hs]; rfl
  obtain ⟨t, hplaced, ht⟩ := placeRec_room (r := r) (rx := ringReserve u) (s := u) (by rw [← hs]; exact htail)
    (by rw [← hs]; exact hfree)
  rw [hrec, hplaced, Option.getD_some, ht, ← hs]
  rfl

theorem injectLocal_reports {w : W64} {s : State} (hunit : fld w 55 48 < 19) (hin : fld w 55 48 ≠ uIN)
    (hfc : fld w 55 48 ≠ uFC) : injectLocal w s = reportSelf (fld w 55 48) 0 (fld w 47 40) 0 none s := by
  refine if_neg ?_
  rintro (h | h | h)
  · exact Nat.not_le.mpr hunit h
  · exact hin h
  · exact hfc h

theorem injectEcc_arms {w : W64} {s : State} (hbits : fld w 39 38 = 1 ∨ fld w 39 38 = 2)
    (htarget : injectTarget (fld w 37 36) (fld w 55 48) = true) : injectEcc w s =
      s.mMem fun m => { m with armed := m.armed ++ [(fld w 37 36, fld w 55 48, fld w 39 38)] } := by
  refine if_neg ?_
  rw [htarget]
  rintro (h | h | h)
  · omega
  · omega
  · cases h

/-- Settles O19: a clause for the acknowledgement, for each injection and for the leak of a level. -/
theorem faultsAcknowledgedAndInjected : Obligations.FaultsAcknowledgedAndInjected := by
  refine ⟨?ack, ?injectedMessage, ?injectedReport, ?injectedEcc, ?leak⟩
  case ack =>
    intro priv w s hup hop hhost hlen hclass hcount
    refine ⟨_, congrArg Host.Outcome.next (operatorWrite_allowed (fcAck w) hup hop), ?_⟩
    rw [answer_ok hsOK 0 hhost]
    refine ⟨fcAck_classSt (s := s.mPorts _) hclass hcount hlen, ?_⟩
    rw [fcAck_fc (s := s.mPorts _) hclass hcount, State.mPorts_fc]
    refine ⟨rfl, ?_⟩
    cases s.fc.first <;> rfl
  case injectedMessage =>
    intro priv w s m r hup hop hhost hmode hgo hlc hwait hm hok hfirst hr htail hfree
    refine ⟨_, congrArg Host.Outcome.next (injectRow_go injectMessage hup hop hmode hgo hlc), ?_⟩
    rw [answer_ok hsOK 0 hhost]
    exact injectMessage_fc hwait hm hok hfirst hr htail hfree
  case injectedReport =>
    intro priv w s hup hop _ hmode hgo hlc hunit hin hfc
    exact congrArg Host.Outcome.next
      ((injectRow_go (injectLocal w) hup hop hmode hgo hlc).trans (injectLocal_reports hunit hin hfc))
  case injectedEcc =>
    intro priv w s hup hop hhost hmode hgo hlc hbits htarget
    refine ⟨_, congrArg Host.Outcome.next (injectRow_go (injectEcc w) hup hop hmode hgo hlc), ?_⟩
    rw [answer_ok hsOK 0 hhost, injectEcc_arms hbits htarget]
    rfl
  case leak =>
    intro cls die loc s
    exact ⟨_, rfl, rfl, rfl⟩

/-! ### The clauses at work -/

/-- A die in FACTORY whose host is up, with FC as given. -/
def factoryState (f : Fc → Fc) : State :=
  (((State.reset.mPorts fun p => { p with rstLow := false }).mHx fun h => { h with hostOk := true }).mSec fun x =>
    { x with lc := lcFACTORY }).mFc f

/-- A severe source of class `cls`, at level 3 and a half since time 0. -/
def severeSource (cls : Nat) (acked : Bool) : Source :=
  { cls := cls, die := 0, key := 7, level := 229376, last := 0, severe := true, acked := acked }

/-- A first fault of class 1. -/
def firstOfClassOne : First := { msg := 0, overflow := false, cls := 1, level := 2, escalated := false, merge := 0, time := 0 }

/-- Class 1 pends at count 3, each of the classes 1 and 2 has a severe source, and the first fault was of class 1. -/
def pendingState : State := factoryState fun f =>
  { f with
    classes := f.classes.set 1 { pending := true, nmt := true, cnt := 3, level := 2 }
    sources := [severeSource 1 false, severeSource 2 false]
    first := some firstOfClassOne }

/-- O19 at work: the acknowledgement of class 1 marks its source alone, whose level has not leaked, and empties the latch. -/
theorem pendingState_acknowledged :
    ∃ t, exec (.fcAck 1 (word [put 63 60 1, put 59 44 3])) pendingState = .next t ∧
      classSt t 1 = { pending := false, nmt := false, cnt := 3, level := 2 } ∧
      t.fc.sources = [severeSource 1 true, severeSource 2 false] ∧ t.fc.first = none := by
  obtain ⟨ack, -⟩ := faultsAcknowledgedAndInjected
  obtain ⟨t, ht, hclass, hsources, hfirst⟩ := ack 1 (word [put 63 60 1, put 59 44 3]) pendingState rfl (by decide) rfl
    (by decide) (by decide) (by decide)
  exact ⟨t, ht, hclass.trans (by decide), hsources.trans (by decide), hfirst.trans (by decide)⟩

/-- A message of kind 1 about unit 5 of die 0 stands in FC.INJ. -/
def messageState : State := factoryState fun f => { f with inj0 := word [put 60 60 1, put 50 35 5] }

/-- O19 at work: the message enters the ring, SEC reports kind 0xA0, and an error of one bit in Loft bank 5 is
armed. -/
theorem messageState_injects :
    (∃ t, exec (.injectMessage 1 (word [put 63 62 1, put 61 61 1])) messageState = .next t ∧
      t.fc.ring.map (·.msgs) = [[messageState.fc.inj1 ++ messageState.fc.inj0]] ∧ t.fc.wr = 2) ∧
    exec (.injectLocal 1 (word [put 63 62 2, put 61 61 1, put 55 48 uSEC, put 47 40 0xA0])) messageState =
      .next (reportSelf uSEC 0 0xA0 0 none (answer hsOK 0 messageState)) ∧
    (∃ t, exec (.injectEcc 1 (word [put 63 62 3, put 61 61 1, put 55 48 5, put 39 38 1])) messageState = .next t ∧
      t.mem.armed = [(0, 5, 1)]) := by
  obtain ⟨-, injectedMessage, injectedReport, injectedEcc, -⟩ := faultsAcknowledgedAndInjected
  refine ⟨?message, ?report, ?ecc⟩
  case message =>
    obtain ⟨t, ht, hfc⟩ := injectedMessage 1 (word [put 63 62 1, put 61 61 1]) messageState _ _ rfl (by decide) rfl
      (by decide) (by decide) rfl rfl rfl (by decide) (by decide) rfl (by decide) (by decide)
    exact ⟨t, ht, by rw [hfc]; decide, by rw [hfc]; decide⟩
  case report =>
    exact injectedReport 1 (word [put 63 62 2, put 61 61 1, put 55 48 uSEC, put 47 40 0xA0]) messageState rfl (by decide)
      rfl (by decide) (by decide) rfl (by decide) (by decide) (by decide)
  case ecc =>
    obtain ⟨t, ht, hmem⟩ := injectedEcc 1 (word [put 63 62 3, put 61 61 1, put 55 48 5, put 39 38 1]) messageState rfl
      (by decide) rfl (by decide) (by decide) rfl (by decide) (by decide)
    exact ⟨t, ht, by rw [hmem]; decide⟩

/-- A week after time 0; the one source was acknowledged or not. -/
def leakedState (acked : Bool) : State :=
  { factoryState fun f => { f with sources := [severeSource 1 acked] } with now := BitVec.ofNat _ (7 * 24 * hourNs) }

/-- O19 at work: the level has leaked to zero, and the source is severe no longer only where it was acknowledged. -/
theorem leakedState_leaks (acked : Bool) :
    ∃ t, exec (.levelLeakedToZero 1 0 7) (leakedState acked) = .next t ∧
      t.fc.sources.map (fun x => (x.level, x.severe, x.acked)) = [(0, !acked, false)] := by
  obtain ⟨-, -, -, -, leak⟩ := faultsAcknowledgedAndInjected
  obtain ⟨t, ht, -, hsources⟩ := leak 1 0 7 (leakedState acked)
  refine ⟨t, ht, ?_⟩
  rw [hsources]
  cases acked <;> decide

end Sys2Proof.Machine
end

section
/-!
What every step and every command keeps: the order of the queue, legal values and the direction of OTP (R454, R455,
R460, R461), the state that few commands change, and what a TENANT's request leaves alone (R457 to R459).
-/
namespace Sys2Proof.Machine

/-! ### Steps -/

/-- Settles O1: the second branch of `step`. -/
theorem stepRunsFrontCommand : Obligations.StepRunsFrontCommand := by
  intro c rest s h
  unfold step
  rw [h]

/-- In reset an idle period only lets time pass. -/
theorem idle_reset {s : State} (h : s.ports.rstLow = true ∨ s.ports.wrstLow = true) : idle s = tick s := by
  have hports : (tick s).ports = s.ports := (same_tick s).ports (by decide)
  unfold idle
  dsimp only
  rw [hports, if_pos h]

/-- Settles O2: an empty queue is the first branch of `step`; no idle period changes the queue, and one in reset is a
tick. -/
theorem stepIdles : Obligations.StepIdles := by
  intro s hp
  refine ⟨?idles, (lawful_idle s).pending.trans hp, fun h => ?reset⟩
  case idles =>
    unfold step
    rw [hp]
  case reset =>
    rw [idle_reset h]
    exact same_tick s

/-- Settles O42: an idle period is lawful, and so is every command; the queue is none of the legal values. -/
theorem stepKeepsLegal : Obligations.StepKeepsLegal := by
  intro s t hs h
  obtain ⟨-, rfl⟩ | ⟨c, rest, -, hc⟩ := step_cases h
  · exact (lawful_idle s).legal hs
  · exact (exec_lawful hc).legal hs

/-- Settles O43: an idle period is lawful, and so is every command; OTP is no part of the queue. -/
theorem otpMovesForwardOnly : Obligations.OtpMovesForwardOnly := by
  intro s t h
  obtain ⟨-, rfl⟩ | ⟨c, rest, -, hc⟩ := step_cases h
  · exact (lawful_idle s).otp
  · exact (exec_lawful hc).otp

/-- Settles O44: every command is lawful. -/
theorem commandKeepsQueue : Obligations.CommandKeepsQueue := fun _ _ _ h => (exec_lawful h).pending

/-! ### Commands that leave the root as it is -/

theorem exec_root {c : Instr} {s t : State} (hc : mayChangeRoot c = false) (h : exec c s = .next t) :
    t.root = s.root := by
  cases c with
  | planOpen => exact (sound_execPlanOpen h).root
  | planData => exact (sound_execPlanData h).root
  | planRetire => exact (sound_execPlanRetire h).root
  | openTimeout => exact (sound_execOpenTimeout h).root
  | admission => exact (sound_execAdmission h).root
  | digest => exact (sound_execDigest h).root
  | perim => exact (sound_execPerim h).root
  | capture => exact (sound_execCapture h).root
  | stepDone => exact (steady_execStepDone h).root
  | fireHeldRelease => exact (steady_execFireHeldRelease h).root
  | resGraceExpiry => exact (steady_execResGraceExpiry h).root
  | release => exact (sound_execRelease h).root
  | stepTimeout => exact (steady_execStepTimeout h).root
  | planEpochFlip => exact (sound_execPlanEpochFlip h).root
  | clusterReconfig => exact (steady_execClusterReconfig h).root
  | twcCompare => exact (sound_execTwcCompare h).root
  | xdigest => exact (sound_execXdigest h).root
  | twcKat => exact (steady_execTwcKat h).root
  | perimCompare => exact (steady_execPerimCompare h).root
  | perKatPeriod => exact (steady_execPerKatPeriod h).root
  | shadowTaskStart => exact (sound_execShadowTaskStart h).root
  | shadowTaskDone => exact (sound_execShadowTaskDone h).root
  | partialPush => exact (steady_execPartialPush h).root
  | inboundQueueCombine => exact (sound_execInboundQueueCombine h).root
  | remoteRead => exact (steady_execRemoteRead h).root
  | saKatPeriod => exact (steady_execSaKatPeriod h).root
  | bankRead => exact (steady_execBankRead h).root
  | bankWrite => exact (sound_execBankWrite h).root
  | add64 => exact (sound_execAdd64 h).root
  | lpfAdd => exact (sound_execLpfAdd h).root
  | alloc => exact (sound_execAlloc h).root
  | bind => exact (sound_execBind h).root
  | setFull => exact (sound_execSetFull h).root
  | clear => exact (sound_execClear h).root
  | scrubSet => exact (sound_execScrubSet h).root
  | free => exact (sound_execFree h).root
  | rowmap => exact (sound_execRowmap h).root
  | fill => exact (sound_execFill h).root
  | copy => exact (sound_execCopy h).root
  | erase => exact (sound_execErase h).root
  | laneWipe => exact (sound_execLaneWipe h).root
  | erasureComplete => exact (sound_execErasureComplete h).root
  | shedDrain => exact (steady_execShedDrain h).root
  | shedOff => exact (sound_execShedOff h).root
  | drainTimeout => exact (steady_execDrainTimeout h).root
  | shedInitDone => exact (steady_execShedInitDone h).root
  | procedureStart => exact (sound_execProcedureStart h).root
  | settleReply => exact (sound_execSettleReply h).root
  | settleTimeout => exact (sound_execSettleTimeout h).root
  | redispatchTimeout => exact (steady_execRedispatchTimeout h).root
  | replaySend => exact (steady_execReplaySend h).root
  | xsettle => exact (sound_execXsettle h).root
  | xverdict => exact (sound_execXverdict h).root
  | xverdictWaitTimeout => exact (steady_execXverdictWaitTimeout h).root
  | turnoutSelect => exact (steady_execTurnoutSelect h).root
  | suspectTest => exact (steady_execSuspectTest h).root
  | hlinkDown => exact (steady_execHlinkDown h).root
  | hlinkWidth => exact (steady_execHlinkWidth h).root
  | hrouterFail => exact (sound_execHrouterFail h).root
  | routeMiss router entry => exact (@steady_execRouteMiss router entry s t h).root
  | installStart => exact (sound_execInstallStart h).root
  | fcpResponse => exact (sound_execFcpResponse h).root
  | countReadPoll => exact (steady_execCountReadPoll h).root
  | retireTimeout => exact (steady_execRetireTimeout h).root
  | eventPortMessage => exact (steady_execEventPortMessage h).root
  | event => exact (steady_execEvent h).root
  | ringPlaceRetry => exact (steady_execRingPlaceRetry h).root
  | fcProcess => exact (sound_execFcProcess h).root
  | fcAck => exact (steady_execFcAck h).root
  | injectMessage => exact (steady_execInjectMessage h).root
  | injectLocal => exact (steady_execInjectLocal h).root
  | injectEcc => exact (steady_execInjectEcc h).root
  | ctTimeout => exact (sound_execCtTimeout h).root
  | scAck => exact (sound_execScAck h).root
  | scWithdrawTimeout => exact (steady_execScWithdrawTimeout h).root
  | ctEntryFree => exact (sound_execCtEntryFree h).root
  | killCtx => exact (sound_execKillCtx h).root
  | fenceCore => exact (sound_execFenceCore h).root
  | unfenceCore => exact (steady_execUnfenceCore h).root
  | resetSector => exact (steady_execResetSector h).root
  | scrubSector => exact (steady_execScrubSector h).root
  | resetEngine => exact (steady_execResetEngine h).root
  | resetPart => exact (steady_execResetPart h).root
  | trainingStateAdvance => exact (steady_execTrainingStateAdvance h).root
  | trainingAttemptTimeout => exact (steady_execTrainingAttemptTimeout h).root
  | rejoinPeriod => exact (steady_execRejoinPeriod h).root
  | hxFrameReceive => exact (steady_execHxFrameReceive h).root
  | replayTimeout => exact (steady_execReplayTimeout h).root
  | hxPacketArrive => exact (steady_execHxPacketArrive h).root
  | e2eAck => exact (steady_execE2eAck h).root
  | state => exact (steady_execState h).root
  | tblReady => exact (steady_execTblReady h).root
  | epochFlip => exact (steady_execEpochFlip h).root
  | count => exact (steady_execCount h).root
  | retire => exact (steady_execRetire h).root
  | barrierArrive => exact (steady_execBarrierArrive h).root
  | barrierRelease => exact (steady_execBarrierRelease h).root
  | barrierReleaseTime => exact (steady_execBarrierReleaseTime h).root
  | barrTimeout => exact (steady_execBarrTimeout h).root
  | hostBarrierArrive => exact (steady_execHostBarrierArrive h).root
  | faultFwd => exact (steady_execFaultFwd h).root
  | order => exact (sound_execOrder h).root
  | trace => exact (steady_execTrace h).root
  | resendTimeout => exact (steady_execResendTimeout h).root
  | ackDelay => exact (steady_execAckDelay h).root
  | stateRefresh => exact (steady_execStateRefresh h).root
  | stateStale => exact (steady_execStateStale h).root
  | hostOkLapse => exact (steady_execHostOkLapse h).root
  | pollPeriod => exact (steady_execPollPeriod h).root
  | hxRetireTimeout => exact (steady_execHxRetireTimeout h).root
  | congWindow => exact (steady_execCongWindow h).root
  | hostBist => exact (sound_execHostBist h).root
  | bistDone => exact (sound_execBistDone h).root
  | testSessionOpen => exact (steady_execTestSessionOpen h).root
  | hostTestSession => exact (steady_execHostTestSession h).root
  | testReply => exact (steady_execTestReply h).root
  | testTimeout => exact (steady_execTestTimeout h).root
  | pkgOpen => exact (steady_execPkgOpen h).root
  | pkgClose => exact (steady_execPkgClose h).root
  | pkgAbort => exact (steady_execPkgAbort h).root
  | stageS3 => exact (sound_execStageS3 h).root
  | stageS4 => exact (steady_execStageS4 h).root
  | stageS5 => exact (sound_execStageS5 h).root
  | stageS6 => exact (steady_execStageS6 h).root
  | stageS7 => exact (steady_execStageS7 h).root
  | stageS8 => exact (steady_execStageS8 h).root
  | stageS9 => exact (steady_execStageS9 h).root
  | bitmap => exact (steady_execBitmap h).root
  | commitAck => exact (steady_execCommitAck h).root
  | musterTimeout => exact (steady_execMusterTimeout h).root
  | sectorMuster => exact (steady_execSectorMuster h).root
  | domainPowerRequest => exact (steady_execDomainPowerRequest h).root
  | powerGood => exact (sound_execPowerGood h).root
  | domainTimeout => exact (steady_execDomainTimeout h).root
  | domainShutdown => exact (sound_execDomainShutdown h).root
  | pmbRead => exact (steady_execPmbRead h).root
  | pmbAlert addr status => exact (@steady_execPmbAlert addr status s t h).root
  | installCert => exact (steady_execInstallCert h).root
  | unlockChallenge => exact (steady_execUnlockChallenge h).root
  | tokenPresent => exact (steady_execTokenPresent h).root
  | tokenBindingLapse => exact (steady_execTokenBindingLapse h).root
  | sarGo => exact (steady_execSarGo h).root
  | sarBuildDone => exact (steady_execSarBuildDone h).root
  | sarData => exact (steady_execSarData h).root
  | certData => exact (steady_execCertData h).root
  | provOut => exact (steady_execProvOut h).root
  | dumpKey => exact (steady_execDumpKey h).root
  | snap => exact (steady_execSnap h).root
  | snapPeriod => exact (steady_execSnapPeriod h).root
  | watchGo => exact (steady_execWatchGo h).root
  | watchData => exact (steady_execWatchData h).root
  | dumpGo => exact (steady_execDumpGo h).root
  | dumpSectionDone => exact (steady_execDumpSectionDone h).root
  | dumpSectionTimeout => exact (steady_execDumpSectionTimeout h).root
  | tackRsp => exact (steady_execTackRsp h).root
  | egressCredit => exact (steady_execEgressCredit h).root
  | registerRead => exact (steady_execRegisterRead h).root
  | scanBlockDone => exact (steady_execScanBlockDone h).root
  | levelLeakedToZero => exact (steady_execLevelLeakedToZero h).root
  | nonIngressKindPacket => exact (steady_execNonIngressKindPacket h).root
  | _ => cases hc

/-- Settles O47: each command that `mayChangeRoot` does not list is sound or steady. -/
theorem rootChangesOnlyByItsCommands : Obligations.RootChangesOnlyByItsCommands := fun _ _ _ hc h => exec_root hc h

/-! ### Requests of a TENANT -/

theorem Steady.of_next {s t u : State} (hu : Steady s u) (h : Host.Outcome.next u = (.next t : Host.Outcome State Fault Refusal)) :
    Steady s t := by
  obtain rfl := Host.Outcome.next.inj h
  exact hu

/-- Some commands are steady at every privilege; the other orders of the port are denied to a TENANT. -/
theorem tenant_exec {c : Instr} {s t : State} (hc : hostPriv c = some 0) (h : exec c s = .next t) : Steady s t := by
  cases c with
  | sarData => exact steady_execSarData h
  | certData => exact steady_execCertData h
  | provOut => exact steady_execProvOut h
  | dumpKey => exact steady_execDumpKey h
  | watchData => exact steady_execWatchData h
  | fcAck => exact steady_execFcAck h
  | injectMessage => exact steady_execInjectMessage h
  | injectLocal => exact steady_execInjectLocal h
  | injectEcc => exact steady_execInjectEcc h
  | unfenceCore => exact steady_execUnfenceCore h
  | resetSector => exact steady_execResetSector h
  | scrubSector => exact steady_execScrubSector h
  | resetEngine => exact steady_execResetEngine h
  | resetPart => exact steady_execResetPart h
  | hostBarrierArrive => exact steady_execHostBarrierArrive h
  | hostTestSession => exact steady_execHostTestSession h
  | pkgOpen => exact steady_execPkgOpen h
  | pkgClose => exact steady_execPkgClose h
  | pkgAbort => exact steady_execPkgAbort h
  | installCert => exact steady_execInstallCert h
  | unlockChallenge => exact steady_execUnlockChallenge h
  | tokenPresent => exact steady_execTokenPresent h
  | sarGo => exact steady_execSarGo h
  | snap => exact steady_execSnap h
  | watchGo => exact steady_execWatchGo h
  | registerRead => exact steady_execRegisterRead h
  | dumpGo => exact steady_execDumpGo h
  | killCtx => cases hc; exact (tenant_orderRow ..).of_next h
  | fenceCore => cases hc; exact (tenant_orderRow ..).of_next h
  | hostBist => cases hc; exact (tenant_hostBist ..).of_next h
  | pkgData => cases hc; exact (tenant_testOrder ..).of_next h
  | programRoot => cases hc; exact (tenant_lcRow ..).of_next h
  | advance => cases hc; exact (tenant_lcRow ..).of_next h
  | genIdentity => cases hc; exact (tenant_lcRow ..).of_next h
  | programWrapped => cases hc; exact (tenant_lcRow ..).of_next h
  | setMinSeq => cases hc; exact (tenant_lcRow ..).of_next h
  | unlockResponse => cases hc; exact (tenant_lcRow ..).of_next h
  | keyload => cases hc; exact (tenant_operatorWrite ..).of_next h
  | fuseProgram => cases hc; exact (tenant_testOrder ..).of_next h
  | registerWrite => cases hc; exact (tenant_registerWrite ..).of_next h
  | _ => cases hc

/-- Settles O48: what a TENANT may order leaves the root and the arrays alone, and all else is denied. -/
theorem tenantChangesNoRoot : Obligations.TenantChangesNoRoot := fun _ _ _ hc h => tenant_exec hc h

end Sys2Proof.Machine
end

section
/-!
The orders of an operator to CT (R322, R324 to R329, R334).
-/
namespace Sys2Proof.Machine

/-- An order with the right, in service, is answered and then carried out for the host. -/
theorem orderRow_accepts {op : Nat} {priv : BitVec 2} {w : W64} {s : State} (f : Nat → W64 → State → State)
    (hup : s.ports.rstLow = false) (hright : isOperator s priv = true) (hhost : s.hx.hostOk = true) (hop : fld w 63 60 = op)
    (hserves : s.cfg.inService = true) : orderRow op priv w f s = f fpHOST w (answer hsOK 0 s) := by
  unfold orderRow ctOrderWrite
  rw [if_pos hop, hrp_up _ hup, if_neg (not_not.mpr hright), answer_ok hsOK 0 hhost]
  exact if_neg fun h => h.1 hserves

/-! ### KILL_CTX -/

theorem killOrder_ends {who : Nat} {w : W64} {s : State} (h : (s.ct.kills.find? fun k => k.ctx = fld w 43 32) = none) :
    (ctxOf (killOrder who w s) (fld w 43 32)).switch = none ∧ planOf (killOrder who w s) (fld w 43 32) = none := by
  have key : ∀ (c : Nat) (u : State) (f : Ct → Ct), (ctxOf (killErased c ((killPlans c u).mCt f)) c).switch = none ∧
      planOf (killErased c ((killPlans c u).mCt f)) c = none := by
    intro c u f
    have hled : (killErased c ((killPlans c u).mCt f)).led = (killPlans c u).led := (same_killErased ..).led (by decide)
    rw [ctxOf_led (congrArg Led.ctxs hled), planOf_led hled]
    exact killPlans_ctx c u
  unfold killOrder kill
  rw [h]
  exact key ..

/-! ### FENCE_CORE and UNFENCE_CORE -/

theorem voidVote_none {l : Huid} {s : State} (h : openRequest s l = none) : voidVote l s = s := by
  unfold voidVote
  rw [h]

theorem voidSession_none {h : Huid} {s : State} (hs : sessionOf s h = none) : voidSession h s = s := by
  unfold voidSession
  rw [hs]

/-- A core that serves, votes in no dispute and is under no test only waits for the order to its sector controller. -/
theorem fenceCoreOrder_starts {who : Nat} {w : W64} {s : State} (hpresent : corePresent s (orderHuid w) = true)
    (hreset : (sectorSt s (huidSector (orderHuid w))).rstStep = 0) (hvote : openRequest s (labelOf s (orderHuid w)) = none)
    (htest : sessionOf s (orderHuid w) = none) (hserves : coreFenced s (orderHuid w) = false)
    (hlabel : isSpareLabel s (labelOf s (orderHuid w)) = false) :
    fenceCoreOrder who w s = fenceOrder (orderHuid w) who w
      ((s.mPad (orderHuid w) fun p => { p with hostFenced := true }).mYm fun y =>
        { y with fencing := dedup (y.fencing ++ [labelOf s (orderHuid w)]) }) := by
  unfold fenceCoreOrder
  dsimp only
  rw [if_neg (not_not.mpr hpresent), if_neg (not_not.mpr hreset), voidVote_none (s := s.mPad _ _) hvote,
    voidSession_none (s := s.mPad _ _) htest, if_neg (ne_true_of_eq_false (b := coreFenced (s.mPad _ _) _) hserves)]
  exact congrArg _ (if_neg (ne_true_of_eq_false hlabel))

theorem fenceCoreOrder_marks {who : Nat} {w : W64} {s : State} (hpresent : corePresent s (orderHuid w) = true)
    (hreset : (sectorSt s (huidSector (orderHuid w))).rstStep = 0) (hvote : openRequest s (labelOf s (orderHuid w)) = none)
    (htest : sessionOf s (orderHuid w) = none) (hserves : coreFenced s (orderHuid w) = false)
    (hlabel : isSpareLabel s (labelOf s (orderHuid w)) = false) :
    (padOf (fenceCoreOrder who w s) (orderHuid w)).hostFenced = true ∧
      (fenceCoreOrder who w s).ym.fencing = dedup (s.ym.fencing ++ [labelOf s (orderHuid w)]) := by
  rw [fenceCoreOrder_starts hpresent hreset hvote htest hserves hlabel]
  unfold fenceOrder
  generalize hu : State.mYm _ _ = u
  constructor
  · unfold padOf
    rw [(same_scOrder ..).vu (by decide), ← hu]
    exact congrArg Pad.hostFenced (padOf_mPad (orderHuid w) _ s)
  · rw [(same_scOrder ..).ym (by decide), ← hu]
    rfl

theorem unfenceCoreOrder_orders {who : Nat} {w : W64} {s : State} (hpresent : corePresent s (orderHuid w) = true)
    (hfenced : (padOf s (orderHuid w)).hostFenced = true) (hst : (padOf s (orderHuid w)).st = .service)
    (hreset : (sectorSt s (huidSector (orderHuid w))).rstStep = 0) :
    unfenceCoreOrder who w s = unfenceOrder (orderHuid w) who w s := by
  unfold unfenceCoreOrder
  dsimp only
  rw [hst, if_neg (by simp [hpresent, hfenced]), if_neg (not_not.mpr hreset), if_neg nofun]

/-! ### RESET_SECTOR, RESET_ENGINE and RESET_PART -/

theorem sectorReset_starts {n : Nat} (purposes : List (Nat × W64)) {s : State} (h : (sectorSt s n).rstStep = 0) :
    (sectorSt (sectorReset n purposes s) n).rstStep = 1 ∧ (sectorSt (sectorReset n purposes s) n).rstFor = purposes := by
  unfold sectorReset seqOrder
  rw [if_neg (not_not.mpr h)]
  dsimp only
  obtain ⟨hstep, hfor⟩ := scStart_rst n _
  rw [hstep, hfor, sectorSt_mSector, sectorSt_mSector]
  exact ⟨rfl, rfl⟩

theorem resetSectorOrder_present {who : Nat} {w : W64} {s : State} {x : SectorT}
    (h : sectorT s (huidSector (orderHuid w)) = some x) :
    resetSectorOrder who w s = sectorReset (huidSector (orderHuid w)) [(who, w)] s :=
  if_neg (by rw [h]; exact Bool.false_ne_true)

theorem scrubSectorOrder_present {who : Nat} {w : W64} {s : State} {x : SectorT}
    (h : sectorT s (huidSector (orderHuid w)) = some x) :
    scrubSectorOrder who w s = scOrder (huidSector (orderHuid w)) (scMask opSCRUB 0 none who w) s :=
  if_neg (by rw [h]; exact Bool.false_ne_true)

/-- An engine that already resets takes one more order; another one takes an entry. -/
theorem engineReset_lists {h : Huid} (w : Option W64) {u k : Nat} {s : State} (he : engineOf h = some (u, k)) :
    (engineReset h w s).ct.engineRst = s.ct.engineRst ++ [(h, w)] := by
  have requeued : ∀ (l : List Nat) (v : State), (l.foldl (fun s l => requeueRun l s) v).ct = v.ct :=
    foldl_keeps State.ct fun v l => (same_requeueRun l v).ct (by decide)
  unfold engineReset
  rw [he]
  dsimp only
  split
  · rfl
  · obtain ⟨x, hx⟩ := tryEntry_ct clENGINE h (bump 732 1 (if u = uSA then _ else _))
    rw [hx]
    dsimp only
    rw [(same_bump ..).ct (by decide)]
    split
    · rw [requeued]
      rfl
    · rfl

theorem partReset_starts (words : List W64) {s : State} (h : s.ct.part = .run) : (partReset words s).ct.part = .reset ∧
    (partReset words s).ct.partOrders = words ∧ (partReset words s).ct.engineRst = [] := by
  unfold partReset
  rw [h]
  dsimp only
  obtain ⟨x, hx⟩ := tryEntry_ct clPART partHuid (State.mCt _ _)
  rw [hx]
  exact ⟨rfl, rfl, rfl⟩

theorem resetEngineOrder_lists {w : W64} {u k : Nat} {s : State} (he : engineOf (orderHuid w) = some (u, k))
    (hrun : s.ct.part = .run) :
    (resetEngineOrder fpHOST w s).ct.engineRst = s.ct.engineRst ++ [(orderHuid w, some w)] := by
  unfold resetEngineOrder
  rw [if_neg (by rw [he]; exact Bool.false_ne_true), if_neg (not_not.mpr hrun)]
  exact engineReset_lists _ he

/-- Settles O21: a clause for each order. -/
theorem hostOrdersStart : Obligations.HostOrdersStart := by
  refine ⟨?kill, ?fence, ?unfence, ?sector, ?scrub, ?engine, ?part⟩
  case kill =>
    intro priv w s hup hright hhost hop hserves hkill
    refine ⟨_, congrArg Host.Outcome.next (orderRow_accepts killOrder hup hright hhost hop hserves), ?_⟩
    rw [answer_ok hsOK 0 hhost]
    exact killOrder_ends (s := s.mPorts _) hkill
  case fence =>
    intro priv w s hup hright hhost hop hserves hpresent hreset hvote htest hunfenced hlabel
    refine ⟨_, congrArg Host.Outcome.next (orderRow_accepts fenceCoreOrder hup hright hhost hop hserves), ?_⟩
    rw [answer_ok hsOK 0 hhost]
    exact fenceCoreOrder_marks (s := s.mPorts _) hpresent hreset hvote htest hunfenced hlabel
  case unfence =>
    intro priv w s k hup hright hhost hop hserves hpresent hfenced hst hreset hcur hqueue hdead hentry
    refine ⟨_, congrArg Host.Outcome.next (orderRow_accepts unfenceCoreOrder hup hright hhost hop hserves), ?_⟩
    rw [answer_ok hsOK 0 hhost, unfenceCoreOrder_orders (s := s.mPorts _) hpresent hfenced hst hreset]
    exact congrArg SectorSt.cur (scOrder_idle (s := s.mPorts _) _ hcur hqueue hreset hdead hentry).1
  case sector =>
    intro priv w s x hup hright hhost hop hserves hx hreset
    refine ⟨_, congrArg Host.Outcome.next (orderRow_accepts resetSectorOrder hup hright hhost hop hserves), ?_⟩
    rw [answer_ok hsOK 0 hhost]
    rw [resetSectorOrder_present (s := s.mPorts _) hx]
    exact sectorReset_starts (s := s.mPorts _) _ hreset
  case scrub =>
    intro priv w s x k hup hright hhost hop hserves hx hreset hcur hqueue hdead hentry
    refine ⟨_, congrArg Host.Outcome.next (orderRow_accepts scrubSectorOrder hup hright hhost hop hserves), ?_⟩
    rw [answer_ok hsOK 0 hhost]
    rw [scrubSectorOrder_present (s := s.mPorts _) hx]
    exact congrArg SectorSt.cur (scOrder_idle (s := s.mPorts _) _ hcur hqueue hreset hdead hentry).1
  case engine =>
    intro priv w s u k hup hright hhost hop hserves he hrun
    refine ⟨_, congrArg Host.Outcome.next (orderRow_accepts resetEngineOrder hup hright hhost hop hserves), ?_⟩
    rw [answer_ok hsOK 0 hhost]
    exact resetEngineOrder_lists (s := s.mPorts _) he hrun
  case part =>
    intro priv w s hup hright hhost hop hserves hrun
    refine ⟨_, congrArg Host.Outcome.next (orderRow_accepts resetPartOrder hup hright hhost hop hserves), ?_⟩
    rw [answer_ok hsOK 0 hhost]
    exact partReset_starts (s := s.mPorts _) [w] hrun

end Sys2Proof.Machine
end

section
/-!
The ports of the Hitch: training, removal, frames, replay and congestion (R343, R344, R349, R352, R362).
-/
namespace Sys2Proof.Machine

/-- What the state of a port's training, its sequence and its congestion keep where only traffic changes it. -/
theorem portCore_eq {x y : Port} (h : portCore x = portCore y) : (x.st = y.st ∧ x.attempts = y.attempts ∧ x.width = y.width) ∧
    (x.swap = y.swap ∧ x.polarity = y.polarity) ∧ (x.rxNext = y.rxNext ∧ x.nakOut = y.nakOut) ∧ x.congested = y.congested :=
  have same {α : Type} (f : Port → α) : f (portCore x) = f (portCore y) := congrArg f h
  ⟨⟨same Port.st, same Port.attempts, same Port.width⟩, ⟨same Port.swap, same Port.polarity⟩,
    ⟨same Port.rxNext, same Port.nakOut⟩, same Port.congested⟩

section Port
variable {p : Nat} {s : State} (hup : s.hx.down = false) (hport : p < s.hx.ports.length)
include hup hport

/-! ### Training -/

theorem trainingAdvance_locked {i : TrainInfo} (hst : (hxPort s p).st = .lock)
    (hlanes : attemptLanes (hxPort s p) i.lanes ≠ 0) :
    portCore (hxPort (trainingAdvance p i s) p) =
      portCore { hxPort s p with st := .config, swap := i.swap, polarity := i.polarity } := by
  unfold trainingAdvance
  dsimp only
  rw [if_neg (ne_true_of_eq_false hup), hst]
  dsimp only
  rw [if_neg hlanes, hxPort_mTrain _ hport]

theorem attemptTimeout_again (hoff : (hxPort s p).st ≠ .off) (hactive : (hxPort s p).st ≠ .active)
    (hremoved : (hxPort s p).st ≠ .removed) (hmore : attemptNo (hxPort s p) < 8) :
    portCore (hxPort (attemptTimeout p s) p) =
      portCore { hxPort s p with
        attempts := (hxPort s p).attempts + 1, st := if (hxPort s p).retraining then .lock else .detect } := by
  unfold attemptTimeout
  dsimp only
  rw [if_neg (by simp [hoff, hactive, hremoved, hup]), if_neg (Nat.not_le.mpr hmore), hxPort_mTrain _ hport]

theorem rejoin_detects (hst : (hxPort s p).st = .removed) (hused : portUsed s.cfg.topo (dieNat s) p = true) :
    portCore (hxPort (rejoin p s) p) =
      portCore { hxPort s p with st := .detect, attempts := 1, firstTry := 0, retraining := false, width := 0 } := by
  unfold rejoin
  rw [if_pos ⟨hst, hused, ne_true_of_eq_false hup⟩]
  unfold startTraining
  rw [hxPort_mTrain _ hport]

/-! ### Frames -/

omit hup in
theorem takeCredits_port (xy yx : Nat) : hxPort (takeCredits p xy yx s) p =
    { hxPort s p with
      credXY := (hxPort s p).credXY + (xy + 8 - (hxPort s p).seenXY.toNat) % 8
      credYX := (hxPort s p).credYX + (yx + 8 - (hxPort s p).seenYX.toNat) % 8
      seenXY := BitVec.ofNat 3 xy
      seenYX := BitVec.ofNat 3 yx
      congested := (hxPort (takeCredits p xy yx s) p).congested } := by
  unfold takeCredits
  dsimp only
  rw [hxPort_congr (throttleUpdate_ports _), hxPort_mPort _ hport]

omit hup hport in
theorem takeAck_unknown {ack : Nat} (h : ((hxPort s p).replay.findIdx? fun r => r.1 = ack) = none) : takeAck p ack s = s := by
  unfold takeAck
  rw [h]

omit hup hport in
theorem syncStamps_idle {f : Frame} (hframe : bit f.control 232 = false) (hdue : (hxPort s p).syncDue = false) :
    syncStamps p f s = s := by
  unfold syncStamps
  rw [if_neg (ne_true_of_eq_false hframe), if_pos (ne_true_of_eq_false hdue)]

omit hup hport in
theorem takeNak_none (ack : Nat) : takeNak p false ack s = s := by
  unfold takeNak
  exact if_pos (.inl Bool.false_ne_true)

/-- A frame in sequence that acknowledges nothing, carries no packet and stamps no time only counts. -/
theorem frameReceive_expected {f : Frame} (hst : (hxPort s p).st = .active) (hwords : badWords f = 0)
    (hseq : fld f.control 255 248 = (hxPort s p).rxNext.toNat) (hpackets : f.packets = [])
    (hnak : bit f.control 239 = false) (hframe : bit f.control 232 = false) (hdue : (hxPort s p).syncDue = false)
    (hack : ((hxPort s p).replay.findIdx? fun r => r.1 = fld f.control 247 240) = none) :
    (hxPort (frameReceive p f s) p).rxNext = (hxPort s p).rxNext + 1 ∧ (hxPort (frameReceive p f s) p).nakOut = false := by
  unfold frameReceive
  rw [if_neg (by rw [hst, hup]; simp)]
  dsimp only
  rw [if_neg (by rintro (h | h); exacts [h hwords, h hseq]), hpackets, hnak, takeNak_none]
  generalize hu : State.mPort p _ (bump _ _ _) = u
  have hlen : p < u.hx.ports.length := by
    rw [← hu]
    exact hport.trans_eq (List.length_modify ..).symm
  have hx : hxPort u p = { hxPort s p with rxNext := (hxPort s p).rxNext + 1, nakOut := false } := by
    rw [← hu]
    exact hxPort_mPort _ (s := bump _ _ _) hport
  rw [takeAck_unknown (by rw [hx]; exact hack)]
  have hc := takeCredits_port (s := u) hlen (fld f.control 238 236) (fld f.control 235 233)
  generalize takeCredits p (fld f.control 238 236) (fld f.control 235 233) u = v at hc ⊢
  rw [syncStamps_idle hframe (by rw [hc, hx]; exact hdue)]
  have hnet : portCore (hxPort (pumpAll v) p) = portCore (hxPort v p) := (net_pumpAll v).port p
  rw [hc, hx] at hnet
  exact (portCore_eq hnet).2.2.1

/-! ### Replay and congestion -/

omit hup hport in
theorem resendFrames_sends (h : (hxPort s p).replay ≠ []) :
    (resendFrames p s).hx = s.hx ∧ (resendFrames p s).ports.hxSent =
      s.ports.hxSent ++ ((hxPort s p).replay.flatMap (·.2)).map fun k => (p, k) := by
  unfold resendFrames
  dsimp only
  rw [if_neg (by simpa using h)]
  exact ⟨rfl, rfl⟩

theorem replayTimeout_resends (hst : (hxPort s p).st = .active) (hreplay : (hxPort s p).replay ≠ [])
    (hmore : (hxPort s p).stalls + 1 < hxConf s 11 8) :
    hxPort (replayTimeout p s) p = { hxPort s p with stalls := (hxPort s p).stalls + 1 } ∧
      (replayTimeout p s).ports.hxSent =
        s.ports.hxSent ++ ((hxPort s p).replay.flatMap (·.2)).map fun k => (p, k) := by
  obtain ⟨hhx, hsent⟩ := resendFrames_sends hreplay
  have hsame : Same [.ports, .ob] s (resendFrames p s) := same_resendFrames p s
  generalize hu : resendFrames p s = u at hhx hsent hsame
  have hx : hxPort u p = hxPort s p := hxPort_congr (by rw [hhx]) p
  unfold replayTimeout replayPort
  rw [if_pos ⟨hst, ne_true_of_eq_false hup⟩, if_neg (by simpa using hreplay)]
  dsimp only
  rw [hu, mTrain_still _ rfl]
  have hv : hxPort (u.mPort p fun x => { x with stalls := x.stalls + 1 }) p =
      { hxPort s p with stalls := (hxPort s p).stalls + 1 } := by
    rw [hxPort_mPort _ (by rw [hhx]; exact hport), hx]
  have hconf : hxConf (u.mPort p fun x => { x with stalls := x.stalls + 1 }) 11 8 = hxConf s 11 8 :=
    congrArg (fun e : Expert => fld e.hxConfig 11 8) (hsame.expert (by decide))
  rw [hv, hconf, if_neg (Nat.not_le.mpr hmore)]
  exact ⟨hv, hsent⟩

omit hup in
theorem congWindow_marks {congested : Bool} (h : congested = creditsLow (hxPort s p)) :
    (hxPort (congWindow p congested s) p).congested = congested := by
  unfold congWindow
  rw [if_neg (not_not.mpr h)]
  have hnet := (net_pumpAll (throttleUpdate (s.mPort p fun x => { x with congested := congested }))).port p
  rw [hxPort_congr (throttleUpdate_ports _), hxPort_mPort _ hport] at hnet
  exact (portCore_eq hnet).2.2.2

end Port

/-- Settles O22: a clause for each command of a port. -/
theorem hitchPortsTrain : Obligations.HitchPortsTrain := by
  refine ⟨?lock, ?attempt, ?rejoin, ?frame, ?replay, ?congestion⟩
  case lock =>
    intro port i s hup hport hst hlanes
    obtain ⟨⟨hnext, -⟩, hpair, -⟩ := portCore_eq (trainingAdvance_locked hup hport hst hlanes)
    exact ⟨_, rfl, hnext, hpair⟩
  case attempt =>
    intro port s hup hport hoff hactive hremoved hmore
    obtain ⟨⟨hnext, hattempts, -⟩, -⟩ := portCore_eq (attemptTimeout_again hup hport hoff hactive hremoved hmore)
    exact ⟨_, rfl, hattempts, hnext⟩
  case rejoin =>
    intro port s hup hport hst hused
    obtain ⟨hnext, -⟩ := portCore_eq (rejoin_detects hup hport hst hused)
    exact ⟨_, rfl, hnext⟩
  case frame =>
    intro port f s hup hport hst hwords hseq hpackets hnak hframe hdue hack
    exact ⟨_, rfl, frameReceive_expected hup hport hst hwords hseq hpackets hnak hframe hdue hack⟩
  case replay =>
    intro port s hup hport hst hreplay hmore
    obtain ⟨hx, hsent⟩ := replayTimeout_resends hup hport hst hreplay hmore
    exact ⟨_, rfl, (congrArg Port.stalls hx :), (congrArg Port.st hx).trans hst, hsent⟩
  case congestion =>
    intro port congested s h hport
    exact ⟨_, rfl, congWindow_marks hport h⟩

end Sys2Proof.Machine
end

section
/-!
The node map and its versions (R341, R367 to R370), and the barriers (R373, R374).
-/
namespace Sys2Proof.Machine

/-! ### State records -/

theorem mapChanged_then_reports_map (old : List (Nat × Bool × Bool)) (c : Nat) (s : State) :
    (sendReports (mapChanged old c s)).hx.map = s.hx.map := ((mapChanged_map old c s).trans (sendReports_map _)).1

theorem stateRecord_newer {p : HxPkt} {s : State} {r : DieRec} (hother : hxSrc p ≠ dieNat s)
    (hheld : Tab.get s.hx.map (hxSrc p) = some r) (hboot : r.boot = (parseRecord p.payload).boot)
    (hnewer : r.version.toNat ≤ (parseRecord p.payload).version.toNat) (hown : (Tab.get s.hx.map (dieNat s)).isSome = true) :
    (stateRecord p s).hx.map = Tab.set s.hx.map (hxSrc p) (parseRecord p.payload) := by
  unfold stateRecord
  dsimp only
  rw [hheld]
  dsimp only
  rw [if_neg (by simp [hother, hnewer, Option.isSome_iff_ne_none.mp hown]), mapChanged_then_reports_map,
    if_neg (by simp [hboot])]
  rfl

theorem stateStale_marks {die : Nat} {s : State} (h : die ≠ dieNat s) :
    (stateStale die s).hx.map = Tab.mod s.hx.map die fun r => { r with current := false } := by
  unfold stateStale
  rw [if_neg h]
  exact mapChanged_then_reports_map ..

theorem sendState_map {s : State} {r : DieRec} (h : Tab.get s.hx.map (dieNat s) = some r) :
    (sendState s).hx.map = Tab.set s.hx.map (dieNat s) { ownRecord s with version := r.version } := by
  unfold sendState
  rw [h]
  exact (net_hxMulticast ..).map

/-! ### Versions -/

/-- While a live die has reported nothing, TBL_READY is only noted. -/
theorem tblReady_notes {p : HxPkt} {s : State} {d : Nat} (hcoord : isCoord s = true) (hlive : d ∈ liveDies s)
    (hother : d ≠ hxSrc p) (hnone : Tab.get s.hx.ready d = none) :
    (tblReady p s).hx.ready = Tab.set s.hx.ready (hxSrc p) (hxBody p 191 160) := by
  unfold tblReady
  rw [if_neg (not_not.mpr hcoord)]
  dsimp only
  rw [if_neg]
  · rfl
  · rintro ⟨hall, -⟩
    have hd := List.all_eq_true.mp hall d hlive
    simp [Tab.get_set_other _ _ hother, hnone] at hd

/-- While a live die has sent no counts, a COUNT reply is only noted. -/
theorem countReply_notes {p : HxPkt} {s : State} {d : Nat} (hcoord : isCoord s = true) (hdrain : s.hx.standby = .draining)
    (hold : decide (hxBody p 190 190 = 1) ≠ s.hx.live) (hlive : d ∈ liveDies s) (hother : d ≠ hxSrc p)
    (hnone : Tab.get s.hx.counts d = none) :
    (countReply p s).hx.counts = Tab.set s.hx.counts (hxSrc p) (hxBody p 189 158, hxBody p 157 126) := by
  unfold countReply
  dsimp only
  rw [if_neg (by rintro (h | h | h); exacts [h hcoord, h hdrain, hold h]), if_pos]
  · rfl
  · intro hall
    have hd := List.all_eq_true.mp hall d hlive
    simp [Tab.get_set_other _ _ hother, hnone] at hd

theorem retireVersion_retires {p : HxPkt} {s : State} (hold : decide (hxArg p % 2 = 1) ≠ s.hx.live)
    (hdrain : s.hx.standby = .draining) (hmap : s.hx.pendingMap = false) :
    retireVersion p s = s.mHx fun h => { h with standby := .retired } := by
  unfold retireVersion
  rw [if_neg (by rintro (h | h); exacts [hold h, h hdrain])]
  exact if_neg (ne_true_of_eq_false hmap)

theorem pollPeriod_counts {s : State} (hcoord : isCoord s = true) (hdrain : s.hx.standby = .draining) (hup : s.hx.down = false) :
    (pollPeriod s).hx.counts = [] := by
  unfold pollPeriod
  rw [if_neg (by rintro (h | h | h); exacts [h hcoord, h hdrain, ne_true_of_eq_false hup h])]
  exact (net_foldl _ (fun s d => net_hxSend ..) _ _).counts

theorem hxRetireTimeout_base {s : State} (hcoord : isCoord s = true) (hdrain : s.hx.standby = .draining)
    (hup : s.hx.down = false) : (hxRetireTimeout s).hx.forced = true ∧
      (hxRetireTimeout s).hx.base0 = (if s.hx.live then s.hx.lastDiff else s.hx.base0) ∧
      (hxRetireTimeout s).hx.base1 = if s.hx.live then s.hx.base1 else s.hx.lastDiff := by
  unfold hxRetireTimeout
  rw [if_neg (by rintro (h | h | h); exacts [h hcoord, h hdrain, ne_true_of_eq_false hup h])]
  dsimp only
  generalize hu : State.mHx _ s = u
  have hnet : NetKept u (sendRetire (reportSelf uHX 0 0x8D 0 none u)) :=
    (net_reportSelf ..).trans (net_hxMulticast ..)
  rw [hnet.forced, hnet.base0, hnet.base1, ← hu]
  exact ⟨rfl, rfl, rfl⟩

/-- Settles O24: a clause for each packet of the map and of its versions, and for each timer. -/
theorem nodeMapAgrees : Obligations.NodeMapAgrees := by
  refine ⟨?record, ?ready, ?flip, ?reply, ?query, ?retire, ?refresh, ?stale, ?lapse, ?poll, ?forced⟩
  case record =>
    intro p s r hkind hup hother hheld hboot hnewer hown
    refine ⟨_, congrArg Host.Outcome.next (consumer_own _ hkind hup), ?_⟩
    exact stateRecord_newer (s := consume p s) hother hheld hboot hnewer hown
  case ready =>
    intro p s d hkind hup hcoord hlive hother hnone
    refine ⟨_, congrArg Host.Outcome.next (consumer_own _ hkind hup), ?_⟩
    exact tblReady_notes (s := consume p s) hcoord hlive hother hnone
  case flip =>
    intro p s hkind hup
    exact ⟨_, congrArg Host.Outcome.next (consumer_own (epochFlip p) hkind hup), rfl, rfl, rfl, rfl, rfl, rfl⟩
  case reply =>
    intro p s d hkind hup hreply hcoord hdrain hold hlive hother hnone
    refine ⟨_, congrArg Host.Outcome.next (consumer_own _ hkind hup), ?_⟩
    rw [if_pos hreply]
    exact countReply_notes (s := consume p s) hcoord hdrain hold hlive hother hnone
  case query =>
    intro p s hkind hup hquery hepoch
    refine congrArg Host.Outcome.next ((consumer_own _ hkind hup).trans ?_)
    rw [if_neg (by omega)]
    unfold countQuery
    dsimp only
    rw [hepoch]
    rfl
  case retire =>
    intro p s hkind hup hold hdrain hmap
    refine ⟨_, congrArg Host.Outcome.next (consumer_own _ hkind hup), ?_⟩
    rw [retireVersion_retires (s := consume p s) hold hdrain hmap]
    rfl
  case refresh =>
    intro s r h
    exact ⟨_, rfl, sendState_map h⟩
  case stale =>
    intro die s h
    exact ⟨_, rfl, stateStale_marks h⟩
  case lapse =>
    intro s
    exact ⟨_, rfl, stateChange_hostOk _⟩
  case poll =>
    intro s hcoord hdrain hup
    exact ⟨_, rfl, pollPeriod_counts hcoord hdrain hup⟩
  case forced =>
    intro s hcoord hdrain hup
    obtain ⟨hforced, h0, h1⟩ := hxRetireTimeout_base hcoord hdrain hup
    refine ⟨_, rfl, hforced, ?_⟩
    rw [h0, h1]
    split <;> exact ⟨rfl, rfl⟩

/-! ### Barriers -/

theorem barrierArrive_waits {b : Nat} (mask : W64) {s : State} (hb : b < s.hx.barriers.length) :
    (barrierArrive b mask s).hx.lastBarrier = b ∧ barrierOf (barrierArrive b mask s) b =
      { barrierOf s b with st := .waiting, gen := (barrierOf s b).gen + 1, mask := mask, tRel := 0 } := by
  have hnet : NetKept _ (barrierArrive b mask s) := net_sendArrive ..
  rw [hnet.lastBarrier, barrierOf_congr hnet.barriers]
  exact ⟨rfl, barrierOf_mBarrier _ hb⟩

theorem hostBarrier_arrives {priv : BitVec 2} {w : W64} {s : State} (hright : isOperator s priv = true)
    (hhost : s.hx.hostOk = true) (hb : fld w 63 60 ≠ 0) (hserves : s.cfg.inService = true) (harrive : bit w 59 = true) :
    hostBarrier priv w s = barrierArrive (fld w 63 60) s.hx.barrierMask (answer hsOK 0 s) := by
  unfold hostBarrier
  rw [if_neg (not_not.mpr hright), answer_ok hsOK 0 hhost]
  dsimp only
  rw [if_neg (by rintro (h | h); exacts [hb h, h hserves]), if_pos harrive]
  rfl

/-- The first arrival opens the barrier while another die is missing. -/
theorem coordArrive_opens {b : Nat} {gen : BitVec 8} {mask : W64} {die : Nat} {s : State} (hb : b < s.hx.barriers.length)
    (hclosed : (barrierOf s b).open_ = false) (hnew : (barrierOf s b).coordMask = 0) (hmissing : mask &&& ~~~(1#64 <<< die) ≠ 0) :
    barrierOf (coordArrive b gen mask die s) b =
      { barrierOf s b with coordGen := gen, coordMask := mask, arrived := 1#64 <<< die, open_ := true } := by
  have hseen : (0 : W64) ||| 1#64 <<< die = 1#64 <<< die := BitVec.zero_or
  unfold coordArrive
  simp only [hclosed, hnew, Bool.false_eq_true, if_false, decide_true, Bool.true_or, if_true, not_true_eq_false, false_and,
    hseen, hmissing, decide_false, Bool.not_false]
  exact barrierOf_mBarrier _ hb

theorem barrierReleased_notes {p : HxPkt} {s : State} (hb : fld p.ext 39 36 < s.hx.barriers.length)
    (hst : (barrierOf s (fld p.ext 39 36)).st = .waiting) (hgen : (barrierOf s (fld p.ext 39 36)).gen.toNat = fld p.ext 35 28)
    (hreleased : bit p.ext 27 = false) (hlater : s.now.toNat ≤ leAt p.payload 0 8) :
    barrierOf (barrierReleased p s) (fld p.ext 39 36) =
      { barrierOf s (fld p.ext 39 36) with tRel := leAt p.payload 0 8 } := by
  have hnow : (s.mBarrier (fld p.ext 39 36) fun x => { x with tRel := leAt p.payload 0 8 }).now = s.now :=
    (same_mBarrier ..).now (by decide)
  unfold barrierReleased
  dsimp only
  rw [if_neg (by rintro (h | h); exacts [h hst, h hgen]), if_neg (ne_true_of_eq_false hreleased), hnow,
    if_neg (Nat.not_lt.mpr hlater)]
  exact barrierOf_mBarrier _ hb

theorem memberReleased_barrier {b : Nat} {s : State} (hb : b < s.hx.barriers.length) (h0 : b ≠ 0) :
    barrierOf (memberReleased b s) b = { barrierOf s b with st := .released } ∧
      (memberReleased b s).hx.barrierOut = s.now.toNat + 64 := by
  unfold memberReleased
  dsimp only
  rw [if_neg h0]
  exact ⟨barrierOf_mBarrier _ hb, rfl⟩

theorem barrTimeout_closes {b : Nat} {s : State} (hb : b < s.hx.barriers.length) (hopen : (barrierOf s b).open_ = true)
    (hcoord : isCoord s = true) (hup : s.hx.down = false) :
    barrierOf (barrTimeout b s) b = { barrierOf s b with open_ := false } := by
  unfold barrTimeout
  dsimp only
  rw [if_neg (by rintro (h | h | h); exacts [h hopen, h hcoord, ne_true_of_eq_false hup h]),
    barrierOf_congr ((net_diesReport ..).trans (net_sendRelease ..)).barriers]
  exact barrierOf_mBarrier _ hb

/-- Settles O25: a clause for the host's arrival, for each packet and for each timer of a barrier. -/
theorem barriersRelease : Obligations.BarriersRelease := by
  refine ⟨?arrive, ?opens, ?release, ?time, ?timeout⟩
  case arrive =>
    intro priv w s hup hright hhost hb hlen hserves harrive
    refine ⟨_, congrArg Host.Outcome.next ((hrp_up _ hup).trans (hostBarrier_arrives hright hhost hb hserves harrive)), ?_⟩
    rw [answer_ok hsOK 0 hhost]
    exact barrierArrive_waits _ (s := s.mPorts _) hlen
  case opens =>
    intro p s hkind hup hcoord hlen hclosed hnew hmissing
    refine ⟨_, congrArg Host.Outcome.next (consumer_own _ hkind hup), ?_⟩
    unfold barrierArrived
    rw [if_neg (not_not.mpr (show isCoord (consume p s) = true from hcoord))]
    exact coordArrive_opens (s := consume p s) hlen hclosed hnew hmissing
  case release =>
    intro p s hkind hup hlen hst hgen hreleased hlater
    refine ⟨_, congrArg Host.Outcome.next (consumer_own _ hkind hup), ?_⟩
    exact barrierReleased_notes (s := consume p s) hlen hst hgen hreleased hlater
  case time =>
    intro barrier s hlen h0 hst htime hpast
    refine ⟨_, congrArg Host.Outcome.next (if_pos ⟨hst, htime, hpast⟩), ?_⟩
    exact memberReleased_barrier hlen fun h => h0 (BitVec.eq_of_toNat_eq h)
  case timeout =>
    intro barrier s hlen hopen hcoord hup
    exact ⟨_, rfl, barrTimeout_closes hlen hopen hcoord hup⟩

end Sys2Proof.Machine
end

section
/-!
The pins, the Host Register Port, the Mesh Attach ports and the TAP: resets and supplies (R329, R406, R500 to R502), requests in
reset and refused ones (R457 to R459), bad packets (R511), TAP instructions (R456) and the triggers of a dump (R493).
-/
namespace Sys2Proof.Machine

/-! ### Resets and supplies -/

/-- Settles O29: a clause for each pin and for the supplies. -/
theorem resetPinsAndSupplies : Obligations.ResetPinsAndSupplies := by
  refine ⟨?release, ?assert, ?supplies, ?wrstAssert, ?wrstRelease⟩
  case release =>
    intro dieId s hlow
    have hout : exec (.rstNRelease dieId) s = .next (rstNRelease dieId s) := rfl
    have hnv : (rstNRelease dieId s).nv = s.nv := (exec_same hout).nv (of_decide_eq_false rfl)
    refine ⟨_, hout, ?_, ?_, hnv⟩
    all_goals
      unfold rstNRelease
      rw [if_neg (not_not.mpr hlow)]
    · exact (stagePass_cfg ..).1
    · exact (stagePass_cfg ..).2
  case assert => exact fun s => ⟨_, rfl, rfl⟩
  case supplies => exact fun s => ⟨_, rfl, rfl⟩
  case wrstAssert => exact fun s => ⟨_, rfl, rfl⟩
  case wrstRelease =>
    intro s hwrst hup
    refine congrArg Host.Outcome.next ?_
    unfold wrstRelease
    rw [if_neg (not_not.mpr hwrst)]
    exact if_neg (ne_true_of_eq_false hup)

/-! ### Requests while RST_N is low -/

section Low
variable {s : State} (h : s.ports.rstLow = true)
include h

theorem hrp_low (f : State → State) : hrp f s = s := if_pos h

theorem operatorWrite_low (priv : BitVec 2) (f : State → State) : operatorWrite priv f s = s := hrp_low h _

theorem testOrder_low (allowed : Bool) (priv : BitVec 2) (f : State → State) : testOrder allowed priv f s = s :=
  operatorWrite_low h ..

theorem orderRow_low (op : Nat) (priv : BitVec 2) (w : W64) (f : Nat → W64 → State → State) : orderRow op priv w f s = s := by
  unfold orderRow ctOrderWrite
  rw [hrp_low h, ite_self]

theorem injectRow_low (mode : Nat) (priv : BitVec 2) (w : W64) (f : State → State) : injectRow mode priv w f s = s := by
  unfold injectRow injectWrite
  rw [hrp_low h, ite_self]

theorem pkgRow_low (op : Nat) (priv : BitVec 2) (w : W64) (f : State → State) : pkgRow op priv w f s = s := by
  unfold pkgRow
  rw [testOrder_low h, ite_self]

theorem lcRow_low (op : Nat) (priv : BitVec 2) (w : W64) (f : State → State) : lcRow op priv w f s = s := by
  unfold lcRow
  rw [operatorWrite_low h, ite_self]

theorem tenantWatch_low (priv : BitVec 2) (f : Nat → State → State) : tenantWatch priv f s = s := hrp_low h _

theorem registerWrite_low (priv : BitVec 2) (addr : BitVec 22) (w : W64) : registerWrite priv addr w s = s := by
  unfold registerWrite
  exact hrp_low h _

theorem registerRead_low (priv : BitVec 2) (addr : BitVec 22) (race : Bool) : registerRead priv addr race s = s := by
  unfold registerRead
  exact hrp_low h _

end Low

/-- Every request is an access of the port. -/
theorem hostRequest_low {c : Instr} {p : BitVec 2} {s : State} (hc : hostPriv c = some p) (h : s.ports.rstLow = true) :
    exec c s = .next s := by
  cases c with
  | killCtx | fenceCore | unfenceCore | resetSector | scrubSector | resetEngine | resetPart =>
    exact congrArg Host.Outcome.next (orderRow_low h ..)
  | injectMessage | injectLocal | injectEcc => exact congrArg Host.Outcome.next (injectRow_low h ..)
  | pkgOpen | pkgClose | pkgAbort => exact congrArg Host.Outcome.next (pkgRow_low h ..)
  | programRoot | advance | genIdentity | installCert | programWrapped | setMinSeq | unlockChallenge | unlockResponse =>
    exact congrArg Host.Outcome.next (lcRow_low h ..)
  | hostBist | hostTestSession | pkgData | fuseProgram => exact congrArg Host.Outcome.next (testOrder_low h ..)
  | fcAck | keyload | snap => exact congrArg Host.Outcome.next (operatorWrite_low h ..)
  | watchGo | watchData => exact congrArg Host.Outcome.next (tenantWatch_low h ..)
  | sarData | certData | provOut | dumpKey | hostBarrierArrive | tokenPresent | sarGo =>
    exact congrArg Host.Outcome.next (hrp_low h _)
  | registerWrite => exact congrArg Host.Outcome.next (registerWrite_low h ..)
  | registerRead => exact congrArg Host.Outcome.next (registerRead_low h ..)
  | dumpGo x =>
    cases x with
    | host priv w => exact congrArg Host.Outcome.next (operatorWrite_low h priv (dumpWrite w))
    | fault | partHang => cases hc
  | _ => cases hc

/-- Settles O59: every request is an access of the port, which does nothing while RST_N is low. -/
theorem portSilentInReset : Obligations.PortSilentInReset := fun _ _ _ hc h => hostRequest_low hc h

/-! ### Privilege -/

theorem debugAllowed_iff (s : State) : debugAllowed s = true ↔ (s.sec.lc = 1 ∨ s.sec.lc = 4) ∧ s.sec.unlocked = true := by
  unfold debugAllowed testState
  simp only [Bool.and_eq_true, Bool.or_eq_true, decide_eq_true_eq]
  exact Iff.rfl

/-- Settles O55: the definition of the right, and the cold state after RST_N. -/
theorem privilegesAccepted : Obligations.PrivilegesAccepted := by
  intro s
  have hdebug : isOperator s 2 = debugAllowed s := rfl
  exact ⟨rfl, rfl, rfl, hdebug ▸ (debugAllowed_iff s).trans and_comm, _, rfl, rfl⟩

/-- What a refused access does: the refusal is counted, and told once per slow round (R459). -/
theorem denied_eq (priv : BitVec 2) (s : State) : denied priv s =
    if s.sec.deniedSeen = true ∧ ¬(priv = 2 ∧ s.sec.lc = lcDEPLOYED) then answer hsDENIED 0 (bump 1088 1 s)
    else secReport 0xA1 ((answer hsDENIED 0 (bump 1088 1 s)).mSec fun x => { x with deniedSeen := true }) := by
  have htell : (!s.sec.deniedSeen || (decide (priv = 2) && decide (s.sec.lc = lcDEPLOYED))) = true ↔
      ¬(s.sec.deniedSeen = true ∧ ¬(priv = 2 ∧ s.sec.lc = lcDEPLOYED)) := by
    rw [not_and_not_right]
    cases s.sec.deniedSeen <;> simp
  unfold denied
  dsimp only
  rw [if_congr htell rfl rfl, ite_not]

theorem readBasic_denied {priv : BitVec 2} {a : Nat} {s : State} (hreg : (basicReg s a).isNone = false)
    (hword : (wordReg priv a s).isNone = true) (hright : mayRead s priv a = false) : readBasic priv a s = denied priv s := by
  obtain ⟨v, hv⟩ := Option.isSome_iff_exists.mp (Option.isNone_eq_false_iff.mp hreg)
  unfold readBasic
  rw [hv, Option.isNone_iff_eq_none.mp hword]
  exact if_neg (ne_true_of_eq_false hright)

theorem writeBasic_denied {priv : BitVec 2} {a : Nat} {w : W64} {s : State} (hreg : (basicReg s a).isNone = false)
    (horder : orderReg priv a w s = none) (hright : mayWrite s priv a = false) : writeBasic priv a w s = denied priv s := by
  unfold writeBasic
  rw [if_neg (ne_true_of_eq_false hreg), horder]
  exact if_neg (ne_true_of_eq_false hright)

/-- Settles O54: each refused access ends in `denied`. -/
theorem refusedRequestsHaveNoEffect : Obligations.RefusedRequestsHaveNoEffect := by
  intro priv addr race w s hup haddr hreg
  dsimp only
  rw [← denied_eq priv s]
  refine ⟨?read, ?write, ?orders, ans_denied priv s, steady_denied priv s, same_denied priv s⟩
  case read =>
    intro hright hword
    refine congrArg Host.Outcome.next ?_
    unfold registerRead
    rw [hrp_up _ hup, if_pos haddr, readBasic_denied hreg hword hright]
  case write =>
    intro hright horder
    refine congrArg Host.Outcome.next ?_
    unfold registerWrite
    rw [hrp_up _ hup, if_pos haddr, writeBasic_denied hreg horder hright]
  case orders =>
    intro hright
    refine ⟨congrArg Host.Outcome.next ?_, congrArg Host.Outcome.next ?_⟩
    · rw [operatorWrite_denied _ hright, hrp_up _ hup]
    · exact (hrp_up _ hup).trans (if_neg (ne_true_of_eq_false hright))

/-! ### The Mesh Attach ports -/

theorem exec_ingress {c : Instr} {p : Ingress} (hc : ingressOf c = some p) :
    ∃ kind sub f, ∀ s, exec c s = .next (ingress kind sub p f s) := by
  cases c with
  | planOpen | planData | planRetire | digest | perim | capture | stepDone | settleReply | event | testReply | bitmap
  | commitAck | tackRsp =>
    cases hc
    exact ⟨_, _, _, fun _ => rfl⟩
  | _ => cases hc

/-- Settles O58: every ingress command passes the checks of its port first. -/
theorem badPacketsDiscarded : Obligations.BadPacketsDiscarded := by
  refine ⟨fun c p s hc => ?ingress, fun p s hup hkind => ?noKind⟩
  case ingress =>
    obtain ⟨kind, sub, f, hexec⟩ := exec_ingress hc
    rw [hexec]
    refine ⟨fun hdown => congrArg Host.Outcome.next ?_, fun hup hbad => congrArg Host.Outcome.next ?_⟩
    · unfold ingress
      rw [hdown]
      rfl
    · unfold ingress
      rw [hup, hbad]
      rfl
  case noKind => exact congrArg Host.Outcome.next (if_pos ⟨hup, hkind⟩)

/-! ### The TAP -/

theorem tapInstruction_other {x : Option (BitVec 2)} {s : State} (h : debugAllowed s = true) :
    tapInstruction (.other x) s = match x with
      | some a => (eraseArray a.toNat s).mPorts fun p => { p with tap := .other (some a) }
      | none => s.mPorts fun p => { p with tap := .other none } := by
  unfold tapInstruction
  dsimp only
  rw [if_neg (not_not.mpr h)]
  cases x <;> rfl

/-- Settles O56: a clause for the three instructions that are free, for a refusal, and for each kind of another one. -/
theorem tapGuardsItsInstructions : Obligations.TapGuardsItsInstructions := by
  refine ⟨?free, ?refused, ?plain, ?erasing⟩
  case free =>
    rintro op s (rfl | rfl | rfl)
    all_goals rfl
  case refused =>
    intro x s h
    exact congrArg Host.Outcome.next (if_pos (mt (debugAllowed_iff s).mp h))
  case plain =>
    intro s hlc hunlocked
    exact congrArg Host.Outcome.next (tapInstruction_other ((debugAllowed_iff s).mpr ⟨hlc, hunlocked⟩))
  case erasing =>
    intro a s hlc hunlocked
    have hout := tapInstruction_other (x := some a) ((debugAllowed_iff s).mpr ⟨hlc, hunlocked⟩)
    refine ⟨_, congrArg Host.Outcome.next hout, rfl, ?_, ?_, ?_, ?_, hout ▸ same_tapInstruction _ s⟩
    all_goals exact if_congr (by rw [← BitVec.toNat_inj]; rfl) rfl rfl

/-! ### Triggers of a dump -/

theorem dumpStart_merged {s : State} (hon : obOn s = true) (hrun : s.ob.dumpState = dsRUNNING) :
    dumpStart s = bump 1157 1 s := by
  unfold dumpStart
  rw [if_neg (not_not.mpr hon), if_pos hrun]

/-- Settles O57: each trigger comes to `dumpStart`. -/
theorem dumpTriggersStart : Obligations.DumpTriggersStart := by
  refine ⟨?host, ?fault, ?hang⟩
  case host =>
    intro priv w s hup hright hhost hgo hon
    have hout : exec (.dumpGo (.host priv w)) s = .next (dumpStart (answer hsOK 0 s)) :=
      congrArg Host.Outcome.next ((operatorWrite_allowed (dumpWrite w) hup hright).trans (if_pos hgo))
    rw [hout, answer_ok hsOK 0 hhost]
    exact ⟨fun hidle => ⟨_, rfl, dumpStart_ob (s := s.mPorts _) hon hidle⟩,
      fun hrun => congrArg Host.Outcome.next (dumpStart_merged (s := s.mPorts _) hon hrun)⟩
  case fault =>
    intro s hfault hon
    have hout : exec (.dumpGo .fault) s = .next (dumpStart s) := congrArg Host.Outcome.next (if_pos hfault)
    rw [hout]
    exact ⟨fun hidle => ⟨_, rfl, dumpStart_ob hon hidle⟩, fun hrun => congrArg Host.Outcome.next (dumpStart_merged hon hrun)⟩
  case hang =>
    intro s hheld hon
    have hout : exec (.dumpGo .partHang) s = .next (dumpStart s) := congrArg Host.Outcome.next (if_pos hheld)
    rw [hout]
    exact ⟨fun hidle => ⟨_, rfl, dumpStart_ob hon hidle⟩, fun hrun => congrArg Host.Outcome.next (dumpStart_merged hon hrun)⟩

end Sys2Proof.Machine
end

section
/-!
Observability, power and sensors: snapshots and watches (R483, R492), power domains (R437 to R441), the slow round, the
channels and alerts (R442 to R444).
-/
namespace Sys2Proof.Machine

/-! ### Snapshots and watches -/

/-- A tenant bound to a context reaches its own Watch block. -/
theorem tenantWatch_bound {c : Nat} {s : State} (f : Nat → State → State) (hup : s.ports.rstLow = false)
    (hbound : s.sec.bound = some c) : tenantWatch 0 f s = f c s := by
  unfold tenantWatch
  rw [hrp_up _ hup, hbound]
  rfl

theorem watchWrite_go {c : Nat} {w : W64} {s : State} (hon : obOn s = true) (hgo : bit w 63 = true) :
    watchWrite c w s = s.mOb fun o =>
      { o with watch := (o.watch.filter fun y => y.ctx ≠ c) ++ [Watch.empty c (fld w 62 51) (some (fld w 62 51))] } := by
  unfold watchWrite
  dsimp only
  rw [if_neg (not_not.mpr hon), if_pos hgo]

theorem watchNext_on {c : Nat} {x : Watch} {s : State} (hon : obOn s = true) (hwatch : watchOf s c = some x) :
    watchNext c s = answer hsOK (watchWord x x.pos) (s.mOb fun o =>
      { o with watch := o.watch.map fun y => if y.ctx = c then { y with pos := (y.pos + 1) % 4 } else y }) := by
  unfold watchNext
  rw [hwatch]
  exact if_neg (not_not.mpr hon)

/-- Settles O38: both snapshots come to `snapNow`, and a tenant's orders to its own Watch block. -/
theorem countersSnapAndWatch : Obligations.CountersSnapAndWatch := by
  refine ⟨?order, ?period, ?watchGo, ?watchData⟩
  case order =>
    intro priv w s hup hright hhost hgo hon
    refine ⟨_, congrArg Host.Outcome.next (operatorWrite_allowed (snapWrite w) hup hright), ?_⟩
    rw [answer_ok hsOK 0 hhost]
    unfold snapWrite
    rw [if_pos ⟨hgo, hon⟩]
    exact snapNow_ob _
  case period =>
    intro s hperiod hon
    exact ⟨_, congrArg Host.Outcome.next (if_pos ⟨hperiod, hon⟩), snapNow_ob s⟩
  case watchGo =>
    intro w s c hup hbound hhost hon hgo
    refine ⟨_, congrArg Host.Outcome.next (tenantWatch_bound _ hup hbound), ?_⟩
    rw [answer_ok hsOK 0 hhost, watchWrite_go (s := s.mPorts _) hon hgo]
    rfl
  case watchData =>
    intro s c x hup hbound hhost hon hwatch
    refine ⟨_, congrArg Host.Outcome.next ((tenantWatch_bound _ hup hbound).trans (watchNext_on hon hwatch)), ?_⟩
    rw [answer_ok hsOK (watchWord x x.pos) (s := s.mOb _) hhost]
    exact ⟨rfl, rfl⟩

/-! ### Power domains -/

theorem requestDomain_off {d : Nat} {s : State} (hoff : domainOf s d = .off) (hgood : domainFailed s d = false) :
    requestDomain d s = setDomain d .poweringUp s := by
  unfold requestDomain
  rw [hoff]
  exact if_neg (ne_true_of_eq_false hgood)

theorem requestDomain_shuttingDown {d : Nat} {s : State} (hdown : domainOf s d = .shuttingDown)
    (hnew : bit s.ts.pending d = false) :
    requestDomain d s = bump 1052 1 (s.mTs fun t => { t with pending := t.pending ||| (1#24 <<< d) }) := by
  unfold requestDomain
  rw [hdown]
  exact if_neg (ne_true_of_eq_false hnew)

theorem domainPowerRequest_allowed {d : Nat} {s : State} (hd : d < 24) (hmay : domainMay s d = true)
    (hup : s.ports.rstLow = false) : domainPowerRequest d s = requestDomain d s :=
  if_pos ⟨hd, hmay, ne_true_of_eq_false hup⟩

/-- Good power of a domain of FR, HX or OB needs no further step. -/
theorem powerGood_plain {d : Nat} {s : State} (hd : 20 < d) (hst : domainOf s d = .poweringUp) :
    powerGood d s = setDomain d .on (bump (1028 + d) 1 s) := by
  unfold powerGood
  rw [if_neg (not_not.mpr hst)]
  dsimp only
  rw [if_neg (by omega), if_neg (by omega), if_neg (by omega)]

/-- Good power of a shed begins its zero fill. -/
theorem powerGood_shed {d : Nat} {s : State} (hlo : 16 ≤ d) (hhi : d < 20) (hst : domainOf s d = .poweringUp) :
    powerGood d s = setShed (d - 16) .init ((bump (1028 + d) 1 s).mMem fun m =>
      { m with loft := Mem.zero m.loft (slotAddr (6144 * (d - 16))) (2048 * 6144),
               tags := m.tags.filter fun t => shedOf t.1 ≠ d - 16 }) := by
  unfold powerGood
  rw [if_neg (not_not.mpr hst)]
  dsimp only
  rw [if_neg (by omega), if_pos hhi]

/-- A failure of FR or OB takes only the domain. -/
theorem domainTimeout_plain {d : Nat} {s : State} (hd : d = 21 ∨ d = 23) (hst : domainOf s d = .poweringUp) :
    domainTimeout d s =
      reportUnit uTS 0x98 0 none (domainHuid d) (setDomain d .off (s.mTs fun t => { t with failed := t.failed ||| (1#24 <<< d) })) := by
  unfold domainTimeout
  rw [if_neg (not_not.mpr hst)]
  dsimp only
  rw [if_neg (by omega), if_neg (by omega), if_neg (by omega), if_neg (by omega), if_neg (by omega)]

/-- A domain of FR, HX or OB that nothing needs goes off at once. -/
theorem domainShutdown_plain {d : Nat} {s : State} (hlo : 20 < d) (hhi : d < 24) (hup : s.ports.rstLow = false)
    (hon : domainOf s d = .on) (hidle : domainNeeded s d = false) : domainShutdown d s = domainOff d s := by
  unfold domainShutdown
  rw [if_neg (by rw [hup]; simp; omega), if_neg (by omega), if_neg (by rw [hon]; decide),
    if_neg (by rw [hon, hidle]; decide), if_neg (by omega), if_neg (by omega)]

theorem domainOff_off {d : Nat} {s : State} (hd : d < s.ts.domains.length) (hnone : bit s.ts.pending d = false) :
    domainOf (domainOff d s) d = .off := by
  unfold domainOff
  dsimp only
  rw [hnone]
  exact domainOf_setDomain (s := s.mTs _) .off hd

/-- Settles O32: a clause for each move of a domain. -/
theorem powerDomainsMove : Obligations.PowerDomainsMove := by
  refine ⟨?request, ?note, ?good, ?shed, ?fail, ?shutdown⟩
  case request =>
    intro d s hd hlen hup hmay hoff hgood
    refine ⟨_, congrArg Host.Outcome.next ((domainPowerRequest_allowed hd hmay hup).trans (requestDomain_off hoff hgood)), ?_⟩
    exact domainOf_setDomain _ (hlen ▸ hd)
  case note =>
    intro d s hd hup hmay hdown hnew
    refine ⟨_, congrArg Host.Outcome.next
      ((domainPowerRequest_allowed hd hmay hup).trans (requestDomain_shuttingDown hdown hnew)), ?_⟩
    exact (same_bump ..).ts (by decide)
  case good =>
    intro d s hlo hhi hlen hst
    refine ⟨_, congrArg Host.Outcome.next (powerGood_plain hlo hst), domainOf_setDomain _ ?_⟩
    rw [(same_bump ..).ts (by decide), hlen]
    exact hhi
  case shed =>
    intro d s hlo hhi hlen hst
    have hmem : (bump (1028 + d.toNat) 1 s).mem = s.mem := (same_bump ..).mem (by decide)
    refine ⟨_, congrArg Host.Outcome.next (powerGood_shed hlo hhi hst), ?state, ?loft, ?tags⟩
    case state =>
      refine shedState_setShed .init ?_
      rw [State.mMem_mem, hmem]
      exact hlen
    all_goals
      unfold setShed
      rw [(same_stateChanged ..).mem (by decide), State.mMem_mem, State.mMem_mem, hmem]
  case fail =>
    intro d s hd hlen hst
    refine ⟨_, congrArg Host.Outcome.next (domainTimeout_plain hd hst), ?_⟩
    exact (same_reportUnit ..).ts (by decide)
  case shutdown =>
    intro d s hlo hhi hup hlen hon hidle hnone
    refine ⟨_, congrArg Host.Outcome.next (domainShutdown_plain hlo hhi hup hon hidle), ?_⟩
    exact domainOff_off (hlen ▸ hhi) hnone

/-! ### The slow round -/

/-- Sessions that a failing test condition ends leave TS as it is. -/
theorem voidSessions_ts (s : State) :
    (if testConditions s = true ∨ s.fr.sessions.isEmpty = true then s
      else voidSessionsWhere (fun _ => true) (frWindow s)).ts = s.ts := by
  rw [apply_ite State.ts, (same_voidSessionsWhere ..).ts (by decide), (same_frWindow ..).ts (by decide), ite_self]

theorem killWhenDue_ts (s : State) :
    (if windowsHold s = true ∧ s.nv.otp.killDue = true then killSeed s else s).ts = s.ts := by
  rw [apply_ite State.ts, (same_killSeed ..).ts (by decide), ite_self]

theorem slowRound_counts {s : State} (hvalid : s.cfg.valid = true) (hup : s.ports.rstLow = false) :
    (slowRound s).ts.rounds = s.ts.rounds + 1 ∧ (slowRound s).ts.firstRound = true := by
  have hrun : ¬(¬s.cfg.valid = true ∨ s.ports.rstLow = true) := by rw [hvalid, hup]; decide
  unfold slowRound
  rw [if_neg hrun]
  dsimp only
  rw [killWhenDue_ts, (same_pkgResume ..).ts (by decide), (same_sbFlush ..).ts (by decide), voidSessions_ts,
    (same_coolQueues ..).ts (by decide), (same_bump ..).ts (by decide)]
  refine ⟨?_, rfl⟩
  rw [State.mSec_ts, State.mTs_ts, State.mTs_ts]
  dsimp only
  rw [nodeRounds _ _ _ _ fun u => !u.ts.firstRound, siliconPower_ts, coolant_rounds]

/-! ### Channels and alerts -/

/-- A reading of a channel that TS may read, other than the input voltage, is only stored. -/
theorem pmbRead_value {n : Nat} {r : BitVec 16} {s : State} {c : ChanT} (hc : chanT s n = some c) (hkind : c.kind < 8)
    (hvin : c.kind ≠ 0) : pmbRead n (some r) s =
      s.mChan n fun x => { x with value := (channelValue c r * 1024).floor, stale := false, fails := 0, ever := true } := by
  unfold pmbRead
  rw [hc]
  dsimp only
  rw [if_neg (Nat.not_le.mpr hkind), if_neg fun h => hvin h.1]

theorem pmbRead_failed {n : Nat} {s : State} {c : ChanT} (hc : chanT s n = some c) (hkind : c.kind < 8) :
    (pmbRead n none s).ts = (s.mChan n fun x =>
      { x with stale := true, fails := ((s.ts.chans[n]?).map (·.fails)).getD 0 + 1 }).ts := by
  unfold pmbRead
  rw [hc]
  dsimp only
  rw [if_neg (Nat.not_le.mpr hkind), apply_ite State.ts, (same_reportSelf ..).ts (by decide), ite_self,
    (same_bump ..).ts (by decide)]

/-- Settles O33: the round, a reading, a failed one, and an alert. -/
theorem sensorsReadEachRound : Obligations.SensorsReadEachRound := by
  refine ⟨?round, ?value, ?failed, ?alert⟩
  case round => exact fun s hvalid hup => ⟨_, rfl, slowRound_counts hvalid hup⟩
  case value => exact fun chan raw s c hc hkind hvin => ⟨_, rfl, pmbRead_value hc hkind hvin⟩
  case failed => exact fun chan s c hc hkind => ⟨_, rfl, pmbRead_failed hc hkind⟩
  case alert =>
    intro addr status s hvalid
    refine ⟨_, congrArg Host.Outcome.next (if_neg (not_not.mpr hvalid)), ?_⟩
    rw [(same_reportSelf ..).ts (by decide), (same_bump ..).ts (by decide)]
    rfl

end Sys2Proof.Machine
end

section
/-!
Tests and packages: the array self-test and the fuses (R384 to R392), and Pattern Packages (R399, R400).
-/
namespace Sys2Proof.Machine

/-- A test order with the right, where R380 allows it, is answered and then carried out. -/
theorem testOrder_allowed {allowed : Bool} {priv : BitVec 2} {s : State} (f : State → State) (hup : s.ports.rstLow = false)
    (hright : isOperator s priv = true) (hallowed : allowed = true) : testOrder allowed priv f s = f (answer hsOK 0 s) :=
  (operatorWrite_allowed _ hup hright).trans (if_pos hallowed)

theorem pkgRow_allowed {op : Nat} {priv : BitVec 2} {w : W64} {s : State} (f : State → State) (hup : s.ports.rstLow = false)
    (hright : isOperator s priv = true) (hop : fld w 63 62 = op) (hallowed : pkgAllowed s priv = true) :
    pkgRow op priv w f s = f (answer hsOK 0 s) :=
  (if_pos hop).trans (testOrder_allowed f hup hright hallowed)

/-! ### The self-test of the arrays and the fuses -/

/-- What a BIST order needs, besides that no plan is there. -/
theorem hostBist_accepts {w : W64} {s : State} (hgo : bit w 63 = true) (hscope : fld w 62 60 < 4) (hrepair : fld w 59 58 < 2)
    (hidle : s.fr.bistStatus ≠ bsRUNNING) (hgood : domainFailed s 21 = false) :
    hostBist w s = if ¬s.led.plans.isEmpty ∨ s.led.staging.isSome then s.mFr fun f => { f with bistStatus := bsBUSY }
      else (zeroArrays (fld w 62 60) (requestDomain 21 s)).mFr fun f =>
        { f with bistStatus := bsRUNNING, bistScope := fld w 62 60, bistSoft := decide (fld w 59 58 = 1) } := by
  unfold hostBist
  dsimp only
  refine if_neg ?_
  rw [hgo, hgood]
  rintro (h | h | h | h | h)
  · exact h rfl
  · omega
  · omega
  · exact hidle h
  · cases h

theorem bistDone_passes {fails dead : List FailEntry} {s : State} (hrun : s.fr.bistStatus = bsRUNNING)
    (hcond : testConditions s = true) (hclean : failRows (fails.filter fun e => inScope s.fr.bistScope e.array.toNat) = []) :
    (bistDone fails dead s).fr.bistStatus = bsPASS := by
  unfold bistDone
  rw [if_neg (not_not.mpr hrun), if_neg (not_not.mpr hcond)]
  dsimp only
  rw [State.mFr_fr, hclean]
  rfl

/-- The status and the count of a fuse order follow from the fuses blown. -/
theorem fuseProgram_counts {w : W64} {ok : List Bool} {s : State} (hgo : bit w 63 = true) (hwindows : windowsHold s = true) :
    (fuseProgram w ok s).fr.fuseDone = (fuseProgram w ok s).nv.fuses.length - s.nv.fuses.length ∧
      (fuseProgram w ok s).fr.fuseStatus =
        if (fuseProgram w ok s).fr.fuseDone = (s.mem.rowMaps.filter fun m => m.origin ≠ 3).length then 2 else 4 := by
  unfold fuseProgram
  rw [if_neg (not_not.mpr hgo), if_neg (not_not.mpr hwindows)]
  dsimp only
  rw [State.mFr_fr, State.mFr_nv, List.length_zipIdx]
  exact ⟨rfl, rfl⟩

/-- Settles O26: the start of a self-test, its refusal, its end, and the fuses. -/
theorem arraysTestedAndFused : Obligations.ArraysTestedAndFused := by
  refine ⟨?start, ?busy, ?pass, ?fuses⟩
  case start =>
    intro priv w s hup hright hhost haccess hgo hscope hrepair hidle hgood hplans hstaging
    refine ⟨_, congrArg Host.Outcome.next (testOrder_allowed _ hup hright haccess), ?_⟩
    rw [answer_ok hsOK 0 hhost, hostBist_accepts (s := s.mPorts _) hgo hscope hrepair hidle hgood, State.mPorts_led, hplans,
      hstaging]
    exact ⟨rfl, rfl, rfl⟩
  case busy =>
    intro priv w s hup hright hhost haccess hgo hscope hrepair hidle hgood hplans
    refine ⟨_, congrArg Host.Outcome.next (testOrder_allowed _ hup hright haccess), ?_⟩
    rw [answer_ok hsOK 0 hhost, hostBist_accepts (s := s.mPorts _) hgo hscope hrepair hidle hgood, State.mPorts_led,
      if_pos (Or.inl (mt List.isEmpty_iff.mp hplans))]
    exact ⟨rfl, rfl⟩
  case pass => exact fun fails dead s hrun hcond hclean => ⟨_, rfl, bistDone_passes hrun hcond hclean⟩
  case fuses =>
    intro priv w ok s hup hright hhost hlc hgo hwindows
    refine ⟨_, congrArg Host.Outcome.next (testOrder_allowed _ hup hright (decide_eq_true hlc)), ?_⟩
    rw [answer_ok hsOK 0 hhost]
    exact fuseProgram_counts (s := s.mPorts _) hgo hwindows

/-! ### The load of a package -/

/-- A package that fits starts an empty load. -/
theorem pkgStart_receives {len : Nat} {s : State} (hidle : pkgBusy s = false)
    (hbank : (s.fr.sessions.any fun x => x.bank ≠ s.nv.selector) = false) (hgood : domainFailed s 21 = false)
    (hfree : engineHeld s uFR 0 = false) (hroom : len ≤ bankRoom s) :
    (pkgStart len s).fr = { s.fr with pkgState := pkRECEIVING, pkgCode := 0, pkgBytes := [], pkgLen := len, pkgReceived := 0 } := by
  have hcfg : ∀ f, ((requestDomain 21 s).mPkg f).cfg = s.cfg := fun f =>
    ((same_mPkg ..).cfg (by decide)).trans ((same_requestDomain ..).cfg (by decide))
  have hfits : ∀ f, ¬bankRoom ((requestDomain 21 s).mPkg f) < len := by
    intro f
    unfold bankRoom at hroom ⊢
    rw [hcfg]
    exact Nat.not_lt.mpr hroom
  unfold pkgStart
  rw [if_neg (by rw [hidle, hbank, hgood, hfree]; decide)]
  dsimp only
  rw [if_neg (hfits _), pkgBytes_mPkg, (same_requestDomain ..).fr (by decide)]

/-- A whole word of a load inside the windows is kept. -/
theorem pkgWord_appends {w : W64} {s : State} (hrecv : s.fr.pkgState = pkRECEIVING) (hleft : s.fr.pkgReceived + 8 ≤ s.fr.pkgLen)
    (hwindows : windowsHold s = true) : (pkgWord w s).fr =
      { s.fr with pkgState := pkRECEIVING, pkgBytes := s.fr.pkgBytes ++ leBytes 8 w.toNat, pkgReceived := s.fr.pkgReceived + 8 } := by
  have hn : min 8 (s.fr.pkgLen - s.fr.pkgReceived) = 8 := by omega
  unfold pkgWord
  rw [if_neg fun h => h.1 hrecv]
  dsimp only
  rw [hn, if_neg (by decide), if_neg fun h => h.2 hwindows, (same_pkgProgram ..).fr (by decide), pkgBytes_mPkg]

theorem pkgClose_verifies {s : State} (h : s.fr.pkgState = pkRECEIVING ∨ s.fr.pkgState = pkWAIT) :
    (pkgClose s).fr = { s.fr with pkgState := pkVERIFYING } := by
  unfold pkgClose
  rw [if_pos h, pkgBytes_mPkg]

theorem pkgAbort_ends {s : State} (h : pkgBusy s = true) : (pkgAbort s).fr = { s.fr with pkgState := pkIDLE } := by
  unfold pkgAbort
  rw [if_pos h, pkgBytes_mPkg]

/-! ### Verification -/

theorem pkgReject_fr (code : Nat) (s : State) : (pkgReject code s).fr = { s.fr with pkgState := pkDONE, pkgCode := code } := by
  unfold pkgReject
  dsimp only
  rw [apply_ite State.fr, (same_reportSelf ..).fr (by decide), ite_self, (same_bump ..).fr (by decide), pkgBytes_mPkg]

theorem pkgReject_nv (code : Nat) (s : State) : (pkgReject code s).nv = s.nv := (same_pkgReject ..).nv (by decide)

theorem setBank_selects (b : Bool) (x : Bank) (s : State) : (setBank b x s).nv.selector = s.nv.selector ∧
    bankNo (setBank b x s) b = x ∧ bankNo (setBank b x s) (!b) = bankNo s (!b) := by
  cases b <;> exact ⟨rfl, rfl, rfl⟩

theorem bankNo_of_steady {s t : State} (h : Steady s t) (b : Bool) : bankNo t b = bankNo s b :=
  congrArg (fun r : Root => if b then r.bankB else r.bankA) h.root

/-- What an installation does after the bank and the selector are written keeps them: the reproductions join the pattern
list, and the Node Leader passes the package on. -/
theorem pkgInstall_steady (b : Bank) (repros : List (BitVec 512)) (s : State) :
    Steady ((setBank (!s.nv.selector) b s).mNv fun v => { v with selector := !v.selector }) (pkgInstall b repros s) := by
  unfold pkgInstall
  dsimp only
  have hjoin (f : Fr → Fr) (u : State) :
      Steady u (repros.foldl (fun s r => addPackagePattern r s) (bump 908 1 (u.mPkg f))) :=
    ((steady_mPkg f u).trans (steady_bump ..)).trans (steady_foldl _ (fun s r => steady_addPackagePattern r s) _ _)
  split
  · exact (hjoin ..).trans (steady_foldl _ (fun u d => steady_sendBulk d 2 s.fr.pkgBytes u) _ _)
  · exact hjoin ..

theorem pkgInstall_fr (b : Bank) (repros : List (BitVec 512)) (s : State) :
    (pkgInstall b repros s).fr = { s.fr with pkgState := pkDONE, pkgCode := 0, bankOk := true, bankChecked := true } := by
  unfold pkgInstall
  dsimp only
  rw [apply_ite State.fr, foldl_keeps State.fr fun _ _ => (same_sendBulk ..).fr (by decide), ite_self,
    foldl_keeps State.fr fun _ _ => (same_addPackagePattern ..).fr (by decide), (same_bump ..).fr (by decide), pkgBytes_mPkg,
    State.mNv_fr, (same_setBank ..).fr (by decide)]

/-- The other bank holds the package and is the active one now; the bank that was active is as it was. -/
theorem pkgInstall_banks (b : Bank) (repros : List (BitVec 512)) (s : State) :
    (pkgInstall b repros s).nv.selector = !s.nv.selector ∧ bankNo (pkgInstall b repros s) (!s.nv.selector) = b ∧
      bankNo (pkgInstall b repros s) s.nv.selector = bankNo s s.nv.selector := by
  have hrest := pkgInstall_steady b repros s
  obtain ⟨hsel, hnew, hold⟩ := setBank_selects (!s.nv.selector) b s
  rw [Bool.not_not] at hold
  refine ⟨(congrArg Root.selector hrest.root).trans (congrArg not hsel), ?_, ?_⟩
  · exact (bankNo_of_steady hrest _).trans hnew
  · exact (bankNo_of_steady hrest _).trans hold

theorem pkgVerify_unread {s : State} (h : s.fr.pkgState = pkVERIFYING) : pkgVerify false s = pkgReject 5 s := by
  unfold pkgVerify
  rw [if_neg (not_not.mpr h)]
  exact if_pos Bool.false_ne_true

theorem pkgVerify_unsigned {s : State} (h : s.fr.pkgState = pkVERIFYING)
    (hsig : Config.ecdsaVerify s.nv.otp.patKey (Config.sha384 (Config.packageSigned s.fr.pkgBytes).1)
      (Config.packageSigned s.fr.pkgBytes).2 = false) : pkgVerify true s = pkgReject 1 s := by
  unfold pkgVerify
  rw [if_neg (not_not.mpr h)]
  dsimp only
  rw [if_neg (not_not.mpr rfl), if_pos (ne_true_of_eq_false hsig)]

/-- A verification that reads the package back ends in a rejection, or installs it. -/
theorem pkgVerify_ends {s : State} (h : s.fr.pkgState = pkVERIFYING) :
    (∃ code, pkgVerify true s = pkgReject code s) ∨ ∃ b repros, pkgVerify true s = pkgInstall b repros s := by
  unfold pkgVerify
  rw [if_neg (not_not.mpr h)]
  dsimp only
  rw [if_neg (not_not.mpr rfl)]
  split
  · exact .inl ⟨1, rfl⟩
  · split
    · exact .inl ⟨2, rfl⟩
    · split
      · exact .inl ⟨2, rfl⟩
      · split
        · exact .inl ⟨3, rfl⟩
        · exact .inr ⟨_, _, rfl⟩

/-- A signed, whole and newer package is installed. -/
theorem pkgVerify_installs {s : State} {seq cat : Nat} {kT : W128} {descs blocks repros} (h : s.fr.pkgState = pkVERIFYING)
    (hsig : Config.ecdsaVerify s.nv.otp.patKey (Config.sha384 (Config.packageSigned s.fr.pkgBytes).1)
      (Config.packageSigned s.fr.pkgBytes).2 = true) (hwhole : s.fr.pkgReceived = s.fr.pkgLen)
    (hcontent : Config.packageContent s.fr.pkgBytes = some (seq, cat, kT, descs, blocks, repros))
    (hnewer : (bankNo s s.nv.selector).installed = true → (bankNo s s.nv.selector).pkgSeq < seq) :
    pkgVerify true s = pkgInstall ⟨true, seq, cat, kT, descs, repros, blocks, s.fr.pkgBytes⟩ repros s := by
  unfold pkgVerify
  rw [if_neg (not_not.mpr h)]
  dsimp only
  rw [if_neg (not_not.mpr rfl), if_neg (not_not.mpr hsig), if_neg (not_not.mpr hwhole), hcontent]
  exact if_neg fun hold => Nat.not_le.mpr (hnewer hold.1) hold.2

/-- Settles O28: the orders of a load, and each end of its verification. -/
theorem patternPackagesInstall : Obligations.PatternPackagesInstall := by
  refine ⟨?opens, ?data, ?close, ?abort, ?verify, ?unread⟩
  case opens =>
    intro priv w s hup hright hhost hop hallowed hidle hbank hgood hfree hroom
    refine ⟨_, congrArg Host.Outcome.next (pkgRow_allowed _ hup hright hop hallowed), ?_⟩
    rw [answer_ok hsOK 0 hhost, pkgStart_receives (s := s.mPorts _) hidle hbank hgood ?free hroom]
    · exact ⟨rfl, rfl, rfl, rfl, rfl⟩
    case free => exact hfree
  case data =>
    intro priv w s hup hright hhost hallowed hrecv hleft hwindows
    refine ⟨_, congrArg Host.Outcome.next (testOrder_allowed _ hup hright hallowed), ?_⟩
    rw [answer_ok hsOK 0 hhost, pkgWord_appends (s := s.mPorts _) hrecv hleft hwindows]
    exact ⟨rfl, rfl, rfl⟩
  case close =>
    intro priv w s hup hright hhost hop hallowed hopen
    refine ⟨_, congrArg Host.Outcome.next (pkgRow_allowed _ hup hright hop hallowed), ?_⟩
    rw [answer_ok hsOK 0 hhost]
    exact pkgClose_verifies (s := s.mPorts _) hopen
  case abort =>
    intro priv w s hup hright hhost hop hallowed hbusy
    refine ⟨_, congrArg Host.Outcome.next (pkgRow_allowed _ hup hright hop hallowed), ?_⟩
    rw [answer_ok hsOK 0 hhost]
    exact pkgAbort_ends (s := s.mPorts _) hbusy
  case verify =>
    intro s h
    refine ⟨_, rfl, ?done, fun hsig => ?unsigned, fun seq cat kT descs blocks repros hsig hwhole hcontent hnewer => ?newer⟩
    case done =>
      obtain ⟨code, hend⟩ | ⟨b, repros, hend⟩ := pkgVerify_ends h
      · rw [hend, pkgReject_fr]
      · rw [hend, pkgInstall_fr]
    case unsigned =>
      rw [pkgVerify_unsigned h hsig, pkgReject_fr, pkgReject_nv]
      exact ⟨rfl, rfl⟩
    case newer =>
      rw [pkgVerify_installs h hsig hwhole hcontent hnewer, pkgInstall_fr]
      exact ⟨rfl, pkgInstall_banks ..⟩
  case unread =>
    intro s h
    exact ⟨_, congrArg Host.Outcome.next (pkgVerify_unread h), pkgReject_fr 5 s, pkgReject_nv 5 s⟩

end Sys2Proof.Machine
end

section
/-!
The security unit: the orders of LC_CTRL (R455, R461, R466), the unlock and the key loads (R463), tokens, reports and the words
read one by one (R464 to R467, R476).
-/
namespace Sys2Proof.Machine

/-! ### Orders of LC_CTRL -/

/-- An order with its OP, GO and the right, once the life-cycle state is known, is answered and then carried out. -/
theorem lcRow_accepts {op : Nat} {priv : BitVec 2} {w : W64} {s : State} (f : State → State) (hup : s.ports.rstLow = false)
    (hright : isOperator s priv = true) (hhost : s.hx.hostOk = true) (hop : fld w 63 60 = op) (hgo : bit w 59 = true)
    (hknown : lcKnown s = true) : lcRow op priv w f s = f (answer hsOK 0 s) := by
  unfold lcRow
  rw [if_neg (not_not.mpr hop), operatorWrite_allowed _ hup hright, if_neg (not_not.mpr hgo), answer_ok hsOK 0 hhost]
  exact if_neg (not_not.mpr hknown)

/-- Inside the windows an order that programs OTP is done. -/
theorem otpOrder_programs {s : State} (f : State → State) (hvalid : s.cfg.valid = true) (hwindows : windowsHold s = true) :
    otpOrder f s = endOrder lsDONE (f s) := by
  unfold otpOrder otpWindow
  rw [if_pos hvalid]
  exact if_pos hwindows

theorem programRoot_accepts {s : State} (hvalid : s.cfg.valid = true) (hwindows : windowsHold s = true) (hblank : s.sec.lc = 0)
    (hnew : s.nv.otp.rootDone = false) (hlen : (wordBytes s.sec.provData).length = 296) :
    programRoot s = endOrder lsDONE (s.mOtp fun o => { o with
      rootDone := true
      imageKey := readKey ((wordBytes s.sec.provData).take 96)
      patKey := readKey (((wordBytes s.sec.provData).drop 96).take 96)
      dbgKey := readKey (((wordBytes s.sec.provData).drop 192).take 96)
      minSeq := BitVec.ofNat 32 (leAt (wordBytes s.sec.provData) 288 4) }) := by
  unfold programRoot
  dsimp only
  rw [if_neg (not_or_intro (not_not.mpr hblank) (ne_true_of_eq_false hnew)), if_neg (not_not.mpr hlen)]
  exact otpOrder_programs _ hvalid hwindows

/-- A state other than RETURN and DECOMMISSIONED applies no policy. -/
theorem advanceLc_accepts {target : Nat} {s : State} (hvalid : s.cfg.valid = true) (hwindows : windowsHold s = true)
    (hlock : secLocked s = false) (hmay : mayAdvance s target = true) (hreturn : target ≠ lcRETURN)
    (hdecom : target ≠ lcDECOMMISSIONED) : advanceLc target s =
      endOrder lsDONE ((s.mOtp fun o => { o with lc := target }).mSec fun x => { x with nextLc := target }) := by
  unfold advanceLc
  rw [if_neg fun h => ne_true_of_eq_false hlock h.1, if_neg (not_not.mpr hmay), otpOrder_programs _ hvalid hwindows]
  dsimp only
  rw [if_neg hreturn, if_neg hdecom]

theorem deriveIdentity_nv (s : State) : (deriveIdentity s).nv = s.nv := by
  unfold deriveIdentity
  split <;> rfl

/-- A new identity takes the first free seed field, with the next value of the generator. -/
theorem genIdentity_programs {i : Nat} {s : State} (hvalid : s.cfg.valid = true) (hwindows : windowsHold s = true)
    (hlc : s.sec.lc = lcFACTORY) (hfree : (s.nv.otp.seeds.findIdx? fun x => !x.programmed) = some i) :
    (genIdentity s).sec.lcStatus = lsDONE ∧ (genIdentity s).nv.otp.seeds =
      s.nv.otp.seeds.set i { programmed := true, killed := false, value := Config.trng s.draws } := by
  unfold genIdentity
  dsimp only
  rw [hfree]
  dsimp only
  rw [if_neg (not_not.mpr (by rw [hlc]; rfl)), otpOrder_programs _ hvalid hwindows]
  refine ⟨(endOrder_done _).1, ?_⟩
  rw [(endOrder_done _).2.2]
  exact congrArg (fun v : Nv => v.otp.seeds) (deriveIdentity_nv _)

theorem installCert_checks {s : State} (hkey : hasKey s 0xE0 = true) (hlc : s.sec.lc ≠ lcDECOMMISSIONED)
    (hsome : (wordBytes s.sec.provData).isEmpty = false) (hlen : (wordBytes s.sec.provData).length ≤ 8192) :
    installCert s = match Config.leafKey (wordBytes s.sec.provData) with
      | none => endOrder lsBAD s
      | some k =>
        if k = Config.publicKey (keySlot s 0xE0) then
          endOrder lsDONE ((identityBodies (wordBytes s.sec.provData)).foldl (fun s b => sbWrite sbIDENTITY b s) s)
        else endOrder lsVERIFY s := by
  unfold installCert
  dsimp only
  rw [if_neg (not_or_intro (not_not.mpr hkey) hlc),
    if_neg (not_or_intro (ne_true_of_eq_false hsome) (Nat.not_lt.mpr hlen))]
  cases Config.leafKey (wordBytes s.sec.provData) with
  | none => rfl
  | some k => exact ite_not ..

theorem programWrapped_programs {uds : BitVec 384} {s : State} (hvalid : s.cfg.valid = true) (hwindows : windowsHold s = true)
    (hseed : liveSeed s = some uds) (hlc : s.sec.lc = lcFACTORY) (hnew : s.nv.otp.wrapped = [])
    (hlen : (wordBytes s.sec.provData).length = 64) :
    (programWrapped s).sec.lcStatus = lsDONE ∧ (programWrapped s).nv.otp.wrapped = leBytes 12 (Config.trng s.draws).toNat ++
      gcmSeal (wrapKey uds) (leBytes 12 (Config.trng s.draws).toNat) [] (wordBytes s.sec.provData) := by
  have hready : ¬(s.sec.lc ≠ lcFACTORY ∨ ¬s.nv.otp.wrapped.isEmpty = true) := by
    rw [hnew]
    exact not_or_intro (not_not.mpr hlc) (not_not.mpr rfl)
  unfold programWrapped
  rw [hseed]
  dsimp only
  rw [if_neg hready, if_neg (not_not.mpr hlen), otpOrder_programs _ hvalid hwindows, (endOrder_done _).2.2]
  exact ⟨(endOrder_done _).1, rfl⟩

theorem setMinSeq_accepts {v : W64} {s : State} (hvalid : s.cfg.valid = true) (hwindows : windowsHold s = true)
    (hlc : s.sec.lc = lcPROVISIONED ∨ s.sec.lc = lcDEPLOYED) (hdata : s.sec.provData = [v])
    (hlow : s.nv.otp.minSeq ≤ v.setWidth 32) (hhigh : v.setWidth 32 ≤ s.cfg.imageSeq) :
    setMinSeq s = endOrder lsDONE (s.mOtp fun o => { o with minSeq := v.setWidth 32 }) := by
  unfold setMinSeq
  dsimp only
  rw [hdata, if_neg fun h => hlc.elim h.1 h.2]
  exact (if_neg (not_or_intro (not_not.mpr rfl) (not_or_intro (BitVec.not_lt.mpr hlow) (BitVec.not_lt.mpr hhigh)))).trans
    (otpOrder_programs _ hvalid hwindows)

/-- Settles O34: each order of LC_CTRL whose conditions hold. -/
theorem lifeCycleOrdersWork : Obligations.LifeCycleOrdersWork := by
  refine ⟨?root, ?advance, ?identity, ?cert, ?wrapped, ?minSeq⟩
  case root =>
    intro priv w s hup hright hhost hop hgo hknown hvalid hwindows hblank hnew hlen
    refine ⟨_, congrArg Host.Outcome.next (lcRow_accepts _ hup hright hhost hop hgo hknown), ?_⟩
    rw [answer_ok hsOK 0 hhost, programRoot_accepts (s := s.mPorts _) hvalid hwindows hblank hnew hlen]
    exact endOrder_done _
  case advance =>
    intro priv w s hup hright hhost hop hgo hknown hvalid hwindows hlock hmay hreturn hdecom
    refine ⟨_, congrArg Host.Outcome.next (lcRow_accepts _ hup hright hhost hop hgo hknown), ?_⟩
    rw [answer_ok hsOK 0 hhost, advanceLc_accepts (s := s.mPorts _) hvalid hwindows hlock hmay hreturn hdecom]
    obtain ⟨hstatus, -, hnv⟩ := endOrder_done
      (((s.mPorts _).mOtp fun o => { o with lc := fld w 58 56 }).mSec fun x => { x with nextLc := fld w 58 56 })
    exact ⟨hstatus, endOrder_nextLc _, hnv⟩
  case identity =>
    intro priv w s i hup hright hhost hop hgo hknown hvalid hwindows hlc hfree
    refine ⟨_, congrArg Host.Outcome.next (lcRow_accepts _ hup hright hhost hop hgo hknown), ?_⟩
    rw [answer_ok hsOK 0 hhost]
    exact genIdentity_programs (s := s.mPorts _) hvalid hwindows hlc hfree
  case cert =>
    intro priv w s hup hright hhost hop hgo hknown hkey hlc hsome hlen
    refine ⟨_, _, congrArg Host.Outcome.next (lcRow_accepts _ hup hright hhost hop hgo hknown), rfl, ?_⟩
    rw [answer_ok hsOK 0 hhost]
    exact installCert_checks (s := s.mPorts _) hkey hlc hsome hlen
  case wrapped =>
    intro priv w s uds hup hright hhost hop hgo hknown hvalid hwindows hseed hlc hnew hlen
    refine ⟨_, congrArg Host.Outcome.next (lcRow_accepts _ hup hright hhost hop hgo hknown), ?_⟩
    rw [answer_ok hsOK 0 hhost]
    exact programWrapped_programs (s := s.mPorts _) hvalid hwindows hseed hlc hnew hlen
  case minSeq =>
    intro priv w v s hup hright hhost hop hgo hknown hvalid hwindows hlc hdata hlow hhigh
    refine ⟨_, congrArg Host.Outcome.next (lcRow_accepts _ hup hright hhost hop hgo hknown), ?_⟩
    rw [answer_ok hsOK 0 hhost, setMinSeq_accepts (s := s.mPorts _) hvalid hwindows hlc hdata hlow hhigh]
    obtain ⟨hstatus, -, hnv⟩ := endOrder_done ((s.mPorts _).mOtp fun o => { o with minSeq := v.setWidth 32 })
    exact ⟨hstatus, hnv⟩

/-! ### The unlock and the key loads -/

theorem unlockChallenge_accepts {s : State} (hlock : secLocked s = false) (htest : testState s = true) :
    unlockChallenge s = endOrder lsDONE (s.draw.2.mSec fun x => { x with
      challenge := some (Config.trng s.draws)
      provOut := bytesWords (digestBytes (Config.trng s.draws)) }) := by
  unfold unlockChallenge
  rw [if_neg (ne_true_of_eq_false hlock), if_neg (not_not.mpr htest)]
  rfl

theorem unlockResponse_checks {c : BitVec 384} {s : State} (hlock : secLocked s = false) (htest : testState s = true)
    (hheld : s.sec.challenge = some c) : unlockResponse s =
      if (wordBytes s.sec.provData).length = 96 ∧ Config.ecdsaVerify s.nv.otp.dbgKey
          (Config.sha384 (digestBytes c ++ identityKey s)) (readSign (wordBytes s.sec.provData)) = true then
        endOrder lsDONE ((s.mSec fun x => { x with challenge := none }).mSec fun x => { x with unlocked := true })
      else unlockFailed (endOrder lsVERIFY (s.mSec fun x => { x with challenge := none })) := by
  unfold unlockResponse
  dsimp only
  rw [if_neg (ne_true_of_eq_false hlock), if_neg (not_not.mpr htest), hheld]
  rfl

theorem keyload_opens {slot : Nat} {s : State} (hlock : secLocked s = false) (hkey : hasKey s 0xE3 = true)
    (hslot : slot ≤ 0xDF ∨ slot = 0xFE) (hidle : slotBusy s slot = false) : keyload slot s =
      match openBlob s slot (padTo 64 (wordBytes s.sec.klData)) with
      | none => klEnd klBAD_TAG s
      | some (key, token) =>
        if slot = 0xFE ∧ leNat token ≠ 0 then klEnd klBAD_TAG s
        else klEnd klOK (storeKey slot ⟨key, Config.sha384 token⟩ s) := by
  unfold keyload
  rw [if_neg (not_or_intro (ne_true_of_eq_false hlock) (not_not.mpr hkey)), if_neg (by omega)]
  exact if_neg (ne_true_of_eq_false hidle)

/-- A slot that no key may stand in: the data is dropped, the load is counted, and SEC is as before. -/
theorem keyload_badSlot {slot : Nat} {s : State} (hlock : secLocked s = false) (hkey : hasKey s 0xE3 = true)
    (hhigh : 0xDF < slot) (hslot : slot ≠ 0xFE) :
    (keyload slot s).sec = { s.sec with klStatus := klBAD_SLOT, klData := [] } := by
  unfold keyload
  rw [if_neg (not_or_intro (ne_true_of_eq_false hlock) (not_not.mpr hkey)), if_pos ⟨hhigh, hslot⟩]
  rfl

theorem execKeyload_accepts {priv : BitVec 2} {w : W64} {s : State} (hup : s.ports.rstLow = false)
    (hright : isOperator s priv = true) (hgo : bit w 55 = true) :
    exec (.keyload priv w) s = .next (keyload (fld w 63 56) (answer hsOK 0 s)) :=
  congrArg Host.Outcome.next ((operatorWrite_allowed _ hup hright).trans (if_pos hgo))

/-- Settles O35: the challenge, its response, and both ends of a key load. -/
theorem unlockAndKeysLoad : Obligations.UnlockAndKeysLoad := by
  refine ⟨?challenge, ?response, ?load, ?badSlot⟩
  case challenge =>
    intro priv w s hup hright hhost hop hgo hknown hlock htest
    refine ⟨_, congrArg Host.Outcome.next (lcRow_accepts _ hup hright hhost hop hgo hknown), ?_⟩
    rw [answer_ok hsOK 0 hhost, unlockChallenge_accepts (s := s.mPorts _) hlock htest]
    exact ⟨rfl, rfl, rfl⟩
  case response =>
    intro priv w s c hup hright hhost hop hgo hknown hlock htest hheld
    refine ⟨_, _, congrArg Host.Outcome.next (lcRow_accepts _ hup hright hhost hop hgo hknown), rfl, ?_⟩
    rw [answer_ok hsOK 0 hhost]
    exact unlockResponse_checks (s := s.mPorts _) hlock htest hheld
  case load =>
    intro priv w s hup hright hhost hgo hlock hkey hslot hidle
    refine ⟨_, _, execKeyload_accepts hup hright hgo, rfl, ?_⟩
    rw [answer_ok hsOK 0 hhost]
    exact keyload_opens (s := s.mPorts _) hlock hkey hslot hidle
  case badSlot =>
    intro priv w s hup hright hhost hgo hlock hkey hhigh hslot
    refine ⟨_, execKeyload_accepts hup hright hgo, ?_⟩
    rw [answer_ok hsOK 0 hhost]
    exact keyload_badSlot (s := s.mPorts _) hlock hkey hhigh hslot

/-! ### Tokens, reports and the words read one by one -/

/-- A token that the key of the plan knows binds the tenant. -/
theorem tokenPresent_binds {c i : Nat} {p : Plan} {k : KeySlot} {s : State} (hfree : s.sec.tokBlockUntil ≤ s.now.toNat)
    (hplan : planOf s c = some (i, p)) (hkey : Tab.get s.sec.keys p.hdr.keyId = some k)
    (htoken : k.token = Config.sha384 (padTo 16 (wordBytes s.sec.tokData))) :
    (tokenPresent c s).sec = { s.sec with tokData := [], bound := some c } := by
  have hplan' (f : Sec → Sec) : planOf (s.mSec f) c = some (i, p) := hplan
  unfold tokenPresent
  dsimp only
  rw [State.mSec_now, State.mSec_sec, if_neg (Nat.not_lt.mpr hfree), hplan']
  refine (congrArg State.sec (if_pos ?known)).trans rfl
  case known =>
    dsimp only
    rw [hkey]
    exact decide_eq_true htoken

theorem mSar_sec (f : Sec → Sec) (s : State) : (s.mSar f).sec = f s.sec := (same_stateChanged ..).sec (by decide)

theorem sarGo_starts {c : Nat} {s : State} (hlock : secLocked s = false) (hkey : s.sec.dDerived = true)
    (hplan : (reportPlan s c).isNone = false) :
    (sarGo c s).sec = { s.sec with sarState := srBUILDING, sarCtx := c, sarWords := [] } := by
  unfold sarGo
  rw [if_neg (by rw [hlock, hkey, hplan]; decide), mSar_sec]

/-- A report under construction is its body, signed by the attestation key. -/
theorem sarBuildDone_signs {s : State} {p : Plan} (hbuild : s.sec.sarState = srBUILDING)
    (hplan : reportPlan s s.sec.sarCtx = some p) : (sarBuildDone s).sec = { s.sec with
      sarState := srREADY
      sarWords := bytesWords (sarBody s s.sec.sarCtx p ++
        signBytes (Config.ecdsaSign (keySlot s 0xE1) (Config.sha384 (sarBody s s.sec.sarCtx p)) s.draws)) } := by
  unfold sarBuildDone
  rw [if_neg (not_not.mpr hbuild), hplan]
  dsimp only
  rw [(same_bump ..).sec (by decide), mSar_sec]
  rfl

/-- A read of the next word answers it, and leaves the rest. -/
theorem readNext_answers (l : List W64) (f : List W64 → Sec → Sec) {s : State} (hhost : s.hx.hostOk = true) :
    (readNext l (fun t s => s.mSec (f t)) s).ports.hrp = ⟨BitVec.ofNat 2 hsOK, l.headD 0⟩ ∧
      (readNext l (fun t s => s.mSec (f t)) s).sec = f l.tail s.sec := by
  unfold readNext
  rw [answer_ok hsOK _ (s := s.mSec _) hhost]
  exact ⟨rfl, rfl⟩

theorem tenantWrite_allowed {priv : BitVec 2} {s : State} (f : State → State) (hup : s.ports.rstLow = false)
    (hright : priv = 0 ∨ isOperator s priv = true) : tenantWrite priv f s = f (answer hsOK 0 s) :=
  (hrp_up _ hup).trans (if_pos hright)

/-- Settles O36: the binding and its lapse, the report from its start to its words, and the words of the other three ports. -/
theorem tokensAndReportsServed : Obligations.TokensAndReportsServed := by
  refine ⟨?token, ?lapse, ?sarGo, ?sarBuild, ?sarData, ?certData, ?provOut, ?dumpKey⟩
  case token =>
    intro priv w s i p k hup hright hhost hgo hfree hplan hkey htoken
    refine ⟨_, congrArg Host.Outcome.next ((tenantWrite_allowed _ hup hright).trans (if_pos hgo)), ?_⟩
    rw [answer_ok hsOK 0 hhost]
    exact tokenPresent_binds (s := s.mPorts _) hfree hplan hkey htoken
  case lapse => exact fun s => ⟨_, rfl, rfl⟩
  case sarGo =>
    intro priv w s hup hright hhost hgo hlock hkey hplan
    refine ⟨_, congrArg Host.Outcome.next ((hrp_up _ hup).trans ((if_pos hright).trans (if_pos hgo))), ?_⟩
    rw [answer_ok hsOK 0 hhost]
    exact sarGo_starts (s := s.mPorts _) hlock hkey hplan
  case sarBuild => exact fun s p hbuild hplan => ⟨_, rfl, sarBuildDone_signs hbuild hplan⟩
  case sarData =>
    intro priv s hup hright hhost
    exact ⟨_, congrArg Host.Outcome.next ((hrp_up _ hup).trans (if_pos hright)),
      readNext_answers s.sec.sarWords (fun t x => { x with sarWords := t }) hhost⟩
  case certData =>
    intro priv s hup hright hhost
    refine ⟨_, congrArg Host.Outcome.next ((hrp_up _ hup).trans (if_pos hright)), ?_⟩
    rw [answer_ok hsOK _ (s := s.mSec _) hhost]
    exact ⟨rfl, rfl⟩
  case provOut =>
    intro priv s hup hright hhost
    exact ⟨_, congrArg Host.Outcome.next ((hrp_up _ hup).trans (if_pos hright)),
      readNext_answers s.sec.provOut (fun t x => { x with provOut := t }) hhost⟩
  case dumpKey =>
    intro priv s hup hright hhost hheld
    refine ⟨_, congrArg Host.Outcome.next ((hrp_up _ hup).trans (if_neg (not_not.mpr hright))), ?_⟩
    rw [if_neg (ne_true_of_eq_false hheld)]
    exact readNext_answers s.sec.dumpKey (fun t x => { x with dumpKey := t }) hhost

end Sys2Proof.Machine
end

section
/-!
The obligations of this part at work: concrete states that meet the conditions of their clauses.
-/
namespace Sys2Proof.Machine

/-! ### Orders of the host in FACTORY -/

/-- A die in FACTORY whose host is up, with the configuration as given. -/
def configuredState (f : Cfg → Cfg) : State := (factoryState id).mCfg f

/-- O21 at work: RESET_PART of an operator starts the reset of the part. -/
theorem configuredState_resets :
    ∃ t, exec (.resetPart 1 (word [put 63 60 7])) (configuredState fun c => { c with inService := true }) = .next t ∧
      t.ct.part = .reset := by
  obtain ⟨-, -, -, -, -, -, part⟩ := hostOrdersStart
  obtain ⟨t, ht, hpart, -⟩ := part 1 (word [put 63 60 7]) (configuredState fun c => { c with inService := true }) rfl
    (by decide) rfl (by decide) rfl rfl
  exact ⟨t, ht, hpart⟩

/-- O26 at work: a soft test of Cluster Memory starts. -/
theorem factoryState_tests :
    ∃ t, exec (.hostBist 1 (word [put 63 63 1, put 62 60 1, put 59 58 1])) (factoryState id) = .next t ∧
      t.fr.bistStatus = bsRUNNING ∧ t.fr.bistScope = 1 ∧ t.fr.bistSoft = true := by
  obtain ⟨start, -⟩ := arraysTestedAndFused
  obtain ⟨t, ht, hstatus, hscope, hsoft⟩ := start 1 (word [put 63 63 1, put 62 60 1, put 59 58 1]) (factoryState id) rfl
    (by decide) rfl (by decide) (by decide) (by decide) (by decide) (by decide) (by decide) rfl rfl
  exact ⟨t, ht, hstatus, hscope.trans (by decide), hsoft.trans (by decide)⟩

/-- O28 at work: a load of 100 bytes opens where a bank has that room. -/
theorem patternArea_opens :
    ∃ t, exec (.pkgOpen 1 (word [put 63 62 1, put 31 0 100])) (configuredState fun c => { c with patternArea := some (0, 4096) }) =
      .next t ∧ t.fr.pkgState = pkRECEIVING ∧ t.fr.pkgLen = 100 := by
  obtain ⟨opens, -⟩ := patternPackagesInstall
  obtain ⟨t, ht, hstate, -, -, hlen, -⟩ := opens 1 (word [put 63 62 1, put 31 0 100])
    (configuredState fun c => { c with patternArea := some (0, 4096) }) rfl (by decide) rfl (by decide) (by decide) (by decide)
    rfl (by decide) (by decide) (by decide)
  exact ⟨t, ht, hstate, hlen.trans (by decide)⟩

/-- O35 at work: the first challenge is the first value of the generator. -/
theorem factoryState_challenges :
    ∃ t, exec (.unlockChallenge 1 (word [put 63 60 7, put 59 59 1])) (configuredState fun c => { c with stage := 2 }) = .next t ∧
      t.sec.challenge = some (Config.trng 0) := by
  obtain ⟨challenge, -⟩ := unlockAndKeysLoad
  obtain ⟨t, ht, -, hheld, -⟩ := challenge 1 (word [put 63 60 7, put 59 59 1]) (configuredState fun c => { c with stage := 2 }) rfl
    (by decide) rfl (by decide) (by decide) (by decide) (by decide) (by decide)
  exact ⟨t, ht, hheld⟩

/-- A PROVISIONED die inside the windows, whose Image is valid. -/
def provisionedState : State :=
  (((configuredState fun c => { c with stage := 2, valid := true }).mTs fun t => { t with windowNow := true, windowPrev := true }).mSec
    fun x => { x with lc := lcPROVISIONED }).mOtp fun o => { o with lc := lcPROVISIONED }

/-- O34 at work: a PROVISIONED die becomes DEPLOYED. -/
theorem provisionedState_advances :
    ∃ t, exec (.advance 1 (word [put 63 60 2, put 59 59 1, put 58 56 3])) provisionedState = .next t ∧
      t.sec.lcStatus = lsDONE ∧ t.sec.nextLc = lcDEPLOYED ∧ t.nv.otp.lc = lcDEPLOYED := by
  obtain ⟨-, advance, -⟩ := lifeCycleOrdersWork
  obtain ⟨t, ht, hstatus, hnext, hnv⟩ := advance 1 (word [put 63 60 2, put 59 59 1, put 58 56 3]) provisionedState rfl (by decide) rfl
    (by decide) (by decide) (by decide) rfl (by decide) (by decide) (by decide) (by decide) (by decide)
  refine ⟨t, ht, hstatus, hnext.trans (by decide), ?_⟩
  rw [hnv]
  decide

/-- O36 at work: the provisioning output is read word by word. -/
theorem provOut_reads :
    ∃ t, exec (.provOut 1) ((factoryState id).mSec fun x => { x with provOut := [5, 6] }) = .next t ∧
      t.ports.hrp = ⟨BitVec.ofNat 2 hsOK, 5⟩ ∧ t.sec.provOut = [6] := by
  obtain ⟨-, -, -, -, -, -, provOut, -⟩ := tokensAndReportsServed
  obtain ⟨t, ht, hrp, hsec⟩ := provOut 1 ((factoryState id).mSec fun x => { x with provOut := [5, 6] }) rfl (by decide) rfl
  refine ⟨t, ht, hrp, ?_⟩
  rw [hsec]
  rfl

/-! ### Refusals -/

/-- O59 at work: with RST_N low an operator's SNAP does nothing. -/
theorem reset_ignores_snap : exec (.snap 1 (word [put 63 63 1])) State.reset = .next State.reset :=
  portSilentInReset _ 1 _ rfl rfl

/-- O56 at work: without an unlock no instruction reaches an array. -/
theorem factoryState_locked : exec (.tapInstruction (.other (some 0))) (factoryState id) = .next (factoryState id) := by
  obtain ⟨-, refused, -⟩ := tapGuardsItsInstructions
  exact refused _ _ (by decide)

/-! ### Telemetry and observability -/

/-- A die in FACTORY with one domain in the state given. -/
def poweredState (d : Nat) (st : DomSt) : State := setDomain d st (factoryState id)

/-- O32 at work: FR comes on when its power is good, and fails when it takes too long. -/
theorem poweredState_moves :
    (∃ t, exec (.powerGood 21) (poweredState 21 .poweringUp) = .next t ∧ domainOf t 21 = .on) ∧
      ∃ t, exec (.domainTimeout 21) (poweredState 21 .poweringUp) = .next t ∧ t.ts.failed = 1#24 <<< 21 := by
  obtain ⟨-, -, good, -, fail, -⟩ := powerDomainsMove
  refine ⟨good 21 (poweredState 21 .poweringUp) (by decide) (by decide) (by decide) (by decide), ?_⟩
  obtain ⟨t, ht, hts⟩ := fail 21 (poweredState 21 .poweringUp) (by decide) (by decide) (by decide)
  refine ⟨t, ht, ?_⟩
  rw [hts]
  decide

/-- O33 at work: the first slow round. -/
theorem configuredState_rounds :
    ∃ t, exec .slowRound (configuredState fun c => { c with valid := true }) = .next t ∧ t.ts.rounds = 1 := by
  obtain ⟨round, -⟩ := sensorsReadEachRound
  obtain ⟨t, ht, hrounds, -⟩ := round (configuredState fun c => { c with valid := true }) rfl rfl
  exact ⟨t, ht, hrounds⟩

/-- O38 at work: a snapshot takes the count of the event 1024. -/
theorem poweredState_snaps :
    ∃ t, exec (.snap 1 (word [put 63 63 1])) (bump 1024 3 (poweredState 23 .on)) = .next t ∧ t.ob.snapSeq = 1 ∧
      t.ob.completed = [(1024, 3)] := by
  obtain ⟨order, -⟩ := countersSnapAndWatch
  obtain ⟨t, ht, hseq, hcompleted, -⟩ := order 1 (word [put 63 63 1]) (bump 1024 3 (poweredState 23 .on)) (by decide) (by decide)
    (by decide) (by decide) (by decide)
  exact ⟨t, ht, hseq.trans (by decide), hcompleted.trans (by decide)⟩

/-- O57 at work: an operator's first dump. -/
theorem poweredState_dumps :
    ∃ t, exec (.dumpGo (.host 1 (word [put 63 63 1]))) (poweredState 23 .on) = .next t ∧ t.ob.dumpState = dsRUNNING ∧
      t.ob.dumpSeq = 1 := by
  obtain ⟨host, -⟩ := dumpTriggersStart
  obtain ⟨t, ht, hstate, hseq, -⟩ :=
    (host 1 (word [put 63 63 1]) (poweredState 23 .on) rfl (by decide) rfl (by decide) (by decide)).1 (by decide)
  exact ⟨t, ht, hstate, hseq.trans (by decide)⟩

/-! ### The Hitch -/

/-- A Hitch port waits at the first try of a training. -/
def lockedPort : State := (factoryState id).mHx fun h => { h with ports := h.ports.set 1 { Port.reset with st := .lock } }

/-- O22 at work: an attempt that takes too long begins again at DETECT. -/
theorem lockedPort_tries_again :
    ∃ t, exec (.trainingAttemptTimeout 1) lockedPort = .next t ∧ (hxPort t 1).st = .detect := by
  obtain ⟨-, again, -⟩ := hitchPortsTrain
  obtain ⟨t, ht, -, hst⟩ := again 1 lockedPort rfl (by decide) (by decide) (by decide) (by decide) (by decide)
  exact ⟨t, ht, hst.trans (by decide)⟩

/-- O25 at work: an operator arrives at barrier 3. -/
theorem configuredState_arrives :
    ∃ t, exec (.hostBarrierArrive 1 (word [put 63 60 3, put 59 59 1])) (configuredState fun c => { c with inService := true }) =
      .next t ∧ t.hx.lastBarrier = 3 ∧ (barrierOf t 3).st = .waiting := by
  obtain ⟨arrive, -⟩ := barriersRelease
  obtain ⟨t, ht, hlast, hbarrier⟩ := arrive 1 (word [put 63 60 3, put 59 59 1]) (configuredState fun c => { c with inService := true })
    rfl (by decide) rfl (by decide) (by decide) rfl (by decide)
  have h3 : fld (word [put 63 60 3, put 59 59 1]) 63 60 = 3 := by decide
  rw [h3] at hlast hbarrier
  exact ⟨t, ht, hlast, congrArg Barrier.st hbarrier⟩

end Sys2Proof.Machine
end
